-- ==== Sys2Proof/Word.lean ====
section
/-!
DEFINITION. Sys2Proof/Word.lean: the word types of the SC7128 model and the sparse table its state is made of.
-/

namespace Sys2Proof

/-- One byte of a memory or of a bus message. -/
abbrev Byte := BitVec 8
/-- A 64-bit register or memory word. -/
abbrev Word := BitVec 64
/-- A shelfmark (R65): [19:14] EDITION, [13:0] ENTRY. -/
abbrev Shelf := BitVec 20
/-- A Catalogue descriptor, its 64 bytes little-endian (R67). -/
abbrev RawDesc := BitVec 512
/-- A Harvest record, its 32 bytes little-endian (R218). -/
abbrev Rec := BitVec 256

/-- The null shelfmark (R66). -/
abbrev nullShelf : Shelf := 0xFFFFF

/-- A sparse table keyed by numbers: keys strictly rising, no entry equal to what an unlisted key reads as. -/
abbrev Tab (α : Type) := List (Nat × α)

/-- What an unlisted key of a table reads as is given at each read. -/
def Tab.get {α : Type} (d : α) : Tab α → Nat → α
  | [], _ => d
  | (k', v) :: r, k => if k' = k then v else Tab.get d r k

/-- The table without key `k`. -/
def Tab.del {α : Type} : Tab α → Nat → Tab α
  | [], _ => []
  | (k', v) :: r, k => if k' = k then Tab.del r k else (k', v) :: Tab.del r k

/-- The table with `(k, v)` at its place in rising order of keys. -/
def Tab.ins {α : Type} : Tab α → Nat → α → Tab α
  | [], k, v => [(k, v)]
  | (k', v') :: r, k, v => if k' < k then (k', v') :: Tab.ins r k v else (k, v) :: (k', v') :: r

/-- Write `v` at key `k`; the value an unlisted key reads as removes the entry, so equal tables are equal data. -/
def Tab.set {α : Type} [DecidableEq α] (d : α) (t : Tab α) (k : Nat) (v : α) : Tab α :=
  if v = d then t.del k else (t.del k).ins k v

/-- Strictly rising keys above a bound. -/
def Tab.above {α : Type} : Nat → Tab α → Bool
  | _, [] => true
  | b, (k, _) :: r => decide (b ≤ k) && Tab.above (k + 1) r

/-- The canonical form of a table: keys strictly rising, no entry equal to the unlisted value. -/
def Tab.wf {α : Type} [DecidableEq α] (d : α) (t : Tab α) : Bool :=
  Tab.above 0 t && t.all (fun e => decide (e.2 ≠ d))

end Sys2Proof
end

