-- ==== Sys2Proof/Syntax.lean ====
section
/-!
DEFINITION. Sys2Proof/Syntax.lean: the commands and events of the SC7128, one constructor per row of the table of
operations and events. The first operand `dt` of each is the time, in tq, that has passed since the command before it
(DESIGN CHOICE, log entry 1); operands that name something only the environment decides (levels seen, error-correction
outcomes, measured values) are log entry 2. Contact-check operands are in signed 10 mV units: for a closure the level on the far
side, the ball or the bus; for an opening the drop across the contact (R188).
-/

namespace Sys2Proof

/-- Register windows 0 to 135: pins 0 to 127, spare windows S_0 to S_7 at 128 + c (R22). -/
abbrev WinId := Fin 136
/-- Physical slots, numbered 17c + k (R290). -/
abbrev SlotId := Fin 136
/-- Clusters 0 to 7 (R21). -/
abbrev CluId := Fin 8
/-- BAR 0 pages: page p lies at BAR 0 address p * 0x1000 (R360 to R362). -/
abbrev PageId := Fin 8192
/-- Rails 0 to 11 of R293. -/
abbrev RailId := Fin 12

/-- What a Sluice destination or a fetched descriptor serves (R95): the current path, a successor reached through NEXT,
ALT or the call stack, the repeat of the current segment, a jump-target slot, or entry 1's landing. -/
inductive Role where
  | path | next | alt | ret | rep | jump (k : BitVec 2) | landing
deriving DecidableEq, Repr

/-- What error correction found in a word read (R271). -/
inductive Ecc where
  | clean | corrected | bad
deriving DecidableEq, Repr

/-- What error correction found in the read of a head (R271, R272): bit i of `bad` and `laneBad` marks an uncorrectable word of its i-th slice;
`corrected`, a word of it was corrected. -/
structure HeadReads where
  bad : Word := 0
  laneBad : Word := 0
  corrected : Bool := false
deriving DecidableEq, Repr

/-- What error correction found at an ARM (R271, R272): words of entry 0's vectors and its lane units, by their place in the segment, and Catalogue
entries, uncorrectable or corrected; and the heads of entry 1's landing and of the first segment. -/
structure ArmReads where
  words : List Nat := []
  lanes : List Nat := []
  entries : List Nat := []
  wordsFixed : List Nat := []
  lanesFixed : List Nat := []
  entriesFixed : List Nat := []
  landing : HeadReads := {}
  path : HeadReads := {}
deriving DecidableEq, Repr

/-- What error correction found in a jump target's descriptor and in its head (R271, R272). -/
structure JumpReads where
  entry : Ecc := .clean
  head : HeadReads := {}
deriving DecidableEq, Repr

/-- What error correction found in the vector word and in the lane unit that a vector takes (R271, R272). -/
structure WordReads where
  word : Ecc := .clean
  lane : Ecc := .clean
deriving DecidableEq, Repr

/-- What error correction found in the Catalogue store's entry, and before it in the Catalogue cache (R272). -/
structure EntryReads where
  store : Ecc := .clean
  cache : Ecc := .clean
deriving DecidableEq, Repr

/-- What error correction found in the first and in the last word of a host write, where it covers one only in part (R271). -/
structure PartReads where
  first : Ecc := .clean
  last : Ecc := .clean
deriving DecidableEq, Repr

/-- What error correction found for the frames a completion brings: in the key slot, and in the streaming ring's words that a payload covers only
in part (R271, R272). -/
structure IntakeReads where
  key : Ecc := .clean
  part : PartReads := {}
deriving DecidableEq, Repr

/-- A borrowed row's copy: of the bank, or of stack M0 or M1 (R283), and what error correction found in its words, by their place in the row. -/
structure RowReads where
  stk : Bool
  found : List (Nat × Ecc) := []
deriving DecidableEq, Repr

/-- What the keeper's VBAT domain holds at power-on (R317, R318): a mesh detection made without power, whether the mesh still reads open, whether
the VBAT sentinel is lost. -/
structure Unpowered where
  mesh : Bool := false
  meshOpen : Bool := false
  sentinel : Bool := false
deriving DecidableEq, Repr

/-- A JTAG access (R406): internal scan or a DBG register; through the boundary-scan chain, a sample of its balls, levels driven in place of the part's,
ball by ball, or the return to the part's own; or a reset of the TAP. -/
inductive JtagOp where
  | core | sample | drive (levels : List Bool) | release | reset
deriving DecidableEq, Repr

/-- An SMBus transaction's kind (R407): a write, or a read, with or without a packet error code. -/
structure SmbusOp where
  write : Bool := false
  pec : Bool := false
deriving DecidableEq, Repr

/-- How the two ends of a link are clocked (R332): a common reference, separate ones without spread spectrum, or with it. -/
inductive Clocking where
  | common | separate | spread
deriving DecidableEq, Repr

/-- An internal master's access that is concurrent with the host's to a word of the working store (R277, R278): the master, which word of the
host's access, what the master writes (none: it reads), and whether the host's access cycle began no earlier. -/
structure Meet where
  other : BitVec 3
  word : Nat
  data : Option Word
  later : Bool
deriving DecidableEq, Repr

/-- What a BAR 4 write finds: its partly covered words, and a concurrent access. -/
structure PortReads where
  part : PartReads := {}
  meet : Option Meet := none
deriving DecidableEq, Repr

/-- How a read completion ends (R132): successful, Unsupported Request, Completer Abort, or poisoned data. -/
inductive CplStatus where
  | ok | unsupported | abort | poisoned
deriving DecidableEq, Repr

/-- The level registers of R178 written by LEVEL_WRITE: AFE.DRV_LVL, AFE.CMP_LVL, AFE.BLEED. -/
inductive LvlReg where
  | drv | cmp | bleed
deriving DecidableEq, Repr

/-- The collectors of R290: one per physical slot, one per cluster, one for the device. -/
inductive Collector where
  | slot (k : SlotId) | clu (c : CluId) | dev
deriving DecidableEq, Repr

/-- The commands and events of the part, one constructor per row of opcode_table.json, in the table's order. -/
inductive Instr where
  /-- POWER_OFF (R48): Mode command POWER_OFF removes AFE channel power from a PARKED or SERVICE window, or is a no-op in OFF. -/
  | powerOff (dt : Nat) (w : WinId) (tag : Byte) (check : BitVec 16)
  /-- PARK (R48): Mode command PARK powers the AFE channel from OFF, or takes a READY or SERVICE window to PARKED. -/
  | park (dt : Nat) (w : WinId) (tag : Byte) (check : BitVec 16)
  /-- CONNECT (R48): Mode command CONNECT runs the contact check, closes the connecting switch and moves the window to READY. -/
  | connect (dt : Nat) (w : WinId) (tag : Byte) (check : BitVec 16) (calCheck : BitVec 16)
  /-- ARM (R50): Mode command ARM checks the burst, prefetches the heads, fills the Sluice and admits the intake demand. -/
  | arm (dt : Nat) (w : WinId) (tag : Byte) (reads : ArmReads)
  /-- DISARM (R46): Mode command DISARM cancels an ARM that is in transition, returns an ARMED window to READY, or acts as STOP in RUN. -/
  | disarm (dt : Nat) (w : WinId) (tag : Byte)
  /-- START (R101): Mode command START written to CTL.MODE_CMD makes an ARMED window RUN from its arrival GT and schedules the first vector. -/
  | start (dt : Nat) (w : WinId) (tag : Byte)
  /-- STOP (R49): Mode command STOP disarms an ARMED window, or schedules a run-out to the landing in RUN under the stop policy. -/
  | stop (dt : Nat) (w : WinId) (tag : Byte)
  /-- SERVICE (R48): Mode command SERVICE moves a PARKED or READY window to SERVICE. -/
  | service (dt : Nat) (w : WinId) (tag : Byte) (check : BitVec 16)
  /-- MODE_CMD_RESERVED (R53): A reserved mode command code is refused with reason BAD_CMD. -/
  | modeCmdReserved (dt : Nat) (w : WinId) (code : BitVec 4) (tag : Byte)
  /-- MODE_BCAST (R47): A write of CLU_c.MODE_BCAST delivers one command and tag to each selected window, taken together in window order. -/
  | modeBcast (dt : Nat) (c : CluId) (cmd : BitVec 4) (tag : Byte) (mask : BitVec 17)
    (checks : List (BitVec 16 × BitVec 16 × ArmReads))
  /-- MODE_TRANSITION_DONE (R48): A mode transition reaches its destination mode and posts its result. -/
  | modeTransitionDone (dt : Nat) (w : WinId)
  /-- SWITCH_TIMEOUT (R189): A switch that has not reached its commanded state 40 µs after actuation fails the operation with SWITCH_FAULT. -/
  | switchTimeout (dt : Nat) (w : WinId)
  /-- BURST_START (R101): The first vector of a burst starts at GT_first, and the formatter takes over the driver. -/
  | burstStart (dt : Nat) (w : WinId)
  /-- LANDING_END (R48): The last vector of the landing ends, and the window enters READY, holding the last drive state, with its rings flushed. -/
  | landingEnd (dt : Nat) (w : WinId)
  /-- READY_DRIVE_WRITE (R44): A write of CTL.READY_DRIVE.STATE changes the static drive within 1 µs in READY or ARMED, or is stored for the next entry to READY. -/
  | readyDriveWrite (dt : Nat) (w : WinId) (val : BitVec 32)
  /-- AFE_PWR_REQ_ON (R54): A write of CLU_c.AFE_PWR.REQ = 1 starts powering the cluster's AFE die. -/
  | afePwrReqOn (dt : Nat) (c : CluId)
  /-- AFE_PWR_REQ_OFF (R54): A write of CLU_c.AFE_PWR.REQ = 0 powers the AFE die off, or is refused unless all 17 windows are in OFF. -/
  | afePwrReqOff (dt : Nat) (c : CluId)
  /-- AFE_POWER_UP_DONE (R54): The cluster's AFE die completes power-up, and STATE reads ON. -/
  | afePowerUpDone (dt : Nat) (c : CluId)
  /-- DESCRIPTOR_FETCH (R83): The sequencer fetches a descriptor and checks it again, holding it as failed if a check fails. -/
  | descriptorFetch (dt : Nat) (w : WinId) (role : Role) (ecc : EntryReads)
  /-- STACK_READ_DONE (R96): A stack read of vectors or lane for a pin completes and its data is pushed into the Sluice. -/
  | stackReadDone (dt : Nat) (w : WinId) (role : Role) (n : Nat) (bad : Word) (laneBad : Word) (corrected : Bool)
  /-- DECISION_POINT (R90): Output vector L_out − 64 of a play starts, and the sequencer fixes what starts at the boundary of that play. -/
  | decisionPoint (dt : Nat) (w : WinId)
  /-- PLAY_BOUNDARY (R91): A play ends and the chosen successor, repeat, jump target or landing starts, with its stack effect and its marks. -/
  | playBoundary (dt : Nat) (w : WinId)
  /-- VECTOR_START (R149): A vector starts at t_v, and its edges, drive transitions and strobe are placed from its time-set and period. -/
  | vectorStart (dt : Nat) (w : WinId) (ecc : WordReads)
  /-- STROBE_CLOSE (R198): A strobe closes, and the vector's verdict or capture is formed, counted, logged and handed on. -/
  | strobeClose (dt : Nat) (w : WinId) (levels : List (BitVec 2)) (final : BitVec 2) (drained : Nat)
  /-- VERDICT_GAP_WRITE (R26): When the verdict return crossing next has room, one GAP record of kind VERDICT_LOST is written. -/
  | verdictGapWrite (dt : Nat) (w : WinId)
  /-- QUEUE_DROP_GAP (R211): When the pin record queue next has room, a GAP record of kind QUEUE_DROP with the counts is entered first. -/
  | queueDropGap (dt : Nat) (w : WinId)
  /-- CAPTURE_FLUSHED (R209): The burst's bitmap and log are wholly in the stack, and CAP.STAT.FLUSHED sets. -/
  | captureFlushed (dt : Nat) (w : WinId)
  /-- JUMP_REQ (R97): A host write of SEQ.JUMP_REQ with GO queues a jump request naming a slot, or drops it. -/
  | jumpReq (dt : Nat) (w : WinId) (slot : BitVec 2)
  /-- JUMP_CLR (R99): A write of SEQ.JUMP_CLR empties the pending jump queue. -/
  | jumpClr (dt : Nat) (w : WinId)
  /-- JUMP_TGT_WRITE (R98): A write of SEQ.JUMP_TGT[t] discards the old head and, in ARMED or RUN, fetches and judges the new target. -/
  | jumpTgtWrite (dt : Nat) (w : WinId) (k : BitVec 2) (val : BitVec 32)
  /-- JUMP_HEAD_READY (R98): The head of an enabled jump target arrives in the Sluice, and the slot reads READY. -/
  | jumpHeadReady (dt : Nat) (w : WinId) (k : BitVec 2) (reads : JumpReads)
  /-- HOST_FLAG_WRITE (R72): A write of SEQ.HOST_FLAG sets all eight host flags at its arrival GT. -/
  | hostFlagWrite (dt : Nat) (w : WinId) (val : Byte)
  /-- HOST_FLAG_SET (R72): A write of SEQ.HOST_FLAG_SET sets the named host flags. -/
  | hostFlagSet (dt : Nat) (w : WinId) (val : Byte)
  /-- HOST_FLAG_CLR (R72): A write of SEQ.HOST_FLAG_CLR clears the named host flags. -/
  | hostFlagClr (dt : Nat) (w : WinId) (val : Byte)
  /-- FAB_ROUTE_WRITE (R106): A write of CLU_c.FAB_ROUTE[i] changes a reaction route at one GT, and the input takes INIT. -/
  | fabRouteWrite (dt : Nat) (c : CluId) (i : Byte) (val : BitVec 32)
  /-- FAB_EXPORT_WRITE (R107): A write of CLU_c.FAB_EXPORT[e] changes the signal that an export presents to BRIDGE routes, at one GT. -/
  | fabExportWrite (dt : Nat) (c : CluId) (e : BitVec 3) (val : BitVec 32)
  /-- FABRIC_INPUT_CHANGE (R106): A reaction input takes the source's new decision at t_s + LAT. -/
  | fabricInputChange (dt : Nat) (w : WinId) (i : BitVec 4)
  /-- HOLDING_RESUME_POINT (R139): A holding pass reaches its resume point, and the pass is made the last if the Sluice is supplied. -/
  | holdingResumePoint (dt : Nat) (w : WinId)
  /-- HOLDING_PASS_END (R140): A holding pass ends, and another pass follows, or the pin resumes under its policy, or the landing starts for a stop. -/
  | holdingPassEnd (dt : Nat) (w : WinId)
  /-- HEADROOM_UPDATE (R32): Every 1 µs the monitor posts the cluster's capacity and headroom reading. -/
  | headroomUpdate (dt : Nat) (c : CluId) (capacity : BitVec 12)
  /-- INT_PROD_WRITE (R121): A write of SLU.INT_PROD posts new intake descriptors, or is refused with PROD_OVER and breaks the stream. -/
  | intProdWrite (dt : Nat) (w : WinId) (val : BitVec 32)
  /-- INTAKE_READ_REQUEST (R129): The intake engine reserves space and credit and issues a read request once space, credit and a tag allow it. -/
  | intakeReadRequest (dt : Nat)
  /-- READ_COMPLETION (R131): A read completion arrives and is written into its reserved space, and frames are parsed in byte-stream order. -/
  | readCompletion (dt : Nat) (tag : Nat) (data : List (Byte)) (status : CplStatus) (reads : IntakeReads)
  /-- CONS_INDEX_POST (R121): The intake consumer index is posted to host memory, at most once per microsecond per pin. -/
  | consIndexPost (dt : Nat) (w : WinId)
  /-- CPL_TIMEOUT (R132): An intake read completion times out, so the stream breaks with HOST_ERROR. -/
  | cplTimeout (dt : Nat) (tag : Nat)
  /-- INT_RING_WRITE (R121): A write of SLU.INT_RING configures the intake ring, zeros the producer and consumer indices, and clears the skipping state. -/
  | intRingWrite (dt : Nat) (w : WinId) (val : Word)
  /-- SLU_CFG_WRITE (R117): A write of SLU.CFG sets the Sluice size and watermarks, or is refused whole. -/
  | sluCfgWrite (dt : Nat) (w : WinId) (val : BitVec 32)
  /-- TIMEBASE_LOCK (R146): The timebase declares lock, and at bring-up GT and the epoch start at zero. -/
  | timebaseLock (dt : Nat) (replicaFail : Bool)
  /-- LOSS_OF_LOCK (R147): The phase error exceeds 16 tq or five reference cycles are missed, so the timebase enters holdover. -/
  | lossOfLock (dt : Nat) (refMissing : Bool)
  /-- REFERENCE_RETURN (R148): The reference returns in holdover, and the timebase starts slewing to re-lock. -/
  | referenceReturn (dt : Nat) (phase : BitVec 40)
  /-- RELOCK_DONE (R148): The slew has worked off the phase error, and the timebase is locked again. -/
  | relockDone (dt : Nat)
  /-- EPOCH_WRAP (R13): GT wraps from 2^64 − 1 to zero, and the epoch increments. -/
  | epochWrap
  /-- STAGE_CMD (R164): TIM.STAGE_CMD with GO copies the shadows into a pending set and checks it, or refuses it. -/
  | stageCmd (dt : Nat) (w : WinId) (point : BitVec 2)
  /-- STAGE_APPLY (R165): A pending set takes effect at its apply point. -/
  | stageApply (dt : Nat) (w : WinId)
  /-- CAL_MEASURE (R170): TIM.CAL_CMD with OP MEASURE starts a self-calibration measurement without applying the result. -/
  | calMeasure (dt : Nat) (w : WinId)
  /-- CAL_MEASURE_APPLY (R170): TIM.CAL_CMD with OP MEASURE_APPLY starts a measurement whose result is made active. -/
  | calMeasureApply (dt : Nat) (w : WinId)
  /-- RESTORE_SEED (R169): TIM.CAL_CMD with OP RESTORE_SEED reloads the seed channel terms. -/
  | restoreSeed (dt : Nat) (w : WinId)
  /-- CAL_DONE (R170): A calibration measurement completes, is recorded in the history ring and posts its result. -/
  | calDone (dt : Nat) (w : WinId) (terms : BitVec 60) (tj : Byte) (seen : Bool)
  /-- CAL_PATH_WRITE (R171): A write of TIM.CAL_PATH loads the selected path's terms within 1 µs, or is refused. -/
  | calPathWrite (dt : Nat) (w : WinId) (val : BitVec 32)
  /-- DRIFT_MEASURE (R172): Every 10 ms the delay replica is measured and the slot's drift term is updated. -/
  | driftMeasure (dt : Nat) (slot : SlotId) (reading : Int)
  /-- LEVEL_WRITE (R178): A write of drive or compare levels is applied to the DACs, stored in OFF, or refused whole. -/
  | levelWrite (dt : Nat) (w : WinId) (reg : LvlReg) (val : Word)
  /-- LEVEL_SETTLED (R176): The levels settle after a write, and AFE.LVL_STAT.SETTLED reads 1. -/
  | levelSettled (dt : Nat) (w : WinId)
  /-- TERM_WRITE (R179): A write of AFE.TERM changes the termination mode within 1 µs. -/
  | termWrite (dt : Nat) (w : WinId) (val : BitVec 32)
  /-- PMU_CFG_WRITE (R182): A write of PMU.CFG changes the PPMU mode or range, engaging or ending forcing in order, or is refused. -/
  | pmuCfgWrite (dt : Nat) (w : WinId) (val : BitVec 32)
  /-- PMU_SETTLED (R183): The settling time since the last PPMU change has passed. -/
  | pmuSettled (dt : Nat) (w : WinId)
  /-- PMU_MEAS_CMD (R185): PMU.MEAS_CMD with GO starts averaging N ADC samples, or is refused. -/
  | pmuMeasCmd (dt : Nat) (w : WinId) (n : BitVec 16) (wait : Bool)
  /-- PMU_MEAS_DONE (R185): A PPMU measurement finishes and posts its mean, or fails with DISTURBED. -/
  | pmuMeasDone (dt : Nat) (w : WinId)
  /-- PPMU_SAMPLE (R186): The PPMU ADC takes a sample, which updates the threshold flags and feeds the measurement and the reduction. -/
  | ppmuSample (dt : Nat) (w : WinId) (code : BitVec 16) (clamped : Bool)
  /-- CLOSE_CAL (R190): AFE.SW_CMD with OP CLOSE_CAL runs the contact check and closes the slot's K_CAL, in SERVICE only. -/
  | closeCal (dt : Nat) (w : WinId) (check : BitVec 16)
  /-- OPEN_CAL (R190): AFE.SW_CMD with OP OPEN_CAL opens the slot's K_CAL. -/
  | openCal (dt : Nat) (w : WinId) (check : BitVec 16)
  /-- SW_OP_DONE (R189): A switch command completes after actuation and any settling, and posts its result. -/
  | swOpDone (dt : Nat) (w : WinId)
  /-- SW_FLUSH (R192): A write of CLU_c.SW_FLUSH starts writing all 49 live counts to the keeper store. -/
  | swFlush (dt : Nat) (c : CluId)
  /-- SW_FLUSH_DONE (R192): A switch-count flush completes, and DONE reads 1. -/
  | swFlushDone (dt : Nat) (c : CluId)
  /-- SWAP (R195): A write of CLU_c.SWAP with GO starts exchanging a pin window with S_c, or is refused. -/
  | swap (dt : Nat) (c : CluId) (pos : BitVec 4)
  /-- SWAP_DONE (R195): The window exchange completes: PIN_MAP has changed, settings are applied and LAT is recalibrated. -/
  | swapDone (dt : Nat) (c : CluId)
  /-- RETIRE (R196): A write of CLU_c.RETIRE with GO permanently retires the slot that S_c addresses, through a Ledger entry. -/
  | retire (dt : Nat) (c : CluId)
  /-- HARVEST_TAKE (R212): The cluster's Harvest engine takes one record from an input, round-robin, into staging or the window ring. -/
  | harvestTake (dt : Nat) (c : CluId)
  /-- STAGING_DROP_GAP (R213): When two staging slots are free again, the GAP record of kind STAGING_DROP is pushed and the counts are zeroed. -/
  | stagingDropGap (dt : Nat) (c : CluId)
  /-- STAGING_REFILL (R213): The oldest record of the stack ring moves into the bank ring when the bank ring has room. -/
  | stagingRefill (dt : Nat) (c : CluId) (ecc : Ecc) (firstBad : Bool)
  /-- HARVEST_RING_WRITE (R214): A record is popped from staging and written whole into the host ring, with its PHASE, when the ring has room. -/
  | harvestRingWrite (dt : Nat) (c : CluId) (ecc : Ecc) (firstBad : Bool)
  /-- HVS_READY_COAL (R216): The ring level has stayed above zero with READY released for COAL microseconds, so HVS_READY is raised. -/
  | hvsReadyCoal (dt : Nat) (c : CluId)
  /-- PROD_INDEX_POST (R214): The Harvest write pointer is posted to host memory, within 1 µs of the newest record or after every 64 records. -/
  | prodIndexPost (dt : Nat) (c : CluId)
  /-- HVS_CONS_WRITE (R215): A write of HST.HVS_CONS[c] advances the ring's read pointer, or is refused. -/
  | hvsConsWrite (dt : Nat) (c : CluId) (val : BitVec 32)
  /-- HVS_RING_WRITE (R214): A write of HST.HVS_RING[c] configures or enables the ring, zeroing its pointers on enable. -/
  | hvsRingWrite (dt : Nat) (c : CluId) (val : Word)
  /-- CAP_AREA_WRITE (R203): A write of CAP.AREA sets the bitmap and log region sizes, or is refused. -/
  | capAreaWrite (dt : Nat) (w : WinId) (val : BitVec 32)
  /-- COMPARATOR_EDGE (R226): A selected comparator edge occurs, and it is prescaled, dead-time tested, numbered or merged, and captured for stamping. -/
  | comparatorEdge (dt : Nat) (w : WinId) (rising : Bool) (counted : Bool)
  /-- STAMP_TRANSFER (R232): The capture stage moves one stamp into the local buffer, at most one per 1,024 tq. -/
  | stampTransfer (dt : Nat) (w : WinId)
  /-- STAMP_LOST_GAP (R233): A GAP record of kind STAMP_LOST enters the local buffer when room allows. -/
  | stampLostGap (dt : Nat) (w : WinId)
  /-- STAMP_ARM (R235): STP.ARM_CMD with OP ARM arms the stamper at its arrival GT, or is refused. -/
  | stampArm (dt : Nat) (w : WinId)
  /-- STAMP_DISARM (R235): STP.ARM_CMD with OP DISARM disarms the stamper at its arrival GT. -/
  | stampDisarm (dt : Nat) (w : WinId)
  /-- ENGINE_SAMPLE (R251): The trigger engine takes one sample per timebase cycle: it counts, evaluates the arcs and takes at most one transition. -/
  | engineSample (dt : Nat) (w : WinId)
  /-- ACQ_TIMER_EXPIRY (R253): A trigger-engine timer expires in the sample whose GT equals its expiry GT. -/
  | acqTimerExpiry (dt : Nat) (w : WinId) (k : BitVec 2)
  /-- ENGINE_START (R256): ACQ.ENG_CMD with OP START, or a burst start with START_AT_BURST, starts the engine in INIT_STATE. -/
  | engineStart (dt : Nat) (w : WinId)
  /-- ENGINE_STOP (R256): ACQ.ENG_CMD with OP STOP stops sampling and the timers. -/
  | engineStop (dt : Nat) (w : WinId)
  /-- HOST_EVT (R248): A write of ACQ.HOST_EVT with GO delivers a HOST event occurrence to the engine. -/
  | hostEvt (dt : Nat) (w : WinId) (sel : BitVec 3)
  /-- ENGINE_ACTION_EFFECT (R254): A deciding arc's delayed action takes effect at t + 4,096 tq: stamper, reduction, flags or window trigger. -/
  | engineActionEffect (dt : Nat) (w : WinId)
  /-- TRIG_PULSE_END (R255): A trigger-line pulse ends WIDTH cycles after its latest request. -/
  | trigPulseEnd (dt : Nat) (line : BitVec 3)
  /-- RED_ARM (R259): ACQ.RED_CMD with OP ARM arms the min/max reduction, or is refused. -/
  | redArm (dt : Nat) (w : WinId)
  /-- RED_DISARM (R259): ACQ.RED_CMD with OP DISARM disarms the reduction and writes the interval in progress. -/
  | redDisarm (dt : Nat) (w : WinId)
  /-- WIN_ARM (R262): ACQ.WIN_CMD with OP ARM empties the window ring and enters PRE, or is refused. -/
  | winArm (dt : Nat) (w : WinId)
  /-- WIN_ABANDON (R264): ACQ.WIN_CMD with OP ABANDON returns the window to IDLE. -/
  | winAbandon (dt : Nat) (w : WinId)
  /-- SCRUB_STEP (R273): Scrub reads a word, and writes back a corrected word unless a write has reached it. -/
  | scrubStep (dt : Nat) (target : BitVec 5) (ecc : Ecc) (written : Bool)
  /-- BANK_ON (R276): WST.BANK_CMD with STATE ON starts a bank's change to ON, or is refused. -/
  | bankOn (dt : Nat) (b : BitVec 4)
  /-- BANK_RETENTION (R276): WST.BANK_CMD with STATE RETENTION starts a bank's change to RETENTION, or is refused. -/
  | bankRetention (dt : Nat) (b : BitVec 4)
  /-- BANK_OFF (R276): WST.BANK_CMD with STATE OFF starts a bank's change to OFF, or is refused. -/
  | bankOff (dt : Nat) (b : BitVec 4)
  /-- BANK_CHANGE_DONE (R276): A bank completes its power-state change. -/
  | bankChangeDone (dt : Nat) (b : BitVec 4)
  /-- MARCH_START (R281): MCH.MARCH_CMD with OP START starts a march job, or refuses it. -/
  | marchStart (dt : Nat)
  /-- MARCH_ABORT (R286): MCH.MARCH_CMD with OP ABORT ends the job after the current row's copy-back, or at once for a destructive job. -/
  | marchAbort (dt : Nat)
  /-- MARCH_COPY_IN_DONE (R283): The copy-in of a borrowed row completes, and accesses are redirected to the shadow. -/
  | marchCopyInDone (dt : Nat) (row : RowReads)
  /-- MARCH_ROW_TEST_DONE (R283): The test of a borrowed row completes, failures are recorded, and the copy-back starts. -/
  | marchRowTestDone (dt : Nat) (stk : Bool) (failCol : Option (Nat))
  /-- MARCH_COPY_BACK_DONE (R283): The copy-back completes, and the row serves again. -/
  | marchCopyBackDone (dt : Nat) (row : RowReads)
  /-- DESTRUCTIVE_MARCH_DONE (R282): A destructive march of banks completes, leaving them zero with valid check bits. -/
  | destructiveMarchDone (dt : Nat) (fails : List (Nat × Nat × Nat))
  /-- REPAIR_CMD (R289): MCH.REPAIR_CMD with GO checks the request, appends a Ledger entry and starts copying a column to a spare. -/
  | repairCmd (dt : Nat) (b : BitVec 4) (col : BitVec 14)
  /-- REPAIR_SWITCH (R289): The column copy completes, and all rows of the bank switch to the spare at one instant. -/
  | repairSwitch (dt : Nat)
  /-- BAR2_READ (R77): A host BAR 2 read returns stack data, or zeros for tagged, reserved or unavailable regions. -/
  | bar2Read (dt : Nat) (off : BitVec 36) (len : Nat) (ecc : Ecc)
  /-- BAR2_WRITE (R111): A host BAR 2 write lands, or it is dropped when it touches an active segment, a protected area or another guarded region. -/
  | bar2Write (dt : Nat) (off : BitVec 36) (data : List (Byte)) (ecc : PartReads)
  /-- BAR4_READ (R275): A host BAR 4 read returns working-store contents, or zeros for protected banks. -/
  | bar4Read (dt : Nat) (off : BitVec 25) (len : Nat) (ecc : Ecc) (collide : Option Meet)
  /-- BAR4_WRITE (R275): A host BAR 4 write lands in bank 15's scratch area, or is dropped. -/
  | bar4Write (dt : Nat) (off : BitVec 25) (data : List (Byte)) (found : PortReads)
  /-- REG_WRITE (R373): A BAR 0 write to a register that has no row of its own takes effect by its kind, or is dropped if malformed. -/
  | regWrite (dt : Nat) (addr : BitVec 25) (size : Nat) (data : Word)
  /-- PG_EVT_CLEAR (R366): A W1C write of PG_EVT clears latched event bits. -/
  | pgEvtClear (dt : Nat) (page : PageId) (mask : BitVec 32)
  /-- DETECTION_ARRIVAL (R294): A detection record reaches its collector: it is classed, status and log are updated, and reactions start. -/
  | detectionArrival (dt : Nat) (n : Nat) (checks : List (SlotId × BitVec 16))
  /-- FIRST_FAULT_DECIDED (R37): The 64 ns decision window of a first-fault latch closes, and the provisional choice becomes final. -/
  | firstFaultDecided (dt : Nat) (col : Collector)
  /-- CONSEQ_WINDOW_END (R303): The 2 µs consequential window after a block reset ends. -/
  | conseqWindowEnd (dt : Nat)
  /-- SRC_CLR (R304): A CLR write with ACK bits and SEQ clears PEND bits, or is refused with STALE or PERSISTS. -/
  | srcClr (dt : Nat) (src : BitVec 16) (ack : BitVec 4) (seq : BitVec 16)
  /-- REACT_WRITE (R301): A write of a reaction register sets its reactions, or is refused whole. -/
  | reactWrite (dt : Nat) (src : BitVec 16) (val : BitVec 32)
  /-- COMPAT_WRITE (R298): A write of a COMPAT register sets the classification mode and empties the counting window, or is refused. -/
  | compatWrite (dt : Nat) (src : BitVec 16) (val : BitVec 32)
  /-- FIRST_LATCH_CLEAR (R300): A write of 1 to a FIRST register's VALID empties the first-fault latch. -/
  | firstLatchClear (dt : Nat) (col : Collector)
  /-- ALIVE_TOGGLE (R305): ALIVE toggles at its period while the heartbeat is present. -/
  | aliveToggle (dt : Nat)
  /-- HEARTBEAT_LOSS (R305): The sequencer die's heartbeat has been missing for 10 µs, so ALIVE freezes and ALIVE_STOPPED is raised. -/
  | heartbeatLoss (dt : Nat)
  /-- ALIVE_RESUME (R305): A write of FLT.ALIVE_CMD.RESUME restarts the toggling, or is refused. -/
  | aliveResume (dt : Nat)
  /-- TRAP_ACK (R306): A write of FLT.TRAP_ACK releases TRAP_N. -/
  | trapAck (dt : Nat)
  /-- LOG_CONS_WRITE (R307): A write of FLT.LOG_CONS advances the event log's read pointer, or is refused. -/
  | logConsWrite (dt : Nat) (val : BitVec 32)
  /-- INJ_CMD (R308): INJ.CMD with GO requests an injected detection, or is refused with RANGE or BUSY. -/
  | injCmd (dt : Nat)
  /-- INJECTION_DELIVERY (R308): An injected detection reaches its source and is processed as a real one, with the DRY_RUN limits. -/
  | injectionDelivery (dt : Nat)
  /-- MSIX_UNMASK (R343): An MSI-X vector's mask clears while its bit is pending, so one message is sent. -/
  | msixUnmask (dt : Nat) (vec : Byte)
  /-- MSIX_GAP_END (R343): The minimum gap of a vector ends, and one message carries the signals held during it. -/
  | msixGapEnd (dt : Nat) (vec : Byte)
  /-- MSIX_MASKED_PEND (R343): A vector has stayed pending and masked for 1 s. -/
  | msixMaskedPend (dt : Nat) (vec : Byte)
  /-- DRIVER_LIMIT (R291): A slot's driver reaches its output current limit. -/
  | driverLimit (dt : Nat) (slot : SlotId)
  /-- DAC_READBACK (R291): A level DAC differs from its code by more than 20 mV. -/
  | dacReadback (dt : Nat) (slot : SlotId)
  /-- CHANNEL_SUPPLY (R291): A slot's channel supply fails. -/
  | channelSupply (dt : Nat) (slot : SlotId)
  /-- PGEN_PARITY (R291): A period generator parity error is detected. -/
  | pgenParity (dt : Nat) (slot : SlotId)
  /-- FINE_DELAY (R291): A fine-delay line is found out of range. -/
  | fineDelay (dt : Nat) (slot : SlotId)
  /-- CROSSING_PARITY (R291): A crossing parity error is detected. -/
  | crossingParity (dt : Nat) (slot : SlotId)
  /-- CTRL_CORRECTED (R291): A bridge-lane control error is detected and corrected. -/
  | ctrlCorrected (dt : Nat) (slot : SlotId)
  /-- CTRL_UNCORRECTED (R291): A bridge-lane control error is detected that cannot be corrected. -/
  | ctrlUncorrected (dt : Nat) (slot : SlotId)
  /-- LANE_DEAD (R291): A bridge lane of the slot is dead. -/
  | laneDead (dt : Nat) (slot : SlotId)
  /-- SUPPLY_TRIP (R292): A cluster's AFE supply monitor trips, and AFE_PWR.STATE reads FAULT. -/
  | supplyTrip (dt : Nat) (c : CluId)
  /-- AFE_HOT (R292): The AFE die rises above 110 °C. -/
  | afeHot (dt : Nat) (c : CluId)
  /-- AFE_CRITICAL (R292): The AFE die rises above 125 °C. -/
  | afeCritical (dt : Nat) (c : CluId)
  /-- POSITION_MISMATCH (R292): MEMS position sense disagrees with the command. -/
  | positionMismatch (dt : Nat) (c : CluId)
  /-- ACTUATOR_SUPPLY (R292): The MEMS actuator supply fails. -/
  | actuatorSupply (dt : Nat) (c : CluId)
  /-- REF_FAULT (R292): The cluster's internal calibration reference goes out of tolerance. -/
  | refFault (dt : Nat) (c : CluId)
  /-- ROUTE_PARITY (R292): A reaction-fabric route parity error is detected. -/
  | routeParity (dt : Nat) (c : CluId)
  /-- LAT_CAL_FAIL (R292): A route's latency cannot be calibrated within R109. -/
  | latCalFail (dt : Nat) (c : CluId)
  /-- STATUS_PARITY (R292): A cluster collector status parity error is detected. -/
  | statusParity (dt : Nat) (c : CluId)
  /-- GT_REPLICA_DEVIATION (R292): A GT replica deviates from the master outside R35. -/
  | gtReplicaDeviation (dt : Nat) (c : CluId)
  /-- RAIL_WARN (R391): A rail has stayed outside its recommended range for 1 µs, so WARN asserts. -/
  | railWarn (dt : Nat) (r : RailId)
  /-- RAIL_TRIP (R391): A rail has stayed outside its operating limits for 1 µs, so TRIP asserts. -/
  | railTrip (dt : Nat) (r : RailId)
  /-- RAIL_RELEASE (R391): A rail has stayed inside its narrowed range for 1 µs, so WARN or TRIP releases. -/
  | railRelease (dt : Nat) (r : RailId) (trip : Bool)
  /-- RAIL_SAMPLE (R391): PWR.RAIL[r].MV is updated every 10 µs. -/
  | railSample (dt : Nat) (r : RailId) (mv : BitVec 16)
  /-- TJ_HIGH (R293): The junction temperature rises above 105 °C. -/
  | tjHigh (dt : Nat) (tj : Byte)
  /-- TJ_CRIT (R293): The junction temperature rises above 115 °C. -/
  | tjCrit (dt : Nat) (tj : Byte)
  /-- KEEPER_LINK (R293): The link to the keeper fails. -/
  | keeperLink (dt : Nat)
  /-- COLLECTOR_PARITY (R293): The device collector detects a parity error. -/
  | collectorParity (dt : Nat)
  /-- LINK_RETRAIN (R293): The PCI Express link retrains. -/
  | linkRetrain (dt : Nat)
  /-- AER_CORR (R293): A correctable PCI Express error is detected. -/
  | aerCorr (dt : Nat)
  /-- AER_UNCORR (R293): An uncorrectable PCI Express error is detected. -/
  | aerUncorr (dt : Nat)
  /-- LC_CMD (R313): SEC.LC_CMD with GO requests a life-cycle transition, or is refused. -/
  | lcCmd (dt : Nat) (target : BitVec 3) (confirm : BitVec 16)
  /-- LC_TRANSITION_DONE (R314): A life-cycle transition finishes its KEK, wipe, erase and Ledger steps, and the new state applies. -/
  | lcTransitionDone (dt : Nat) (appendOk : Bool)
  /-- TAMPER_MESH (R317): The package mesh reads open or out of range for 1 µs, so a wipe starts. -/
  | tamperMesh (dt : Nat)
  /-- TAMPER_VOLTAGE (R317): A core, SRAM or AON rail excursion of 2 ns to 1 µs ends, so a wipe starts. -/
  | tamperVoltage (dt : Nat)
  /-- TAMPER_CLOCK (R317): A short reference period or an off-frequency keeper oscillator is detected, so a wipe starts. -/
  | tamperClock (dt : Nat)
  /-- VBAT_LOSS (R317): VBAT is below 2.2 V for 10 µs, or the sentinel is lost, so a wipe starts. -/
  | vbatLoss (dt : Nat)
  /-- TAMPER_CLEARED (R320): A persisting tamper condition ends, and its ACTIVE bit clears. -/
  | tamperCleared (dt : Nat) (input : BitVec 2)
  /-- WIPE_DONE (R316): A wipe completes with the secure store zeroed, and WIPES increments. -/
  | wipeDone (dt : Nat)
  /-- LOAD_PLAIN (R321): SEC.KEY_CMD with OP LOAD_PLAIN loads a plain key into a slot, or is refused. -/
  | loadPlain (dt : Nat) (slot : BitVec 6)
  /-- LOAD_WRAPPED (R321): SEC.KEY_CMD with OP LOAD_WRAPPED unwraps a key under the owner KEK into a slot, or is refused. -/
  | loadWrapped (dt : Nat) (slot : BitVec 6)
  /-- KEY_CLEAR (R321): SEC.KEY_CMD with OP CLEAR zeros a key slot. -/
  | keyClear (dt : Nat) (slot : BitVec 6)
  /-- KEY_CMD_DONE (R322): A key command completes, and the staging words are cleared. -/
  | keyCmdDone (dt : Nat)
  /-- STORE_WRITE (R323): A write of SEC.STORE_DATA stores a word, optionally incrementing the address. -/
  | storeWrite (dt : Nat) (val : Word)
  /-- ERASE_CMD (R325): SEC.ERASE_CMD with GO starts a secure erase of tagged granules, or is refused. -/
  | eraseCmd (dt : Nat) (pin : BitVec 7) (all : Bool)
  /-- ERASE_DONE (R325): A secure erase completes, with its granules zeroed and untagged. -/
  | eraseDone (dt : Nat)
  /-- LEDGER_APPEND_DONE (R328): A Ledger append completes and its change takes effect, or it is voided and the change fails. -/
  | ledgerAppendDone (dt : Nat) (verified : Bool)
  /-- SUBSYS_WRITE (R330): An effective write of LDG.SUBSYS requests a Ledger-counted change of the subsystem IDs. -/
  | subsysWrite (dt : Nat) (val : BitVec 32)
  /-- ALIVE_POL_WRITE (R330): An effective write of FLT.ALIVE_CFG.POL requests a Ledger-counted change of the ALIVE polarity. -/
  | alivePolWrite (dt : Nat) (pol : Bool)
  /-- LINK_UP (R332): The PCI Express link trains, and the intake budget and tag pool follow its generation and width. -/
  | linkUp (dt : Nat) (gen : BitVec 3) (width : BitVec 5) (flit : Bool) (clocking : Clocking)
  /-- LINK_DOWN (R337): The PCI Express link goes down, and the part stops issuing requests. -/
  | linkDown (dt : Nat)
  /-- PCIE_RESET (R337): A conventional or hot reset resets configuration space and the port only. -/
  | pcieReset (dt : Nat)
  /-- FUNCTION_LEVEL_RESET (R337): A Function Level Reset starts a device reset. -/
  | functionLevelReset (dt : Nat) (checks : List (SlotId × BitVec 16))
  /-- D3HOT_ENTRY (R336): The host places the function in D3hot, and the link enters L1. -/
  | d3hotEntry (dt : Nat)
  /-- D0_ENTRY (R336): The host returns the function to D0, and the link leaves L1. -/
  | d0Entry (dt : Nat)
  /-- CONFIG_REQUEST (R383): A configuration request is answered by the keeper's responder or by the port. -/
  | configRequest (dt : Nat) (write : Bool) (reg : BitVec 12) (val : BitVec 32)
  /-- BAR2_RESIZE (R340): BAR 2 is resized through Resizable BAR, and the window base is kept or zeroed. -/
  | bar2Resize (dt : Nat) (log2gib : BitVec 3)
  /-- BAR2_WIN_WRITE (R340): A write of HST.BAR2_WIN moves the BAR 2 window, or is refused. -/
  | bar2WinWrite (dt : Nat) (val : Word)
  /-- COMMIT (R341): A write of DEV.COMMIT orders all earlier writes across streams. -/
  | commit (dt : Nat)
  /-- COMMIT_DONE (R374): A commit takes effect, and DEV.COMMIT_STAT.SEQ increments. -/
  | commitDone (dt : Nat)
  /-- SNAP_TAKE (R342): A page's TAKE write starts copying its counters at one GT, or is merged into a copy in progress. -/
  | snapTake (dt : Nat) (page : PageId)
  /-- SNAP_DONE (R342): A snapshot copy completes, so VALID reads 1 and SEQ increments. -/
  | snapDone (dt : Nat) (page : PageId)
  /-- SNAP_ALL (R375): A write of DEV.SNAP_ALL starts every page's TAKE at one GT. -/
  | snapAll (dt : Nat)
  /-- TRIG_EDGE (R346): An edge arrives on a TRIG ball and reaches the jump, engine and router inputs that select it. -/
  | trigEdge (dt : Nat) (line : BitVec 3) (rising : Bool) (accepted : Bool)
  /-- TRIG_CMD (R346): A write of SYN.TRIG_CMD with GO pulses a trigger line. -/
  | trigCmd (dt : Nat) (line : BitVec 3) (width : BitVec 16)
  /-- TRIG_CONTENTION (R346): A DRIVEN line reads opposite to its drive for 50 ns. -/
  | trigContention (dt : Nat) (line : BitVec 3)
  /-- STAR_IN_EDGE (R347): An edge arrives on STAR_IN and reaches the routers and Nywen jumps that select it. -/
  | starInEdge (dt : Nat) (rising : Bool)
  /-- STAR_LOSS (R347): A selected STAR_IN shows no valid level for 1 µs. -/
  | starLoss (dt : Nat)
  /-- STAR_OUT_PULSE_END (R399): A STAR_OUT pulse ends after 16 timebase cycles. -/
  | starOutPulseEnd (dt : Nat)
  /-- EVT_START (R348): A write of SYN.EVT_CMD.START is accepted by the start router as a start event. -/
  | evtStart (dt : Nat)
  /-- EVT_STOP (R349): A write of SYN.EVT_CMD.STOP is accepted by the stop router as a stop event. -/
  | evtStop (dt : Nat)
  /-- START_DELIVERY (R348): The start router delivers t_e to every window in START_MASK as the start event. -/
  | startDelivery (dt : Nat)
  /-- STOP_DELIVERY (R349): The stop router delivers a stop, as a STOP command, to every window in STOP_MASK. -/
  | stopDelivery (dt : Nat)
  /-- NYWEN_FRAME_SLOT (R353): A frame slot begins on a Nywen transmitter, and the highest-priority frame is sent. -/
  | nywenFrameSlot (dt : Nat) (tx : Fin 2)
  /-- FRAME_IDLE (R352): An IDLE frame is received, updating the lanes and flags, and is forwarded if needed. -/
  | frameIdle (dt : Nat) (rx : Fin 2) (f : BitVec 80)
  /-- FRAME_TIME_LO (R352): A TIME_LO frame is received, carrying the origin's low GT bits. -/
  | frameTimeLo (dt : Nat) (rx : Fin 2) (f : BitVec 80)
  /-- FRAME_TIME_HI (R352): A TIME_HI frame is received, carrying the high GT bits and the epoch. -/
  | frameTimeHi (dt : Nat) (rx : Fin 2) (f : BitVec 80)
  /-- FRAME_START (R352): A START frame is received, scheduled for delivery, and forwarded if HOPS > 0. -/
  | frameStart (dt : Nat) (rx : Fin 2) (f : BitVec 80)
  /-- FRAME_STOP (R352): A STOP frame is received, scheduled for delivery, and forwarded if HOPS > 0. -/
  | frameStop (dt : Nat) (rx : Fin 2) (f : BitVec 80)
  /-- FRAME_JUMP (R352): A JUMP frame is received, scheduled for delivery, and forwarded if HOPS > 0. -/
  | frameJump (dt : Nat) (rx : Fin 2) (f : BitVec 80)
  /-- NYWEN_DELIVERY (R354): A link item is delivered at its origin GT + 20,480 tq, or on its arrival when late. -/
  | nywenDelivery (dt : Nat) (n : Nat)
  /-- NYWEN_LOCK (R351): A receiver locks after 64 consecutive good frames. -/
  | nywenLock (dt : Nat) (rx : Fin 2)
  /-- NYWEN_LOSS (R351): A receiver loses lock after 16 bad frames within 64. -/
  | nywenLoss (dt : Nat) (rx : Fin 2)
  /-- ALIGN (R357): SYN.NYW_CMD with OP ALIGN steps GT to position 0's, or is refused. -/
  | align (dt : Nat) (offset : Int)
  /-- NYW_RETRAIN (R357): SYN.NYW_CMD with OP RETRAIN drops and re-acquires receiver lock. -/
  | nywRetrain (dt : Nat)
  /-- NYWEN_ALIGN (R357): The GT deviation from position 0 exceeds the bound for 1 ms, so ALIGNED clears. -/
  | nywenAlign (dt : Nat) (dev : BitVec 16)
  /-- NYW_JUMP_CMD (R354): A write of SYN.NYW_JUMP_CMD sends a JUMP frame, or delivers the jump locally if the link is unaligned. -/
  | nywJumpCmd (dt : Nat) (ch : BitVec 2) (slot : BitVec 2)
  /-- BLK_RST (R365): A write of PG_CTL.BLK_RST requests the reset that its page names. -/
  | blkRst (dt : Nat) (page : PageId)
  /-- RESET_DONE (R370): A block, channel or cluster reset completes, and held writes take effect. -/
  | resetDone (dt : Nat) (page : PageId)
  /-- RESET_CMD (R385): DEV.RESET_CMD with GO and CONFIRM 0x7128 starts a device reset, or is refused. -/
  | resetCmd (dt : Nat) (confirm : BitVec 16) (checks : List (SlotId × BitVec 16))
  /-- POR_ASSERT (R377): POR_N is driven low, a power-on reset of all but the keeper's VBAT domain. -/
  | porAssert (dt : Nat)
  /-- POR_RELEASE (R379): POR_N is released, and bring-up starts with the KEEPER step. -/
  | porRelease (dt : Nat) (badRecords : List (Nat))
  /-- KEEPER_DONE (R379): The KEEPER step completes, and FUSES_LEDGER begins. -/
  | keeperDone (dt : Nat) (unpowered : Unpowered)
  /-- FUSES_LEDGER_DONE (R379): Fuses and Ledger are applied, ALIVE takes its POL level, and MARCH or TIMEBASE begins. -/
  | fusesLedgerDone (dt : Nat) (badCopy0 badCopy1 : Bool)
  /-- STARTUP_MARCH_DONE (R287): The start-up march of all banks completes and records the failing banks. -/
  | startupMarchDone (dt : Nat) (fails : BitVec 16)
  /-- STACKS_DONE (R379): The stacks are trained and zero-filled, and bring-up ends. -/
  | stacksDone (dt : Nat) (fails : BitVec 2)
  /-- PERST_RELEASE (R383): PERST_N is released, and the PCI Express port starts training. -/
  | perstRelease (dt : Nat)
  /-- STK_ACTIVE (R388): PWR.STK_CMD with STATE ACTIVE takes a stack out of self-refresh, or is refused. -/
  | stkActive (dt : Nat) (stk : Bool)
  /-- STK_SELF_REFRESH (R388): PWR.STK_CMD with STATE SELF_REFRESH puts a stack into self-refresh, or is refused. -/
  | stkSelfRefresh (dt : Nat) (stk : Bool)
  /-- STK_CHANGE_DONE (R388): A stack completes its change between ACTIVE and SELF_REFRESH. -/
  | stkChangeDone (dt : Nat) (stk : Bool)
  /-- THERM_HOUR (R386): At each whole hour the keeper updates and stores the powered and hot hour counts. -/
  | thermHour (dt : Nat) (hot : Bool)
  /-- CONDITION_CAUSE_ENDS (R299): The cause of a condition source ceases (temperature falls, a supply or actuator supply returns, a reference or lane recovers, STAR_IN regains a valid level), and its COND reads 0. -/
  | conditionCauseEnds (dt : Nat) (src : BitVec 16) (code : Byte)
  /-- HEARTBEAT_RETURN (R305): The sequencer die's heartbeat reaches the keeper again after having been missing. -/
  | heartbeatReturn (dt : Nat)
  /-- LOG_BUFFER_DRAIN (R207): A log entry drains from the pin's 1,024-entry log buffer into the stack at up to 31,250,000 entries per second. -/
  | logBufferDrain (dt : Nat) (w : WinId)
  /-- SMBUS_TRANSACTION (R407): An SMBus transaction addressed to the part is answered by the keeper with a Block Read of the named register, a zero byte count, or a NACK. -/
  | smbusTransaction (dt : Nat) (addr : BitVec 7) (code : Byte) (op : SmbusOp)
  /-- SMBUS_CLOCK_LOW_TIMEOUT (R407): SMB_CLK is held low for 25 ms to 35 ms, and the SMBus target times out and abandons the transaction. -/
  | smbusClockLowTimeout (dt : Nat)
  /-- JTAG_ACCESS (R406): A JTAG access to internal scan or a DBG register is taken, or refused under the life cycle and PG_CTL.EN, and a taken access raises JTAG_ACCESS. -/
  | jtagAccess (dt : Nat) (op : JtagOp)
deriving DecidableEq, Repr

end Sys2Proof
end

