-- ==== Sys2Proof/Decode.lean ====
section
/-!
DEFINITION. Sys2Proof/Decode.lean: the command that a word spells by the table's bits. No row of the table gives bits
(every row's "fields" list is empty), so no word spells a command.
-/

namespace Sys2Proof

/-- The command that a word spells by the bits the table gives its rows: none, for the table gives none. -/
def decodeTableWord (_nbits _w : Nat) : Option Instr := none

end Sys2Proof
end

