-- ==== Sys2Proof/Config.lean ====
section
/-!
DEFINITION. Sys2Proof/Config.lean: what one part fixes and what the manual leaves open. Every `opaque` constant is a
free value: it has no body, so no proof can rest on a value of it.
-/

namespace Sys2Proof.Config

/-- A value the manual leaves undefined or unstated, the `n`-th the machine drew (log entry 5). -/
opaque freeValue : Nat → BitVec 64
/-- Data returned by a BAR 4 read that collides with a write (R278: undefined), by draw and byte (log entry 5). -/
opaque collideByte : Nat → Nat → BitVec 8
/-- What a repair's reads find in error, by draw: rows, each with whether its word is uncorrectable (R271, R289; log entry 145). -/
opaque repairReads : Nat → List (Nat × Bool)
/-- Contents of a bank after a destructive march is aborted (R286: undefined until written), by draw and address. -/
opaque abortByte : Nat → Nat → BitVec 8
/-- Accesses of a master to a bank that have waited for its port since the counts were last read (R280), by bank, master and draw. How long an
access holds a port is not stated (log 86). -/
opaque waits : Nat → Nat → Nat → BitVec 32
/-- Calibrated latency of a reaction route before the bound of R109 is applied, by cluster, type and source, sink (log 8). -/
opaque rawLat : Nat → Nat → Nat → Nat → Nat
/-- Delay of an internal arrival before its bound is applied (R97, R247, R254): kind of path, time it set out (log 10). -/
opaque rawDelay : Nat → Nat → Nat
/-- The DETAIL.VALUE packing of an invalid-vector program error (R60 names its parts, no layout): play, offset. -/
opaque invalidVecValue : Nat → Nat → BitVec 28
/-- DETAIL.VALUE of a detection whose value the manual does not lay out, by source, code and time (log entry 6). -/
opaque detailValue : Nat → Nat → Nat → BitVec 28
/-- Factory fuse: silicon stepping (DEV.REV.STEP). -/
opaque stepping : BitVec 8
/-- Factory fuse: the speed grade, true for the SC7128-50 (R5, DEV.REV.GRADE). -/
opaque slowGrade : Bool
/-- Factory fuse: 64-bit serial number (DEV.SERIAL). -/
opaque serial : BitVec 64
/-- SMB_ADDR strap balls, the low two bits of the SMBus address (R407). -/
opaque smbAddr : BitVec 2
/-- Factory fuses: spare columns used by factory repair of a bank, 0 to 16 (MCH.SPARES.FACTORY). -/
opaque factorySpares : Nat → Nat
/-- Byte offset in configuration space of the dword with MSI-X Enable (bit 31) and Function Mask (bit 30): R336 names the
capability and gives it no place. -/
opaque msixCap : Nat
/-- Byte offset in configuration space of the dword with the power state D0 or D3hot: R336 gives the capability no place. -/
opaque pmCap : Nat
/-- Byte offset in configuration space of the dword with Maximum Read Request Size (bits 14:12): R129 names the setting and
R336 gives its capability no place. -/
opaque devCtl : Nat
/-- Byte offsets in configuration space of the Advanced Error Reporting, Resizable BAR and Device Serial Number capabilities: R336 gives them no
place. -/
opaque aerCap : Nat
opaque rebarCap : Nat
opaque dsnCap : Nat
/-- Byte offsets in configuration space of the dwords with 10-bit Tag Requester Enable (bit 12) and 14-bit Tag Requester Enable (bit 2): R333
names the bits and R336 gives their capabilities no place. -/
opaque tag10Ctl : Nat
opaque tag14Ctl : Nat
/-- What a dword of configuration space whose contents the manual does not give answers, by its number and the dword the host last wrote (R336,
R383). -/
opaque configDword : Nat → BitVec 32 → BitVec 32

end Sys2Proof.Config
end

