-- ==== Sys2Proof/Machine/State.lean ====
section
/-!
DEFINITION. Sys2Proof/Machine/State.lean: the whole state of the part as plain data, the reasons a step can stop, and the
state after power-on reset. Times are counts of tq: `t` values are epoch:GT read as one number (epoch * 2^64 + GT).
Each field's comment names the rule that gives it; its default value is its reset value.
-/

namespace Sys2Proof.Machine

/-- The six channel modes (R42), in the encoding of CTL.MODE_STAT.MODE. -/
inductive Mode where
  | off | parked | ready | armed | run | service
deriving DecidableEq, Repr

/-- A static or remembered drive state (R44, R59). -/
inductive Drv where
  | d0 | d1 | dz
deriving DecidableEq, Repr

/-- A result register of a command (R372): OUTCOME, REASON, SEQ and VALID. -/
structure Res where
  /-- OUTCOME; 0 none (R372). -/
  outcome : Nat := 0
  /-- REASON; 0 none (R372). -/
  reason : Nat := 0
  /-- SEQ, counted without its modulus (R372). -/
  seq : Nat := 0
  /-- VALID (R372). -/
  valid : Bool := false
deriving DecidableEq, Repr

/-- A mode transition or switch command in progress (R45, R190). -/
structure Trans where
  /-- CMD of the mode command; 0 for a switch command. -/
  cmd : Nat
  /-- TAG of the command. -/
  tag : Byte
  /-- Destination mode. -/
  target : Mode
  /-- Time of acceptance. -/
  at_ : Nat
  /-- AFE.SW_CMD.OP of a switch command in progress: 1 CLOSE_CAL, 2 OPEN_CAL, 0 a mode command. -/
  swOp : Nat
  /-- OVERSUBSCRIBED of an ARM (R51). -/
  oversub : Bool
  /-- A reset has cancelled this ARM; its result is posted after the reset (R55). -/
  cancelled : Bool
  /-- The contact check refused: the restoration of R53 runs, and the command ends REFUSED with HOT_SWITCH. -/
  hot : Bool
deriving DecidableEq, Repr

/-- Mode arbiter of a window: CTL page state (R42 to R53). -/
structure ModeSt where
  /-- CTL.MODE_STAT.MODE (R42); reset OFF. -/
  mode : Mode := .off
  /-- The transition in progress: TRANSIT and TARGET (R45); reset none. -/
  trans : Option Trans := none
  /-- CTL.MODE_STAT.START_MISSED (R52); reset 0. -/
  startMissed : Bool := false
  /-- CTL.MODE_STAT.END_CAUSE (R48, R55); reset 0. -/
  endCause : Nat := 0
  /-- CTL.MODE_STAT.STATIC (R44); reset DZ. -/
  static : Drv := .dz
  /-- CTL.CMD_RESULT.TAG (R53); reset 0. -/
  tag : Byte := 0
  /-- CTL.CMD_RESULT.CMD (R53); reset 0. -/
  cmd : Nat := 0
  /-- CTL.CMD_RESULT.OVERSUBSCRIBED (R51); reset 0. -/
  oversub : Bool := false
  /-- CTL.CMD_RESULT.DISARM_LATE (R48); reset 0. -/
  late : Bool := false
  /-- CTL.CMD_RESULT.CANCELLED (R46); reset 0. -/
  cancelled : Bool := false
  /-- CTL.CMD_RESULT OUTCOME, REASON, SEQ, VALID (R372); reset 0. -/
  res : Res := {}
  /-- A start event delivered and not yet at its start GT: t_e (R101); reset none. -/
  startAt : Option Nat := none
deriving DecidableEq, Repr

/-- Where a jump request comes from does not matter after its arrival: its slot and its arrival time (R97). -/
structure JumpReq where
  /-- Jump-target slot named. -/
  slot : BitVec 2
  /-- Arrival time at the sequencer. -/
  at_ : Nat
deriving DecidableEq, Repr

/-- What the sequencer has fixed for a play's boundary (R90, R91). -/
inductive Choice where
  /-- The same descriptor plays again. -/
  | again
  /-- The NEXT successor. -/
  | next
  /-- The ALT successor. -/
  | alt
  /-- The popped shelfmark. -/
  | ret
  /-- A jump target. -/
  | jump (k : BitVec 2)
  /-- A jump target fixed before its slot was rewritten: its shelfmark; its descriptor and its head are held as those of `ret` (R89). -/
  | kept (sh : Shelf)
  /-- Entry 1's landing for a stop. -/
  | stopLand
  /-- Entry 1's landing for a program error of that code, naming a shelfmark (R83, R93). -/
  | errLand (code : Nat) (sh : Shelf)
  /-- End of the burst: a LAND segment ends. -/
  | finish
deriving DecidableEq, Repr

/-- A descriptor the sequencer has fetched: it passed the checks of R83, or it is held as failed. -/
inductive Fetched where
  | good (d : RawDesc)
  | failed (sh : Shelf)
deriving DecidableEq, Repr

/-- Program state of a window's sequencer. -/
structure SeqSt where
  /-- A burst is loaded (R42, R110); reset false. -/
  loaded : Bool := false
  /-- Entry 0's descriptor, kept from ARM (R80); reset 0. -/
  hold0 : RawDesc := 0
  /-- Entry 1's descriptor, kept from ARM (R80); reset 0. -/
  land1 : RawDesc := 0
  /-- Descriptor of the current segment (R88); reset 0. -/
  cur : RawDesc := 0
  /-- Fetched descriptors by role: successors and jump targets (R95); reset none. -/
  fetched : List (Role × Fetched) := []
  /-- Play number within the segment, from 1 (R88); reset 0. -/
  play : Nat := 0
  /-- Offset of the next output vector of the play (R88); reset 0. -/
  ofs : Nat := 0
  /-- Distinguishes plays for PASS and MATCH (R92, R140); reset 0. -/
  playId : Nat := 0
  /-- A counted vector of this play failed or was lost (R92); reset false. -/
  playFail : Bool := false
  /-- What the play's decision point fixed (R89); reset none. -/
  decided : Option Choice := none
  /-- Call stack, top first (R93); reset empty. -/
  stack : List Shelf := []
  /-- Pending jump requests, oldest first (R99); reset empty. -/
  reqs : List JumpReq := []
  /-- Jump requests on their way to the sequencer, by arrival time (R97); reset none. -/
  coming : List JumpReq := []
  /-- SEQ.JUMP_TGT[k].READY (R98); reset 0. -/
  jready : BitVec 4 := 0
  /-- SEQ.JUMP_TGT[k].REJ (R98); reset 0. -/
  jrej : BitVec 4 := 0
  /-- Accepted stop: policy (0 AT_BOUNDARY_64, 1 AT_SEGMENT, 2 AT_LOOP_END, 3 schedules nothing, R104) and arrival time
  (R103); reset none. -/
  stop : Option (Nat × Nat) := none
  /-- A landing is playing: 0 no, 1 the program's LAND, 2 entry 1's landing for a stop (R103), 3 entry 1's landing for a program error or an
  underrun (R83, R93, R140). -/
  landing : Nat := 0
  /-- Offset at which an AT_BOUNDARY_64 stop ends the play (R103); reset none. -/
  stopMark : Option Nat := none
  /-- Time of the first invalid code in this pass of the segment (R60); reset none. -/
  invalid : Option Nat := none
  /-- The segment's start mark waits for its first vector to start (R94, R141): 0 none, 1 start, 2 iteration. -/
  markDue : Nat := 0
  /-- Catalogue entries the arm check found reachable (R82, R110); reset none. -/
  ents : List Nat := []
  /-- KEY_ID values the arm check found reachable (R322); reset none. -/
  keys : List Nat := []
  /-- Period-table entries the burst's trace can have in force (R415); reset none. -/
  trace : List Nat := []
  /-- What error correction finds in the first head of the path at an ARM, bits by slice: bad vector words, bad lane units, and whether a word was
  corrected (R271, R272); reset none. -/
  armHead : HeadReads := {}
  /-- What error correction finds in the holding pattern, whose copy waits for the stack to be ACTIVE (R80, R388). -/
  copyDue : Option ArmReads := none
deriving DecidableEq, Repr

/-- Output-time state of a window: period generator, counts and drive (R101, R149 to R151, R200, R202). -/
structure PlaySt where
  /-- Start time of the next vector (R149); reset 0. -/
  nextT : Nat := 0
  /-- Start time of the latest vector (R149); reset 0. -/
  lastT : Nat := 0
  /-- Start time of output vector L_out − 64 of the play, its decision point (R89); reset 0. -/
  decT : Nat := 0
  /-- Start time of the latest vector at an offset that is a multiple of 64 (R103, R165); reset 0. -/
  t64 : Nat := 0
  /-- The burst's first vector has started (R101); reset false. -/
  begun : Bool := false
  /-- Period-table entry in force, TIM.PGEN_STAT.ENTRY (R150); reset 0. -/
  entry : Nat := 0
  /-- Vectors played since the entry was applied (R150); reset 0. -/
  n : Nat := 0
  /-- Entry in force at vector 0 of the play (R151); reset 0. -/
  entry0 : Nat := 0
  /-- n in force at vector 0 of the play (R151); reset 0. -/
  n0 : Nat := 0
  /-- Period in force, TIM.PGEN_STAT.PERIOD (R150); reset 0. -/
  period : Nat := 0
  /-- Program and landing vectors played since burst start (R202); reset 0. -/
  vectors : Nat := 0
  /-- Vectors placed, those of holding patterns among them: their order (R159); reset 0. -/
  placed : Nat := 0
  /-- Remembered drive state (R59); reset DZ. -/
  remembered : Drv := .dz
  /-- ET reference level: 0 NONE, 1 BELOW, 2 ABOVE (R200); reset 0. -/
  etRef : Nat := 0
  /-- GT_first of the latest burst, SEQ.BURST and EPOCH (R101); reset 0. -/
  gtFirst : Nat := 0
  /-- SEQ.BURST_INFO.COUNT, counted without its modulus; reset 0. -/
  bursts : Nat := 0
  /-- SEQ.BURST_INFO.VALID; reset 0. -/
  burstValid : Bool := false
  /-- Jump requests dropped since ARM, SNAP_CNT.JUMP_OVF (R99); reset 0. -/
  jumpOvf : Nat := 0
  /-- SEQ.PERR.CODE; reset 0. -/
  perrCode : Nat := 0
  /-- SEQ.PERR.COUNT, saturating at 255; reset 0. -/
  perrCount : Nat := 0
  /-- SEQ.PERR.SHELFMARK; reset null. -/
  perrShelf : Shelf := nullShelf
  /-- SEQ.PERR.SEQ without its modulus; reset 0. -/
  perrSeq : Nat := 0
  /-- SEQ.DROP.ADDR (R111); reset 0. -/
  dropAddr : Nat := 0
  /-- SEQ.DROP.REASON (R111); reset 0. -/
  dropReason : Nat := 0
  /-- SEQ.DROP.COUNT (R111); reset 0. -/
  dropCount : Nat := 0
deriving DecidableEq, Repr

/-- Sixteen vectors in the Sluice with their lane unit, and those of a REACT segment's alternate stream (R61, R62, R108). -/
structure Slice where
  /-- Vector word (R61). -/
  codes : BitVec 64
  /-- Lane unit (R62). -/
  lane : BitVec 32
  /-- Alternate vector word (R108). -/
  altCodes : BitVec 64
  /-- Alternate lane unit (R108). -/
  altLane : BitVec 32
deriving DecidableEq, Repr

/-- Slices `lo, lo + 1, …` of one segment in the Sluice (R95, R117). -/
structure Buf where
  /-- Index of the first slice held. -/
  lo : Nat := 0
  /-- The slices held, in order. -/
  slices : List Slice := []
deriving DecidableEq, Repr

/-- A committed slice of the streaming ring, with its segment (R124, R125). -/
structure RingSlice where
  /-- Segment of the frame. -/
  shelf : Shelf
  /-- Byte offset of the slice in the pin's vector area, inside the streaming ring. -/
  at_ : Nat
  /-- Bytes of the slice: 8, or 12 with a lane unit (R124). -/
  size : Nat
  /-- The slice's vectors and lane unit. -/
  slice : Slice
deriving DecidableEq, Repr

/-- Holding-pattern state of a window (R138 to R144). -/
structure HoldSt where
  /-- SLU.STAT.HOLDING (R138); reset 0. -/
  on : Bool := false
  /-- Start of the holding pattern (R144); reset 0. -/
  at_ : Nat := 0
  /-- Period in force at that start, at which the pattern plays (R139); reset 0. -/
  period : Nat := 0
  /-- The vector word in use was read with an uncorrectable error, and so was its lane unit (R272); reset false. -/
  bad : Bool × Bool := (false, false)
  /-- Start of the holding vector due next (R139); reset 0. -/
  nextT : Nat := 0
  /-- Offset of the next vector in the pass (R139); reset 0. -/
  ofs : Nat := 0
  /-- Number of the holding pass, from 1 (R60); reset 0. -/
  pass : Nat := 0
  /-- The pass is the last (R139); reset false. -/
  last : Bool := false
  /-- Time of this pass's resume point once passed (R139, R142); reset none. -/
  resumeAt : Option Nat := none
  /-- Holding vectors of this underrun (R144); reset 0. -/
  vecs : Nat := 0
  /-- Time of the first invalid code of this underrun's holding pattern (R60); reset none. -/
  invalid : Option Nat := none
  /-- Shelfmark of the missing vector (R144); reset null. -/
  shelf : Shelf := nullShelf
  /-- SLU.UR_STAT.CAUSE (R138); reset 0. -/
  cause : Nat := 0
  /-- SLU.UR_STAT.POLICY (R140); reset 0. -/
  policy : Nat := 0
  /-- SLU.UR_STAT.LANDED (R140); reset 0. -/
  landed : Bool := false
  /-- Holding vectors since the latest ARM, SLU.SNAP_HOLD.HELD; reset 0. -/
  held : Nat := 0
  /-- Underruns since the latest ARM, SLU.SNAP_HOLD.UNDERRUNS; reset 0. -/
  underruns : Nat := 0
deriving DecidableEq, Repr

/-- A read request of the intake engine in flight (R129 to R132). -/
structure Req where
  /-- Tag of the request. -/
  tag : Nat
  /-- Bytes asked for. -/
  size : Nat
  /-- Bytes that have arrived. -/
  got : List Byte
  /-- How many of them have joined the byte stream (R131). -/
  taken : Nat
  /-- It reads a descriptor of the intake ring. -/
  desc : Bool
  /-- The stream has broken or been flushed since: what arrives is discarded. -/
  dead : Bool
deriving DecidableEq, Repr

/-- Intake engine state of a window (R120 to R134). -/
structure IntakeSt where
  /-- SLU.INT_CONS.CONS (R121); reset 0. -/
  cons : Nat := 0
  /-- Index of the next descriptor to be read; reset 0. -/
  fetch : Nat := 0
  /-- Descriptors that left the intake ring, and descriptors posted to it, at the latest instant of each: true time, how many (R113); reset
  none. -/
  consNow : Nat × Nat := (0, 0)
  prodNow : Nat × Nat := (0, 0)
  /-- SLU.INT_CONS.SKIPPING (R115); reset 0. -/
  skipping : Bool := false
  /-- Skipping has discarded a descriptor since the flush that set it (R115); reset false. -/
  torn1 : Bool := false
  /-- A descriptor has been posted since the ring was configured, so an item has begun (R115); reset false. -/
  begun : Bool := false
  /-- Buffers named by descriptors read, oldest first: address, bytes left to request, bytes left to arrive, NOTIFY; reset none. -/
  bufs : List (Nat × Nat × Nat × Bool) := []
  /-- Requests in flight, in byte-stream order; reset none. -/
  reqs : List Req := []
  /-- Byte stream arrived and not yet parsed (R131); reset empty. -/
  bytes : List Byte := []
  /-- Padding of the frame parsed last that is still to arrive (R123, R125); reset 0. -/
  pad : Nat := 0
  /-- Expected FRAME_SEQ (R124); reset 0. -/
  expect : Nat := 0
  /-- Slices received of the streamed segment whose data is next (R124); reset 0. -/
  segSlices : Nat := 0
  /-- Shelfmark of the streamed segment whose frames are under way (R124); reset none. -/
  order : Option Shelf := none
  /-- Catalogue entries from which the program goes on after the streamed data received so far (R124); reset none. -/
  ahead : List Nat := []
  /-- Cause of a broken stream, SLU.STAT.CAUSE and BROKEN; 0 not broken (R132); reset 0. -/
  broken : Nat := 0
  /-- SLU.ERR.CAUSE (R132); reset 0. -/
  errCause : Nat := 0
  /-- SLU.ERR.SHELFMARK; reset null. -/
  errShelf : Shelf := nullShelf
  /-- SLU.ERR.FRAME_SEQ; reset 0. -/
  errSeq : Nat := 0
  /-- Payload bytes committed since the latest ARM, SLU.SNAP_INTAKE.BYTES; reset 0. -/
  committed : Nat := 0
  /-- Torn items since reset, SLU.SNAP_INTAKE.TORN (R115); reset 0. -/
  torn : Nat := 0
  /-- The consumer index has advanced past the last one posted (R121); reset false. -/
  postDue : Bool := false
  /-- Time of the latest consumer-index post (R121); reset none. -/
  postAt : Option Nat := none
deriving DecidableEq, Repr

/-- Sluice and streaming ring of a window (R117 to R119, R133, R136). -/
structure SluSt where
  /-- Sluice contents by destination (R95, R117); reset empty. -/
  bufs : List (Role × Buf) := []
  /-- Short segments fetched ahead beyond the NEXT successor, in the order in which they will play (R96); reset none. -/
  chain : List (RawDesc × Buf) := []
  /-- Later plays of the program successor that follows a segment with one successor, a looping short segment, fetched ahead beyond its head
  (R96); reset none. -/
  more : List Slice := []
  /-- Slices pushed onto the current path at the latest instant of a push: true time, how many (R113); reset none. -/
  pushNow : Nat × Nat := (0, 0)
  /-- Bytes that left the current path at the latest instant of a pop: true time, how many (R113); reset none. -/
  playNow : Nat × Nat := (0, 0)
  /-- Slices pushed into the streaming ring at the latest instant of a push, and bytes popped from it at that of a pop: true time, how many
  (R113); reset none. -/
  ringPush : Nat × Nat := (0, 0)
  ringPop : Nat × Nat := (0, 0)
  /-- SLU.STAT.FILLED (R118); reset 0. -/
  filled : Bool := false
  /-- Committed contents of the streaming ring, oldest first (R125); reset empty. -/
  ring : List RingSlice := []
  /-- Write position of the streaming ring in bytes (R112); reset 0. -/
  ringWr : Nat := 0
  /-- SLU.STAT.STOCKED (R114); reset 0. -/
  stocked : Bool := false
  /-- SLU.STAT.CFG_REFUSED (R117); reset 0. -/
  cfgRefused : Bool := false
  /-- SLU.DEMAND.RATE (R136); reset 0. -/
  demand : Nat := 0
  /-- SLU.DEMAND.HELD (R136); reset 0. -/
  held : Bool := false
  /-- The first segment of the burst being armed is streamed (R119); reset false. -/
  streamFirst : Bool := false
deriving DecidableEq, Repr

/-- Staged timing changes and counters of a window (R155, R160, R164 to R167). -/
structure TimSt where
  /-- Active time-sets and period-table entries that differ from reset, by page offset (R164); reset none. -/
  active : Tab Word := []
  /-- Pending set: shadow values taken, apply point, arrival time (R164); reset none. -/
  pend : Option (Tab Word × Nat × Nat) := none
  /-- TIM.STAGE_STAT OUTCOME, REASON, SEQ, VALID; reset 0. -/
  res : Res := {}
  /-- TIM.STAGE_STAT.TSET; reset 0. -/
  tset : Nat := 0
  /-- TIM.STAGE_GT and STAGE_EPOCH (R165); reset 0. -/
  applyT : Nat := 0
  /-- Transition pairs cancelled since the latest ARM (R160); reset 0. -/
  dropped : Nat := 0
  /-- Instants of those counted in `dropped` that were still ahead when they were found (R160); reset none. -/
  cuts : List Nat := []
  /-- TIM.DESKEW as in force since the latest vector start; reset 0. -/
  skew : Nat := 0
  /-- Edges clipped since the latest ARM (R155); reset 0. -/
  clipped : Nat := 0
deriving DecidableEq, Repr

/-- Parametric unit and level status of a window (R174 to R186). -/
structure PmuSt where
  /-- PMU.STAT.ACTIVE (R181); reset 0. -/
  active : Nat := 0
  /-- PMU.STAT.SETTLED (R183); reset 0. -/
  settled : Bool := false
  /-- PMU.STAT.CLAMPED (R184); reset 0. -/
  clamped : Bool := false
  /-- PMU.STAT.ABOVE (R186); reset 0. -/
  above : Bool := false
  /-- PMU.STAT.BELOW (R186); reset 0. -/
  below : Bool := false
  /-- PMU.STAT.FORCE_ENDED (R182); reset 0. -/
  forceEnded : Bool := false
  /-- PMU.STAT.CFG_REFUSED; reset 0. -/
  refused : Bool := false
  /-- PMU.STAT.REASON; reset 0. -/
  reason : Nat := 0
  /-- Time of the latest change of R183; reset 0. -/
  changed : Nat := 0
  /-- Measurement in progress: samples to take, taken, sum, waiting to settle (R185); reset none. -/
  meas : Option (Nat × Nat × Int × Bool) := none
  /-- A sample of the measurement stood at an end of the code range; reset false. -/
  mOver : Bool := false
  /-- The clamp acted during the measurement; reset false. -/
  mClamp : Bool := false
  /-- GT of the first averaged sample of the measurement in progress; reset 0. -/
  mT : Nat := 0
  /-- GT of the ADC's latest sample: one at each (R258); reset none. -/
  sampT : Option Nat := none
  /-- The measurement was disturbed (R185); reset false. -/
  mBad : Bool := false
  /-- PMU.RESULT.VALUE; reset 0. -/
  value : BitVec 16 := 0
  /-- PMU.RESULT QTY, RANGE, CLAMPED, OVER as (qty, range, clamped, over); reset 0. -/
  flags : Bool × Nat × Bool × Bool := (false, 0, false, false)
  /-- PMU.RESULT OUTCOME, REASON, SEQ, VALID; reset 0. -/
  res : Res := {}
  /-- PMU.RESULT_GT and RESULT_EPOCH; reset 0. -/
  resT : Nat := 0
  /-- A level write has been accepted since reset (AFE.LVL_STAT.SETTLED); reset false. -/
  lvlWritten : Bool := false
  /-- AFE.LVL_STAT.SETTLED (R178); reset 0. -/
  lvlSettled : Bool := false
  /-- AFE.LVL_STAT OUTCOME, REASON, SEQ, VALID; reset 0. -/
  lvl : Res := {}
  /-- AFE.SW_RESULT OUTCOME, REASON, SEQ, VALID (R190); reset 0. -/
  sw : Res := {}
deriving DecidableEq, Repr

/-- What a strobe's close formed (R198 to R200): the verdict's loss and failure, the received and the final code, CHANGED and NOREF. -/
structure Judged where
  /-- The crossing was full: the verdict is lost (R26). -/
  lost : Bool
  /-- The verdict failed (R198). -/
  fail : Bool
  /-- Received code (R199). -/
  rcv : Nat
  /-- Final code (R199). -/
  final : Nat
  /-- CHANGED (R199). -/
  chg : Bool
  /-- NOREF (R200). -/
  noref : Bool
deriving DecidableEq, Repr

/-- A strobe that has opened or will open, of a vector already started (R162, R201). -/
structure Strobe where
  /-- Strobe close of the earlier and later comparator half: the verdict's instant (R107, R201). -/
  close : Nat
  /-- Code of the vector (R59). -/
  code : BitVec 4
  /-- Start of the vector, t_v (R201). -/
  tv : Nat
  /-- Vector number (R202). -/
  vec : Nat
  /-- Segment (R219). -/
  shelf : Shelf
  /-- Output vector offset in the play (R219). -/
  ofs : Nat
  /-- The vector came from a REACT alternate stream (R219). -/
  alt : Bool
  /-- Expected code is withheld (R225). -/
  redact : Bool
  /-- Play identity, for PASS and MATCH (R92). -/
  playId : Nat
  /-- The vector counts for PASS and MATCH (R92). -/
  counts : Bool
  /-- Edge strobe: T_SO = T_SC (R162). -/
  edge : Bool
  /-- What its close formed, while strobes of earlier vectors are open (R204, R205); none until it closes. -/
  done : Option Judged := none
deriving DecidableEq, Repr

/-- Counters of the MON page, from the latest ARM (R202). -/
structure MonSt where
  /-- MON.COMPARED; reset 0. -/
  compared : Nat := 0
  /-- MON.FAILED; reset 0. -/
  failed : Nat := 0
  /-- MON.FIRST_VEC, FIRST_GT, FIRST_POS: vector, t_v, offset, shelfmark; reset none (VALID 0). -/
  first : Option (Nat × Nat × Nat × Shelf) := none
  /-- MON.FAIL_CODE EL, EH, EM, EV, ET, REDACTED; reset 0. -/
  codes : Tab Nat := []
  /-- MON.CP_HIST by final code; reset 0. -/
  hist : Tab Nat := []
  /-- MON.LOSS.VERDICTS; reset 0. -/
  lostV : Nat := 0
  /-- MON.LOSS.LOG; reset 0. -/
  lostL : Nat := 0
  /-- MON.RECORDS.SENT; reset 0. -/
  sent : Nat := 0
  /-- MON.RECORDS.WITHHELD; reset 0. -/
  withheld : Nat := 0
  /-- MON.QUEUE_DROP.FAIL; reset 0. -/
  qFail : Nat := 0
  /-- MON.QUEUE_DROP.OTHER; reset 0. -/
  qOther : Nat := 0
deriving DecidableEq, Repr

/-- Counts of dropped records by type, for GAP kinds 3 and 4 (R223), with the first dropped record's time. -/
structure Drops where
  /-- FAIL, STAMP, MINMAX, MARK, GAP, EVENT counts by TYPE 1 to 6; reset 0. -/
  cnt : Tab Nat := []
  /-- Time of the first dropped record of the episode; reset none. -/
  first : Option Nat := none
deriving DecidableEq, Repr

/-- Capture of a window: crossing, fail area, log buffer and record queue (R26, R203 to R211). -/
structure CapSt where
  /-- CAP.CFG as read at the latest ARM; reset 3 (the register's reset value). -/
  cfg : BitVec 32 := 3
  /-- Strobes whose results are not yet entered, in vector order (R201, R204, R205); reset none. -/
  strobes : List Strobe := []
  /-- Verdicts in the verdict return crossing (R26); reset 0. -/
  xing : Nat := 0
  /-- Verdicts lost since the last VERDICT_LOST GAP: count, t_v and vector of the first (R26); reset none. -/
  lost : Option (Nat × Nat × Nat) := none
  /-- Bitmap bits formed since ARM (R204); reset 0. -/
  bits : Nat := 0
  /-- Partial bitmap word (R204); reset 0. -/
  word : BitVec 64 := 0
  /-- CAP.FILL.BITMAP_WORDS (R204); reset 0. -/
  words : Nat := 0
  /-- CAP.FILL.LOG_ENTRIES: entries written to the stack since ARM; reset 0. -/
  logEnt : Nat := 0
  /-- Log buffer, oldest first (R207); reset empty. -/
  logBuf : List (BitVec 128) := []
  /-- Entries lost since the last LOST entry (R207); reset 0. -/
  logLoss : Nat := 0
  /-- Epoch, GT [63:32] and vector [47:32] of the latest TIME entry (R206); reset none. -/
  logTime : Option (Nat × Nat × Nat) := none
  /-- Entries that could not be written since the log filled (R208); reset none. -/
  logFullCnt : Option Nat := none
  /-- CAP.STAT.BITMAP_FULL; reset 0. -/
  bitmapFull : Bool := false
  /-- CAP.STAT.LOG_FULL; reset 0. -/
  logFull : Bool := false
  /-- CAP.STAT.LOG_LOST; reset 0. -/
  logLost : Bool := false
  /-- CAP.STAT.FLUSHED (R209); reset 1. -/
  flushed : Bool := true
  /-- CAP.STAT.AREA_REFUSED; reset 0. -/
  areaRefused : Bool := false
  /-- CAP.DROP.ADDR; reset 0. -/
  dropAddr : Nat := 0
  /-- CAP.DROP.COUNT; reset 0. -/
  dropCount : Nat := 0
  /-- Pin record queue, oldest first (R211); reset empty. -/
  recQ : List Rec := []
  /-- Records dropped at the queue and not yet in a GAP (R211); reset none. -/
  qDrops : Drops := {}
deriving DecidableEq, Repr

/-- The strobe window of a TS vector that may still take an edge (R240). -/
structure TsWin where
  /-- Corrected T_SO and T_SC of the VOH half. -/
  openH : Nat
  closeH : Nat
  /-- Corrected T_SO and T_SC of the VOL half. -/
  openL : Nat
  closeL : Nat
  /-- Vector number. -/
  vec : Nat
  /-- Start of the vector. -/
  tv : Nat
  /-- Its first selected edge has come and was merged (R240). -/
  seen : Bool
deriving DecidableEq, Repr

/-- What an arming of the stamper replaces: the marks and counters of the arming before it, put back when a disarming of the same GT
discards the arming (R236). -/
structure StpWas where
  /-- ARM_CAUSE, STP.ARM_GT and whether PG_EVT latched ARMED. -/
  armCause : Nat := 0
  armT : Nat := 0
  latched : Bool := false
  /-- Numbering, prescaler and merged edges. -/
  presc : Nat := 0
  unknown : Bool := false
  num : Nat := 0
  merged : Nat := 0
  /-- STP.SNAP_REC and STP.SNAP_MISC. -/
  mergedAll : Nat := 0
  stamps : Nat := 0
  lostAll : Nat := 0
  tsEmpty : Nat := 0
deriving DecidableEq, Repr

/-- Stamper of a window (R226 to R245). -/
structure StpSt where
  /-- No disarming has been accepted since the latest arming: STP.STAT.ARMED, with `StpSt.isArmed`; reset 0. -/
  armed : Bool := false
  /-- STP.STAT.ARM_CAUSE; reset 0. -/
  armCause : Nat := 0
  /-- STP.STAT.DISARM_CAUSE; reset 0. -/
  disarmCause : Nat := 0
  /-- STP.ARM_GT and its epoch; reset 0. -/
  armT : Nat := 0
  /-- STP.DISARM_GT and its epoch; reset 0. -/
  disarmT : Nat := 0
  /-- Effective GT of the latest disarming that arrived, one of a disarmed stamper among them (R236); reset none. -/
  offT : Option Nat := none
  /-- What the latest arming replaced (R236); reset nothing. -/
  was : StpWas := {}
  /-- Prescaler count (R228); reset 0. -/
  presc : Nat := 0
  /-- No stamp has been captured since arming or since a window exchange (R229, R245); reset false. -/
  unknown : Bool := false
  /-- Number of the next numbered edge (R231); reset 0. -/
  num : Nat := 0
  /-- Stamp of the last numbered edge (R230); reset none. -/
  lastT : Option Nat := none
  /-- Time of the latest selected edge (R228); reset none. -/
  rawT : Option Nat := none
  /-- Edges merged since the last numbered edge (R230); reset 0. -/
  merged : Nat := 0
  /-- STP.SNAP_MISC.MERGED; reset 0. -/
  mergedAll : Nat := 0
  /-- Capture stage, oldest first (R232), with the GAP record of an arming that is over behind its stamps (R233); reset empty. -/
  stage : List Rec := []
  /-- Local buffer, oldest first (R232); reset empty. -/
  buf : List Rec := []
  /-- Records that left the local buffer at the latest instant of a pop: true time, how many (R113); reset none. -/
  popNow : Nat × Nat := (0, 0)
  /-- Time of the latest transfer into the local buffer (R232); reset none. -/
  moveT : Option Nat := none
  /-- Edges lost with no GAP yet: count and stamp of the first; LOSS_PENDING (R233); reset none. -/
  loss : Option (Nat × Nat) := none
  /-- STP.STAT.FULLISH (R234); reset 0. -/
  fullish : Bool := false
  /-- STP.STAT.REFUSED; reset 0. -/
  refused : Bool := false
  /-- STP.STAT.REASON; reset 0. -/
  reason : Nat := 0
  /-- STP.SNAP_REC.STAMPS; reset 0. -/
  stamps : Nat := 0
  /-- STP.SNAP_REC.LOST; reset 0. -/
  lostAll : Nat := 0
  /-- STP.SNAP_MISC.TS_EMPTY; reset 0. -/
  tsEmpty : Nat := 0
  /-- TS windows that may still take an edge (R240); reset none. -/
  ts : List TsWin := []
deriving DecidableEq, Repr

/-- An occurrence on its way to the trigger engine: arrival time, SRC, SEL, mark code (R247, R248). -/
structure EngIn where
  /-- Arrival time. -/
  at_ : Nat
  /-- SRC of R248. -/
  src : Nat
  /-- SEL that the occurrence matches. -/
  sel : Nat
  /-- Mark code, for SRC MARK. -/
  code : Nat
deriving DecidableEq, Repr

/-- A delayed action of the trigger engine: effect time, ARC_ACT word, transition time (R254). -/
structure EngAct where
  /-- Time the action takes effect. -/
  at_ : Nat
  /-- ACQ.ARC_ACT of the deciding arc. -/
  act : Word
  /-- The transition's time. -/
  tr : Nat
deriving DecidableEq, Repr

/-- Trigger engine of a window (R246 to R257). -/
structure EngSt where
  /-- ACQ.ENG_STAT.RUNNING; reset 0. -/
  running : Bool := false
  /-- ACQ.ENG_STAT.STATE; reset 0. -/
  state : Nat := 0
  /-- ACQ.ENG_STAT.FLAGS; reset 0. -/
  flags : BitVec 4 := 0
  /-- ACQ.ENG_STAT.REFUSED; reset 0. -/
  refused : Bool := false
  /-- ACQ.ENG_STAT.REASON; reset 0. -/
  reason : Nat := 0
  /-- ACQ.ENG_STAT.PULSE_DROP; reset 0. -/
  pulseDrop : Nat := 0
  /-- ACQ.ENG_STAT.TRANSITIONS; reset 0. -/
  transitions : Nat := 0
  /-- ACQ_CNT[0] to ACQ_CNT[3] (R252); reset 0. -/
  cnt : Tab Nat := []
  /-- Expiry times of the running timers ACQ_TMR[0] to ACQ_TMR[3] (R253); reset none. -/
  tmr : Tab (Option Nat) := []
  /-- Occurrences that have not yet taken part in a sample (R247); reset none. -/
  ins : List EngIn := []
  /-- Delayed actions not yet in effect, oldest first (R254); reset none. -/
  acts : List EngAct := []
  /-- GT of the latest sample: one sample at each (R247); reset none. -/
  sampT : Option Nat := none
deriving DecidableEq, Repr

/-- A sample offered to the reduction (R258 to R260). -/
structure RedIn where
  /-- GT of the sample. -/
  at_ : Nat
  /-- Quantity (current) and range. -/
  qty : Bool × Nat
  /-- The sample, as a number. -/
  val : Int
  /-- A clamp acted. -/
  clamped : Bool
  /-- It stood at an end of the code range. -/
  oversub : Bool
deriving DecidableEq, Repr

/-- Min/max reduction of a window (R258 to R260). -/
structure RedSt where
  /-- ACQ.RED_STAT.ARMED; reset 0. -/
  armed : Bool := false
  /-- ACQ.RED_STAT.ARM_CAUSE; reset 0. -/
  armCause : Nat := 0
  /-- ACQ.RED_STAT.DISARM_CAUSE; reset 0. -/
  disarmCause : Nat := 0
  /-- ACQ.RED_STAT.REFUSED; reset 0. -/
  refused : Bool := false
  /-- ACQ.RED_STAT.REASON; reset 0. -/
  reason : Nat := 0
  /-- ACQ.RED_STAT.INTERVAL; reset 0. -/
  interval : Nat := 0
  /-- ACQ.RED_ARM_GT and its epoch; reset 0. -/
  armT : Nat := 0
  /-- Effective GT of the latest disarming that arrived, one of a disarmed reduction among them (R259); reset none. -/
  disarmT : Option Nat := none
  /-- ARM_CAUSE, RED_ARM_GT and INTERVAL that the latest arming replaced (R236, R259); reset 0. -/
  was : Nat × Nat × Nat := (0, 0, 0)
  /-- The latest sample of the ADC, which an arming or a disarming of the same GT still decides (R259); reset none. -/
  due : Option RedIn := none
  /-- A change at that sample's GT ends the interval with it (R260); reset false. -/
  cut : Bool := false
  /-- Samples gathered in the interval; 0 when none is open; reset 0. -/
  n : Nat := 0
  /-- Lowest and highest sample gathered, as numbers; reset 0. -/
  lo : Int := 0
  hi : Int := 0
  /-- Time of the interval's first sample; reset 0. -/
  t0 : Nat := 0
  /-- The interval started off the grid (R260); reset false. -/
  short : Bool := false
  /-- Quantity (current) and range of the interval; reset (false, 0). -/
  qty : Bool × Nat := (false, 0)
  /-- A clamp acted; reset false. -/
  clamped : Bool := false
  /-- A sample stood at an end of the code range; reset false. -/
  oversub : Bool := false
deriving DecidableEq, Repr

/-- Windowed capture of a window (R261 to R265). -/
structure CwSt where
  /-- ACQ.WIN_STAT.PHASE: 0 IDLE, 1 PRE, 2 POST, 3 DONE; reset 0. -/
  phase : Nat := 0
  /-- ACQ.WIN_STAT.POST_CLIPPED; reset 0. -/
  clipped : Bool := false
  /-- ACQ.WIN_STAT.PRE_SHORT; reset 0. -/
  preShort : Bool := false
  /-- ACQ.WIN_STAT.REFUSED; reset 0. -/
  refused : Bool := false
  /-- ACQ.WIN_STAT.REASON; reset 0. -/
  reason : Nat := 0
  /-- Write and read pointers of the window ring, unreduced (R262); reset 0. -/
  wr : Nat := 0
  rd : Nat := 0
  /-- Capacity C at the arming, in records (R262); reset 0. -/
  cap : Nat := 0
  /-- PRE at the arming (R262); reset 0. -/
  pre : Nat := 0
  /-- ACQ.WIN_POST.POST_EFF; reset 0. -/
  postEff : Nat := 0
  /-- ACQ.WIN_POST.POST_HELD; reset 0. -/
  postHeld : Nat := 0
  /-- ACQ.WIN_STAT.PRE_HELD; reset 0. -/
  preHeld : Nat := 0
  /-- ACQ.WIN_STAT.IGNORED; reset 0. -/
  ignored : Nat := 0
  /-- ACQ.WIN_TRIG_GT and its epoch; reset 0. -/
  trigT : Nat := 0
deriving DecidableEq, Repr

/-- The reaction fabric at a pin (R106, R107). -/
structure FabSt where
  /-- Decision signals FAIL, PASS, ABOVE, BELOW, MID (R107); reset false. -/
  sigs : BitVec 5 := 0
  /-- Values of FAB[0] to FAB[15] (R106); reset false. -/
  ins : BitVec 16 := 0
  /-- Effective time of each of those values, by input (R106); reset 0. -/
  insT : Tab Nat := []
  /-- Changes on their way to the inputs: effective time, input, value, oldest first (R106); reset none. -/
  due : List (Nat × Nat × Bool) := []
deriving DecidableEq, Repr

/-- One register window and the logical pin it belongs to (R22). -/
structure Win where
  /-- CTL page. -/
  md : ModeSt := {}
  /-- SEQ page: program. -/
  sq : SeqSt := {}
  /-- SEQ and TIM pages: output time. -/
  pl : PlaySt := {}
  /-- SLU page: Sluice. -/
  sl : SluSt := {}
  /-- SLU page: holding pattern. -/
  ho : HoldSt := {}
  /-- SLU page: intake. -/
  ik : IntakeSt := {}
  /-- TIM page. -/
  tm : TimSt := {}
  /-- AFE and PMU pages. -/
  pm : PmuSt := {}
  /-- CAP page. -/
  cp : CapSt := {}
  /-- MON page. -/
  mn : MonSt := {}
  /-- STP page. -/
  st : StpSt := {}
  /-- ACQ page: trigger engine. -/
  en : EngSt := {}
  /-- ACQ page: reduction. -/
  rd : RedSt := {}
  /-- ACQ page: windowed capture. -/
  cw : CwSt := {}
  /-- Reaction inputs and decision signals. -/
  fb : FabSt := {}
deriving DecidableEq, Repr

/-- A scheduled transition of the driver: instant, vector, order in the table of R158, what it does. -/
structure Edge where
  /-- Corrected instant (R156). -/
  at_ : Nat
  /-- Vector that places it (R159). -/
  vec : Nat
  /-- Order within the vector (R159). -/
  ord : Nat
  /-- An enable transition; false a level transition. -/
  enable : Bool
  /-- Value set; none inverts the level (CLK, R158). -/
  val : Option Bool
deriving DecidableEq, Repr

/-- One physical slot: its AFE channel, driver, calibration and drift (R168 to R172, R188). -/
structure Slot where
  /-- CTL.MODE_STAT.AFE_ON: the AFE channel is powered (R42); reset off. -/
  afeOn : Bool := false
  /-- Driver enable (R157); reset off. -/
  drvEn : Bool := false
  /-- Driver data level (R157, R161); reset low. -/
  drvHigh : Bool := false
  /-- Transitions placed and not yet settled, in order of instant (R159, R160); reset none. -/
  edges : List Edge := []
  /-- TIM.CAL_CH: active channel terms (R168); reset from the seed, 0 here (DESIGN CHOICE, log 7). -/
  chTerm : BitVec 60 := 0
  /-- TIM.CAL_MEAS; reset 0. -/
  meas : BitVec 60 := 0
  /-- TIM.PATH_TERM: loaded path terms; reset from the seed, 0 here (DESIGN CHOICE, log 7). -/
  pathTerm : BitVec 60 := 0
  /-- TIM.CAL_STAT.SOURCE: MEASURED; reset 0. -/
  measured : Bool := false
  /-- TIM.CAL_STAT.CAL_SEED; reset 1. -/
  calSeed : Bool := true
  /-- TIM.CAL_STAT.SEED_BAD; reset 0. -/
  seedBad : Bool := false
  /-- OP of the calibration in progress, TIM.CAL_STAT.BUSY; reset none. -/
  calOp : Option Nat := none
  /-- TIM.CAL_STAT OUTCOME, REASON, SEQ, VALID; reset 0. -/
  cal : Res := {}
  /-- TIM.CAL_STAT.TJ; reset 0. -/
  calTj : Byte := 0
  /-- TIM.CAL_GT; reset 0. -/
  calT : Nat := 0
  /-- The drift term applied at the latest drift update (R172); TIM.DRIFT.DRIFT is `Slot.driftAt`; reset 0. -/
  drift : Int := 0
  /-- The drift term that it moves to, by at most 1 tq per 10 µs (R172); reset 0. -/
  driftTo : Int := 0
  /-- Reference reading of the delay replica (R172); reset none. -/
  driftRef : Option Int := none
  /-- Time of the latest drift update (R172); reset 0. -/
  driftT : Nat := 0
  /-- AFE.SW_STATE.CHECK_V (R188); reset 0. -/
  checkV : BitVec 16 := 0
  /-- K_CAL of the slot closed (R187); reset open. -/
  kcal : Bool := false
  /-- Place of the next record in the slot's calibration history ring, once found after a device reset (R268); power-on 0. -/
  hist : Option Nat := some 0
  /-- History records that wait for the stack to serve, oldest first (R268, R388); reset none. -/
  histDue : List Nat := []
deriving DecidableEq, Repr

/-- Harvest engine of a cluster, its staging and host ring (R212 to R217). -/
structure HvsSt where
  /-- Input served next in the round-robin (R212); reset 0. -/
  turn : Nat := 0
  /-- Records of the cluster collector waiting for the engine; reset empty. -/
  collQ : List Rec := []
  /-- Bank ring of staging, oldest first (R213); reset empty. -/
  bank : List Rec := []
  /-- Write pointer of the bank ring, unreduced; reset 0. -/
  bankWr : Nat := 0
  /-- Stack ring of staging, oldest first (R213); reset empty. -/
  stack : List Rec := []
  /-- Write pointer of the stack ring, unreduced; reset 0. -/
  stackWr : Nat := 0
  /-- Records that left staging at the latest instant of a pop: true time, how many (R113); reset none. -/
  popNow : Nat × Nat := (0, 0)
  /-- HST.HVS_STAT.DROPPING and the counts of the episode (R213); reset none. -/
  drops : Drops := {}
  /-- HST.HVS_DROP.RECORDS; reset 0. -/
  dropAll : Nat := 0
  /-- HST.HVS_DROP.GAPS; reset 0. -/
  gaps : Nat := 0
  /-- HST.HVS_PROD: write pointer of the host ring (R214); reset 0. -/
  wr : Nat := 0
  /-- HST.HVS_CONS: read pointer of the host ring (R215); reset 0. -/
  rd : Nat := 0
  /-- Records written since wr was last posted (R214); reset 0. -/
  unposted : Nat := 0
  /-- HST.HVS_STAT.READY; reset 0. -/
  ready : Bool := false
  /-- HST.HVS_STAT.BACKLOG; reset 0. -/
  backlog : Bool := false
  /-- Since when the level has stayed above zero with READY released (R216); reset none. -/
  since : Option Nat := none
  /-- The second HVS_READY condition has fired in this stretch (R216); reset false. -/
  coal : Bool := false
  /-- HST.HVS_STAT.CONS_REFUSED; reset 0. -/
  consRefused : Bool := false
  /-- HST.HVS_STAT.CFG_REFUSED; reset 0. -/
  cfgRefused : Bool := false
deriving DecidableEq, Repr

/-- One cluster (R21). -/
structure Clu where
  /-- CLU_c.AFE_PWR.REQ (R54); reset 0. -/
  afeReq : Bool := false
  /-- CLU_c.AFE_PWR.STATE: 0 OFF, 1 POWERING, 2 ON, 3 FAULT; reset 0. -/
  afeState : Nat := 0
  /-- CLU_c.AFE_PWR.REFUSED; reset 0. -/
  afeRefused : Bool := false
  /-- CLU_c.PIN_MAP: position exchanged with the spare (R195); reset none (SWAPPED 0). -/
  swapped : Option (BitVec 4) := none
  /-- The exchange in progress: position (R195); reset none. -/
  swapping : Option (BitVec 4) := none
  /-- CLU_c.SWAP_RESULT; reset 0. -/
  swap : Res := {}
  /-- CLU_c.RETIRE.RETIRED; reset from the Ledger. -/
  retired : BitVec 17 := 0
  /-- CLU_c.RETIRE.REFUSED; reset 0. -/
  retRefused : Bool := false
  /-- K_DUT(k) closed, bit k (R187); reset open. -/
  kdut : BitVec 16 := 0
  /-- K_SPARE(k) closed, bit k (R187); reset open. -/
  kspare : BitVec 16 := 0
  /-- Live closure counts by SW_LIFE index (R191); reset from the stored counts. -/
  life : Tab Nat := []
  /-- A flush is outstanding: CLU_c.SW_FLUSH.DONE reads 0 (R192); reset false. -/
  flushing : Bool := false
  /-- Calibrated LAT of the cluster's routes, whole tq, by route (R109); reset 0. -/
  lat : Tab Nat := []
  /-- Values the exports present (R107); reset false. -/
  expo : BitVec 8 := 0
  /-- PWR.HEADROOM.VALUE (R30); reset 0. -/
  headroom : Int := 0
  /-- PWR.HEADROOM.NO_DEMAND; reset 0. -/
  noDemand : Bool := false
  /-- PWR.HEADROOM.CAPACITY; reset 0. -/
  capacity : Nat := 0
  /-- PWR.HEADROOM.DEMAND; reset 0. -/
  demand : Nat := 0
  /-- PWR.HEADROOM.SEQ without its modulus; reset 0. -/
  hrSeq : Nat := 0
  /-- PWR.HEADROOM.VALID; reset 0. -/
  hrValid : Bool := false
  /-- The low-headroom event is armed (R33); reset armed. -/
  hrArmed : Bool := true
  /-- PWR.HR_CFG.REFUSED (R33); reset 0. -/
  hrRefused : Bool := false
  /-- Harvest engine. -/
  hv : HvsSt := {}
deriving DecidableEq, Repr

/-- Status of one fault source (R299). -/
structure SrcSt where
  /-- PEND_E, PEND_C, PEND_U, PEND_F in bits 0 to 3; reset 0. -/
  pend : BitVec 4 := 0
  /-- Those of the PEND bits that a detection outside any consequential window set: the ones that escalate (R297, R303); reset 0. -/
  base : BitVec 4 := 0
  /-- Codes of condition detections whose cause persists: COND (R299); reset none. -/
  causes : List Nat := []
  /-- MULTI_FATAL; reset 0. -/
  mf : Bool := false
  /-- CONSEQ; reset 0. -/
  conseq : Bool := false
  /-- INJ; reset 0. -/
  inj : Bool := false
  /-- SEQ; reset 0. -/
  seq : BitVec 16 := 0
  /-- COUNT, saturating at 2^32 - 1; reset 0. -/
  count : Nat := 0
  /-- Times of the detections counted in COUNT mode (R298); reset none. -/
  win : List Nat := []
  /-- Times of the records taken, latest first (R15); reset none. -/
  times : List Nat := []
deriving DecidableEq, Repr

/-- What a first-fault latch holds (R300): source, class, flags, time. -/
structure First where
  src : Nat
  cls : Nat
  esc : Bool
  inj : Bool
  real : Bool
  at_ : Nat
  /-- OVF (R300). -/
  ovf : Bool
  /-- The decision stays open until this time (R37); none once final. -/
  openUntil : Option Nat
deriving DecidableEq, Repr

/-- One fault collector (R299, R300, R304). -/
structure Coll where
  /-- Sources by index (by j at device level); reset none. -/
  srcs : Tab SrcSt := []
  /-- First-fault latch; VALID when present (R300); reset none. -/
  first : Option First := none
  /-- STAT.CLEAR_REFUSED (R304); reset 0. -/
  clrRefused : Bool := false
  /-- STAT.REASON (R304); reset 0. -/
  reason : Nat := 0
  /-- STAT.CFG_REFUSED (R304); reset 0. -/
  cfgRefused : Bool := false
deriving DecidableEq, Repr

/-- One detection: its code, native class (0 event, 1 C, 2 U, 3 F), segment and value (R294). -/
structure DetPart where
  code : Nat
  native : Nat
  shelf : Shelf
  value : BitVec 28
  /-- Detected in a consequential window (R303). -/
  conseq : Bool
  /-- Injected (R308). -/
  inj : Bool
  /-- Confined to records (R308). -/
  dry : Bool
deriving DecidableEq, Repr

/-- Detections of one source in one tq, on their way to the collector as one record (R15, R36). -/
structure Det where
  /-- Source ID (R18). -/
  src : Nat
  /-- Logical pin the slot serves, for channel sources. -/
  pin : Option Nat
  /-- Time of the detection; records made before GT runs carry 0 (R381). -/
  at_ : Nat
  /-- The detections, in order of arrival. -/
  parts : List DetPart
  /-- Further occurrences counted in this record (R60). -/
  more : Nat
  /-- Its time is of the count of GT before a device reset (R302). -/
  past : Bool := false
deriving DecidableEq, Repr

/-- Bring-up, resets, commit and snapshots of the DEV and PWR pages (R341, R370, R374 to R385). -/
structure DevSt where
  /-- POR_N held low (R377); reset low. -/
  porLow : Bool := true
  /-- DEV.BRINGUP.STATE (R379); reset 0x0 KEEPER. -/
  bringup : Nat := 0
  /-- Bring-up re-run by a device reset: no march, no zero-fill (R385); reset false. -/
  rerun : Bool := false
  /-- DEV.BRINGUP.STEP_FAIL; reset 0. -/
  stepFail : BitVec 5 := 0
  /-- DEV.REV.GRADE (R5, R379); reset from fuses: 0 until loaded. -/
  grade : BitVec 2 := 0
  /-- DEV.RESET_STAT.CAUSE; reset 0. -/
  cause : Nat := 0
  /-- DEV.RESET_STAT.REFUSED; reset 0. -/
  refused : Bool := false
  /-- DEV.RESET_STAT.COUNT; reset 0. -/
  count : Nat := 0
  /-- DEV.RESET_STAT.SRC; reset 0. -/
  src : Nat := 0
  /-- DEV.RESET_STAT.DROPPED; reset 0. -/
  dropped : Nat := 0
  /-- A device reset has not yet returned every register (R370); reset false. -/
  regPhase : Bool := false
  /-- Causes that a device reset found persisting and that still do, as source and detection code: detected again at the end of bring-up
  (R310); reset none. -/
  again : List (Nat × Nat) := []
  /-- PWR.BU_STAT.DROPPED (R382); reset 0. -/
  buDropped : Nat := 0
  /-- PWR.BU_STAT.HELD_LOST (R381); reset 0. -/
  heldLost : Nat := 0
  /-- DEV.COMMIT_STAT.SEQ; reset 0. -/
  commitSeq : BitVec 16 := 0
  /-- Pages of resets in progress (R370); reset none. -/
  resets : List Nat := []
  /-- DEV.SNAP_GT and SNAP_INFO.EPOCH (R375); reset 0. -/
  snapT : Nat := 0
  /-- DEV.SNAP_INFO.SEQ without its modulus; reset 0. -/
  snapSeq : Nat := 0
  /-- DEV.SNAP_INFO.VALID; reset 0. -/
  snapValid : Bool := false
  /-- A device-wide snapshot is in progress (R375); reset false. -/
  snapBusy : Bool := false
  /-- PWR.STK_STATE of M0 and M1: 0 ACTIVE, 1 SELF_REFRESH, 2 CHANGING, 3 NOT_TRAINED; reset 3. -/
  stk : Nat × Nat := (3, 3)
  /-- Target of a stack change in progress (R388); reset none. -/
  stkTo : Option Nat × Option Nat := (none, none)
  /-- PWR.STK_STATE.HOST_DROP; reset 0. -/
  stkDrop : Nat := 0
  /-- PWR.STK_RESULT; reset 0. -/
  stkRes : Res := {}
  /-- PWR.STK_RESULT.STACK; reset 0. -/
  stkWhich : Nat := 0
deriving DecidableEq, Repr

/-- Snapshot of one page: SEQ, VALID, and the values copied at the TAKE while the copy is in progress (R342). -/
structure SnapSt where
  seq : Nat := 0
  valid : Bool := false
  copy : Option (List (Nat × Word)) := none
deriving DecidableEq, Repr

/-- Timebase and the REF page (R146 to R148, R345, R357, R358). -/
structure RefSt where
  /-- REF.TB_STAT.LOCKED; reset 0. -/
  locked : Bool := false
  /-- REF.TB_STAT.HOLDOVER; reset 0. -/
  holdover : Bool := false
  /-- REF.TB_STAT.REF_PRESENT; reset 0. -/
  present : Bool := false
  /-- REF.TB_STAT.SLEWING; reset 0. -/
  slewing : Bool := false
  /-- REF.TB_STAT.ALIGNED (R357); reset 0. -/
  aligned : Bool := false
  /-- REF.TB_STAT.LOSSES; reset 0. -/
  losses : Nat := 0
  /-- REF.LOSS_GT; reset 0. -/
  lossT : Nat := 0
  /-- REF.RELOCK_GT; reset 0. -/
  relockT : Nat := 0
  /-- REF.PHASE_ERR.PHASE; reset 0. -/
  phase : BitVec 40 := 0
  /-- REF.PHASE_ERR.SOURCE: NYWEN; reset 0. -/
  phaseNyw : Bool := false
  /-- REF.ALIGN_GT; reset 0. -/
  alignT : Nat := 0
  /-- REF.ALIGN_STEP; reset 0. -/
  alignStep : BitVec 64 := 0
deriving DecidableEq, Repr

/-- A Nywen item waiting for its delivery GT (R354): kind 3 START, 4 STOP, 5 JUMP, 9 lane, 10 flag. -/
structure NywItem where
  /-- Delivery time. -/
  at_ : Nat
  /-- It came from this part itself, not over the link (R359). -/
  own : Bool
  kind : Nat
  /-- Channel, lane or flag number. -/
  idx : Nat
  /-- Slot, or the lane's or flag's value. -/
  val : Nat
  /-- Sampling instant of a lane or flag at its owner (R355). -/
  org : Nat
deriving DecidableEq, Repr

/-- An edge at a ball on its way to its acceptance (R347 to R349, R354). -/
structure LinkEdge where
  /-- Acceptance GT. -/
  at_ : Nat
  /-- 0 the start router, 1 the stop router, 2 + j link channel j. -/
  dest : Nat
  /-- Slot that the jump names. -/
  slot : Nat
deriving DecidableEq, Repr

/-- Chassis triggers, routers and the Nywen link: the SYN page (R346 to R359). -/
structure SynSt where
  /-- TRIG[n] asserted at its ball (R346); reset 0. -/
  trig : BitVec 8 := 0
  /-- SYN.TRIG_STAT.CONTENTION; reset 0. -/
  contention : BitVec 8 := 0
  /-- SYN.TRIG_STAT.CFG_REFUSED; reset 0. -/
  cfgRefused : Bool := false
  /-- Pulses on the trigger lines: line, driver (136 for SYN.TRIG_CMD), end time (R255, R346); reset none. -/
  pulses : List (Nat × Nat × Nat) := []
  /-- Begin and end of each STAR_OUT pulse that has not ended, oldest first (R347, R399); reset none. -/
  starOut : List (Nat × Nat) := []
  /-- Edges at TRIG and STAR_IN balls on their way to an acceptance, in its order (R348, R349, R354); reset none. -/
  coming : List LinkEdge := []
  /-- STAR_IN shows a valid level, and is high (R347); reset (true, false). -/
  starIn : Bool × Bool := (true, false)
  /-- Start events accepted and not yet delivered: t_e (R348); reset none. -/
  starts : List Nat := []
  /-- Stop events accepted and not yet delivered (R349); reset none. -/
  stops : List Nat := []
  /-- Timebase cycle of the latest accepted start and stop (R348); reset none. -/
  startCyc : Option Nat := none
  stopCyc : Option Nat := none
  /-- SYN.START_GT; reset 0. -/
  startT : Nat := 0
  /-- SYN.STOP_GT; reset 0. -/
  stopT : Nat := 0
  /-- SYN.EVT_INFO.START_SEQ; reset 0. -/
  startSeq : BitVec 16 := 0
  /-- SYN.EVT_INFO.STOP_SEQ; reset 0. -/
  stopSeq : BitVec 16 := 0
  /-- SYN.NYW_STAT.LOCK; reset 0. -/
  lock : BitVec 2 := 0
  /-- SYN.NYW_STAT.DEV; reset 0. -/
  dev : BitVec 16 := 0
  /-- The whole of the latest deviation from position 0, once a TIME_LO and a TIME_HI have been received (R357, R358); reset none. -/
  devAll : Option Int := none
  /-- Consecutive good frames of each receiver (R351); reset 0. -/
  good : Nat × Nat := (0, 0)
  /-- Which of the latest 64 frames of each receiver were bad (R351); reset none. -/
  bad : BitVec 64 × BitVec 64 := (0, 0)
  /-- The latest frame of each transmitter as it stands on the line, scrambled (R351); reset 0 (DESIGN CHOICE, log 131). -/
  line : BitVec 80 × BitVec 80 := (0, 0)
  /-- SYN.NYW_STAT.LATE; reset 0. -/
  late : Nat := 0
  /-- SYN.NYW_STAT.CRC_ERR; reset 0. -/
  crcErr : Nat := 0
  /-- SYN.NYW_RESULT; reset 0. -/
  nyw : Res := {}
  /-- A RETRAIN has dropped the receivers' lock and waits for it (SYN.NYW_CMD); reset false. -/
  retraining : Bool := false
  /-- Reaction lanes and link flags last received or sampled (R356); reset 0. -/
  lanes : BitVec 8 := 0
  flags : BitVec 8 := 0
  /-- Lanes and flags whose value has been sampled or received since the link was last down (R359); reset none. -/
  lanesSeen : BitVec 8 := 0
  flagsSeen : BitVec 8 := 0
  /-- Lane and flag values as delivered to this part (R354); reset 0. -/
  lanesIn : BitVec 8 := 0
  flagsIn : BitVec 8 := 0
  /-- Frames to be forwarded, by direction, oldest first (R353); reset none. -/
  fwd : List (Nat × BitVec 80) := []
  /-- Own event frames not yet sent, by direction, in order of acceptance (R353); reset none. -/
  own : List (Nat × BitVec 80) := []
  /-- Frames sent since the latest TIME_LO and TIME_HI, by direction (R353); reset (0, 0). -/
  sinceTime : Nat × Nat := (0, 0)
  /-- Start of the latest frame sent, by direction (R351); reset none. -/
  sentT : Option Nat × Option Nat := (none, none)
  /-- Items waiting for delivery (R354); reset none. -/
  items : List NywItem := []
  /-- Low half of position 0's time, from the latest TIME_LO frame (R352, R357); reset none. -/
  timeLo : Option Nat := none
deriving DecidableEq, Repr

/-- Host port: link, configuration space, tags and interrupts: the HST and IRQ pages (R332 to R344). -/
structure HostSt where
  /-- PERST_N released (R383); reset false. -/
  perst : Bool := false
  /-- HST.LINK_STAT.UP; reset 0. -/
  up : Bool := false
  /-- HST.LINK_STAT.GEN; reset 0. -/
  gen : Nat := 0
  /-- HST.LINK_STAT.WIDTH; reset 0. -/
  width : Nat := 0
  /-- HST.LINK_STAT.FLIT; reset 0. -/
  flit : Bool := false
  /-- 10-bit Tag Requester Enable (R131, R333); reset 0. -/
  tag10 : Bool := false
  /-- 14-bit Tag Requester Enable (R131, R333); reset 0. -/
  tag14 : Bool := false
  /-- HST.LINK_STAT.L1 and the D3hot power state (R336); reset 0. -/
  l1 : Bool := false
  /-- HST.LINK_STAT.RETRAINS; reset 0. -/
  retrains : Nat := 0
  /-- Configuration space dwords the host has written, by dword number (R336, R383); reset none. -/
  cfgSpace : Tab (BitVec 32) := []
  /-- Bus Master Enable of configuration space (R335); reset 0. -/
  bme : Bool := false
  /-- MSI-X Enable (R343); reset 0. -/
  msixEn : Bool := false
  /-- MSI-X Function Mask (R343); reset 0. -/
  funcMask : Bool := false
  /-- Intake budget B in force at ARMs (R135); reset 0. -/
  budget : Nat := 0
  /-- Maximum Read Request Size the host has configured, in bytes (R129); reset 512 (PRESUMED, log 20). -/
  mrrs : Nat := 512
  /-- Tags in flight: tag, window (R131); reset none. -/
  tags : List (Nat × Nat) := []
  /-- Window served last by the intake engine (R131); reset 135. -/
  lastWin : Nat := 135
  /-- HST.BAR_STAT.BAR2_SIZE (R340); reset 6. -/
  bar2Size : Nat := 6
  /-- HST.BAR_STAT.WIN_REFUSED; reset 0. -/
  winRefused : Bool := false
  /-- HST.BAR_STAT.BAR0_DROP (R339); reset 0. -/
  bar0Drop : Nat := 0
  /-- IRQ.STAT.ADDR_REFUSED (R344); reset 0. -/
  addrRefused : Bool := false
  /-- IRQ.STAT.SKIPPED (R335); reset 0. -/
  skipped : Nat := 0
  /-- MSI-X table dwords, by byte offset (R338); reset each vector masked (bit 0 of dword 3). -/
  msixTab : Tab (BitVec 32) := []
  /-- Pending bits of the vectors (R343); reset 0. -/
  msixPend : Tab Bool := []
  /-- Since when a vector has been pending and masked (R343); reset none. -/
  msixSince : Tab (Option Nat) := []
  /-- Time of each vector's latest message (R343); reset none. -/
  msixLast : Tab (Option Nat) := []
  /-- Signals held by the gap of a vector (R343); reset none. -/
  msixGap : Tab Bool := []
deriving DecidableEq, Repr

/-- ALIVE, the trap and the event log: the FLT page (R305 to R307), and injection (R308). -/
structure FltSt where
  /-- ALIVE: none high-impedance, else its level (R305); reset high-impedance. -/
  alive : Option Bool := none
  /-- FLT.ALIVE_STAT.RUNNING; reset 0. -/
  running : Bool := false
  /-- FLT.ALIVE_STAT.CAUSE; reset 0. -/
  cause : Nat := 0
  /-- FLT.ALIVE_STAT.RESUME_REFUSED; reset 0. -/
  resumeRefused : Bool := false
  /-- FLT.ALIVE_STAT.SRC; reset 0. -/
  aliveSrc : Nat := 0
  /-- The keeper receives the heartbeat (R305); reset true. -/
  heartbeat : Bool := true
  /-- FLT.ALIVE_CFG.POL; reset from the Ledger. -/
  pol : Bool := false
  /-- FLT.TRAP_STAT.ASSERTED (R306); reset 0. -/
  trap : Bool := false
  /-- FLT.TRAP_STAT.TRAP_SEQ; reset 0. -/
  trapSeq : BitVec 16 := 0
  /-- FLT.LOG_PROD (R307); reset 0. -/
  logWr : Nat := 0
  /-- FLT.LOG_CONS (R307); reset 0. -/
  logRd : Nat := 0
  /-- Records that the host released at the latest instant of a pop: true time, how many (R113); reset none. -/
  logPop : Nat × Nat := (0, 0)
  /-- FLT.LOG_STAT.READY; reset 0. -/
  logReady : Bool := false
  /-- FLT.LOG_STAT.LOST; reset 0. -/
  logLost : Nat := 0
  /-- INJ.RESULT; reset 0. -/
  inj : Res := {}
  /-- INJ.RESULT.COINCIDED; reset 0. -/
  coincided : Bool := false
  /-- INJ.GT; reset 0. -/
  injT : Nat := 0
  /-- INJ.TARGET of the injection not yet delivered (R308); reset none. -/
  injPend : Option Word := none
  /-- Records of the device collector waiting for the engine (R212); reset empty. -/
  devQ : List Rec := []
deriving DecidableEq, Repr

/-- Stacks and working store: the MEM, WST and MCH pages (R267 to R289). -/
structure MemSt where
  /-- MEM.SCRUB_STAT[s].NEXT; reset the first word of each stack (0 for M0; see log 9). -/
  scrub : Nat × Nat := (0, 0)
  /-- MEM.SCRUB_STAT[s].PASSES; reset 0. -/
  passes : Nat × Nat := (0, 0)
  /-- Corrected and uncorrected words since reset, by counter (MEM.ECC_CNT, WST.ECC_CNT); reset 0. -/
  ecc : Tab Nat := []
  /-- MEM.ECC_LAST[s] and WST.ECC_LAST as register words; reset 0. -/
  last : Tab Word := []
  /-- Working-store scrub position by bank, in words (R273); reset 0. -/
  bankScrub : Tab Nat := []
  /-- WST.BANK_STATE by bank: 0 ON, 1 RETENTION, 2 OFF, 3 CHANGING; reset 0. -/
  bank : Tab Nat := []
  /-- Target state of a bank change in progress (R276); reset none. -/
  bankTo : Tab (Option Nat) := []
  /-- The first access to a bank that is not ON has been reported (R276); reset none. -/
  notOn : Tab Bool := []
  /-- WST.BANK_RESULT; reset 0. -/
  bankRes : Res := {}
  /-- WST.BANK_RESULT.BANK; reset 0. -/
  bankWhich : Nat := 0
  /-- WST.HOST_COLLIDE; reset 0. -/
  collide : Word := 0
  /-- WST.CONFLICT counters by bank * 16 + 2 * master: WAITS there, as of the latest snapshot, BUSY one further (R280); reset 0. -/
  conflict : Tab Nat := []
  /-- MCH.MARCH_STAT.STATE: 0 idle, 1 running, 2 aborting; reset 0. -/
  march : Nat := 0
  /-- MCH.MARCH_STAT OUTCOME, REASON, SEQ, VALID; reset 0. -/
  marchRes : Res := {}
  /-- MCH.MARCH_STAT.ROWS; reset 0. -/
  rows : Nat := 0
  /-- MCH.MARCH_STAT.FAILS; reset 0. -/
  fails : Nat := 0
  /-- MCH.MARCH_FAIL: target, row, column; reset none. -/
  failLoc : Option (Nat × Nat × Nat) := none
  /-- Borrowings in progress: target, row, phase 1 copy-in, 2 test, 3 copy-back (R283); reset none. -/
  borrow : List (Nat × Nat × Nat) := []
  /-- MCH.STARTUP.FAIL; reset 0. -/
  startup : BitVec 16 := 0
  /-- MCH.STARTUP.DONE; reset 0. -/
  startupDone : Bool := false
  /-- The repair in progress: bank, column, 1 waiting for the Ledger, 2 copying (R289); reset none. -/
  repair : Option (Nat × Nat × Nat) := none
  /-- MCH.REPAIR_RESULT; reset 0. -/
  repairRes : Res := {}
  /-- Columns served by a spare, by bank * 16384 + column: the spare's number (R288); reset from fuses and Ledger. -/
  spare : Tab Nat := []
  /-- Windows whose holding area BAR 4 reads as zeros: KEY_ID of entry 0 was not 0 at the latest ARM (R275); reset none. -/
  hidden : Tab Bool := []
  /-- Protected 64 KiB granules, by pin * 6144 + granule (R77, R324); reset none. -/
  tags : Tab Bool := []
deriving DecidableEq, Repr

/-- Life cycle, keys and erase: the SEC page (R311 to R325). -/
structure SecSt where
  /-- SEC.LC_STAT.STATE (R311); reset from the Ledger. -/
  lc : Nat := 0
  /-- The transition in progress: target (R313); reset none. -/
  trans : Option Nat := none
  /-- SEC.LC_RESULT; reset 0. -/
  res : Res := {}
  /-- SEC.KEK words written since the latest wipe, bit w (R312); reset 0. -/
  staged : BitVec 8 := 0
  /-- SEC.KEK staging words; reset 0. -/
  kekWords : BitVec 256 := 0
  /-- SEC.KEY_DATA staging words; reset 0. -/
  keyWords : BitVec 320 := 0
  /-- The key command in progress: OP (0 a load that a wipe overtook), slot (R321); reset none. -/
  keyOp : Option (Nat × Nat) := none
  /-- SEC.KEY_DATA as that command took it (R321); reset 0. -/
  keyIn : BitVec 320 := 0
  /-- SEC.KEY_RESULT; reset 0. -/
  keyRes : Res := {}
  /-- SEC.KEY_RESULT.SLOT; reset 0. -/
  keySlot : Nat := 0
  /-- SEC.KEY_MAP; reset 0. -/
  keyMap : BitVec 64 := 0
  /-- The erase in progress: pin, or all pins (R325); reset none. -/
  erase : Option (Option Nat) := none
  /-- SEC.ERASE_STAT OUTCOME, REASON, SEQ, VALID; reset 0. -/
  eraseRes : Res := {}
  /-- SEC.ERASE_STAT.GRANULES; reset 0. -/
  granules : Nat := 0
  /-- SEC.TAMPER_STAT.ACTIVE (R320); reset 0. -/
  active : BitVec 4 := 0
  /-- SEC.TAMPER_STAT.WIPES; reset 0. -/
  wipes : Nat := 0
  /-- A wipe is in progress (R316); reset false. -/
  wiping : Bool := false
  /-- SEC.TAMPER_GT; reset 0. -/
  tamperT : Nat := 0
deriving DecidableEq, Repr

/-- An append waiting for the keeper or in progress: KIND, OBJECT, VALUE (R328, R331). -/
structure Append where
  kind : Nat
  obj : BitVec 32
  val : BitVec 64
deriving DecidableEq, Repr

/-- The keeper: non-volatile store, Ledger and OTP, which outlive power (R192, R311, R326 to R331), and the VBAT domain. -/
structure KeepSt where
  /-- Ledger entries programmed, by index; a blank entry reads 0 (R326); as shipped entry 0 FACTORY
  with format version 1, COMMIT 0xA5 and its CHECK (R327). -/
  ledger : Tab (BitVec 256) := [(0, 0xf5251a5aa5000000000000000000000000000000000000010000000000000001)]
  /-- The owner KEK in OTP: none not installed or destroyed (R312); factory none. -/
  kek : Option (BitVec 256) := none
  /-- The OTP bits of the owner KEK are all 1: it has been destroyed (R312); factory false. -/
  kekSpent : Bool := false
  /-- Stored switch counts by cluster * 64 + index (R192); factory 0. -/
  stored : Tab Nat := []
  /-- Switches for which SW_WEAR has been raised, once for each, kept with the counts (R193, log 98); factory none. -/
  worn : Tab Bool := []
  /-- Stored thermal history POWERED_H and HOT_H (PWR.THERM); factory 0. -/
  therm : Nat × Nat := (0, 0)
  /-- Seed channel terms by slot (R169); factory 0 (DESIGN CHOICE, log 7). -/
  seedCh : Tab (BitVec 60) := []
  /-- Seed path terms by cluster * 32 + path, 16 + k for the direct path of slot c.k (R168); factory 0 (log 7). -/
  seedPath : Tab (BitVec 60) := []
  /-- Slots whose seed record fails its check (R169); factory none. -/
  seedBad : List Nat := []
  /-- Tamper detections made while unpowered, bit per input (R318); reset 0. -/
  unpowered : BitVec 4 := 0
  /-- Appends waiting, oldest first; the first is in progress (R331); reset none. -/
  queue : List Append := []
  /-- LDG.STAT.VERIFIED; reset 0. -/
  verified : Bool := false
  /-- LDG.SUBSYS (R330); reset the identity values. -/
  subsys : BitVec 32 := 0x71281F6A
  /-- LDG.RWL_RESULT OUTCOME, REASON, SEQ, VALID; reset 0. -/
  rwl : Res := {}
  /-- LDG.RWL_RESULT.KIND; reset 0. -/
  rwlKind : Nat := 0
  /-- PWR.TJ.NOW and MAX, signed °C (R413); reset 0. -/
  tj : Byte := 0
  tjMax : Byte := 0
  /-- PWR.RAIL[r].MV; reset 0. -/
  rail : Tab (BitVec 16) := []
  /-- WARN and TRIP of the rails, bits r and 16 + r (R391); reset 0. -/
  railBits : BitVec 32 := 0
  /-- VCC_PE lies outside its operating limits, as far as its monitor has shown (R396, the model's own); reset false. -/
  peOut : Bool := false
  /-- DBG.STAT.ACCESSES; reset 0. -/
  jtag : Nat := 0
  /-- DBG.STAT.TAP_ACTIVE; reset 0. -/
  tap : Bool := false
  /-- Levels that the boundary-scan chain drives in place of the part, in the order of `Ball` (R406, the model's own); reset none. -/
  scan : Option (List Bool) := none
deriving DecidableEq, Repr

/-- What the part sends to the host side and to the other buses, in order (R334, R345, R353, R407). -/
inductive Out where
  /-- A posted memory write: address and bytes. -/
  | write (addr : Nat) (bytes : List Byte)
  /-- An MSI-X message of a vector. -/
  | msix (vec : Nat)
  /-- A read request: tag, address, bytes. -/
  | read (tag addr len : Nat)
  /-- A completion of a host read: bytes, and whether poisoned (R272). -/
  | data (bytes : List Byte) (poisoned : Bool)
  /-- A configuration completion: value, or retry status (R383). -/
  | config (val : Option (BitVec 32))
  /-- A Nywen frame on a transmitter (R353). -/
  | frame (tx : Nat) (f : BitVec 80)
  /-- An SMBus answer: none for a NACK of the address, else the block bytes, and the PEC if it was asked for (R407). -/
  | smbus (bytes : Option (List Byte))
  /-- An SMBus write is NACKed at its first byte after the command code (R407). -/
  | smbusNack
  /-- A JTAG access taken or refused (R315). -/
  | jtag (taken : Bool)
  /-- What the boundary-scan chain has sampled, ball by ball; none for a ball whose level the part does not know (R406). -/
  | scan (levels : List (Option Bool))
deriving DecidableEq, Repr

/-- A host write held behind a commit or a reset (R341, R370). -/
inductive Held where
  /-- A write, as the command it is, and the page whose stream it belongs to. -/
  | write (page : Nat) (i : Instr)
  /-- A write of BAR 2 with the base of the window at its arrival (R340). -/
  | bar2 (base off : Nat) (data : List Byte) (ecc : PartReads)
  /-- A commit that has arrived and not yet taken effect (R374). -/
  | commit
deriving DecidableEq, Repr

/-- The state of the part, with the queue of the commands and events that are waiting. -/
structure State where
  /-- Commands and events waiting, first in, first out (the model's queue); reset empty. -/
  pending : List Instr := []
  /-- True time since power-on in tq (the model's clock); reset 0. -/
  now : Nat := 0
  /-- epoch:GT as one count, epoch * 2^64 + GT (R13); reset 0. -/
  t : Nat := 0
  /-- GT runs: the timebase has locked since the last device reset (R13); reset false. -/
  gtRun : Bool := false
  /-- Registers of access RW, by BAR 0 address; slot fields by slot (Regs); reset by `Regs.reset`. -/
  regs : Tab Word := []
  /-- PG_EVT by page (R364); reset 0. -/
  pgEvt : Tab (BitVec 32) := []
  /-- PG_EVT bits set at the latest instant that set one: true time, pages and bits (R366); reset none. -/
  evtNow : Nat × List (Nat × Nat) := (0, [])
  /-- PG_EVT bits of events placed ahead: GT at which each sets, page, bit (R160, R172, R366); reset none. -/
  evtDue : List (Nat × Nat × Nat) := []
  /-- PG_SEQ.SEQ by page (R367); reset 0. -/
  pgSeq : Tab (BitVec 16) := []
  /-- Snapshot registers, by BAR 0 address (R342); reset by the register. -/
  snaps : Tab Word := []
  /-- Snapshot state by page (R342); reset none taken. -/
  snapSt : Tab SnapSt := []
  /-- Register windows by index (R22); reset `Win`'s defaults. -/
  wins : Tab Win := []
  /-- Physical slots by number (R290); reset `Slot`'s defaults. -/
  slots : Tab Slot := []
  /-- Clusters (R21); reset `Clu`'s defaults. -/
  clus : Tab Clu := []
  /-- Channel collectors by slot (R290); reset empty. -/
  colCh : Tab Coll := []
  /-- Cluster collectors (R290); reset empty. -/
  colClu : Tab Coll := []
  /-- Device collector, sources by j (R293); reset empty. -/
  colDev : Coll := {}
  /-- Detections on their way to their collectors (R36); reset none. -/
  flight : List Det := []
  /-- Detections held before GT starts or before SERVICEABLE (R302, R381); reset none. -/
  heldDet : List Det := []
  /-- Detections held whose record carries GT 0: HELD (R381); reset 0. -/
  heldN : Nat := 0
  /-- Consequential windows: block reset target page, start and end (R303); reset none. -/
  conseqs : List (Nat × Nat × Nat) := []
  /-- Writes held behind a commit or a reset, oldest first (R341, R370); reset none. -/
  held : List Held := []
  /-- DEV and PWR pages. -/
  dev : DevSt := {}
  /-- REF page. -/
  ref : RefSt := {}
  /-- SYN page. -/
  syn : SynSt := {}
  /-- HST and IRQ pages, configuration space. -/
  host : HostSt := {}
  /-- FLT and INJ pages. -/
  flt : FltSt := {}
  /-- MEM, WST and MCH pages. -/
  mem : MemSt := {}
  /-- SEC page. -/
  sec : SecSt := {}
  /-- Keeper, Ledger and DBG page. -/
  keep : KeepSt := {}
  /-- Bytes of the stacks, by full-aperture BAR 2 address (R87); unlisted 0 (R379 zero-fill). -/
  stackMem : List Host.Cell := []
  /-- Bytes of the working store, by BAR 4 offset (R274); unlisted 0 (R287). -/
  wsMem : List Host.Cell := []
  /-- Traffic sent, oldest first (R334); reset none. -/
  out : List Out := []
  /-- Draws of free values so far (the model's counter, log 5); reset 0. -/
  freeN : Nat := 0
deriving DecidableEq, Repr

/-- Why a step stops with a fault. No meaning raises one: the part stops on no command (R7, R9). -/
inductive Fault where
  /-- Raised by nothing; it keeps the type inhabited. Safe: no run ends in it. -/
  | none
deriving DecidableEq, Repr

/-- Why a command has no meaning in the model. -/
inductive Refusal where
  /-- The command has no meaning yet; raised only by the dispatch. Safe: the machine stops. -/
  | notModelled (mnemonic : String)
deriving DecidableEq, Repr

/-- The part right after power-on reset: POR_N held low, every field at its reset value. -/
def State.reset : State := {}

end Sys2Proof.Machine
end

