-- ==== Sys2Proof/Machine/Ops.lean ====
section
/-!
DEFINITION. Sys2Proof/Machine/Ops.lean: named operations that every family shares: bit fields, byte memory, tables of
windows, slots and clusters, results, free values, traffic out.
-/

namespace Sys2Proof.Machine

/-! Bits. -/

/-- Bits `lsb + w - 1` to `lsb` of `v`, as a number. -/
def bits (v lsb w : Nat) : Nat := v / 2 ^ lsb % 2 ^ w

/-- Bit `i` of `v`. -/
def bit (v i : Nat) : Bool := bits v i 1 = 1

/-- 1 for true, 0 for false. -/
def b2n (b : Bool) : Nat := if b then 1 else 0

/-- A word made of fields (lowest bit, width, value); fields do not overlap. -/
def pack : List (Nat × Nat × Nat) → Nat
  | [] => 0
  | (lsb, w, v) :: r => v % 2 ^ w * 2 ^ lsb + pack r

/-- Bit `i` of `v` set to `b`. -/
def putBit {n : Nat} (v : BitVec n) (i : Nat) (b : Bool) : BitVec n :=
  if b then v ||| BitVec.ofNat n (2 ^ i) else v &&& ~~~ BitVec.ofNat n (2 ^ i)

/-- A number read as two's complement of `w` bits. -/
def signed (w v : Nat) : Int := if v % 2 ^ w < 2 ^ (w - 1) then (v % 2 ^ w : Nat) else ((v % 2 ^ w : Nat) : Int) - (2 ^ w : Nat)

/-- A count one higher, held at its limit. -/
def satInc (limit n : Nat) : Nat := if n < limit then n + 1 else n

/-- A count `k` higher, held at its limit. -/
def satAdd (limit n k : Nat) : Nat := if n + k < limit then n + k else limit

/-- How many moved at the instant `now`, by a mark of the latest instant (R113). -/
def movedNow (m : Nat × Nat) (now : Nat) : Nat := if m.1 = now then m.2 else 0

/-- The mark with `n` more moved at the instant `now`. -/
def noteMove (m : Nat × Nat) (now n : Nat) : Nat × Nat := (now, movedNow m now + n)

/-- The first `n` bytes of a number, little-endian (R10). -/
def bytesOf (v : Nat) : Nat → List Byte
  | 0 => []
  | n + 1 => BitVec.ofNat 8 v :: bytesOf (v / 256) n

/-- A little-endian number from its bytes (R10). -/
def ofBytes : List Byte → Nat
  | [] => 0
  | b :: r => b.toNat + 256 * ofBytes r

/-! Byte memory: a list of cells, addresses strictly rising, no cell holding the unlisted value 0. -/

/-- The byte at address `a`. -/
def Memory.read (m : List Host.Cell) (a : Nat) : Byte := Tab.get 0 m a

/-- Memory with byte `v` at address `a`. -/
def Memory.write (m : List Host.Cell) (a : Nat) (v : Byte) : List Host.Cell := Tab.set 0 m a v

/-- The canonical form of a memory. -/
def Memory.wf (m : List Host.Cell) : Bool := Tab.wf 0 m

/-- Memory with the bytes from address `a` on. -/
def Memory.store (m : List Host.Cell) (a : Nat) : List Byte → List Host.Cell
  | [] => m
  | b :: r => Memory.store (Memory.write m a b) (a + 1) r

/-- `n` bytes from address `a`. -/
def Memory.load (m : List Host.Cell) (a : Nat) : Nat → List Byte
  | 0 => []
  | n + 1 => Memory.read m a :: Memory.load m (a + 1) n

/-- `n` bytes from address `a`, as a little-endian number. -/
def Memory.num (m : List Host.Cell) (a n : Nat) : Nat := ofBytes (Memory.load m a n)

/-- Memory with zeros from `lo` up to but not including `hi`. -/
def Memory.zero (m : List Host.Cell) (lo hi : Nat) : List Host.Cell :=
  m.filter fun c => decide (c.1 < lo) || decide (hi ≤ c.1)

/-- The stacks hold `m`. -/
def State.setStack (s : State) (m : List Host.Cell) : State := { s with stackMem := m }
/-- The working store holds `m`. -/
def State.setWs (s : State) (m : List Host.Cell) : State := { s with wsMem := m }

/-! Register windows, slots and clusters. -/

def State.win (s : State) (w : Nat) : Win := Tab.get {} s.wins w
def State.slot (s : State) (k : Nat) : Slot := Tab.get {} s.slots k
def State.clu (s : State) (c : Nat) : Clu := Tab.get {} s.clus c

def State.modWin (s : State) (w : Nat) (f : Win → Win) : State := { s with wins := Tab.set {} s.wins w (f (s.win w)) }
def State.modSlot (s : State) (k : Nat) (f : Slot → Slot) : State := { s with slots := Tab.set {} s.slots k (f (s.slot k)) }
def State.modClu (s : State) (c : Nat) (f : Clu → Clu) : State := { s with clus := Tab.set {} s.clus c (f (s.clu c)) }

def State.modMd (s : State) (w : Nat) (f : ModeSt → ModeSt) : State := s.modWin w fun x => { x with md := f x.md }
def State.modSq (s : State) (w : Nat) (f : SeqSt → SeqSt) : State := s.modWin w fun x => { x with sq := f x.sq }
def State.modPl (s : State) (w : Nat) (f : PlaySt → PlaySt) : State := s.modWin w fun x => { x with pl := f x.pl }
def State.modSl (s : State) (w : Nat) (f : SluSt → SluSt) : State := s.modWin w fun x => { x with sl := f x.sl }
def State.modHo (s : State) (w : Nat) (f : HoldSt → HoldSt) : State := s.modWin w fun x => { x with ho := f x.ho }
def State.modIk (s : State) (w : Nat) (f : IntakeSt → IntakeSt) : State := s.modWin w fun x => { x with ik := f x.ik }
def State.modTm (s : State) (w : Nat) (f : TimSt → TimSt) : State := s.modWin w fun x => { x with tm := f x.tm }
def State.modPm (s : State) (w : Nat) (f : PmuSt → PmuSt) : State := s.modWin w fun x => { x with pm := f x.pm }
def State.modCp (s : State) (w : Nat) (f : CapSt → CapSt) : State := s.modWin w fun x => { x with cp := f x.cp }
def State.modMn (s : State) (w : Nat) (f : MonSt → MonSt) : State := s.modWin w fun x => { x with mn := f x.mn }
def State.modSt (s : State) (w : Nat) (f : StpSt → StpSt) : State := s.modWin w fun x => { x with st := f x.st }
def State.modEn (s : State) (w : Nat) (f : EngSt → EngSt) : State := s.modWin w fun x => { x with en := f x.en }
def State.modRd (s : State) (w : Nat) (f : RedSt → RedSt) : State := s.modWin w fun x => { x with rd := f x.rd }
def State.modCw (s : State) (w : Nat) (f : CwSt → CwSt) : State := s.modWin w fun x => { x with cw := f x.cw }
def State.modFb (s : State) (w : Nat) (f : FabSt → FabSt) : State := s.modWin w fun x => { x with fb := f x.fb }
def State.modHv (s : State) (c : Nat) (f : HvsSt → HvsSt) : State := s.modClu c fun x => { x with hv := f x.hv }

/-- Cluster of a register window (R21, R22). -/
def cluOf (w : Nat) : Nat := if w < 128 then w / 16 else w - 128

/-- The slot that a window addresses (R22, R23). -/
def State.slotOf (s : State) (w : Nat) : Nat :=
  let c := cluOf w
  match (s.clu c).swapped with
  | none => if w < 128 then 17 * c + w % 16 else 17 * c + 16
  | some p => if w < 128 then (if w % 16 = p.toNat then 17 * c + 16 else 17 * c + w % 16) else 17 * c + p.toNat

/-- The window that addresses a slot (R22, R23). -/
def State.winOf (s : State) (k : Nat) : Nat :=
  let c := k / 17
  match (s.clu c).swapped with
  | none => if k % 17 = 16 then 128 + c else 16 * c + k % 17
  | some p => if k % 17 = 16 then 16 * c + p.toNat else if k % 17 = p.toNat then 128 + c else 16 * c + k % 17

/-- The 17 windows of a cluster, in the order of MODE_BCAST.MASK: the pins, then S_c (R47). -/
def cluWins (c : Nat) : List Nat := (List.range 16).map (16 * c + ·) ++ [128 + c]

/-- The logical pin a window belongs to (R22); none for a spare window. -/
def pinOf (w : Nat) : Option Nat := if w < 128 then some w else none

def State.md (s : State) (w : Nat) : ModeSt := (s.win w).md
def State.sq (s : State) (w : Nat) : SeqSt := (s.win w).sq
def State.pl (s : State) (w : Nat) : PlaySt := (s.win w).pl
def State.sl (s : State) (w : Nat) : SluSt := (s.win w).sl
def State.ho (s : State) (w : Nat) : HoldSt := (s.win w).ho
def State.ik (s : State) (w : Nat) : IntakeSt := (s.win w).ik
def State.tm (s : State) (w : Nat) : TimSt := (s.win w).tm
def State.pm (s : State) (w : Nat) : PmuSt := (s.win w).pm
def State.cp (s : State) (w : Nat) : CapSt := (s.win w).cp
def State.mn (s : State) (w : Nat) : MonSt := (s.win w).mn
def State.st (s : State) (w : Nat) : StpSt := (s.win w).st
def State.en (s : State) (w : Nat) : EngSt := (s.win w).en
def State.rd (s : State) (w : Nat) : RedSt := (s.win w).rd
def State.cw (s : State) (w : Nat) : CwSt := (s.win w).cw
def State.fb (s : State) (w : Nat) : FabSt := (s.win w).fb
def State.hv (s : State) (c : Nat) : HvsSt := (s.clu c).hv
/-- Mode of a window (R42). -/
def State.mode (s : State) (w : Nat) : Mode := (s.md w).mode
/-- The window is in ARMED or RUN (the guard of most configuration registers, R373). -/
def State.armedRun (s : State) (w : Nat) : Bool := s.mode w = .armed || s.mode w = .run
/-- The window is in RUN. -/
def State.running (s : State) (w : Nat) : Bool := s.mode w = .run

/-! The device's pages, modified in place. -/

def State.modDev (s : State) (f : DevSt → DevSt) : State := { s with dev := f s.dev }
def State.modRef (s : State) (f : RefSt → RefSt) : State := { s with ref := f s.ref }
def State.modSyn (s : State) (f : SynSt → SynSt) : State := { s with syn := f s.syn }
def State.modHost (s : State) (f : HostSt → HostSt) : State := { s with host := f s.host }
def State.modFlt (s : State) (f : FltSt → FltSt) : State := { s with flt := f s.flt }
def State.modMem (s : State) (f : MemSt → MemSt) : State := { s with mem := f s.mem }
def State.modSec (s : State) (f : SecSt → SecSt) : State := { s with sec := f s.sec }
def State.modKeep (s : State) (f : KeepSt → KeepSt) : State := { s with keep := f s.keep }

/-- Bring-up has ended and no device reset holds the registers: the part serves its host (R57, R379). -/
def State.serviceable (s : State) : Bool := s.dev.bringup = 5 && !s.dev.regPhase

/-- GT of a time on the epoch:GT scale (R13). -/
def gtOf (t : Nat) : Nat := t % 2 ^ 64
/-- Epoch of a time on the epoch:GT scale (R13). -/
def epochOf (t : Nat) : Nat := t / 2 ^ 64 % 2 ^ 16

/-! Pages and results. -/

/-- Page number (BAR 0 address divided by 0x1000) of page `q` of window `w` (R362). -/
def winPage (w q : Nat) : Nat := 0x1000 + 16 * w + q
/-- Page number of the CLU page of cluster `c` (R361). -/
def cluPage (c : Nat) : Nat := 0x10 + c
/-- BAR 0 address of a register of a page. -/
def pageAddr (page off : Nat) : Nat := page * 0x1000 + off

/-- PG_SEQ of a page counts one more posted result (R367). -/
def State.bumpSeq (s : State) (page : Nat) : State :=
  { s with pgSeq := Tab.set 0 s.pgSeq page (Tab.get 0 s.pgSeq page + 1) }

/-- A result of an accepted command, posted when it finishes (R372). -/
def Res.done (r : Res) (outcome reason : Nat) : Res := { r with outcome := outcome, reason := reason, seq := r.seq + 1, valid := true }
/-- An accepted command is in progress: VALID reads 0, the previous result stands (R372). -/
def Res.busy (r : Res) : Res := { r with valid := false }
/-- A command refused on arrival; VALID stays 0 while an accepted command is in progress (R372). -/
def Res.refuse (r : Res) (reason : Nat) (inProgress : Bool) : Res :=
  { r with outcome := 2, reason := reason, seq := r.seq + 1, valid := !inProgress }

/-! Free values and traffic. -/

/-- Draw a free value (log entry 5). -/
def State.draw (s : State) : BitVec 64 × State := (Config.freeValue s.freeN, { s with freeN := s.freeN + 1 })

/-- Send something out of the part. -/
def State.emit (s : State) (o : Out) : State := { s with out := s.out ++ [o] }

/-- The element at position `n`, with the list without it. -/
def takeAt {α : Type} : List α → Nat → Option (α × List α)
  | [], _ => none
  | a :: r, 0 => some (a, r)
  | a :: r, n + 1 => (takeAt r n).map fun p => (p.1, a :: p.2)

/-- Fold an operation over a list of keys, left to right. -/
def State.each {α : Type} (s : State) (l : List α) (f : State → α → State) : State := l.foldl f s

end Sys2Proof.Machine
end

