-- ==== Sys2Proof/Machine/Crypt.lean ====
section
/-!
DEFINITION. Sys2Proof/Machine/Crypt.lean: the ciphers the spec names: AES-256 in Galois/Counter Mode for sealed frames (R125) and AES Key
Wrap for owner keys (R321). The spec names these standards and does not print them. PRESUMED (log 101): FIPS 197, NIST SP 800-38D and
SP 800-38F. Bytes are numbers below 256, blocks lists of 16 of them.
-/

namespace Sys2Proof.Machine

/-- The S-box of FIPS 197, 64 entries a row, the first in the lowest byte. -/
def sboxRow (q : Nat) : Nat :=
  match q with
  | 0 => 0x75B227EBE28012079A059618C323C7041531D871F1E5A534CCF73F362693FDB7C072A49CAFA2D4ADF04759FA7DC982CA76ABD7FE2B670130C56F6BF27B777C63
  | 1 => 0xD2F3FF1021DAB6BCF5389D928F40A351A89F3C507F02F94585334D43FBAAEFD0CF584C4A39BECB6A5BB1FC20ED00D153842FE329B3D63B52A05A6E1B1A2C8309
  | 2 => 0x08AE7A65EAF4566CA94ED58D6D37C8E779E4959162ACD3C25C2406490A3A32E0DB0B5EDE14B8EE4688902A22DC4F816073195D643D7EA7C41744975FEC130CCD
  | _ => 0x16BB54B00F2D99416842E6BF0D89A18CDF2855CEE9871E9B948ED9691198F8E19E1DC186B95735610EF6034866B53E708A8BBD4B1F74DDE8C6B4A61C2E2578BA

/-- The inverse S-box of FIPS 197, laid out alike. -/
def invSboxRow (q : Nat) : Nat :=
  match q with
  | 0 => 0x25D18B6D49A25B76B224D92866A12E084EC3FA420B954CEE3D23C2A632947B54CBE9DEC444438E3487FF2F9B8239E37CFBD7F3819EA340BF38A53630D56A0952
  | 1 => 0x6B8A130103BDAFC1020F3FCA8F1E2CD00645B3B80558E4F70AD3BC8C00ABD890849D8DA75746155EDAB9EDFD5048706C92B6655DCC5CA4D41698688664F6F872
  | 2 => 0xF45ACD78FEC0DB9A2079D2C64B3E56FC1BBE18AA0E62B76F89C5291D711AF1476EDF751CE837F9E28535ADE72274AC9673E6B4F0CECFF297EADC674F4111913A
  | _ => 0x7D0C2155631469E126D677BA7E042B17619953833CBBEBC8B0F52AAE4D3BE0A0EF9CC9939F7AE52D0D4AB519A97F51605FEC8027591012B131C7078833A8DD1F

def subByte (a : Nat) : Nat := bits (sboxRow (a / 64)) (8 * (a % 64)) 8
def invSubByte (a : Nat) : Nat := bits (invSboxRow (a / 64)) (8 * (a % 64)) 8

/-- Bytes of two lists, each xor the other. -/
def xorBytes (a b : List Nat) : List Nat := List.zipWith (fun x y => x ^^^ y) a b

/-- Multiplication by x in the field of 256 elements. -/
def xtime (a : Nat) : Nat := if a < 128 then 2 * a else (2 * a) ^^^ 0x11B

/-- Multiplication by a constant below 16 in the field of 256 elements. -/
def fieldMul (c a : Nat) : Nat :=
  let part := fun (i v : Nat) => if bit c i then v else 0
  part 0 a ^^^ part 1 (xtime a) ^^^ part 2 (xtime (xtime a)) ^^^ part 3 (xtime (xtime (xtime a)))

/-- Byte `i` of a block. -/
def byteOf (b : List Nat) (i : Nat) : Nat := b.getD i 0

/-- The rows of a block turn by their number: forward for a cipher, back for its inverse. -/
def shiftRows (b : List Nat) : List Nat := (List.range 16).map fun i => byteOf b ((i + 4 * (i % 4)) % 16)
def invShiftRows (b : List Nat) : List Nat := (List.range 16).map fun i => byteOf b ((i + 12 * (i % 4)) % 16)

/-- Each column times a circulant matrix whose first row is `c`. -/
def mixColumns (c : List Nat) (b : List Nat) : List Nat :=
  (List.range 16).map fun i =>
    (List.range 4).foldl (fun v j => v ^^^ fieldMul (byteOf c ((j + 4 - i % 4) % 4)) (byteOf b (i / 4 * 4 + j))) 0

/-- The next eight words of the key schedule of AES-256. -/
def nextWords (rcon : Nat) (ws : List (List Nat)) : List (List Nat) :=
  let last := ws.getD 7 []
  let t := xorBytes ((last.drop 1 ++ last.take 1).map subByte) [rcon, 0, 0, 0]
  let w0 := xorBytes (ws.getD 0 []) t
  let w1 := xorBytes (ws.getD 1 []) w0
  let w2 := xorBytes (ws.getD 2 []) w1
  let w3 := xorBytes (ws.getD 3 []) w2
  let w4 := xorBytes (ws.getD 4 []) (w3.map subByte)
  let w5 := xorBytes (ws.getD 5 []) w4
  let w6 := xorBytes (ws.getD 6 []) w5
  [w0, w1, w2, w3, w4, w5, w6, xorBytes (ws.getD 7 []) w6]

/-- The key schedule in groups of eight words. -/
def schedule : Nat → Nat → List (List Nat) → List (List Nat)
  | 0, _, ws => ws
  | n + 1, rcon, ws => ws ++ schedule n (xtime rcon) (nextWords rcon ws)

/-- A list cut into pieces of `n`. -/
def pieces (n : Nat) : Nat → List Nat → List (List Nat)
  | 0, _ => []
  | fuel + 1, l => if l.isEmpty then [] else l.take n :: pieces n fuel (l.drop n)

/-- The fifteen round keys of a 32-byte key. -/
def roundKeys (key : List Nat) : List (List Nat) := pieces 16 15 (schedule 7 1 (pieces 4 8 key)).flatten

/-- AES-256 enciphers a block. -/
def aesEncrypt (rk : List (List Nat)) (b : List Nat) : List Nat :=
  let b1 := (List.range 13).foldl (fun b i => xorBytes (mixColumns [2, 3, 1, 1] (shiftRows (b.map subByte))) (rk.getD (i + 1) []))
    (xorBytes b (rk.getD 0 []))
  xorBytes (shiftRows (b1.map subByte)) (rk.getD 14 [])

/-- AES-256 deciphers a block. -/
def aesDecrypt (rk : List (List Nat)) (b : List Nat) : List Nat :=
  let b1 := (List.range 13).foldl
    (fun b i => mixColumns [14, 11, 13, 9] (xorBytes ((invShiftRows b).map invSubByte) (rk.getD (13 - i) []))) (xorBytes b (rk.getD 14 []))
  xorBytes ((invShiftRows b1).map invSubByte) (rk.getD 0 [])

/-- A number from its bytes, the most significant first, and back into `n` bytes. -/
def ofBig (l : List Nat) : Nat := l.foldl (fun v b => 256 * v + b) 0
def toBig (n v : Nat) : List Nat := (List.range n).map fun i => bits v (8 * (n - 1 - i)) 8

/-- Product of two blocks in the field of GHASH, the first bit of a block its most significant. -/
def ghashMul (x y : Nat) : Nat :=
  ((List.range 128).foldl (fun (zv : Nat × Nat) i =>
    (if bit x (127 - i) then zv.1 ^^^ zv.2 else zv.1,
     if bit zv.2 0 then zv.2 / 2 ^^^ 0xE1000000000000000000000000000000 else zv.2 / 2)) (0, y)).1

/-- Bytes filled up with zeros to whole blocks. -/
def padBlock (l : List Nat) : List Nat := l ++ List.replicate ((16 - l.length % 16) % 16) 0

/-- GHASH of the blocks of a string. -/
def ghash (h : Nat) (l : List Nat) : Nat := (pieces 16 (l.length / 16 + 1) l).foldl (fun y b => ghashMul (y ^^^ ofBig b) h) 0

/-- The bytes of a text xor the key stream of the counters from `c` on. -/
def counterMode (rk : List (List Nat)) (iv : List Nat) : Nat → Nat → List Nat → List Nat
  | 0, _, _ => []
  | fuel + 1, c, l =>
    if l.isEmpty then [] else xorBytes (l.take 16) (aesEncrypt rk (iv ++ toBig 4 c)) ++ counterMode rk iv fuel (c + 1) (l.drop 16)

/-- The tag of AES-256-GCM over additional data and ciphertext. -/
def gcmTag (rk : List (List Nat)) (iv aad body : List Nat) : List Nat :=
  let h := ofBig (aesEncrypt rk (List.replicate 16 0))
  xorBytes (toBig 16 (ghash h (padBlock aad ++ padBlock body ++ toBig 8 (8 * aad.length) ++ toBig 8 (8 * body.length))))
    (aesEncrypt rk (iv ++ [0, 0, 0, 1]))

/-- Bytes as numbers. -/
def nums (l : List Byte) : List Nat := l.map (·.toNat)

/-- AES-256-GCM opens a sealed text: the plaintext when the tag verifies (R125). -/
def gcmOpen (key : BitVec 256) (iv : BitVec 96) (aad body tag : List Byte) : Option (List Byte) :=
  let rk := roundKeys (nums (bytesOf key.toNat 32))
  let ivb := nums (bytesOf iv.toNat 12)
  if gcmTag rk ivb (nums aad) (nums body) = nums tag then
    some ((counterMode rk ivb (body.length / 16 + 1) 2 (nums body)).map (BitVec.ofNat 8))
  else none

/-- One step of unwrapping: the semiblock `i` of the text with the running check value (SP 800-38F, W⁻¹). -/
def unwrapStep (rk : List (List Nat)) (ar : List Nat × List (List Nat)) (t i : Nat) : List Nat × List (List Nat) :=
  let b := aesDecrypt rk (xorBytes ar.1 (toBig 8 t) ++ ar.2.getD i [])
  (b.take 8, ar.2.set i (b.drop 8))

/-- AES Key Wrap, mode KW: the 32-byte key in a 40-byte wrapped key, when the default integrity check value is found (R321). -/
def unwrapKey (kek : BitVec 256) (wrapped : BitVec 320) : Option (BitVec 256) :=
  let rk := roundKeys (nums (bytesOf kek.toNat 32))
  let l := pieces 8 5 (nums (bytesOf wrapped.toNat 40))
  let r := (List.range 24).foldl (fun ar n => unwrapStep rk ar (24 - n) ((23 - n) % 4)) (l.headD [], l.drop 1)
  if r.1 = List.replicate 8 0xA6 then some (BitVec.ofNat 256 (ofBytes (r.2.flatten.map (BitVec.ofNat 8)))) else none

end Sys2Proof.Machine
end

