-- ==== Sys2Proof/Machine/Regs.lean ====
section
/-!
DEFINITION. Sys2Proof/Machine/Regs.lean: the BAR 0 map (R360 to R364): every register of every page with its size, its
writable bits and its reset value, and the registers that hold what the host last wrote (R368, R373).
-/

namespace Sys2Proof.Machine

/-- Registers of one page at `off`, `off + stride`, …, `count` of them. -/
structure RegRow where
  off : Nat
  count : Nat
  stride : Nat
  /-- Bytes of the register, 4 or 8 (R339). -/
  size : Nat
  /-- Bits that hold what the host writes (R368). -/
  mask : Nat
  /-- Value before any write. -/
  reset : Nat
deriving DecidableEq, Repr

/-- The common page header (R364). -/
def headerRows : List RegRow :=
  [⟨0x000, 1, 4, 4, 0, 0⟩, ⟨0x004, 1, 4, 4, 0, 0x100⟩, ⟨0x008, 2, 4, 4, 0, 0⟩, ⟨0x010, 1, 4, 4, 0, 1⟩,
   ⟨0x014, 1, 4, 4, 0, 0⟩, ⟨0x018, 1, 4, 4, 0xFFFFFFFF, 0⟩, ⟨0x01C, 1, 4, 4, 0, 0⟩]

def ctlRows : List RegRow := [⟨0x040, 3, 4, 4, 0, 0⟩, ⟨0x04C, 1, 4, 4, 3, 2⟩]

def seqRows : List RegRow :=
  [⟨0x040, 1, 4, 4, 0xFFFFF, 0xFFFFF⟩, ⟨0x044, 1, 4, 4, 0xFFFF03, 1⟩, ⟨0x048, 1, 4, 4, 0xFF, 0⟩, ⟨0x04C, 2, 4, 4, 0, 0⟩,
   ⟨0x060, 4, 4, 4, 0x10FFFFF, 0xFFFFF⟩, ⟨0x070, 1, 4, 4, 0xFFFFFFFF, 0⟩, ⟨0x074, 4, 4, 4, 0, 0⟩, ⟨0x088, 3, 8, 8, 0, 0⟩,
   ⟨0x0A0, 1, 4, 4, 0, 0⟩, ⟨0x0A8, 1, 8, 8, 0, 0⟩, ⟨0x0C0, 8, 4, 4, 0, 0⟩, ⟨0x0E0, 1, 8, 8, 0, 0⟩, ⟨0x0E8, 1, 4, 4, 0, 0⟩,
   ⟨0x0F0, 2, 8, 8, 0, 0⟩]

def sluRows : List RegRow :=
  [⟨0x040, 1, 4, 4, 0xFFFFFF07, 0x08020003⟩, ⟨0x044, 1, 4, 4, 0, 0⟩, ⟨0x048, 1, 4, 4, 0xFFFF71FF, 0x40C07100⟩,
   ⟨0x04C, 1, 4, 4, 0, 0⟩, ⟨0x050, 1, 8, 8, 0xFFFFFFFFFFFFF01F, 0⟩, ⟨0x058, 1, 8, 8, 0xFFFFFFFFFFFFFFF9, 0⟩,
   ⟨0x060, 1, 4, 4, 0x1FFFF, 0⟩, ⟨0x064, 2, 4, 4, 0, 0⟩, ⟨0x070, 1, 8, 8, 0, 0⟩, ⟨0x078, 1, 4, 4, 0, 0⟩,
   ⟨0x07C, 1, 4, 4, 0x7777, 0⟩, ⟨0x080, 1, 4, 4, 0, 0⟩, ⟨0x088, 2, 8, 8, 0, 0⟩, ⟨0x098, 1, 4, 4, 0, 0⟩]

def timRows : List RegRow :=
  [⟨0x040, 2, 4, 4, 0, 0⟩, ⟨0x048, 1, 8, 8, 0, 0⟩, ⟨0x050, 1, 4, 4, 0, 0⟩, ⟨0x058, 1, 8, 8, 0, 0⟩, ⟨0x060, 2, 4, 4, 0, 0⟩,
   ⟨0x068, 4, 8, 8, 0, 0⟩, ⟨0x088, 1, 4, 4, 0x1F, 0x10⟩, ⟨0x08C, 1, 4, 4, 0xFFF0FFF, 0⟩, ⟨0x090, 1, 4, 4, 1, 1⟩,
   ⟨0x098, 1, 4, 4, 0, 0⟩, ⟨0x0A0, 1, 8, 8, 0, 0⟩,
   ⟨0x400, 1, 0x20, 8, 0x800001FFFFFFFFFF, 0x8000000000000400⟩, ⟨0x420, 63, 0x20, 8, 0x800001FFFFFFFFFF, 0x400⟩,
   ⟨0x408, 64, 0x20, 8, 0x1FFFFFFFFFF, 0x400⟩, ⟨0x410, 64, 0x20, 8, 0xFFFFFFFFFFFF, 0⟩]

def tsetRows : List RegRow :=
  [⟨0x040, 64, 0x38, 4, 7, 0⟩, ⟨0x048, 64, 0x38, 8, 0x800007FFFFFFFFFF, 0⟩,
   ⟨0x050, 64, 0x38, 8, 0x800007FFFFFFFFFF, 0x8000000000000000⟩, ⟨0x058, 64, 0x38, 8, 0x800007FFFFFFFFFF, 0x8000000080000000⟩,
   ⟨0x060, 64, 0x38, 8, 0x800007FFFFFFFFFF, 0⟩, ⟨0x068, 64, 0x38, 8, 0x800007FFFFFFFFFF, 0x8000000080000000⟩,
   ⟨0x070, 64, 0x38, 8, 0x800007FFFFFFFFFF, 0x8000000080000000⟩]

def afeRows : List RegRow :=
  [⟨0x040, 1, 8, 8, 0xFFFFFFFFFFFF, 0x4CCD4CCD4CCD⟩, ⟨0x048, 1, 8, 8, 0xFFFFFFFF, 0x4CCD4CCD⟩, ⟨0x050, 1, 4, 4, 1, 0⟩,
   ⟨0x054, 1, 4, 4, 0xFFFF, 0x4CCD⟩, ⟨0x058, 1, 4, 4, 0, 0⟩, ⟨0x060, 3, 4, 4, 0, 0⟩]

def pmuRows : List RegRow :=
  [⟨0x040, 1, 4, 4, 0x73, 0x40⟩, ⟨0x044, 1, 4, 4, 0xFFFF, 0x4CCD⟩, ⟨0x048, 1, 8, 8, 0x7FFFFFFFFFFF, 0x199AF333⟩,
   ⟨0x050, 1, 4, 4, 0xFFFFFFFF, 0xFFFF⟩, ⟨0x058, 1, 4, 4, 0, 0⟩, ⟨0x060, 1, 4, 4, 0, 0⟩, ⟨0x068, 2, 8, 8, 0, 0⟩, ⟨0x078, 1, 4, 4, 0, 0⟩]

def capRows : List RegRow :=
  [⟨0x040, 1, 4, 4, 0xFFFFFF1F, 3⟩, ⟨0x044, 1, 4, 4, 0x7F7F, 0x2010⟩, ⟨0x048, 1, 4, 4, 0, 0⟩, ⟨0x050, 2, 8, 8, 0, 0⟩]

def stpRows : List RegRow :=
  [⟨0x040, 1, 4, 4, 0xF1FF, 1⟩, ⟨0x044, 1, 4, 4, 0xFFFFFFFF, 0⟩, ⟨0x048, 2, 4, 4, 0, 0⟩, ⟨0x050, 2, 8, 8, 0, 0⟩, ⟨0x060, 1, 4, 4, 0, 0⟩,
   ⟨0x068, 1, 4, 4, 0x1FFF1FFF, 0x04000C00⟩, ⟨0x070, 2, 4, 4, 0, 0⟩, ⟨0x078, 2, 8, 8, 0, 0⟩]

def acqRows : List RegRow :=
  [⟨0x040, 1, 4, 4, 0x1F10F, 0⟩, ⟨0x044, 1, 4, 4, 0, 0⟩, ⟨0x048, 1, 8, 8, 0, 0⟩, ⟨0x050, 1, 4, 4, 0x3F1, 0⟩, ⟨0x054, 1, 4, 4, 0xFFFF, 4⟩,
   ⟨0x058, 1, 4, 4, 0, 0⟩, ⟨0x060, 1, 4, 4, 0xFFFFFFFF, 3999⟩, ⟨0x064, 1, 4, 4, 0, 0⟩, ⟨0x068, 2, 8, 8, 0, 0⟩, ⟨0x078, 1, 4, 4, 0, 0⟩,
   ⟨0x080, 1, 8, 8, 0x3FFFFF3FFFFF01, 0⟩, ⟨0x088, 1, 4, 4, 0, 0⟩, ⟨0x090, 3, 8, 8, 0, 0⟩, ⟨0x0A8, 1, 4, 4, 0, 0⟩, ⟨0x0B0, 2, 4, 4, 0, 0⟩,
   ⟨0x0C0, 8, 8, 8, 0, 0⟩, ⟨0x100, 4, 0x10, 8, 0x1FFFFFFF0F9F, 0⟩, ⟨0x108, 4, 0x10, 8, 0xFFFFFFFFFFFF, 1⟩, ⟨0x140, 4, 8, 8, 0xFFFFFFFFFFFF, 1⟩,
   ⟨0x400, 16, 0x10, 8, 0x1FFF000F9F1FFFFF, 0⟩, ⟨0x408, 16, 0x10, 8, 0xFFFFFF1FFFFF, 0⟩]

def fltChRows : List RegRow :=
  [⟨0x040, 2, 4, 4, 0, 0⟩, ⟨0x048, 2, 8, 8, 0, 0⟩, ⟨0x080, 12, 8, 8, 0, 0⟩, ⟨0x0E0, 12, 4, 4, 0, 0⟩, ⟨0x110, 12, 4, 4, 0x1F1F1F1F, 0⟩,
   ⟨0x140, 12, 4, 4, 0xFFFFFFF1, 0x3E800⟩]

def monRows : List RegRow := [⟨0x040, 2, 4, 4, 0, 0⟩, ⟨0x048, 13, 8, 8, 0, 0⟩]

def devRows : List RegRow :=
  [⟨0x040, 2, 4, 4, 0, 0⟩, ⟨0x048, 2, 8, 8, 0, 0⟩, ⟨0x058, 1, 4, 4, 0, 0⟩, ⟨0x060, 3, 4, 4, 0, 0⟩, ⟨0x070, 1, 4, 4, 0, 0⟩, ⟨0x078, 1, 8, 8, 0, 0⟩,
   ⟨0x088, 1, 4, 4, 0, 0⟩, ⟨0x090, 2, 8, 8, 0, 0⟩]

def pwrRows : List RegRow :=
  [⟨0x040, 1, 4, 4, 0, 0⟩, ⟨0x048, 3, 4, 4, 0, 0⟩, ⟨0x058, 1, 4, 4, 0, 0⟩, ⟨0x060, 1, 8, 8, 0, 0⟩, ⟨0x080, 8, 8, 8, 0, 0⟩,
   ⟨0x0C0, 8, 4, 4, 0x7FF, 10⟩, ⟨0x100, 12, 4, 4, 0, 0⟩]

def refRows : List RegRow :=
  [⟨0x040, 1, 4, 4, 0, 0⟩, ⟨0x048, 1, 8, 8, 0, 0⟩, ⟨0x050, 1, 4, 4, 0, 0⟩, ⟨0x058, 1, 4, 4, 0, 0⟩, ⟨0x060, 7, 8, 8, 0, 0⟩]

def synRows : List RegRow :=
  [⟨0x040, 8, 4, 4, 0xFFFF03, 0xFF0000⟩, ⟨0x060, 2, 4, 4, 0, 0⟩, ⟨0x068, 1, 4, 4, 0x73, 0⟩, ⟨0x070, 2, 4, 4, 0x1F3, 0⟩,
   ⟨0x080, 4, 8, 8, 0xFFFFFFFFFFFFFFFF, 0⟩, ⟨0x0A0, 1, 4, 4, 0, 0⟩, ⟨0x0A8, 2, 8, 8, 0, 0⟩, ⟨0x0B8, 1, 4, 4, 0, 0⟩,
   ⟨0x100, 1, 4, 4, 0x1F, 0⟩, ⟨0x104, 1, 4, 4, 0, 0⟩, ⟨0x108, 1, 8, 8, 0, 0⟩, ⟨0x110, 1, 4, 4, 0, 0⟩, ⟨0x120, 8, 4, 4, 0x3F3, 0⟩,
   ⟨0x140, 8, 4, 4, 0x137F7, 0⟩, ⟨0x160, 4, 4, 4, 0x3F3, 0⟩, ⟨0x180, 8, 8, 8, 0xFFFFFFFFFFFFFFFF, 0⟩, ⟨0x1C0, 1, 4, 4, 0, 0⟩]

def hstRows : List RegRow :=
  [⟨0x040, 1, 4, 4, 0, 0⟩, ⟨0x048, 1, 8, 8, 0, 0⟩, ⟨0x050, 1, 8, 8, 0xFC0000000, 0⟩, ⟨0x058, 1, 4, 4, 0, 0⟩,
   ⟨0x400, 8, 0x40, 8, 0xFFFFFFFFFFFFF03F, 12⟩, ⟨0x408, 8, 0x40, 8, 0xFFFFFFFFFFFFFFF9, 0⟩, ⟨0x410, 8, 0x40, 4, 0, 0⟩,
   ⟨0x414, 8, 0x40, 4, 0x7FFFFF, 0⟩, ⟨0x418, 8, 0x40, 4, 0xFFFFFFFF, 0xA0001⟩, ⟨0x41C, 8, 0x40, 4, 0, 0⟩, ⟨0x420, 8, 0x40, 8, 0, 0⟩,
   ⟨0x428, 8, 0x40, 4, 0xFFFFF, 0x40C0⟩, ⟨0x600, 1, 4, 4, 7, 0⟩]

def irqRows : List RegRow :=
  [⟨0x040, 1, 8, 8, 0xFFFFFFFFFFFFFFF0, 0⟩, ⟨0x048, 1, 4, 4, 0, 0⟩, ⟨0x04C, 1, 4, 4, 0xFFFF, 0⟩, ⟨0x050, 2, 4, 4, 0x1FF, 0x100⟩,
   ⟨0x060, 8, 4, 4, 0x1FF, 0x100⟩, ⟨0x080, 8, 4, 4, 0x1FF, 0x100⟩, ⟨0x400, 136, 4, 4, 0x1FF, 0x100⟩]

def fltRows : List RegRow :=
  [⟨0x040, 1, 8, 8, 0, 0⟩, ⟨0x048, 1, 4, 4, 0, 0⟩, ⟨0x050, 2, 8, 8, 0, 0⟩, ⟨0x060, 1, 4, 4, 0x3FF, 999⟩, ⟨0x064, 2, 4, 4, 0, 0⟩,
   ⟨0x070, 2, 4, 4, 0, 0⟩, ⟨0x080, 2, 4, 4, 0, 0⟩, ⟨0x088, 1, 4, 4, 0xFFFFF, 0x40C0⟩, ⟨0x08C, 1, 4, 4, 0, 0⟩,
   ⟨0x400, 72, 8, 8, 0, 0⟩, ⟨0x640, 72, 4, 4, 0, 0⟩, ⟨0x760, 72, 4, 4, 0x1F1F1F1F, 0⟩, ⟨0x880, 72, 4, 4, 0xFFFFFFF1, 0x3E800⟩]

def memRows : List RegRow :=
  [⟨0x040, 1, 4, 4, 0xFFFF0001, 0x3C0001⟩, ⟨0x048, 2, 8, 8, 0, 0⟩, ⟨0x058, 2, 4, 4, 0, 0⟩, ⟨0x060, 4, 8, 8, 0, 0⟩]

def wstRows : List RegRow :=
  [⟨0x040, 3, 4, 4, 0, 0⟩, ⟨0x050, 2, 8, 8, 0, 0⟩, ⟨0x060, 2, 4, 4, 0, 0⟩, ⟨0x400, 128, 8, 8, 0, 0⟩, ⟨0x800, 16, 8, 8, 0, 0⟩]

def mchRows : List RegRow :=
  [⟨0x040, 1, 8, 8, 0x3FF0033FFFF, 0x6400000000⟩, ⟨0x048, 1, 4, 4, 0, 0⟩, ⟨0x050, 2, 8, 8, 0, 0⟩, ⟨0x060, 1, 4, 4, 0, 0⟩,
   ⟨0x068, 2, 4, 4, 0, 0⟩, ⟨0x080, 16, 4, 4, 0, 0⟩]

def secRows : List RegRow :=
  [⟨0x040, 3, 4, 4, 0, 0⟩, ⟨0x060, 9, 4, 4, 0, 0⟩, ⟨0x0A0, 11, 4, 4, 0, 0⟩, ⟨0x0D0, 1, 8, 8, 0, 0⟩, ⟨0x0E0, 1, 4, 4, 0x17FFF, 0⟩,
   ⟨0x0E8, 1, 8, 8, 0, 0⟩, ⟨0x100, 1, 4, 4, 0, 0⟩, ⟨0x108, 1, 8, 8, 0, 0⟩, ⟨0x110, 1, 4, 4, 0, 0⟩, ⟨0x118, 1, 8, 8, 0, 0⟩]

def ldgRows : List RegRow :=
  [⟨0x040, 1, 8, 8, 0, 0⟩, ⟨0x048, 1, 4, 4, 0, 0⟩, ⟨0x050, 1, 4, 4, 0, 0⟩, ⟨0x058, 1, 4, 4, 0, 0⟩, ⟨0x060, 1, 4, 4, 0x3FF, 0⟩,
   ⟨0x080, 4, 8, 8, 0, 0⟩]

def injRows : List RegRow :=
  [⟨0x040, 1, 8, 8, 0x0FFFFFFF0FF7FFFF, 0⟩, ⟨0x048, 2, 4, 4, 0, 0⟩, ⟨0x050, 1, 8, 8, 0, 0⟩]

def dbgRows : List RegRow := [⟨0x040, 1, 4, 4, 0, 0⟩]

def clusterRows : List RegRow :=
  [⟨0x040, 1, 4, 4, 0, 0⟩, ⟨0x048, 1, 8, 8, 0, 0⟩, ⟨0x400, 256, 4, 4, 0x173F3, 0⟩, ⟨0x800, 8, 4, 4, 0x17F, 0⟩, ⟨0x900, 1, 4, 4, 3, 0⟩,
   ⟨0x904, 5, 4, 4, 0, 0⟩, ⟨0x918, 1, 4, 4, 0x3FF, 400⟩, ⟨0x91C, 2, 4, 4, 0, 0⟩, ⟨0xA00, 2, 4, 4, 0, 0⟩, ⟨0xA08, 2, 8, 8, 0, 0⟩,
   ⟨0xA40, 12, 8, 8, 0, 0⟩, ⟨0xAA0, 12, 4, 4, 0, 0⟩, ⟨0xAD0, 12, 4, 4, 0x1F1F1F1F, 0⟩, ⟨0xB00, 12, 4, 4, 0xFFFFFFF1, 0x3E800⟩,
   ⟨0xC00, 49, 8, 8, 0, 0⟩]

/-- Registers of page `q` of a channel window (R362). -/
def windowRows : Nat → List RegRow
  | 0 => ctlRows | 1 => seqRows | 2 => sluRows | 3 => timRows | 4 => tsetRows | 5 => afeRows | 6 => pmuRows | 7 => capRows
  | 8 => stpRows | 9 => acqRows | 10 => fltChRows | 11 => monRows | _ => []

/-- Registers of device page `p` (R361). -/
def deviceRows : Nat → List RegRow
  | 0 => devRows | 1 => pwrRows | 2 => refRows | 3 => synRows | 4 => hstRows | 5 => irqRows | 6 => fltRows | 8 => memRows
  | 9 => wstRows | 10 => mchRows | 11 => secRows | 12 => ldgRows | 13 => injRows | 14 => dbgRows | _ => []

/-- Pages that exist (R361, R362). -/
def pageExists (p : Nat) : Bool :=
  p ≤ 6 || (8 ≤ p && p ≤ 14) || (0x10 ≤ p && p ≤ 0x17) || (0x1000 ≤ p && p < 0x1880 && p % 16 < 12)

/-- Registers of a page by its number; fields that belong to a physical slot are kept at pages 0x2000 + 16 * slot + q. -/
def pageRows (p : Nat) : List RegRow :=
  if 0x1000 ≤ p then windowRows (p % 16) else if 0x10 ≤ p then (if p < 0x18 then clusterRows else []) else deviceRows p

/-- The first row that holds a register at offset `o`. -/
def rowAt : List RegRow → Nat → Option RegRow
  | [], _ => none
  | r :: rest, o =>
    if r.off ≤ o && o < r.off + r.count * r.stride && (o - r.off) % r.stride = 0 then some r else rowAt rest o

/-- The register at a BAR 0 address (R360); none where no register lies. -/
def regAt (a : Nat) : Option RegRow :=
  if pageExists (a / 0x1000) then
    match rowAt headerRows (a % 0x1000) with
    | some r => some r
    | none => rowAt (pageRows (a / 0x1000)) (a % 0x1000)
  else none

/-- The value a register reads before the host has written it; CAL_PATH of a slot c.16 is 0 (TIM.CAL_PATH). -/
def regReset (a : Nat) : Word :=
  let p := a / 0x1000
  let o := a % 0x1000
  if 0x2000 ≤ p && o = 0x088 then (if (p - 0x2000) / 16 % 17 = 16 then 0 else 0x10)
  else match rowAt headerRows o with
    | some r => BitVec.ofNat 64 r.reset
    | none => match rowAt (pageRows p) o with
      | some r => BitVec.ofNat 64 r.reset
      | none => 0

/-- What the host last wrote to the register at BAR 0 address `a`, or its reset value (R368). -/
def State.reg (s : State) (a : Nat) : Nat := (Tab.get (regReset a) s.regs a).toNat

/-- The register at BAR 0 address `a` holds `v`. -/
def State.setReg (s : State) (a v : Nat) : State :=
  { s with regs := Tab.set (regReset a) s.regs a (BitVec.ofNat 64 v) }

/-- Register of page `q` of window `w`. -/
def State.wreg (s : State) (w q off : Nat) : Nat := s.reg (pageAddr (winPage w q) off)
/-- Register of device page `p`. -/
def State.dreg (s : State) (p off : Nat) : Nat := s.reg (pageAddr p off)
/-- Register of the CLU page of cluster `c`. -/
def State.creg (s : State) (c off : Nat) : Nat := s.reg (pageAddr (cluPage c) off)
/-- Address at which a register of page `q` that belongs to physical slot `k` is kept. -/
def slotAddr (k q off : Nat) : Nat := pageAddr (0x2000 + 16 * k + q) off
/-- Register of page `q` that belongs to physical slot `k`. -/
def State.sreg (s : State) (k q off : Nat) : Nat := s.reg (slotAddr k q off)

/-- Remove every written register whose address meets `p`: it reads its reset value again (R369). -/
def State.dropRegs (s : State) (p : Nat → Bool) : State := { s with regs := s.regs.filter fun e => !p e.1 }

end Sys2Proof.Machine
end

