-- ==== Sys2Proof/Machine/Faults.lean ====
section
/-!
DEFINITION. Sys2Proof/Machine/Faults.lean: sources, detections and records: raising a detection (R290 to R295, R303),
classing it (R297, R298), the status it leaves (R299), the first-fault latches (R37, R300), the event log (R307), time.
-/

namespace Sys2Proof.Machine

/-- Source ID of a channel source (R18, R290). -/
def chSrc (slot idx : Nat) : Nat := slot * 32 + idx
/-- Source ID of a cluster source. -/
def cluSrc (c idx : Nat) : Nat := 0x2000 + c * 32 + idx
/-- Source ID of a device source. -/
def devSrc (page idx : Nat) : Nat := 0x4000 + page * 32 + idx
/-- Level, instance and index of a source ID (R18). -/
def srcLevel (src : Nat) : Nat := src / 8192
def srcInst (src : Nat) : Nat := src / 32 % 256
def srcIdx (src : Nat) : Nat := src % 32

/-- First number j and how many sources each device page has (R293). -/
def devFirst : Nat → Nat × Nat
  | 0 => (0, 3) | 1 => (3, 14) | 2 => (17, 5) | 3 => (22, 5) | 4 => (27, 7) | 5 => (34, 2) | 6 => (36, 4) | 8 => (40, 7)
  | 9 => (47, 7) | 10 => (54, 6) | 11 => (60, 6) | 12 => (66, 4) | 13 => (70, 1) | 14 => (71, 1) | _ => (0, 0)

/-- A source ID names a source of R291 to R293 (R308). -/
def srcExists (src : Nat) : Bool :=
  match srcLevel src with
  | 0 => srcInst src < 136 && srcIdx src < 12
  | 1 => srcInst src < 8 && srcIdx src < 12
  | 2 => srcIdx src < (devFirst (srcInst src)).2
  | _ => false

/-- Key of a source in its collector: its index, or j at device level (R293). -/
def srcKey (src : Nat) : Nat := if srcLevel src = 2 then (devFirst (srcInst src)).1 + srcIdx src else srcIdx src

/-- The device page and index of a device source number j (R293). -/
def devOfJ (j : Nat) : Nat :=
  let page := if j < 3 then 0 else if j < 17 then 1 else if j < 22 then 2 else if j < 27 then 3 else if j < 34 then 4
    else if j < 36 then 5 else if j < 40 then 6 else if j < 47 then 8 else if j < 54 then 9 else if j < 60 then 10
    else if j < 66 then 11 else if j < 70 then 12 else if j < 71 then 13 else 14
  devSrc page (j - (devFirst page).1)

/-- The collector of a source (R290). -/
def State.coll (s : State) (src : Nat) : Coll :=
  match srcLevel src with
  | 0 => Tab.get {} s.colCh (srcInst src)
  | 1 => Tab.get {} s.colClu (srcInst src)
  | _ => s.colDev

def State.modColl (s : State) (src : Nat) (f : Coll → Coll) : State :=
  match srcLevel src with
  | 0 => { s with colCh := Tab.set {} s.colCh (srcInst src) (f (s.coll src)) }
  | 1 => { s with colClu := Tab.set {} s.colClu (srcInst src) (f (s.coll src)) }
  | _ => { s with colDev := f s.colDev }

/-- Status of a source (R299). -/
def State.src (s : State) (src : Nat) : SrcSt := Tab.get {} (s.coll src).srcs (srcKey src)

def State.modSrc (s : State) (src : Nat) (f : SrcSt → SrcSt) : State :=
  s.modColl src fun c => { c with srcs := Tab.set {} c.srcs (srcKey src) (f (Tab.get {} c.srcs (srcKey src))) }

/-- Address at which a source's COMPAT register is kept (R298); channel registers belong to the slot (R291). -/
def compatKey (src : Nat) : Nat :=
  match srcLevel src with
  | 0 => slotAddr (srcInst src) 10 (0x140 + 4 * srcIdx src)
  | 1 => pageAddr (cluPage (srcInst src)) (0xB00 + 4 * srcIdx src)
  | _ => pageAddr 6 (0x880 + 4 * srcKey src)

/-- Address at which a source's REACT register is kept (R301); channel registers belong to the slot (R291). -/
def reactKey (src : Nat) : Nat :=
  match srcLevel src with
  | 0 => slotAddr (srcInst src) 10 (0x110 + 4 * srcIdx src)
  | 1 => pageAddr (cluPage (srcInst src)) (0xAD0 + 4 * srcIdx src)
  | _ => pageAddr 6 (0x760 + 4 * srcKey src)

/-- Page of the window, by the channel source that owns it (R291): CMD, SEQ, SLU, TIM, AFE, PMU, CAP, STP, ACQ. -/
def chPage : Nat → Nat
  | 0 => 0 | 1 => 1 | 2 => 2 | 3 => 3 | 4 => 5 | 5 => 6 | 6 => 7 | 7 => 8 | 8 => 9 | 9 => 5 | 10 => 3 | _ => 5

/-- Where a detection is latched in a PG_EVT register: page and bit (R290 to R293, the pages' event tables). -/
def State.latchOf (s : State) (src code : Nat) : Option (Nat × Nat) :=
  match srcLevel src with
  | 0 => if srcIdx src ≤ 8 then some (winPage (s.winOf (srcInst src)) (chPage (srcIdx src)), code) else none
  | 1 => if srcIdx src = 5 then some (cluPage (srcInst src), code)
         else if srcIdx src = 7 then some (4, (if code = 0 then 24 else 8) + srcInst src) else none
  | _ => if srcInst src = 8 && 4 < srcIdx src then none else some (srcInst src, srcIdx src)

/-- A page-event source: the channel sources CMD to ACQ and the device sources MEM 0 to 4, WST and MCH (R290). Every other source is
always enabled (R295). -/
def isPageEvent (src : Nat) : Bool :=
  match srcLevel src with
  | 0 => decide (srcIdx src ≤ 8)
  | 1 => false
  | _ => (srcInst src = 8 && srcIdx src ≤ 4) || srcInst src = 9 || srcInst src = 10

/-- PG_EVT_EN of a page (R364). -/
def State.evtEn (s : State) (page : Nat) : Nat := s.reg (pageAddr page 0x018)

/-- PG_EVT of a page at this instant: the bits latched, and those of events placed ahead whose GT has come (R366). -/
def State.evtBits (s : State) (page : Nat) : BitVec 32 :=
  s.evtDue.foldl (fun m e => if e.2.1 = page && e.1 ≤ s.t then m ||| BitVec.ofNat 32 (2 ^ e.2.2) else m) (Tab.get 0 s.pgEvt page)

/-- Set a PG_EVT bit: the latch for the host alone (R366). -/
def State.latch (s : State) (page b : Nat) : State :=
  { s with
    evtNow := (s.now, (page, b) :: (if s.evtNow.1 = s.now then s.evtNow.2 else []))
    pgEvt := Tab.set 0 s.pgEvt page (Tab.get 0 s.pgEvt page ||| BitVec.ofNat 32 (2 ^ b)) }

/-- Set a PG_EVT bit at `at_`: now, or when GT comes there (R366). -/
def State.latchAt (s : State) (page b at_ : Nat) : State :=
  if at_ ≤ s.t then s.latch page b else { s with evtDue := s.evtDue ++ [(at_, page, b)] }

/-- Clear PG_EVT bits, those of events placed ahead among them whose GT has come (R366). -/
def State.unlatch (s : State) (page : Nat) (m : BitVec 32) : State :=
  { s with
    evtDue := s.evtDue.filter fun e => !(e.2.1 = page && e.1 ≤ s.t && m.getLsbD e.2.2)
    pgEvt := Tab.set 0 s.pgEvt page (Tab.get 0 s.pgEvt page &&& ~~~ m) }

/-- PG_EVT bits of a page set at this very instant (R366). -/
def State.freshBits (s : State) (page : Nat) : BitVec 32 :=
  s.evtDue.foldl (fun m e => if e.2.1 = page && e.1 = s.t then m ||| BitVec.ofNat 32 (2 ^ e.2.2) else m)
    (if s.evtNow.1 = s.now then s.evtNow.2.foldl (fun m e => if e.1 = page then m ||| BitVec.ofNat 32 (2 ^ e.2) else m) 0 else 0)

/-- The host writes PG_EVT: bits clear, except those whose event came in the same instant (R366). -/
def State.clearEvt (s : State) (page : Nat) (m : BitVec 32) : State := s.unlatch page (m &&& ~~~ s.freshBits page)

/-- A detection by source `src` is consequential for a block reset of the page `target` (R303). -/
def State.conseqFor (s : State) (target src : Nat) : Bool :=
  let lvl := srcLevel src
  let i := srcIdx src
  let inst := srcInst src
  if 0x1000 ≤ target then
    let w := (target - 0x1000) / 16
    let idxs : List Nat := match target % 16 with
      | 1 => [1, 2, 6, 7, 8] | 2 => [2, 1, 6] | 3 => [3, 10, 6, 7, 8] | 5 => [4, 9, 11, 5, 6, 7] | 6 => [5, 8] | 9 => [8, 1]
      | 7 => [6, 8] | 8 => [7, 8] | _ => []
    (lvl = 0 && inst = s.slotOf w && idxs.contains i) ||
      (lvl = 1 && inst = cluOf w && i = 7 && (target % 16 = 7 || target % 16 = 8))
  else if 0x10 ≤ target then
    (lvl = 0 && inst / 17 = target - 0x10) || (lvl = 1 && inst = target - 0x10 && i ≠ 0 && i ≠ 1 && i ≠ 8)
  else match target with
    | 4 => (lvl = 0 && i = 2) || (lvl = 2 && inst = 4 && i = 6)
    | 3 => (lvl = 2 && inst = 3 && i ≤ 2) || (lvl = 0 && (i = 1 || i = 8))
    | 10 => lvl = 2 && inst = 10
    | _ => false

/-- A detection made at time `at_` falls in a consequential window for its source (R303). -/
def State.isConseq (s : State) (src at_ : Nat) : Bool :=
  s.conseqs.any fun w => decide (w.2.1 ≤ at_) && decide (at_ < w.2.2) && s.conseqFor w.1 src

/-- The causes of the sources marked L persist (R290 to R293): source ID and detection code. -/
def isCond (src code : Nat) : Bool :=
  match srcLevel src with
  | 0 => (srcIdx src = 9 && code = 2) || (srcIdx src = 11 && code = 2)
  | 1 => match srcIdx src with
    | 0 => true | 1 => true | 3 => true | 8 => code = 1 | 9 => true | _ => false
  | _ => match srcInst src with
    | 0 => srcIdx src = 1
    | 1 => true
    | 2 => srcIdx src = 0 || srcIdx src = 1
    | 3 => srcIdx src = 0 || srcIdx src = 4
    | 4 => srcIdx src = 0 || srcIdx src = 2
    | 8 => srcIdx src = 5 || srcIdx src = 6
    | _ => false

/-- Enter a detection in the list of those on their way: the first of a source in one tq makes the record, later ones
join it (R15, R294). -/
def joinDet (d : Det) : List Det → List Det
  | [] => [d]
  | e :: r => if e.src = d.src && e.at_ = d.at_ && e.past = d.past then { e with parts := e.parts ++ d.parts, more := e.more + d.more } :: r
              else e :: joinDet d r

/-- Send a detection towards its collector, or hold it: before GT runs with GT 0, at most 64 of them (R381), and
until SERVICEABLE with its stamp (R302). -/
def State.send (s : State) (d : Det) : State :=
  if !s.gtRun then
    if s.heldN < 64 then { s with heldDet := joinDet { d with at_ := 0 } s.heldDet, heldN := s.heldN + 1 }
    else s.modDev fun v => { v with heldLost := satInc 255 v.heldLost }
  else if s.dev.bringup ≠ 5 then { s with heldDet := joinDet d s.heldDet }
  else { s with flight := joinDet d s.flight }

/-- A detection on its way is withdrawn; the bit of one placed ahead does not set. -/
def State.withdraw (s : State) (src code at_ : Nat) : State :=
  let less := fun (l : List Det) => (l.map fun d => if d.src = src && d.at_ = at_ then
    { d with parts := d.parts.filter fun p => decide (p.code ≠ code) } else d).filter fun d => !d.parts.isEmpty
  { s with
    flight := less s.flight, heldDet := less s.heldDet
    evtDue := s.evtDue.filter fun e => !(decide (s.t < e.1) && decide (e.1 = at_) && decide (s.latchOf src code = some e.2)) }

/-- Detections of a source and code placed ahead are called off. -/
def State.callOff (s : State) (src code : Nat) : State :=
  let less := fun (l : List Det) => (l.map fun d => if d.src = src && s.t < d.at_ && !d.past then
    { d with parts := d.parts.filter fun p => decide (p.code ≠ code) } else d).filter fun d => !d.parts.isEmpty
  { s with
    flight := less s.flight, heldDet := less s.heldDet
    evtDue := s.evtDue.filter fun e => !(decide (s.t < e.1) && decide (s.latchOf src code = some e.2)) }

/-- One detection: source, code, native class, segment, value and time (R294, R295, R303). -/
def State.raiseAt (s : State) (src code native : Nat) (shelf : Shelf) (value : BitVec 28) (at_ : Nat) : State :=
  let s1 := match s.latchOf src code with
    | some (p, b) => s.latchAt p b at_
    | none => s
  let enabled := !isPageEvent src || decide (native ≠ 0) || (match s.latchOf src code with
    | some (p, b) => bit (s.evtEn p) b
    | none => true)
  let s2 := if isCond src code then s1.modSrc src fun x => if x.causes.contains code then x else { x with causes := x.causes ++ [code] }
    else s1
  if enabled then
    s2.send { src := src, pin := if srcLevel src = 0 then pinOf (s.winOf (srcInst src)) else none, at_ := at_,
              parts := [{ code := code, native := native, shelf := shelf, value := value, conseq := s.isConseq src at_,
                          inj := false, dry := false }], more := 0 }
  else s2

/-- A detection now, with no segment and a value the manual does not lay out (log entry 6). -/
def State.raise (s : State) (src code native : Nat) : State :=
  s.raiseAt src code native nullShelf (Config.detailValue src code s.t) s.t

/-- A detection by a channel source of the slot that window `w` addresses (R291). -/
def State.raiseCh (s : State) (w idx code native : Nat) : State := s.raise (chSrc (s.slotOf w) idx) code native
/-- The same, concerning a segment, at a time. -/
def State.raiseSeg (s : State) (w idx code native : Nat) (shelf : Shelf) (at_ : Nat) : State :=
  let src := chSrc (s.slotOf w) idx
  s.raiseAt src code native shelf (Config.detailValue src code at_) at_
/-- A detection by a cluster source. -/
def State.raiseClu (s : State) (c idx code native : Nat) : State := s.raise (cluSrc c idx) code native
/-- A detection by a device source that has one detection (R290); code as given for the others. -/
def State.raiseDev (s : State) (page idx code native : Nat) : State := s.raise (devSrc page idx) code native
/-- A detection whose DETAIL.VALUE the manual names. -/
def State.raiseVal (s : State) (src code native value : Nat) : State :=
  s.raiseAt src code native nullShelf (BitVec.ofNat 28 value) s.t

/-- The cause of a condition has ended: COND reads 0 when no cause persists (R299). -/
def State.endCond (s : State) (src code : Nat) : State :=
  (s.modSrc src fun x => { x with causes := x.causes.filter fun c => decide (c ≠ code) }).modDev fun d => { d with
    again := d.again.filter fun x => decide (x ≠ (src, code)) }

/-! Classes. -/

/-- What classing one detection gives: class, escalated, F to F, severe. -/
structure Classed where
  cls : Nat
  esc : Bool
  mf : Bool
  severe : Bool
deriving DecidableEq, Repr

/-- Class of one detection of a record at time `at_`, against the status before that tq (R297, R298, R303). `compat` is
the source's COMPAT register. -/
def classify (st : SrcSt) (compat at_ : Nat) (p : DetPart) : Classed :=
  if bit compat 0 then
    let n1 := bits compat 4 4
    let window := bits compat 8 24 * 1024000000
    let earlier := (st.win.filter fun t => decide (t ≤ at_) && decide (at_ - t < window)).length
    let severe := !p.conseq && decide (n1 ≤ earlier)
    { cls := if severe then 3 else 1, esc := false, mf := false, severe := severe }
  else if p.native ≠ 0 && !p.conseq && !p.dry && st.base.getLsbD p.native then
    { cls := min 3 (p.native + 1), esc := true, mf := p.native = 3, severe := false }
  else { cls := p.native, esc := false, mf := false, severe := false }

/-- The detections of a record that count: a real one displaces an injected one in the same tq (R309). -/
def Det.effective (d : Det) : List DetPart :=
  if d.parts.any (fun p => !p.inj) then d.parts.filter fun p => !p.inj else d.parts

/-- The detection a record shows: the highest class, then the lowest code (R294). -/
def pickPart (st : SrcSt) (compat at_ : Nat) : List DetPart → Option (DetPart × Classed)
  | [] => none
  | p :: r =>
    let c := classify st compat at_ p
    match pickPart st compat at_ r with
    | none => some (p, c)
    | some (q, k) => if c.cls < k.cls || (c.cls = k.cls && q.code < p.code) then some (q, k) else some (p, c)

/-- DETAIL of a detection (R294). -/
def detailOf (p : DetPart) : Nat :=
  pack [(0, 8, p.code), (8, 2, p.native), (16, 20, p.shelf.toNat), (36, 28, p.value.toNat)]

/-- A Harvest record (R218): type, kind, pin, source, time, payload. -/
def mkRec (ty sub : Nat) (pin : Option Nat) (src t : Nat) (payload : Nat) : Rec :=
  BitVec.ofNat 256 (pack [(0, 4, ty), (4, 3, sub), (8, 7, pin.getD 0), (15, 1, b2n pin.isSome), (16, 16, src), (32, 16, epochOf t),
    (64, 64, gtOf t), (128, 128, payload)])

/-- TYPE of a record (R218). -/
def recType (r : Rec) : Nat := bits r.toNat 0 4
/-- The time of a record on the epoch:GT scale. -/
def recTime (r : Rec) : Nat := bits r.toNat 32 16 * 2 ^ 64 + bits r.toNat 64 64
/-- The record with its PHASE bit (R214). -/
def recPhase (r : Rec) (b : Bool) : Rec := BitVec.ofNat 256 (r.toNat - bits r.toNat 7 1 * 128 + b2n b * 128)
/-- The 32 bytes of a record. -/
def recBytes (r : Rec) : List Byte := bytesOf r.toNat 32

/-- EVENT record of a detection (R224). -/
def eventRec (d : Det) (p : DetPart) (k : Classed) (count : Nat) : Rec :=
  mkRec 6 0 d.pin d.src d.at_ (pack [(0, 2, k.cls), (2, 1, b2n k.esc), (3, 1, b2n k.mf), (4, 1, b2n p.conseq),
    (5, 1, b2n (d.parts.any (·.inj))), (6, 1, b2n (d.parts.any (fun q => !q.inj))), (7, 1, b2n k.severe),
    (16, 16, min 65535 count), (64, 64, detailOf p)])

/-- COUNT of an EVENT record higher by `k`, held at its limit (R224). -/
def bumpCount (r : Rec) (k : Nat) : Rec :=
  let n := bits r.toNat 144 16
  BitVec.ofNat 256 (r.toNat - n * 2 ^ 144 + min 65535 (n + k) * 2 ^ 144)

/-- The EVENT record of a source and a time in a list of records counts `k` more. -/
def countIn (src at_ k : Nat) (l : List Rec) : List Rec :=
  l.map fun r => if recType r = 6 && bits r.toNat 16 16 = src && recTime r = at_ then bumpCount r k else r

/-- Detections that count in a record sent before (R15, R60): on its way, they join it; at its collector, they count in the source's COUNT and,
while the EVENT record waits there, in its own. DEDUCED (log 99): a record that has left its collector takes no more. -/
def State.sendMore (s : State) (src at_ k : Nat) : State :=
  if s.flight.any fun e => e.src = src && e.at_ = at_ then
    { s with flight := s.flight.map fun e => if e.src = src && e.at_ = at_ then { e with more := e.more + k } else e }
  else
    let s1 := s.modSrc src fun st => { st with count := satAdd (2 ^ 32 - 1) st.count k }
    match srcLevel src with
    | 0 => s1.modHv (srcInst src / 17) fun h => { h with collQ := countIn src at_ k h.collQ }
    | 1 => s1.modHv (srcInst src) fun h => { h with collQ := countIn src at_ k h.collQ }
    | _ => s1.modFlt fun f => { f with devQ := countIn src at_ k f.devQ }

/-! First-fault latches. -/

/-- Order of R15 and R37: epoch and GT, then source ID. -/
def before (t1 s1 t2 s2 : Nat) : Bool := t1 < t2 || (t1 = t2 && s1 < s2)

/-- A latch takes a detection at `now`: it keeps the first, and an earlier one may replace it for 64 ns (R37, R300). -/
def latchFirst (l : Option First) (d : First) (now : Nat) : Option First :=
  match l with
  | none => some { d with ovf := false, openUntil := some (now + 65536) }
  | some f => match f.openUntil with
    | some e => if now < e && before d.at_ d.src f.at_ f.src then some { d with ovf := true, openUntil := some e }
                else some { f with ovf := true }
    | none => some { f with ovf := true }

/-- The latches at channel, cluster and device level take a detection (R300). -/
def State.latchAll (s : State) (d : First) : State :=
  let c := if srcLevel d.src = 0 then srcInst d.src / 17 else srcInst d.src
  let s1 := if srcLevel d.src = 0 then s.modColl d.src fun x => { x with first := latchFirst x.first d s.t } else s
  let s2 := if srcLevel d.src ≤ 1 then s1.modColl (cluSrc c 0) fun x => { x with first := latchFirst x.first d s.t } else s1
  { s2 with colDev := { s2.colDev with first := latchFirst s2.colDev.first d s.t } }

/-! The event log (R307): 2,048 slots of 32 bytes at the base of bank 10. -/

/-- BAR 4 offset of bank `b` (R274): 2 MiB a bank. -/
def bankBase (b : Nat) : Nat := b * 0x200000

/-- A ring indication under R114: asserts at `hi`, releases at `lo`, in 1/256 of `size`. -/
def indication (was : Bool) (level size hi lo : Nat) : Bool :=
  if hi * size ≤ level * 256 then true else if level * 256 ≤ lo * size then false else was

/-- Level of the event log. -/
def FltSt.logLevel (f : FltSt) : Nat := f.logWr - f.logRd

/-- READY of the event log after its level has changed (R114, R307). -/
def State.logIndicate (s : State) : State :=
  let wm := s.dreg 6 0x088
  s.modFlt fun f => { f with logReady := indication f.logReady f.logLevel 2048 (bits wm 0 8) (bits wm 8 8) }

/-- Push a record into the event log, or count it as lost and raise LOG_OVF (R307); it sees the pops of its own instant as not yet done
(R113). -/
def State.logPush (s : State) (src : Nat) (r : Rec) : State :=
  if src = devSrc 6 0 then s
  else if s.flt.logLevel + movedNow s.flt.logPop s.now < 2048 then
    let a := bankBase 10 + 32 * (s.flt.logWr % 2048)
    let r' := recPhase r (!bit s.flt.logWr 11)
    ((s.setWs (Memory.store s.wsMem a (recBytes r'))).modFlt fun f => { f with logWr := f.logWr + 1 }).logIndicate
  else (s.modFlt fun f => { f with logLost := satInc 65535 f.logLost }).raiseDev 6 0 0 2

/-- A record enters a collector's queue in the order of R15: by stamp, then by source ID (R212). -/
def insertRec (r : Rec) : List Rec → List Rec
  | [] => [r]
  | x :: l => if before (recTime r) (bits r.toNat 16 16) (recTime x) (bits x.toNat 16 16) then r :: x :: l else x :: insertRec r l

/-- Hand an EVENT record to Harvest: ring c, or the ring of HVS_DEV (R212, R294). -/
def State.harvestEvent (s : State) (src : Nat) (r : Rec) : State :=
  match srcLevel src with
  | 0 => s.modHv (srcInst src / 17) fun h => { h with collQ := insertRec r h.collQ }
  | 1 => s.modHv (srcInst src) fun h => { h with collQ := insertRec r h.collQ }
  | _ => s.modFlt fun f => { f with devQ := insertRec r f.devQ }

/-- What a detection leaves in its source's status (R297 to R299, R303, R308). -/
def SrcSt.take (st : SrcSt) (compat : Nat) (d : Det) (p : DetPart) : SrcSt :=
  let live := d.effective.filter fun q => !q.dry
  let classed := live.map fun q => (q, classify st compat d.at_ q)
  { st with
    pend := classed.foldl (fun v x => v ||| BitVec.ofNat 4 (2 ^ x.2.cls)) st.pend
    base := classed.foldl (fun v x => if x.1.conseq then v else v ||| BitVec.ofNat 4 (2 ^ x.2.cls)) st.base
    mf := st.mf || classed.any fun x => x.2.mf
    conseq := p.conseq
    inj := d.parts.any fun q => q.inj
    seq := st.seq + 1
    count := satAdd (2 ^ 32 - 1) st.count ((d.parts.filter fun q => !q.dry).length + d.more)
    times := if d.past then st.times else d.at_ :: st.times
    win := st.win ++ (live.filter fun q => !q.conseq).map fun _ => d.at_ }

/-- GT advances by `dt` while it runs; a wrap of GT raises EPOCH_WRAP with GT 0 of the new epoch (R13, R293). -/
def State.advance (s : State) (dt : Nat) : State :=
  let s1 := { s with now := s.now + dt }
  if s.gtRun then
    let t1 := (s.t + dt) % 2 ^ 80
    let s2 := { s1 with t := t1 }
    if s.t / 2 ^ 64 = (s.t + dt) / 2 ^ 64 then s2
    else
      let w := (s.t / 2 ^ 64 + 1) * 2 ^ 64 % 2 ^ 80
      s2.raiseAt (devSrc 2 4) 0 0 nullShelf (Config.detailValue (devSrc 2 4) 0 w) w
  else s1

end Sys2Proof.Machine
end

