-- ==== Sys2Proof/Machine/Irq.lean ====
section
/-!
DEFINITION. Sys2Proof/Machine/Irq.lean: what the part sends on its own initiative towards the host and the operator:
MSI-X signals (R343), the trap and its doorbell (R306, R344), ALIVE (R305).
-/

namespace Sys2Proof.Machine

/-- One microsecond, in tq (R12). -/
def us : Nat := 1024000

/-- The part may issue requests: link up, Bus Master Enable 1, not in D3hot, bring-up ended (R335, R336, R382). -/
def State.canIssue (s : State) : Bool := s.host.up && s.host.bme && !s.host.l1 && decide (s.dev.bringup = 5)

/-- A vector is masked: by its own mask bit (1 until written), the function mask, or MSI-X not enabled (R343). -/
def State.vecMasked (s : State) (v : Nat) : Bool :=
  !s.host.msixEn || s.host.funcMask || (Tab.get 1 s.host.msixTab (16 * v + 12)).getLsbD 0

/-- Minimum gap between two messages of one vector, in tq (IRQ.GAP). -/
def State.vecGap (s : State) : Nat := s.dreg 5 0x04C % 65536 * us

/-- The gap of a vector still runs (R343). -/
def State.gapOpen (s : State) (v : Nat) : Bool :=
  match Tab.get none s.host.msixLast v with
  | some t => decide (s.vecGap ≠ 0) && decide (s.now < t + s.vecGap)
  | none => false

/-- Send one message of a vector and clear its pending bit (R343). -/
def State.sendVec (s : State) (v : Nat) : State :=
  (s.modHost fun h => { h with msixPend := Tab.set false h.msixPend v false, msixSince := Tab.set none h.msixSince v none,
                               msixLast := Tab.set none h.msixLast v (some s.now), msixGap := Tab.set false h.msixGap v false }).emit (.msix v)

/-- Since when a vector has been pending and masked, after either may have changed (R343). -/
def State.sinceVec (s : State) (v : Nat) : State :=
  let since := if Tab.get false s.host.msixPend v && s.vecMasked v then some ((Tab.get none s.host.msixSince v).getD s.now) else none
  s.modHost fun h => { h with msixSince := Tab.set none h.msixSince v since }

/-- The same for every vector, after the function's masking may have changed. -/
def State.sinceAll (s : State) : State := s.each ((s.host.msixPend.filter (·.2)).map (·.1)) State.sinceVec

/-- A signal for a vector: pending while masked or while no request may be issued, carried by the gap's one message, or
sent (R335, R343). -/
def State.signalVec (s : State) (v : Nat) : State :=
  if s.vecMasked v then (s.modHost fun h => { h with msixPend := Tab.set false h.msixPend v true }).sinceVec v
  else if !s.canIssue then s.modHost fun h => { h with msixPend := Tab.set false h.msixPend v true }
  else if s.gapOpen v then s.modHost fun h => { h with msixGap := Tab.set false h.msixGap v true }
  else s.sendVec v

/-- A signal from a source whose vector register lies at `off` of the IRQ page (R343). -/
def State.signal (s : State) (off : Nat) : State :=
  let r := s.dreg 5 off
  if bit r 8 then s.signalVec (r % 256) else s

/-- Pending vectors that may now send one message each (R335, R343). -/
def State.flushVecs (s : State) : State :=
  s.each (List.range 256) fun s v =>
    if Tab.get false s.host.msixPend v && !s.vecMasked v && s.canIssue then
      (if s.gapOpen v then s.modHost fun h => { h with msixPend := Tab.set false h.msixPend v false, msixGap := Tab.set false h.msixGap v true }
       else s.sendVec v)
    else s

/-- The mask of a vector clears: one message for a pending vector (R343). -/
def State.unmaskVec (s : State) (v : Nat) : State :=
  let s1 := s.modHost fun h => { h with msixTab := Tab.set 1 h.msixTab (16 * v + 12) (Tab.get 1 h.msixTab (16 * v + 12) &&& 0xFFFFFFFE) }
  let s2 := s1.sinceVec v
  if Tab.get false s2.host.msixPend v && !s2.vecMasked v && s2.canIssue then
    (if s2.gapOpen v then s2.modHost fun h => { h with msixPend := Tab.set false h.msixPend v false, msixGap := Tab.set false h.msixGap v true }
     else s2.sendVec v)
  else s2

/-- The vector register of the collector of a source: slot, cluster or device (R301, R343). -/
def State.signalColl (s : State) (src : Nat) : State :=
  match srcLevel src with
  | 0 => s.signal (0x400 + 4 * srcInst src)
  | 1 => s.signal (0x060 + 4 * srcInst src)
  | _ => s.signal 0x050

/-- Any PEND_F bit anywhere in the part (R305). -/
def State.anyFatal (s : State) : Bool :=
  let inColl := fun c : Coll => c.srcs.any fun e => e.2.pend.getLsbD 3
  s.colCh.any (fun e => inColl e.2) || s.colClu.any (fun e => inColl e.2) || inColl s.colDev

/-- ALIVE freezes at its POL level and ALIVE_STOPPED is raised (R305). -/
def State.aliveFreeze (s : State) (cause src : Nat) : State :=
  if s.flt.running then
    (s.modFlt fun f => { f with alive := some f.pol, running := false, cause := cause, aliveSrc := src }).raiseDev 6 3 0 0
  else s

/-- The trap doorbell's 16 bytes (R306). -/
def doorbell (d : Det) (k : Classed) (seq : BitVec 16) : List Byte :=
  bytesOf (pack [(0, 16, d.src), (16, 2, k.cls), (18, 1, b2n k.esc), (19, 1, b2n k.mf), (20, 1, b2n (d.parts.any (·.inj))),
    (21, 1, b2n (d.parts.any (fun q => !q.inj))), (32, 16, epochOf d.at_), (48, 16, seq.toNat), (64, 64, gtOf d.at_)]) 16

/-- A TRAP reaction: TRAP_N, the trap area of bank 10, the doorbell write (R306, R344). -/
def State.trap (s : State) (d : Det) (k : Classed) (r : Rec) : State :=
  let seq := s.flt.trapSeq + 1
  let s1 := s.modFlt fun f => { f with trap := true, trapSeq := seq }
  let s2 := s1.setWs (Memory.store s1.wsMem (bankBase 10 + 0x10000 + 32 * (seq.toNat % 128)) (recBytes r))
  let addr := s.dreg 5 0x040
  if addr = 0 then s2.raiseDev 5 0 0 2
  else if s.canIssue then s2.emit (.write addr (doorbell d k seq))
  else s2.modHost fun h => { h with skipped := satInc 65535 h.skipped }

end Sys2Proof.Machine
end

