-- ==== Sys2Proof/Machine/Store.lean ====
section
/-!
DEFINITION. Sys2Proof/Machine/Store.lean: where things lie in the stacks and the working store (R87, R267, R274), what error
correction reports (R271, R272), banks that are not ON (R276), and the pin record queue (R211).
-/

namespace Sys2Proof.Machine

/-- Base of a pin's partition, its vector area (R87). -/
def vecArea (n : Nat) : Nat := n / 64 * 0x800000000 + n % 64 * 0x1C000000
/-- Base of a pin's fail area (R87). -/
def failArea (n : Nat) : Nat := vecArea n + 0x18000000
/-- Base of a stack's shared area (R87). -/
def sharedArea (st : Nat) : Nat := st * 0x800000000 + 0x700000000
/-- Base of a pin's Catalogue store (R87). -/
def catStore (n : Nat) : Nat := sharedArea (n / 64) + n % 64 * 0x100000
/-- Base of a cluster's staging in its stack (R267). -/
def stagingBase (c : Nat) : Nat := sharedArea (c / 4) + 0x80000000 + c % 4 * 0x20000000
/-- Base of a slot's calibration history ring (R268). -/
def calRing (k : Nat) : Nat := sharedArea (k / 17 / 4) + 0x10000000 + (17 * (k / 17 % 4) + k % 17) * 0x200000
/-- Base of a window's holding area (R274). -/
def holdArea (w : Nat) : Nat := bankBase (12 + w / 68) + w % 68 * 0x4000

/-- Power state of a stack, PWR.STK_STATE: 0 ACTIVE, 1 SELF_REFRESH, 2 CHANGING, 3 NOT_TRAINED (R388). -/
def State.stkState (s : State) (st : Nat) : Nat := if st = 0 then s.dev.stk.1 else s.dev.stk.2

/-- A stack serves: it is ACTIVE (R388). -/
def State.stackOn (s : State) (st : Nat) : Bool := decide ((if st = 0 then s.dev.stk.1 else s.dev.stk.2) = 0)

/-- State of a bank as WST.BANK_STATE reads it (R276). -/
def State.bankState (s : State) (b : Nat) : Nat := Tab.get 0 s.mem.bank b

/-- A destructive march is working on the bank (R282). -/
def State.destructive (s : State) (b : Nat) : Bool :=
  decide (s.mem.march ≠ 0) && bit (s.dreg 10 0x040) 21 && bit (s.dreg 10 0x040) b

/-- A bank serves accesses: ON, and not under a destructive march (R276, R282). -/
def State.bankOn (s : State) (b : Nat) : Bool := decide (s.bankState b = 0) && !s.destructive b

/-- An access to a bank that is not ON: the first after each change raises ACCESS_NOT_ON (R276). -/
def State.touchBank (s : State) (b : Nat) : State :=
  if s.bankOn b || Tab.get false s.mem.notOn b then s
  else (s.modMem fun m => { m with notOn := Tab.set false m.notOn b true }).raiseDev 9 5 5 0

/-- A word of ECC_LAST counts one more report in its SEQ, bits [63:48]. -/
def eccSeq (old : Word) (low : Nat) : Word := BitVec.ofNat 64 (low + (bits old.toNat 48 16 + 1) % 65536 * 2 ^ 48)

/-- Report a stack word: kind 1 CORRECTED, 2 UNCORRECTED, 3 RMW_DROPPED, read by master `m` (R271). -/
def State.eccStack (s : State) (addr kind m : Nat) : State :=
  let st := addr / 0x800000000
  let key := if kind = 1 then 2 * st else 2 * st + 1
  let s1 := s.modMem fun x => { x with
    ecc := Tab.set 0 x.ecc key (satInc (2 ^ 32 - 1) (Tab.get 0 x.ecc key))
    last := Tab.set 0 x.last st (eccSeq (Tab.get 0 x.last st) (pack [(0, 36, addr), (36, 2, kind), (38, 3, m)])) }
  let s2 := if kind = 3 then s1.raiseDev 8 1 1 2 else s1
  s2.raiseDev 8 (kind - 1) (kind - 1) (if kind = 1 then 1 else 2)

/-- Report a working-store word at BAR 4 offset `off` (R271). -/
def State.eccBank (s : State) (off kind m : Nat) : State :=
  let key := 16 + 2 * (off / 0x200000) + (if kind = 1 then 0 else 1)
  let s1 := s.modMem fun x => { x with
    ecc := Tab.set 0 x.ecc key (satInc (2 ^ 32 - 1) (Tab.get 0 x.ecc key))
    last := Tab.set 0 x.last 2 (eccSeq (Tab.get 0 x.last 2) (pack [(0, 25, off), (25, 2, kind), (27, 3, m)])) }
  s1.raiseDev 9 (if kind = 1 then 3 else 4) (if kind = 1 then 3 else 4) (if kind = 1 then 1 else 2)

/-- Report what correction found in a stack word. -/
def State.eccStackSeen (s : State) (e : Ecc) (addr m : Nat) : State :=
  match e with
  | .clean => s
  | .corrected => s.eccStack addr 1 m
  | .bad => s.eccStack addr 2 m

/-- Report what correction found in a working-store word. -/
def State.eccBankSeen (s : State) (e : Ecc) (off m : Nat) : State :=
  match e with
  | .clean => s
  | .corrected => s.eccBank off 1 m
  | .bad => s.eccBank off 2 m

/-- One more record dropped, by its TYPE (R211, R213). -/
def Drops.add (d : Drops) (r : Rec) : Drops :=
  { cnt := Tab.set 0 d.cnt (recType r) (Tab.get 0 d.cnt (recType r) + 1), first := match d.first with | none => some (recTime r) | x => x }

/-- Counts by type of a GAP of kind QUEUE_DROP or STAGING_DROP, each saturating (R223). -/
def Drops.payload (d : Drops) : Nat :=
  let n := fun k lim => min lim (Tab.get 0 d.cnt k)
  pack [(0, 32, n 1 (2 ^ 32 - 1)), (32, 32, n 2 (2 ^ 32 - 1)), (64, 16, n 3 65535), (80, 16, n 4 65535), (96, 16, n 5 65535), (112, 16, n 6 65535)]

/-- A record of a window's pin: its SRC is the slot's, with the record's index (R218). -/
def State.winRec (s : State) (w ty sub idx t payload : Nat) : Rec :=
  mkRec ty sub (pinOf w) (chSrc (s.slotOf w) idx) t payload

/-- Enter the GAP of kind QUEUE_DROP with the counts, when the queue has room (R211). -/
def State.queueGap (s : State) (w : Nat) : State :=
  let c := s.cp w
  match c.qDrops.first with
  | none => s
  | some t =>
    if c.recQ.length < 255 then
      let r := s.winRec w 5 3 0x1B t c.qDrops.payload
      s.modCp w fun c => { c with recQ := c.recQ ++ [r], qDrops := {} }
    else s

/-- Hand a record to the pin record queue of 256, one place of which is kept for the GAP (R211). -/
def State.queueRec (s : State) (w : Nat) (r : Rec) : State :=
  let s1 := s.queueGap w
  if (s1.cp w).recQ.length < 255 then s1.modCp w fun c => { c with recQ := c.recQ ++ [r] }
  else
    let s2 := s1.modCp w fun c => { c with qDrops := c.qDrops.add r }
    let s3 := s2.modMn w fun m =>
      if recType r = 1 then { m with qFail := satInc (2 ^ 32 - 1) m.qFail } else { m with qOther := satInc (2 ^ 32 - 1) m.qOther }
    s3.raiseCh w 6 5 2

end Sys2Proof.Machine
end

