-- ==== Sys2Proof/Machine/Operands.lean ====
section
/-!
DEFINITION. Sys2Proof/Machine/Operands.lean: operand forms: pin action codes (R59), descriptor fields (R67 to R76), the two
checksums (R68, R352), period-table entries (R150), time-set edges (R153 to R155), limits of a period (R3, R177, R194).
-/

namespace Sys2Proof.Machine

/-! Pin action codes (R59). -/

/-- Codes that compare and draw a verdict: EL, EH, EM, EV, ET. -/
def isVerdict (c : Nat) : Bool := (4 ≤ c && c ≤ 7) || c = 0xC
/-- Codes with a strobe (R162): the compare codes EL, EH, EM, EV, CP, ET, TS. -/
def hasStrobe (c : Nat) : Bool := isVerdict c || c = 9 || c = 0xD
/-- Codes that carry no meaning and play as XX (R60). -/
def isInvalid (c : Nat) : Bool := c = 0xE || c = 0xF
/-- Remembered drive state after a code (R59). -/
def rememberAfter (old : Drv) (c : Nat) : Drv :=
  match c with
  | 0 => .d0 | 1 => .d1 | 2 => .dz | 0xA => .d0 | 0xB => .d1 | _ => old

/-! Descriptor fields (R67), counted from bit 0 of the 64 bytes read little-endian. -/

def dKind (d : RawDesc) : Nat := bits d.toNat 0 4
def dStream (d : RawDesc) : Bool := bit d.toNat 8
def dPolicy (d : RawDesc) : Nat := bits d.toNat 9 2
def dDisclose (d : RawDesc) : Bool := bit d.toNat 11
def dLaneEn (d : RawDesc) : Bool := bit d.toNat 12
def dCadEn (d : RawDesc) : Bool := bit d.toNat 13
def dCadMask (d : RawDesc) : Bool := bit d.toNat 14
def dMarkCode (d : RawDesc) : Nat := bits d.toNat 16 12
def dMarkStart (d : RawDesc) : Bool := bit d.toNat 28
def dMarkIter (d : RawDesc) : Bool := bit d.toNat 29
def dShelf (d : RawDesc) : Shelf := BitVec.ofNat 20 (bits d.toNat 32 20)
def dVecBase (d : RawDesc) : Nat := bits d.toNat 64 32
def dVecLen (d : RawDesc) : Nat := bits d.toNat 96 32
def dLaneBase (d : RawDesc) : Nat := bits d.toNat 128 32
def dLoop (d : RawDesc) : Nat := bits d.toNat 160 32
def dNext (d : RawDesc) : Shelf := BitVec.ofNat 20 (bits d.toNat 192 20)
def dAlt (d : RawDesc) : Shelf := BitVec.ofNat 20 (bits d.toNat 224 20)
def dCondSrc (d : RawDesc) : Nat := bits d.toNat 256 5
def dCondSel (d : RawDesc) : Nat := bits d.toNat 264 5
def dInvert (d : RawDesc) : Bool := bit d.toNat 271
/-- TSET[v], v from 0 to 3. -/
def dTset (d : RawDesc) (v : Nat) : Nat := bits d.toNat (288 + 8 * v) 6
def dCadN (d : RawDesc) : Nat := bits d.toNat 320 16
def dCadM (d : RawDesc) : Nat := bits d.toNat 336 16
def dKeyId (d : RawDesc) : Nat := bits d.toNat 352 7
def dPeriodSel (d : RawDesc) : Nat := bits d.toNat 360 6
def dKeep (d : RawDesc) : Bool := bit d.toNat 367
def dAltVec (d : RawDesc) : Nat := bits d.toNat 384 32
def dAltLane (d : RawDesc) : Nat := bits d.toNat 416 32
/-- CHECK (R68). -/
def dCheck (d : RawDesc) : Nat := bits d.toNat 480 32
/-- Entry index of a shelfmark (R65). -/
def entryOf (sh : Shelf) : Nat := sh.toNat % 16384

/-! Checksums. -/

/-- One step of a reflected CRC register. -/
def crcShift (poly c : Nat) : Nat := if c % 2 = 1 then (c / 2) ^^^ poly else c / 2

/-- `n` steps of a reflected CRC register. -/
def crcSteps (poly : Nat) : Nat → Nat → Nat
  | 0, c => c
  | n + 1, c => crcSteps poly n (crcShift poly c)

/-- CRC-32C (R68): Castagnoli, reflected, initial value and final exclusive-or all ones. -/
def crc32c (bs : List Byte) : Nat :=
  bs.foldl (fun c b => crcSteps 0x82F63B78 8 (c ^^^ b.toNat)) 0xFFFFFFFF ^^^ 0xFFFFFFFF

/-- CHECK of a descriptor passes (R68). -/
def dCheckOk (d : RawDesc) : Bool := crc32c (bytesOf d.toNat 60) = dCheck d

/-! Lengths and placement. -/

/-- Output vectors of a play (R74). -/
def dOut (d : RawDesc) : Nat :=
  if dCadEn d then (if dCadM d = 0 then 0 else (dVecLen d * dCadN d + dCadM d - 1) / dCadM d) else dVecLen d

/-- Input vector that output vector `k` takes (R163). -/
def dInput (d : RawDesc) (k : Nat) : Nat := if dCadEn d then k * dCadM d / dCadN d else k

/-- Output vector `k` repeats the input vector before it (R163). -/
def dRepeat (d : RawDesc) (k : Nat) : Bool := dCadEn d && decide (1 ≤ k) && decide (dInput d k = dInput d (k - 1))

/-- Slices of 16 vectors of the segment. -/
def dSlices (d : RawDesc) : Nat := dVecLen d / 16

/-- Slices that its head takes (R95): those of its first 1,024 output vectors, or of all of them. -/
def dHead (d : RawDesc) : Nat := min (dSlices d) (dInput d (min 1024 (dOut d) - 1) / 16 + 1)

/-- Bytes a slice of the segment takes in the Sluice (R61, R62, R108). -/
def dSliceBytes (d : RawDesc) : Nat := (if dLaneEn d then 12 else 8) * (if dKind d = 7 then 2 else 1)

/-- Byte ranges, from the start of the vector area, of a resident segment's vector words and lane units (R64). -/
def dRanges (d : RawDesc) : List (Nat × Nat) :=
  if dStream d then []
  else
    let n := dSlices d
    let one := fun (v l : Nat) => (8 * v, 8 * (v + n)) :: (if dLaneEn d then [(4 * l, 4 * (l + n))] else [])
    one (dVecBase d) (dLaneBase d) ++ (if dKind d = 7 then one (dAltVec d) (dAltLane d) else [])

/-- Two half-open ranges share a byte. -/
def overlap (a b : Nat × Nat) : Bool := decide (a.1 < b.2) && decide (b.1 < a.2)

/-! Timing values of a window: page 3 holds the period table, page 4 the time-sets (R150, R153). -/

/-- A reading of the period table and time-sets: page, offset, value. -/
abbrev TimingView := Nat → Nat → Nat

/-- The active values (R164). -/
def State.activeView (s : State) (w : Nat) : TimingView := fun q off =>
  (Tab.get (regReset (pageAddr (winPage w q) off)) (s.tm w).active (q * 0x1000 + off)).toNat

/-- The values of a pending set (R164). -/
def pendView (t : Tab Word) : TimingView := fun q off =>
  (Tab.get (regReset (pageAddr (winPage 0 q) off)) t (q * 0x1000 + off)).toNat

/-- The shadow values of a window that differ from reset (R164). -/
def State.shadows (s : State) (w : Nat) : Tab Word :=
  (s.regs.filter fun e => decide (e.1 / 0x1000 = winPage w 4) ||
      (decide (e.1 / 0x1000 = winPage w 3) && decide (0x400 ≤ e.1 % 0x1000))).map fun e => (e.1 % 0x10000, e.2)

def perEn (T : TimingView) (e : Nat) : Bool := bit (T 3 (0x400 + 0x20 * e)) 63
def perStart (T : TimingView) (e : Nat) : Nat := bits (T 3 (0x400 + 0x20 * e)) 0 41
def perEnd (T : TimingView) (e : Nat) : Nat := bits (T 3 (0x408 + 0x20 * e)) 0 41
def perStep (T : TimingView) (e : Nat) : Nat := bits (T 3 (0x410 + 0x20 * e)) 0 32
def perSpacing (T : TimingView) (e : Nat) : Nat := bits (T 3 (0x410 + 0x20 * e)) 32 16

/-- Period of the `n`-th vector under entry `e` (R150). -/
def periodOf (T : TimingView) (e n : Nat) : Nat :=
  let a := perStart T e
  let b := perEnd T e
  let moved := n / (perSpacing T e + 1) * perStep T e
  if perStep T e = 0 || a = b then a else if b < a then max b (a - moved) else min b (a + moved)

/-- The lowest period that an entry reaches (R150, R152): START where STEP = 0 holds it there. -/
def perLow (T : TimingView) (e : Nat) : Nat := if perStep T e = 0 then perStart T e else min (perStart T e) (perEnd T e)

/-- FORMAT of a time-set: 0 NR, 1 RZ, 2 RO, 3 SBC, 4 CLK. -/
def tsFormat (T : TimingView) (t : Nat) : Nat := bits (T 4 (0x040 + 0x38 * t)) 0 3

/-- Edge `j` of a time-set as its register: 0 T_DON, 1 T_D1, 2 T_D2, 3 T_DOFF, 4 T_SO, 5 T_SC. -/
def tsEdge (T : TimingView) (t j : Nat) : Nat := T 4 (0x048 + 0x38 * t + 8 * j)

/-- Offset of an edge register for a period (R153). -/
def edgeRaw (r p : Nat) : Nat := if bit r 63 then bits r 32 2 * p + bits r 0 32 * p / 2 ^ 32 else bits r 0 43

/-- The edge is placed at the last tq of the fourth period (R155). -/
def edgeClips (r p : Nat) : Bool := !bit r 63 && decide (4 * p ≤ bits r 0 43)

/-- Offset of an edge after R155. -/
def edgeOffset (r p : Nat) : Nat := if edgeClips r p then 4 * p - 1 else edgeRaw r p

/-- Two edges stand in the same mode and in order (R154). -/
def pairOk (a b : Nat) : Bool := decide (bit a 63 = bit b 63) && decide (bits a 0 43 ≤ bits b 0 43)

/-! Limits of a period. -/

/-- Grade and format limit (R3); CLK counts as NR (R152). -/
def formatLimit (grade fmt : Nat) : Nat :=
  if fmt = 0 || fmt = 4 then (if grade = 1 then 205 else 128) else (if grade = 1 then 410 else 256)

/-- Spare-bus limit (R3, R194). -/
def spareLimit (grade : Nat) : Nat := if grade = 1 then 205 else 160

/-- The window's pin is served through the spare bus (R194). -/
def State.onSpare (s : State) (w : Nat) : Bool :=
  decide (w < 128) && (match (s.clu (cluOf w)).swapped with | some p => decide (p.toNat = w % 16) | none => false)

/-- Swing of a window's drive levels, in codes (R177). -/
def swingOf (lvl : Nat) : Nat := bits lvl 0 16 - bits lvl 16 16

/-- The limit for the periods a segment can reach (R152, R177, R194), for a drive-level register value. -/
def State.segLimit (s : State) (w : Nat) (T : TimingView) (lvl : Nat) (d : RawDesc) : Nat :=
  let g := s.dev.grade.toNat
  let sets := if dLaneEn d then [dTset d 0, dTset d 1, dTset d 2, dTset d 3] else [dTset d 0]
  let l1 := sets.foldl (fun m t => max m (formatLimit g (tsFormat T t))) 0
  let l2 := if s.onSpare w then max l1 (spareLimit g) else l1
  if 6553 < swingOf lvl then max l2 640 else l2

end Sys2Proof.Machine
end

