-- ==== Sys2Proof/Machine/Catalogue.lean ====
section
/-!
DEFINITION. Sys2Proof/Machine/Catalogue.lean: checking a program: the rules of one descriptor (R63 to R72, R74, R76, R78,
R79, R86), the arm check (R82), the check at a fetch (R83), the period trace (R415), the intake demand (R136).
-/

namespace Sys2Proof.Machine

/-- Entry `e` of the Catalogue of window `w`'s pin (R67, R87). -/
def State.desc (s : State) (w e : Nat) : RawDesc :=
  BitVec.ofNat 512 (Memory.num s.stackMem (catStore w + 64 * e) 64)

/-- Reserved bits and fields that the kind and flags do not use are zero (R71). -/
def unusedZero (d : RawDesc) : Bool :=
  let n := d.toNat
  bits n 4 4 = 0 && bits n 15 1 = 0 && bits n 30 2 = 0 && bits n 52 12 = 0 && bits n 212 12 = 0 && bits n 244 12 = 0 &&
  bits n 261 3 = 0 && bits n 269 2 = 0 && bits n 272 16 = 0 && bits n 294 2 = 0 && bits n 302 2 = 0 && bits n 310 2 = 0 &&
  bits n 318 2 = 0 && bits n 359 1 = 0 && bits n 366 1 = 0 && bits n 368 16 = 0 &&
  (dLaneEn d || (dTset d 1 = 0 && dTset d 2 = 0 && dTset d 3 = 0 && dLaneBase d = 0 && dAltLane d = 0)) &&
  (dCadEn d || (dCadN d = 0 && dCadM d = 0 && !dCadMask d)) &&
  (!dKeep d || dPeriodSel d = 0) &&
  (!dStream d || (dVecBase d = 0 && dLaneBase d = 0)) &&
  (dKind d = 7 || (dAltVec d = 0 && dAltLane d = 0))

/-- Lengths and ranges (R63, R64, R74). DESIGN CHOICE (log 111): of a cadence segment both VEC_LEN (R63) and L_out (R74) must be a
multiple of 16 and at least 64; the 16,384 of a HOLD, which the holding area sets (R80), is asked of VEC_LEN alone. -/
def lengthOk (d : RawDesc) : Bool :=
  decide (dVecLen d % 16 = 0) && decide (64 ≤ dVecLen d) &&
  (!dCadEn d || (decide (1 ≤ dCadN d) && decide (1 ≤ dCadM d) && decide (64 ≤ dOut d) && decide (dOut d % 16 = 0))) &&
  (decide (dKind d ≠ 9) || decide (dVecLen d ≤ 16384)) &&
  (dRanges d).all fun r => decide (r.2 ≤ 0x18000000)

/-- Greatest SEL of a condition source (R72). -/
def selMax : Nat → Nat
  | 2 => 7 | 3 => 7 | 4 => 3 | 5 => 15 | 6 => 7 | _ => 0

/-- COND is legal for the kind (R70, R72). -/
def condOk (d : RawDesc) : Bool :=
  let k := dKind d
  if k = 2 || k = 3 || k = 7 then
    (if k = 2 then decide (dCondSrc d ≤ 7) else if k = 3 then decide (dCondSrc d ≤ 6) else decide (dCondSrc d = 5)) &&
      decide (dCondSel d ≤ selMax (dCondSrc d))
  else dCondSrc d = 0 && dCondSel d = 0 && !dInvert d

/-- LOOP, NEXT and ALT are legal for the kind (R70). -/
def fieldsOk (d : RawDesc) : Bool :=
  let k := dKind d
  let next := dNext d = nullShelf
  let alt := dAlt d = nullShelf
  match k with
  | 1 => 1 ≤ dLoop d && !next && alt
  | 2 => 1 ≤ dLoop d && !next && !alt
  | 3 => !next && (if dLoop d = 0 then alt else !alt)
  | 4 => !next && (if dLoop d = 0 then alt else !alt)
  | 5 => 1 ≤ dLoop d && !next && !alt
  | 6 => 1 ≤ dLoop d && next && alt
  | 7 => 1 ≤ dLoop d && !next && alt
  | 8 => dLoop d = 1 && next && alt
  | 9 => dLoop d = 0 && next && alt
  | _ => false

/-- STREAM restrictions on the descriptor itself (R78); UNDERRUN_POLICY 0b11 is reserved (R68). -/
def streamOk (d : RawDesc) : Bool :=
  decide (dPolicy d ≠ 3) && (!dStream d || (dKind d = 1 && dLoop d = 1 && (dPolicy d = 0 || dPolicy d = 2)))

/-- A descriptor read at entry `e` meets every rule that concerns itself alone, but for R86 (R82, R83); `T` is the period
table whose entries must be enabled. -/
def descOk (T : TimingView) (e : Nat) (d : RawDesc) : Bool :=
  dCheckOk d && 1 ≤ dKind d && dKind d ≤ 9 && entryOf (dShelf d) = e && decide (dShelf d ≠ nullShelf) &&
  lengthOk d && unusedZero d && condOk d && fieldsOk d && streamOk d && dKeyId d ≤ 64 &&
  ((dKind d = 9) = (e = 0)) && (decide (e ≠ 1) || dKind d = 8) && (decide (dKind d ≠ 9) || dKeep d) &&
  (dKeep d || perEn T (dPeriodSel d))

/-- The streaming ring of a window as bytes of the vector area (SLU.STREAM_RING, R86). -/
def State.ringRange (s : State) (w : Nat) : Nat × Nat :=
  let r := s.wreg w 2 0x048
  (bits r 0 9 * 0x100000, bits r 0 9 * 0x100000 + 2 ^ bits r 12 3 * 0x100000)

/-- A resident segment overlaps the streaming ring (R86). -/
def State.overRing (s : State) (w : Nat) (d : RawDesc) : Bool := (dRanges d).any fun r => overlap r (s.ringRange w)

/-- The references of this descriptor can be followed: CHECK passes and KIND is not reserved (R82). -/
def trusted (d : RawDesc) : Bool := dCheckOk d && 1 ≤ dKind d && dKind d ≤ 9

/-- The references a descriptor names: NEXT and ALT, nulls left out. -/
def refsOf (d : RawDesc) : List Shelf := [dNext d, dAlt d].filter fun r => decide (r ≠ nullShelf)

/-- A reference reaches the descriptor at its entry (R82). -/
def reaches (rd : Nat → RawDesc) (r : Shelf) : Bool :=
  let d := rd (entryOf r)
  !dCheckOk d || decide (dShelf d = r)

/-- Entries reached from those in the work list, each with its descriptor, checked once (R82). -/
def walk (rd : Nat → RawDesc) : Nat → List Nat → List (Nat × RawDesc) → List (Nat × RawDesc)
  | 0, _, done => done
  | _ + 1, [], done => done
  | fuel + 1, e :: rest, done =>
    if done.any (fun x => x.1 = e) then walk rd fuel rest done
    else
      let d := rd e
      let new := if trusted d then
          ((refsOf d).filter fun r => decide (entryOf r ≠ 0) && reaches rd r).map entryOf
        else []
      walk rd fuel (rest ++ new) (done ++ [(e, d)])

/-- More work than any Catalogue gives the walk. -/
def walkFuel : Nat := 65536

/-- The entry-point fault of R82 and R102. -/
def entryFault (rd : Nat → RawDesc) (T : TimingView) (ep : Shelf) : Bool :=
  decide (ep = nullShelf) || decide (entryOf ep = 0) || !reaches rd ep ||
    (let d := rd (entryOf ep); dCheckOk d && dKeep d && !perEn T 0)

/-- The entries an arm check examines: 0, 1, the entry point and all it reaches (R82). -/
def armWalk (rd : Nat → RawDesc) (T : TimingView) (ep : Shelf) : List (Nat × RawDesc) :=
  walk rd walkFuel (if entryFault rd T ep then [0, 1] else [0, 1, entryOf ep]) []

/-- A reference of `d` is at fault: unmatched or naming entry 0 (R82). -/
def badRef (rd : Nat → RawDesc) (d : RawDesc) : Bool :=
  (refsOf d).any fun r => decide (entryOf r = 0) || !reaches rd r

/-- A STREAM descriptor is reached otherwise than as the entry point or as the NEXT of a PLAY (R78). -/
def streamMisreached (nodes : List (Nat × RawDesc)) (e : Nat) (d : RawDesc) : Bool :=
  dStream d && nodes.any fun x => trusted x.2 &&
    ((decide (dNext x.2 = dShelf d) && decide (entryOf (dShelf d) = e) && dKind x.2 ≠ 1) || decide (dAlt x.2 = dShelf d))

/-- A checked descriptor is malformed (R82). -/
def State.malformed (s : State) (w : Nat) (rd : Nat → RawDesc) (T : TimingView) (nodes : List (Nat × RawDesc))
    (x : Nat × RawDesc) : Bool :=
  !descOk T x.1 x.2 || badRef rd x.2 || streamMisreached nodes x.1 x.2 ||
    (nodes.any (fun y => trusted y.2 && dStream y.2) && s.overRing w x.2)

/-- The element with the lowest entry index. -/
def lowestOf : List (Nat × RawDesc) → Option (Nat × RawDesc)
  | [] => none
  | x :: r => match lowestOf r with
    | none => some x
    | some y => if y.1 < x.1 then some y else some x

/-- The shelfmark that reports a malformed descriptor (R82). -/
def reportShelf (ep : Shelf) (nodes : List (Nat × RawDesc)) (x : Nat × RawDesc) : Shelf :=
  if dCheckOk x.2 && entryOf (dShelf x.2) = x.1 then dShelf x.2
  else if entryOf ep = x.1 then ep
  else
    let here := fun (d : RawDesc) => (refsOf d).filter fun r => decide (entryOf r = x.1) && (!dCheckOk x.2 || decide (dShelf x.2 = r))
    match lowestOf (nodes.filter fun y => trusted y.2 && !(here y.2).isEmpty) with
    | some y => (here y.2).headD nullShelf
    | none => BitVec.ofNat 20 x.1

/-! The period trace (R415): for each entry, the period-table entries that can be in force, as a mask of 64 bits. -/

/-- Entries entered when a segment ends: NEXT and ALT, or the return shelfmarks `rets` of the CALLs (R69, R415). -/
def traceNext (rets : List Nat) (d : RawDesc) : List Nat :=
  if dKind d = 6 then rets
  else if dKind d = 5 then [entryOf (dNext d)]
  else (refsOf d).map entryOf

/-- Period-table entries in force while an entry plays, given those in force when it is entered. -/
def traceOut (ins : Tab Nat) (x : Nat × RawDesc) : Nat :=
  if dKeep x.2 then Tab.get 0 ins x.1 else 2 ^ dPeriodSel x.2

/-- One pass of the trace over all entries. -/
def tracePass (nodes : List (Nat × RawDesc)) (rets : List Nat) (ins : Tab Nat) : Tab Nat :=
  nodes.foldl (fun f x =>
    let o := traceOut f x
    (traceNext rets x.2).foldl (fun f t => Tab.set 0 f t (Tab.get 0 f t ||| o)) f) ins

/-- Passes until nothing changes. -/
def traceRun (nodes : List (Nat × RawDesc)) (rets : List Nat) : Nat → Tab Nat → Tab Nat
  | 0, ins => ins
  | fuel + 1, ins =>
    let ins' := tracePass nodes rets ins
    if ins' = ins then ins else traceRun nodes rets fuel ins'

/-- Return shelfmarks of the CALLs among the entries. -/
def callRets (nodes : List (Nat × RawDesc)) : List Nat :=
  (nodes.filter fun x => dKind x.2 = 5 && decide (dAlt x.2 ≠ nullShelf)).map fun x => entryOf (dAlt x.2)

/-- The traced mask of each entry; entries 0 and 1 with PERIOD_KEEP take every entry in force anywhere (R415). -/
def traceOf (nodes : List (Nat × RawDesc)) (rets : List Nat) (start init : Nat) : List (Nat × RawDesc × Nat) :=
  let good := nodes.filter fun x => trusted x.2
  let ins := traceRun good rets walkFuel [(start, init)]
  let outs := good.map fun x => (x.1, x.2, traceOut ins x)
  let all := outs.foldl (fun m x => m ||| x.2.2) init
  outs.map fun x => if x.1 ≤ 1 && dKeep x.2.1 then (x.1, x.2.1, all) else x

/-- The bits of a mask, rising. -/
def maskBits (m : Nat) : List Nat := (List.range 64).filter fun i => bit m i

/-- The period entry of R102 that a burst starts with. -/
def startPeriod (d : RawDesc) : Nat := if dKeep d then 0 else dPeriodSel d

/-- Faults of the period limits: the segment's entry and shelfmark, and the period-table entry (R4, R152, R177, R194). -/
def State.limitFaults (s : State) (w : Nat) (T : TimingView) (lvl : Nat) (traced : List (Nat × RawDesc × Nat)) :
    List (Nat × Shelf × Nat) :=
  traced.flatMap fun x =>
    let lim := s.segLimit w T lvl x.2.1
    ((maskBits x.2.2).filter fun e => decide (perLow T e < lim)).map fun e => (x.1, dShelf x.2.1, e)

/-- The limit fault of the segment with the lowest entry index (R50). -/
def firstFault : List (Nat × Shelf × Nat) → Option (Nat × Shelf × Nat)
  | [] => none
  | x :: r => match firstFault r with
    | none => some x
    | some y => if y.1 < x.1 then some y else some x

/-- The lowest period-table entry at fault (R167). -/
def lowestPeriod : List (Nat × Shelf × Nat) → Option Nat
  | [] => none
  | x :: r => match lowestPeriod r with
    | none => some x.2.2
    | some y => some (min y x.2.2)

/-- Intake demand of a streamed segment in units of 0.01 GB/s, for its shortest period (R136). -/
def segDemand (d : RawDesc) (pmin : Nat) : Nat :=
  let m := if dCadEn d then dCadM d else 1
  let n := if dCadEn d then dCadN d else 1
  let b := if dLaneEn d then 3 else 2
  let den := 4 * pmin * n
  if den = 0 then 0 else (100 * 1024 * m * b + den - 1) / den

/-- The shortest period under the entries of a mask. -/
def shortest (T : TimingView) (m : Nat) : Nat := ((maskBits m).map (perLow T)).foldl min (2 ^ 41)

/-- What an arm check finds (R50, R82, R136): a program fault with its code and shelfmark, or the burst's entries, keys,
period entries, demand, and whether its first segment is streamed. -/
structure ArmCheck where
  /-- SEQ.PERR code and shelfmark of the program fault; none when the program is sound. -/
  fault : Option (Nat × Shelf)
  ents : List Nat
  keys : List Nat
  trace : List Nat
  demand : Nat
  streamFirst : Bool
deriving DecidableEq, Repr

/-- A descriptor as read with an uncorrectable error: its CHECK fails (R272). -/
def spoilDesc (d : RawDesc) : RawDesc := if dCheckOk d then d ^^^ 1 else d

/-- The arm check of a window's burst (R50, R82, R415); entries of `bad` cannot be corrected (R272). -/
def State.armCheck (s : State) (w : Nat) (bad : List Nat) : ArmCheck :=
  let rd := fun e => if bad.contains e then spoilDesc (s.desc w e) else s.desc w e
  let T := s.activeView w
  let lvl := s.wreg w 5 0x040
  let ep : Shelf := BitVec.ofNat 20 (s.wreg w 1 0x040)
  let nodes := armWalk rd T ep
  let wrong := nodes.filter (s.malformed w rd T nodes)
  let start := entryOf ep
  let traced := traceOf nodes (callRets nodes) start (2 ^ startPeriod (rd start))
  let all := traced.foldl (fun m x => m ||| x.2.2) 0
  let streams := traced.filter fun x => dStream x.2.1
  { fault :=
      if entryFault rd T ep then some (1, ep)
      else match lowestOf wrong with
        | some x => some (1, reportShelf ep nodes x)
        | none => match firstFault (s.limitFaults w T lvl traced) with
          | some f => some (8, f.2.1)
          | none => none
    ents := nodes.map (·.1)
    keys := ((traced.map fun x => dKeyId x.2.1).filter fun k => decide (k ≠ 0)).eraseDups
    trace := maskBits all
    demand := streams.foldl (fun m x => max m (segDemand x.2.1 (shortest T x.2.2))) 0
    streamFirst := dStream (rd start) }

/-- The check of a descriptor at its fetch (R83): the reference must be satisfied (R65) and name no HOLD, and no NEXT or ALT of its own may name
entry 0 (R79); the ring overlap of R86 counts when the burst streams. -/
def State.fetchOk (s : State) (w : Nat) (r : Shelf) : Bool :=
  let e := entryOf r
  let d := s.desc w e
  decide (r ≠ nullShelf) && decide (e ≠ 0) && decide (dShelf d = r) && descOk (s.activeView w) e d &&
    (refsOf d).all (fun x => decide (entryOf x ≠ 0)) &&
    (decide ((s.sl w).demand = 0) || !s.overRing w d)

/-- A fetched descriptor, or the shelfmark of one held as failed (R83). A STREAM segment that is reached otherwise than as the NEXT of a
PLAY fails (R78). -/
def State.fetchDesc (s : State) (w : Nat) (r : Shelf) (clean nextOfPlay : Bool) : Fetched :=
  let d := s.desc w (entryOf r)
  if clean && s.fetchOk w r && (nextOfPlay || !dStream d) then .good d else .failed r

/-- Descriptors of the running burst, as they now stand (R110). -/
def State.burstNodes (s : State) (w : Nat) : List (Nat × RawDesc) := (s.sq w).ents.map fun e => (e, s.desc w e)

/-- The limit faults of a jump target's trace under timing values `T` (R98, R415). -/
def State.slotFaults (s : State) (w : Nat) (T : TimingView) (lvl : Nat) (target : Nat) : List (Nat × Shelf × Nat) :=
  let rd := s.desc w
  let burst := s.burstNodes w
  let rets := callRets burst
  let nodes := walk rd walkFuel (target :: 0 :: 1 :: rets) []
  let init := (s.sq w).trace.foldl (fun m e => m ||| 2 ^ e) 0
  s.limitFaults w T lvl (traceOf nodes (callRets nodes ++ rets) target init)

/-- A jump-target slot is rejected: its shelfmark is null, names entry 0 or a STREAM descriptor, or its trace breaks a
limit (R98). -/
def State.slotRejected (s : State) (w : Nat) (r : Shelf) : Bool :=
  decide (r = nullShelf) || decide (entryOf r = 0) ||
    (let d := s.desc w (entryOf r)
     (decide (dShelf d = r) && dStream d) ||
       (decide (dShelf d = r) && dCheckOk d && !(s.slotFaults w (s.activeView w) (s.wreg w 5 0x040) (entryOf r)).isEmpty))

/-- Limit faults of the burst loaded in a window, traced from its entry point (the third entry the arm check examined,
or entry 1), its ready jump targets included, under timing values and a drive-level
value (R167, R177, R415). -/
def State.burstFaults (s : State) (w : Nat) (T : TimingView) (lvl : Nat) : List (Nat × Shelf × Nat) :=
  let nodes := s.burstNodes w
  let start := (s.sq w).ents.getD 2 1
  let init := 2 ^ startPeriod (s.desc w start)
  s.limitFaults w T lvl (traceOf nodes (callRets nodes) start init) ++
    (List.range 4).flatMap fun k =>
      if (s.sq w).jready.getLsbD k then
        s.slotFaults w T lvl (entryOf (BitVec.ofNat 20 (s.wreg w 1 (0x060 + 4 * k))))
      else []

end Sys2Proof.Machine
end

