-- ==== Sys2Proof/Machine/Sluice.lean ====
section
/-!
DEFINITION. Sys2Proof/Machine/Sluice.lean: the Sluice of a window: heads and the current path (R95, R96, R117 to R119), reading
vectors from the stack (R61, R62, R272), program errors (SEQ.PERR), flushes (R115, R133).
-/

namespace Sys2Proof.Machine

/-! Tables keyed by role. -/

/-- What a role holds, if anything. -/
def roleGet {α : Type} (r : Role) : List (Role × α) → Option α
  | [] => none
  | (r', a) :: rest => if r' = r then some a else roleGet r rest

/-- The table without a role. -/
def roleDel {α : Type} (r : Role) (l : List (Role × α)) : List (Role × α) := l.filter fun x => decide (x.1 ≠ r)

/-- The table with a role set. -/
def roleSet {α : Type} (r : Role) (a : α) (l : List (Role × α)) : List (Role × α) := (r, a) :: roleDel r l

/-- The buffer of a role; empty when the Sluice holds none. -/
def SluSt.buf (sl : SluSt) (r : Role) : Buf := (roleGet r sl.bufs).getD {}

/-- The segment that a role's data belongs to (R95). -/
def SeqSt.segOf (sq : SeqSt) (r : Role) : Option RawDesc :=
  match r with
  | .path => some sq.cur
  | .rep => some sq.cur
  | .landing => some sq.land1
  | r => match roleGet r sq.fetched with
    | some (.good d) => some d
    | _ => none

/-- Heads are held for the repeats of WAIT and MATCH plays and of looping segments longer than 1,024 vectors (R95). -/
def repeatHead (d : RawDesc) : Bool := dKind d = 3 || dKind d = 4 || (decide (1 < dLoop d) && decide (1024 < dOut d))

/-- Plays of the current segment that the path may hold, the one in play included: the plays of a looping segment of at most 1,024
vectors follow one another in the Sluice as far ahead as its space allows (R95, R96, R119). -/
def SeqSt.playsAhead (q : SeqSt) : Nat := if repeatHead q.cur then 1 else dLoop q.cur + 1 - max 1 q.play

/-- Sluice size in bytes (R117). -/
def State.sluSize (s : State) (w : Nat) : Nat := 8192 * 2 ^ bits (s.wreg w 2 0x040) 0 3

/-- Bytes of the heads held (R95, SLU.HEAD_STAT). -/
def State.headBytes (s : State) (w : Nat) : Nat :=
  ((s.sl w).bufs.filter fun x => decide (x.1 ≠ .path)).foldl (fun n x =>
    n + x.2.slices.length * (match (s.sq w).segOf x.1 with | some d => dSliceBytes d | none => 0)) 0

/-- Heads held (SLU.HEAD_STAT). -/
def State.headCount (s : State) (w : Nat) : Nat :=
  ((s.sl w).bufs.filter fun x => decide (x.1 ≠ .path) && !x.2.slices.isEmpty).length

/-- Index of the slice that the vector due next takes its data from. -/
def SeqSt.dueSlice (sq : SeqSt) : Nat := dInput sq.cur sq.ofs / 16

/-- Number of the slice after the last that the current path will play: once a decision leaves the segment, the end of the play (R89, R118). -/
def SeqSt.pathEnd (sq : SeqSt) (held : Nat) : Nat :=
  match sq.decided with
  | none => held
  | some .again => held
  | some _ => min held ((dInput sq.cur (sq.stopMark.getD (dOut sq.cur) - 1)) / 16 + 1)

/-- Slices queued for play on the current path, from the due vector on (R118). -/
def State.pathLeft (s : State) (w : Nat) : Nat :=
  let b := (s.sl w).buf .path
  (s.sq w).pathEnd (b.lo + b.slices.length) - max b.lo (s.sq w).dueSlice

/-- The role of the one program successor of a segment: what a RETURN returns to, or NEXT (R91). -/
def linkRole (d : RawDesc) : Role := if dKind d = 6 then .ret else .next

/-- Bytes of a slice of the one program successor. -/
def State.linkBytes (s : State) (w : Nat) : Nat :=
  match (s.sq w).segOf (linkRole (s.sq w).cur) with | some d => dSliceBytes d | none => 0

/-- Bytes fetched ahead beyond the head of the one program successor (R96). -/
def State.chainBytes (s : State) (w : Nat) : Nat :=
  (s.sl w).chain.foldl (fun n x => n + x.2.slices.length * dSliceBytes x.1) ((s.sl w).more.length * s.linkBytes w)

/-- Bytes the path occupies, with what is fetched ahead on it. -/
def State.pathBytes (s : State) (w : Nat) : Nat := ((s.sl w).buf .path).slices.length * dSliceBytes (s.sq w).cur + s.chainBytes w

/-- Space kept for the eight heads of R96 (R118). -/
def headReserve : Nat := 6144

/-- Bytes that the current path may still take: heads keep their room (R96, R118). What left the path at this instant has not made room yet
(R113). -/
def State.pathRoom (s : State) (w : Nat) : Nat := s.sluSize w - headReserve - (s.pathBytes w + movedNow (s.sl w).playNow s.now)

/-- Slices of `size` bytes that the path takes in its room: the last may begin in it and end past it, so that FILLED's highest HI can be reached
(R118). -/
def roomFor (room size : Nat) : Nat := (room + size - 1) / size

/-- Bytes that heads may still take: their 6 KiB whatever the path holds, and what room there is besides (R96, R118). -/
def State.headRoom (s : State) (w : Nat) : Nat :=
  max (headReserve - s.headBytes w) (s.sluSize w - (s.pathBytes w + movedNow (s.sl w).playNow s.now + s.headBytes w))

/-- The head that the decision has chosen, by role (R90, R118). -/
def SeqSt.chosenRole (q : SeqSt) : Option Role :=
  match q.decided with
  | some .next => some .next
  | some .alt => some .alt
  | some .ret => some .ret
  | some (.jump k) => some (.jump k)
  | some (.kept _) => some .ret
  | some .stopLand => some .landing
  | some (.errLand _ _) => some .landing
  | some .again => if repeatHead q.cur then some .rep else none
  | _ => none

/-- Bytes of the head that the decision has chosen (R118). -/
def State.chosenBytes (s : State) (w : Nat) : Nat :=
  match (s.sq w).chosenRole with
  | none => 0
  | some r => ((s.sl w).buf r).slices.length * (match (s.sq w).segOf r with | some d => dSliceBytes d | none => 0)

/-- Sluice level in 64-byte slots, rounded down: the vectors queued on the current path, a head once it is chosen among them (R118). -/
def State.sluLevel (s : State) (w : Nat) : Nat := (s.pathLeft w * dSliceBytes (s.sq w).cur + s.chosenBytes w) / 64

/-- FILLED after the level has changed (R114, R118). -/
def State.fillIndicate (s : State) (w : Nat) : State :=
  let cfg := s.wreg w 2 0x040
  let l := s.sluLevel w
  s.modSl w fun x =>
    { x with filled := if bits cfg 8 12 ≤ l then true else if l ≤ bits cfg 20 12 then false else x.filled }

/-- The last vector of the current play is in the Sluice (R119). -/
def State.playInSluice (s : State) (w : Nat) : Bool :=
  let b := (s.sl w).buf .path
  let d := (s.sq w).cur
  decide (dInput d (dOut d - 1) / 16 < b.lo + b.slices.length) && decide (b.lo ≤ (s.sq w).dueSlice)

/-- The Sluice is supplied (R119). -/
def State.supplied (s : State) (w : Nat) : Bool := (s.sl w).filled || s.playInSluice w

/-- One slice of a resident segment, read from the stack; an uncorrectable vector word plays as DK, an uncorrectable lane
unit reads 0 (R61, R62, R272). -/
def State.readSlice (s : State) (w : Nat) (d : RawDesc) (i : Nat) (bad laneBad : Bool) : Slice :=
  let base := vecArea w
  let word := fun (b : Nat) => BitVec.ofNat 64 (if bad then 0x3333333333333333 else Memory.num s.stackMem (base + 8 * (b + i)) 8)
  let lane := fun (b : Nat) => BitVec.ofNat 32 (if laneBad || !dLaneEn d then 0 else Memory.num s.stackMem (base + 4 * (b + i)) 4)
  { codes := word (dVecBase d), lane := lane (dLaneBase d),
    altCodes := if dKind d = 7 then word (dAltVec d) else 0, altLane := if dKind d = 7 then lane (dAltLane d) else 0 }

/-- The slice with its uncorrectable words replaced, those of the alternate stream alike (R272). -/
def Slice.spoil (x : Slice) (bad laneBad : Bool) : Slice :=
  { codes := if bad then 0x3333333333333333 else x.codes, lane := if laneBad then 0 else x.lane,
    altCodes := if bad then 0x3333333333333333 else x.altCodes, altLane := if laneBad then 0 else x.altLane }

/-- `n` further slices of a role's segment enter the Sluice, from the stack or, for a streamed segment, from the streaming
ring as far as its next slices carry the segment's shelfmark (R96, R117, R124); what was committed at this instant is not seen yet (R113). Bit i of
`bad` and `laneBad` marks an uncorrectable word of the i-th slice. The path leaves the heads their room (R96). While the cluster's bank is not ON its
Sluices hold nothing (R276); while the stack is not ACTIVE the read waits (R388). -/
def State.pushSlices (s : State) (w : Nat) (r : Role) (n : Nat) (bad laneBad : Word) : State :=
  match (if s.bankOn (cluOf w) && s.stackOn (w / 64 % 2) then (s.sq w).segOf r else none) with
  | none => s.touchBank (cluOf w)
  | some d =>
    let b := (s.sl w).buf r
    let at_ := b.lo + b.slices.length
    let want := (if r = .path then dSlices d * (s.sq w).playsAhead else dHead d) - at_
    let k := min n (min want (if r = .path then roomFor (s.pathRoom w) (dSliceBytes d) else s.headRoom w / dSliceBytes d))
    let note := fun (x : SluSt) (n : Nat) => if r = .path then noteMove x.pushNow s.now n else x.pushNow
    if dStream d then
      let ahead := decide (r ≠ .path) && dStream (s.sq w).cur && decide (((s.sl w).buf .path).lo + ((s.sl w).buf .path).slices.length < dSlices (s.sq w).cur)
      let here := (s.sl w).ring.length - movedNow (s.sl w).ringPush s.now
      let got := if ahead then [] else ((s.sl w).ring.take (min k here)).takeWhile fun x => decide (x.shelf = dShelf d)
      let new := got.zipIdx.map fun x => x.1.slice.spoil (bad.getLsbD x.2) (laneBad.getLsbD x.2)
      s.modSl w fun x => { x with
        bufs := roleSet r { b with slices := b.slices ++ new } x.bufs, ring := x.ring.drop got.length, pushNow := note x got.length
        ringPop := noteMove x.ringPop s.now (got.foldl (fun n x => n + x.size) 0) }
    else
      let new := (List.range k).map fun i => s.readSlice w d ((at_ + i) % dSlices d) (bad.getLsbD i) (laneBad.getLsbD i)
      s.modSl w fun x => { x with bufs := roleSet r { b with slices := b.slices ++ new } x.bufs, pushNow := note x k }

/-- A resident segment whose one program successor can be fetched before it plays: no longer than a head, of a kind that ends in NEXT or in a
return (R91, R96). -/
def shortLink (d : RawDesc) : Bool :=
  (dKind d = 1 || dKind d = 5 || dKind d = 6 || dKind d = 7) && !dStream d && decide (dOut d ≤ 1024)

/-- The head of a segment is whole (R95). -/
def Buf.whole (b : Buf) (d : RawDesc) : Bool := decide (dHead d ≤ b.slices.length)

/-- Slices of a segment's plays beyond its head that may be fetched ahead of it: the later plays of a looping short segment (R96). -/
def laterSlices (d : RawDesc) : Nat := if repeatHead d || dStream d then 0 else dSlices d * (dLoop d - 1)

/-- The program successors fetched along the only path, from the one that follows the current segment on. -/
def State.chainDescs (s : State) (w : Nat) : List RawDesc :=
  match roleGet (linkRole (s.sq w).cur) (s.sq w).fetched with
  | some (.good d) => d :: (s.sl w).chain.map (·.1)
  | _ => []

/-- The call stack after a segment has been left along the only path (R93). -/
def stackAfter (st : List Shelf) (d : RawDesc) : List Shelf :=
  if dKind d = 5 then dAlt d :: st else if dKind d = 6 then st.tail else st

/-- The last segment fetched ahead along the only path, when it is whole with all its plays, and the shelfmark that follows it; none for a RETURN
that finds the stack empty (R91, R93, R96). -/
def State.chainEnd (s : State) (w : Nat) : Option (RawDesc × Shelf) :=
  let q := s.sq w
  let l := s.chainDescs w
  let done := match (s.sl w).chain.getLast? with
    | some x => decide (dHead x.1 + laterSlices x.1 ≤ x.2.slices.length)
    | none => l.all fun d => ((s.sl w).buf (linkRole q.cur)).whole d && decide (laterSlices d ≤ (s.sl w).more.length)
  match l.getLast? with
  | none => none
  | some d =>
    let st := l.dropLast.foldl stackAfter (stackAfter q.stack q.cur)
    if !done || !shortLink d then none
    else if dKind d = 6 then st.head?.map fun sh => (d, sh)
    else if dNext d = nullShelf then none else some (d, dNext d)

/-- `n` further slices are fetched ahead along the only path: later plays of the successor, then of the first segment of the chain that is not
whole. The segment, the slice they start at and their number (R96). -/
def State.pushChain (s : State) (w n : Nat) (bad laneBad : Word) : State × Option (RawDesc × Nat × Nat) :=
  let read := fun (d : RawDesc) (at_ want : Nat) =>
    let k := min n (min want (s.pathRoom w / dSliceBytes d))
    (k, (List.range k).map fun j => s.readSlice w d ((at_ + j) % dSlices d) (bad.getLsbD j) (laneBad.getLsbD j))
  match (s.chainDescs w).head? with
  | none => (s, none)
  | some d0 =>
    let held := (s.sl w).more.length
    if held < laterSlices d0 then
      let r := read d0 held (laterSlices d0 - held)
      (s.modSl w fun y => { y with more := y.more ++ r.2 }, some (d0, held % dSlices d0, r.1))
    else match (s.sl w).chain.findIdx? fun x => decide (x.2.slices.length < dHead x.1 + laterSlices x.1) with
    | none => (s, none)
    | some i =>
      let x := (s.sl w).chain.getD i (0, {})
      let at_ := x.2.slices.length
      let r := read x.1 at_ (dHead x.1 + laterSlices x.1 - at_)
      (s.modSl w fun y => { y with chain := y.chain.set i (x.1, { x.2 with slices := x.2.slices ++ r.2 }) }, some (x.1, at_ % dSlices x.1, r.1))

/-- Streaming-ring level in bytes (R124). -/
def SluSt.ringBytes (sl : SluSt) : Nat := sl.ring.foldl (fun n x => n + x.size) 0

/-- STOCKED after the streaming ring has changed (R114, SLU.STREAM_RING). -/
def State.stockIndicate (s : State) (w : Nat) : State :=
  let r := s.wreg w 2 0x048
  let size := 2 ^ bits r 12 3 * 0x100000
  s.modSl w fun x => { x with stocked := indication x.stocked x.ringBytes size (bits r 16 8) (bits r 24 8) }

/-! Program errors. -/

/-- A program error: SEQ.PERR and PROGRAM_ERROR (SEQ.PERR, R60, R82, R83, R93, R98). -/
def State.perr (s : State) (w code : Nat) (sh : Shelf) (t : Nat) : State :=
  ((s.modPl w fun p => { p with perrCode := code, perrCount := satInc 255 p.perrCount, perrShelf := sh, perrSeq := p.perrSeq + 1 }).bumpSeq
    (winPage w 1)).raiseSeg w 1 2 2 sh t

/-! Flushes (R115, R133). -/

/-- The intake ring is flushed: every descriptor posted is discarded; when an item had begun, what follows it is skipped
until HEAD = 1 (R115, R134). Requests in flight lose their place. A flush while skipping goes on counts a torn item of its own, once it discards
a descriptor. DESIGN CHOICE (log 103): SLU.STAT.CAUSE clears with BROKEN (R133). -/
def State.flushIntake (s : State) (w : Nat) : State :=
  let prod := s.wreg w 2 0x060
  s.modIk w fun k => { k with
    cons := prod, fetch := prod, skipping := k.skipping || k.begun, torn1 := false,
    bufs := [], reqs := k.reqs.map (fun q => { q with dead := true }), bytes := [], pad := 0, expect := 0, segSlices := 0, order := none,
    ahead := [], consNow := (0, 0), prodNow := (0, 0),
    broken := 0, postDue := k.postDue || decide (k.cons ≠ prod) }

/-- The Sluice, the streaming ring and the intake ring are flushed (R133); the intake demand is no longer held (R136).
DEDUCED (log 91): SLU.DEMAND.RATE keeps the figure, since HELD alone says whether it counts. -/
def State.flushStreams (s : State) (w : Nat) : State :=
  ((s.modSl w fun x => { x with
    bufs := [], chain := [], more := [], filled := false, ring := [], ringPush := (0, 0), ringPop := (0, 0), stocked := false, held := false
    streamFirst := false }).flushIntake w)

/-- The program of a window is discarded: no burst is loaded, nothing is pending (R46, R56, R99). Requests on their way stay on it. -/
def State.dropProgram (s : State) (w : Nat) : State :=
  s.modSq w fun q => { q with loaded := false, fetched := [], stack := [], reqs := [], jready := 0, jrej := 0, stop := none,
                              landing := 0, stopMark := none, decided := none, markDue := 0, play := 0, ofs := 0, cur := 0,
                              ents := [], keys := [], trace := [], invalid := none, armHead := {}, copyDue := none }

end Sys2Proof.Machine
end

