-- ==== Sys2Proof/Machine/Drive.lean ====
section
/-!
DEFINITION. Sys2Proof/Machine/Drive.lean: from a vector to the pin: corrections (R156, R168), driver transitions (R157 to
R160), strobes (R162). Times are tq on the epoch:GT scale.
-/

namespace Sys2Proof.Machine

/-- Edge types of the calibration terms: 0 DRV_RISE, 1 DRV_FALL, 2 DRV_Z, 3 STB_H, 4 STB_L (R168). -/
def termOf (terms : BitVec 60) (ty : Nat) : Int := signed 12 (bits terms.toNat (12 * ty) 12)

/-- The drift term applied at true time `now` (R172): it moves to its target by at most 1 tq per 10 µs. -/
def Slot.driftAt (x : Slot) (now : Nat) : Int :=
  let lim : Int := ((now - x.driftT) / 10240000 : Nat)
  max (x.drift - lim) (min (x.drift + lim) x.driftTo)

/-- The correction C of an edge type for the slot that serves a window (R156, R168). The fixture deskew is the one in force since the latest vector
start (TIM.DESKEW). -/
def State.corr (s : State) (w ty : Nat) : Int :=
  let k := s.slot (s.slotOf w)
  let skew := (s.tm w).skew
  termOf k.chTerm ty + termOf k.pathTerm ty + signed 12 (bits skew (if ty ≤ 2 then 0 else 16) 12) + k.driftAt s.now

/-- A corrected instant (R156). -/
def State.instant (s : State) (w ty base : Nat) : Nat := ((base : Int) + s.corr w ty).toNat

/-! The driver's transitions. -/

/-- Order of transitions: instant, then vector, then order within the vector (R159). -/
def edgeBefore (a b : Edge) : Bool :=
  decide (a.at_ < b.at_) || (decide (a.at_ = b.at_) && (decide (a.vec < b.vec) || (decide (a.vec = b.vec) && decide (a.ord < b.ord))))

/-- A transition enters the list in its place. -/
def insertEdge (e : Edge) : List Edge → List Edge
  | [] => [e]
  | x :: r => if edgeBefore e x then e :: x :: r else x :: insertEdge e r

/-- Of transitions on one tq the last stands (R159). -/
def lastStands : List Edge → List Edge
  | [] => []
  | [x] => [x]
  | x :: y :: r => if x.at_ = y.at_ then lastStands (y :: r) else x :: lastStands (y :: r)

/-- One more transition against those produced so far, latest first: a change to the level held is none (R157), one less than
80 tq after the one before it cancels with it (R160). The second list holds the instants of the cancelled pairs. -/
def produce (base : Bool) (acc : List Edge × List Nat) (e : Edge) : List Edge × List Nat :=
  let cur := match acc.1 with
    | [] => base
    | x :: _ => x.val.getD base
  let v := e.val.getD (!cur)
  if v = cur then acc
  else match acc.1 with
    | [] => ([{ e with val := some v }], acc.2)
    | x :: r => if e.at_ < x.at_ + 80 then (r, acc.2 ++ [e.at_]) else ({ e with val := some v } :: x :: r, acc.2)

/-- Produced transitions of one kind before a horizon, oldest first, and the instants of the pairs cancelled (R159, R160). -/
def produced (base : Bool) (horizon : Nat) (l : List Edge) : List Edge × List Nat :=
  let r := (lastStands (l.filter fun e => decide (e.at_ < horizon))).foldl (produce base) ([], [])
  (r.1.reverse, r.2)

/-- Level after transitions that stand. -/
def levelAfter (base : Bool) (l : List Edge) : Bool := l.foldl (fun b e => e.val.getD b) base

/-- Settle the transitions of one kind before a horizon: those past by `now` that no later one can cancel take effect; the level, those left, and
the instants of the pairs cancelled. -/
def settleKind (base : Bool) (now horizon : Nat) (l : List Edge) : Bool × List Edge × List Nat :=
  let r := produced base horizon l
  let final := fun (e : Edge) => decide (e.at_ + 80 ≤ horizon) && decide (e.at_ ≤ now)
  (levelAfter base (r.1.filter final), r.1.filter (fun e => !final e) ++ l.filter (fun e => decide (horizon ≤ e.at_)), r.2)

/-- Settle a window's transitions before a horizon: no transition placed later comes before it. Each cancelled pair is counted and reported at its
instant (R160). -/
def State.settle (s : State) (w horizon : Nat) : State :=
  let k := s.slotOf w
  let x := s.slot k
  let en := settleKind x.drvEn s.t horizon (x.edges.filter (·.enable))
  let lv := settleKind x.drvHigh s.t horizon (x.edges.filter fun e => !e.enable)
  let cut := en.2.2 ++ lv.2.2
  let src := chSrc (s.slotOf w) 3
  let s1 := s.modSlot k fun x => { x with drvEn := en.1, drvHigh := lv.1, edges := en.2.1.foldl (fun l e => insertEdge e l) lv.2.1 }
  if cut.isEmpty then s1
  else cut.foldl (fun s t => s.raiseAt src 4 0 nullShelf (Config.detailValue src 4 t) t)
    (s1.modTm w fun t => { t with
      dropped := satAdd (2 ^ 32 - 1) t.dropped cut.length, cuts := (t.cuts ++ cut).filter fun c => decide (s.t < c) })

/-- DROPPED at this instant: the pairs found, less those still ahead, and those cancelled since (R160). -/
def State.droppedNow (s : State) (w : Nat) : Nat :=
  let x := s.slot (s.slotOf w)
  let en := (produced x.drvEn s.t (x.edges.filter (·.enable))).2
  let lv := (produced x.drvHigh s.t (x.edges.filter fun e => !e.enable)).2
  let ahead := ((s.tm w).cuts.filter fun c => decide (s.t < c)).length
  satAdd (2 ^ 32 - 1) ((s.tm w).dropped - ahead) (en.length + lv.length)

/-- A transition that has not been cancelled has happened by now. -/
def happened (base : Bool) (now : Nat) (l : List Edge) : List Edge :=
  (produced base (now + 81) l).1.filter fun e => decide (e.at_ ≤ now)

/-- The driver of a slot is enabled at this instant (R157). -/
def State.drvNow (s : State) (k : Nat) : Bool :=
  let x := s.slot k
  levelAfter x.drvEn (happened x.drvEn s.t (x.edges.filter (·.enable)))

/-- A horizon that settles everything. -/
def forever : Nat := 2 ^ 90

/-- The driver's level once every transition placed so far has taken effect. -/
def State.levelAhead (s : State) (w : Nat) : Bool :=
  let x := s.slot (s.slotOf w)
  levelAfter x.drvHigh (produced x.drvHigh forever (x.edges.filter fun e => !e.enable)).1

/-- The code whose waveform a vector drives: DK stands for the remembered state (R59, R157). -/
def driveCode (rem : Drv) (c : Nat) : Nat :=
  if c = 3 then (match rem with | .d0 => 0 | .d1 => 1 | .dz => 2) else c

/-- The code drives the pin (R157). -/
def drives (c : Nat) : Bool := c = 0 || c = 1 || c = 0xA || c = 0xB

/-- Level transitions of a driving code under a format (R158): edge (9 is the vector's start) and value; none inverts. -/
def levelPlan (fmt c : Nat) : List (Nat × Option Bool) :=
  match c with
  | 0xA => [(9, some false), (1, some true), (2, some false)]
  | 0xB => [(9, some true), (1, some false), (2, some true)]
  | 1 => match fmt with
    | 1 => [(1, some true), (2, some false)]
    | 3 => [(0, some false), (1, some true), (2, some false)]
    | 4 => [(1, none)]
    | _ => [(1, some true)]
  | 0 => match fmt with
    | 2 => [(1, some false), (2, some true)]
    | 3 => [(0, some true), (1, some false), (2, some true)]
    | _ => [(1, some false)]
  | _ => []

/-- Edges of the time-set that a vector uses (R155): `strobed` when it has a strobe. -/
def usedEdges (fmt c : Nat) (strobed : Bool) : List Nat :=
  let lv := ((levelPlan fmt c).map Prod.fst).filter fun j => decide (j ≠ 9)
  ([if drives c then 0 else 3] ++ lv ++ (if strobed then [4, 5] else [])).eraseDups

/-- Place a vector's driver transitions (R155 to R158): start, period, time-set, drive code, vector number. Each edge placed at
its limit is counted and reported with EDGE_CLIP. -/
def State.placeDrive (s : State) (w t p ts c vec : Nat) (strobed : Bool) : State :=
  let T := s.activeView w
  let fmt := tsFormat T ts
  let off := fun j => if j = 9 then 0 else edgeOffset (tsEdge T ts j) p
  let enJ := if drives c then 0 else 3
  let en : Edge := { at_ := s.instant w 2 (t + off enJ), vec := vec, ord := 0, enable := true, val := some (drives c) }
  let ahead := s.levelAhead w
  let lv : List Edge := (levelPlan fmt c).zipIdx.map fun (x : (Nat × Option Bool) × Nat) =>
    let rise := x.1.2.getD (!ahead)
    { at_ := s.instant w (if rise then 0 else 1) (t + off x.1.1), vec := vec, ord := x.2 + 1, enable := false, val := x.1.2 }
  let s1 := s.modSlot (s.slotOf w) fun k => { k with edges := (en :: lv).foldl (fun l e => insertEdge e l) k.edges }
  let clips := ((usedEdges fmt c strobed).filter fun j => edgeClips (tsEdge T ts j) p).length
  if clips = 0 then s1
  else (List.range clips).foldl (fun s _ => s.raiseAt (chSrc (s.slotOf w) 3) 5 0 nullShelf (Config.detailValue (chSrc (s.slotOf w) 3) 5 t) t)
    (s1.modTm w fun x => { x with clipped := satAdd 65535 x.clipped clips })

/-- The strobe of a vector (R162, R201): times of its opening and closing for the two comparator halves, and whether it is an
edge strobe. -/
def State.strobeTimes (s : State) (w t p ts : Nat) : (Nat × Nat) × (Nat × Nat) × Bool :=
  let T := s.activeView w
  let so := edgeOffset (tsEdge T ts 4) p
  let sc := edgeOffset (tsEdge T ts 5) p
  ((s.instant w 3 (t + so), s.instant w 3 (t + sc)), (s.instant w 4 (t + so), s.instant w 4 (t + sc)), decide (so = sc))

/-- The static drive takes hold of a window's driver at once (R44, R157). -/
def State.setStatic (s : State) (w : Nat) (d : Drv) : State :=
  (s.modMd w fun m => { m with static := d }).modSlot (s.slotOf w) fun k =>
    match d with
    | .d0 => { k with drvEn := true, drvHigh := false, edges := [] }
    | .d1 => { k with drvEn := true, drvHigh := true, edges := [] }
    | .dz => { k with drvEn := false, edges := [] }

/-- The static drive that READY_DRIVE.STATE names; 0b11 is treated as DZ. -/
def drvOf (n : Nat) : Drv := if n = 0 then .d0 else if n = 1 then .d1 else .dz

end Sys2Proof.Machine
end

