-- ==== Sys2Proof/Machine/Stamper.lean ====
section
/-!
DEFINITION. Sys2Proof/Machine/Stamper.lean: edge stamping (R226 to R245).
-/

namespace Sys2Proof.Machine

/-- An arrival within a bound after the instant it sets out (log entry 10): kind 0 sequencer, 1 trigger engine, 3 a ball or router. What sets out
later never arrives earlier, for no crossing reorders (R25): an item waits for those that set out before it. -/
def arrival (kind bound t : Nat) : Nat :=
  (List.range (bound + 1)).foldl (fun m d => max m (t - d + min bound (Config.rawDelay kind (t - d)))) t

/-- STP.CFG.EDGE of a window: bit 0 rising, bit 1 falling (R226). -/
def State.stpEdge (s : State) (w : Nat) : Nat := bits (s.wreg w 8 0x040) 0 2
/-- STP.CFG.GATE is TS (R240). -/
def State.stpTs (s : State) (w : Nat) : Bool := bit (s.wreg w 8 0x040) 2
/-- STP.CFG.PRESCALE (R228). -/
def State.stpP (s : State) (w : Nat) : Nat := bits (s.wreg w 8 0x040) 4 5

/-- A refusal on the STP page (R237). -/
def State.stpRefuse (s : State) (w reason : Nat) : State :=
  (s.modSt w fun x => { x with refused := true, reason := reason }).raiseCh w 7 5 0

/-- An accepted write of the STP page clears REFUSED (STP.STAT). -/
def State.stpAccept (s : State) (w : Nat) : State := s.modSt w fun x => { x with refused := false, reason := 0 }

/-- The stamper is armed at `t`: a disarming accepted before its effective GT leaves it armed until then (R235, R238). -/
def StpSt.isArmed (x : StpSt) (t : Nat) : Bool := x.armed || (decide (x.disarmCause ≠ 0) && decide (t < x.disarmT))

/-- The loss that has no GAP record yet as a GAP record of kind STAMP_LOST (R223, R233). -/
def State.lossRec (s : State) (w : Nat) : List Rec :=
  match (s.st w).loss with
  | none => []
  | some l => [s.winRec w 5 5 0x1D l.2 (pack [(0, 32, min (2 ^ 32 - 1) l.1)])]

/-- An arming with its effective GT: cause 1 host, 2 trigger engine, 3 burst start (R235 to R237). A loss of the arming before it keeps a
GAP record of its own (R233). -/
def State.stampArmAt (s : State) (w t cause : Nat) : State :=
  let x := s.st w
  let src := chSrc (s.slotOf w) 7
  if x.isArmed t || decide (x.offT = some t) then s
  else if s.mode w = .off then s.stpRefuse w 3
  else if s.stpEdge w = 0 then s.stpRefuse w 4
  else
    (s.modSt w fun x => { x with
      was := { armCause := x.armCause, armT := x.armT, latched := (s.evtBits (winPage w 8)).getLsbD 0, presc := x.presc,
               unknown := x.unknown, num := x.num, merged := x.merged, mergedAll := x.mergedAll, stamps := x.stamps,
               lostAll := x.lostAll, tsEmpty := x.tsEmpty }
      armed := true, armCause := cause, armT := t, presc := 0, unknown := !s.stpTs w && decide (1 ≤ s.stpP w), num := 0,
      rawT := none, merged := 0, mergedAll := 0, stamps := 0, lostAll := 0, tsEmpty := 0, ts := [],
      stage := x.stage ++ s.lossRec w, loss := none }).raiseAt src 0 0 nullShelf (Config.detailValue src 0 t) t

/-- An arming that a disarming of the same GT discards: what it replaced comes back, its event is withdrawn (R236). -/
def State.stampUnarm (s : State) (w t : Nat) : State :=
  let u := (s.st w).was
  let s1 := (s.modSt w fun x => { x with
    armed := false, armCause := u.armCause, armT := u.armT, presc := u.presc, unknown := u.unknown, num := u.num, merged := u.merged,
    mergedAll := u.mergedAll, stamps := u.stamps, lostAll := u.lostAll, tsEmpty := u.tsEmpty }).withdraw (chSrc (s.slotOf w) 7) 0 t
  if u.latched then s1 else s1.unlatch (winPage w 8) 1

/-- A disarming with its effective GT: cause 1 host, 2 trigger engine, 3 burst end, 4 LIMIT, 5 POWER_OFF (R235, R236, R238). -/
def State.stampDisarmAt (s : State) (w t cause : Nat) : State :=
  let x := s.st w
  let src := chSrc (s.slotOf w) 7
  let s1 := s.modSt w fun x => { x with offT := some t }
  let s1 := if x.armed then s1 else s1.withdraw src 1 x.disarmT
  if !x.isArmed t then s.modSt w fun x => { x with offT := some t }
  else if x.armed && decide (x.armT = t) then s1.stampUnarm w t
  else (s1.modSt w fun x => { x with armed := false, disarmCause := cause, disarmT := t }).raiseAt
    src 1 0 nullShelf (Config.detailValue src 1 t) t

/-- The LABEL of a polarity (R242). -/
def State.stpLabel (s : State) (w : Nat) (rising : Bool) : Nat := bits (s.wreg w 8 0x040) (if rising then 12 else 14) 2

/-- Stamps in the capture stage (R232). -/
def StpSt.staged (x : StpSt) : Nat := (x.stage.filter fun r => decide (recType r = 2)).length

/-- Number an edge, capture its stamp, count it against LIMIT (R230, R231, R233, R235): VECTOR for a TS stamp. PHASE_UNKNOWN stands until a
stamp that carries it is captured (R229, R245). -/
def State.numberEdge (s : State) (w t : Nat) (rising : Bool) (vec : Option Nat) : State :=
  let x := s.st w
  let payload := pack [(0, 32, x.num), (32, 2, if rising then 1 else 2), (34, 1, b2n (decide (x.merged ≠ 0))), (35, 1, b2n x.unknown),
    (36, 2, s.stpLabel w rising), (38, 1, b2n vec.isSome), (40, 5, if vec.isSome then 0 else s.stpP w), (64, 16, min 65535 x.merged),
    (80, 48, vec.getD 0)]
  let r := s.winRec w 2 0 0x11 t payload
  let full := decide (4 ≤ x.staged)
  let s1 := s.modSt w fun x => { x with
    num := x.num + 1, lastT := some t, merged := 0, unknown := x.unknown && full, stage := if full then x.stage else x.stage ++ [r],
    loss := if full then (match x.loss with | none => some (1, t) | some l => some (l.1 + 1, l.2)) else x.loss,
    lostAll := if full then satInc (2 ^ 32 - 1) x.lostAll else x.lostAll }
  let s2 := if full && x.loss.isNone then s1.raiseCh w 7 2 2 else s1
  let limit := s.wreg w 8 0x044
  if limit ≠ 0 && x.num + 1 = limit then (s2.stampDisarmAt w (t + 1) 4).raiseCh w 7 4 0 else s2

/-- A stamp at `t` would fall within the dead time of the last numbered edge (R230). -/
def StpSt.dead (x : StpSt) (t : Nat) : Bool := match x.lastT with | some l => decide (t < l + 410) | none => false

/-- A passed edge meets the dead-time test (R230). -/
def State.deadTime (s : State) (w t : Nat) (rising : Bool) (vec : Option Nat) : State :=
  if (s.st w).dead t then s.modSt w fun x => { x with merged := x.merged + 1, mergedAll := satInc (2 ^ 32 - 1) x.mergedAll }
  else s.numberEdge w t rising vec

/-- A captured edge lies in the window of a TS vector for the half that detects it (R240), by the internal instants of both. -/
def TsWin.holds (v : TsWin) (t : Nat) (rising : Bool) : Bool :=
  if rising then decide (v.openH ≤ t) && decide (t ≤ v.closeH) else decide (v.openL ≤ t) && decide (t ≤ v.closeL)

/-- A window takes part in a spare swap's exchange (R195, R245). -/
def State.exchanging (s : State) (w : Nat) : Bool :=
  match (s.clu (cluOf w)).swapping with
  | some p => decide (w = 16 * cluOf w + p.toNat) || decide (128 ≤ w)
  | none => false

/-- A stamp at `t` is counted (R229, R235, R238): it lies between the arming and the disarming, and within 64 tq of either `may` says
whether it is. -/
def StpSt.takes (x : StpSt) (t : Nat) (may : Bool) : Bool :=
  decide (x.armT ≤ t) && (may || decide (x.armT + 64 < t)) &&
    (x.armed || (decide (x.disarmCause ≠ 0) && (if may then decide (t ≤ x.disarmT + 64) else decide (t + 64 < x.disarmT))))

/-- The prescaler may miscount: two selected edges less than 64 tq apart (R228). -/
def StpSt.crowded (x : StpSt) (t : Nat) : Bool := match x.rawT with | some r => decide (t < r + 64) && decide (r < t + 64) | none => false

/-- An edge goes to the TS vector it serves (R240): the earliest whose window holds it and that may still take it. -/
def State.edgeTs (s : State) (w now t : Nat) (rising : Bool) : State :=
  let x := s.st w
  let dead := x.dead t
  match x.ts.find? fun v => v.holds now rising && !(v.seen && dead) with
  | none => s
  | some v =>
    (s.deadTime w t rising (some v.vec)).modSt w fun x => { x with
      ts := if dead then x.ts.map fun u => if u.vec = v.vec then { u with seen := true } else u
            else x.ts.filter fun u => decide (u.vec ≠ v.vec) }

/-- An edge goes through the prescaler (R228, R229): `counted` says whether one crowded by the edge before it is counted. -/
def State.edgeFree (s : State) (w t : Nat) (rising counted : Bool) : State :=
  let x := s.st w
  let s1 := s.modSt w fun x => { x with rawT := some t }
  if decide (1 ≤ s.stpP w) && x.crowded t && !counted then s1
  else
    let c := x.presc + 1
    let s2 := s1.modSt w fun x => { x with presc := c }
    if c % 2 ^ s.stpP w = 0 then s2.deadTime w t rising none else s2

/-- The stamp of a crossing captured now: the internal instant less the correction C of its comparator half (R168, R227). -/
def State.stampTime (s : State) (w : Nat) (rising : Bool) : Nat := ((s.t : Int) - s.corr w (if rising then 3 else 4)).toNat

/-- The capture circuit sees a comparator edge now (R226 to R231, R239, R240). An edge within 64 tq of the arming, of the disarming or of
the selected edge before it may or may not be counted: `counted` says which. -/
def State.edgeAt (s : State) (w : Nat) (rising counted : Bool) : State :=
  let t := s.stampTime w rising
  if s.exchanging w || !bit (s.stpEdge w) (if rising then 0 else 1) || !(s.st w).takes t counted then s
  else if s.stpTs w then s.edgeTs w s.t t rising
  else s.edgeFree w t rising counted

/-- FULLISH after the local buffer has changed; the event each time it asserts (R234). -/
def State.fullish (s : State) (w : Nat) : State :=
  let x := s.st w
  let wm := s.wreg w 8 0x068
  let n := x.buf.length
  let now := if bits wm 0 13 ≤ n then true else if n ≤ bits wm 16 13 then false else x.fullish
  let s1 := s.modSt w fun x => { x with fullish := now }
  if now && !x.fullish then s1.raiseCh w 7 3 0 else s1

/-- The pending loss becomes a GAP record of kind STAMP_LOST in the local buffer (R233). -/
def State.lossGap (s : State) (w : Nat) : State := s.modSt w fun x => { x with buf := x.buf ++ s.lossRec w, loss := none }

/-- LOSS_PENDING (R233): a loss whose GAP record is not yet in the local buffer. -/
def StpSt.lossPending (x : StpSt) : Bool := x.loss.isSome || x.stage.any fun r => decide (recType r = 5)

/-- The GT of the next sample of the engine at or after a time (R247). -/
def nextSample (t : Nat) : Nat := (t + 255) / 256 * 256

/-- Occurrences that still take part in a sample at or after `t` (R247): each takes part in the first one at or after its arrival. -/
def insFrom (t : Nat) (l : List EngIn) : List EngIn := l.filter fun o => decide (nextSample t ≤ nextSample o.at_)

/-- An occurrence for the trigger engine of a window sets out at `t` and arrives within the bound (R247, R248); it takes part in a sample
only if the engine runs then. -/
def State.engOccur (s : State) (w src sel code t bound : Nat) : State :=
  s.modEn w fun e => { e with
    ins := (if e.running then e.ins else insFrom s.t e.ins) ++ [{ at_ := arrival 1 bound t, src := src, sel := sel, code := code }] }

/-- The capture stage moves its oldest record into the local buffer (R232, R233): while armed, a loss goes first; once disarmed, the loss
follows the stage's stamps. -/
def State.transfer (s : State) (w : Nat) : State :=
  let x := s.st w
  let held := x.buf.length + movedNow x.popNow s.now
  match x.stage with
  | [] => s
  | r :: rest =>
    let due := match x.moveT with | some m => decide (m + 1024 ≤ s.t) | none => true
    if recType r = 5 then
      (if held < 4097 then (s.modSt w fun x => { x with stage := rest, buf := x.buf ++ [r] }).fullish w else s)
    else if due && decide (held < 4096) then
      let s1 := (if x.isArmed s.t then s.lossGap w else s).modSt w fun x => { x with
        stage := rest, buf := x.buf ++ [r], moveT := some s.t, stamps := satInc (2 ^ 32 - 1) x.stamps }
      (s1.engOccur w 7 (bits r.toNat 160 2) 0 (recTime r) 2048).fullish w
    else s

/-- The GAP record of kind STAMP_LOST enters the buffer of a disarmed stamper, behind its stamps (R233). -/
def State.lostGapNow (s : State) (w : Nat) : State :=
  let x := s.st w
  if !x.isArmed s.t && x.stage.isEmpty && x.loss.isSome && x.buf.length + movedNow x.popNow s.now < 4097 then (s.lossGap w).fullish w else s

/-- Resets of the stamper (R244): disarmed without an event, emptied, its counters, STP.STAT and numbering cleared. A block reset leaves
STP.ARM_GT and STP.DISARM_GT, which R244 does not name (R369). -/
def State.stampReset (s : State) (w : Nat) : State := s.modSt w fun x => { armT := x.armT, disarmT := x.disarmT }

end Sys2Proof.Machine
end

