-- ==== Sys2Proof/Machine/Program.lean ====
section
/-!
DEFINITION. Sys2Proof/Machine/Program.lean: inputs of a pin's decisions: reaction inputs and routes (R106 to R109), trigger lines
and link flags as a pin sees them (R346, R359), conditions (R72), jump-target slots and jump requests (R97 to R99).
-/

namespace Sys2Proof.Machine

/-! The reaction fabric. -/

/-- Value of a reaction input at a time, with its effective time: the decision that took effect last by then (R106, R108). -/
def FabSt.valAt (f : FabSt) (i t : Nat) : Nat × Bool :=
  f.due.foldl (fun v d => if d.2.1 = i && d.1 ≤ t && v.1 ≤ d.1 then (d.1, d.2.2) else v) (Tab.get 0 f.insT i, f.ins.getLsbD i)

/-- Value of a reaction input at a time. -/
def FabSt.val (f : FabSt) (i t : Nat) : Bool := (f.valAt i t).2

/-- A change of a reaction input is on its way. -/
def State.fabDue (s : State) (w i at_ : Nat) (v : Bool) : State := s.modFb w fun f => { f with due := f.due ++ [(at_, i, v)] }

/-- The bound of a route's latency by TYPE (R109). -/
def latBound (ty : Nat) : Nat := if ty = 1 then 4096 else if ty = 2 then 7168 else 0

/-- Latency of a route from a pin's, an export's or a lane's source to input `k` of window `w`: calibrated between the slots that serve them,
within its bound (R109, R195), or the link's fixed 20,480 tq for TYPE NYWEN (R355). -/
def State.routeLat (s : State) (c w k v : Nat) : Nat :=
  let src := if bits v 0 2 = 1 then s.slotOf (16 * c + bits v 4 4) else bits v 4 6
  if bits v 0 2 = 3 then 20480 else min (latBound (bits v 0 2)) (Config.rawLat c (bits v 0 2) src (s.slotOf w * 16 + k))

/-- CLU_c.FAB_ROUTE[i].LAT: the latency applied in units of 8 tq, rounded up; 0 for TYPE CONST (R109). -/
def State.latRead (s : State) (c i : Nat) : Nat :=
  if bits (s.creg c (0x400 + 4 * i)) 0 2 = 0 then 0 else (Tab.get 0 (s.clu c).lat i + 7) / 8

/-- Calibrate the latencies of a cluster's written routes (R109). -/
def State.calLat (s : State) (c : Nat) : State :=
  let base := pageAddr (cluPage c) 0x400
  let rts := s.regs.filter fun e => decide (base ≤ e.1) && decide (e.1 < base + 0x400)
  s.modClu c fun x => { x with lat := rts.foldl (fun l e =>
    let i := (e.1 - base) / 4
    Tab.set 0 l i (s.routeLat c (16 * c + i / 16) (i % 16) e.2.toNat)) [] }

/-- Decision signal `sig` of a pin, as its routes see it (R107). -/
def State.sigOf (s : State) (w sig : Nat) : Bool := decide (sig < 5) && (s.fb w).sigs.getLsbD sig

/-- Every route that meets `p` (cluster, its register value) takes value `v` after its latency from time `t` (R106). -/
def State.routesTake (s : State) (p : Nat → Nat → Bool) (v : Bool) (t : Nat) : State :=
  (List.range 8).foldl (fun s c =>
    let base := pageAddr (cluPage c) 0x400
    let rts := s.regs.filter fun e => decide (base ≤ e.1) && decide (e.1 < base + 0x400) && p c e.2.toNat
    rts.foldl (fun s e =>
      let i := (e.1 - base) / 4
      s.fabDue (16 * c + i / 16) (i % 16) (t + Tab.get 0 (s.clu c).lat i) v) s) s

/-- Export `e` of cluster `c` presents a value: the BRIDGE routes that name it take it (R106, R107). -/
def State.exportTakes (s : State) (c e : Nat) (v : Bool) (t : Nat) : State :=
  let s1 := s.modClu c fun x => { x with expo := putBit x.expo e v }
  s1.routesTake (fun _ r => bits r 0 2 = 2 && bits r 7 3 = c && bits r 4 3 = e) v t

/-- A pin's signal takes a value at its decision instant: the routes and exports that name it follow (R106, R107). -/
def State.signalTakes (s : State) (w sig : Nat) (v : Bool) (t : Nat) : State :=
  let c := cluOf w
  let k := w % 16
  let s1 := s.modFb w fun f => { f with sigs := putBit f.sigs sig v }
  if 128 ≤ w then s1
  else
    let s2 := s1.routesTake (fun c' r => c' = c && bits r 0 2 = 1 && bits r 4 4 = k && bits r 12 3 = sig) v t
    (List.range 8).foldl (fun s e =>
      let x := s.creg c (0x800 + 4 * e)
      if bit x 8 && bits x 0 4 = k && bits x 4 3 = sig then s.exportTakes c e v t else s) s2

/-! Lines and flags. -/

/-- The pin's cluster is set in RX_CLU of a trigger line (R346). -/
def State.trigRouted (s : State) (w n : Nat) : Bool := bit (s.dreg 3 (0x040 + 4 * n)) (16 + cluOf w)
/-- TRIG[n] is asserted as a pin sees it (R72, R346). -/
def State.trigSeen (s : State) (w n : Nat) : Bool := s.trigRouted w n && s.syn.trig.getLsbD n
/-- The Nywen link is locked: at least one receiver has lock (R351, R359). -/
def State.nywLocked (s : State) : Bool := decide (s.syn.lock ≠ 0)
/-- A Nywen link flag as conditions see it (R72, R359). -/
def State.nywFlag (s : State) (n : Nat) : Bool := s.nywLocked && s.syn.flagsIn.getLsbD n

/-- The play passes: no counted vector failed or was lost (R92). -/
def SeqSt.passes (q : SeqSt) : Bool := !q.playFail

/-- COND of a descriptor at a time (R72, R89). -/
def State.condHolds (s : State) (w : Nat) (d : RawDesc) (t : Nat) : Bool :=
  let sel := dCondSel d
  let v := match dCondSrc d with
    | 1 => true
    | 2 => bit (s.wreg w 1 0x048) sel
    | 3 => s.trigSeen w sel
    | 4 => (s.en w).flags.getLsbD sel
    | 5 => (s.fb w).val sel t
    | 6 => s.nywFlag sel
    | 7 => (s.sq w).passes
    | _ => false
  v != dInvert d

/-! Jump targets. -/

/-- Shelfmark of jump-target slot `k` and its EN (SEQ.JUMP_TGT). -/
def State.jumpShelf (s : State) (w k : Nat) : Shelf := BitVec.ofNat 20 (s.wreg w 1 (0x060 + 4 * k))
def State.jumpEn (s : State) (w k : Nat) : Bool := bit (s.wreg w 1 (0x060 + 4 * k)) 24

/-- The slot that a decision has chosen is about to be rewritten: what it held starts at the boundary all the same (R89). -/
def State.keepChosen (s : State) (w : Nat) (k : BitVec 2) (sh : Shelf) : State :=
  match (if (s.sq w).decided = some (.jump k) then roleGet (.jump k) (s.sq w).fetched else none) with
  | none => s
  | some f => (s.modSq w fun q => { q with decided := some (.kept sh), fetched := roleSet .ret f q.fetched }).modSl w fun x =>
    { x with bufs := roleSet .ret (x.buf (.jump k)) x.bufs, chain := [], more := [] }

/-- Discard what a slot holds and judge it afresh; a rejected slot raises JUMP_REJ (R98). -/
def State.judgeSlot (s : State) (w k : Nat) : State :=
  let rej := s.jumpEn w k && s.slotRejected w (s.jumpShelf w k)
  let s1 := s.modSq w fun q => { q with
    jready := putBit q.jready k false, jrej := putBit q.jrej k rej, fetched := roleDel (.jump (BitVec.ofNat 2 k)) q.fetched }
  let s2 := s1.modSl w fun x => { x with bufs := roleDel (.jump (BitVec.ofNat 2 k)) x.bufs }
  if rej then s2.raiseCh w 1 5 0 else s2

/-- A detection of the window's SEQ source at `t` (R16). -/
def State.raiseSeq (s : State) (w code t : Nat) : State := s.raiseSeg w 1 code 0 nullShelf t

/-- A jump request is dropped from a full queue or by a stop, at `t` (R99). -/
def State.jumpDrop (s : State) (w t : Nat) : State :=
  (s.modPl w fun p => { p with jumpOvf := satInc 65535 p.jumpOvf }).raiseSeq w 4 t

/-- A request takes its place in order of arrival. -/
def insertReq (r : JumpReq) : List JumpReq → List JumpReq
  | [] => [r]
  | x :: l => if r.at_ < x.at_ then r :: x :: l else x :: insertReq r l

/-- A jump request arrives at the sequencer at `t`, now or just past (R97 to R99). -/
def State.jumpArrive (s : State) (w k t : Nat) : State :=
  let q := s.sq w
  if !q.loaded then s
  else if q.stop.isSome then s.jumpDrop w t
  else if !s.jumpEn w k || q.jrej.getLsbD k then (s.perr w 7 (s.jumpShelf w k) t).raiseSeq w 5 t
  else if 4 ≤ q.reqs.length then s.jumpDrop w t
  else s.modSq w fun q => { q with reqs := insertReq { slot := BitVec.ofNat 2 k, at_ := t } q.reqs }

/-- Jump requests on their way that have reached the sequencer arrive, before anything that they are judged against changes (R97, R99). -/
def State.jumpDue (s : State) (w : Nat) : State :=
  let due := (s.sq w).coming.filter fun r => decide (r.at_ ≤ s.t)
  if due.isEmpty then s
  else
    (s.modSq w fun q => { q with coming := q.coming.filter fun r => decide (s.t < r.at_) }).each due fun s r => s.jumpArrive w r.slot.toNat r.at_

/-- A jump request that reaches the sequencer at `t`, at once or later (R97). -/
def State.jumpRequest (s : State) (w k t : Nat) : State :=
  if t ≤ s.t then (s.jumpDue w).jumpArrive w k t
  else s.modSq w fun q => { q with coming := insertReq { slot := BitVec.ofNat 2 k, at_ := t } q.coming }

end Sys2Proof.Machine
end

