-- ==== Sys2Proof/Machine/Acq.lean ====
section
/-!
DEFINITION. Sys2Proof/Machine/Acq.lean: the trigger engine (R246 to R257), the min/max reduction (R258 to R260), the capture
window (R261 to R266).
-/

namespace Sys2Proof.Machine

/-- PMU.CFG.MODE of a window: 0 OFF (R181). -/
def State.pmuMode (s : State) (w : Nat) : Nat := bits (s.wreg w 6 0x040) 0 2

/-- A source of R248: SRC, INVERT, SEL, CODE, CODE_EN. -/
structure CondSpec where
  src : Nat
  inv : Bool
  sel : Nat
  code : Nat
  codeEn : Bool
deriving DecidableEq, Repr

/-- The condition of arc `i` (ACQ.ARC_COND). -/
def State.arcCond (s : State) (w i : Nat) : CondSpec :=
  let r := s.wreg w 9 (0x400 + 0x10 * i)
  { src := bits r 24 5, inv := bit r 31, sel := bits r 32 4, code := bits r 48 12, codeEn := bit r 60 }

/-- The count source of counter `j` (ACQ.CNT_CFG). -/
def State.cntCond (s : State) (w j : Nat) : CondSpec :=
  let r := s.wreg w 9 (0x100 + 0x10 * j)
  { src := bits r 0 5, inv := bit r 7, sel := bits r 8 4, code := bits r 32 12, codeEn := bit r 44 }

/-- SRC codes whose sources are events (R248). -/
def isEventSrc (src : Nat) : Bool := [2, 3, 4, 7, 0xA, 0xC, 0xD, 0xF, 0x10].contains src

/-- An occurrence matches a source's SEL and CODE (R248). -/
def CondSpec.takes (c : CondSpec) (o : EngIn) : Bool :=
  o.src = c.src &&
    (if c.src = 7 then c.sel = 0 || c.sel = o.sel
     else if c.src = 0xC then (c.sel = 2 || c.sel = o.sel) && (!c.codeEn || c.code = o.code)
     else c.sel = o.sel)

/-- A source is unavailable (R249). -/
def State.srcUnavailable (s : State) (w : Nat) (c : CondSpec) : Bool :=
  match c.src with
  | 5 => s.pmuMode w = 0
  | 6 => s.pmuMode w = 0
  | 9 => !s.trigRouted w (c.sel % 8)
  | 0xA => !s.trigRouted w (c.sel % 8)
  | 0xB => !s.nywLocked
  | _ => false

/-- A level source holds at a time, given the counts of the sample (R248). -/
def State.levelHolds (s : State) (w : Nat) (cnt : Tab Nat) (c : CondSpec) (t : Nat) : Bool :=
  match c.src with
  | 1 => true
  | 5 => (s.pm w).above
  | 6 => (s.pm w).below
  | 8 => (s.fb w).val c.sel t
  | 9 => s.trigSeen w (c.sel % 8)
  | 0xB => s.nywFlag (c.sel % 8)
  | 0xE => decide (bits (s.wreg w 9 (0x108 + 0x10 * (c.sel % 4))) 0 48 ≤ Tab.get 0 cnt (c.sel % 4))
  | _ => false

/-- A condition is true in a sample with the occurrences `os` (R248, R249). -/
def State.condTrue (s : State) (w : Nat) (cnt : Tab Nat) (os : List EngIn) (c : CondSpec) (t : Nat) : Bool :=
  !s.srcUnavailable w c &&
    ((if isEventSrc c.src then os.any c.takes else s.levelHolds w cnt c t) != c.inv)

/-- Occurrences that a counter adds in a sample (R252). -/
def State.countAdd (s : State) (w : Nat) (cnt : Tab Nat) (os : List EngIn) (c : CondSpec) (t : Nat) : Nat :=
  if isEventSrc c.src && !c.inv then (if s.srcUnavailable w c then 0 else (os.filter c.takes).length)
  else b2n (s.condTrue w cnt os c t)

/-- Duration of timer `k` in tq (ACQ.TMR_DUR). -/
def State.tmrDur (s : State) (w k : Nat) : Nat := 256 * bits (s.wreg w 9 (0x140 + 8 * k)) 0 48

/-- The auto-mode timeout restarts on entry to a state of the forced arc's FROM_MASK and stops on entry to any other; the
next sample's GT is `g` (R257). -/
def State.autoTimer (s : State) (w state g : Nat) (tmr : Tab (Option Nat)) : Tab (Option Nat) :=
  let a := s.wreg w 9 0x050
  if bit a 0 then
    let k := bits a 8 2
    if bit (s.wreg w 9 (0x400 + 0x10 * bits a 4 4)) state then Tab.set none tmr k (some (g + s.tmrDur w k)) else Tab.set none tmr k none
  else tmr

/-- The engine has entered a state at `t`: HIT, when it is HIT_STATE and HIT_EN is 1 (ACQ.CFG). -/
def State.engHit (s : State) (w state t : Nat) : State :=
  let cfg := s.wreg w 9 0x040
  let src := chSrc (s.slotOf w) 8
  if bit cfg 16 && bits cfg 12 4 = state then s.raiseAt src 2 0 nullShelf (Config.detailValue src 2 t) t else s

/-- The engine starts at `t` (R256); inputs that arrive from then on take part (R247), and delayed actions of earlier transitions still
take effect (R254). -/
def State.engStart (s : State) (w t : Nat) : State :=
  let init := bits (s.wreg w 9 0x040) 0 4
  let src := chSrc (s.slotOf w) 8
  ((s.modEn w fun e => { e with
    running := true, state := init, cnt := [], flags := 0, tmr := s.autoTimer w init (nextSample t) [], ins := insFrom t e.ins,
    transitions := 0 }).raiseAt src 0 0 nullShelf (Config.detailValue src 0 t) t).engHit w init t

/-- The engine stops (R256). -/
def State.engStop (s : State) (w : Nat) : State :=
  if (s.en w).running then
    (s.modEn w fun e => { e with running := false, tmr := [] }).raiseCh w 8 1 0
  else s

/-- A refusal on the ACQ page's engine registers (R256). -/
def State.engRefuse (s : State) (w reason : Nat) : State :=
  (s.modEn w fun e => { e with refused := true, reason := reason }).raiseCh w 8 6 0

/-- An accepted write of those registers clears REFUSED (ACQ.ENG_STAT). -/
def State.engAccept (s : State) (w : Nat) : State := s.modEn w fun e => { e with refused := false, reason := 0 }

/-- ACQ.ENG_CMD with OP START (R256). DESIGN CHOICE (log 138): the ACQ page of a spare window (R362) has an engine that runs as a pin's does, beside
the 128 of R24 and R246. -/
def State.engStartCmd (s : State) (w : Nat) : State :=
  if s.mode w = .off then s.engRefuse w 2 else (s.engAccept w).engStart w s.t

/-! The sample. -/

/-- Segment and play at a time for a trigger mark; null while holding or idle (R222). -/
def State.markSeg (s : State) (w : Nat) : Shelf × Nat :=
  if s.running w && (s.pl w).begun && !(s.ho w).on then (dShelf (s.sq w).cur, (s.sq w).play) else (nullShelf, 0)

/-- A pulse on a trigger line by the engine of pin `w`, requested at `t` (R255). -/
def State.enginePulse (s : State) (w line t : Nat) : State :=
  let cfg := s.dreg 3 (0x040 + 4 * line)
  if bits cfg 0 2 = 0 || !bit cfg (8 + cluOf w) then s.modEn w fun e => { e with pulseDrop := satInc 65535 e.pulseDrop }
  else
    let fin := t + 256 * bits (s.wreg w 9 0x054) 0 16
    s.modSyn fun y => { y with pulses := y.pulses.filter (fun p => decide (p.1 ≠ line) || decide (p.2.1 ≠ w)) ++ [(line, w, fin)] }

/-- The actions of a deciding arc that act at once, and the delayed ones set on their way (R254). -/
def State.arcActs (s : State) (w i frm also forced t : Nat) : State :=
  let c := s.wreg w 9 (0x400 + 0x10 * i)
  let a := s.wreg w 9 (0x408 + 0x10 * i)
  let seg := s.markSeg w
  let s1 := if bit a 12 then
      s.queueRec w (s.winRec w 4 2 0x14 t (pack [(0, 20, seg.1.toNat), (20, 12, bits a 0 12), (32, 32, seg.2), (64, 16, also),
        (80, 4, frm), (84, 4, bits c 16 4), (88, 4, i), (92, 1, forced)]))
    else s
  let s2 := if bit a 13 then s1.jumpRequest w (bits a 14 2) (arrival 0 4096 t) else s1
  let delayed := bits a 16 2 ≠ 0 || bits a 18 2 ≠ 0 || bit a 20 || bits a 24 8 ≠ 0
  let s3 := if delayed then s2.modEn w fun e => { e with acts := e.acts ++ [{ at_ := t + 4096, act := BitVec.ofNat 64 a, tr := t }] } else s2
  let starts := bits a 36 4
  let stops := bits a 40 4
  let s4 := s3.modEn w fun e => { e with
    cnt := (List.range 4).foldl (fun l j => if bit (bits a 32 4) j then Tab.set 0 l j 0 else l) e.cnt
    tmr := (List.range 4).foldl (fun l k =>
      if bit starts k then Tab.set none l k (some (t + 256 + s.tmrDur w k)) else if bit stops k then Tab.set none l k none else l) e.tmr }
  if bit a 44 then s4.enginePulse w (bits a 45 3) t else s4

/-- A transition of the engine by arc `i` at `t` (R250, R257). -/
def State.takeArc (s : State) (w i also : Nat) (forced : Bool) (t : Nat) : State :=
  let frm := (s.en w).state
  let dest := bits (s.wreg w 9 (0x400 + 0x10 * i)) 16 4
  let s1 := s.modEn w fun e => { e with state := dest, transitions := satInc (2 ^ 32 - 1) e.transitions }
  let s2 := s1.modEn w fun e => { e with tmr := s.autoTimer w dest (t + 256) e.tmr }
  let s3 := s2.arcActs w i frm also (b2n forced) t
  let s4 := s3.engHit w dest t
  if forced then s4.raiseCh w 8 3 0 else s4

/-- A running timer that has expired becomes an occurrence and stops (R253). -/
def State.expireTimer (s : State) (w k t : Nat) : State :=
  match Tab.get none (s.en w).tmr k with
  | some g =>
    if g ≤ t then s.modEn w fun e => { e with
      tmr := Tab.set none e.tmr k none, ins := e.ins ++ [{ at_ := g, src := 0xF, sel := k, code := 0 }] }
    else s
  | none => s

/-- One sample at the present GT, a multiple of 256 tq that has had none: count, evaluate, take at most one transition, act (R247 to
R257). -/
def State.engSample (s : State) (w : Nat) : State :=
  let t := s.t
  if !(s.en w).running || t % 256 ≠ 0 || (s.en w).sampT = some t then s
  else
    let s1 := (s.modEn w fun e => { e with sampT := some t }).each [0, 1, 2, 3] fun s k => s.expireTimer w k t
    let e := s1.en w
    let os := e.ins.filter fun o => decide (o.at_ ≤ t)
    let s2 := s1.modEn w fun e => { e with ins := e.ins.filter fun o => decide (t < o.at_) }
    let cnt := (List.range 4).foldl (fun l j =>
      if bit (s.wreg w 9 (0x100 + 0x10 * j)) (16 + e.state) then
        Tab.set 0 l j (satAdd (2 ^ 48 - 1) (Tab.get 0 l j) (s2.countAdd w e.cnt os (s.cntCond w j) t))
      else l) e.cnt
    let s3 := s2.modEn w fun e => { e with cnt := cnt }
    let met := (List.range 16).filter fun i =>
      let c := s.wreg w 9 (0x400 + 0x10 * i)
      bit c 20 && bit c e.state && s3.condTrue w cnt os (s.arcCond w i) t
    match met with
    | i :: _ => s3.takeArc w i (met.foldl (fun m j => m + 2 ^ j) 0) false t
    | [] =>
      let a := s.wreg w 9 0x050
      if bit a 0 && os.any (fun o => o.src = 0xF && o.sel = bits a 8 2) then s3.takeArc w (bits a 4 4) 0 true t else s3

/-! The min/max reduction. -/

/-- The interval in progress becomes a MINMAX record, if it holds a sample (R221, R258, R260). -/
def State.redWrite (s : State) (w : Nat) : State :=
  let r := s.rd w
  if r.n = 0 then s
  else
    let code := fun (v : Int) => (v % 65536).toNat
    let full := s.wreg w 9 0x060 + 1
    let x := s.winRec w 3 0 0x12 r.t0 (pack [(0, 16, code r.lo), (16, 16, code r.hi), (32, 1, b2n r.qty.1), (33, 3, r.qty.2),
      (36, 1, b2n (r.short && decide (r.n < full))), (37, 1, b2n r.clamped), (38, 1, b2n r.oversub), (64, 32, r.n - 1), (96, 32, r.interval)])
    (s.queueRec w x).modRd w fun r => { r with n := 0, interval := (r.interval + 1) % 2 ^ 32, short := false, clamped := false, oversub := false }

/-- Sample number of a time (R258). -/
def sampleNo (t : Nat) : Nat := gtOf t / 256000

/-- The interval in progress ends if a grid boundary lies between its first sample and `t` (R258). -/
def State.redGrid (s : State) (w t : Nat) : State :=
  let n := s.wreg w 9 0x060 + 1
  if sampleNo t / n ≠ sampleNo (s.rd w).t0 / n then s.redWrite w else s

/-- A sample enters the interval of the armed reduction, or opens the next one (R258, R260). -/
def State.redTake (s : State) (w : Nat) (x : RedIn) : State :=
  let n := s.wreg w 9 0x060 + 1
  (s.redGrid w x.at_).modRd w fun r =>
    if r.n = 0 then { r with n := 1, lo := x.val, hi := x.val, t0 := x.at_, short := decide (sampleNo x.at_ % n ≠ 0), qty := x.qty,
                             clamped := x.clamped, oversub := x.oversub }
    else { r with n := r.n + 1, lo := min r.lo x.val, hi := max r.hi x.val, clamped := r.clamped || x.clamped,
                  oversub := r.oversub || x.oversub }

/-- The latest sample is decided, if it lies before `t`: the reduction takes it if it is armed and the sample lies at or after the arming
(R259). -/
def State.redSettle (s : State) (w t : Nat) : State :=
  match (s.rd w).due with
  | none => s
  | some x =>
    if t ≤ x.at_ then s
    else
      let s1 := s.modRd w fun r => { r with due := none, cut := false }
      let s2 := if (s.rd w).armed && decide ((s.rd w).armT ≤ x.at_) then s1.redTake w x else s1
      if (s.rd w).cut && (s2.rd w).armed then s2.redWrite w else s2

/-- The ADC offers a sample now (R258 to R260). -/
def State.redSample (s : State) (w : Nat) (qty : Bool) (range : Nat) (v : Int) (clamped oversub : Bool) : State :=
  ((s.redSettle w s.t).redGrid w s.t).modRd w fun r => { r with
    due := some { at_ := s.t, qty := (qty, range), val := v, clamped := clamped, oversub := oversub } }

/-- The measured quantity or the current range changes now: the interval in progress ends, with its record (R260). -/
def State.redCut (s : State) (w : Nat) : State :=
  if ((s.rd w).due.map (·.at_)) = some s.t then s.modRd w fun r => { r with cut := true }
  else
    let s1 := s.redSettle w s.t
    if (s1.rd w).armed then s1.redWrite w else s1

/-- A refusal of the reduction (ACQ.RED_STAT). -/
def State.redRefuse (s : State) (w reason : Nat) : State :=
  (s.modRd w fun r => { r with refused := true, reason := reason }).raiseCh w 8 6 0

/-- The reduction is armed: cause 1 host, 2 trigger engine; with the PPMU OFF the arming changes nothing, and a disarming of the same GT wins
(R236, R259). -/
def State.redArmAt (s : State) (w t cause : Nat) : State :=
  let s1 := s.redSettle w t
  if s.pmuMode w = 0 || (s.rd w).armed || decide ((s.rd w).disarmT = some t) then s1
  else s1.modRd w fun r => { r with
    was := (r.armCause, r.armT, r.interval), armed := true, armCause := cause, armT := t, n := 0, interval := 0 }

/-- ACQ.RED_CMD with OP ARM (R259, ACQ.RED_STAT). -/
def State.redArmCmd (s : State) (w : Nat) : State :=
  if s.pmuMode w = 0 then s.redRefuse w 1 else (s.modRd w fun r => { r with refused := false, reason := 0 }).redArmAt w s.t 1

/-- The reduction is disarmed: cause 1 host, 2 trigger engine, 3 PPMU OFF, 4 POWER_OFF (R259, R260). It takes the samples before `t`, and an
arming of the same GT is discarded (R236). -/
def State.redDisarmAt (s : State) (w t cause : Nat) : State :=
  let s1 := (s.redSettle w t).modRd w fun r => { r with disarmT := some t }
  let r := s1.rd w
  if !r.armed then s1
  else if r.armT = t then
    s1.modRd w fun r => { r with armed := false, armCause := r.was.1, armT := r.was.2.1, interval := r.was.2.2, n := 0 }
  else (s1.redWrite w).modRd w fun r => { r with armed := false, disarmCause := cause, n := 0 }

/-! The capture window. -/

/-- Capacity of the window ring in records (R262): CAP.STAT.ACQ_MIB × 32,768. -/
def State.acqMib (s : State) (w : Nat) : Nat :=
  let a := s.wreg w 7 0x044
  64 - bits a 0 7 - bits a 8 7
/-- Base of the acquisition region of a window's pin (R203). -/
def State.acqBase (s : State) (w : Nat) : Nat := failArea w + (64 - s.acqMib w) * 0x100000
/-- The window is in PRE or POST. -/
def CwSt.open_ (c : CwSt) : Bool := c.phase = 1 || c.phase = 2

/-- A refusal of the capture window (ACQ.WIN_STAT). -/
def State.winRefuse (s : State) (w reason : Nat) : State :=
  (s.modCw w fun c => { c with refused := true, reason := reason }).raiseCh w 8 6 0

/-- ACQ.WIN_CMD with OP ARM (R262). -/
def State.winArmCmd (s : State) (w : Nat) : State :=
  let cfg := s.wreg w 9 0x080
  let cap := s.acqMib w * 32768
  let pre := bits cfg 8 22
  let post := bits cfg 32 22
  if !bit cfg 0 then s.winRefuse w 1
  else if cap = 0 then s.winRefuse w 2
  else if cap < pre then s.winRefuse w 3
  else if (s.cw w).open_ then s.winRefuse w 4
  else
    let clip := decide (cap - pre < post)
    let s1 := s.modCw w fun c => { c with
      phase := 1, clipped := clip, preShort := false, refused := false, reason := 0, rd := c.wr, cap := cap, pre := pre,
      postEff := min post (cap - pre), postHeld := 0, ignored := 0 }
    if clip then s1.raiseCh w 8 5 0 else s1

/-- ACQ.WIN_CMD with OP ABANDON (R264). -/
def State.winAbandonCmd (s : State) (w : Nat) : State := s.modCw w fun c => { c with phase := 0, refused := false, reason := 0 }

/-- The window enters DONE when the effective post count is reached (R263). -/
def State.winDone (s : State) (w : Nat) : State :=
  let c := s.cw w
  if c.phase = 2 && c.postEff ≤ c.postHeld then (s.modCw w fun c => { c with phase := 3 }).raiseCh w 8 4 0 else s

/-- A record goes into the window ring (R261 to R263). -/
def State.winPush (s : State) (w : Nat) (r : Rec) : State :=
  let c := s.cw w
  let a := s.acqBase w + 32 * (c.wr % max c.cap 1)
  let s1 := s.setStack (Memory.store s.stackMem a (recBytes (recPhase r false)))
  if c.phase = 1 then
    if c.pre = 0 then s1.modCw w fun c => { c with wr := c.wr, rd := c.rd }
    else s1.modCw w fun c => { c with wr := c.wr + 1, rd := if c.wr + 1 - c.rd > c.pre then c.rd + 1 else c.rd }
  else
    (s1.modCw w fun c => { c with wr := c.wr + 1, postHeld := c.postHeld + 1 }).winDone w

/-- A window trigger takes effect (R263, R264). -/
def State.winTrigger (s : State) (w tr : Nat) : State :=
  let c := s.cw w
  if c.phase = 1 then
    let held := c.wr - c.rd
    (s.modCw w fun c => { c with phase := 2, preHeld := held, preShort := decide (held < c.pre), trigT := tr, postHeld := 0 }).winDone w
  else s.modCw w fun c => { c with ignored := satInc 255 c.ignored }

/-! Delayed actions. -/

/-- One delayed action takes effect (R235, R254, R259, R263): disarming wins over an arming of the same instant. -/
def State.engAct (s : State) (w : Nat) (x : EngAct) : State :=
  let a := x.act.toNat
  let s1 := match bits a 16 2 with
    | 1 => s.stampArmAt w x.at_ 2
    | 2 => s.stampDisarmAt w x.at_ 2
    | _ => s
  let s2 := match bits a 18 2 with
    | 1 => s1.redArmAt w x.at_ 2
    | 2 => s1.redDisarmAt w x.at_ 2
    | _ => s1
  let s3 := if bit a 20 then s2.winTrigger w x.tr else s2
  s3.modEn w fun e => { e with flags := (e.flags &&& ~~~ BitVec.ofNat 4 (bits a 28 4)) ||| BitVec.ofNat 4 (bits a 24 4) }

/-- The oldest delayed action whose time has come takes effect. -/
def State.engEffect (s : State) (w : Nat) : State :=
  match (s.en w).acts with
  | [] => s
  | x :: rest => if x.at_ ≤ s.t then (s.modEn w fun e => { e with acts := rest }).engAct w x else s

end Sys2Proof.Machine
end

