-- ==== Sys2Proof/Machine/Play.lean ====
section
/-!
DEFINITION. Sys2Proof/Machine/Play.lean: output time: what one vector does (R59, R60, R81, R108, R149 to R163), marks (R73,
R94, R222), underruns and the holding pattern (R138 to R144).
-/

namespace Sys2Proof.Machine

/-- Output offset at which the current play ends: its L_out, or a stop mark (R88, R103). -/
def SeqSt.playEnd (q : SeqSt) : Nat := q.stopMark.getD (dOut q.cur)

/-- The play's decision point has come and nothing is fixed yet (R89). -/
def SeqSt.owesDecision (q : SeqSt) : Bool := q.decided.isNone && decide (dOut q.cur < q.ofs + 64)

/-- The boundary where the play ends is a segment boundary (R88). -/
def SeqSt.segBoundary (q : SeqSt) : Bool :=
  q.stopMark.isSome || decide (q.decided ≠ some .again) || dKind q.cur = 3 || dKind q.cur = 4

/-- A stop accepted by time `t` can use the boundary where the play ends: `seg`, it is a segment boundary (R103, R104). -/
def SeqSt.stopDue (q : SeqSt) (seg : Bool) (t : Nat) : Bool :=
  match q.stop with
  | some (p, at_) => decide (p ≠ 3) && (decide (p ≠ 1) || seg) && decide (at_ ≤ t)
  | none => false

/-- The pending set of a window must take effect at the boundary reached, before the next vector (R165). -/
def State.stageDue (s : State) (w : Nat) : Bool :=
  match (s.tm w).pend with
  | none => false
  | some (_, point, at_) =>
    let q := s.sq w
    let p := s.pl w
    let atEnd := decide (q.ofs = q.playEnd) && q.decided.isSome
    let endT := if q.stopMark.isSome then p.t64 else p.decT
    if !s.running w || !p.begun || (s.ho w).on then false
    else if point = 0 then atEnd && q.segBoundary && decide (at_ ≤ endT)
    else if point = 1 then atEnd && decide (at_ ≤ endT)
    else if point = 2 then (atEnd && decide (at_ ≤ endT)) || (decide (0 < q.ofs) && decide (q.ofs % 64 = 0) && decide (at_ ≤ p.t64))
    else false

/-- An AT_BOUNDARY_64 stop takes the stop mark 64 vectors after an offset that is a multiple of 64 and whose vector started at
`t`, if that mark lies inside the play (R88, R103). -/
def SeqSt.markStop (q : SeqSt) (o t : Nat) : SeqSt :=
  match q.stop with
  | some (0, at_) =>
    if at_ ≤ t && o % 64 = 0 && o + 64 < dOut q.cur && q.stopMark.isNone && q.decided.isNone && q.landing = 0 then
      { q with stopMark := some (o + 64), decided := some .stopLand }
    else q
  | _ => q

/-! One vector. -/

/-- Code of vector `i` of a slice, from one of its two streams (R61, R108). -/
def Slice.code (x : Slice) (alt : Bool) (i : Nat) : Nat := bits (if alt then x.altCodes else x.codes).toNat (4 * (i % 16)) 4
/-- Lane value of vector `i` of a slice (R62, R108). -/
def Slice.laneOf (x : Slice) (alt : Bool) (i : Nat) : Nat := bits (if alt then x.altLane else x.lane).toNat (2 * (i % 16)) 2

/-- A vector drives the pin with code `c` at `t`, under time-set `ts` and period `p`; the remembered state follows (R59, R155 to R160). TIM.DESKEW
as written takes effect. The next vector starts at `t + p` and places nothing more than 8,192 tq before that (three terms of 12 bits and the drift,
R168): pairs before then are settled. -/
def State.driveVector (s : State) (w t p ts c : Nat) : State :=
  let v := s.pl w
  let s0 := s.modTm w fun x => { x with skew := s.wreg w 3 0x08C }
  let s1 := (s0.placeDrive w t p ts (driveCode v.remembered c) v.placed (hasStrobe c)).settle w (t + p - 8192)
  s1.modPl w fun x => { x with remembered := rememberAfter v.remembered c, placed := x.placed + 1 }

/-- A vector's strobe, when its code has one (R162, R201, R240): `b` holds what its verdict will need. -/
def State.placeStrobe (s : State) (w t p ts : Nat) (b : Strobe) : State :=
  if hasStrobe b.code.toNat then
    let x := s.strobeTimes w t p ts
    let s1 := s.modCp w fun c => { c with strobes := c.strobes ++ [{ b with close := max x.1.2 x.2.1.2, edge := x.2.2 }] }
    if b.code = 0xD && (s.st w).isArmed t && s.stpTs w then
      s1.modSt w fun v => { v with ts := v.ts ++
        [{ openH := x.1.1, closeH := x.1.2, openL := x.2.1.1, closeL := x.2.1.2, vec := b.vec, tv := b.tv, seen := false }] }
    else s1
  else s

/-! Marks. -/

/-- One sequencer mark, as a record and as an occurrence for the trigger engine: SUB 0 segment start, 1 iteration (R73, R94, R222,
R248). -/
def State.seqMark (s : State) (w sub t : Nat) : State :=
  let q := s.sq w
  let r := s.winRec w 4 sub 0x13 t (pack [(0, 20, (dShelf q.cur).toNat), (20, 12, dMarkCode q.cur), (32, 32, q.play)])
  (s.queueRec w r).engOccur w 0xC sub (dMarkCode q.cur) t 2048

/-- The mark that the play's first vector owes, if its descriptor asks for it (R73, R94). -/
def State.dueMark (s : State) (w t : Nat) : State :=
  let q := s.sq w
  let s1 := s.modSq w fun q => { q with markDue := 0 }
  if q.markDue = 1 && dMarkStart q.cur then s1.seqMark w 0 t
  else if q.markDue = 2 && dMarkIter q.cur then s1.seqMark w 1 t
  else s1

/-! Invalid codes (R60). -/

/-- PERR and the detection of an invalid code: shelfmark, pass number, offset. -/
def State.invalidCode (s : State) (w : Nat) (sh : Shelf) (pass ofs t : Nat) : State :=
  ((s.modPl w fun p => { p with perrCode := 6, perrCount := satInc 255 p.perrCount, perrShelf := sh, perrSeq := p.perrSeq + 1 }).bumpSeq
    (winPage w 1)).raiseAt (chSrc (s.slotOf w) 1) 2 2 sh (Config.invalidVecValue pass ofs) t

/-- A program vector with an invalid code: reported the first time in a pass of the segment, counted in that record later. -/
def State.invalidVec (s : State) (w t : Nat) : State :=
  let q := s.sq w
  match q.invalid with
  | none => (s.modSq w fun q => { q with invalid := some t }).invalidCode w (dShelf q.cur) q.play q.ofs t
  | some t0 => s.sendMore (chSrc (s.slotOf w) 1) t0 1

/-- The same in the holding pattern. -/
def State.invalidHold (s : State) (w t : Nat) : State :=
  let h := s.ho w
  match h.invalid with
  | none => (s.modHo w fun h => { h with invalid := some t }).invalidCode w (dShelf (s.sq w).hold0) h.pass h.ofs t
  | some t0 => s.sendMore (chSrc (s.slotOf w) 1) t0 1

/-! The holding pattern. -/

/-- Length of the holding pattern in output vectors, H (R139). -/
def SeqSt.holdLen (q : SeqSt) : Nat := dOut q.hold0

/-- The vector at an offset is the first to play from its word and lane unit, which are read then (R61, R62, R74). -/
def firstOfWord (d : RawDesc) (ofs : Nat) : Bool := decide (ofs = 0) || decide (dInput d ofs / 16 ≠ dInput d (ofs - 1) / 16)

/-- One holding vector at `t`, read from the window's holding area; the vectors of a word with an uncorrectable error play as DK, and the lane
values of such a unit read 0 (R29, R40, R80, R81, R139, R272). -/
def State.holdVector (s : State) (w t : Nat) (ecc laneEcc : Ecc) : State :=
  let h := s.ho w
  let d := (s.sq w).hold0
  let i := dInput d h.ofs
  let a := holdArea w + 8 * (i / 16)
  let la := holdArea w + 0x2000 + 4 * (i / 16)
  let first := firstOfWord d h.ofs
  let bad := if first then (decide (ecc = .bad), decide (laneEcc = .bad)) else h.bad
  let code := if bad.1 then 3 else bits (Memory.num s.wsMem a 8) (4 * (i % 16)) 4
  let lane := if dLaneEn d && !bad.2 then bits (Memory.num s.wsMem la 4) (2 * (i % 16)) 2 else 0
  let masked := hasStrobe code || isInvalid code
  let s0 := if first then s.eccBankSeen ecc a 0 else s
  let s1 := if first && dLaneEn d then s0.eccBankSeen laneEcc (la / 8 * 8) 0 else s0
  let s2 := if isInvalid code then s1.invalidHold w t else s1
  let s3 := s2.driveVector w t h.period (dTset d lane) (if masked then 8 else code)
  s3.modHo w fun h => { h with bad := bad, ofs := h.ofs + 1, nextT := t + h.period, vecs := h.vecs + 1, held := h.held + 1 }

/-- The cause of an underrun at this instant (R138). DESIGN CHOICE (log 115): a negative headroom reading goes before a broken stream. -/
def State.underrunCause (s : State) (w : Nat) : Nat :=
  if (s.clu (cluOf w)).headroom < 0 && (s.clu (cluOf w)).hrValid then 2 else if (s.ik w).broken ≠ 0 then 3 else 1

/-- A stream breaks: cause, shelfmark; SLU.STAT, SLU.ERR and STREAM_BROKEN (R132). DESIGN CHOICE (log 140): what has been requested or has arrived and
is not committed yet is discarded, that of earlier descriptors too; R132 speaks of committed data alone. -/
def State.breakStream (s : State) (w cause : Nat) (sh : Shelf) : State :=
  (s.modIk w fun k => { k with
    broken := cause, errCause := cause, errShelf := sh, errSeq := k.expect, bufs := [], bytes := [],
    reqs := k.reqs.map (fun q => { q with dead := true }) }).raiseSeg
    w 2 2 2 sh s.t

/-- A STREAM segment is due and the next data of the streaming ring carries another shelfmark: the stream breaks (R124). -/
def State.streamMismatch (s : State) (w : Nat) : State :=
  let d := (s.sq w).cur
  let b := (s.sl w).buf .path
  if dStream d && b.lo + b.slices.length < dSlices d && (s.ik w).broken = 0 then
    match (s.sl w).ring with
    | x :: _ => if x.shelf = dShelf d then s else s.breakStream w 2 (dShelf d)
    | [] => s
  else s

/-- The due vector is missing: the holding pattern starts at that instant with its vector 0, at the period in force then (R138, R139). -/
def State.underrun (s : State) (w t : Nat) (ecc laneEcc : Ecc) : State :=
  let s0 := s.streamMismatch w
  let p := s.pl w
  let s1 := s0.modHo w fun h => { h with
    on := true, at_ := t, period := periodOf (s.activeView w) p.entry p.n, nextT := t, ofs := 0, pass := 1, last := false, resumeAt := none, vecs := 0, invalid := none,
    shelf := dShelf (s.sq w).cur, cause := s0.underrunCause w, policy := 3, underruns := satInc 65535 h.underruns }
  let s2 := (s1.raiseSeg w 2 0 2 (dShelf (s.sq w).cur) t).engOccur w 0xD 2 0 t 2048
  s2.holdVector w t ecc laneEcc

/-- The GAP record of an underrun (R144, R223); policy 3 when none was applied. -/
def State.underrunGap (s : State) (w policy : Nat) : State :=
  let h := s.ho w
  let q := s.sq w
  s.queueRec w (s.winRec w 5 1 0x19 h.at_ (pack [(0, 32, q.ofs), (32, 32, q.play), (64, 20, h.shelf.toNat), (84, 2, h.cause),
    (86, 2, policy), (88, 40, h.vecs)]))

/-- The pin leaves the holding pattern at `t` (R140, R142, R144). -/
def State.leaveHold (s : State) (w policy t : Nat) : State :=
  ((s.underrunGap w policy).modHo w fun h => { h with on := false, policy := policy, last := false, resumeAt := none }).engOccur
    w 0xD 3 0 t 2048

/-! The program's vectors. -/

/-- The slice that holds the due vector, if the Sluice has it; one pushed at this very instant is not seen yet (R113). -/
def State.slicePresent (s : State) (w : Nat) : Option Slice :=
  let b := (s.sl w).buf .path
  let i := (s.sq w).dueSlice
  let seen := b.slices.length - movedNow (s.sl w).pushNow s.now
  if i < b.lo || b.lo + seen ≤ i || !s.bankOn (cluOf w) then none else b.slices[i - b.lo]?

/-- Slices before the vector due next leave the Sluice (R118); a push of this instant does not see the room they leave (R113). -/
def State.dropPlayed (s : State) (w : Nat) : State :=
  let q := s.sq w
  (s.modSl w fun x =>
    let b := x.buf .path
    let lo := if q.ofs < dOut q.cur then max b.lo q.dueSlice else max b.lo (min (dSlices q.cur) (b.lo + b.slices.length))
    { x with
      bufs := roleSet .path { lo := lo, slices := b.slices.drop (lo - b.lo) } x.bufs
      playNow := if lo = b.lo then x.playNow else noteMove x.playNow s.now ((lo - b.lo) * dSliceBytes q.cur) }).fillIndicate w

/-- A word of the Sluice read by the output reader: what error correction found is reported. Where the word lies in the cluster's bank is not
stated, so its offset there is a free value (R271, log 5). -/
def State.sluiceRead (s : State) (w : Nat) (ecc : Ecc) : State :=
  if ecc = .clean then s
  else
    let v := s.draw
    v.2.eccBankSeen ecc (bankBase (cluOf w) + v.1.toNat % 0x40000 * 8) 0

/-- The slice that the first of its vectors takes from the Sluice: an uncorrectable vector word plays as DK, an uncorrectable lane unit reads 0,
those of an alternate stream alike (R272). -/
def State.readDue (s : State) (w : Nat) (x : Slice) (ecc laneEcc : Ecc) : Slice × State :=
  if firstOfWord (s.sq w).cur (s.sq w).ofs then
    let y := x.spoil (ecc = .bad) (laneEcc = .bad)
    let i := (s.sq w).dueSlice
    let s1 := (s.sluiceRead w ecc).sluiceRead w (if dLaneEn (s.sq w).cur then laneEcc else .clean)
    (y, s1.modSl w fun l =>
      let b := l.buf .path
      { l with bufs := roleSet .path { b with slices := b.slices.set (i - b.lo) y } l.bufs })
  else (x, s)

/-- A program or landing vector plays at `t` from a slice (R59, R60, R108, R149, R150, R163). -/
def State.programVector (s : State) (w t : Nat) (x : Slice) : State :=
  let q := s.sq w
  let pl := s.pl w
  let d := q.cur
  let i := dInput d q.ofs
  let alt := dKind d = 7 && s.condHolds w d t
  let raw := x.code alt i
  let code := if isInvalid raw || (dCadMask d && dRepeat d q.ofs && hasStrobe raw) then 8 else raw
  let ts := dTset d (x.laneOf alt i)
  let p := periodOf (s.activeView w) pl.entry pl.n
  let s1 := s.dueMark w t
  let s2 := if isInvalid raw then s1.invalidVec w t else s1
  let s3 := s2.driveVector w t p ts code
  let s4 := s3.placeStrobe w t p ts
    { close := 0, code := BitVec.ofNat 4 code, tv := t, vec := pl.vectors, shelf := dShelf d, ofs := q.ofs, alt := alt,
      redact := decide (dKeyId d ≠ 0) && !dDisclose d, playId := q.playId, counts := decide (q.ofs + 97 ≤ dOut d), edge := false }
  let s5 := s4.modPl w fun v => { v with
    nextT := t + p, lastT := t, period := p, vectors := v.vectors + 1, n := v.n + 1,
    decT := if q.ofs + 64 = dOut d then t else v.decT, t64 := if q.ofs % 64 = 0 then t else v.t64,
    entry0 := if q.ofs = 0 then pl.entry else v.entry0, n0 := if q.ofs = 0 then pl.n else v.n0 }
  (s5.modSq w fun q => { q.markStop q.ofs t with ofs := q.ofs + 1 }).dropPlayed w

/-- The vector due next starts, or the pin underruns (R138, R149). Nothing happens when none is due: the window plays nothing,
the time has not come, or a decision, a boundary or a staged change comes first. -/
def State.startVector (s : State) (w : Nat) (ecc laneEcc : Ecc) : State :=
  let q := s.sq w
  let h := s.ho w
  if !s.running w || !(s.pl w).begun then s
  else if h.on then
    let len := q.holdLen
    if s.t < h.nextT || len ≤ h.ofs || (h.ofs + 63 = len && h.resumeAt.isNone) then s else s.holdVector w h.nextT ecc laneEcc
  else if s.t < (s.pl w).nextT || q.playEnd ≤ q.ofs || q.owesDecision || s.stageDue w then s
  else match s.slicePresent w with
    | some x =>
      let r := s.readDue w x ecc laneEcc
      r.2.programVector w (s.pl w).nextT r.1
    | none => s.underrun w (s.pl w).nextT ecc laneEcc

end Sys2Proof.Machine
end

