-- ==== Sys2Proof/Machine/HostWrite.lean ====
section
/-!
DEFINITION. Sys2Proof/Machine/HostWrite.lean: when a host write takes effect (R341, R370, R374, R382, R385), and the results of
mode commands (R53, R372).
-/

namespace Sys2Proof.Machine

/-- Stream numbers of BAR 2 and BAR 4 among the pages (R341). -/
def bar2Stream : Nat := 8192
def bar4Stream : Nat := 8193

/-- A reset of page `target` affects page `p` (R365, R369). -/
def resetCovers (target p : Nat) : Bool :=
  if 0x1000 ≤ target && target < 0x2000 then (if target % 16 = 0 then decide (p / 16 = target / 16) else decide (p = target))
  else if 0x10 ≤ target then
    decide (p = target) || (decide (0x1000 ≤ p) && decide (p < 0x1880) && decide (cluOf ((p - 0x1000) / 16) = target - 0x10))
  else decide (p = target)

/-- A reset in progress affects the page (R370). -/
def State.pageHeld (s : State) (p : Nat) : Bool := s.dev.resets.any fun r => resetCovers r p

/-- A commit waits to take effect (R374). -/
def State.committing (s : State) : Bool := s.held.any fun h => decide (h = .commit)

/-- A host write of a page takes effect now, is held behind a commit or a reset, or is dropped and counted: before a device reset
has returned the registers (R370), and before SERVICEABLE on every page but PWR (R382). `h` is what it is held as. -/
def State.hostHeldWrite (s : State) (page : Nat) (h : Held) (act : State → State) : State :=
  if s.dev.regPhase && page < 8192 then s.modDev fun d => { d with dropped := satInc 65535 d.dropped }
  else if s.dev.bringup ≠ 5 && page ≠ 1 then s.modDev fun d => { d with buDropped := satInc 65535 d.buDropped }
  else if s.committing || s.pageHeld page then { s with held := s.held ++ [h] }
  else act s

/-- A write that is no mode command though it reaches a mode register (CMD 0, an empty MASK): before SERVICEABLE it is dropped and counted (R370,
R382), later it has no effect. -/
def State.earlyLost (s : State) : State :=
  if s.dev.regPhase then s.modDev fun d => { d with dropped := satInc 65535 d.dropped }
  else if s.dev.bringup ≠ 5 then s.modDev fun d => { d with buDropped := satInc 65535 d.buDropped }
  else s

/-- A host write that is held as the command it is. -/
def State.hostWrite (s : State) (page : Nat) (i : Instr) (act : State → State) : State := s.hostHeldWrite page (.write page i) act

/-- CTL.CMD_RESULT of window `w` takes a finished mode command (R53, R372). -/
def State.modeDone (s : State) (w cmd : Nat) (tag : Byte) (outcome reason : Nat) : State :=
  (s.modMd w fun m => { m with
    tag := tag, cmd := cmd, oversub := false, late := false, cancelled := false,
    res := { m.res.done outcome reason with valid := m.trans.all fun x => decide (x.swOp ≠ 0) } }).bumpSeq (winPage w 0)

/-- A mode command refused on arrival, with CMD_REFUSED (R53). -/
def State.modeRefuse (s : State) (w cmd : Nat) (tag : Byte) (reason : Nat) : State :=
  (s.modeDone w cmd tag 2 reason).raiseCh w 0 0 0

/-- A reset of the window's CTL, SEQ, SLU, TIM or TSET page, of the window or of its cluster is in progress (R55). -/
def State.modeHeld (s : State) (w : Nat) : Bool := (List.range 5).any fun q => s.pageHeld (winPage w q)

/-- A mode command arrives: dropped while a device reset returns the registers (R370), refused NOT_SERVICEABLE before SERVICEABLE (R57),
held behind a commit (R341), refused BUSY during a reset that affects the window's mode (R55), or judged. -/
def State.modeWrite (s : State) (w cmd : Nat) (tag : Byte) (i : Instr) (act : State → State) : State :=
  if s.dev.regPhase then s.modDev fun d => { d with dropped := satInc 65535 d.dropped }
  else if s.dev.bringup ≠ 5 then s.modeRefuse w cmd tag 3
  else if s.committing then { s with held := s.held ++ [.write (winPage w 0) i] }
  else if s.modeHeld w then s.modeRefuse w cmd tag 2
  else act s

end Sys2Proof.Machine
end

