-- ==== Sys2Proof/Machine/Capture.lean ====
section
/-!
DEFINITION. Sys2Proof/Machine/Capture.lean: verdicts and captures (R197 to R202), the fail area's bitmap and log (R203 to R209),
FAIL records (R210, R219, R225), the verdict return crossing (R26).
-/

namespace Sys2Proof.Machine

/-! Verdicts. Level codes: 0 MID, 1 BELOW, 2 ABOVE, 3 SPLIT (R180). -/

/-- The level code satisfies the compare code, given the ET reference (R198, R200): 0 NONE, 1 BELOW, 2 ABOVE. -/
def levelPasses (code ref lvl : Nat) : Bool :=
  match code with
  | 4 => lvl = 1
  | 5 => lvl = 2
  | 6 => lvl = 0
  | 7 => lvl = 1 || lvl = 2
  | _ => if ref = 1 then lvl = 2 else if ref = 2 then lvl = 1 else lvl = 1 || lvl = 2

/-- What a strobe saw: the level codes of its window in order, or the one of an edge strobe. -/
def seen (edge : Bool) (levels : List (BitVec 2)) (final : BitVec 2) : List Nat :=
  if edge || levels.isEmpty then [final.toNat] else levels.map (·.toNat)

/-- Received code of a vector (R199): the first level that broke the condition, else the final code. -/
def received (code ref final : Nat) (lv : List Nat) : Nat := (lv.find? fun l => !levelPasses code ref l).getD final

/-- More than one level code occurred in the window (R199). -/
def changed (lv : List Nat) : Bool := decide (1 < lv.eraseDups.length)

/-- The ET reference after a compared or captured vector (R200). -/
def refAfter (ref final : Nat) : Nat := if final = 1 then 1 else if final = 2 then 2 else ref

/-! The fail area. -/

/-- Bits the bitmap region holds (R204). -/
def State.bitmapCap (s : State) (w : Nat) : Nat := bits (s.wreg w 7 0x044) 0 7 * 8388608
/-- Base of the log region and entries it holds (R203, R208). -/
def State.logBase (s : State) (w : Nat) : Nat := failArea w + bits (s.wreg w 7 0x044) 0 7 * 0x100000
def State.logCap (s : State) (w : Nat) : Nat := bits (s.wreg w 7 0x044) 8 7 * 65536

/-- One verdict goes into the bitmap (R204); the region's last bit raises BITMAP_FULL. DEDUCED (log 52): in a region of 0 MiB the first
verdict does. -/
def State.bitmapPut (s : State) (w : Nat) (fail : Bool) : State :=
  let c := s.cp w
  if !c.cfg.getLsbD 0 || c.bitmapFull then s
  else if s.bitmapCap w = 0 then (s.modCp w fun c => { c with bitmapFull := true }).raiseCh w 6 2 0
  else
    let word := putBit c.word (c.bits % 64) fail
    let s1 := if c.bits % 64 = 63 then
        (s.setStack (Memory.store s.stackMem (failArea w + 8 * (c.bits / 64)) (bytesOf word.toNat 8))).modCp w fun c =>
          { c with word := 0, words := c.words + 1, bits := c.bits + 1 }
      else s.modCp w fun c => { c with word := word, bits := c.bits + 1 }
    if s.bitmapCap w ≤ c.bits + 1 then (s1.modCp w fun c => { c with bitmapFull := true }).raiseCh w 6 2 0 else s1

/-- A LOST entry of the log (R205). -/
def lostEntry (n : Nat) : BitVec 128 := BitVec.ofNat 128 (pack [(0, 32, min (2 ^ 32 - 1) n), (62, 2, 2)])

/-- Store entry number `i` of the log region. -/
def State.storeEntry (s : State) (w i : Nat) (e : BitVec 128) : State :=
  s.setStack (Memory.store s.stackMem (s.logBase w + 16 * i) (bytesOf e.toNat 16))

/-- The log region has room for one entry only: a LOST entry goes there and logging stops (R208). -/
def State.logFill (s : State) (w : Nat) : State :=
  let c := s.cp w
  if c.logFull || c.logEnt + 1 < s.logCap w then s
  else
    let s1 := if c.logEnt < s.logCap w then
        (s.storeEntry w c.logEnt (lostEntry c.logLoss)).modCp w fun c => { c with logEnt := c.logEnt + 1 }
      else s
    (s1.modCp w fun c => { c with logFull := true, logFullCnt := some c.logLoss, logLoss := 0 }).raiseCh w 6 3 0

/-- An entry of the log buffer that the full log region cannot take: a LOST entry stands for the losses it counts, which MON.LOSS.LOG holds
already (R207, R208). -/
def State.logRefused (s : State) (w : Nat) (e : BitVec 128) : State :=
  if bits e.toNat 62 2 = 2 then
    s.modCp w fun c => { c with logFullCnt := some (satAdd (2 ^ 32 - 1) (c.logFullCnt.getD 0) (bits e.toNat 0 32)) }
  else
    (s.modCp w fun c => { c with logFullCnt := some (c.logFullCnt.getD 0 + 1) }).modMn w fun m => { m with lostL := satInc (2 ^ 32 - 1) m.lostL }

/-- An entry that the full log region cannot take is counted (R208). -/
def State.logUnwritten (s : State) (w : Nat) : State :=
  (s.modCp w fun c => { c with logFullCnt := some (c.logFullCnt.getD 0 + 1) }).modMn w fun m => { m with lostL := satInc (2 ^ 32 - 1) m.lostL }

/-- The log buffer's oldest entry drains into the stack (R207), once that is ACTIVE (R388). -/
def State.drainLog (s : State) (w : Nat) : State :=
  match (if s.stackOn (w / 64 % 2) then (s.cp w).logBuf else []) with
  | [] => s
  | e :: rest =>
    let s1 := s.modCp w fun c => { c with logBuf := rest }
    let s2 := s1.logFill w
    if (s2.cp w).logFull then s2.logRefused w e
    else ((s2.storeEntry w (s2.cp w).logEnt e).modCp w fun c => { c with logEnt := c.logEnt + 1 }).logFill w

/-- A FAIL entry enters the log buffer, after a LOST entry for earlier losses and a TIME entry where one is needed; one that finds
no place is lost and counted (R205 to R207). -/
def State.logEntry (s : State) (w : Nat) (b : Strobe) (e : BitVec 128) : State :=
  let c := s.cp w
  if c.logFull then s.logUnwritten w
  else
    let key := (epochOf b.tv, gtOf b.tv / 2 ^ 32, b.vec / 2 ^ 32)
    let time : List (BitVec 128) := if c.logTime = some key then []
      else [BitVec.ofNat 128 (pack [(0, 16, epochOf b.tv), (16, 16, b.vec / 2 ^ 32), (62, 2, 1), (64, 32, gtOf b.tv / 2 ^ 32)])]
    let all := (if c.logLoss = 0 then [] else [lostEntry c.logLoss]) ++ time ++ [e]
    if c.logBuf.length + all.length ≤ 1023 then
      s.modCp w fun c => { c with logBuf := c.logBuf ++ all, logLoss := 0, logTime := some key }
    else
      ((s.modCp w fun c => { c with logLoss := c.logLoss + 1, logLost := true }).modMn w fun m =>
        { m with lostL := satInc (2 ^ 32 - 1) m.lostL }).raiseCh w 6 4 2

/-- A FAIL record goes to the pin record queue, or is withheld by HVS_LIMIT (R210). -/
def State.failRecord (s : State) (w : Nat) (r : Rec) : State :=
  let limit := bits (s.cp w).cfg.toNat 8 24
  if limit ≠ 0 && limit ≤ (s.mn w).sent then s.modMn w fun m => { m with withheld := satInc (2 ^ 32 - 1) m.withheld }
  else (s.modMn w fun m => { m with sent := satInc (2 ^ 32 - 1) m.sent }).queueRec w r

/-- The log entry and the FAIL record of a failing or captured vector, as the configuration asks (R205, R210, R219, R225). -/
def State.reportVector (s : State) (w : Nat) (b : Strobe) (cap : Bool) (rcv : Nat) (chg noref : Bool) : State :=
  let exp := if b.redact then 0xE else b.code.toNat
  let cfg := (s.cp w).cfg
  let e := BitVec.ofNat 128 (pack [(0, 32, b.ofs), (32, 20, b.shelf.toNat), (52, 4, exp), (56, 2, rcv), (58, 1, b2n b.alt), (59, 1, b2n cap),
    (60, 1, b2n chg), (61, 1, b2n b.redact), (64, 32, b.vec), (96, 32, gtOf b.tv)])
  let r := s.winRec w 1 0 0x10 b.tv (pack [(0, 48, b.vec), (48, 4, exp), (52, 2, rcv), (54, 1, b2n b.alt), (55, 1, b2n cap), (56, 1, b2n chg),
    (57, 1, b2n b.redact), (58, 1, b2n noref), (64, 20, b.shelf.toNat), (96, 32, b.ofs)])
  let s1 := if cfg.getLsbD 1 && (!cap || cfg.getLsbD 2) then s.logEntry w b e else s
  if cfg.getLsbD (if cap then 4 else 3) then s1.failRecord w r else s1

/-! Counters and decisions of one vector. -/

/-- Index of a compare code in MON.FAIL_CODE. -/
def codeIndex (code : Nat) : Nat := match code with | 4 => 0 | 5 => 1 | 6 => 2 | 7 => 3 | _ => 4

/-- A counted vector's failing or lost verdict marks its play (R92). -/
def State.failPlay (s : State) (w : Nat) (b : Strobe) : State :=
  s.modSq w fun q => if b.counts && q.playId = b.playId then { q with playFail := true } else q

/-- The counters take a verdict (R202). -/
def State.countVerdict (s : State) (w : Nat) (b : Strobe) (fail : Bool) : State :=
  let s1 := s.modMn w fun m => { m with compared := (m.compared + 1) % 2 ^ 48 }
  if fail then
    let i := if b.redact then 5 else codeIndex b.code.toNat
    let first := (s.mn w).first.isNone
    let s2 := s1.modMn w fun m => { m with
      failed := (m.failed + 1) % 2 ^ 48, codes := Tab.set 0 m.codes i (satInc (2 ^ 32 - 1) (Tab.get 0 m.codes i)),
      first := if first then some (b.vec, b.tv, b.ofs, b.shelf) else m.first }
    if first then s2.raiseCh w 6 0 0 else s2
  else s1

/-- ABOVE, BELOW and MID follow the final code, at the decision instant (R107). -/
def State.levelSignals (s : State) (w final t : Nat) : State :=
  ((s.signalTakes w 2 (final = 2) t).signalTakes w 3 (final = 1) t).signalTakes w 4 (final = 0) t

/-- A compared vector's strobe closes: the ET reference and the decision signals follow at that instant (R107, R200). A verdict that finds the crossing
full is lost, and reaches no trigger engine; its play does not pass (R26, R92, R248). -/
def State.verdict (s : State) (w : Nat) (b : Strobe) (lv : List Nat) (final : Nat) : Judged × State :=
  let ref := (s.pl w).etRef
  let code := b.code.toNat
  let fail := lv.any fun l => !levelPasses code ref l
  let lost := decide (512 ≤ (s.cp w).xing)
  let j : Judged := { lost := lost, fail := fail, rcv := received code ref final lv, final := final, chg := changed lv, noref := code = 0xC && ref = 0 }
  let s0 := s.modPl w fun p => { p with etRef := refAfter p.etRef final }
  let s1 := ((s0.signalTakes w 0 fail b.close).signalTakes w 1 (!fail) b.close).levelSignals w final b.close
  let s2 := if lost || fail then s1.failPlay w b else s1
  (j, if lost then s2.raiseCh w 6 1 2
      else ((s2.modCp w fun c => { c with xing := c.xing + 1 }).engOccur w (if fail then 2 else 3) 0 0 b.close 2048).engOccur w 4 final 0 b.close 2048)

/-- A captured vector's strobe closes (R107, R199, R200). -/
def State.capture (s : State) (w : Nat) (b : Strobe) (lv : List Nat) (final : Nat) : Judged × State :=
  let s0 := s.modPl w fun p => { p with etRef := refAfter p.etRef final }
  ({ lost := false, fail := false, rcv := final, final := final, chg := changed lv, noref := false },
    (s0.levelSignals w final b.close).engOccur w 4 final 0 b.close 2048)

/-- The GAP record of verdicts lost goes to the pin record queue (R26, R223). -/
def State.lossRecord (s : State) (w : Nat) : State :=
  match (s.cp w).lost with
  | none => s
  | some (n, t, v) =>
    (s.queueRec w (s.winRec w 5 2 0x1A t (pack [(0, 32, min (2 ^ 32 - 1) n), (32, 48, v)]))).modCp w fun c => { c with lost := none }

/-- What a vector's close has formed is counted and reported, vector after vector (R202, R204, R205, R210): a lost verdict is counted and its bitmap bit
reads 1; one that was not lost found room, so that the GAP record of earlier losses goes before it (R26, R212). -/
def State.report (s : State) (w : Nat) (b : Strobe) (j : Judged) : State :=
  if b.code = 9 then
    (s.modMn w fun m => { m with hist := Tab.set 0 m.hist j.final (satInc (2 ^ 32 - 1) (Tab.get 0 m.hist j.final)) }).reportVector
      w b true j.final j.chg false
  else if j.lost then
    let s1 := s.modCp w fun c => { c with lost := match c.lost with | none => some (1, b.tv, b.vec) | some (n, t, v) => some (n + 1, t, v) }
    (s1.modMn w fun m => { m with lostV := satInc (2 ^ 32 - 1) m.lostV }).bitmapPut w true
  else
    let s1 := ((s.lossRecord w).countVerdict w b j.fail).bitmapPut w j.fail
    if j.fail then s1.reportVector w b false j.rcv j.chg j.noref else s1

/-- The window of a TS vector closes: one that took no edge is counted (R240). -/
def State.tsClose (s : State) (w : Nat) (b : Strobe) : State :=
  s.modSt w fun x =>
    if x.ts.any (fun v => v.vec = b.vec && v.tv = b.tv) then
      { x with ts := x.ts.filter (fun v => !(v.vec = b.vec && v.tv = b.tv)), tsEmpty := satInc (2 ^ 32 - 1) x.tsEmpty }
    else x

/-- The burst's capture ends: the last partial bitmap word and the LOST entries are written (R204, R207, R208). -/
def State.finishCapture (s : State) (w : Nat) : State :=
  let c := s.cp w
  if (s.sq w).loaded || !c.strobes.isEmpty || c.flushed then s
  else
    let s1 := if c.bits % 64 ≠ 0 && !c.bitmapFull then
        (s.setStack (Memory.store s.stackMem (failArea w + 8 * (c.bits / 64)) (bytesOf c.word.toNat 8))).modCp w fun c =>
          { c with word := 0, words := c.words + 1, bits := (c.bits / 64 + 1) * 64 }
      else s
    match c.logFullCnt with
    | some n => if 0 < s.logCap w then s1.storeEntry w (s.logCap w - 1) (lostEntry n) else s1
    | none => if c.logLoss = 0 then s1 else s1.modCp w fun c => { c with logBuf := c.logBuf ++ [lostEntry c.logLoss], logLoss := 0 }

/-- The open strobe that closes first, the earlier vector where two close together. -/
def firstClose (l : List Strobe) : Option Strobe :=
  l.foldl (fun m b => match m with
    | none => if b.done.isNone then some b else none
    | some a => if b.done.isNone && b.close < a.close then some b else some a) none

/-- It is the strobe of the same vector of the same burst. -/
def Strobe.same (a b : Strobe) : Bool := decide (a.vec = b.vec) && decide (a.tv = b.tv)

/-- The closed strobes that no earlier vector's open one holds up, and the rest; the strobes of TS vectors hold up none. -/
def splitDone : List Strobe → List Strobe × List Strobe
  | [] => ([], [])
  | b :: r =>
    if b.code = 0xD then ((splitDone r).1, b :: (splitDone r).2)
    else if b.done.isSome then (b :: (splitDone r).1, (splitDone r).2)
    else ([], b :: r)

/-- Closed strobes are counted and reported in vector order, as far as no earlier one is open (R204, R205). -/
def State.reportDone (s : State) (w : Nat) : State :=
  let p := splitDone (s.cp w).strobes
  (s.modCp w fun c => { c with strobes := p.2 }).each p.1 fun s b => match b.done with | some j => s.report w b j | none => s

/-- The open strobe that closes first closes, once that is past (R107, R162, R198, R201): `levels` is what its window saw, `final` its final code,
`drained` how many verdicts have left the crossing since the strobe before. DEDUCED (log 83): decisions, signals and the ET reference follow the
closes, the counters, the bitmap, the log and the records the vectors. -/
def State.closeStrobe (s : State) (w : Nat) (levels : List (BitVec 2)) (final : BitVec 2) (drained : Nat) : State :=
  match firstClose (s.cp w).strobes with
  | none => s
  | some b =>
    if s.t < b.close then s
    else
      let s1 := s.modCp w fun c => { c with xing := c.xing - drained }
      let lv := seen b.edge levels final
      if b.code = 0xD then
        ((s1.tsClose w b).modCp w fun c => { c with strobes := c.strobes.filter fun x => !x.same b }).finishCapture w
      else
        let p := if isVerdict b.code.toNat then s1.verdict w b lv final.toNat else s1.capture w b lv final.toNat
        ((p.2.modCp w fun c => { c with
          strobes := c.strobes.map fun x => if x.same b then { x with done := some p.1 } else x }).reportDone w).finishCapture w

/-- The GAP record of the verdicts lost, when the crossing has room (R26, R223). -/
def State.verdictGap (s : State) (w : Nat) : State :=
  if (s.cp w).lost.isNone then s else (s.lossRecord w).modCp w fun c => { c with xing := min c.xing 511 }

/-- Everything of the burst is in the stack: FLUSHED (R209). Writes wait for a stack that is not ACTIVE (R388). -/
def State.flushCapture (s : State) (w : Nat) : State :=
  let s1 := s.finishCapture w
  let c := s1.cp w
  if (s1.sq w).loaded || !c.strobes.isEmpty || !c.logBuf.isEmpty || !s.stackOn (w / 64 % 2) then s1 else s1.modCp w fun c => { c with flushed := true }

/-- Acceptance of an ARM opens a new burst's capture; open strobes of TS vectors still close (R202, R204, R205, R209, R210, R240). DEDUCED (log 52): a log region of 0
MiB is full at once. -/
def State.openCapture (s : State) (w : Nat) : State :=
  let s1 := s.modWin w fun x => { x with
    mn := {}
    cp := { x.cp with
      cfg := BitVec.ofNat 32 (s.wreg w 7 0x040), strobes := x.cp.strobes.filter (fun b => b.code = 0xD), bits := 0, word := 0, words := 0, logEnt := 0, logBuf := [],
      logLoss := 0, logTime := none, logFullCnt := none, bitmapFull := false, logFull := false, logLost := false, flushed := false } }
  if bit (s.wreg w 7 0x040) 1 && s.logCap w = 0 then s1.logFill w else s1

/-! Meanings. -/

def execStrobeClose (dt : Nat) (w : WinId) (levels : List (BitVec 2)) (final : BitVec 2) (drained : Nat) (s : State) :
    Host.Outcome State Fault Refusal := .next ((s.advance dt).closeStrobe w levels final drained)
def execVerdictGapWrite (dt : Nat) (w : WinId) (s : State) : Host.Outcome State Fault Refusal := .next ((s.advance dt).verdictGap w)
def execQueueDropGap (dt : Nat) (w : WinId) (s : State) : Host.Outcome State Fault Refusal := .next ((s.advance dt).queueGap w)
def execCaptureFlushed (dt : Nat) (w : WinId) (s : State) : Host.Outcome State Fault Refusal := .next ((s.advance dt).flushCapture w)
def execLogBufferDrain (dt : Nat) (w : WinId) (s : State) : Host.Outcome State Fault Refusal := .next ((s.advance dt).drainLog w)

end Sys2Proof.Machine
end

