-- ==== Sys2Proof/Machine/Sequencer.lean ====
section
/-!
DEFINITION. Sys2Proof/Machine/Sequencer.lean: the sequencer: fetches (R83, R95, R96), decision points (R89 to R92), boundaries
(R88, R90, R93, R94), staged changes taking effect (R165, R166), stops and landings (R49, R103, R104), the holding pattern's
resume points and pass ends (R139 to R143), jump commands (R97 to R99), host flags (R72), fabric rows (R106, R107).
-/

namespace Sys2Proof.Machine

/-! Fetches. -/

/-- The shelfmark of a successor of the current segment by role (R69, R91). -/
def SeqSt.succOf (q : SeqSt) (r : Role) : Option Shelf :=
  let k := dKind q.cur
  match r with
  | .next => if dNext q.cur = nullShelf then none else some (dNext q.cur)
  | .alt => if (k = 2 || k = 3 || k = 4) && dAlt q.cur ≠ nullShelf then some (dAlt q.cur) else none
  | .ret => if k = 6 then q.stack.head? else none
  | _ => none

/-- The role is the NEXT of a PLAY, by which alone a running program reaches a STREAM segment (R78). -/
def SeqSt.nextOfPlay (q : SeqSt) (r : Role) : Bool := decide (r = .next) && dKind q.cur = 1

/-- A jump-target slot whose head may be fetched (R98). -/
def State.slotOpen (s : State) (w : Nat) (k : BitVec 2) : Bool :=
  (s.sq w).loaded && s.jumpEn w k.toNat && !(s.sq w).jrej.getLsbD k.toNat && !(s.sq w).jready.getLsbD k.toNat

/-- The shelfmark a role names, if a descriptor is to be fetched for it. -/
def State.roleShelf (s : State) (w : Nat) (r : Role) : Option Shelf :=
  match r with
  | .jump k => if s.slotOpen w k then some (s.jumpShelf w k.toNat) else none
  | r => if (s.sq w).loaded then (s.sq w).succOf r else none

/-- Once the one program successor has been fetched: the descriptor after the last one fetched ahead, when that one is short, has one program
successor itself and is whole (R96). One that fails its checks is not held ahead: it is fetched again as a successor (R83). -/
def State.fetchChain (s : State) (w : Nat) (ecc : Ecc) : State :=
  match s.chainEnd w with
  | none => s
  | some (d, sh) =>
    let s1 := s.eccStackSeen ecc (catStore w + 64 * entryOf sh) 0
    match s.fetchDesc w sh (ecc ≠ .bad) (dKind d = 1) with
    | .good e => if dStream e then s1 else s1.modSl w fun x => { x with chain := x.chain ++ [(e, {})] }
    | .failed _ => s1

/-- The Catalogue cache of bank 14 is looked into before the Catalogue store, while it is ON: an entry of it that is in error, corrected or not,
raises CORRECTED and no more, since the entry is fetched again (R272, R276). Which word it was is a free value: the cache's layout is not stated. -/
def State.cacheRead (s : State) (cache : Ecc) : State :=
  if cache = .clean || !s.bankOn 14 then s
  else
    let v := s.draw
    v.2.eccBank (bankBase 14 + v.1.toNat % 0x40000 * 8) 1 0

/-- The jump-target slot that a role serves. -/
def jumpSlot (r : Role) : Option (BitVec 2) := match r with | .jump k => some k | _ => none

/-- A jump target's slot is judged as its head is fetched: one whose target is rejected now reads REJ (R98). -/
def State.rejectNow (s : State) (w : Nat) (k : BitVec 2) : State :=
  (s.modSq w fun q => { q with jrej := putBit q.jrej k.toNat true }).raiseCh w 1 5 0

/-- A descriptor is fetched for a role and checked again, unless it has been (R83); the one program successor goes on along the chain (R96), and a
jump target is judged (R98). While the stack is not ACTIVE the fetch waits (R388). -/
def State.fetchRole (s : State) (w : Nat) (r : Role) (ecc : Ecc) : State :=
  match (if s.stackOn (w / 64 % 2) then s.roleShelf w r else none) with
  | none => s
  | some sh =>
    if (roleGet r (s.sq w).fetched).isSome then (if r = linkRole (s.sq w).cur then s.fetchChain w ecc else s)
    else match (if s.slotRejected w sh then jumpSlot r else none) with
    | some k => s.rejectNow w k
    | none =>
      let s1 := s.eccStackSeen ecc (catStore w + 64 * entryOf sh) 0
      s1.modSq w fun q => { q with fetched := roleSet r (s.fetchDesc w sh (ecc ≠ .bad) (q.nextOfPlay r)) q.fetched }

/-- Report the uncorrectable words among `k` slices read from `base` on, one every `step` bytes (R271, R272). -/
def State.badWords (s : State) (base step k : Nat) (bad : Word) : State :=
  s.each (List.range k) fun s i => if bad.getLsbD i then s.eccStack (base + step * i) 2 0 else s

/-- What a stack read of `k` slices of `d` found in error (R271, R272): its first vector word lies at `at_`, its first slice is `first`. -/
def State.readErrors (s : State) (w : Nat) (d : RawDesc) (at_ first k : Nat) (bad laneBad : Word) (corrected : Bool) : State :=
  let s1 := (s.badWords at_ 8 k bad).badWords (vecArea w + 4 * (dLaneBase d + first)) 4 k (if dLaneEn d then laneBad else 0)
  if corrected && k ≠ 0 then s1.eccStack at_ 1 0 else s1

/-- The head of the one program successor is whole, so that reads for it go to its later plays and the segments after it (R96). -/
def State.nextWhole (s : State) (w : Nat) (r : Role) : Bool :=
  r = linkRole (s.sq w).cur && (match (s.sq w).segOf r with | some d => ((s.sl w).buf r).whole d | none => false)

/-- Up to `n` slices of a role's segment are read into the Sluice; what error correction found in them is reported (R61, R62, R118, R271, R272). -/
def State.readInto (s : State) (w : Nat) (r : Role) (n : Nat) (bad laneBad : Word) (corrected : Bool) : State :=
  let b := (s.sl w).buf r
  let first := b.lo + b.slices.length
  let s1 := s.pushSlices w r n bad laneBad
  let b1 := (s1.sl w).buf r
  let k := b1.lo + b1.slices.length - first
  let d := ((s.sq w).segOf r).getD 0
  let at_ := if dStream d then vecArea w + ((s.sl w).ring.head?.map (·.at_)).getD 0 else vecArea w + 8 * (dVecBase d + first)
  ((s1.readErrors w d at_ first k bad laneBad corrected).fillIndicate w).stockIndicate w

/-- A head is read as far as its segment and the Sluice's room allow (R95, R272). -/
def State.loadHead (s : State) (w : Nat) (r : Role) (rd : HeadReads) : State := s.readInto w r 64 rd.bad rd.laneBad rd.corrected

/-- A stack read of up to `n` slices for a role completes (R61, R62, R96, R118, R272). -/
def State.readDone (s : State) (w : Nat) (r : Role) (n : Nat) (bad laneBad : Word) (corrected : Bool) : State :=
  if !(s.sq w).loaded || !s.stackOn (w / 64 % 2) then s
  else if s.nextWhole w r && s.bankOn (cluOf w) then
    match s.pushChain w n bad laneBad with
    | (s1, some (d, first, k)) => s1.readErrors w d (vecArea w + 8 * (dVecBase d + first)) first k bad laneBad corrected
    | (s1, none) => s1
  else s.readInto w r n bad laneBad corrected

/-! Boundaries. -/

/-- Period-table entry `e` is applied afresh: its n restarts at 0 (R151). -/
def State.applyEntry (s : State) (w e : Nat) : State := s.modPl w fun p => { p with entry := e, n := 0 }

/-- The first segment fetched ahead becomes the program successor of the segment that starts, when that was the one program successor itself: its
head, and what of its later plays came with it (R95, R96). -/
def State.takeChain (s : State) (w : Nat) (along : Bool) : State :=
  match (if along then (s.sl w).chain else []) with
  | [] => s.modSl w fun x => { x with chain := [], more := [] }
  | x :: rest =>
    let r := linkRole (s.sq w).cur
    (s.modSq w fun q => { q with fetched := roleSet r (.good x.1) q.fetched }).modSl w fun y => { y with
      bufs := roleSet r { x.2 with slices := x.2.slices.take (dHead x.1) } y.bufs, more := x.2.slices.drop (dHead x.1), chain := rest }

/-- A segment starts from its role's head: its first play (R90, R95, R151). Heads not chosen are discarded. -/
def State.enterSeg (s : State) (w : Nat) (r : Role) (d : RawDesc) (landing : Nat) : State :=
  let along := decide (r = linkRole (s.sq w).cur)
  let h := (s.sl w).buf r
  let head := if along then { h with slices := h.slices ++ (s.sl w).more } else h
  let gone : List Role := [.next, .alt, .ret, .rep]
  let s1 := s.modSq w fun q => { q with
    cur := d, fetched := q.fetched.filter (fun x => !gone.contains x.1), play := 1, ofs := 0, playId := q.playId + 1, playFail := false,
    decided := none, stopMark := none, markDue := 1, invalid := none, landing := landing }
  let s2 := (s1.modSl w fun x => { x with
    bufs := roleSet .path head (x.bufs.filter fun y => !gone.contains y.1), pushNow := (0, 0) }).takeChain w along
  let s3 := if dKeep d then s2 else s2.applyEntry w (dPeriodSel d)
  (s3.streamMismatch w).fillIndicate w

/-- Entry 1's landing starts: 2 for a stop, 3 otherwise (R83, R90, R93, R140). -/
def State.enterLanding (s : State) (w why : Nat) : State := s.enterSeg w .landing (s.sq w).land1 why

/-- A fetched descriptor starts, or entry 1's landing in place of a failed one (R83). -/
def State.enterFetched (s : State) (w : Nat) (r : Role) (sh : Shelf) (t : Nat) : State :=
  match (roleGet r (s.sq w).fetched).getD (s.fetchDesc w sh true ((s.sq w).nextOfPlay r)) with
  | .good d => s.enterSeg w r d (if dKind d = 8 then 1 else 0)
  | .failed x => (s.perr w 2 x t).enterLanding w 3

/-- The same segment plays again (R88, R91, R95). -/
def State.repeatPlay (s : State) (w : Nat) : State :=
  let s1 := s.modSq w fun q => { q with
    play := q.play + 1, ofs := 0, playId := q.playId + 1, playFail := false, decided := none, stopMark := none, markDue := 2, invalid := none }
  let s2 := s1.modSl w fun x =>
    let b := x.buf .path
    let n := dSlices (s.sq w).cur
    if repeatHead (s.sq w).cur then { x with bufs := roleDel .rep (roleSet .path (x.buf .rep) x.bufs) }
    else { x with bufs := roleSet .path { lo := b.lo - n, slices := b.slices.drop (n - b.lo) } x.bufs }
  s2.fillIndicate w

/-- What the decision fixed starts at `t` (R90, R91, R93). -/
def State.startChoice (s : State) (w t : Nat) (c : Choice) : State :=
  let q := s.sq w
  match c with
  | .again => s.repeatPlay w
  | .next =>
    let s1 := if dKind q.cur = 5 then s.modSq w fun q => { q with stack := dAlt q.cur :: q.stack } else s
    s1.enterFetched w .next (dNext q.cur) t
  | .alt => s.enterFetched w .alt (dAlt q.cur) t
  | .ret => (s.modSq w fun q => { q with stack := q.stack.tail }).enterFetched w .ret (q.stack.headD nullShelf) t
  | .jump k => s.enterFetched w (.jump k) (s.jumpShelf w k.toNat) t
  | .stopLand => s.enterLanding w 2
  | .kept sh => s.enterFetched w .ret sh t
  | .errLand _ _ => s.enterLanding w 3
  | .finish => s

/-- A play ends and what its decision fixed starts (R88, R90). -/
def State.boundary (s : State) (w : Nat) : State :=
  let q := s.sq w
  if !s.running w || !(s.pl w).begun || (s.ho w).on || q.ofs ≠ q.playEnd || s.t < (s.pl w).nextT || s.stageDue w then s
  else match q.decided with
    | none => s
    | some .finish => s
    | some c => s.startChoice w (s.pl w).nextT c

/-! Decision points. -/

/-- The program successor that the kind gives, at time `t` (R91 to R93). -/
def State.programChoice (s : State) (w t : Nat) : Choice :=
  let q := s.sq w
  let d := q.cur
  let last := decide (dLoop d ≤ q.play)
  let until_ := fun (c : Bool) => if c then Choice.next else if dLoop d = 0 || !last then .again else .alt
  match dKind d with
  | 2 => if !last then .again else if s.condHolds w d t then .alt else .next
  | 3 => until_ (s.condHolds w d t)
  | 4 => until_ q.passes
  | 5 => if !last then .again else if 8 ≤ q.stack.length then .errLand 3 (dShelf d) else .next
  | 6 => if !last then .again else if q.stack.isEmpty then .errLand 4 (dShelf d) else .ret
  | 8 => .finish
  | _ => if last then .next else .again

/-- The oldest pending request whose target is ready, with an arrival by `t`, and the queue without it (R90, R99). -/
def readyReq (ready : BitVec 4) (t : Nat) : List JumpReq → Option (JumpReq × List JumpReq)
  | [] => none
  | r :: rest =>
    if ready.getLsbD r.slot.toNat && r.at_ ≤ t then some (r, rest) else (readyReq ready t rest).map fun x => (x.1, r :: x.2)

/-- The choice becomes entry 1's landing when its descriptor is held as failed (R83, R90). -/
def SeqSt.checkChoice (q : SeqSt) (c : Choice) : Choice :=
  let role : Option Role := match c with
    | .next => some .next | .alt => some .alt | .ret => some .ret | .jump k => some (.jump k) | _ => none
  match role.bind fun r => roleGet r q.fetched with
  | some (.failed sh) => .errLand 2 sh
  | _ => c

/-- A decision is made at `t`. DEDUCED (log 48): a program error that it finds occurs at this decision point, and entry 1's landing
follows at the boundary (R83, R93). -/
def State.choose (s : State) (w t : Nat) (c : Choice) : State :=
  let s1 := match c with
    | .errLand code sh => s.perr w code sh t
    | _ => s
  s1.modSq w fun q => { q with decided := some c }

/-- What starts at the boundary of the play is chosen, in the order of R90. DEDUCED (log 100): a pending jump acts at the decision point of a
LAND that the program has reached; entry 1's landing for a stop, a program error or an underrun ends the burst. -/
def State.decideNow (s : State) (w : Nat) : State :=
  let q := s.sq w
  let t := (s.pl w).decT
  let prog := s.programChoice w t
  let seg := decide (prog ≠ .again) || dKind q.cur = 3 || dKind q.cur = 4
  if 2 ≤ q.landing then s.choose w t .finish
  else if q.stopDue seg t then s.choose w t .stopLand
  else match readyReq q.jready t q.reqs with
    | some (r, rest) => (s.modSq w fun q => { q with reqs := rest }).choose w t (q.checkChoice (.jump r.slot))
    | none => s.choose w t (q.checkChoice prog)

/-- The play's decision point: what starts at its boundary is fixed (R89, R90). -/
def State.decide_ (s : State) (w : Nat) : State :=
  if !s.running w || !(s.pl w).begun || (s.ho w).on || !(s.sq w).owesDecision then s else ((s.jumpDue w).decideNow w).fillIndicate w

/-! Staged changes. -/

/-- Registers of a period-table entry under a reading of the table. -/
def entryView (T : TimingView) (e : Nat) : Nat × Nat × Nat := (T 3 (0x400 + 0x20 * e), T 3 (0x408 + 0x20 * e), T 3 (0x410 + 0x20 * e))

/-- The pending set takes effect at `t` (R165, R166): when it changes the entry in force, that entry is applied afresh. -/
def State.applyStage (s : State) (w t : Nat) : State :=
  match (s.tm w).pend with
  | none => s
  | some (tab, _, _) =>
    let e := (s.pl w).entry
    let fresh := decide (entryView (s.activeView w) e ≠ entryView (pendView tab) e)
    let s1 := s.modTm w fun x => { x with active := tab, pend := none, res := x.res.done 1 0, tset := 0, applyT := t }
    let s2 := if fresh && s.running w && (s.pl w).begun then s1.applyEntry w e else s1
    (s2.bumpSeq (winPage w 3)).raiseAt (chSrc (s.slotOf w) 3) 0 0 nullShelf (Config.detailValue (chSrc (s.slotOf w) 3) 0 t) t

/-- A staged change takes effect: at its boundary in RUN, at once otherwise (R165). -/
def State.stageNow (s : State) (w : Nat) : State :=
  match (s.tm w).pend with
  | none => s
  | some (_, point, _) =>
    if point = 3 || !s.running w then s.applyStage w s.t
    else if s.stageDue w && (s.pl w).nextT ≤ s.t then s.applyStage w (s.pl w).nextT
    else s

/-! Burst start and end. -/

/-- A start event or a START reaches an ARMED window: RUN from `te`, the first vector at GT_first (R48, R101). -/
def State.startRun (s : State) (w te : Nat) : State :=
  let first := (te + 255) / 256 * 256 + 65536 + 256 * bits (s.wreg w 1 0x044) 8 16
  (s.modMd w fun m => { m with mode := .run, startAt := some te }).modPl w fun p => { p with begun := false, nextT := first }

/-- The first vector of the burst is due: the formatter takes over the driver (R101, R102, R161, R200, R235, R256). DESIGN CHOICE (log 112):
SEQ.BURST and BURST_INFO take GT_first then, not at t_e. -/
def State.burstBegin (s : State) (w : Nat) : State :=
  let p := s.pl w
  let d := (s.sq w).cur
  if !s.running w || p.begun || s.t < p.nextT then s
  else
    let e := startPeriod d
    let t := p.nextT
    let s1 := s.modPl w fun p => { p with
      begun := true, lastT := t, decT := t, t64 := t, entry := e, n := 0, entry0 := e, n0 := 0, period := (periodOf (s.activeView w) e 0),
      vectors := 0, remembered := (s.md w).static, etRef := 0, gtFirst := t, bursts := p.bursts + 1, burstValid := true }
    let s2 := s1.modSq w fun q => { q with
      play := 1, ofs := 0, playId := q.playId + 1, playFail := false, stack := [], markDue := 1,
      decided := none, stopMark := none, invalid := none, landing := if dKind d = 8 then 1 else 0 }
    let s3 := s2.raiseAt (chSrc (s.slotOf w) 1) 0 0 nullShelf (Config.detailValue (chSrc (s.slotOf w) 1) 0 t) t
    let s4 := if bit (s.wreg w 8 0x040) 3 then s3.stampArmAt w t 3 else s3
    let s5 := if bit (s.wreg w 9 0x040) 8 then s4.engStart w t else s4
    s5.engOccur w 0xD 0 0 t 2048

/-- A burst in RUN ends at `t`: END_CAUSE, the static drive is the remembered one, or stays where no vector has started, rings flushed,
the program dropped (R44, R48, R55, R99, R133, R165, R235). -/
def State.endBurst (s : State) (w t cause : Nat) : State :=
  let h := s.ho w
  let s0 := if h.on then s.leaveHold w 3 t else s
  let s0 := s0.jumpDue w
  let s1 := if (s.pl w).begun then (s0.settle w forever).setStatic w (s.pl w).remembered else s0
  let s2 := s1.modMd w fun m => { m with mode := .ready, startAt := none, endCause := cause }
  let s3 := (s2.dropProgram w).modPl w fun p => { p with begun := false }
  let s4 := (if bit (s.wreg w 8 0x040) 3 then s3.stampDisarmAt w t 3 else s3).engOccur w 0xD 1 0 t 2048
  (s4.flushStreams w).finishCapture w

/-- The landing's last vector ends (R48, R49, R103). -/
def State.landEnd (s : State) (w : Nat) : State :=
  let q := s.sq w
  let t := (s.pl w).nextT
  if !s.running w || !(s.pl w).begun || (s.ho w).on || q.ofs ≠ q.playEnd || q.decided ≠ some .finish || s.t < t then s
  else
    let s1 := ((s.endBurst w t (if q.landing = 2 then 2 else 1)).applyStage w t)
    s1.raiseAt (chSrc (s.slotOf w) 1) 1 0 nullShelf (Config.detailValue (chSrc (s.slotOf w) 1) 1 t) t

/-! Stops. -/

/-- The decision has already selected a LAND descriptor (R104). -/
def State.landChosen (s : State) (w : Nat) : Bool :=
  let q := s.sq w
  let kindIs8 := fun (r : Role) (sh : Shelf) => match roleGet r q.fetched with
    | some (.good d) => decide (dKind d = 8)
    | some (.failed _) => true
    | none => decide (dKind (s.desc w (entryOf sh)) = 8)
  match q.decided with
  | some .next => kindIs8 .next (dNext q.cur)
  | some .alt => kindIs8 .alt (dAlt q.cur)
  | some .ret => kindIs8 .ret (q.stack.headD nullShelf)
  | some (.jump k) => kindIs8 (.jump k) (s.jumpShelf w k.toNat)
  | some (.kept sh) => kindIs8 .ret sh
  | some (.errLand _ _) => true
  | some .finish => true
  | _ => false

/-- A stop is accepted in RUN at `t`: its policy is read, pending requests are dropped (R49, R99, R103, R104, R142). -/
def State.acceptStop (s : State) (w t : Nat) : State :=
  let s := s.jumpDue w
  let q := s.sq w
  if q.stop.isSome || q.landing ≠ 0 then s
  else
    let sel := bits (s.wreg w 1 0x044) 0 2
    let policy := if s.landChosen w && !(s.ho w).on then 3 else if sel = 3 then 1 else sel
    let s1 := s.each q.reqs fun s _ => s.jumpDrop w t
    (s1.modSq w fun q =>
      let q1 := { q with reqs := [], stop := some (policy, t) }
      if (s.pl w).begun && (s.pl w).t64 = t && 0 < q.ofs then q1.markStop (q.ofs - 1) t else q1).fillIndicate w

/-! The holding pattern. -/

/-- The stop that was accepted while the pin held, by `t` (R142). -/
def State.stopInHold (s : State) (w t : Nat) : Bool :=
  match (s.sq w).stop with
  | some (p, at_) => decide (p ≠ 3) && decide ((s.ho w).at_ ≤ at_) && decide (at_ ≤ t)
  | none => false

/-- The policy in force for an underrun of the current play (R140, R143). -/
def SeqSt.policyNow (q : SeqSt) : Nat := if q.landing ≠ 0 || dKind q.cur = 8 then 0 else dPolicy q.cur

/-- The interrupted play is to restart and no repeat head holds its first vectors. -/
def SeqSt.refetches (q : SeqSt) : Bool := decide (q.policyNow = 1) && decide (q.ofs ≠ 0) && !repeatHead q.cur

/-- The Sluice's path goes back to vector 0 of the play, to be read again, unless it stands there (R140). -/
def State.rewindPath (s : State) (w : Nat) : State :=
  (s.modSl w fun x => { x with bufs := roleSet .path (if (x.buf .path).lo = 0 then x.buf .path else {}) x.bufs }).fillIndicate w

/-- A holding pass reaches its resume point (R139, R142). DEDUCED (log 129): when the play is to restart, its vectors are read again from here
on, while the last pass plays, so that vector 0 can start at the end of the pass (R140). -/
def State.resumePoint (s : State) (w : Nat) : State :=
  let h := s.ho w
  if !h.on || h.ofs + 63 ≠ (s.sq w).holdLen || h.resumeAt.isSome then s
  else
    let t := h.nextT - h.period
    let s1 := s.modHo w fun h => { h with resumeAt := some t, last := s.supplied w || s.stopInHold w t }
    if (s.sq w).refetches && s.supplied w && !s.stopInHold w t then s1.rewindPath w else s1

/-- Vector 0 of the interrupted play starts again (R140, R141, R151). -/
def State.restartPlay (s : State) (w : Nat) : State :=
  if (s.sq w).ofs = 0 then s
  else
    let s1 := s.modSq w fun q => { q with ofs := 0, playId := q.playId + 1, playFail := false, markDue := 0, invalid := none }
    let s2 := s1.modPl w fun p => { p with entry := p.entry0, n := p.n0 }
    if repeatHead (s.sq w).cur then (s2.modSl w fun x => { x with bufs := roleSet .path (x.buf .rep) x.bufs }).fillIndicate w
    else s2.rewindPath w

/-- A holding pass ends: another follows, or the pin leaves the pattern (R139 to R143). A stop that arrived by the resume point, even one taken after
it, lands at the end of this pass; one that arrived later takes another pass: no further program vector plays (R142). -/
def State.passEnd (s : State) (w : Nat) : State :=
  let h := s.ho w
  let q := s.sq w
  let t := h.nextT
  if !h.on || h.ofs ≠ q.holdLen || s.t < t then s
  else
    let go := fun (s : State) => s.modPl w fun p => { p with nextT := t }
    let land := match h.resumeAt with | some r => s.stopInHold w r | none => false
    if !land && (!h.last || s.stopInHold w (t - 1)) then s.modHo w fun h => { h with pass := h.pass + 1, ofs := 0, resumeAt := none }
    else if land then go ((s.leaveHold w 3 t).enterLanding w 2)
    else
      let policy := q.policyNow
      let s1 := go (s.leaveHold w policy t)
      if policy = 2 then (s1.modHo w fun h => { h with landed := true }).enterLanding w 3
      else
        let s2 := if policy = 1 then s1.restartPlay w else s1
        s2.raiseSeg w 2 1 0 h.shelf t

/-! Jump targets, host flags. -/

/-- SEQ.JUMP_TGT[k] is written: while a burst is loaded the slot is judged afresh (R98). -/
def State.writeJumpTgt (s : State) (w k v : Nat) : State :=
  let s := (s.jumpDue w).keepChosen w (BitVec.ofNat 2 k) (s.jumpShelf w k)
  let s1 := s.setReg (pageAddr (winPage w 1) (0x060 + 4 * k)) (bits v 0 20 + bits v 24 1 * 2 ^ 24)
  if (s.sq w).loaded then s1.judgeSlot w k else s1

/-- What a slot needs is present: its head, whole, or a descriptor held as failed, to which a jump lands (R83, R98). -/
def State.slotLoaded (s : State) (w : Nat) (k : BitVec 2) : Bool :=
  match roleGet (.jump k) (s.sq w).fetched with
  | some (.good d) => ((s.sl w).buf (.jump k)).whole d
  | some (.failed _) => true
  | none => false

/-- The head of an enabled slot is fetched and arrives in the Sluice: READY once it is whole there (R83, R98). -/
def State.jumpHead (s : State) (w : Nat) (k : BitVec 2) (rd : JumpReads) : State :=
  if s.slotOpen w k then
    let s1 := (s.fetchRole w (.jump k) rd.entry).loadHead w (.jump k) rd.head
    s1.modSq w fun q => { q with jready := putBit q.jready k.toNat (s1.slotLoaded w k) }
  else s

/-- SEQ.JUMP_REQ.CLR: every request that waits is discarded, after those due have entered (R99). -/
def State.clearJumps (s : State) (w : Nat) : State := (s.jumpDue w).modSq w fun q => { q with reqs := [] }

/-- SEQ.HOST_FLAG holds `v` (R72). -/
def State.setHostFlags (s : State) (w v : Nat) : State := s.setReg (pageAddr (winPage w 1) 0x048) (v % 256)
def State.hostFlags (s : State) (w : Nat) : Nat := s.wreg w 1 0x048

/-! Routes of the reaction fabric. -/

/-- CLU_c.FAB_ROUTE[i] is written: the input takes INIT, or holds false for a reserved signal, and loses what was on its way
(R106, R107, R109). -/
def State.writeRoute (s : State) (c i v : Nat) : State :=
  let v := bits v 0 2 + bits v 4 6 * 16 + bits v 12 3 * 4096 + bits v 16 1 * 65536
  let w := 16 * c + i / 16
  let k := i % 16
  let init := bit v 16 && !(bits v 0 2 = 1 && 5 ≤ bits v 12 3)
  let s1 := s.setReg (pageAddr (cluPage c) (0x400 + 4 * i)) v
  let s2 := s1.modClu c fun x => { x with lat := Tab.set 0 x.lat i (s.routeLat c w k v) }
  s2.modFb w fun f => { f with
    ins := putBit f.ins k init, insT := Tab.set 0 f.insT k s.t, due := f.due.filter fun d => decide (d.2.1 ≠ k) }

/-- CLU_c.FAB_EXPORT[e] is written: the export presents the signal it now names, or false (R107). -/
def State.writeExport (s : State) (c e v : Nat) : State :=
  let v := bits v 0 7 + bits v 8 1 * 256
  let s1 := s.setReg (pageAddr (cluPage c) (0x800 + 4 * e)) v
  s1.exportTakes c e (bit v 8 && s.sigOf (16 * c + bits v 0 4) (bits v 4 3)) s.t

/-- The earliest change on its way to an input takes effect (R106). -/
def FabSt.takeDue (f : FabSt) (i t : Nat) : FabSt :=
  let v := f.valAt i t
  { f with ins := putBit f.ins i v.2, insT := Tab.set 0 f.insT i v.1, due := f.due.filter fun d => decide (d.2.1 ≠ i) || decide (t < d.1) }

/-! Meanings. -/

def execBurstStart (dt : Nat) (w : WinId) (s : State) : Host.Outcome State Fault Refusal := .next ((s.advance dt).burstBegin w)
def execLandingEnd (dt : Nat) (w : WinId) (s : State) : Host.Outcome State Fault Refusal := .next ((s.advance dt).landEnd w)
def execDescriptorFetch (dt : Nat) (w : WinId) (role : Role) (ecc : EntryReads) (s : State) : Host.Outcome State Fault Refusal :=
  .next (((s.advance dt).cacheRead ecc.cache).fetchRole w role ecc.store)
def execStackReadDone (dt : Nat) (w : WinId) (role : Role) (n : Nat) (bad laneBad : Word) (corrected : Bool) (s : State) :
    Host.Outcome State Fault Refusal := .next ((s.advance dt).readDone w role n bad laneBad corrected)
def execDecisionPoint (dt : Nat) (w : WinId) (s : State) : Host.Outcome State Fault Refusal := .next ((s.advance dt).decide_ w)
def execPlayBoundary (dt : Nat) (w : WinId) (s : State) : Host.Outcome State Fault Refusal := .next ((s.advance dt).boundary w)
def execVectorStart (dt : Nat) (w : WinId) (ecc : WordReads) (s : State) : Host.Outcome State Fault Refusal :=
  .next ((s.advance dt).startVector w ecc.word ecc.lane)
def execHoldingResumePoint (dt : Nat) (w : WinId) (s : State) : Host.Outcome State Fault Refusal := .next ((s.advance dt).resumePoint w)
def execHoldingPassEnd (dt : Nat) (w : WinId) (s : State) : Host.Outcome State Fault Refusal := .next ((s.advance dt).passEnd w)
def execStageApply (dt : Nat) (w : WinId) (s : State) : Host.Outcome State Fault Refusal := .next ((s.advance dt).stageNow w)

def execJumpReq (dt : Nat) (w : WinId) (slot : BitVec 2) (s : State) : Host.Outcome State Fault Refusal :=
  .next ((s.advance dt).hostWrite (winPage w 1) (.jumpReq dt w slot) fun s => s.jumpRequest w slot.toNat s.t)
def execJumpClr (dt : Nat) (w : WinId) (s : State) : Host.Outcome State Fault Refusal :=
  .next ((s.advance dt).hostWrite (winPage w 1) (.jumpClr dt w) fun s => s.clearJumps w)
def execJumpTgtWrite (dt : Nat) (w : WinId) (k : BitVec 2) (val : BitVec 32) (s : State) : Host.Outcome State Fault Refusal :=
  .next ((s.advance dt).hostWrite (winPage w 1) (.jumpTgtWrite dt w k val) fun s => s.writeJumpTgt w k.toNat val.toNat)
def execJumpHeadReady (dt : Nat) (w : WinId) (k : BitVec 2) (reads : JumpReads) (s : State) : Host.Outcome State Fault Refusal :=
  .next ((s.advance dt).jumpHead w k reads)
def execHostFlagWrite (dt : Nat) (w : WinId) (val : Byte) (s : State) : Host.Outcome State Fault Refusal :=
  .next ((s.advance dt).hostWrite (winPage w 1) (.hostFlagWrite dt w val) fun s => s.setHostFlags w val.toNat)
def execHostFlagSet (dt : Nat) (w : WinId) (val : Byte) (s : State) : Host.Outcome State Fault Refusal :=
  .next ((s.advance dt).hostWrite (winPage w 1) (.hostFlagSet dt w val) fun s => s.setHostFlags w (s.hostFlags w ||| val.toNat))
def execHostFlagClr (dt : Nat) (w : WinId) (val : Byte) (s : State) : Host.Outcome State Fault Refusal :=
  .next ((s.advance dt).hostWrite (winPage w 1) (.hostFlagClr dt w val) fun s => s.setHostFlags w (s.hostFlags w &&& (255 - val.toNat)))
def execFabRouteWrite (dt : Nat) (c : CluId) (i : Byte) (val : BitVec 32) (s : State) : Host.Outcome State Fault Refusal :=
  .next ((s.advance dt).hostWrite (cluPage c) (.fabRouteWrite dt c i val) fun s => s.writeRoute c i.toNat val.toNat)
def execFabExportWrite (dt : Nat) (c : CluId) (e : BitVec 3) (val : BitVec 32) (s : State) : Host.Outcome State Fault Refusal :=
  .next ((s.advance dt).hostWrite (cluPage c) (.fabExportWrite dt c e val) fun s => s.writeExport c e.toNat val.toNat)
def execFabricInputChange (dt : Nat) (w : WinId) (i : BitVec 4) (s : State) : Host.Outcome State Fault Refusal :=
  .next ((s.advance dt).modFb w fun f => f.takeDue i.toNat (s.advance dt).t)

end Sys2Proof.Machine
end

