-- ==== Sys2Proof/Machine/Intake.lean ====
section
/-!
DEFINITION. Sys2Proof/Machine/Intake.lean: the intake engine: rings and requests (R120, R121, R129 to R131), frames (R122 to
R127), broken streams (R132), and the SLU page's ring registers.
-/

namespace Sys2Proof.Machine

/-! Configuration. -/

/-- A write of SLU.CFG, SLU.STREAM_RING or SLU.INT_RING is refused (SLU.STAT.CFG_REFUSED). -/
def State.sluRefuse (s : State) (w : Nat) : State := (s.modSl w fun x => { x with cfgRefused := true }).raiseCh w 2 5 0
def State.sluAccept (s : State) (w : Nat) : State := s.modSl w fun x => { x with cfgRefused := false }

/-- Bytes of the Sluices of a cluster's windows but one (R117). -/
def State.otherSluices (s : State) (w : Nat) : Nat :=
  ((cluWins (cluOf w)).filter fun v => decide (v ≠ w)).foldl (fun n v => n + s.sluSize v) 0

/-- SLU.CFG is written (R114, R117, R118). -/
def State.writeSluCfg (s : State) (w v : Nat) : State :=
  let size := 8192 * 2 ^ bits v 0 3
  if s.armedRun w || 5 < bits v 0 3 || bits v 8 12 ≤ bits v 20 12 || size - 6144 < 64 * bits v 8 12 ||
      2 * 0x100000 < s.otherSluices w + size then s.sluRefuse w
  else ((s.setReg (pageAddr (winPage w 2) 0x040) (v % 2 ^ 32 - bits v 3 5 * 8)).sluAccept w).fillIndicate w

/-- SLU.STREAM_RING is written (R86, R114). -/
def State.writeStreamRing (s : State) (w v : Nat) : State :=
  let base := bits v 0 9
  let size := 2 ^ bits v 12 3
  if s.armedRun w || base % size ≠ 0 || 384 < base + size || bits v 16 8 ≤ bits v 24 8 then s.sluRefuse w
  else ((s.setReg (pageAddr (winPage w 2) 0x048) (pack [(0, 9, base), (12, 3, bits v 12 3), (16, 16, bits v 16 16)])).sluAccept w).stockIndicate w

/-- SLU.INT_RING is written: the indices return to 0 and skipping ends (SLU.INT_RING). -/
def State.writeIntRing (s : State) (w v : Nat) : State :=
  if s.armedRun w || 12 < bits v 0 4 then s.sluRefuse w
  else
    let s1 := (s.setReg (pageAddr (winPage w 2) 0x050) (bits v 0 5 + bits v 12 52 * 4096)).setReg (pageAddr (winPage w 2) 0x060) 0
    (s1.modIk w fun k => { k with
      cons := 0, fetch := 0, skipping := false, torn1 := false, begun := false, bufs := [], bytes := [], pad := 0, postDue := false, consNow := (0, 0), prodNow := (0, 0),
      reqs := k.reqs.map (fun q => { q with dead := true }) }).sluAccept w

/-- log2 of the descriptors a window's intake ring holds (SLU.INT_RING.SIZE). -/
def State.ringBits (s : State) (w : Nat) : Nat := bits (s.wreg w 2 0x050) 0 4 + 4

/-- SLU.INT_PROD is written, against the consumer index as it stood before this instant's pops (R113); an index past full, or with a bit of PROD above its width, is refused and breaks the stream (R121). The
reserved bits above PROD have no effect (R368). DESIGN CHOICE (log 102): an index that is too wide counts as one past full. -/
def State.writeIntProd (s : State) (w v : Nat) : State :=
  let v := v % 2 ^ 17
  let m := 2 ^ (s.ringBits w + 1)
  let old := s.wreg w 2 0x060
  let seen := ((s.ik w).cons + m - movedNow (s.ik w).consNow s.now) % m
  if m ≤ v || m / 2 < (v + m - seen) % m then s.breakStream w 5 nullShelf
  else (s.setReg (pageAddr (winPage w 2) 0x060) v).modIk w fun x => { x with
    begun := x.begun || decide (v ≠ old), prodNow := noteMove x.prodNow s.now ((v + m - old) % m) }

/-! Requests. -/

/-- Size of the streaming ring in bytes. -/
def State.streamSize (s : State) (w : Nat) : Nat := 2 ^ bits (s.wreg w 2 0x048) 12 3 * 0x100000

/-- Bytes of the streaming ring that live data requests reserve and the byte stream does not hold yet (R129). -/
def IntakeSt.reserved (k : IntakeSt) : Nat := (k.reqs.filter fun q => !q.dead && !q.desc).foldl (fun n q => n + (q.size - q.taken)) 0

/-- Bytes of live data requests that have not been written yet, which count against the credit (R130). -/
def IntakeSt.inFlight (k : IntakeSt) : Nat := (k.reqs.filter fun q => !q.dead && !q.desc).foldl (fun n q => n + (q.size - q.got.length)) 0

/-- The greatest multiple of 64 up to `n`. -/
def down64 (n : Nat) : Nat := n / 64 * 64

/-- Size of the next data request of a window for a buffer at `addr` with `left` bytes to request (R129, R130). What left the streaming ring at this
instant has not made room yet (R113). -/
def State.reqSize (s : State) (w addr left : Nat) : Nat :=
  let k := s.ik w
  let free := s.streamSize w - ((s.sl w).ringBytes + movedNow (s.sl w).ringPop s.now + k.bytes.length + k.reserved)
  let credit := s.sluSize w - (s.headBytes w + k.inFlight)
  down64 (min (min (min (min s.host.mrrs 4096) free) (min credit (4096 - addr % 4096))) left)

/-- The producer index as it stood before this instant's push (R113). -/
def State.prodSeen (s : State) (w : Nat) : Nat :=
  let m := 2 ^ (s.ringBits w + 1)
  (s.wreg w 2 0x060 + m - movedNow (s.ik w).prodNow s.now) % m

/-- The request a window can issue now: address, bytes, whether it reads a descriptor (R121, R129, R132). -/
def State.issuable (s : State) (w : Nat) : Option (Nat × Nat × Bool) :=
  let k := s.ik w
  let r := s.wreg w 2 0x050
  if 128 ≤ w || !bit r 4 || k.broken ≠ 0 then none
  else match k.bufs.find? (fun b => decide (b.2.1 ≠ 0)) with
    | some b =>
      let n := s.reqSize w b.1 b.2.1
      if n = 0 then none else some (b.1, n, false)
    | none =>
      if k.fetch = s.prodSeen w || k.reqs.any (fun q => q.desc && !q.dead) then none
      else some (bits r 12 52 * 4096 + 32 * (k.fetch % 2 ^ s.ringBits w), 32, true)

/-- Tags of the pool (R131, R333). -/
def HostSt.poolSize (h : HostSt) : Nat := if h.tag14 && h.flit then 16384 else if h.tag10 then 768 else 256

/-- The lowest tag that is free. DESIGN CHOICE (log 142): the spec does not say which free tag a request takes (R131). -/
def freeTag (used : List Nat) : Nat → Nat → Option Nat
  | 0, _ => none
  | n + 1, t => if used.contains t then freeTag used n (t + 1) else some t

/-- The first buffer with bytes to request has `n` of them requested. -/
def takeBuf (n : Nat) : List (Nat × Nat × Nat × Bool) → List (Nat × Nat × Nat × Bool)
  | [] => []
  | b :: r => if b.2.1 = 0 then b :: takeBuf n r else (b.1 + n, b.2.1 - n, b.2.2.1, b.2.2.2) :: r

/-- The engine serves the next window with an issuable request (R131). -/
def State.intakeIssue (s : State) : State :=
  if !s.canIssue then s
  else
    let order := (List.range 136).map fun i => (s.host.lastWin + 1 + i) % 136
    match order.find? (fun w => (s.issuable w).isSome), freeTag (s.host.tags.map (·.1)) s.host.poolSize 0 with
    | some w, some tag =>
      match s.issuable w with
      | some (addr, n, d) =>
        let s1 := s.modIk w fun k => { k with
          reqs := k.reqs ++ [{ tag := tag, size := n, got := [], taken := 0, desc := d, dead := false }],
          bufs := if d then k.bufs else takeBuf n k.bufs, fetch := if d then (k.fetch + 1) % 2 ^ (s.ringBits w + 1) else k.fetch }
        (s1.modHost fun h => { h with tags := h.tags ++ [(tag, w)], lastWin := w }).emit (.read tag addr n)
      | none => s
    | _, _ => s

/-! Descriptors. -/

/-- The consumer index advances past one descriptor (R121). -/
def State.advanceCons (s : State) (w : Nat) (notify : Bool) : State :=
  let s1 := s.modIk w fun k => { k with cons := (k.cons + 1) % 2 ^ (s.ringBits w + 1), consNow := noteMove k.consNow s.now 1, postDue := k.postDue || bit (s.wreg w 2 0x058) 0 }
  if notify then s1.raiseCh w 2 3 0 else s1

/-- A descriptor that skipping discards: the first after a flush counts a torn item (R115). -/
def State.skipDesc (s : State) (w : Nat) : State :=
  let s1 := s.advanceCons w false
  if (s.ik w).torn1 then s1
  else (s1.modIk w fun k => { k with torn1 := true, torn := satInc 255 k.torn }).raiseCh w 2 4 0

/-- A descriptor has been read (R115, R120, R121). DESIGN CHOICE (log 141): the first one on a fresh ring with HEAD = 0 is served like any other when
nothing is being skipped. -/
def State.takeDesc (s : State) (w : Nat) (bs : List Byte) : State :=
  let n := ofBytes (bs.take 32)
  let addr := bits n 0 64
  let len := bits n 64 32
  let flags := bits n 96 16
  let head := bit flags 0
  if (s.ik w).skipping && !head then s.skipDesc w
  else if addr % 64 ≠ 0 || len % 64 ≠ 0 || len < 64 || 16777216 < len || 4 ≤ flags || bits n 112 16 ≠ 0 || bits n 192 64 ≠ 0 then
    s.breakStream w 1 nullShelf
  else s.modIk w fun k => { k with skipping := false, torn1 := false, bufs := k.bufs ++ [(addr, len, len, bit flags 1)] }

/-! Frames. -/

/-- Key of slot `KEY_ID - 1`, if it is loaded (R321, R322). -/
def State.keyOf (s : State) (id : Nat) : Option (BitVec 256) :=
  if 1 ≤ id && id ≤ 64 && s.sec.keyMap.getLsbD (id - 1) && !s.sec.wiping then
    some (BitVec.ofNat 256 (Memory.num s.wsMem (bankBase 11 + 0x40000 + 32 * (id - 1)) 32))
  else none

/-- Tag the granules of a pin's vector area from byte `lo` up to `hi` (R77, R324). -/
def State.tagGranules (s : State) (w lo hi : Nat) : State :=
  if hi ≤ lo then s
  else s.modMem fun m => { m with
    tags := (List.range ((hi - 1) / 65536 - lo / 65536 + 1)).foldl (fun t i => Tab.set false t (w * 6144 + lo / 65536 + i) true) m.tags }

/-- Store bytes at a position of a circular range of the stack. -/
def State.storeRing (s : State) (base size pos : Nat) : List Byte → State
  | [] => s
  | b :: r => State.storeRing (s.setStack (Memory.write s.stackMem (base + pos % size) b)) base size (pos + 1) r

/-- Slices of a payload, of `n` bytes each, the first at byte `pos` of the streaming ring (R124). -/
def payloadSlices (sh : Shelf) (n base size : Nat) : Nat → Nat → List Byte → List RingSlice
  | 0, _, _ => []
  | fuel + 1, pos, bs =>
    if bs.length < n then []
    else { shelf := sh, at_ := base + pos % size, size := n,
           slice := { codes := BitVec.ofNat 64 (ofBytes (bs.take 8)), lane := BitVec.ofNat 32 (ofBytes ((bs.drop 8).take (n - 8))),
                      altCodes := 0, altLane := 0 } } :: payloadSlices sh n base size fuel (pos + n) (bs.drop n)

/-- Entries that an enabled jump enters (R98). -/
def State.jumpEntries (s : State) (w : Nat) : List Nat :=
  ((List.range 4).filter fun k => s.jumpEn w k && decide (s.jumpShelf w k ≠ nullShelf)).map fun k => entryOf (s.jumpShelf w k)

/-- Entries at which a RET of the loaded program, or of what its jumps enter, can go on (R69). -/
def State.returns (s : State) (w : Nat) : List Nat := callRets (walk (s.desc w) walkFuel ((s.sq w).ents ++ s.jumpEntries w) [])

/-- Entries at which the program can go on after a segment. -/
def State.goesTo (s : State) (w : Nat) (d : RawDesc) : List Nat := traceNext (s.returns w) d

/-- What the ring holds where a payload of slices of `n` bytes each is written from `pos` on: a slice whose partly covered word cannot be corrected is
not written (R271; DEDUCED, log 144). -/
def State.keptSlices (s : State) (base size pos n : Nat) (bs : List Byte) (part : PartReads) : List Byte :=
  let old := fun (i : Nat) => Memory.read s.stackMem (base + (pos + i) % size)
  let skip := fun (i : Nat) => (decide (i < n) && decide (pos % 8 ≠ 0) && part.first = .bad) ||
    (decide (bs.length ≤ i + n) && decide ((pos + bs.length) % 8 ≠ 0) && part.last = .bad)
  bs.mapIdx fun i b => if skip i then old i else b

/-- A payload's first and last word in the ring, where it covers them only in part, are read first: what is found in them is reported (R271). -/
def State.rmwRing (s : State) (base size pos n : Nat) (part : PartReads) : State :=
  let see := fun (s : State) (e : Ecc) (i : Nat) =>
    if i % 8 = 0 then s
    else match e with
      | .clean => s
      | .corrected => s.eccStack ((base + i % size) / 8 * 8) 1 1
      | .bad => s.eccStack ((base + i % size) / 8 * 8) 3 1
  see (see s part.first pos) part.last (pos + n)

/-- A stream frame's payload is committed to the streaming ring (R124, R125, R271, R324). -/
def State.commitFrame (s : State) (w : Nat) (d : RawDesc) (last secret : Bool) (payload : List Byte) (part : PartReads) : State :=
  let n := if dLaneEn d then 12 else 8
  let base := (s.ringRange w).1
  let size := s.streamSize w
  let pos := (s.sl w).ringWr
  let bs := s.keptSlices (vecArea w + base) size pos n payload part
  let s := s.rmwRing (vecArea w + base) size pos payload.length part
  let new := payloadSlices (dShelf d) n base size (bs.length / n + 1) pos bs
  let s1 := s.storeRing (vecArea w + base) size pos bs
  let s2 := if secret then
      (if pos % size + bs.length ≤ size then s1.tagGranules w (base + pos % size) (base + pos % size + bs.length)
       else (s1.tagGranules w (base + pos % size) (base + size)).tagGranules w base (base + (pos + bs.length) % size))
    else s1
  let s3 := s2.modSl w fun x => { x with
    ring := x.ring ++ new, ringWr := (pos + bs.length) % size, ringPush := noteMove x.ringPush s.now new.length }
  (s3.modIk w fun k => { k with
    expect := (k.expect + 1) % 2 ^ 32, committed := (k.committed + bs.length) % 2 ^ 48,
    segSlices := if last then 0 else k.segSlices + new.length, order := if last then none else some (dShelf d),
    ahead := if last then s.goesTo w d else k.ahead }).stockIndicate w

/-- The entries at which a program's streamed data can go on, from those in the work list: a walk along every branch, as far as the first
STREAM segment of each (R124). -/
def streamReach (rd : Nat → RawDesc) (rets : List Nat) : Nat → List Nat → List Nat → List Nat
  | 0, _, done => done
  | _ + 1, [], done => done
  | fuel + 1, e :: rest, done =>
    if done.contains e then streamReach rd rets fuel rest done
    else streamReach rd rets fuel (rest ++ if trusted (rd e) && !dStream (rd e) then traceNext rets (rd e) else []) (e :: done)

/-- The descriptor of the streamed segment that a frame's shelfmark must name (R124): the one whose frames are under way, else one that is
next in stream order. DEDUCED (log 104): the engine cannot predict a branch, so next is every STREAM segment that the program can reach from the
last one, or from the entry point, along any branch or an enabled jump, without passing another. -/
def State.streamSeg (s : State) (w : Nat) (sh : Shelf) : Option RawDesc :=
  let d := s.desc w (entryOf sh)
  let k := s.ik w
  let known := match k.order with
    | some x => decide (x = sh)
    | none =>
      let jumps := if decide (k.expect = 0) && (s.sl w).streamFirst then [] else s.jumpEntries w
      (streamReach (s.desc w) (s.returns w) walkFuel (k.ahead ++ jumps) []).contains (entryOf sh)
  if known && dShelf d = sh && dStream d && dCheckOk d then some d else none

/-- What the engine does at the front of a window's byte stream: stop and wait, or go on in a new state. -/
inductive Parsed where
  | wait
  | next (s : State)

/-- A sealed frame's payload, if its key is there and its tag verifies; else the cause of the break (R125, R126). -/
def State.open_ (s : State) (keyEcc : Ecc) (id iv : Nat) (hdr body tag : List Byte) : List Byte × Nat :=
  match (if keyEcc = .bad then none else s.keyOf id) with
  | none => ([], 4)
  | some k => match gcmOpen k (BitVec.ofNat 96 iv) hdr body tag with
    | some text => (text, 0)
    | none => ([], 3)

/-- A key slot is read for a frame: what error correction found in it is reported (R271, R272). -/
def State.keyRead (s : State) (keyEcc : Ecc) (id : Nat) : State := s.eccBankSeen keyEcc (bankBase 11 + 0x40000 + 32 * (id - 1)) 1

/-- The frame at the front of the byte stream, `total` bytes with its padding, is taken; padding still to arrive is let pass (R123). -/
def State.dropFrame (s : State) (w total : Nat) : State :=
  s.modIk w fun k => { k with bytes := k.bytes.drop total, pad := total - k.bytes.length }

/-- A stream frame (R124 to R126). A plain one is committed with its last payload byte, before its padding. -/
def State.streamFrame (s : State) (w : Nat) (h : Nat) (bs : List Byte) (total : Nat) (rd : IntakeReads) : Parsed :=
  let k := s.ik w
  let sealed_ := decide (bits h 0 8 = 2)
  let id := bits h 8 7
  let last := bit h 16
  let sh : Shelf := BitVec.ofNat 20 (bits h 32 20)
  let len := bits h 64 32
  match s.streamSeg w sh with
  | none => .next (s.breakStream w 2 sh)
  | some d =>
    let n := if dLaneEn d then 12 else 8
    let sum := k.segSlices + len / n
    if bits h 96 32 ≠ k.expect || (sealed_ != decide (dKeyId d ≠ 0)) || id ≠ dKeyId d || len % n ≠ 0 ||
        (last && sum ≠ dSlices d) || dSlices d < sum then .next (s.breakStream w 2 sh)
    else if sealed_ && (s.keyOf id).isNone then .next (s.breakStream w 4 sh)
    else if bs.length < (if sealed_ then total else 32 + len) then .wait
    else
      let s1 := s.dropFrame w total
      let body := (bs.drop 32).take len
      if sealed_ then
        let s2 := s1.keyRead rd.key id
        let p := s.open_ rd.key id (bits h 160 96) (bs.take 32) body ((bs.drop (32 + len)).take 16)
        .next (if p.2 = 0 then s2.commitFrame w d last true p.1 rd.part else s2.breakStream w p.2 sh)
      else .next (s1.commitFrame w d last false body rd.part)

/-- A load frame (R127). -/
def State.loadFrame (s : State) (w : Nat) (h : Nat) (bs : List Byte) (total : Nat) (rd : IntakeReads) : Parsed :=
  let id := bits h 8 7
  let len := bits h 64 32
  let dest := bits h 128 32
  if 0x18000000 < dest + len || len % 16 ≠ 0 || dest % 16 ≠ 0 then .next (s.breakStream w 2 nullShelf)
  else if (s.keyOf id).isNone then .next (s.breakStream w 4 nullShelf)
  else if bs.length < total then .wait
  else
    let s1 := (s.modIk w fun k => { k with bytes := bs.drop total }).keyRead rd.key id
    let p := s.open_ rd.key id (bits h 160 96) (bs.take 32) ((bs.drop 32).take len) ((bs.drop (32 + len)).take 16)
    if p.2 = 4 then .next (s1.breakStream w 4 nullShelf)
    else
      let s2 := s1.tagGranules w dest (dest + len)
      let out := if p.2 = 0 then p.1 else List.replicate len 0
      let s3 := s2.setStack (Memory.store s2.stackMem (vecArea w + dest) out)
      .next (if p.2 = 0 then s3 else s3.breakStream w 3 nullShelf)

/-- A header's reserved bits and the fields its type does not use are zero, and its type and length are legal (R123, R124). DESIGN CHOICE
(log 105): a length over 65,536, or a PAD frame's that is not a multiple of 16, breaks the stream with FRAMING like the other faults of a
header. -/
def headerOk (h : Nat) : Bool :=
  let ty := bits h 0 8
  let stream := ty = 1 || ty = 2
  ty ≤ 3 && !bit h 15 && bits h 17 15 = 0 && bits h 52 12 = 0 && bits h 64 32 ≤ 65536 && (2 ≤ ty || bits h 8 7 = 0) &&
    (stream || (bits h 16 1 = 0 && bits h 32 20 = 0)) && (ty = 3 || bits h 128 32 = 0) && (2 ≤ ty || bits h 160 96 = 0) &&
    (ty ≠ 0 || bits h 64 32 % 16 = 0)

/-- One frame at the front of the byte stream (R122, R123). DESIGN CHOICE (log 106): from acceptance of an ARM on, in its transition too,
stream frames are taken and a load frame breaks the stream. -/
def State.parseFrame (s : State) (w : Nat) (rd : IntakeReads) : Parsed :=
  let k := s.ik w
  let bs := k.bytes
  if k.broken ≠ 0 || bs.length < 32 then .wait
  else
    let h := ofBytes (bs.take 32)
    let ty := bits h 0 8
    let body := 32 + bits h 64 32 + (if 2 ≤ ty then 16 else 0)
    let total := (body + 15) / 16 * 16
    if !headerOk h then .next (s.breakStream w 2 (BitVec.ofNat 20 (bits h 32 20)))
    else if ty = 0 then (if bs.length < total then .wait else .next (s.modIk w fun k => { k with bytes := bs.drop total }))
    else if ty = 3 then (if (s.sq w).loaded then .next (s.breakStream w 2 nullShelf) else s.loadFrame w h bs total rd)
    else if (s.sq w).loaded then s.streamFrame w h bs total rd
    else .wait

/-- Frames are parsed as far as the byte stream has them whole (R131). -/
def State.parseAll (s : State) (w : Nat) (rd : IntakeReads) : Nat → State
  | 0 => s
  | fuel + 1 => match s.parseFrame w rd with
    | .wait => s
    | .next s1 => State.parseAll s1 w rd fuel

/-- The frames that the window's byte stream holds, one in every 32 bytes at most. -/
def State.parse (s : State) (w : Nat) (rd : IntakeReads) : State := s.parseAll w rd ((s.ik w).bytes.length / 32 + 1)

/-! Completions. -/

/-- Bytes arrive for the oldest buffers; one that is whole is consumed (R121). -/
def State.arrive (s : State) (w : Nat) : Nat → Nat → State
  | 0, _ => s
  | fuel + 1, n =>
    match (s.ik w).bufs with
    | [] => s
    | b :: rest =>
      if b.2.2.1 ≤ n then
        State.arrive ((s.modIk w fun k => { k with bufs := rest }).advanceCons w b.2.2.2) w fuel (n - b.2.2.1)
      else s.modIk w fun k => { k with bufs := (b.1, b.2.1, b.2.2.1 - n, b.2.2.2) :: rest }

/-- Bytes join the byte stream, behind what is left of the padding. -/
def IntakeSt.join (k : IntakeSt) (bs : List Byte) : IntakeSt := { k with bytes := k.bytes ++ bs.drop k.pad, pad := k.pad - bs.length }

/-- What has arrived is taken in request order: data joins the byte stream as far as it has come, a request that is whole leaves, a descriptor is
read (R125, R131). Requests that a flush or a break has left out do not hold up those behind them. -/
def State.collect (s : State) (w : Nat) : Nat → State
  | 0 => s
  | fuel + 1 =>
    match (s.ik w).reqs with
    | [] => s
    | q :: rest =>
      let new := q.got.drop q.taken
      let s1 := if q.dead || q.desc then s else (s.modIk w fun k => k.join new).arrive w (k1 s w) new.length
      if q.got.length < q.size && q.dead then State.collect (s.modIk w fun k => { k with reqs := rest ++ [q] }) w fuel
      else if q.got.length < q.size then
        s1.modIk w fun k => { k with reqs := { q with taken := q.got.length } :: rest }
      else
        let s2 := s1.modIk w fun k => { k with reqs := rest }
        State.collect (if q.desc && !q.dead then s2.takeDesc w q.got else s2) w fuel
where
  /-- Buffers that one request's bytes can complete. -/
  k1 (s : State) (w : Nat) : Nat := (s.ik w).bufs.length + 1

/-- The request of a tag is still out; one that is whole has freed its tag (R131). -/
def Req.out (q : Req) (tag : Nat) : Bool := decide (q.tag = tag) && decide (q.got.length < q.size)

/-- A read completion brings data for a tag (R131, R132). -/
def State.completion (s : State) (tag : Nat) (data : List Byte) (status : CplStatus) (rd : IntakeReads) : State :=
  match s.host.tags.find? (fun x => x.1 = tag) with
  | none => s
  | some (_, w) =>
    match (s.ik w).reqs.find? (fun q => q.out tag) with
    | none => s.modHost fun h => { h with tags := h.tags.filter fun x => decide (x.1 ≠ tag) }
    | some q =>
      let free := fun (s : State) => s.modHost fun h => { h with tags := h.tags.filter fun x => decide (x.1 ≠ tag) }
      if status ≠ .ok then
        let s1 := (free s).modIk w fun k => { k with reqs := k.reqs.filter fun r => !r.out tag }
        if q.dead then s1 else s1.breakStream w 6 nullShelf
      else
        let got := (q.got ++ data).take q.size
        let s1 := s.modIk w fun k => { k with reqs := k.reqs.map fun r => if r.out tag then { r with got := got } else r }
        let s2 := if got.length < q.size then s1 else free s1
        let n := (s2.ik w).reqs.length
        (s2.collect w n).parse w rd

/-- A request's completion timeout breaks its stream, with CPL_TIMEOUT (R132, R293). -/
def State.timeout (s : State) (tag : Nat) : State :=
  if s.host.tags.any fun x => decide (x.1 = tag) then (s.completion tag [] .abort {}).raiseDev 4 5 0 2 else s

/-- The consumer index is posted to host memory, at most once a microsecond (R121). -/
def State.postCons (s : State) (w : Nat) : State :=
  let k := s.ik w
  let r := s.wreg w 2 0x058
  let due := match k.postAt with | some t => decide (t + us ≤ s.now) | none => true
  if k.postDue && due && bit r 0 && s.canIssue then
    (s.modIk w fun k => { k with postDue := false, postAt := some s.now }).emit (.write (bits r 3 61 * 8) (bytesOf k.cons 8))
  else s

/-! Meanings. -/

def execIntProdWrite (dt : Nat) (w : WinId) (val : BitVec 32) (s : State) : Host.Outcome State Fault Refusal :=
  .next ((s.advance dt).hostWrite (winPage w 2) (.intProdWrite dt w val) fun s => s.writeIntProd w val.toNat)
def execIntakeReadRequest (dt : Nat) (s : State) : Host.Outcome State Fault Refusal := .next (s.advance dt).intakeIssue
def execReadCompletion (dt : Nat) (tag : Nat) (data : List Byte) (status : CplStatus) (reads : IntakeReads) (s : State) :
    Host.Outcome State Fault Refusal := .next ((s.advance dt).completion tag data status reads)
def execConsIndexPost (dt : Nat) (w : WinId) (s : State) : Host.Outcome State Fault Refusal := .next ((s.advance dt).postCons w)
def execCplTimeout (dt : Nat) (tag : Nat) (s : State) : Host.Outcome State Fault Refusal := .next ((s.advance dt).timeout tag)
def execIntRingWrite (dt : Nat) (w : WinId) (val : Word) (s : State) : Host.Outcome State Fault Refusal :=
  .next ((s.advance dt).hostWrite (winPage w 2) (.intRingWrite dt w val) fun s => s.writeIntRing w val.toNat)
def execSluCfgWrite (dt : Nat) (w : WinId) (val : BitVec 32) (s : State) : Host.Outcome State Fault Refusal :=
  .next ((s.advance dt).hostWrite (winPage w 2) (.sluCfgWrite dt w val) fun s => s.writeSluCfg w val.toNat)

end Sys2Proof.Machine
end

