-- ==== Sys2Proof/Machine/Timing.lean ====
section
/-!
DEFINITION. Sys2Proof/Machine/Timing.lean: loss and return of the timebase's lock (R146 to R148), staged changes (R164, R167),
calibration and drift (R168 to R172, R268).
-/

namespace Sys2Proof.Machine

/-! The timebase. -/

/-- SYN.NYW_CFG: EN and POS (R350). -/
def State.nywEn (s : State) : Bool := bit (s.dreg 3 0x100) 0
def State.nywPos (s : State) : Nat := bits (s.dreg 3 0x100) 1 2

/-- The timebase loses lock and enters holdover (R146, R147). -/
def State.loseLock (s : State) (refMissing : Bool) : State :=
  if !s.ref.locked then s
  else
    let s1 := s.modRef fun r => { r with
      locked := false, holdover := true, present := !refMissing, losses := satInc 65535 r.losses, lossT := gtOf s.t }
    let s2 := s1.raiseDev 2 0 0 2
    if refMissing then s2.raiseDev 2 1 0 2 else s2

/-- The link is locked on a part at position 1 to 3: the phase error of a re-lock is the deviation from position 0 (R358). -/
def State.slewsToLink (s : State) : Bool := decide (s.nywPos ≠ 0) && s.nywEn && s.nywLocked

/-- The phase error that a re-lock works off: on a locked link the deviation from position 0, as the TIME frames have shown it; else the one
found against the reference (R148, R358). -/
def State.phaseFound (s : State) (phase : BitVec 40) : BitVec 40 :=
  match (if s.slewsToLink then s.syn.devAll else none) with
  | some d => BitVec.ofInt 40 d
  | none => phase

/-- The reference returns with a phase error: the slew starts (R148, R345, R358). While bring-up waits for
it nothing slews (R380). -/
def State.refReturn (s : State) (phase : BitVec 40) : State :=
  if s.ref.locked then s
  else
    let s1 := if s.gtRun then s.modRef fun r => { r with
        slewing := true, phase := s.phaseFound phase, phaseNyw := s.slewsToLink } else s
    (s1.modRef fun r => { r with present := true }).endCond (devSrc 2 1) 0

/-- A deviation held in 16 signed bits (SYN.NYW_STAT.DEV). -/
def devOf (d : Int) : BitVec 16 := BitVec.ofInt 16 (if 32767 < d then 32767 else if d < -32768 then -32768 else d)

/-- A slew against position 0 has ended: what remains lies within ±2 tq (R148), which of them is a free value (log 5), and alignment has returned
without a step (R358). -/
def State.slewedToLink (s : State) : State :=
  let v := s.draw
  let r : Int := (v.1.toNat % 5 : Nat) - 2
  (v.2.modSyn fun y => { y with dev := devOf r, devAll := some r }).modRef fun x => { x with aligned := true }

/-- The slew ends: the timebase is locked again (R148, R358). -/
def State.relock (s : State) : State :=
  if !s.ref.slewing then s
  else
    let s1 := if s.ref.phaseNyw then s.slewedToLink else s
    ((s1.modRef fun r => { r with slewing := false, locked := true, holdover := false, relockT := gtOf s.t }).endCond (devSrc 2 0) 0).raiseDev 2 2 0 0

/-! Staged changes. -/

/-- A time-set of a reading carries a reserved format or a proportional edge with a bit above WHOLE (R167). -/
def badFormat (T : TimingView) (t : Nat) : Bool :=
  decide (4 < tsFormat T t) || (List.range 6).any fun j => bit (tsEdge T t j) 63 && decide (bits (tsEdge T t j) 34 9 ≠ 0)

/-- A time-set of a reading breaks R154. -/
def badPair (T : TimingView) (t : Nat) : Bool := !pairOk (tsEdge T t 1) (tsEdge T t 2) || !pairOk (tsEdge T t 4) (tsEdge T t 5)

/-- An enabled period-table entry lies outside 128 tq to 2^40 tq (R167). -/
def badRange (T : TimingView) (e : Nat) : Bool :=
  perEn T e && (decide (perStart T e < 128) || decide (2 ^ 40 < perStart T e) || decide (perEnd T e < 128) || decide (2 ^ 40 < perEnd T e))

/-- Period-table entries that an ARMED or RUN window's burst names or has in force (R167). -/
def State.usedEntries (s : State) (w : Nat) : List Nat :=
  let q := s.sq w
  let force := if s.running w && (s.pl w).begun then (s.pl w).entry else startPeriod q.cur
  force :: ((s.burstNodes w).filter fun x => trusted x.2 && !dKeep x.2).map fun x => dPeriodSel x.2

/-- What is wrong with a set of timing values for a window: REASON and TSET (R167). -/
def State.stageFault (s : State) (w : Nat) (tab : Tab Word) : Option (Nat × Nat) :=
  let T := pendView tab
  let all := List.range 64
  match all.find? (badFormat T), all.find? (badPair T), all.find? (badRange T) with
  | some t, _, _ => some (2, t)
  | none, some t, _ => some (3, t)
  | none, none, some e => some (4, e)
  | none, none, none =>
    if !s.armedRun w then none
    else match lowestPeriod (s.burstFaults w T (s.wreg w 5 0x040)) with
      | some e => some (5, e)
      | none =>
        let used := s.usedEntries w
        match all.find? (fun e => used.contains e && !perEn T e) with
        | some e => some (6, e)
        | none => none

/-- An apply command is refused (R164, R167). -/
def State.stageRefuse (s : State) (w reason tset : Nat) : State :=
  ((s.modTm w fun x => { x with res := x.res.refuse reason x.pend.isSome, tset := tset }).bumpSeq (winPage w 3)).raiseCh w 3 1 0

/-- TIM.STAGE_CMD with GO (R164, R165, R167); point 3 stands for an apply without a boundary. -/
def State.stage (s : State) (w point : Nat) : State :=
  if point = 3 then s.stageRefuse w 7 0
  else if (s.tm w).pend.isSome then s.stageRefuse w 1 0
  else
    let tab := s.shadows w
    match s.stageFault w tab with
    | some (r, t) => s.stageRefuse w r t
    | none => s.modTm w fun x => { x with pend := some (tab, if s.running w then point else 3, s.t), res := x.res.busy }

/-! Calibration. -/

/-- Channel terms of a slot from the seed (R169). -/
def State.seedTerms (s : State) (k : Nat) : BitVec 60 := if s.keep.seedBad.contains k then 0 else Tab.get 0 s.keep.seedCh k
/-- Path terms of a slot for a path (R168, R169). -/
def State.pathTerms (s : State) (k path : Nat) : BitVec 60 :=
  if s.keep.seedBad.contains k then 0 else Tab.get 0 s.keep.seedPath (k / 17 * 32 + (if path = 16 then 16 + k % 17 else path))

/-- A slot's terms are loaded from the seed; a record that fails its check is reported (R169). -/
def State.loadSeed (s : State) (k : Nat) : State :=
  let bad := s.keep.seedBad.contains k
  let s1 := (s.callOff (chSrc k 3) 6).modSlot k fun x => { x with
    chTerm := s.seedTerms k, pathTerm := s.pathTerms k (s.sreg k 3 0x088), measured := false, seedBad := bad, drift := 0, driftTo := 0, driftRef := none }
  if bad then s1.raise (chSrc k 3) 7 2 else s1

/-- TIM.CAL_STAT of a slot takes a finished operation. -/
def State.calFinish (s : State) (w outcome reason : Nat) : State :=
  let k := s.slotOf w
  let s1 := (s.modSlot k fun x => { x with cal := x.cal.done outcome reason, calOp := none }).bumpSeq (winPage w 3)
  if outcome = 1 then s1.raise (chSrc k 3) 2 0 else s1.raise (chSrc k 3) 3 2

/-- A calibration command refused on arrival. -/
def State.calRefuse (s : State) (w reason : Nat) : State :=
  let k := s.slotOf w
  ((s.modSlot k fun x => { x with cal := x.cal.refuse reason x.calOp.isSome }).bumpSeq (winPage w 3)).raise (chSrc k 3) 3 2

/-- A calibration runs in the cluster of a slot (R170). -/
def State.calBusy (s : State) (c : Nat) : Bool := (List.range 17).any fun i => (s.slot (17 * c + i)).calOp.isSome

/-- TIM.CAL_CMD with OP MEASURE (1) or MEASURE_APPLY (2) (R170). -/
def State.calStart (s : State) (w op : Nat) : State :=
  let k := s.slotOf w
  if s.mode w ≠ .service then s.calRefuse w 1
  else if !(s.slot k).kcal then s.calRefuse w 2
  else if (s.clu (k / 17)).afeState ≠ 2 then s.calRefuse w 3
  else if !s.ref.locked then s.calRefuse w 4
  else if s.calBusy (k / 17) then s.calRefuse w 5
  else s.modSlot k fun x => { x with calOp := some op, cal := x.cal.busy }

/-- TIM.CAL_CMD with OP RESTORE_SEED (R169). DESIGN CHOICE (log 116): refused CLUSTER_BUSY while the slot's own measurement runs. -/
def State.calRestore (s : State) (w : Nat) : State :=
  if s.armedRun w then s.calRefuse w 7
  else if (s.slot (s.slotOf w)).calOp.isSome then s.calRefuse w 5
  else (s.loadSeed (s.slotOf w)).calFinish w 1 0

/-- Rank of the record at place `i` of a slot's history ring, newest highest: RESETS, epoch, GT; none where no valid record lies (R268). -/
def State.histRank (s : State) (k i : Nat) : Option Nat :=
  let r := Memory.num s.stackMem (calRing k + 32 * i) 32
  if bit r 160 then some (bits r 176 16 * 2 ^ 80 + bits r 128 16 * 2 ^ 64 + bits r 64 64) else none

/-- The place after the newest record of a slot's history ring, or the first place of an empty ring (R268). -/
def State.histFind (s : State) (k : Nat) : Nat :=
  match ((List.range 65536).foldl (fun (best : Option (Nat × Nat)) i =>
    match s.histRank k i, best with
    | none, _ => best
    | some v, none => some (v, i)
    | some v, some b => if b.1 < v then some (v, i) else best) none) with
  | some b => (b.2 + 1) % 65536
  | none => 0

/-- A slot's waiting history records are written in the ring, once the stack serves (R268, R388). -/
def State.histWrite (s : State) (k : Nat) : State :=
  if !s.stackOn (k / 17 / 4) || (s.slot k).histDue.isEmpty then s
  else
    let at0 := (s.slot k).hist.getD (s.histFind k)
    let due := (s.slot k).histDue
    let s1 := s.each due.zipIdx fun s x => s.setStack (Memory.store s.stackMem (calRing k + 32 * ((at0 + x.2) % 65536)) (bytesOf x.1 32))
    s1.modSlot k fun x => { x with hist := some ((at0 + due.length) % 65536), histDue := [] }

/-- The 32-byte record of one measurement goes to the slot's history ring (R268). -/
def State.calHistory (s : State) (k op : Nat) (terms : BitVec 60) (tj : Byte) : State :=
  let r := pack [(0, 60, terms.toNat), (64, 64, gtOf s.t), (128, 16, epochOf s.t), (144, 8, tj.toNat), (152, 8, s.sreg k 3 0x088),
    (160, 1, 1), (161, 1, b2n (decide (op = 2))), (176, 16, s.dev.count)]
  (s.modSlot k fun x => { x with histDue := x.histDue ++ [r] }).histWrite k

/-- A measurement ends: the terms and Tj it found, or no reference was seen (R170). -/
def State.calEnd (s : State) (w : Nat) (terms : BitVec 60) (tj : Byte) (seen : Bool) : State :=
  let k := s.slotOf w
  match (s.slot k).calOp with
  | none => s
  | some op =>
    if !seen then s.calFinish w 3 8
    else
      let s1 := (s.modSlot k fun x => { x with meas := terms, calTj := tj, calT := gtOf s.t }).calHistory k op terms tj
      let s2 := if op = 2 then
          (s1.callOff (chSrc k 3) 6).modSlot k fun x => { x with chTerm := terms, measured := true, calSeed := false, drift := 0, driftTo := 0, driftRef := none }
        else s1
      s2.calFinish w 1 0

/-- TIM.CAL_PATH is written (R171). -/
def State.writeCalPath (s : State) (w v : Nat) : State :=
  let k := s.slotOf w
  let path := bits v 0 5
  if s.armedRun w || (if k % 17 = 16 then 15 < path else path ≠ 16) then s
  else (s.setReg (slotAddr k 3 0x088) path).modSlot k fun x => { x with pathTerm := s.pathTerms k path }

/-- A drift limit still ahead of a slot's slew is withdrawn: the slew ends here, at the term applied now (R172). -/
def State.driftHold (s : State) (k : Nat) : State :=
  let d := (s.slot k).driftAt s.now
  (s.callOff (chSrc k 3) 6).modSlot k fun x => { x with drift := d, driftTo := d, driftT := s.now }

/-- One reading of a slot's delay replica (R172): the first after the terms were loaded is the reference; from then on the drift term moves
to the change since the reference. DRIFT_LIMIT carries the instant at which the slew takes the term past 12 tq. -/
def State.driftRead (s : State) (k : Nat) (reading : Int) : State :=
  let x := s.slot k
  if !x.afeOn || !bit (s.sreg k 3 0x090) 0 then s
  else match x.driftRef with
    | none => s.modSlot k fun x => { x with driftRef := some reading, drift := 0, driftTo := 0, driftT := s.now }
    | some ref =>
      let d := x.driftAt s.now
      let goal := reading - ref
      let s1 := (s.driftHold k).modSlot k fun x => { x with driftTo := goal }
      let steps : Nat := if 0 < goal then (13 - d).toNat else (13 + d).toNat
      if (decide (12 < goal) && decide (d ≤ 12)) || (decide (goal < -12) && decide (-12 ≤ d)) then
        let t := s.t + steps * (10 * us)
        s1.raiseAt (chSrc k 3) 6 0 nullShelf (Config.detailValue (chSrc k 3) 6 t) t
      else s1

/-- TIM.DRIFT is written: with EN = 0 the term holds the value it has now (R172). -/
def State.writeDrift (s : State) (w v : Nat) : State :=
  let k := s.slotOf w
  let s1 := s.setReg (slotAddr k 3 0x090) (v % 2)
  if bit v 0 then s1 else s1.driftHold k

/-! Meanings. -/

def execLossOfLock (dt : Nat) (refMissing : Bool) (s : State) : Host.Outcome State Fault Refusal := .next ((s.advance dt).loseLock refMissing)
def execReferenceReturn (dt : Nat) (phase : BitVec 40) (s : State) : Host.Outcome State Fault Refusal := .next ((s.advance dt).refReturn phase)
def execRelockDone (dt : Nat) (s : State) : Host.Outcome State Fault Refusal := .next (s.advance dt).relock
def execEpochWrap (s : State) : Host.Outcome State Fault Refusal := .next (if s.gtRun then s.advance (2 ^ 64 - gtOf s.t) else s)
def execStageCmd (dt : Nat) (w : WinId) (point : BitVec 2) (s : State) : Host.Outcome State Fault Refusal :=
  .next ((s.advance dt).hostWrite (winPage w 3) (.stageCmd dt w point) fun s => s.stage w point.toNat)
def execCalMeasure (dt : Nat) (w : WinId) (s : State) : Host.Outcome State Fault Refusal :=
  .next ((s.advance dt).hostWrite (winPage w 3) (.calMeasure dt w) fun s => s.calStart w 1)
def execCalMeasureApply (dt : Nat) (w : WinId) (s : State) : Host.Outcome State Fault Refusal :=
  .next ((s.advance dt).hostWrite (winPage w 3) (.calMeasureApply dt w) fun s => s.calStart w 2)
def execRestoreSeed (dt : Nat) (w : WinId) (s : State) : Host.Outcome State Fault Refusal :=
  .next ((s.advance dt).hostWrite (winPage w 3) (.restoreSeed dt w) fun s => s.calRestore w)
def execCalDone (dt : Nat) (w : WinId) (terms : BitVec 60) (tj : Byte) (seen : Bool) (s : State) : Host.Outcome State Fault Refusal :=
  .next ((s.advance dt).calEnd w terms tj seen)
def execCalPathWrite (dt : Nat) (w : WinId) (val : BitVec 32) (s : State) : Host.Outcome State Fault Refusal :=
  .next ((s.advance dt).hostWrite (winPage w 3) (.calPathWrite dt w val) fun s => s.writeCalPath w val.toNat)
def execDriftMeasure (dt : Nat) (slot : SlotId) (reading : Int) (s : State) : Host.Outcome State Fault Refusal :=
  .next ((s.advance dt).driftRead slot reading)

end Sys2Proof.Machine
end

