-- ==== Sys2Proof/Machine/FrontEnd.lean ====
section
/-!
DEFINITION. Sys2Proof/Machine/FrontEnd.lean: levels and termination (R174 to R179), the parametric unit (R181 to R186), the MEMS
switches and their counts (R187 to R193), the spare swap (R195).
-/

namespace Sys2Proof.Machine

/-! Levels. -/

/-- A drive or termination code lies in its range (R174). -/
def drvCode (c : Nat) : Bool := 9831 ≤ c && c ≤ 58982
/-- A threshold, hold level, PPMU voltage or voltage clamp lies in its range (R174). -/
def cmpCode (c : Nat) : Bool := 6554 ≤ c && c ≤ 62259

/-- AFE.LVL_STAT takes the judgement of a level write: outcome 1 ACCEPTED or 2 REFUSED. -/
def State.lvlPost (s : State) (w outcome reason : Nat) : State :=
  let s1 := (s.modPm w fun p => { p with lvl := p.lvl.done outcome reason }).bumpSeq (winPage w 5)
  if outcome = 2 then s1.raiseCh w 4 0 0 else s1

/-- A level register takes an accepted write: SETTLED reads 0 until the levels have settled (R178). -/
def State.lvlStore (s : State) (w off v : Nat) : State :=
  ((s.setReg (pageAddr (winPage w 5) off) v).modPm w fun p => { p with lvlSettled := false, lvlWritten := true }).lvlPost w 1 0

/-- The readings of the timing tables under which a window's burst can play: the active one and that of a pending set (R164, R177). -/
def State.burstViews (s : State) (w : Nat) : List TimingView :=
  s.activeView w :: (match (s.tm w).pend with | some (tab, _, _) => [pendView tab] | none => [])

/-- What is wrong with a value of AFE.DRV_LVL: 1 RANGE, 2 ORDER, 3 SWING; 0 nothing (R174, R177). -/
def State.drvFault (s : State) (w v : Nat) : Nat :=
  let vih := bits v 0 16
  let vil := bits v 16 16
  if !drvCode vih || !drvCode vil || !drvCode (bits v 32 16) then 1
  else if vih < vil then 2
  else if 32768 < vih - vil then 3
  else if s.armedRun w && 6553 < vih - vil && swingOf (s.wreg w 5 0x040) ≤ 6553 && (s.burstViews w).any fun T => !(s.burstFaults w T v).isEmpty
    then 3
  else 0

/-- What is wrong with a value of AFE.CMP_LVL (R174, R180). -/
def cmpFault (v : Nat) : Nat :=
  if !cmpCode (bits v 0 16) || !cmpCode (bits v 16 16) then 1 else if bits v 0 16 < bits v 16 16 then 2 else 0

/-- A level register is written: stored whole, or refused whole (R175, R178). -/
def State.writeLevel (s : State) (w : Nat) (r : LvlReg) (v : Nat) : State :=
  let f := match r with
    | .drv => s.drvFault w v
    | .cmp => cmpFault v
    | .bleed => if cmpCode (bits v 0 16) then 0 else 1
  if f ≠ 0 then s.lvlPost w 2 f
  else match r with
    | .drv => s.lvlStore w 0x040 (bits v 0 48)
    | .cmp => s.lvlStore w 0x048 (bits v 0 32)
    | .bleed => s.lvlStore w 0x054 (bits v 0 16)

/-- AFE.TERM is written (R179). -/
def State.writeTerm (s : State) (w v : Nat) : State := s.lvlStore w 0x050 (bits v 0 1)

/-- The levels have settled; in OFF they are only stored (R176, R178). -/
def State.settleLevels (s : State) (w : Nat) : State :=
  if s.mode w = .off || !(s.pm w).lvlWritten then s else s.modPm w fun p => { p with lvlSettled := true }

/-! The parametric unit. PMU.CFG.MODE: 0 OFF, 1 FVMI, 2 FIMV, 3 FZMV. -/

/-- The PPMU mode forces a quantity (R181). -/
def forces (m : Nat) : Bool := m = 1 || m = 2

/-- A window mode allows a PPMU mode (R181). -/
def pmuAllowed (m : Nat) (md : Mode) : Bool :=
  match md with
  | .ready => true
  | .service => true
  | .armed => m = 0 || m = 3
  | .run => m = 0 || m = 3
  | _ => m = 0

/-- PMU.FORCE.VALUE is in the range of a mode (R174, R175). -/
def forceOk (m v : Nat) : Bool := m ≠ 1 || cmpCode v

/-- Settling time of R183, in tq. -/
def pmuSettle (m range : Nat) : Nat :=
  if m = 0 then 0 else if m = 3 then 10 * us
  else match range with | 0 => 1000 * us | 1 => 200 * us | 2 => 50 * us | 3 => 20 * us | _ => 10 * us

def State.pmuRange (s : State) (w : Nat) : Nat := bits (s.wreg w 6 0x040) 4 3
def State.pmuForce (s : State) (w : Nat) : Nat := s.wreg w 6 0x044 % 65536

/-- The settling time since the last change of R183 has passed. -/
def State.pmuIsSettled (s : State) (w : Nat) : Bool :=
  decide ((s.pm w).changed + pmuSettle (s.pm w).active (s.pmuRange w) ≤ s.now)

/-- A PMU register write is refused (PMU.STAT). -/
def State.pmuRefuse (s : State) (w reason : Nat) : State :=
  (s.modPm w fun p => { p with refused := true, reason := reason }).raiseCh w 5 3 0
def State.pmuAccept (s : State) (w : Nat) : State := s.modPm w fun p => { p with refused := false, reason := 0 }

/-- A change that R183 and R185 name: settling starts afresh and a measurement is disturbed. -/
def State.pmuChanged (s : State) (w : Nat) : State :=
  s.modPm w fun p => { p with changed := s.now, settled := false, mBad := p.mBad || p.meas.isSome }

/-- The driver follows the PPMU in READY: off while it forces, the static drive otherwise (R182). -/
def State.driveWithPmu (s : State) (w : Nat) : State :=
  if s.mode w ≠ .ready then s
  else if forces (s.pm w).active then s.modSlot (s.slotOf w) fun x => { x with drvEn := false, edges := [] }
  else s.setStatic w (s.md w).static

/-- The termination in effect at a window's pin: 50 Ω to VTT, else high-impedance (R42, R179, R182). It follows the driver's enable in READY,
ARMED and RUN under AFE.TERM.MODE, and is high-impedance while the parametric unit forces, while a mode command takes the window out of
READY (R48), and in OFF, PARKED and SERVICE. -/
def State.terminated (s : State) (w : Nat) : Bool :=
  let leaving := match (s.md w).trans with | some x => x.cmd = 2 || x.cmd = 8 | none => false
  bit (s.wreg w 5 0x050) 0 && (s.mode w = .ready || s.armedRun w) && !leaving && !s.drvNow (s.slotOf w) && !forces (s.pm w).active

/-- PMU.CFG takes a mode and a range; the unit follows (R181 to R183, R259). -/
def State.pmuSet (s : State) (w m range cause : Nat) : State :=
  let old := s.pmuMode w
  let changed := decide (m ≠ old) || decide (range ≠ s.pmuRange w)
  let quantity := decide ((old = 1) ≠ (m = 1)) || decide (range ≠ s.pmuRange w)
  let s0 := if m = 0 then s.redDisarmAt w s.t cause else if quantity then s.redCut w else s
  let s1 := (s0.setReg (pageAddr (winPage w 6) 0x040) (m + 16 * range)).modPm w fun p =>
    { p with active := m, clamped := p.clamped && decide (m = old) }
  let s2 := if changed then s1.pmuChanged w else s1
  if m = old then s2 else s2.driveWithPmu w

/-- PMU.CFG is written (R181 to R183). FORCE_ENDED clears at every write of it. -/
def State.writePmuCfg (s : State) (w v : Nat) : State :=
  let m := bits v 0 2
  let range := bits v 4 3
  let s0 := s.modPm w fun p => { p with forceEnded := false }
  if !pmuAllowed m (s.mode w) then s0.pmuRefuse w 1
  else if 4 < range || (m ≠ s.pmuMode w && !forceOk m (s.pmuForce w)) then s0.pmuRefuse w 2
  else (s0.pmuAccept w).pmuSet w m range 3

/-- A mode command ends forcing and sets PMU.CFG.MODE to OFF (R182). -/
def State.pmuEnd (s : State) (w cause : Nat) : State :=
  let forced := forces (s.pmuMode w)
  let s1 := s.pmuSet w 0 (s.pmuRange w) cause
  if forced then (s1.modPm w fun p => { p with forceEnded := true }).raiseCh w 5 2 0 else s1

/-- PMU.FORCE is written: checked against the mode in force. -/
def State.writePmuForce (s : State) (w v : Nat) : State :=
  let v := v % 65536
  if !forceOk (s.pmuMode w) v then s.pmuRefuse w 2
  else
    let s1 := (s.pmuAccept w).setReg (pageAddr (winPage w 6) 0x044) v
    if v = s.pmuForce w then s1 else s1.pmuChanged w

/-- PMU.CLAMP is written (R174, R184). -/
def State.writePmuClamp (s : State) (w v : Nat) : State :=
  let v := bits v 0 47
  if !cmpCode (bits v 0 16) || !cmpCode (bits v 16 16) then s.pmuRefuse w 2
  else if bits v 0 16 ≤ bits v 16 16 then s.pmuRefuse w 3
  else
    let s1 := (s.pmuAccept w).setReg (pageAddr (winPage w 6) 0x048) v
    if v = s.wreg w 6 0x048 then s1 else s1.pmuChanged w

/-- PMU.THRESH is written. -/
def State.writePmuThresh (s : State) (w v : Nat) : State := (s.pmuAccept w).setReg (pageAddr (winPage w 6) 0x050) (v % 2 ^ 32)

/-- SETTLED reads 1 once the time of R183 has passed. -/
def State.pmuSettledNow (s : State) (w : Nat) : State :=
  if s.pmuIsSettled w then s.modPm w fun p => { p with settled := true } else s

/-- PMU.MEAS_CMD with GO (R185). -/
def State.pmuMeas (s : State) (w n : Nat) (wait : Bool) : State :=
  let busy := (s.pm w).meas.isSome
  if busy || s.pmuMode w = 0 then
    ((s.modPm w fun p => { p with res := p.res.refuse (if busy then 1 else 2) busy }).bumpSeq (winPage w 6)).raiseCh w 5 3 0
  else s.modPm w fun p => { p with meas := some (n + 1, 0, 0, wait), mOver := false, mClamp := false, mBad := false, res := p.res.busy }

/-- A sample's code as a number: a current code is signed, a voltage code is not (R174, R175). -/
def sampleVal (current : Bool) (code : BitVec 16) : Int := if current then code.toInt else (code.toNat : Int)

/-- The sample stands at an end of the code range (R185). -/
def atEnd (current : Bool) (v : Int) : Bool := if current then v = -32768 || v = 32767 else v = 0 || v = 65535

/-- A sample of the PPMU's ADC: threshold flags, clamp, measurement, reduction; none is taken in an exchange, one at each
GT that is a multiple of 250 ns (R184 to R186, R258, R266). -/
def State.sample (s : State) (w : Nat) (code : BitVec 16) (clamped : Bool) : State :=
  let p := s.pm w
  if p.active = 0 || s.exchanging w || gtOf s.t % 256000 ≠ 0 || p.sampT = some s.t then s
  else
    let cur := decide (p.active = 1)
    let v := sampleVal cur code
    let th := s.wreg w 6 0x050
    let clamp := clamped && forces p.active
    let oversub := atEnd cur v
    let s1 := s.modPm w fun p => { p with
      above := decide (sampleVal cur (BitVec.ofNat 16 (bits th 0 16)) < v)
      below := decide (v < sampleVal cur (BitVec.ofNat 16 (bits th 16 16)))
      clamped := clamp, sampT := some s.t }
    let s2 := if clamp && !p.clamped then s1.raiseCh w 5 1 0 else s1
    let s3 := match p.meas with
      | some (n, k, sum, wait) =>
        if k = n || (wait && !s.pmuIsSettled w) then s2
        else s2.modPm w fun p => { p with
          meas := some (n, k + 1, sum + v, false), mT := if k = 0 then s.t else p.mT, mOver := p.mOver || oversub, mClamp := p.mClamp || clamp }
      | none => s2
    s3.redSample w cur (s.pmuRange w) v clamp oversub

/-- A mean rounded to the nearest code, ties towards +∞ (R185). -/
def meanOf (sum : Int) (n : Nat) : Int := (2 * sum + n) / (2 * n : Nat)

/-- A measurement finishes: its mean, or FAILED with DISTURBED (R185). -/
def State.pmuFinish (s : State) (w : Nat) : State :=
  let p := s.pm w
  match p.meas with
  | none => s
  | some (n, k, sum, _) =>
    if p.mBad then
      ((s.modPm w fun p => { p with meas := none, res := p.res.done 3 3 }).bumpSeq (winPage w 6)).raiseCh w 5 0 0
    else if k < n then s
    else
      ((s.modPm w fun p => { p with
        meas := none, value := BitVec.ofInt 16 (meanOf sum n), flags := (decide (p.active = 1), s.pmuRange w, p.mClamp, p.mOver),
        resT := p.mT, res := p.res.done 1 0 }).bumpSeq (winPage w 6)).raiseCh w 5 0 0

/-! Switches. -/

/-- The connecting switch of a window is closed: K_DUT of its own slot, or K_SPARE of its pin for slot c.16 (R187). -/
def State.connClosed (s : State) (w : Nat) : Bool :=
  let k := s.slotOf w % 17
  if k = 16 then decide (w < 128) && (s.clu (cluOf w)).kspare.getLsbD (w % 16) else (s.clu (cluOf w)).kdut.getLsbD k

/-- Index of the connecting switch in CLU_c.SW_LIFE. -/
def State.connIndex (s : State) (w : Nat) : Nat := if s.slotOf w % 17 = 16 then 3 * (w % 16) + 1 else 3 * (s.slotOf w % 17)

/-- The connecting switch of a window is set. -/
def State.setConn (s : State) (w : Nat) (b : Bool) : State :=
  let k := s.slotOf w % 17
  s.modClu (cluOf w) fun x => if k = 16 then { x with kspare := putBit x.kspare (w % 16) b } else { x with kdut := putBit x.kdut k b }

/-- CTL.MODE_STAT.CONN (R187). -/
def State.conn (s : State) (w : Nat) : Nat :=
  let k := s.slotOf w
  let c := s.clu (cluOf w)
  if k % 17 = 16 then (if c.kspare ≠ 0 then 2 else if (s.slot k).kcal then 3 else 0)
  else if c.kdut.getLsbD (k % 17) then 1 else if (s.slot k).kcal then 3 else 0

/-- Key of a switch in the keeper's store. -/
def lifeKey (c i : Nat) : Nat := c * 64 + i

/-- The live count of switch `i` of cluster `c` is stored (R192). -/
def State.storeCount (s : State) (c i : Nat) : State :=
  s.modKeep fun k => { k with stored := Tab.set 0 k.stored (lifeKey c i) (Tab.get 0 (s.clu c).life i) }

/-- The count at which a switch of cluster `c` is worn (CLU_c.SW_WARN, R193). -/
def State.wearAt (s : State) (c : Nat) : Nat := s.creg c 0x918 % 1024 * 1000000

/-- The contacts of switch `i` of cluster `c` close: the live 40-bit count of that switch position rises by one (R191), is stored when it
has grown 65,536 above the stored count (R192), and SW_WEAR is raised once for the switch when it reaches the threshold (R193). -/
def State.countClose (s : State) (c i : Nat) : State :=
  let n := satInc (2 ^ 40 - 1) (Tab.get 0 (s.clu c).life i)
  let s1 := s.modClu c fun x => { x with life := Tab.set 0 x.life i n }
  let s2 := if Tab.get 0 s.keep.stored (lifeKey c i) + 65536 ≤ n then s1.storeCount c i else s1
  if s.wearAt c ≤ n && !Tab.get false s.keep.worn (lifeKey c i) then
    (s2.modKeep fun k => { k with worn := Tab.set false k.worn (lifeKey c i) true }).raiseVal (cluSrc c 4) 0 0 i
  else s2

/-- The channel side's hold level VBLEED in 10 mV units, rounded towards −∞ (R174, R188). -/
def State.holdLevel (s : State) (w : Nat) : Int := (1000 * (s.wreg w 5 0x054 : Int)) / 65536 - 300

/-- What the check before a closure measures: the far side's level (the ball's, or the calibration bus's, which idles at 0) less the channel
side's hold level (R188), in 10 mV units. -/
def State.closeDrop (s : State) (w : Nat) (far : BitVec 16) : BitVec 16 := BitVec.ofInt 16 (far.toInt - s.holdLevel w)

/-- The contact check of R188: a source on the channel side is on, or the measured magnitude exceeds 0.48 V (10 mV units). The termination is
high-impedance at every check: in PARKED and SERVICE (R179), and from READY by the step before the check (R48). -/
def State.contactHot (s : State) (w : Nat) (v : BitVec 16) : Bool :=
  (s.slot (s.slotOf w)).drvEn || decide ((s.pm w).active ≠ 0) || decide (48 < v.toInt.natAbs)

/-- AFE.SW_STATE.CHECK_V records what a contact check measured, whatever the outcome (R188). -/
def State.recordCheck (s : State) (w : Nat) (v : BitVec 16) : State := s.modSlot (s.slotOf w) fun x => { x with checkV := v }

/-- AFE.SW_RESULT takes a finished operation. -/
def State.swPost (s : State) (w outcome reason : Nat) : State :=
  (s.modPm w fun p => { p with sw := p.sw.done outcome reason }).bumpSeq (winPage w 5)

/-- A switch command is refused on arrival (AFE.SW_RESULT). -/
def State.swRefuse (s : State) (w reason : Nat) : State :=
  let busy := match (s.md w).trans with | some x => decide (x.swOp ≠ 0) | none => false
  (s.modPm w fun p => { p with sw := p.sw.refuse reason busy }).bumpSeq (winPage w 5)

/-- Closing K_CAL of a window's slot would break an exclusive path, closures in progress included (R187, R190). -/
def State.calExcluded (s : State) (w : Nat) : Bool :=
  let c := cluOf w
  let k := s.slotOf w
  ((cluWins c).any fun v => decide (v ≠ w) &&
    ((s.slot (s.slotOf v)).kcal || (match (s.md v).trans with | some x => decide (x.swOp = 1) | none => false))) ||
    (if k % 17 = 16 then decide ((s.clu c).kspare ≠ 0) else (s.clu c).kdut.getLsbD (k % 17))

/-- AFE.SW_CMD with GO: 1 CLOSE_CAL, 2 OPEN_CAL (R188 to R190). DESIGN CHOICE (log 97): BUSY for the two windows of an exchange in progress,
which leaves every switch open (R195). -/
def State.swCmd (s : State) (w op : Nat) (check : BitVec 16) : State :=
  if (s.md w).trans.isSome || s.exchanging w then s.swRefuse w 1
  else if op = 0 || op = 3 then s.swRefuse w 5
  else if s.mode w ≠ .service then s.swRefuse w 2
  else if op = 1 && s.calExcluded w then s.swRefuse w 4
  else
    let moves := (s.slot (s.slotOf w)).kcal != decide (op = 1)
    let check := if op = 1 then s.closeDrop w check else check
    let s1 := if moves then s.recordCheck w check else s
    let tr : Trans := { cmd := 0, tag := 0, target := .service, at_ := s.t, swOp := op, oversub := false, cancelled := false,
                        hot := moves && s.contactHot w check }
    (s1.modMd w fun m => { m with trans := some tr }).modPm w fun p => { p with sw := p.sw.busy }

/-- K_CAL of a window's slot is set; a closure counts (R191). -/
def State.setCal (s : State) (w : Nat) (b : Bool) : State :=
  let k := s.slotOf w
  if (s.slot k).kcal = b then s
  else
    let s1 := s.modSlot k fun x => { x with kcal := b }
    if b then s1.countClose (k / 17) (if k % 17 = 16 then 48 else 3 * (k % 17) + 2) else s1

/-- A switch command finishes (R188 to R190). -/
def State.swDone (s : State) (w : Nat) : State :=
  match (s.md w).trans with
  | none => s
  | some x =>
    if x.swOp = 0 then s
    else
      let s1 := s.modMd w fun m => { m with trans := none }
      if x.hot then (s1.swPost w 2 3).raiseCh w 4 1 0
      else ((s1.setCal w (x.swOp = 1)).swPost w 1 0).raiseCh w 4 3 0

/-- A switch command's switch misses its time (R189, R191); a command that moves no switch cannot. -/
def State.swFail (s : State) (w op : Nat) : State :=
  let k := s.slotOf w
  if (s.slot k).kcal = decide (op = 1) then s
  else
    let s1 := s.modMd w fun m => { m with trans := none }
    let s2 := if op = 1 then s1.countClose (k / 17) (if k % 17 = 16 then 48 else 3 * (k % 17) + 2) else s1
    (s2.swPost w 3 6).raiseCh w 4 2 2

/-- CLU_c.SW_FLUSH.FLUSH is written (R192). -/
def State.swFlushStart (s : State) (c : Nat) : State := s.modClu c fun x => { x with flushing := true }

/-- All 49 counts of a cluster are stored (R192). -/
def State.storeAll (s : State) (c : Nat) : State := s.each (List.range 49) fun s i => s.storeCount c i

/-- The flush completes (R192). -/
def State.swFlushEnd (s : State) (c : Nat) : State :=
  if (s.clu c).flushing then (s.storeAll c).modClu c fun x => { x with flushing := false } else s

/-! The spare swap. -/

/-- A switch command is in progress in the cluster. -/
def State.swBusy (s : State) (c : Nat) : Bool :=
  (cluWins c).any fun w => match (s.md w).trans with | some x => decide (x.swOp ≠ 0) | none => false

/-- A window is in SERVICE with no transition in progress. -/
def State.inService (s : State) (w : Nat) : Bool := s.mode w = .service && (s.md w).trans.isNone

/-- Why an exchange of position `k` of cluster `c` is refused, by the table of R195; 0 when it is not. -/
def State.swapFault (s : State) (c k : Nat) : Nat :=
  let x := s.clu c
  let undo := x.swapped.isSome
  if x.swapping.isSome || s.swBusy c then 1
  else if !s.inService (16 * c + k) || !s.inService (128 + c) then 2
  else if (match x.swapped with | some p => decide (p.toNat ≠ k) | none => false) then 3
  else if x.kdut.getLsbD k || x.kspare.getLsbD k || (s.slot (17 * c + k)).kcal || (s.slot (17 * c + 16)).kcal then 4
  else if !undo && s.sreg (17 * c + 16) 3 0x088 % 32 ≠ k then 5
  else if undo && x.retired.getLsbD k then 6
  else if x.afeState ≠ 2 then 7
  else 0

/-- CLU_c.SWAP with GO (R195). -/
def State.swapCmd (s : State) (c k : Nat) : State :=
  let f := s.swapFault c k
  if f ≠ 0 then
    ((s.modClu c fun x => { x with swap := x.swap.refuse f x.swapping.isSome }).bumpSeq (cluPage c)).raiseClu c 5 1 0
  else s.modClu c fun x => { x with swapping := some (BitVec.ofNat 4 k), swap := x.swap.busy }

/-- The stamper and the reduction of a window after the exchange (R245, R266): an interval from before it whose grid boundary the exchange
has passed is over; one still in progress is short. -/
def State.afterExchange (s : State) (w : Nat) : State :=
  let s1 := s.modSt w fun x =>
    if x.isArmed s.t then { x with presc := 0, rawT := none, unknown := x.unknown || decide (1 ≤ s.stpP w) } else x
  ((s1.redSettle w s.t).redGrid w s.t).modRd w fun r => { r with short := r.short || decide (r.n ≠ 0) }

/-- The exchange completes: the mapping changes and the pin's routes are calibrated afresh (R195). -/
def State.swapEnd (s : State) (c : Nat) : State :=
  match (s.clu c).swapping with
  | none => s
  | some p =>
    let s1 := (s.modClu c fun x => { x with
      swapped := if x.swapped.isSome then none else some p, swapping := none, swap := x.swap.done 1 0 }).calLat c
    (((s1.afterExchange (16 * c + p.toNat)).afterExchange (128 + c)).bumpSeq (cluPage c)).raiseClu c 5 0 0

/-! Meanings. -/

def execLevelWrite (dt : Nat) (w : WinId) (reg : LvlReg) (val : Word) (s : State) : Host.Outcome State Fault Refusal :=
  .next ((s.advance dt).hostWrite (winPage w 5) (.levelWrite dt w reg val) fun s => s.writeLevel w reg val.toNat)
def execLevelSettled (dt : Nat) (w : WinId) (s : State) : Host.Outcome State Fault Refusal := .next ((s.advance dt).settleLevels w)
def execTermWrite (dt : Nat) (w : WinId) (val : BitVec 32) (s : State) : Host.Outcome State Fault Refusal :=
  .next ((s.advance dt).hostWrite (winPage w 5) (.termWrite dt w val) fun s => s.writeTerm w val.toNat)
def execPmuCfgWrite (dt : Nat) (w : WinId) (val : BitVec 32) (s : State) : Host.Outcome State Fault Refusal :=
  .next ((s.advance dt).hostWrite (winPage w 6) (.pmuCfgWrite dt w val) fun s => s.writePmuCfg w val.toNat)
def execPmuSettled (dt : Nat) (w : WinId) (s : State) : Host.Outcome State Fault Refusal := .next ((s.advance dt).pmuSettledNow w)
def execPmuMeasCmd (dt : Nat) (w : WinId) (n : BitVec 16) (wait : Bool) (s : State) : Host.Outcome State Fault Refusal :=
  .next ((s.advance dt).hostWrite (winPage w 6) (.pmuMeasCmd dt w n wait) fun s => s.pmuMeas w n.toNat wait)
def execPmuMeasDone (dt : Nat) (w : WinId) (s : State) : Host.Outcome State Fault Refusal := .next ((s.advance dt).pmuFinish w)
def execPpmuSample (dt : Nat) (w : WinId) (code : BitVec 16) (clamped : Bool) (s : State) : Host.Outcome State Fault Refusal :=
  .next ((s.advance dt).sample w code clamped)
def execCloseCal (dt : Nat) (w : WinId) (check : BitVec 16) (s : State) : Host.Outcome State Fault Refusal :=
  .next ((s.advance dt).hostWrite (winPage w 5) (.closeCal dt w check) fun s => s.swCmd w 1 check)
def execOpenCal (dt : Nat) (w : WinId) (check : BitVec 16) (s : State) : Host.Outcome State Fault Refusal :=
  .next ((s.advance dt).hostWrite (winPage w 5) (.openCal dt w check) fun s => s.swCmd w 2 check)
def execSwOpDone (dt : Nat) (w : WinId) (s : State) : Host.Outcome State Fault Refusal := .next ((s.advance dt).swDone w)
def execSwFlush (dt : Nat) (c : CluId) (s : State) : Host.Outcome State Fault Refusal :=
  .next ((s.advance dt).hostWrite (cluPage c) (.swFlush dt c) fun s => s.swFlushStart c)
def execSwFlushDone (dt : Nat) (c : CluId) (s : State) : Host.Outcome State Fault Refusal := .next ((s.advance dt).swFlushEnd c)
def execSwap (dt : Nat) (c : CluId) (pos : BitVec 4) (s : State) : Host.Outcome State Fault Refusal :=
  .next ((s.advance dt).hostWrite (cluPage c) (.swap dt c pos) fun s => s.swapCmd c pos.toNat)
def execSwapDone (dt : Nat) (c : CluId) (s : State) : Host.Outcome State Fault Refusal := .next ((s.advance dt).swapEnd c)

end Sys2Proof.Machine
end

