-- ==== Sys2Proof/Machine/Link.lean ====
section
/-!
DEFINITION. Sys2Proof/Machine/Link.lean: the start and stop routers (R348, R349) and the jumps of the link (R354): what is accepted, sent and
left to be delivered. Chassis.lean has the balls, the frames and the deliveries.
-/

namespace Sys2Proof.Machine

/-! The link's state. -/

/-- Parts on the link (R350). -/
def State.nywParts (s : State) : Nat := bits (s.dreg 3 0x100) 3 2 + 1

/-- REF.TB_STAT.ALIGNED: GT is aligned on the link; at position 0 while the link is enabled (R357). -/
def State.nywAligned (s : State) : Bool := s.nywEn && (decide (s.nywPos = 0) || s.ref.aligned)

/-- Hops from position `o` to this part, clockwise and counter-clockwise (R350, R356). -/
def State.hopsFrom (s : State) (o : Nat) : Nat × Nat :=
  let n := s.nywParts
  let p := s.nywPos
  ((p + n - o % n) % n, (o + n - p % n) % n)

/-- The receiver whose direction has fewer hops from position `o`; on equal hops the clockwise one, 0 (R356). -/
def State.nearRx (s : State) (o : Nat) : Nat := if (s.hopsFrom o).1 ≤ (s.hopsFrom o).2 then 0 else 1

/-- HOPS of an event frame that this part sends on a transmitter; none where it is not sent (R350). -/
def State.sendHops (s : State) (tx : Nat) : Option Nat :=
  match s.nywParts, tx with
  | 2, 0 => some 0
  | 3, _ => some 0
  | 4, 0 => some 1
  | 4, _ => some 0
  | _, _ => none

/-- A frame without its REACT, FLAG and CRC. -/
def mkFrame (origin hops kind payload : Nat) : BitVec 80 :=
  BitVec.ofNat 80 (pack [(0, 2, 2), (2, 2, origin), (4, 2, hops), (6, 3, kind), (25, 47, payload)])

/-- An event frame of this part joins the frames to be sent, in each direction it travels (R350, R353). -/
def State.sendEvent (s : State) (kind payload : Nat) : State :=
  let one := fun tx => match s.sendHops tx with | some h => [(tx, mkFrame s.nywPos h kind payload)] | none => []
  s.modSyn fun y => { y with own := y.own ++ one 0 ++ one 1 }

/-- Pin windows that two mask registers from `off` select (SYN.START_MASK, STOP_MASK, NYW_JPINS). -/
def State.maskPins (s : State) (off : Nat) : List Nat :=
  (List.range 128).filter fun i => bit (s.dreg 3 (off + 8 * (i / 64))) (i % 64)

/-! Routers (R348, R349). -/

/-- An accepted start or stop waits among the others, in order of its delivery. -/
def insertTime (t : Nat) : List Nat → List Nat
  | [] => [t]
  | x :: l => if t < x then t :: x :: l else x :: insertTime t l

/-- A STAR_OUT pulse of 16 timebase cycles at an accepted start (OUT 1) or stop (OUT 2), within 12,288 tq of it (R347, R399). -/
def State.starPulse (s : State) (out g : Nat) : State :=
  if bits (s.dreg 3 0x068) 0 2 ≠ out then s
  else
    let b := arrival 3 12288 g
    s.modSyn fun y => { y with starOut := y.starOut ++ [(b, b + 4096)] }

/-- The start router accepts an event at `g`: events of one timebase cycle form one start. A local event with NYW_SEND on an aligned part is
sent, and delivered 20,480 tq later; a START frame brings its own `te` (R348, R354). -/
def State.acceptStart (s : State) (g : Nat) (te : Option Nat) : State :=
  if s.syn.startCyc = some (g / 256) then s
  else
    let link := te.isNone && bit (s.dreg 3 0x070) 8 && s.nywAligned
    let at_ := match te with | some t => t | none => if link then g + 20480 else g
    let s1 := (s.modSyn fun y => { y with
      startCyc := some (g / 256), startSeq := y.startSeq + 1, starts := insertTime at_ y.starts }).latch 3 5
    let s2 := s1.starPulse 1 g
    if link then s2.sendEvent 3 (gtOf g % 2 ^ 40) else s2

/-- The stop router accepts an event at `g` in the same way (R349). -/
def State.acceptStopEvent (s : State) (g : Nat) (te : Option Nat) : State :=
  if s.syn.stopCyc = some (g / 256) then s
  else
    let link := te.isNone && bit (s.dreg 3 0x074) 8 && s.nywAligned
    let at_ := match te with | some t => t | none => if link then g + 20480 else g
    let s1 := (s.modSyn fun y => { y with
      stopCyc := some (g / 256), stopSeq := y.stopSeq + 1, stops := insertTime at_ y.stops }).latch 3 6
    let s2 := s1.starPulse 2 g
    if link then s2.sendEvent 4 (gtOf g % 2 ^ 40) else s2

/-! Link jumps. -/

/-- An item of the link waits among the others, in order of its delivery (R354). -/
def insertItem (x : NywItem) : List NywItem → List NywItem
  | [] => [x]
  | y :: l => if x.at_ < y.at_ then x :: y :: l else y :: insertItem x l


/-- A jump of a link channel reaches the sequencer of every pin in NYW_JPINS[j] at `t` (R97, R354). -/
def State.jumpPins (s : State) (j slot t : Nat) : State := s.each (s.maskPins (0x180 + 0x10 * j)) fun s w => s.jumpRequest w slot t

/-- A local jump event accepted at `g`: on an aligned part a JUMP frame is sent and the jump delivered here 20,480 tq later, else it is
delivered at once and not sent (R354, SYN.NYW_JUMP_CMD). -/
def State.linkJump (s : State) (j slot g : Nat) : State :=
  if s.nywAligned then
    (s.sendEvent 5 (gtOf g % 2 ^ 40 + j * 2 ^ 40 + slot * 2 ^ 42)).modSyn fun y => { y with
      items := insertItem { at_ := g + 20480, own := true, kind := 5, idx := j, val := slot, org := g } y.items }
  else s.jumpPins j slot g

/-! Edges on their way to an acceptance. -/

/-- An edge takes its place in order of acceptance. -/
def insertComing (x : LinkEdge) : List LinkEdge → List LinkEdge
  | [] => [x]
  | y :: l => if x.at_ < y.at_ then x :: y :: l else y :: insertComing x l

/-- An edge is accepted at its acceptance GT (R348, R349, R354). -/
def State.acceptEdge (s : State) (x : LinkEdge) : State :=
  match x.dest with
  | 0 => s.acceptStart x.at_ none
  | 1 => s.acceptStopEvent x.at_ none
  | j => s.linkJump (j - 2) x.slot x.at_

/-- Edges whose acceptance GT has come are accepted, in order, before anything that they could be ranked against (R348, R349). -/
def State.linkDue (s : State) : State :=
  let due := s.syn.coming.filter fun x => decide (x.at_ ≤ s.t)
  if due.isEmpty then s
  else (s.modSyn fun y => { y with coming := y.coming.filter fun x => decide (s.t < x.at_) }).each due State.acceptEdge

/-- An item may be delivered: it is the part's own jump, or the link is locked. While it is not, nothing arrives from it, and lanes and flags hold
(R359). -/
def State.itemTaken (s : State) (x : NywItem) : Bool := s.nywLocked || (x.own && decide (x.kind = 5))

/-- A START frame's event reaches the start router, which takes it where SRC selects the link (R348). -/
def State.startItem (s : State) (x : NywItem) : State :=
  if s.itemTaken x && decide (bits (s.dreg 3 0x070) 0 2 = 3) then s.acceptStart x.at_ (some x.at_) else s

/-- START frames whose delivery GT has come reach the start router: start events go before commands (R47, R354). -/
def State.startItems (s : State) : State :=
  let due := s.syn.items.filter fun x => decide (x.kind = 3) && decide (x.at_ ≤ s.t)
  if due.isEmpty then s
  else (s.modSyn fun y => { y with items := y.items.filter fun x => decide (x.kind ≠ 3) || decide (s.t < x.at_) }).each due State.startItem

end Sys2Proof.Machine
end

