-- ==== Sys2Proof/Machine/Modes.lean ====
section
/-!
DEFINITION. Sys2Proof/Machine/Modes.lean: the mode commands and transitions (R42 to R54, R57, R58), the start of a burst by a
command or an event (R52, R101), and the headroom monitor (R30 to R34).
-/

namespace Sys2Proof.Machine

/-! Codes of CTL.MODE_CMD.CMD: 1 POWER_OFF, 2 PARK, 3 CONNECT, 4 ARM, 5 DISARM, 6 START, 7 STOP, 8 SERVICE. -/

/-- A mode command is accepted and its transition starts (R45, R372). -/
def State.modeStart (s : State) (w cmd : Nat) (tag : Byte) (target : Mode) (hot oversub : Bool) : State :=
  let tr : Trans := { cmd := cmd, tag := tag, target := target, at_ := s.t, swOp := 0, oversub := oversub, cancelled := false, hot := hot }
  s.modMd w fun m => { m with trans := some tr, res := m.res.busy }

/-- A command is judged only while no transition is in progress; else it is refused with BUSY (R45, R190). DESIGN CHOICE (log 97): BUSY too
for the two windows of an exchange in progress, which keep their modes (R195). -/
def State.modeGate (s : State) (w cmd : Nat) (tag : Byte) (act : State → State) : State :=
  if (s.md w).trans.isSome || s.exchanging w then s.modeRefuse w cmd tag 2 else act s

/-- The window's burst is discarded: Sluice and rings flushed, program and queue dropped, capture closed (R46, R48, R133, R136). -/
def State.discardBurst (s : State) (w : Nat) : State := (((s.jumpDue w).dropProgram w).flushStreams w).flushCapture w

/-- The driver is off and the parametric unit with it, before a contact check (R48, R188). -/
def State.quiet (s : State) (w : Nat) : State :=
  (s.modSlot (s.slotOf w) fun x => { x with drvEn := false, edges := [] }).modPm w fun p => { p with active := 0 }

/-- K_CAL of the window's slot must open, and its contact check refuses (R48, R188). -/
def State.calHot (s : State) (w : Nat) (check : BitVec 16) : Bool := (s.slot (s.slotOf w)).kcal && s.contactHot w check

/-- The check before K_CAL opens is recorded when it is made. -/
def State.recordCal (s : State) (w : Nat) (check : BitVec 16) : State :=
  if (s.slot (s.slotOf w)).kcal then s.recordCheck w check else s

/-- POWER_OFF (R48). An accepted one disarms the stamper and the reduction and stops the engine (R235, R256, R259); one that K_CAL's contact check
refuses changes nothing (R8, R53; DEDUCED, log 93). -/
def State.cmdPowerOff (s : State) (w : Nat) (tag : Byte) (check : BitVec 16) : State :=
  let off := fun (s : State) (hot : Bool) =>
    let s1 := if hot then s else ((s.stampDisarmAt w s.t 5).engStop w).redDisarmAt w s.t 4
    s1.modeStart w 1 tag .off hot false
  s.modeGate w 1 tag fun s => match s.mode w with
    | .off => s.modeDone w 1 tag 1 0
    | .parked => off s false
    | .service => off (s.recordCal w check) (s.calHot w check)
    | _ => s.modeRefuse w 1 tag 1

/-- PARK (R48, R54). -/
def State.cmdPark (s : State) (w : Nat) (tag : Byte) (check : BitVec 16) : State :=
  s.modeGate w 2 tag fun s => match s.mode w with
    | .off => if (s.clu (cluOf w)).afeState ≠ 2 then s.modeRefuse w 2 tag 4 else s.modeStart w 2 tag .parked false false
    | .parked => s.modeDone w 2 tag 1 0
    | .ready =>
      let s1 := (s.quiet w).recordCheck w check
      s1.modeStart w 2 tag .parked (s1.contactHot w check) false
    | .service => (s.recordCal w check).modeStart w 2 tag .parked (s.calHot w check) false
    | _ => s.modeRefuse w 2 tag 1

/-- Another K_SPARE of the cluster is closed than the one CONNECT would close (R23, R187). -/
def State.spareTaken (s : State) (w : Nat) : Bool :=
  decide (s.slotOf w % 17 = 16) && decide (putBit (s.clu (cluOf w)).kspare (w % 16) false ≠ 0)

/-- CONNECT and ARM are refused with LIFE_CYCLE (R58, R313). -/
def State.lcBars (s : State) : Bool := s.sec.lc = 4 || s.sec.trans.isSome

/-- CONNECT (R48). Its contact checks refuse it: that of K_CAL if it is closed, then that of the connecting switch (R188). DESIGN CHOICE (log 130):
where several reasons hold the order is BUSY, SPARE_WINDOW, LIFE_CYCLE, ILLEGAL_FROM_MODE, SPARE_BUS_TAKEN; R53 gives none. -/
def State.cmdConnect (s : State) (w : Nat) (tag : Byte) (check calCheck : BitVec 16) : State :=
  let go := fun (s : State) =>
    if s.spareTaken w then s.modeRefuse w 3 tag 6
    else
      let calHot := s.calHot w calCheck
      let check := s.closeDrop w check
      let s1 := s.recordCal w calCheck
      let s2 := if calHot then s1 else s1.recordCheck w check
      s2.modeStart w 3 tag .ready (calHot || s.contactHot w check) false
  s.modeGate w 3 tag fun s =>
    if 128 ≤ w then s.modeRefuse w 3 tag 10
    else if s.lcBars then s.modeRefuse w 3 tag 7
    else match s.mode w with
      | .parked => go s
      | .service => go s
      | .ready => s.modeDone w 3 tag 1 0
      | _ => s.modeRefuse w 3 tag 1

/-- SERVICE (R48). -/
def State.cmdService (s : State) (w : Nat) (tag : Byte) (check : BitVec 16) : State :=
  s.modeGate w 8 tag fun s => match s.mode w with
    | .parked => s.modeStart w 8 tag .service false false
    | .service => s.modeDone w 8 tag 1 0
    | .ready =>
      let s1 := (s.quiet w).recordCheck w check
      s1.modeStart w 8 tag .service (s1.contactHot w check) false
    | _ => s.modeRefuse w 8 tag 1

/-! ARM. -/

/-- Bytes of vector word `i` of entry 0 as copied: a word with an uncorrectable error is all DK (R80). -/
def State.holdWord (s : State) (w i : Nat) (rd : ArmReads) : List Byte :=
  if rd.words.contains i then List.replicate 8 0x33 else Memory.load s.stackMem (vecArea w + 8 * (dVecBase (s.desc w 0) + i)) 8

/-- Bytes of lane unit `i` of entry 0 as copied: one with an uncorrectable error reads 0 (R272). -/
def State.holdLane (s : State) (w i : Nat) (rd : ArmReads) : List Byte :=
  if rd.lanes.contains i then List.replicate 4 0 else Memory.load s.stackMem (vecArea w + 4 * (dLaneBase (s.desc w 0) + i)) 4

/-- What error correction found in the units of entry 0 at `addr`, by their place in the segment, is reported (R271). -/
def State.holdErrors (s : State) (n : Nat) (bad fixed : List Nat) (addr : Nat → Nat) : State :=
  let s1 := s.each ((List.range n).filter fun i => bad.contains i) fun s i => s.eccStack (addr i) 2 1
  s1.each ((List.range n).filter fun i => !bad.contains i && fixed.contains i) fun s i => s.eccStack (addr i) 1 1

/-- The holding pattern is copied into the window's holding area; words in error are reported (R80, R271). -/
def State.copyNow (s : State) (w : Nat) (rd : ArmReads) : State :=
  let d := s.desc w 0
  let n := dSlices d
  let words := (List.range n).flatMap fun i => s.holdWord w i rd
  let lanes := if dLaneEn d then (List.range n).flatMap fun i => s.holdLane w i rd else []
  let s1 := s.setWs (Memory.store (Memory.store s.wsMem (holdArea w) words) (holdArea w + 0x2000) lanes)
  let s2 := s1.modMem fun m => { m with hidden := Tab.set false m.hidden w (decide (dKeyId d ≠ 0)) }
  let s3 := s2.holdErrors n rd.words rd.wordsFixed fun i => vecArea w + 8 * (dVecBase d + i)
  if dLaneEn d then s3.holdErrors n rd.lanes rd.lanesFixed fun i => (vecArea w + 4 * (dLaneBase d + i)) / 8 * 8 else s3

/-- The copy of an ARM that is accepted: while the stack is not ACTIVE it waits (R80, R388). -/
def State.copyHold (s : State) (w : Nat) (rd : ArmReads) : State :=
  if s.stackOn (w / 64 % 2) then s.copyNow w rd else s.modSq w fun q => { q with copyDue := some rd }

/-- The copies that waited for a stack are made once it is ACTIVE again (R388). -/
def State.copyWaiting (s : State) (st : Nat) : State :=
  s.each ((List.range 64).map (64 * st + ·)) fun s w =>
    match (s.sq w).copyDue with
    | some rd => (s.modSq w fun q => { q with copyDue := none }).copyNow w rd
    | none => s

/-- Demand of every window in ARMED or RUN, with the window being armed among them (R136). -/
def State.heldDemand (s : State) : Nat :=
  (List.range 136).foldl (fun n w => if (s.sl w).held then n + (s.sl w).demand else n) 0

/-- An ARM is accepted: the burst is loaded, its capture opened, its demand held, its first data prefetched (R50, R51, R80, R95, R98, R99,
R136, R182, R202). DESIGN CHOICE (log 139): SLU.UR_STAT.LANDED, for which R140 gives no instant, returns to 0 here. -/
def State.armAccept (s : State) (w : Nat) (tag : Byte) (rd : ArmReads) (chk : ArmCheck) : State :=
  let s1 := if forces (s.pmuMode w) then (s.jumpDue w).pmuEnd w 3 else s.jumpDue w
  let s2 := (s1.modMd w fun m => { m with startMissed := false }).modSq w fun q => { q with
    loaded := true, hold0 := s.desc w 0, land1 := s.desc w 1, cur := s.desc w (s.wreg w 1 0x040 % 16384), fetched := [], play := 0, ofs := 0,
    playFail := false, decided := none, stack := [], reqs := [], stop := none, landing := 0, stopMark := none, invalid := none,
    markDue := 0, ents := chk.ents, keys := chk.keys, trace := chk.trace, armHead := rd.path, copyDue := none }
  let s3 := s2.modWin w fun x => { x with
    pl := { x.pl with vectors := 0, jumpOvf := 0, begun := false }
    tm := { x.tm with dropped := 0, cuts := [], clipped := 0 }
    ho := { x.ho with held := 0, underruns := 0, landed := false }
    ik := { x.ik with committed := 0, ahead := [s.wreg w 1 0x040 % 16384] }
    sl := { x.sl with bufs := [], chain := [], more := [], filled := false, demand := chk.demand, held := true, streamFirst := chk.streamFirst } }
  let s4 := ((s3.copyHold w rd).openCapture w).loadHead w .landing rd.landing
  let s5 := s4.each (List.range 4) fun s k => s.judgeSlot w k
  let oversub := decide (s5.host.budget < s5.heldDemand)
  (s5.modeStart w 4 tag .armed false oversub).parse w {}

/-- ARM (R43, R48, R50, R58). DESIGN CHOICE (log 130): where several reasons hold the order is BUSY, SPARE_WINDOW, LIFE_CYCLE, ILLEGAL_FROM_MODE,
PROGRAM_ERROR, KEY_ABSENT, TIMEBASE_UNLOCKED; R53 gives none. -/
def State.cmdArm (s : State) (w : Nat) (tag : Byte) (rd : ArmReads) : State :=
  s.modeGate w 4 tag fun s =>
    if 128 ≤ w then s.modeRefuse w 4 tag 10
    else if s.lcBars then s.modeRefuse w 4 tag 7
    else if s.mode w ≠ .ready then s.modeRefuse w 4 tag 1
    else
      let chk := s.armCheck w rd.entries
      let s := s.each (rd.entries.filter fun e => chk.ents.contains e) fun s e => s.eccStack (catStore w + 64 * e) 2 0
      let s := s.each (rd.entriesFixed.filter fun e => !rd.entries.contains e && chk.ents.contains e) fun s e => s.eccStack (catStore w + 64 * e) 1 0
      match chk.fault with
      | some (code, sh) => (s.perr w code sh s.t).modeRefuse w 4 tag 8
      | none =>
        if chk.keys.any fun k => (s.keyOf k).isNone then s.modeRefuse w 4 tag 12
        else if !s.ref.locked then s.modeRefuse w 4 tag 9
        else s.armAccept w tag rd chk

/-- The Sluice is emptied and the demand released; the rings stay (R46, R133, R136). -/
def State.emptySluice (s : State) (w : Nat) : State :=
  s.modSl w fun x => { x with bufs := [], chain := [], more := [], filled := false, held := false, streamFirst := false }

/-- A DISARM cancels the ARM in transition; two results are posted (R45, R46). -/
def State.cancelArm (s : State) (w : Nat) (armTag tag : Byte) : State :=
  let s1 := (((((s.jumpDue w).dropProgram w).emptySluice w).flushCapture w).modMd w fun m => { m with trans := none }).modeDone w 4 armTag 4 0
  (s1.modeDone w 5 tag 1 0).modMd w fun m => { m with cancelled := true }

/-- STOP (7) or DISARM (5) in RUN that arrived at `t`: its run-out is scheduled and it finishes; while one is pending it is a no-op (R49). DESIGN
CHOICE (log 94): DISARM_LATE reads 1 for a DISARM that is a no-op because a run-out is pending. -/
def State.stopInRun (s : State) (w cmd t : Nat) (tag : Byte) : State :=
  ((s.acceptStop w t).modeDone w cmd tag 1 0).modMd w fun m => { m with late := decide (cmd = 5) }

/-- STOP or DISARM that arrived at `t` with no transition in progress (R48, R49, R349). -/
def State.stopOrDisarm (s : State) (w cmd t : Nat) (tag : Byte) : State :=
  match s.mode w with
  | .armed => (s.modeStart w cmd tag .ready false false).modMd w fun m => { m with trans := m.trans.map fun x => { x with at_ := t } }
  | .run => s.stopInRun w cmd t tag
  | _ => s.modeDone w cmd tag 1 0

/-- DISARM (R45, R46, R48, R49). -/
def State.cmdDisarm (s : State) (w : Nat) (tag : Byte) : State :=
  match (s.md w).trans with
  | some x => if x.cmd = 4 && x.swOp = 0 then s.cancelArm w x.tag tag else s.modeRefuse w 5 tag 2
  | none => s.modeGate w 5 tag fun s => s.stopOrDisarm w 5 s.t tag

/-- STOP that arrived at `t` (R48, R49, R349). -/
def State.cmdStop (s : State) (w t : Nat) (tag : Byte) : State := s.modeGate w 7 tag fun s => s.stopOrDisarm w 7 t tag

/-- START (R43, R48, R101). -/
def State.cmdStart (s : State) (w : Nat) (tag : Byte) : State :=
  s.modeGate w 6 tag fun s =>
    if 128 ≤ w then s.modeRefuse w 6 tag 10
    else if s.mode w ≠ .armed then s.modeRefuse w 6 tag 1
    else (s.modeDone w 6 tag 1 0).startRun w s.t

/-- A start event reaches a window at t_e (R48, R52, R101). DESIGN CHOICE (log 135): an ARM that a reset has cancelled, whose result is still to be
posted, still counts as an ARM in transition: the event sets START_MISSED. -/
def State.startEvent (s : State) (w te : Nat) : State :=
  match (s.md w).trans with
  | none => if s.mode w = .armed then s.startRun w te else s
  | some x => if x.cmd = 4 && x.swOp = 0 then s.modMd w fun m => { m with startMissed := true } else s

/-- Accepted starts that are due, those of START frames among them, reach every window in START_MASK, in order (R348). -/
def State.deliverStarts (s : State) : State :=
  let s := s.linkDue.startItems
  let due := s.syn.starts.filter fun t => decide (t ≤ s.t)
  let s1 := s.modSyn fun y => { y with starts := y.starts.filter fun t => decide (s.t < t) }
  s1.each due fun s te =>
    (s.modSyn fun y => { y with startT := gtOf te }).each (s.maskPins 0x080) fun s w => s.startEvent w te

/-- What the arbiter takes before a command that arrives in the same cycle: start events that are due, and the window's burst completion
(R47). DESIGN CHOICE (log 96): the arbiter's cycle is one tq. -/
def State.arriveFirst (s : State) (w : Nat) : State := s.deliverStarts.landEnd w

/-- A mode command arrives at a window's arbiter (R47, R53, R55, R57). -/
def State.modeArrive (s : State) (w cmd : Nat) (tag : Byte) (i : Instr) (act : State → State) : State :=
  s.modeWrite w cmd tag i fun s => act (s.arriveFirst w)

/-- A reserved command code: BUSY in a transition, else BAD_CMD (R45, R53). -/
def State.cmdReserved (s : State) (w code : Nat) (tag : Byte) : State := s.modeGate w code tag fun s => s.modeRefuse w code tag 11

/-- The command that a code of CTL.MODE_CMD.CMD names; code 0 is ignored. -/
def State.modeCmd (s : State) (w code : Nat) (tag : Byte) (check calCheck : BitVec 16) (rd : ArmReads) : State :=
  match code with
  | 0 => s
  | 1 => s.cmdPowerOff w tag check
  | 2 => s.cmdPark w tag check
  | 3 => s.cmdConnect w tag check calCheck
  | 4 => s.cmdArm w tag rd
  | 5 => s.cmdDisarm w tag
  | 6 => s.cmdStart w tag
  | 7 => s.cmdStop w s.t tag
  | 8 => s.cmdService w tag check
  | c => s.cmdReserved w c tag

/-- The command as it is written to one window's CTL page. -/
def modeInstr (dt : Nat) (w : WinId) (code : Nat) (tag : Byte) (check calCheck : BitVec 16) (rd : ArmReads) : Instr :=
  match code with
  | 1 => .powerOff dt w tag check
  | 2 => .park dt w tag check
  | 3 => .connect dt w tag check calCheck
  | 4 => .arm dt w tag rd
  | 5 => .disarm dt w tag
  | 6 => .start dt w tag
  | 7 => .stop dt w tag
  | 8 => .service dt w tag check
  | c => .modeCmdReserved dt w (BitVec.ofNat 4 c) tag

/-- CLU_c.MODE_BCAST: the command reaches each selected window in window order (R47, R53). -/
def State.broadcast (s : State) (c cmd : Nat) (tag : Byte) (mask : BitVec 17)
    (checks : List (BitVec 16 × BitVec 16 × ArmReads)) : State :=
  if cmd = 0 || mask = 0 then s.earlyLost
  else if s.dev.regPhase then s.modDev fun d => { d with dropped := satInc 65535 d.dropped }
  else (cluWins c).zipIdx.foldl (fun s x =>
    if mask.getLsbD x.2 then
      let v := checks.getD x.2 (0, 0, {})
      if h : x.1 < 136 then
        s.modeArrive x.1 cmd tag (modeInstr 0 ⟨x.1, h⟩ cmd tag v.1 v.2.1 v.2.2) fun s => s.modeCmd x.1 cmd tag v.1 v.2.1 v.2.2
      else s
    else s) s

/-! Transitions end. -/

/-- The window has left READY: parametric unit off, connecting switch open, no static drive (R44, R48, R182). -/
def State.leftReady (s : State) (w : Nat) : State :=
  ((s.pmuEnd w 3).setConn w false).setStatic w .dz

/-- The window's slot is unpowered (R42, R48, R182, R371); its engine, started during the transition, stops too: it runs in no window in OFF
(R246). -/
def State.powerDown (s : State) (w : Nat) : State :=
  ((((s.engStop w).setCal w false).pmuEnd w 4).modSlot (s.slotOf w) fun x => { x with afeOn := false, drvEn := false, drvHigh := false, edges := [] }).modPm w
    fun p => { p with settled := false, clamped := false, above := false, below := false, lvlSettled := false }

/-- The window enters READY by CONNECT: the switch closes, levels apply, the data level goes low, the static drive takes hold (R44,
R48, R161). -/
def State.connected (s : State) (w : Nat) : State :=
  let s1 := ((s.setCal w false).setConn w true).countClose (cluOf w) (s.connIndex w)
  (s1.modSlot (s.slotOf w) fun x => { x with drvHigh := false }).setStatic w (drvOf (bits (s.wreg w 0 0x04C) 0 2))

/-- The head of the first segment, as the ARM found it (R51, R95, R271, R272). -/
def State.readArmed (s : State) (w : Nat) : State :=
  let rd := (s.sq w).armHead
  s.readInto w .path (dHead (s.sq w).cur) rd.bad rd.laneBad rd.corrected

/-- What a transition that succeeds does, by its command; the mode already reads its destination (R48). -/
def State.arrived (s : State) (w cmd : Nat) (from_ : Mode) : State :=
  match cmd with
  | 1 => s.powerDown w
  | 2 => match from_ with
    | .off => (s.modSlot (s.slotOf w) fun x => { x with afeOn := true, drvEn := false }).modPm w fun p => { p with lvlSettled := p.lvlWritten }
    | .ready => s.leftReady w
    | _ => ((s.setCal w false).pmuEnd w 3).modSlot (s.slotOf w) fun x => { x with drvEn := false, edges := [] }
  | 3 => s.connected w
  | 4 => if ((s.sl w).buf .path).slices.isEmpty then s.readArmed w else s
  | 8 => if from_ = .ready then s.leftReady w else s
  | _ => s.discardBurst w

/-- A contact check has refused: what it interrupted is restored, and HOT_SWITCH is posted (R53, R188). -/
def State.hotRestore (s : State) (w : Nat) (x : Trans) : State :=
  let s1 := (s.modMd w fun m => { m with trans := none }).modPm w fun p => { p with active := s.pmuMode w }
  ((s1.driveWithPmu w).modeRefuse w x.cmd x.tag 5).raiseCh w 4 1 0

/-- A mode transition ends (R48, R53, R119): at once for the restoration of a refused contact check, for a streamed burst when the Sluice
is supplied. -/
def State.transitionDone (s : State) (w : Nat) : State :=
  match (s.md w).trans with
  | none => s
  | some x =>
    if x.swOp ≠ 0 || x.cancelled then s
    else if x.hot then s.hotRestore w x
    else if x.cmd = 4 && (s.sl w).streamFirst && !s.supplied w then s
    else
      let s1 := (s.modMd w fun m => { m with mode := x.target, trans := none }).arrived w x.cmd (s.mode w)
      (s1.modeDone w x.cmd x.tag 1 0).modMd w fun m => { m with oversub := x.oversub }

/-- The transition moves a switch: CONNECT, an opening from READY, or a closed K_CAL (R48). -/
def State.movesSwitch (s : State) (w : Nat) (x : Trans) : Bool :=
  x.cmd = 3 || ((x.cmd = 2 || x.cmd = 8) && s.mode w = .ready) ||
    ((x.cmd = 1 || x.cmd = 2) && (s.slot (s.slotOf w)).kcal)

/-- Which switch a CONNECT failed at: K_CAL, closed before it, that did not open and stays closed, or the connecting switch, whose closure counts
(R189, R191). With K_CAL closed the event does not say which: it is a free value (log 19). -/
def State.connectFails (s : State) (w : Nat) : State :=
  if (s.slot (s.slotOf w)).kcal then
    let v := s.draw
    if v.1.getLsbD 0 then v.2 else (v.2.setCal w false).countClose (cluOf w) (s.connIndex w)
  else s.countClose (cluOf w) (s.connIndex w)

/-- A switch has not reached its state in 40 µs: FAILED with SWITCH_FAULT, the window back in its mode with the driver off (R53, R189,
R191). DESIGN CHOICE (log 136): a PARK or SERVICE from READY that fails so sets PMU.CFG.MODE to OFF and FORCE_ENDED, as its completion would have. -/
def State.switchFails (s : State) (w : Nat) : State :=
  match (s.md w).trans with
  | none => s
  | some x =>
    if x.hot || x.cancelled then s
    else if x.swOp ≠ 0 then s.swFail w x.swOp
    else if !s.movesSwitch w x then s
    else
      let s1 := s.modMd w fun m => { m with trans := none }
      let s2 := if x.cmd = 3 then s1.connectFails w else s1
      let s3 := (if s.mode w = .ready then s2.pmuEnd w 3 else s2).setStatic w .dz
      ((s3.modeDone w x.cmd x.tag 3 13).raiseCh w 0 1 2).raiseCh w 4 2 2

/-- CTL.READY_DRIVE is written: in READY or ARMED the static drive follows, unless the parametric unit forces or the driver is being
turned off (R44, R182). -/
def State.writeReadyDrive (s : State) (w v : Nat) : State :=
  let s1 := s.setReg (pageAddr (winPage w 0) 0x04C) (v % 4)
  let d := drvOf (v % 4)
  let opening := match (s.md w).trans with | some x => x.cmd = 2 || x.cmd = 8 | none => false
  if (s.mode w = .ready || s.mode w = .armed) && !opening then
    (if forces (s.pm w).active then s1.modMd w fun m => { m with static := d } else s1.setStatic w d)
  else s1

/-! Cluster power. -/

/-- CLU_c.AFE_PWR.REQ = 1 (R54). -/
def State.afeReqOn (s : State) (c : Nat) : State :=
  s.modClu c fun x => { x with afeReq := true, afeRefused := false, afeState := if x.afeState = 0 then 1 else x.afeState }

/-- CLU_c.AFE_PWR.REQ = 0: refused unless all 17 windows are in OFF (R54). DESIGN CHOICE (log 95): in FAULT too it sets STATE to OFF, so
that a later REQ = 1 reads POWERING; R54 does not say what a write does to STATE in FAULT. -/
def State.afeReqOff (s : State) (c : Nat) : State :=
  if (cluWins c).all fun w => s.mode w = .off && (s.md w).trans.isNone then
    s.modClu c fun x => { x with afeReq := false, afeRefused := false, afeState := 0 }
  else s.modClu c fun x => { x with afeRefused := true }

/-- The AFE die completes its power-up (R54). -/
def State.afeUp (s : State) (c : Nat) : State := s.modClu c fun x => if x.afeState = 1 then { x with afeState := 2 } else x

/-! Headroom. -/

/-- Period-table entries that a ready jump target's trace can have in force (R415). -/
def State.slotTrace (s : State) (w target : Nat) : Nat :=
  let burst := s.burstNodes w
  let rets := callRets burst
  let nodes := walk (s.desc w) walkFuel (target :: 0 :: 1 :: rets) []
  let init := (s.sq w).trace.foldl (fun m e => m ||| 2 ^ e) 0
  (traceOf nodes (callRets nodes ++ rets) target init).foldl (fun m x => m ||| x.2.2) init

/-- The shortest period that the current burst of a window can reach (R30, R415). -/
def State.shortestPeriod (s : State) (w : Nat) : Nat :=
  let base := (s.sq w).trace.foldl (fun m e => m ||| 2 ^ e) 0
  let all := (List.range 4).foldl (fun m k => if (s.sq w).jready.getLsbD k then m ||| s.slotTrace w (entryOf (s.jumpShelf w k)) else m) base
  shortest (s.activeView w) all

/-- The shortest period of the cluster's pins in ARMED or RUN; none without demand (R30). -/
def State.clusterPeriod (s : State) (c : Nat) : Option Nat :=
  match ((List.range 16).map (16 * c + ·)).filter s.armedRun with
  | [] => none
  | w :: r => some ((r.map s.shortestPeriod).foldl min (s.shortestPeriod w))

/-- Headroom in percent for a capacity in 0.01 Gvec/s against a period (R30). -/
def headroomOf (capacity period : Nat) : Int := max (-100) (min 1000 (((capacity * period : Nat) - 102400 : Int) / 1024))

/-- The low-headroom event and its re-arming (R33). -/
def State.headroomLow (s : State) (c : Nat) (v : Int) : State :=
  let thr := signed 11 (s.dreg 1 (0x0C0 + 4 * c))
  if thr = -100 then s
  else if (s.clu c).hrArmed && v ≤ thr then (s.modClu c fun x => { x with hrArmed := false }).raiseClu c 2 0 0
  else if !(s.clu c).hrArmed && thr + 5 ≤ v then s.modClu c fun x => { x with hrArmed := true }
  else s

/-- One update of the monitor: the minimum capacity of the interval (R30 to R34). DESIGN CHOICE (log 137): DEMAND is rounded down to its unit of
0.01 Gvec/s; R30 and the register give no rounding. -/
def State.headroomPost (s : State) (c capacity : Nat) : State :=
  let p := s.clusterPeriod c
  let v := match p with | some p => headroomOf capacity p | none => 1000
  let was := (s.clu c).headroom < 0 && (s.clu c).hrValid
  let s1 := s.modClu c fun x => { x with
    headroom := v, noDemand := p.isNone, capacity := capacity, demand := match p with | some p => min 4095 (102400 / max p 1) | none => 0,
    hrSeq := x.hrSeq + 1, hrValid := true }
  let s2 := s1.headroomLow c v
  if v < 0 && !was then s2.raiseClu c 3 0 2 else if 0 ≤ v && was then s2.endCond (cluSrc c 3) 0 else s2

/-- PWR.HR_CFG[c] is written (R33). -/
def State.writeHrCfg (s : State) (c v : Nat) : State :=
  let t := signed 11 v
  if t < -100 || 1000 < t then s.modClu c fun x => { x with hrRefused := true }
  else (s.setReg (pageAddr 1 (0x0C0 + 4 * c)) (bits v 0 11)).modClu c fun x => { x with hrRefused := false }

/-! Meanings. -/

def execPowerOff (dt : Nat) (w : WinId) (tag : Byte) (check : BitVec 16) (s : State) : Host.Outcome State Fault Refusal :=
  .next ((s.advance dt).modeArrive w 1 tag (.powerOff dt w tag check) fun s => s.cmdPowerOff w tag check)
def execPark (dt : Nat) (w : WinId) (tag : Byte) (check : BitVec 16) (s : State) : Host.Outcome State Fault Refusal :=
  .next ((s.advance dt).modeArrive w 2 tag (.park dt w tag check) fun s => s.cmdPark w tag check)
def execConnect (dt : Nat) (w : WinId) (tag : Byte) (check calCheck : BitVec 16) (s : State) : Host.Outcome State Fault Refusal :=
  .next ((s.advance dt).modeArrive w 3 tag (.connect dt w tag check calCheck) fun s => s.cmdConnect w tag check calCheck)
def execArm (dt : Nat) (w : WinId) (tag : Byte) (reads : ArmReads) (s : State) : Host.Outcome State Fault Refusal :=
  .next ((s.advance dt).modeArrive w 4 tag (.arm dt w tag reads) fun s => s.cmdArm w tag reads)
def execDisarm (dt : Nat) (w : WinId) (tag : Byte) (s : State) : Host.Outcome State Fault Refusal :=
  .next ((s.advance dt).modeArrive w 5 tag (.disarm dt w tag) fun s => s.cmdDisarm w tag)
def execStart (dt : Nat) (w : WinId) (tag : Byte) (s : State) : Host.Outcome State Fault Refusal :=
  .next ((s.advance dt).modeArrive w 6 tag (.start dt w tag) fun s => s.cmdStart w tag)
def execStop (dt : Nat) (w : WinId) (tag : Byte) (s : State) : Host.Outcome State Fault Refusal :=
  .next ((s.advance dt).modeArrive w 7 tag (.stop dt w tag) fun s => s.cmdStop w s.t tag)
def execService (dt : Nat) (w : WinId) (tag : Byte) (check : BitVec 16) (s : State) : Host.Outcome State Fault Refusal :=
  .next ((s.advance dt).modeArrive w 8 tag (.service dt w tag check) fun s => s.cmdService w tag check)
def execModeCmdReserved (dt : Nat) (w : WinId) (code : BitVec 4) (tag : Byte) (s : State) : Host.Outcome State Fault Refusal :=
  .next ((s.advance dt).modeArrive w code.toNat tag (.modeCmdReserved dt w code tag) fun s => s.modeCmd w code.toNat tag 0 0 {})
def execModeBcast (dt : Nat) (c : CluId) (cmd : BitVec 4) (tag : Byte) (mask : BitVec 17)
    (checks : List (BitVec 16 × BitVec 16 × ArmReads)) (s : State) :
    Host.Outcome State Fault Refusal :=
  .next ((s.advance dt).broadcast c cmd.toNat tag mask checks)
def execModeTransitionDone (dt : Nat) (w : WinId) (s : State) : Host.Outcome State Fault Refusal := .next ((s.advance dt).transitionDone w)
def execSwitchTimeout (dt : Nat) (w : WinId) (s : State) : Host.Outcome State Fault Refusal := .next ((s.advance dt).switchFails w)
def execReadyDriveWrite (dt : Nat) (w : WinId) (val : BitVec 32) (s : State) : Host.Outcome State Fault Refusal :=
  .next ((s.advance dt).hostWrite (winPage w 0) (.readyDriveWrite dt w val) fun s => s.writeReadyDrive w val.toNat)
def execAfePwrReqOn (dt : Nat) (c : CluId) (s : State) : Host.Outcome State Fault Refusal :=
  .next ((s.advance dt).hostWrite (cluPage c) (.afePwrReqOn dt c) fun s => s.afeReqOn c)
def execAfePwrReqOff (dt : Nat) (c : CluId) (s : State) : Host.Outcome State Fault Refusal :=
  .next ((s.advance dt).hostWrite (cluPage c) (.afePwrReqOff dt c) fun s => s.afeReqOff c)
def execAfePowerUpDone (dt : Nat) (c : CluId) (s : State) : Host.Outcome State Fault Refusal := .next ((s.advance dt).afeUp c)
def execHeadroomUpdate (dt : Nat) (c : CluId) (capacity : BitVec 12) (s : State) : Host.Outcome State Fault Refusal :=
  .next ((s.advance dt).headroomPost c capacity.toNat)

end Sys2Proof.Machine
end

