-- ==== Sys2Proof/Machine/PinCmd.lean ====
section
/-!
DEFINITION. Sys2Proof/Machine/PinCmd.lean: the registers and events of the CAP, STP and ACQ pages: the fail area (R203, R265), the
stamper (R226 to R244), the trigger engine, the reduction and the capture window (R246 to R266).
-/

namespace Sys2Proof.Machine

/-- CAP.AREA is written (R203, R265). -/
def State.writeCapArea (s : State) (w v : Nat) : State :=
  let bad := decide (64 < bits v 0 7 + bits v 8 7) || s.armedRun w || (s.cw w).open_
  let s1 := s.modCp w fun c => { c with areaRefused := bad }
  if bad then s1.raiseCh w 6 7 0 else s1.setReg (pageAddr (winPage w 7) 0x044) (bits v 0 7 + bits v 8 7 * 256)

/-- STP.CFG is written (R228, R242). -/
def State.writeStpCfg (s : State) (w v : Nat) : State :=
  if (s.st w).isArmed s.t then s.stpRefuse w 1
  else if 16 < bits v 4 5 || bits v 12 2 = 3 || bits v 14 2 = 3 then s.stpRefuse w 2
  else (s.stpAccept w).setReg (pageAddr (winPage w 8) 0x040) (bits v 0 9 + bits v 12 4 * 4096)

/-- STP.LIMIT is written (R235). -/
def State.writeStpLimit (s : State) (w v : Nat) : State :=
  if (s.st w).isArmed s.t then s.stpRefuse w 1 else (s.stpAccept w).setReg (pageAddr (winPage w 8) 0x044) (v % 2 ^ 32)

/-- STP.BUF_WM is written (R114, R234). -/
def State.writeStpWm (s : State) (w v : Nat) : State :=
  if bits v 0 13 ≤ bits v 16 13 || 4096 < bits v 0 13 then s.stpRefuse w 2
  else ((s.stpAccept w).setReg (pageAddr (winPage w 8) 0x068) (bits v 0 13 + bits v 16 13 * 65536)).fullish w

/-- STP.ARM_CMD with GO: 1 ARM, 2 DISARM (R235 to R238). -/
def State.stpCmd (s : State) (w op : Nat) : State :=
  if op = 1 then (s.stpAccept w).stampArmAt w s.t 1
  else if op = 2 then (s.stpAccept w).stampDisarmAt w s.t 1
  else s.stpRefuse w 5

/-- ACQ.ENG_CMD with GO: 1 START, 2 STOP (R256). -/
def State.engCmd (s : State) (w op : Nat) : State :=
  if op = 1 then s.engStartCmd w else if op = 2 then (s.engAccept w).engStop w else s.engRefuse w 3

/-- ACQ.HOST_EVT with GO (R248). -/
def State.hostEvent (s : State) (w sel : Nat) : State := s.engOccur w 0x10 sel 0 s.t 0

/-- ACQ.RED_CMD with GO: 1 ARM, 2 DISARM (R259). -/
def State.redCmd (s : State) (w op : Nat) : State :=
  if op = 1 then s.redArmCmd w
  else if op = 2 then (s.modRd w fun r => { r with refused := false, reason := 0 }).redDisarmAt w s.t 1
  else s.redRefuse w 3

/-- ACQ.WIN_CMD with GO: 1 ARM, 2 ABANDON (R262, R264). -/
def State.winCmd (s : State) (w op : Nat) : State :=
  if op = 1 then s.winArmCmd w else if op = 2 then s.winAbandonCmd w else s.winRefuse w 5

/-- SRC of a condition or a count is a code of R248. -/
def srcOk (src : Nat) : Bool := src ≤ 0x10

/-- A register that the engine reads as it runs, and a value that is refused as reserved or out of range (R254 to R256). -/
def engRegRange (off v : Nat) : Bool :=
  if off = 0x054 then decide (v % 65536 = 0)
  else if 0x100 ≤ off && off < 0x140 then off % 16 = 0 && !srcOk (bits v 0 5)
  else if 0x140 ≤ off && off < 0x160 then decide (v % 2 ^ 48 = 0)
  else if 0x400 ≤ off && off < 0x500 then (if off % 16 = 0 then !srcOk (bits v 24 5) else bits v 16 2 = 3 || bits v 18 2 = 3)
  else false

/-- ACQ.CFG, AUTO, TRIG_OUT, CNT_CFG, CNT_LIMIT, TMR_DUR and the arcs are written (R256). -/
def State.writeEngReg (s : State) (w off v : Nat) : State :=
  if (s.en w).running then s.engRefuse w 1
  else if engRegRange off v then s.engRefuse w 4
  else
    let a := pageAddr (winPage w 9) off
    (s.engAccept w).setReg a (match regAt a with | some r => v &&& r.mask | none => v)

/-- ACQ.RED_CFG is written (R258). -/
def State.writeRedCfg (s : State) (w v : Nat) : State :=
  if (s.rd w).armed then s.redRefuse w 2
  else (s.modRd w fun r => { r with refused := false, reason := 0 }).setReg (pageAddr (winPage w 9) 0x060) (v % 2 ^ 32)

/-- ACQ.WIN_CFG is written (R261, R262). -/
def State.writeWinCfg (s : State) (w v : Nat) : State :=
  if (s.cw w).open_ then s.winRefuse w 4
  else (s.modCw w fun c => { c with refused := false, reason := 0 }).setReg (pageAddr (winPage w 9) 0x080)
    (bits v 0 1 + bits v 8 22 * 2 ^ 8 + bits v 32 22 * 2 ^ 32)

/-- Pulses on a trigger line that have run their width end (R255, R346). -/
def State.pulseEnd (s : State) (line : Nat) : State :=
  s.modSyn fun y => { y with pulses := y.pulses.filter fun p => decide (p.1 ≠ line) || decide (s.t < p.2.2) }

/-! Meanings. -/

def execCapAreaWrite (dt : Nat) (w : WinId) (val : BitVec 32) (s : State) : Host.Outcome State Fault Refusal :=
  .next ((s.advance dt).hostWrite (winPage w 7) (.capAreaWrite dt w val) fun s => s.writeCapArea w val.toNat)
def execComparatorEdge (dt : Nat) (w : WinId) (rising counted : Bool) (s : State) : Host.Outcome State Fault Refusal :=
  .next ((s.advance dt).edgeAt w rising counted)
def execStampTransfer (dt : Nat) (w : WinId) (s : State) : Host.Outcome State Fault Refusal := .next ((s.advance dt).transfer w)
def execStampLostGap (dt : Nat) (w : WinId) (s : State) : Host.Outcome State Fault Refusal := .next ((s.advance dt).lostGapNow w)
def execStampArm (dt : Nat) (w : WinId) (s : State) : Host.Outcome State Fault Refusal :=
  .next ((s.advance dt).hostWrite (winPage w 8) (.stampArm dt w) fun s => s.stpCmd w 1)
def execStampDisarm (dt : Nat) (w : WinId) (s : State) : Host.Outcome State Fault Refusal :=
  .next ((s.advance dt).hostWrite (winPage w 8) (.stampDisarm dt w) fun s => s.stpCmd w 2)
def execEngineSample (dt : Nat) (w : WinId) (s : State) : Host.Outcome State Fault Refusal := .next ((s.advance dt).engSample w)
def execAcqTimerExpiry (dt : Nat) (w : WinId) (k : BitVec 2) (s : State) : Host.Outcome State Fault Refusal :=
  .next ((s.advance dt).expireTimer w k.toNat (s.advance dt).t)
def execEngineStart (dt : Nat) (w : WinId) (s : State) : Host.Outcome State Fault Refusal :=
  .next ((s.advance dt).hostWrite (winPage w 9) (.engineStart dt w) fun s => s.engCmd w 1)
def execEngineStop (dt : Nat) (w : WinId) (s : State) : Host.Outcome State Fault Refusal :=
  .next ((s.advance dt).hostWrite (winPage w 9) (.engineStop dt w) fun s => s.engCmd w 2)
def execHostEvt (dt : Nat) (w : WinId) (sel : BitVec 3) (s : State) : Host.Outcome State Fault Refusal :=
  .next ((s.advance dt).hostWrite (winPage w 9) (.hostEvt dt w sel) fun s => s.hostEvent w sel.toNat)
def execEngineActionEffect (dt : Nat) (w : WinId) (s : State) : Host.Outcome State Fault Refusal := .next ((s.advance dt).engEffect w)
def execTrigPulseEnd (dt : Nat) (line : BitVec 3) (s : State) : Host.Outcome State Fault Refusal := .next ((s.advance dt).pulseEnd line.toNat)
def execRedArm (dt : Nat) (w : WinId) (s : State) : Host.Outcome State Fault Refusal :=
  .next ((s.advance dt).hostWrite (winPage w 9) (.redArm dt w) fun s => s.redCmd w 1)
def execRedDisarm (dt : Nat) (w : WinId) (s : State) : Host.Outcome State Fault Refusal :=
  .next ((s.advance dt).hostWrite (winPage w 9) (.redDisarm dt w) fun s => s.redCmd w 2)
def execWinArm (dt : Nat) (w : WinId) (s : State) : Host.Outcome State Fault Refusal :=
  .next ((s.advance dt).hostWrite (winPage w 9) (.winArm dt w) fun s => s.winCmd w 1)
def execWinAbandon (dt : Nat) (w : WinId) (s : State) : Host.Outcome State Fault Refusal :=
  .next ((s.advance dt).hostWrite (winPage w 9) (.winAbandon dt w) fun s => s.winCmd w 2)

end Sys2Proof.Machine
end

