-- ==== Sys2Proof/Machine/Harvest.lean ====
section
/-!
DEFINITION. Sys2Proof/Machine/Harvest.lean: the Harvest engine of a cluster: its inputs (R212, R261), staging (R213, R217), the host
ring (R214 to R216) and the HST page's Harvest registers.
-/

namespace Sys2Proof.Machine

/-- Offset on the HST page of a register of ring `c`'s block. -/
def hvsOff (c off : Nat) : Nat := 0x400 + 0x40 * c + off
def State.hvsReg (s : State) (c off : Nat) : Nat := s.dreg 4 (hvsOff c off)

/-- Bank of the working store that holds the cluster's bank ring, and the ring's base there (R213, R274). -/
def stageBank (c : Nat) : Nat := 8 + c / 4
def stageBankBase (c : Nat) : Nat := bankBase (stageBank c) + c % 4 * 0x80000

/-- Records that staging holds at most (R213). -/
def stagingSize : Nat := 16793600

/-- Records in staging (HST.HVS_STAT.STAGED). -/
def HvsSt.staged (h : HvsSt) : Nat := h.bank.length + h.stack.length

/-- Free slots of staging; none while its bank is not ON (R213, R276). A push sees the pops of its own instant as not yet done (R113). -/
def State.stagingFree (s : State) (c : Nat) : Nat :=
  if s.bankOn (stageBank c) then stagingSize - ((s.hv c).staged + movedNow (s.hv c).popNow s.now) else 0

/-- BACKLOG after staging has changed (R114, R217). -/
def State.backlog (s : State) (c : Nat) : State :=
  let wm := s.hvsReg c 0x28
  s.modHv c fun h => { h with backlog := indication h.backlog h.staged stagingSize (bits wm 0 8) (bits wm 8 8) }

/-- A record enters staging: the bank ring when the stack ring is empty and it has room, the stack ring otherwise (R213). -/
def State.stagePut (s : State) (c : Nat) (r : Rec) : State :=
  let h := s.hv c
  let s1 := if h.stack.isEmpty && decide (h.bank.length < 16384) then
      (s.setWs (Memory.store s.wsMem (stageBankBase c + 32 * (h.bankWr % 16384)) (recBytes r))).modHv c fun h =>
        { h with bank := h.bank ++ [r], bankWr := h.bankWr + 1 }
    else
      (s.setStack (Memory.store s.stackMem (stagingBase c + 32 * (h.stackWr % 16777216)) (recBytes r))).modHv c fun h =>
        { h with stack := h.stack ++ [r], stackWr := h.stackWr + 1 }
  s1.backlog c

/-- A record is dropped in staging: counted by type; the first of an episode raises STAGING_DROP (R213). -/
def State.stageDrop (s : State) (c : Nat) (r : Rec) : State :=
  let first := (s.hv c).drops.first.isNone
  let s1 := s.modHv c fun h => { h with drops := h.drops.add r, dropAll := (h.dropAll + 1) % 2 ^ 48 }
  if first then s1.raiseClu c 7 0 2 else s1

/-- `n` records can enter staging now: they fit the bank ring, or the stack with its ring is ACTIVE (R213, R388). -/
def State.stageOpen (s : State) (c n : Nat) : Bool :=
  s.stackOn (c / 4) || ((s.hv c).stack.isEmpty && decide ((s.hv c).bank.length + n ≤ 16384))

/-- The GAP record of an episode of drops is pushed, once two slots are free (R213, R223). -/
def State.stageGap (s : State) (c : Nat) : State :=
  match (s.hv c).drops.first with
  | none => s
  | some t =>
    if s.stagingFree c < 2 || !s.stageOpen c 1 then s
    else
      (s.stagePut c (mkRec 5 4 none (cluSrc c 0x1C) t (s.hv c).drops.payload)).modHv c fun h =>
        { h with drops := {}, gaps := satInc 65535 h.gaps }

/-- The engine pushes a record into staging, or drops it when one slot at most is free (R213). -/
def State.stagePush (s : State) (c : Nat) (r : Rec) : State :=
  let s1 := (s.touchBank (stageBank c)).stageGap c
  if s1.stagingFree c ≤ 1 then s1.stageDrop c r else s1.stagePut c r

/-! Inputs: 0 to 16 the pin record queues, 17 to 33 the stamper buffers, 34 the cluster collector, 35 the device collector. -/

/-- The window whose queue or buffer an input is. -/
def inputWin (c i : Nat) : Nat := if i % 17 = 16 then 128 + c else 16 * c + i % 17

/-- A record of an invalid code in a pass that still plays: later invalid vectors are counted in it (R60). -/
def State.stillCounts (s : State) (c : Nat) (r : Rec) : Bool :=
  recType r = 6 && (cluWins c).any fun w => bits r.toNat 16 16 = chSrc (s.slotOf w) 1 &&
    ((s.sq w).invalid = some (recTime r) || ((s.ho w).on && (s.ho w).invalid = some (recTime r)))

/-- The oldest record that a collector hands on, in the order of each producer's stamps (R212). DEDUCED (log 99): it waits the 48 ns of R36 from its
stamp, within which an earlier one could still reach the collector, and a record that still counts waits with its source's later ones (`held`) until
its pass ends (R60). -/
def State.collHead (s : State) (c : Nat) (held : List Nat) : List Rec → Option Rec
  | [] => none
  | r :: rest =>
    let src := bits r.toNat 16 16
    if held.contains src then s.collHead c held rest
    else if s.stillCounts c r then s.collHead c (src :: held) rest
    else if recTime r + 49152 ≤ s.t then some r else none

/-- A collector's queue without the record that it hands on. -/
def State.collTail (s : State) (c : Nat) (q : List Rec) : List Rec := match s.collHead c [] q with | some r => q.erase r | none => q

/-- The oldest record of an input. -/
def State.inputHead (s : State) (c i : Nat) : Option Rec :=
  if i < 17 then (s.cp (inputWin c i)).recQ.head?
  else if i < 34 then (s.st (inputWin c i)).buf.head?
  else if i = 34 then s.collHead c [] (s.hv c).collQ
  else if s.dreg 4 0x600 % 8 = c then s.collHead c [] s.flt.devQ else none

/-- The oldest record of an input leaves it. -/
def State.inputPop (s : State) (c i : Nat) : State :=
  if i < 17 then s.modCp (inputWin c i) fun x => { x with recQ := x.recQ.tail }
  else if i < 34 then (s.modSt (inputWin c i) fun x => { x with buf := x.buf.tail, popNow := noteMove x.popNow s.now 1 }).fullish (inputWin c i)
  else if i = 34 then s.modHv c fun h => { h with collQ := s.collTail c h.collQ }
  else s.modFlt fun f => { f with devQ := s.collTail c f.devQ }

/-- A record of an input goes to the pin's window ring instead of staging: FAIL, STAMP or MINMAX under WINDOW in PRE or POST (R261). -/
def State.toWindow (s : State) (c i : Nat) (r : Rec) : Bool :=
  decide (i < 34) && decide (1 ≤ recType r) && decide (recType r ≤ 3) && (s.cw (inputWin c i)).open_ && bit (s.wreg (inputWin c i) 9 0x080) 0

/-- The place that a record goes to can be written: a window ring and the stack portion of staging wait while their stack is not ACTIVE (R388). -/
def State.destOpen (s : State) (c i : Nat) (r : Rec) : Bool := if s.toWindow c i r then s.stackOn (c / 4) else s.stageOpen c 2

/-- One turn of the engine: the next input that holds a record is served (R212). -/
def State.harvest (s : State) (c : Nat) : State :=
  let order := (List.range 36).map fun i => ((s.hv c).turn + i) % 36
  match order.find? fun i => (s.inputHead c i).isSome with
  | none => s
  | some i =>
    match s.inputHead c i with
    | none => s
    | some r =>
      if !s.destOpen c i r then s else
      let s1 := (s.inputPop c i).modHv c fun h => { h with turn := (i + 1) % 36 }
      if s.toWindow c i r then s1.winPush (inputWin c i) r else s1.stagePush c r

/-- A record found uncorrectable in staging is discarded and counted as a drop, as EVENT when its first word is bad too (R272). -/
def State.stageSpoil (s : State) (c : Nat) (r : Rec) (firstBad : Bool) : State :=
  (s.stageDrop c (if firstBad then mkRec 6 0 none 0 (recTime r) 0 else r)).backlog c

/-- The stack ring's oldest record moves into the bank ring when that has room (R213). -/
def State.refill (s : State) (c : Nat) (ecc : Ecc) (firstBad : Bool) : State :=
  let h := s.hv c
  match h.stack with
  | [] => s
  | r :: rest =>
    if 16384 ≤ h.bank.length || !s.bankOn (stageBank c) || !s.stackOn (c / 4) then s
    else
      let s1 := s.eccStackSeen ecc (stagingBase c + 32 * ((h.stackWr - h.stack.length) % 16777216)) 2
      let s2 := s1.modHv c fun h => { h with stack := rest }
      if ecc = .bad then s2.stageSpoil c r firstBad
      else
        (s2.setWs (Memory.store s2.wsMem (stageBankBase c + 32 * (h.bankWr % 16384)) (recBytes r))).modHv c fun h =>
          { h with bank := h.bank ++ [r], bankWr := h.bankWr + 1 }

/-! The host ring. -/

/-- k of HST.HVS_RING[c].SIZE. -/
def State.hvsBits (s : State) (c : Nat) : Nat := bits (s.hvsReg c 0) 1 5

/-- Level of ring `c` (R112, R215). -/
def State.hvsLevel (s : State) (c : Nat) : Nat :=
  let m := 2 ^ (s.hvsBits c + 1)
  ((s.hv c).wr + m - (s.hv c).rd % m) % m

/-- HVS_READY is raised (R216). -/
def State.hvsFire (s : State) (c : Nat) : State := (s.latch 4 (16 + c)).signal (0x080 + 4 * c)

/-- READY after the ring's level has changed (R114, R216). -/
def State.hvsIndicate (s : State) (c : Nat) : State :=
  let wm := s.hvsReg c 0x18
  let l := s.hvsLevel c
  let was := (s.hv c).ready
  let now := indication was l (2 ^ s.hvsBits c) (bits wm 0 8) (bits wm 8 8)
  let s1 := s.modHv c fun h => { h with
    ready := now, since := if now || l = 0 then none else some (h.since.getD s.now), coal := h.coal && !now && decide (l ≠ 0) }
  if now && !was then s1.hvsFire c else s1

/-- wr is posted to host memory (R214). -/
def State.hvsPost (s : State) (c : Nat) : State :=
  let a := s.hvsReg c 0x08
  if bit a 0 && s.canIssue && (s.hv c).unposted ≠ 0 then
    (s.modHv c fun h => { h with unposted := 0 }).emit (.write (bits a 3 61 * 8) (bytesOf (s.hv c).wr 8))
  else s

/-- Staging's oldest record is written into ring `c` in host memory (R213, R214, R335). -/
def State.ringWrite (s : State) (c : Nat) (ecc : Ecc) (firstBad : Bool) : State :=
  let h := s.hv c
  let reg := s.hvsReg c 0
  let k := s.hvsBits c
  match h.bank with
  | [] => s
  | r :: rest =>
    if !bit reg 0 || !s.canIssue || !s.bankOn (stageBank c) || 2 ^ k ≤ s.hvsLevel c then s
    else
      let s1 := (s.eccBankSeen ecc (stageBankBase c + 32 * ((h.bankWr - h.bank.length) % 16384)) 2).modHv c fun h =>
        { h with bank := rest, popNow := noteMove h.popNow s.now 1 }
      if ecc = .bad then s1.stageSpoil c r firstBad
      else
        let addr := bits reg 12 52 * 4096 + 32 * (h.wr % 2 ^ k)
        let s2 := (s1.emit (.write addr (recBytes (recPhase r (!bit h.wr k))))).modHv c fun h =>
          { h with wr := (h.wr + 1) % 2 ^ (k + 1), unposted := h.unposted + 1 }
        let s3 := (s2.backlog c).hvsIndicate c
        if 64 ≤ (s3.hv c).unposted then s3.hvsPost c else s3

/-- The second HVS_READY condition: the level above zero with READY released for COAL µs (R216). -/
def State.hvsCoal (s : State) (c : Nat) : State :=
  let coal := bits (s.hvsReg c 0x18) 16 16
  match (s.hv c).since with
  | some t =>
    if coal ≠ 0 && !(s.hv c).coal && t + coal * us ≤ s.now then (s.modHv c fun h => { h with coal := true }).hvsFire c else s
  | none => s

/-! Registers. -/

/-- HST.HVS_CONS[c] is written (R215). -/
def State.writeCons (s : State) (c v : Nat) : State :=
  let m := 2 ^ (s.hvsBits c + 1)
  if m ≤ v || s.hvsLevel c < (v + m - (s.hv c).rd % m) % m then
    (s.modHv c fun h => { h with consRefused := true }).raiseClu c 7 1 0
  else (s.modHv c fun h => { h with rd := v, consRefused := false }).hvsIndicate c

/-- A refused configuration write of ring `c` (HST.HVS_STAT.CFG_REFUSED). -/
def State.hvsRefuse (s : State) (c : Nat) : State := s.modHv c fun h => { h with cfgRefused := true }
def State.hvsAccept (s : State) (c : Nat) : State := s.modHv c fun h => { h with cfgRefused := false }

/-- HST.HVS_RING[c] is written (R214). -/
def State.writeHvsRing (s : State) (c v : Nat) : State :=
  let old := s.hvsReg c 0
  if bits v 1 5 < 6 || 22 < bits v 1 5 || (bit old 0 && (bits v 1 5 ≠ bits old 1 5 || bits v 12 52 ≠ bits old 12 52)) then s.hvsRefuse c
  else
    let s1 := (s.setReg (pageAddr 4 (hvsOff c 0)) (bits v 0 6 + bits v 12 52 * 4096)).hvsAccept c
    if bit v 0 && !bit old 0 then s1.modHv c fun h => { h with wr := 0, rd := 0, unposted := 0, ready := false, since := none, coal := false }
    else s1

/-- HST.HVS_WM[c] is written (R114, R216). -/
def State.writeHvsWm (s : State) (c v : Nat) : State :=
  if bits v 0 8 ≤ bits v 8 8 then s.hvsRefuse c
  else ((s.setReg (pageAddr 4 (hvsOff c 0x18)) (v % 2 ^ 32)).hvsAccept c).hvsIndicate c

/-- HST.HVS_SWM[c] is written (R114, R217). -/
def State.writeHvsSwm (s : State) (c v : Nat) : State :=
  if bits v 0 8 ≤ bits v 8 8 then s.hvsRefuse c
  else ((s.setReg (pageAddr 4 (hvsOff c 0x28)) (bits v 0 20)).hvsAccept c).backlog c

/-! Meanings. -/

def execHarvestTake (dt : Nat) (c : CluId) (s : State) : Host.Outcome State Fault Refusal := .next ((s.advance dt).harvest c)
def execStagingDropGap (dt : Nat) (c : CluId) (s : State) : Host.Outcome State Fault Refusal := .next ((s.advance dt).stageGap c)
def execStagingRefill (dt : Nat) (c : CluId) (ecc : Ecc) (firstBad : Bool) (s : State) : Host.Outcome State Fault Refusal :=
  .next ((s.advance dt).refill c ecc firstBad)
def execHarvestRingWrite (dt : Nat) (c : CluId) (ecc : Ecc) (firstBad : Bool) (s : State) : Host.Outcome State Fault Refusal :=
  .next ((s.advance dt).ringWrite c ecc firstBad)
def execHvsReadyCoal (dt : Nat) (c : CluId) (s : State) : Host.Outcome State Fault Refusal := .next ((s.advance dt).hvsCoal c)
def execProdIndexPost (dt : Nat) (c : CluId) (s : State) : Host.Outcome State Fault Refusal := .next ((s.advance dt).hvsPost c)
def execHvsConsWrite (dt : Nat) (c : CluId) (val : BitVec 32) (s : State) : Host.Outcome State Fault Refusal :=
  .next ((s.advance dt).hostWrite 4 (.hvsConsWrite dt c val) fun s => s.writeCons c val.toNat)
def execHvsRingWrite (dt : Nat) (c : CluId) (val : Word) (s : State) : Host.Outcome State Fault Refusal :=
  .next ((s.advance dt).hostWrite 4 (.hvsRingWrite dt c val) fun s => s.writeHvsRing c val.toNat)

end Sys2Proof.Machine
end

