-- ==== Sys2Proof/Machine/Ledger.lean ====
section
/-!
DEFINITION. Sys2Proof/Machine/Ledger.lean: the Ledger (R326 to R331): entries, budgets, appends one at a time, and the changes that
take effect once their entry is committed: repairs (R289), retirements (R196), subsystem IDs and the ALIVE polarity (R330).
-/

namespace Sys2Proof.Machine

/-! Entries (R326). -/

def eKind (e : BitVec 256) : Nat := bits e.toNat 0 8
def eObj (e : BitVec 256) : Nat := bits e.toNat 32 32
def eVal (e : BitVec 256) : Nat := bits e.toNat 64 64
def eCommit (e : BitVec 256) : Nat := bits e.toNat 216 8
def eCheck (e : BitVec 256) : Nat := bits e.toNat 224 32

/-- An entry as the keeper classes it at bring-up (R329). -/
inductive EClass where
  | blank | valid | void | torn | bad
deriving DecidableEq, Repr

/-- Class of an entry (R329). -/
def entryClass (e : BitVec 256) : EClass :=
  if e = 0 then .blank
  else if e = BitVec.allOnes 256 then .void
  else if eCommit e ≠ 0xA5 then .torn
  else if crc32c (bytesOf e.toNat 28) = eCheck e then .valid
  else .bad

/-- An entry counts against its budget: valid or bad (R329). -/
def counted (e : BitVec 256) : Bool := entryClass e = .valid || entryClass e = .bad

/-- Entries of a kind that count against its budget and meet `p` on OBJECT. -/
def State.ledgerUsed (s : State) (kind : Nat) (p : Nat → Bool) : Nat :=
  (s.keep.ledger.filter fun x => decide (eKind x.2 = kind) && p (eObj x.2) && counted x.2).length

/-- Valid entries of a kind, in order of index (R329). -/
def State.ledgerValid (s : State) (kind : Nat) : List (BitVec 256) :=
  (s.keep.ledger.map (·.2)).filter fun e => decide (eKind e = kind) && decide (entryClass e = .valid)

/-- Field shots of a bank, MCH.SPARES.FIELD (R288). -/
def State.fieldShots (s : State) (bank : Nat) : Nat := s.ledgerUsed 3 fun o => decide (bits o 16 4 = bank)

/-- The budget of an item is spent (R327): LC 4, REPAIR 16 per bank, RETIRE 8, SUBSYS 4, ALIVE_POL 2. -/
def State.budgetSpent (s : State) (kind obj : Nat) : Bool :=
  match kind with
  | 2 => decide (4 ≤ s.ledgerUsed 2 fun _ => true)
  | 3 => decide (16 ≤ s.fieldShots (bits obj 16 4))
  | 4 => decide (8 ≤ s.ledgerUsed 4 fun _ => true)
  | 5 => decide (4 ≤ s.ledgerUsed 5 fun _ => true)
  | 6 => decide (2 ≤ s.ledgerUsed 6 fun _ => true)
  | _ => true

/-- Index of the lowest blank entry, LDG.STAT.NEXT; none when none is left. -/
def State.nextBlank (s : State) : Option Nat := (List.range 1024).find? fun i => decide (Tab.get 0 s.keep.ledger i = 0)

/-- Blank entries left. -/
def State.blanks (s : State) : Nat := 1024 - s.keep.ledger.length

/-- An entry complete with COMMIT and CHECK (R326). -/
def mkEntry (index kind lc obj val t : Nat) : BitVec 256 :=
  let body := pack [(0, 8, kind), (8, 8, lc), (16, 16, index), (32, 32, obj), (64, 64, val), (128, 64, gtOf t), (192, 16, epochOf t),
    (216, 8, 0xA5)]
  BitVec.ofNat 256 (pack [(0, 224, body), (224, 32, crc32c (bytesOf body 28))])

/-- The keeper programs an entry at the lowest blank index: committed when it verifies, voided when it does not, with APPEND_FAIL;
LEDGER_LOW when they fall below 64 (R328). Answers whether the entry is committed. -/
def State.program (s : State) (kind lc obj val : Nat) (verified : Bool) : Bool × State :=
  match s.nextBlank with
  | none => (false, s)
  | some i =>
    let e := if verified then mkEntry i kind lc obj val s.t else BitVec.allOnes 256
    let s1 := s.modKeep fun k => { k with ledger := Tab.set 0 k.ledger i e }
    let s2 := if verified then s1 else s1.raiseDev 12 2 0 2
    (verified, if s2.blanks = 63 then s2.raiseDev 12 3 0 0 else s2)

/-! Requests and results. -/

/-- LDG.RWL_RESULT takes a finished effective write (R330); VALID waits for every append, that of a life-cycle transition among them (R372). -/
def State.rwlPost (s : State) (kind outcome reason : Nat) : State :=
  (s.modKeep fun k => { k with rwl := { k.rwl.done outcome reason with valid := k.queue.isEmpty && s.sec.trans.isNone }, rwlKind := kind }).bumpSeq 12

/-- MCH.REPAIR_RESULT takes a finished repair: REPAIR_DONE, or REPAIR_REFUSED for a refusal or a failure (R289). -/
def State.repairPost (s : State) (outcome reason : Nat) : State :=
  let s1 := (s.modMem fun m => { m with repairRes := { m.repairRes.done outcome reason with valid := m.repair.isNone } }).bumpSeq 10
  if outcome = 1 then s1.raiseDev 10 3 3 0 else s1.raiseDev 10 4 4 0

/-- A RETIRE is refused, with RETIRE_REFUSED (R196). -/
def State.retireRefuse (s : State) (c : Nat) : State :=
  (s.modClu c fun x => { x with retRefused := true }).raiseClu c 5 2 0

/-- Cluster of a slot number. -/
def cluOfSlot (k : Nat) : Nat := k / 17

/-- The change that asked for an entry is refused with reason BUDGET (R330). -/
def State.budgetRefuse (s : State) (kind obj : Nat) : State :=
  let s1 := (s.rwlPost kind 2 1).raiseDev 12 1 0 0
  match kind with
  | 3 => (s1.modMem fun m => { m with repair := none }).repairPost 2 2
  | 4 => s1.retireRefuse (cluOfSlot (obj % 256))
  | _ => s1

/-- Slot `k` is retired (R196). -/
def State.retired (s : State) (k : Nat) : Bool := (s.clu (cluOfSlot k)).retired.getLsbD (k % 17)

/-- The append at the head of the keeper's queue starts: the budget is checked then, and refused appends leave the queue (R331). A
slot retired meanwhile by an earlier append is refused (R196); DESIGN CHOICE (log 149): its RWL result is REFUSED with reason 0. -/
def State.startAppends (s : State) : Nat → State
  | 0 => s
  | n + 1 =>
    match s.keep.queue with
    | [] => s
    | a :: r =>
      let pop := s.modKeep fun k => { k with queue := r }
      if s.budgetSpent a.kind a.obj.toNat then (pop.budgetRefuse a.kind a.obj.toNat).startAppends n
      else if a.kind = 4 && s.retired (a.obj.toNat % 256) then ((pop.rwlPost 4 2 0).retireRefuse (cluOfSlot (a.obj.toNat % 256))).startAppends n
      else s

/-- An effective write asks the keeper for an entry (R330, R331). -/
def State.request (s : State) (kind obj val : Nat) : State :=
  let a : Append := { kind := kind, obj := BitVec.ofNat 32 obj, val := BitVec.ofNat 64 val }
  let s1 := s.modKeep fun k => { k with queue := k.queue ++ [a], rwl := k.rwl.busy }
  if s.keep.queue.isEmpty then s1.startAppends 1 else s1

/-- The change takes effect: its entry is committed (R330). A repair goes on to copy its column (R289). -/
def State.granted (s : State) (a : Append) : State :=
  match a.kind with
  | 3 => s.modMem fun m => { m with repair := m.repair.map fun r => (r.1, r.2.1, 2) }
  | 4 =>
    let k := a.obj.toNat % 256
    s.modClu (cluOfSlot k) fun x => { x with retired := putBit x.retired (k % 17) true, retRefused := false }
  | 5 => s.modKeep fun k => { k with subsys := BitVec.ofNat 32 a.val.toNat }
  | 6 => s.modFlt fun f =>
    let pol := bit a.val.toNat 0
    { f with pol := pol, alive := if f.running then f.alive else f.alive.map fun _ => pol }
  | _ => s

/-- The change fails with reason LEDGER and changes nothing (R328). -/
def State.ungranted (s : State) (a : Append) : State :=
  match a.kind with
  | 3 => (s.modMem fun m => { m with repair := none }).repairPost 3 5
  | _ => s

/-- The append in progress ends (R328): the entry is committed and the change takes effect, or the change fails. -/
def State.appendDone (s : State) (verified : Bool) : State :=
  match s.keep.queue with
  | [] => s
  | a :: r =>
    let p := s.program a.kind s.sec.lc a.obj.toNat a.val.toNat verified
    let s1 := p.2.modKeep fun k => { k with queue := r }
    let s2 := if p.1 then (s1.rwlPost a.kind 1 0).granted a else (s1.rwlPost a.kind 3 2).ungranted a
    s2.startAppends r.length

/-! The writes that ask for entries. -/

/-- CLU_c.RETIRE with GO = 1: the slot that S_c addresses, unless the budget is spent or it is already retired (R196). -/
def State.retire (s : State) (c : Nat) : State :=
  let k := s.slotOf (128 + c)
  if s.retired k then s.retireRefuse c
  else if s.budgetSpent 4 k then s.budgetRefuse 4 k
  else (s.modClu c fun x => { x with retRefused := false }).request 4 k 0

/-- A write of LDG.SUBSYS: effective when it differs; refused in DEPLOYED and later states (R315, R330). -/
def State.writeSubsys (s : State) (v : Nat) : State :=
  if BitVec.ofNat 32 v = s.keep.subsys then s
  else if 2 ≤ s.sec.lc then s.rwlPost 5 2 3
  else if s.budgetSpent 5 0 then s.budgetRefuse 5 0
  else s.request 5 0 (v % 2 ^ 32)

/-- A write of FLT.ALIVE_CFG.POL: effective when it differs (R330). -/
def State.writePol (s : State) (pol : Bool) : State :=
  if pol = s.flt.pol then s
  else if s.budgetSpent 6 0 then s.budgetRefuse 6 0
  else s.request 6 0 (b2n pol)

def execRetire (dt : Nat) (c : CluId) (s : State) : Host.Outcome State Fault Refusal :=
  .next ((s.advance dt).hostWrite (cluPage c.toNat) (.retire dt c) fun s => s.retire c.toNat)
def execLedgerAppendDone (dt : Nat) (verified : Bool) (s : State) : Host.Outcome State Fault Refusal := .next ((s.advance dt).appendDone verified)
def execSubsysWrite (dt : Nat) (val : BitVec 32) (s : State) : Host.Outcome State Fault Refusal :=
  .next ((s.advance dt).hostWrite 12 (.subsysWrite dt val) fun s => s.writeSubsys val.toNat)
def execAlivePolWrite (dt : Nat) (pol : Bool) (s : State) : Host.Outcome State Fault Refusal :=
  .next ((s.advance dt).hostWrite 6 (.alivePolWrite dt pol) fun s => s.writePol pol)

end Sys2Proof.Machine
end

