-- ==== Sys2Proof/Machine/Memory.lean ====
section
/-!
DEFINITION. Sys2Proof/Machine/Memory.lean: scrub (R273), the banks' power states (R274, R276), the march engine (R281 to R287), field
repair (R288, R289), and what the host reads and writes through BAR 2 (R77, R87, R111, R209, R265, R267, R340) and BAR 4 (R275, R278, R279).
-/

namespace Sys2Proof.Machine

/-! Scrub (R273). Target 0 and 1 are the stacks, 2 + b is bank b. -/

/-- Base of a stack in BAR 2 (R87). -/
def stackBase (st : Nat) : Nat := st * 0x800000000

/-- A job of the march engine works on stack `st` (R281). -/
def State.marchingStack (s : State) (st : Nat) : Bool := decide (s.mem.march ≠ 0) && bit (s.dreg 10 0x040) (16 + st)

/-- A job of the march engine works on bank `b` (R281). -/
def State.marchingBank (s : State) (b : Nat) : Bool := decide (s.mem.march ≠ 0) && bit (s.dreg 10 0x040) b

/-- The stack word that scrub reads next: MEM.SCRUB_STAT.NEXT, or the stack's first word after reset (log entry 9). -/
def State.scrubNext (s : State) (st : Nat) : Nat :=
  if st = 0 then s.mem.scrub.1 else max s.mem.scrub.2 (stackBase 1)

/-- Scrub moves to the next word of a stack; at the end it counts a pass and starts again, with SCRUB_PASS. -/
def State.scrubMove (s : State) (st : Nat) : State :=
  let a := s.scrubNext st + 8
  let wrap := decide (stackBase (st + 1) ≤ a)
  let next := if wrap then stackBase st else a
  let s1 := s.modMem fun m =>
    if st = 0 then { m with scrub := (next, m.scrub.2), passes := (if wrap then satInc (2 ^ 24 - 1) m.passes.1 else m.passes.1, m.passes.2) }
    else { m with scrub := (m.scrub.1, next), passes := (m.passes.1, if wrap then satInc (2 ^ 24 - 1) m.passes.2 else m.passes.2) }
  if wrap then s1.raiseDev 8 4 4 0 else s1

/-- Scrub reads one word of a stack, which waits for EN, for the stack and for a march of it to end, or of a bank that is ON. A write-back
leaves the word's data as it is, whether it is made or skipped. -/
def State.scrub (s : State) (target : Nat) (ecc : Ecc) : State :=
  if target < 2 then
    if s.dev.bringup = 5 && bit (s.dreg 8 0x040) 0 && s.stackOn target && !s.marchingStack target then
      (s.eccStackSeen ecc (s.scrubNext target) 3).scrubMove target
    else s
  else
    let b := target - 2
    if s.dev.bringup ≠ 5 || 16 ≤ b || !s.bankOn b then s
    else
      let n := Tab.get 0 s.mem.bankScrub b
      (s.eccBankSeen ecc (bankBase b + 8 * n) 3).modMem fun m => { m with bankScrub := Tab.set 0 m.bankScrub b ((n + 1) % 262144) }

/-! Banks (R274, R276). -/

/-- The bank is pinned: 10 to 13 (R274). -/
def pinned (b : Nat) : Bool := decide (10 ≤ b) && decide (b ≤ 13)

/-- The condition of R274 to leave ON or be marched destructively. -/
def State.mayLeave (s : State) (b : Nat) : Bool :=
  if b < 8 then (cluWins b).all fun w => !s.armedRun w
  else if b < 10 then (List.range 4).all fun i =>
    let c := 4 * (b - 8) + i
    decide ((s.hv c).staged = 0) && !bit (s.hvsReg c 0) 0
  else if b = 14 then (List.range 136).all fun w => !s.armedRun w
  else if b = 15 then decide (s.mem.march = 0) && s.mem.repair.isNone
  else false

/-- WST.BANK_RESULT takes a finished bank command; VALID waits for every change in progress (R276, R372). -/
def State.bankPost (s : State) (b outcome reason : Nat) : State :=
  let s1 := (s.modMem fun m => { m with bankRes := { m.bankRes.done outcome reason with valid := m.bankTo.isEmpty }, bankWhich := b }).bumpSeq 9
  if outcome = 1 then s1.raiseDev 9 0 0 0 else s1.raiseDev 9 1 1 0

/-- The bank's contents are lost (R276). -/
def State.zeroBank (s : State) (b : Nat) : State := s.setWs (Memory.zero s.wsMem (bankBase b) (bankBase (b + 1)))

/-- A bank of Sluices that leaves ON: they hold nothing (R276). -/
def State.dropSluices (s : State) (b : Nat) : State :=
  if b < 8 then s.each (cluWins b) fun s w => (s.modSl w fun x => { x with bufs := [], chain := [] }).fillIndicate w else s

/-- WST.BANK_CMD: BUSY for a bank under march (R286), then the refusals in the order of R276, a command that names the state in force, or a change that starts. STATE 0 ON,
1 RETENTION, 2 OFF. -/
def State.bankCmd (s : State) (b st : Nat) : State :=
  let now := s.bankState b
  if s.marchingBank b then s.bankPost b 2 1
  else if st = 3 then s.bankPost b 2 4
  else if pinned b then s.bankPost b 2 2
  else if st ≠ 0 && !s.mayLeave b then s.bankPost b 2 3
  else if (s.mem.repair.any fun r => decide (r.1 = b)) || now = 3 then s.bankPost b 2 1
  else if now = 2 && st = 1 then s.bankPost b 2 4
  else if now = st then s.bankPost b 1 0
  else
    let s1 := (s.modMem fun m => { m with
      bank := Tab.set 0 m.bank b 3, bankTo := Tab.set none m.bankTo b (some st), notOn := Tab.set false m.notOn b false,
      bankRes := m.bankRes.busy }).dropSluices b
    if st = 2 then s1.zeroBank b else s1

/-- A bank completes its change: OFF has lost the contents, and a bank from OFF comes back with zeros (R276). -/
def State.bankDone (s : State) (b : Nat) : State :=
  match Tab.get none s.mem.bankTo b with
  | none => s
  | some st => (s.modMem fun m => { m with bank := Tab.set 0 m.bank b st, bankTo := Tab.set none m.bankTo b none }).bankPost b 1 0

/-! The march engine. -/

def State.marchCfg (s : State) : Nat := s.dreg 10 0x040
def State.marchBanks (s : State) : List Nat := (List.range 16).filter fun b => bit s.marchCfg b
def State.marchDestructive (s : State) : Bool := bit s.marchCfg 21

/-- A write of MCH.MARCH_CFG: refused while a job runs, and with RET_DELAY out of range. -/
def State.writeMarchCfg (s : State) (v : Nat) : State :=
  if s.mem.march ≠ 0 || bits v 32 10 = 0 || 1000 < bits v 32 10 then s
  else s.setReg (pageAddr 10 0x040) (v % 2 ^ 18 + bits v 20 2 * 2 ^ 20 + bits v 32 10 * 2 ^ 32)

/-- MCH.MARCH_STAT takes the end of a job or a refusal (R286). -/
def State.marchPost (s : State) (outcome reason : Nat) : State :=
  let s1 := (s.modMem fun m => { m with marchRes := { m.marchRes.done outcome reason with valid := decide (m.march = 0) } }).bumpSeq 10
  if outcome = 2 then s1.raiseDev 10 2 2 0 else s1.raiseDev 10 0 0 0

/-- Why a job may not start: BUSY 1, EMPTY 5, STACK_DESTRUCTIVE 6, PINNED 3, IN_USE 4, NOT_ON 2; 0 nothing (R282, R286). -/
def State.marchFault (s : State) : Nat :=
  let banks := s.marchBanks
  let stks := bits s.marchCfg 16 2
  if s.mem.march ≠ 0 || s.mem.repair.isSome then 1
  else if banks.isEmpty && stks = 0 then 5
  else if s.marchDestructive && stks ≠ 0 then 6
  else if s.marchDestructive && banks.any pinned then 3
  else if s.marchDestructive && banks.any (fun b => !s.mayLeave b) then 4
  else if banks.any (fun b => !s.bankOn b) then 2
  else 0

/-- Borrowings of the first rows of the stacks a job names (R283, R285). -/
def State.stackBorrows (s : State) : List (Nat × Nat × Nat) :=
  (if bit s.marchCfg 16 then [(16, 0, 1)] else []) ++ (if bit s.marchCfg 17 then [(17, 0, 1)] else [])

/-- The borrowings that follow bank `b`: the next bank named, or the stacks when none is left. -/
def State.nextBorrows (s : State) (b : Nat) : List (Nat × Nat × Nat) :=
  match s.marchBanks.find? fun x => decide (b ≤ x) with
  | some x => [(x, 0, 1)]
  | none => s.stackBorrows

/-- MCH.MARCH_CMD with OP START: refused, or a job starts with its first borrowings (R281 to R283). -/
def State.marchStartCmd (s : State) : State :=
  let f := s.marchFault
  if f ≠ 0 then s.marchPost 2 f
  else
    let s1 := s.modMem fun m => { m with
      march := 1, marchRes := m.marchRes.busy, rows := 0, fails := 0, failLoc := none,
      borrow := if s.marchDestructive then [] else s.nextBorrows 0 }
    if s.marchDestructive then
      s1.each s.marchBanks fun s b => (s.modMem fun m => { m with notOn := Tab.set false m.notOn b false }).dropSluices b
    else s1

/-- The job ends (R286). -/
def State.marchEnd (s : State) (outcome : Nat) : State :=
  (s.modMem fun m => { m with march := 0, borrow := [] }).marchPost outcome 0

/-- A bank's contents are replaced by cells of its own addresses. -/
def Memory.splice (m : List Host.Cell) (lo hi : Nat) (new : List Host.Cell) : List Host.Cell :=
  (m.filter fun c => decide (c.1 < lo)) ++ new ++ (m.filter fun c => decide (hi ≤ c.1))

/-- Undefined bytes of a bank after an abort (R286): a free value at every address of the banks named. -/
def abortCells (n base : Nat) : List Host.Cell :=
  ((List.range 0x200000).map fun i => (base + i, Config.abortByte n (base + i))).filter fun c => decide (c.2 ≠ 0)

/-- The banks of a destructive job that does not finish hold undefined contents until they are written (R286). -/
def State.undefineBanks (s : State) : State :=
  s.each s.marchBanks fun s b =>
    (s.setWs (Memory.splice s.wsMem (bankBase b) (bankBase (b + 1)) (abortCells s.freeN (bankBase b)))).draw.2

/-- MCH.MARCH_CMD with OP ABORT: a destructive job ends at once with its banks undefined; a preserving one ends after the copy-back of the
rows it has borrowed (R286). With no job running it has no effect. -/
def State.marchAbortCmd (s : State) : State :=
  if s.mem.march = 0 then s
  else if s.marchDestructive then s.undefineBanks.marchEnd 3
  else if s.mem.borrow.isEmpty then s.marchEnd 3
  else s.modMem fun m => { m with march := 2 }

/-- The borrowing that an event concerns: of the bank, or of stack M0 or M1 by the operand (R283). -/
def State.borrowOf (s : State) (stk : Bool) : Option (Nat × Nat × Nat) :=
  s.mem.borrow.find? fun x => decide (x.1 < 16) || decide (x.1 = 16 + b2n stk)

/-- The target of a borrowing serves the engine: the bank is ON, the stack ACTIVE (R276, R388). -/
def State.targetOn (s : State) (t : Nat) : Bool := if t < 16 then s.bankOn t else s.stackOn (t - 16)

/-- A borrowing moves from one phase to the next. -/
def State.borrowMove (s : State) (t row phase : Nat) : State :=
  s.modMem fun m => { m with borrow := m.borrow.map fun x => if x.1 = t then (t, row, phase) else x }

/-- A failing row: counted; the job's first is kept (R281). -/
def State.marchFail (s : State) (t row col : Nat) : State :=
  (s.modMem fun m => { m with fails := satInc 65535 m.fails, failLoc := match m.failLoc with | none => some (t, row, col) | x => x }).raiseDev
    10 1 1 2

/-- BAR 4 offset of the shadow row of a borrowing: row 0 of bank 15, or row 1 for a row of M1 and for row 0 itself (R283). -/
def shadowAt (t row : Nat) : Nat := bankBase 15 + (if t = 17 || (t = 15 && row = 0) then 0x400 else 0)

/-- The shadow row holds what the borrowed row holds: from copy-in until the row serves again, every access that names the row is served from the
shadow, so that one content stands for both (R283, R285; log 35). -/
def State.shadowRow (s : State) (t row : Nat) : State :=
  let src := if t < 16 then bankBase t + 0x400 * row else stackBase (t - 16) + 0x400 * row
  let cells := (if t < 16 then s.wsMem else s.stackMem).filter fun c => decide (src ≤ c.1) && decide (c.1 < src + 0x400)
  let at_ := shadowAt t row
  s.setWs (Memory.splice s.wsMem at_ (at_ + 0x400) (cells.map fun c => (at_ + (c.1 - src), c.2)))

/-- What error correction found in the words of a row that MCH reads is reported (R271): of a row of bank or stack `t`, or of its shadow. -/
def State.rowErrors (s : State) (t at_ : Nat) (found : List (Nat × Ecc)) : State :=
  s.each (found.filter fun x => decide (x.1 < 128)) fun s x =>
    if t < 16 then s.eccBankSeen x.2 (at_ + 8 * x.1) 3 else s.eccStackSeen x.2 (at_ + 8 * x.1) 3

/-- Where a row lies: its offset in BAR 4, or in BAR 2 for a stack's. -/
def rowBase (t row : Nat) : Nat := (if t < 16 then bankBase t else stackBase (t - 16)) + 0x400 * row

/-- The copy-in ends: accesses are redirected to the shadow, and the row's test starts (R283). -/
def State.copiedIn (s : State) (r : RowReads) : State :=
  match s.borrowOf r.stk with
  | some (t, row, 1) => if s.targetOn t then ((s.rowErrors t (rowBase t row) r.found).shadowRow t row).borrowMove t row 2 else s
  | _ => s

/-- The row's test ends: a failure is recorded, and the copy-back starts (R283). -/
def State.rowTested (s : State) (stk : Bool) (failCol : Option Nat) : State :=
  match s.borrowOf stk with
  | some (t, row, 2) =>
    let s1 := match failCol.filter (· < 9216) with | some c => s.marchFail t row c | none => s
    s1.borrowMove t row 3
  | _ => s

/-- Rows of a bank and of a stack (R281, R285). -/
def rowsOf (t : Nat) : Nat := if t < 16 then 2048 else 2 ^ 25

/-- The copy-back ends and the row serves again; the job takes its next row, or ends (R283, R286). -/
def State.copiedBack (s : State) (r : RowReads) : State :=
  match s.borrowOf r.stk with
  | some (t, row, 3) =>
    let next := if s.mem.march = 2 then [] else if row + 1 < rowsOf t then [(t, row + 1, 1)] else if t < 16 then s.nextBorrows (t + 1) else []
    let s1 := ((s.rowErrors 15 (shadowAt t row) r.found).shadowRow t row).modMem fun m => { m with
      rows := satInc (2 ^ 28 - 1) m.rows, borrow := next ++ m.borrow.filter fun x => decide (x.1 ≠ t) }
    if s1.mem.borrow.isEmpty then s1.marchEnd (if s.mem.march = 2 then 3 else 1) else s1
  | _ => s

/-- A destructive job ends: its banks hold zeros and valid check bits; ROWS counts the banks; failures are (bank, row, column) (R282). -/
def State.destructiveDone (s : State) (fails : List (Nat × Nat × Nat)) : State :=
  if s.mem.march = 0 || !s.marchDestructive then s
  else
    let s1 := s.each s.marchBanks fun s b => s.zeroBank b
    let found := fails.filter fun f => s.marchBanks.contains f.1 && decide (f.2.1 < 2048) && decide (f.2.2 < 9216)
    let s2 := s1.each found fun s f => s.marchFail f.1 f.2.1 f.2.2
    (s2.modMem fun m => { m with rows := s.marchBanks.length }).marchEnd 1

/-- The start-up march (R287). -/
def State.startupMarch (s : State) (fails : BitVec 16) : State :=
  let s1 := (s.setWs []).modMem fun m => { m with startup := fails, startupDone := true }
  if fails = 0 then s1 else s1.raiseDev 10 5 5 2

/-! Field repair (R288, R289). -/

/-- Spare column that a shot consumes: the lowest that factory and field repair have left (log entry 30). -/
def State.nextSpare (s : State) (b : Nat) : Nat := min 16 (Config.factorySpares b) + s.fieldShots b

/-- Why a repair is refused: BUDGET 2, NOT_ON 3, RANGE 4, BUSY 1; 0 nothing (R289). -/
def State.repairFault (s : State) (b col : Nat) : Nat :=
  if 16 ≤ s.fieldShots b then 2
  else if s.bankState b = 1 || s.bankState b = 2 then 3
  else if 9215 < col then 4
  else if (b = 15 && s.mem.march ≠ 0) || s.marchingBank b || s.bankState b = 3 || s.mem.repair.isSome then 1
  else 0

/-- MCH.REPAIR_CMD with GO = 1: refused, or the Ledger entry is asked for (R289). -/
def State.repairStart (s : State) (b col : Nat) : State :=
  let f := s.repairFault b col
  if f = 2 then (s.rwlPost 3 2 1).raiseDev 12 1 0 0 |>.repairPost 2 2
  else if f ≠ 0 then s.repairPost 2 f
  else (s.modMem fun m => { m with repair := some (b, col, 1), repairRes := m.repairRes.busy }).request 3 (col + b * 65536) (s.nextSpare b)

/-- Row by row the word that holds the column is read and corrected; what the reads find is a free value (R271, R289, log 145). -/
def State.repairReads (s : State) (b col : Nat) : State :=
  (s.each ((Config.repairReads s.freeN).filter fun x => decide (x.1 < 2048)) fun s x =>
    s.eccBank (bankBase b + 0x400 * x.1 + 8 * (col / 72)) (if x.2 then 2 else 1) 3).draw.2

/-- The column is copied, and all rows switch to the spare at one instant (R289). -/
def State.repairDone (s : State) : State :=
  match s.mem.repair with
  | some (b, col, 2) =>
    ((s.repairReads b col).modMem fun m => { m with repair := none, spare := Tab.set 0 m.spare (b * 16384 + col) (s.nextSpare b - 1) }).repairPost 1 0
  | _ => s

/-! BAR 2. -/

/-- What lies at a full-aperture address (R87, R267). -/
inductive Region where
  /-- Vector area of a pin. -/
  | vec (pin : Nat)
  /-- Fail area of a pin. -/
  | fail (pin : Nat)
  /-- Catalogue store of a pin. -/
  | cat (pin : Nat)
  /-- Calibration tables and Harvest staging: read only. -/
  | readOnly
  | reserved
deriving DecidableEq, Repr

/-- Region of a full-aperture address (R87, R267). -/
def regionOf (a : Nat) : Region :=
  let st := a / 0x800000000
  let o := a % 0x800000000
  if o < 0x700000000 then
    let pin := 64 * st + o / 0x1C000000
    if o % 0x1C000000 < 0x18000000 then .vec pin else .fail pin
  else
    let q := o - 0x700000000
    if q < 0x4000000 then .cat (64 * st + q / 0x100000)
    else if q < 0x10000000 then .reserved
    else if q < 0x20000000 then .readOnly
    else if q < 0x80000000 then .reserved
    else .readOnly

/-- The pin a region belongs to. -/
def Region.pin : Region → Option Nat
  | .vec p => some p
  | .fail p => some p
  | .cat p => some p
  | _ => none

/-- The byte lies in a tagged granule of a vector area (R77, R324). -/
def State.tagged (s : State) (a : Nat) : Bool :=
  match regionOf a with
  | .vec p => Tab.get false s.mem.tags (p * 6144 + (a - vecArea p) / 65536)
  | _ => false

/-- Size of BAR 2 in bytes (R340). -/
def State.bar2Bytes (s : State) : Nat := 2 ^ (30 + s.host.bar2Size)

/-- Full-aperture address of BAR 2 offset `o` (R340). -/
def State.bar2Addr (s : State) (o : Nat) : Nat := bits (s.dreg 4 0x050) 0 36 + o

/-- An access lies in BAR 2. -/
def State.inBar2 (s : State) (o n : Nat) : Bool := decide (0 < n) && decide (o + n ≤ s.bar2Bytes)

/-- A byte that BAR 2 reads: zero where nothing may be seen (R77, R267). -/
def State.bar2Byte (s : State) (a : Nat) : Byte :=
  if s.tagged a || regionOf a = .reserved || !s.stackOn (a / 0x800000000) then 0 else Memory.read s.stackMem a

/-- The stacks that an access of `n` bytes at `a` reaches are ACTIVE (R388). -/
def State.stacksOn (s : State) (a n : Nat) : Bool := s.stackOn (a / 0x800000000) && s.stackOn ((a + n - 1) / 0x800000000)

/-- A BAR 2 access to a stack that does not serve: counted, with STK_ACCESS latched (R388). -/
def State.stackMiss (s : State) : State := (s.modDev fun d => { d with stkDrop := satInc 65535 d.stkDrop }).latch 1 16

/-- A BAR 2 read: zeros before SERVICEABLE and from a stack that is not ACTIVE; else the bytes, poisoned when a word is uncorrectable
(R77, R272, R340, R382, R388). -/
def State.bar2Load (s : State) (off n : Nat) (ecc : Ecc) : State :=
  let a := s.bar2Addr off
  if !s.inBar2 off n then s
  else if s.dev.bringup ≠ 5 then s.emit (.data (List.replicate n 0) false)
  else
    let s := if s.stacksOn a n then s else s.stackMiss
    if s.tagged a || regionOf a = .reserved || !s.stackOn (a / 0x800000000) then
      s.emit (.data ((List.range n).map fun i => s.bar2Byte (a + i)) false)
    else (s.eccStackSeen ecc (a / 8 * 8) 5).emit (.data ((List.range n).map fun i => s.bar2Byte (a + i)) (ecc = .bad))

/-- Byte ranges of a window's active segments with the reason a write to them is dropped: 1 descriptor, 2 vectors or lane, 3 entry 0 or 1
(R80, R110, R111). DESIGN CHOICE (log 113): reason 3 stands for the descriptors of entries 0 and 1, reason 2 for their vectors and lanes. -/
def State.activeRanges (s : State) (w : Nat) : List (Nat × Nat × Nat) :=
  let q := s.sq w
  if !q.loaded then []
  else
    let entry := fun (e reason : Nat) => (catStore w + 64 * e, catStore w + 64 * e + 64, reason)
    let data := fun (d : RawDesc) =>
      ((dRanges d).map fun r => (vecArea w + r.1, vecArea w + r.2, 2)) ++
      (if dStream d then ((s.sl w).ring.filter fun x => decide (x.shelf = dShelf d)).map fun x => (vecArea w + x.at_, vecArea w + x.at_ + x.size, 2)
       else [])
    let live := q.cur :: (q.fetched.filterMap fun x => match x.2 with | .good d => some d | .failed _ => none) ++ (s.sl w).chain.map (·.1)
    [entry 0 3, entry 1 3] ++ data q.hold0 ++ data q.land1 ++ live.flatMap fun d => entry (entryOf (dShelf d)) 1 :: data d

/-- The reason a write of `n` bytes at `a` is dropped under R111; none when it touches no active segment of the pin. -/
def State.activeReason (s : State) (w a n : Nat) : Option Nat :=
  ((s.activeRanges w).find? fun r => overlap (a, a + n) (r.1, r.2.1)).map (·.2.2)

/-- A write touches a region of the fail area that capture or the window ring guards (R209, R265). -/
def State.guarded (s : State) (w a n : Nat) : Bool :=
  let cap := failArea w
  let log := s.acqBase w
  (!(s.cp w).flushed && overlap (a, a + n) (cap, log)) || ((s.cw w).open_ && overlap (a, a + n) (log, cap + 0x4000000))

/-- What a BAR 2 write does at the pin it touches: whether it is dropped, and what is reported (R111, R209, R265). -/
def State.pinDrop (s : State) (w a n : Nat) : Bool × State :=
  let p := match s.activeReason w a n with
    | some r => (true, (s.modPl w fun x => { x with dropAddr := a, dropReason := r, dropCount := satInc 65535 x.dropCount }).raiseCh w 1 3 0)
    | none => (false, s)
  if s.guarded w a n then
    (true, (p.2.modCp w fun x => { x with dropAddr := a, dropCount := satInc 65535 x.dropCount }).raiseCh w 6 6 0)
  else p

/-- Committed slices of the streaming ring follow what the host writes over them (R61, R124). -/
def State.refreshRing (s : State) (w : Nat) : State :=
  let r := s.ringRange w
  s.modSl w fun x => { x with ring := x.ring.map fun y =>
    let bs := (List.range y.size).map fun i => Memory.read s.stackMem (vecArea w + r.1 + (y.at_ - r.1 + i) % (r.2 - r.1))
    { y with slice := { y.slice with codes := BitVec.ofNat 64 (ofBytes (bs.take 8)), lane := BitVec.ofNat 32 (ofBytes (bs.drop 8)) } } }

/-- Pins that an access touches: those of its first and last byte. -/
def pinsTouched (a n : Nat) : List Nat := ([(regionOf a).pin, (regionOf (a + n - 1)).pin].filterMap id).eraseDups

/-- A region that BAR 2 may not write (R267). -/
def noWrite (r : Region) : Bool := r = .readOnly || r = .reserved

/-- Words of a write of `n` bytes at `a` that are made as a read-modify-write, with what the read of each finds: the first when the write starts
inside it, the last when it ends inside another (R271). -/
def rmwReads (a n : Nat) (ecc : PartReads) : List (Nat × Ecc) :=
  let head := if a % 8 ≠ 0 then [(a / 8 * 8, ecc.first)] else []
  let same := decide (a % 8 ≠ 0) && decide ((a + n) / 8 = a / 8)
  let tail := if (a + n) % 8 ≠ 0 && !same then [((a + n) / 8 * 8, ecc.last)] else []
  head ++ tail

/-- Some word of a read-modify-write cannot be corrected: the write is dropped (R271). -/
def rmwBad (l : List (Nat × Ecc)) : Bool := l.any fun x => x.2 = .bad

/-- The read of a read-modify-write is reported: CORRECTED, or RMW_DROPPED. -/
def rmwKind (e : Ecc) : Nat := match e with | .clean => 0 | .corrected => 1 | .bad => 3
def State.rmwStack (s : State) (l : List (Nat × Ecc)) : State :=
  s.each (l.filter fun x => x.2 ≠ .clean) fun s x => s.eccStack x.1 (rmwKind x.2) 5
def State.rmwBank (s : State) (l : List (Nat × Ecc)) : State :=
  s.each (l.filter fun x => x.2 ≠ .clean) fun s x => s.eccBank x.1 (rmwKind x.2) 5

/-- A BAR 2 write: dropped before a stack that is not ACTIVE, where the region is closed or a granule is tagged, at active segments and
guarded regions; a partial word that cannot be corrected drops it; else it lands (R77, R111, R209, R265, R267, R271, R340, R388). `base` is the
base of the window it came in through. DESIGN CHOICE (log 143): a write lands whole at one instant; R84 lets a fetch see a mixture. -/
def State.bar2Store (s : State) (base off : Nat) (data : List Byte) (ecc : PartReads) : State :=
  let n := data.length
  let a := base + off
  if !s.stacksOn a n then s.stackMiss
  else
    let shut := noWrite (regionOf a) || noWrite (regionOf (a + n - 1)) || s.tagged a || s.tagged (a + n - 1)
    let s1 := if shut then s.raiseDev 8 3 3 0 else s
    let p := (pinsTouched a n).foldl (fun p w => let q := p.2.pinDrop w a n; (p.1 || q.1, q.2)) (shut, s1)
    if p.1 then p.2
    else
      let l := rmwReads a n ecc
      if rmwBad l then s.rmwStack l
      else ((s.setStack (Memory.store s.stackMem a data)).each (pinsTouched a n) fun s w => s.refreshRing w).rmwStack l

/-- A BAR 2 write arrives: it goes through the window as it stands now, however long it is held (R340, R341). -/
def State.bar2Arrive (s : State) (off : Nat) (data : List Byte) (ecc : PartReads) : State :=
  let base := s.bar2Addr 0
  if !s.inBar2 off data.length then s
  else s.hostHeldWrite bar2Stream (.bar2 base off data ecc) fun s => s.bar2Store base off data ecc

/-! BAR 4. -/

/-- Window whose holding area holds an offset of banks 12 and 13 (R274). -/
def holdOwner (o : Nat) : Option Nat :=
  let i := o % 0x200000 / 0x4000
  if i < 68 then some ((o / 0x200000 - 12) * 68 + i) else none

/-- BAR 4 reads zeros at an offset, whatever the bank holds (R275). -/
def State.bar4Hidden (s : State) (o : Nat) : Bool :=
  let b := o / 0x200000
  b < 8 || b = 11 || b = 14 || (b = 15 && decide (o % 0x200000 < 0x800)) ||
    ((b = 12 || b = 13) && (match holdOwner o with | some w => Tab.get false s.mem.hidden w | none => false))

/-- A byte that BAR 4 reads (R275, R276). -/
def State.bar4Byte (s : State) (o : Nat) : Byte :=
  if s.bar4Hidden o || !s.bankOn (o / 0x200000) then 0 else Memory.read s.wsMem o

/-- A collision with the host at word `o` is recorded with HOST_COLLIDE; the master whose access began later receives BUSY (R278 to R280). -/
def State.collide (s : State) (o : Nat) (wr lost : Bool) (m busy : Nat) : State :=
  (s.modMem fun x => { x with
    collide := BitVec.ofNat 64 (pack [(0, 25, o), (25, 1, b2n wr), (26, 1, b2n lost), (27, 3, m),
      (48, 16, satInc 65535 (bits x.collide.toNat 48 16))])
    conflict := let k := o / 0x200000 * 16 + 2 * busy + 1
                Tab.set 0 x.conflict k (satInc (2 ^ 32 - 1) (Tab.get 0 x.conflict k)) }).raiseDev 9 2 2 0

/-- A master writes words of a bank through port A (R274, R277): HVS the staging banks, FLT the event log, MCH any bank. -/
def portWriter (m b : Nat) : Bool := m = 3 || (m = 2 && (b = 8 || b = 9)) || (m = 4 && b = 10)

/-- Offset of the word of a host access at `o` that a concurrent access meets. -/
def meetAt (m : Meet) (o : Nat) : Nat := o / 8 * 8 + 8 * m.word

/-- The concurrent access that a host read meets: a write through port A in bank 8, 9, 10, 12 or 13 (R279). -/
def readMeets (b o n : Nat) (other : Option Meet) : Option Meet :=
  other.filter fun m => m.data.isSome && portWriter m.other.toNat b && decide (8 ≤ b) && decide (b ≤ 13) && decide (meetAt m o < o + n)

/-- A BAR 4 read; the word it collides with, and no other, reads undefined (R272, R275, R276, R278, R279, R382). -/
def State.bar4Load (s : State) (o n : Nat) (ecc : Ecc) (other : Option Meet) : State :=
  let b := o / 0x200000
  if n = 0 || 0x2000000 < o + n then s
  else if s.dev.bringup ≠ 5 then s.emit (.data (List.replicate n 0) false)
  else
    let s := (s.touchBank b).touchBank ((o + n - 1) / 0x200000)
    if !s.bankOn b || s.bar4Hidden o then s.emit (.data ((List.range n).map fun i => s.bar4Byte (o + i)) false)
    else match readMeets b o n other with
      | some m =>
        let x := meetAt m o
        let byte := fun (i : Nat) => if (o + i) / 8 = x / 8 then Config.collideByte s.freeN i else s.bar4Byte (o + i)
        (s.collide x false true m.other.toNat (if m.later then 5 else m.other.toNat)).draw.2.emit (.data ((List.range n).map byte) false)
      | none => (s.eccBankSeen ecc (o / 8 * 8) 5).emit (.data ((List.range n).map fun i => s.bar4Byte (o + i)) (ecc = .bad))

/-- A host write that has landed meets MCH in the scratch (R278): one that reads leaves it; one that writes other data has its word stored in
place of the host's. -/
def State.writeMeets (s : State) (o n : Nat) (other : Option Meet) : State :=
  match other.filter fun m => decide (m.other = 3) && decide (meetAt m o < o + n) with
  | none => s
  | some m =>
    let x := meetAt m o
    match m.data with
    | none => s.collide x true false 3 (if m.later then 5 else 3)
    | some d =>
      let same := decide (Memory.load s.wsMem x 8 = bytesOf d.toNat 8)
      (s.setWs (Memory.store s.wsMem x (bytesOf d.toNat 8))).collide x true (!same) 3 5

/-- A BAR 4 write lands in the scratch of bank 15, or is dropped; a partial word that cannot be corrected drops it (R271, R275, R276, R278). -/
def State.bar4Store (s : State) (o : Nat) (data : List Byte) (found : PortReads) : State :=
  let n := data.length
  let b := o / 0x200000
  if n = 0 || 0x2000000 < o + n then s
  else
    let s := if s.bankOn b then s else s.touchBank b
    if o < bankBase 15 + 0x800 then s.raiseDev 9 6 6 0
    else if !s.bankOn 15 then s
    else
      let l := rmwReads o n found.part
      if rmwBad l then s.rmwBank l else ((s.setWs (Memory.store s.wsMem o data)).rmwBank l).writeMeets o n found.meet

/-! Commands and events. -/

/-- MEM.SCRUB_CFG is written: PERIOD below 4 refuses it whole (R273). -/
def State.writeScrubCfg (s : State) (v : Nat) : State :=
  if bits v 16 16 < 4 then s else s.setReg (pageAddr 8 0x040) (v % 2 + bits v 16 16 * 65536)

def execScrubStep (dt : Nat) (target : BitVec 5) (ecc : Ecc) (_written : Bool) (s : State) : Host.Outcome State Fault Refusal :=
  .next ((s.advance dt).scrub target.toNat ecc)
def execBankOn (dt : Nat) (b : BitVec 4) (s : State) : Host.Outcome State Fault Refusal :=
  .next ((s.advance dt).hostWrite 9 (.bankOn dt b) fun s => s.bankCmd b.toNat 0)
def execBankRetention (dt : Nat) (b : BitVec 4) (s : State) : Host.Outcome State Fault Refusal :=
  .next ((s.advance dt).hostWrite 9 (.bankRetention dt b) fun s => s.bankCmd b.toNat 1)
def execBankOff (dt : Nat) (b : BitVec 4) (s : State) : Host.Outcome State Fault Refusal :=
  .next ((s.advance dt).hostWrite 9 (.bankOff dt b) fun s => s.bankCmd b.toNat 2)
def execBankChangeDone (dt : Nat) (b : BitVec 4) (s : State) : Host.Outcome State Fault Refusal := .next ((s.advance dt).bankDone b.toNat)
def execMarchStart (dt : Nat) (s : State) : Host.Outcome State Fault Refusal :=
  .next ((s.advance dt).hostWrite 10 (.marchStart dt) fun s => s.marchStartCmd)
def execMarchAbort (dt : Nat) (s : State) : Host.Outcome State Fault Refusal :=
  .next ((s.advance dt).hostWrite 10 (.marchAbort dt) fun s => s.marchAbortCmd)
def execMarchCopyInDone (dt : Nat) (row : RowReads) (s : State) : Host.Outcome State Fault Refusal := .next ((s.advance dt).copiedIn row)
def execMarchRowTestDone (dt : Nat) (stk : Bool) (failCol : Option Nat) (s : State) : Host.Outcome State Fault Refusal :=
  .next ((s.advance dt).rowTested stk failCol)
def execMarchCopyBackDone (dt : Nat) (row : RowReads) (s : State) : Host.Outcome State Fault Refusal := .next ((s.advance dt).copiedBack row)
def execDestructiveMarchDone (dt : Nat) (fails : List (Nat × Nat × Nat)) (s : State) : Host.Outcome State Fault Refusal :=
  .next ((s.advance dt).destructiveDone fails)
def execRepairCmd (dt : Nat) (b : BitVec 4) (col : BitVec 14) (s : State) : Host.Outcome State Fault Refusal :=
  .next ((s.advance dt).hostWrite 10 (.repairCmd dt b col) fun s => s.repairStart b.toNat col.toNat)
def execRepairSwitch (dt : Nat) (s : State) : Host.Outcome State Fault Refusal := .next (s.advance dt).repairDone
def execBar2Read (dt : Nat) (off : BitVec 36) (len : Nat) (ecc : Ecc) (s : State) : Host.Outcome State Fault Refusal :=
  .next ((s.advance dt).bar2Load off.toNat len ecc)
def execBar2Write (dt : Nat) (off : BitVec 36) (data : List Byte) (ecc : PartReads) (s : State) :
    Host.Outcome State Fault Refusal :=
  .next ((s.advance dt).bar2Arrive off.toNat data ecc)
def execBar4Read (dt : Nat) (off : BitVec 25) (len : Nat) (ecc : Ecc) (collide : Option Meet) (s : State) :
    Host.Outcome State Fault Refusal := .next ((s.advance dt).bar4Load off.toNat len ecc collide)
def execBar4Write (dt : Nat) (off : BitVec 25) (data : List Byte) (found : PortReads) (s : State) :
    Host.Outcome State Fault Refusal :=
  .next ((s.advance dt).hostWrite bar4Stream (.bar4Write dt off data found) fun s => s.bar4Store off.toNat data found)

end Sys2Proof.Machine
end

