-- ==== Sys2Proof/Machine/Security.lean ====
section
/-!
DEFINITION. Sys2Proof/Machine/Security.lean: life cycle (R311 to R315), wipes and tamper inputs (R316 to R320), key slots (R321, R322),
the secure store (R323), secure erase (R325): the SEC page.
-/

namespace Sys2Proof.Machine

/-- BAR 4 offset of a key slot (R320, "Key slots"). -/
def keyAddr (slot : Nat) : Nat := bankBase 11 + 0x40000 + 32 * slot

/-- A SEC bit that latches for the IRQ page alone: KEY_REFUSED 6, ERASE_DONE 7 (R343). -/
def State.secSignal (s : State) (b : Nat) : State := (s.latch 11 b).signal 0x054

/-! Wipes (R316). -/

/-- A wipe starts: every key slot is zero, a key load in progress is overtaken, and a sealed frame that the intake engine has reached breaks its
stream (R319). -/
def State.startWipe (s : State) : State :=
  let s1 := (s.setWs (Memory.zero s.wsMem (keyAddr 0) (keyAddr 64))).modSec fun x => { x with
    keyMap := 0, wiping := true, keyOp := x.keyOp.map fun (k : Nat × Nat) => if k.1 = 3 then k else (0, k.2) }
  s1.each (List.range 128) fun s w => s.parse w {}

/-- A wipe ends: the secure store and the staging words are zero, and WIPES counts it. -/
def State.endWipe (s : State) : State :=
  if !s.sec.wiping then s
  else
    (s.setWs (Memory.zero s.wsMem (bankBase 11) (keyAddr 0))).modSec fun x => { x with
      wiping := false, staged := 0, kekWords := 0, keyWords := 0, wipes := satInc 65535 x.wipes }

/-- DETAIL.VALUE of a tamper source: bit 0 is UNPOWERED (R318); the rest the manual does not lay out (log entry 6). -/
def tamperValue (src t : Nat) (unpowered : Bool) : BitVec 28 := putBit (Config.detailValue src 0 t) 0 unpowered

/-- A tamper input is detected: it is stamped, a wipe starts, and ACTIVE shows a condition that persists (R316, R317, R320). Inputs: 0 mesh,
1 voltage, 2 clock, 3 VBAT. Voltage and clock are watched while VDD_AON is within its recommended conditions only. While POR_N is low the mesh
alone is watched, and the keeper's VBAT domain holds its detection (R317, R318). -/
def State.tamper (s : State) (i : Nat) : State :=
  let src := devSrc 11 i
  if s.dev.porLow then (if i = 0 then s.modKeep fun k => { k with unpowered := putBit k.unpowered 0 true } else s)
  else if (i = 1 || i = 2) && s.keep.railBits.getLsbD 11 then s else
  let s1 := s.raiseAt src 0 2 nullShelf (tamperValue src s.t false) s.t
  (s1.modSec fun x => { x with
    tamperT := gtOf s.t, active := if i = 1 then x.active else putBit x.active i true }).startWipe

/-! Secure erase (R325). -/

/-- Tagged granules of a pin, or of every pin, in the stacks that can be written: a stack that has not trained keeps its tags. -/
def State.eraseSet (s : State) (pin : Option Nat) : List Nat :=
  (s.mem.tags.map (·.1)).filter fun k => Tab.get false s.mem.tags k && s.stackOn (k / 6144 / 64) &&
    (match pin with | some p => decide (k / 6144 = p) | none => true)

/-- Tagged granules are zeroed and their tags cleared. -/
def State.eraseGranules (s : State) (pin : Option Nat) : State :=
  let l := s.eraseSet pin
  let s1 := s.each l fun s k =>
    let a := vecArea (k / 6144) + k % 6144 * 65536
    (s.setStack (Memory.zero s.stackMem a (a + 65536))).modMem fun m => { m with tags := Tab.set false m.tags k false }
  s1.modSec fun x => { x with granules := l.length }

/-- SEC.ERASE_STAT takes a finished erase or a refusal. -/
def State.erasePost (s : State) (outcome reason : Nat) : State :=
  (s.modSec fun x => { x with eraseRes := { x.eraseRes.done outcome reason with valid := x.erase.isNone } }).bumpSeq 11

/-- The stacks that hold the vector areas an erase covers serve, or have not trained and never will: the erase does not wait for those (R325,
R388). DESIGN CHOICE (log 109): it leaves their granules as they are. -/
def State.eraseServed (s : State) (pin : Option Nat) : Bool :=
  let serves := fun (st : Nat) => s.stackOn st || s.stkState st = 3
  match pin with
  | some p => serves (p / 64)
  | none => serves 0 && serves 1

/-- An erase starts (R325). -/
def State.eraseBegin (s : State) (pin : Option Nat) : State :=
  s.modSec fun x => { x with erase := some pin, eraseRes := x.eraseRes.busy }

/-- SEC.ERASE_CMD with GO = 1 (R325). -/
def State.eraseStart (s : State) (pin : Option Nat) : State :=
  let wins := match pin with | some p => [p] | none => List.range 128
  if wins.any fun w => s.armedRun w then s.erasePost 2 1
  else if s.sec.erase.isSome || s.sec.trans.isSome then s.erasePost 2 2
  else s.eraseBegin pin

/-- The erase ends, once the stacks it needs serve, with ERASE_DONE (R325). -/
def State.eraseEnd (s : State) : State :=
  match s.sec.erase with
  | some pin =>
    if s.eraseServed pin then
      (((s.eraseGranules pin).modSec fun x => { x with erase := none }).erasePost 1 0).secSignal 7
    else s
  | none => s

/-! Life cycle. -/

/-- The transitions that exist (R312). -/
def lcLegal (frm dest : Nat) : Bool :=
  (frm = 0 && dest = 1) || (frm = 1 && dest = 2) || (frm = 2 && dest = 3) || (frm ≤ 3 && dest = 4)

/-- Why a life-cycle request is refused, in the order of R313: BUSY 1, CONFIRM 3, ILLEGAL 2, WINDOWS 4, KEK_NOT_STAGED 5, BUDGET 6; 0
nothing. -/
def State.lcFault (s : State) (target confirm : Nat) : Nat :=
  if s.sec.trans.isSome then 1
  else if confirm ≠ 0x7128 then 3
  else if !lcLegal s.sec.lc target then 2
  else if (List.range 136).any fun w => s.mode w = .ready || s.armedRun w then 4
  else if target = 1 && s.sec.staged ≠ 0xFF && s.keep.kek.isNone then 5
  else if s.budgetSpent 2 0 then 6
  else 0

/-- SEC.LC_RESULT takes a finished request. -/
def State.lcPost (s : State) (outcome reason : Nat) : State :=
  (s.modSec fun x => { x with res := { x.res.done outcome reason with valid := x.trans.isNone } }).bumpSeq 11

/-- SEC.LC_CMD with GO = 1: refused with LC_REFUSED, or a transition that programs the staged KEK if it must, and starts its wipe and the erase of
RETURNED and SCRAPPED (R313, R314, R325). DESIGN CHOICE (log 108): OTP bits that hold a destroyed KEK take no new one, and the transition goes
on without an owner KEK. -/
def State.lcRequest (s : State) (target confirm : Nat) : State :=
  let f := s.lcFault target confirm
  if f ≠ 0 then
    let s1 := if f = 6 then (s.rwlPost 2 2 1).raiseDev 12 1 0 0 else s
    (s1.lcPost 2 f).raiseDev 11 5 0 0
  else
    let s1 := if target = 1 && s.keep.kek.isNone && !s.keep.kekSpent then s.modKeep fun k => { k with kek := some s.sec.kekWords } else s
    let s2 := ((s1.modSec fun x => { x with trans := some target, res := x.res.busy }).modKeep fun k => { k with rwl := k.rwl.busy }).startWipe
    if 3 ≤ target then s2.eraseBegin none else s2

/-- The owner KEK is destroyed: its OTP bits are all 1 from then on, and take no other key (R312). -/
def State.destroyKek (s : State) : State :=
  s.modKeep fun k => { k with kek := none, kekSpent := k.kekSpent || k.kek.isSome }

/-- Every key slot is empty (R315). -/
def State.emptySlots (s : State) : State := (s.setWs (Memory.zero s.wsMem (keyAddr 0) (keyAddr 64))).modSec fun x => { x with keyMap := 0 }

/-- A transition ends: wipe, erase, KEK, Ledger entry, new state; a failed append leaves the state (R314). Its entry waits for the appends that
came before it (R331), and its erase for the stacks. -/
def State.lcDone (s : State) (appendOk : Bool) : State :=
  match s.sec.trans with
  | none => s
  | some target =>
    if (3 ≤ target && !s.eraseServed none) || !s.keep.queue.isEmpty then s
    else
      let s1 := s.endWipe
      let s2 := if 3 ≤ target then s1.eraseEnd.destroyKek.emptySlots else s1
      let p := s2.program 2 target (s.sec.lc + target * 256) 0 appendOk
      let s3 := p.2.modSec fun x => { x with trans := none }
      if p.1 then (((s3.modSec fun x => { x with lc := target }).lcPost 1 0).rwlPost 2 1 0).raiseDev 11 4 0 0
      else (s3.lcPost 3 7).rwlPost 2 3 2

/-! Keys (R321, R322). -/

/-- Why a key command is refused: BAD_OP 7, BUSY 6, LIFE_CYCLE 1, TAMPER_ACTIVE 2, WIPING 3, IN_USE 5; 0 nothing. OP: 1 LOAD_WRAPPED,
2 LOAD_PLAIN, 3 CLEAR. A part on its way to RETURNED or SCRAPPED takes no more loads (R315; DEDUCED, log 150). -/
def State.keyFault (s : State) (op slot : Nat) : Nat :=
  if op = 0 then 7
  else if s.sec.keyOp.isSome then 6
  else if (op = 2 && s.sec.lc ≠ 0) || (op = 1 && s.sec.lc ≠ 1 && s.sec.lc ≠ 2) then 1
  else if op ≠ 3 && (match s.sec.trans with | some t => decide (3 ≤ t) | none => false) then 1
  else if op ≠ 3 && s.sec.active ≠ 0 then 2
  else if op ≠ 3 && s.sec.wiping then 3
  else if (List.range 136).any fun w => s.armedRun w && (s.sq w).keys.contains (slot + 1) then 5
  else 0

/-- SEC.KEY_RESULT takes a finished command; the staging words are cleared, and a refusal latches KEY_REFUSED. -/
def State.keyPost (s : State) (slot outcome reason : Nat) : State :=
  let s1 := (s.modSec fun x => { x with
    keyRes := { x.keyRes.done outcome reason with valid := x.keyOp.isNone }, keySlot := slot, keyWords := 0 }).bumpSeq 11
  if outcome = 2 then s1.secSignal 6 else s1

/-- SEC.KEY_CMD with GO = 1. -/
def State.keyCmd (s : State) (op slot : Nat) : State :=
  let f := s.keyFault op slot
  if f ≠ 0 then s.keyPost slot 2 f
  else s.modSec fun x => { x with keyOp := some (op, slot), keyIn := x.keyWords, keyRes := x.keyRes.busy }

/-- A key slot takes a key, or is emptied. -/
def State.putKey (s : State) (slot : Nat) (key : Option (BitVec 256)) : State :=
  (s.setWs (Memory.store s.wsMem (keyAddr slot) (bytesOf (key.getD 0).toNat 32))).modSec fun x => { x with
    keyMap := putBit x.keyMap slot key.isSome }

/-- The key command ends (R321, R322). -/
def State.keyEnd (s : State) : State :=
  match s.sec.keyOp with
  | none => s
  | some (op, slot) =>
    let s1 := s.modSec fun x => { x with keyOp := none, keyIn := 0 }
    match op with
    | 0 => s1.keyPost slot 2 3
    | 1 => match s.keep.kek.bind fun k => unwrapKey k s.sec.keyIn with
      | none => s1.keyPost slot 2 4
      | some key => (s1.putKey slot (some key)).keyPost slot 1 0
    | 2 => (s1.putKey slot (some (BitVec.ofNat 256 s.sec.keyIn.toNat))).keyPost slot 1 0
    | _ => (s1.putKey slot none).keyPost slot 1 0

/-! The secure store and the staging words. -/

/-- A write of SEC.STORE_DATA: dropped where the life cycle, a tamper input or a wipe forbids it (R315, R316, R320, R323). -/
def State.storeWord (s : State) (v : Word) : State :=
  if 2 < s.sec.lc || s.sec.active ≠ 0 || s.sec.wiping then s
  else
    let r := s.dreg 11 0x0E0
    let a := bits r 0 15
    let s1 := s.setWs (Memory.store s.wsMem (bankBase 11 + 8 * a) (bytesOf v.toNat 8))
    if bit r 16 then s1.setReg (pageAddr 11 0x0E0) ((a + 1) % 32768 + 65536) else s1

/-- What a read of SEC.STORE_DATA returns: the word at STORE_ADDR.ADDR; zero where the life cycle or a tamper input forbids it (R315, R320, R323).
DESIGN CHOICE (log 110): zero during a wipe too. -/
def State.storeRead (s : State) : Nat :=
  if 2 < s.sec.lc || s.sec.active ≠ 0 || s.sec.wiping then 0
  else Memory.num s.wsMem (bankBase 11 + 8 * bits (s.dreg 11 0x0E0) 0 15) 8

/-- A SEC.KEK word is written (R312). -/
def State.writeKek (s : State) (w v : Nat) : State :=
  s.modSec fun x => { x with
    kekWords := BitVec.ofNat 256 (x.kekWords.toNat - bits x.kekWords.toNat (32 * w) 32 * 2 ^ (32 * w) + v % 2 ^ 32 * 2 ^ (32 * w))
    staged := putBit x.staged w true }

/-- A SEC.KEY_DATA word is written (R321). -/
def State.writeKeyData (s : State) (w v : Nat) : State :=
  s.modSec fun x => { x with
    keyWords := BitVec.ofNat 320 (x.keyWords.toNat - bits x.keyWords.toNat (32 * w) 32 * 2 ^ (32 * w) + v % 2 ^ 32 * 2 ^ (32 * w)) }

/-! Commands and events. -/

def execLcCmd (dt : Nat) (target : BitVec 3) (confirm : BitVec 16) (s : State) : Host.Outcome State Fault Refusal :=
  .next ((s.advance dt).hostWrite 11 (.lcCmd dt target confirm) fun s => s.lcRequest target.toNat confirm.toNat)
def execLcTransitionDone (dt : Nat) (appendOk : Bool) (s : State) : Host.Outcome State Fault Refusal := .next ((s.advance dt).lcDone appendOk)
def execTamperMesh (dt : Nat) (s : State) : Host.Outcome State Fault Refusal := .next ((s.advance dt).tamper 0)
def execTamperVoltage (dt : Nat) (s : State) : Host.Outcome State Fault Refusal := .next ((s.advance dt).tamper 1)
def execTamperClock (dt : Nat) (s : State) : Host.Outcome State Fault Refusal := .next ((s.advance dt).tamper 2)
def execVbatLoss (dt : Nat) (s : State) : Host.Outcome State Fault Refusal := .next ((s.advance dt).tamper 3)
def execTamperCleared (dt : Nat) (input : BitVec 2) (s : State) : Host.Outcome State Fault Refusal :=
  .next ((s.advance dt).modSec fun x => { x with active := putBit x.active input.toNat false })
def execWipeDone (dt : Nat) (s : State) : Host.Outcome State Fault Refusal := .next (s.advance dt).endWipe
def execLoadPlain (dt : Nat) (slot : BitVec 6) (s : State) : Host.Outcome State Fault Refusal :=
  .next ((s.advance dt).hostWrite 11 (.loadPlain dt slot) fun s => s.keyCmd 2 slot.toNat)
def execLoadWrapped (dt : Nat) (slot : BitVec 6) (s : State) : Host.Outcome State Fault Refusal :=
  .next ((s.advance dt).hostWrite 11 (.loadWrapped dt slot) fun s => s.keyCmd 1 slot.toNat)
def execKeyClear (dt : Nat) (slot : BitVec 6) (s : State) : Host.Outcome State Fault Refusal :=
  .next ((s.advance dt).hostWrite 11 (.keyClear dt slot) fun s => s.keyCmd 3 slot.toNat)
def execKeyCmdDone (dt : Nat) (s : State) : Host.Outcome State Fault Refusal := .next (s.advance dt).keyEnd
def execStoreWrite (dt : Nat) (val : Word) (s : State) : Host.Outcome State Fault Refusal :=
  .next ((s.advance dt).hostWrite 11 (.storeWrite dt val) fun s => s.storeWord val)
def execEraseCmd (dt : Nat) (pin : BitVec 7) (all : Bool) (s : State) : Host.Outcome State Fault Refusal :=
  .next ((s.advance dt).hostWrite 11 (.eraseCmd dt pin all) fun s => s.eraseStart (if all then none else some pin.toNat))
def execEraseDone (dt : Nat) (s : State) : Host.Outcome State Fault Refusal := .next (s.advance dt).eraseEnd

end Sys2Proof.Machine
end

