-- ==== Sys2Proof/Machine/HostPort.lean ====
section
/-!
DEFINITION. Sys2Proof/Machine/HostPort.lean: the PCI Express port: link (R332, R333, R337), power states (R336), configuration space
(R336, R383), the BAR 2 window (R340), interrupt vectors (R343): the HST and IRQ pages.
-/

namespace Sys2Proof.Machine

/-! The link. -/

/-- Intake budget of a trained link in 0.01 GB/s (R135); none for a pair the part does not train at (R332). -/
def linkBudget (gen width : Nat) : Option Nat :=
  match gen, width with
  | 6, 16 => some 10000 | 6, 8 => some 5000 | 6, 4 => some 2500
  | 5, 16 => some 5000 | 5, 8 => some 2500 | 5, 4 => some 1200
  | 4, 16 => some 2500 | 4, 8 => some 1200 | 4, 4 => some 600
  | 3, 16 => some 1200 | 3, 8 => some 600 | 3, 4 => some 300
  | _, _ => none

/-- The link trains, with Flit mode at 6.0 only, unless its ends are clocked apart with spread spectrum: LINK_DEGRADED below 6.0 x16, and what waited for the link goes on (R332, R333, R335). -/
def State.linkTrain (s : State) (gen width : Nat) (flit : Bool) (clocking : Clocking) : State :=
  match linkBudget gen width with
  | none => s
  | some b =>
    if s.host.up || !s.host.perst || clocking = .spread || flit ≠ decide (gen = 6) then s
    else
      let s1 := s.modHost fun h => { h with
        up := true, gen := gen, width := width, flit := flit, l1 := false, budget := b }
      let s2 := (s1.endCond (devSrc 4 0) 0).flushVecs
      if gen = 6 && width = 16 then s2.endCond (devSrc 4 2) 0 else s2.raiseDev 4 2 0 2

/-- Configuration space returns to reset: BARs, Command, MSI-X control, sizes and tag modes are the host's to restore (R337). -/
def State.resetConfig (s : State) : State :=
  (s.modHost fun h => { h with
    cfgSpace := [], bme := false, msixEn := false, funcMask := false, mrrs := 512, tag10 := false, tag14 := false, l1 := false }).sinceAll

/-- The link goes down: LINK_DOWN, and configuration space is reset (R335, R337). -/
def State.linkLose (s : State) : State :=
  if !s.host.up then s
  else (((s.resetConfig.modHost fun h => { h with up := false, gen := 0, width := 0, flit := false }).endCond (devSrc 4 2) 0).raiseDev 4 0 0 3)

/-- The link retrains and stays up (R293). -/
def State.linkRetrained (s : State) : State :=
  if s.host.up then (s.modHost fun h => { h with retrains := satInc 65535 h.retrains }).raiseDev 4 1 0 1 else s

/-- The function enters D3hot and the link L1 (R336). -/
def State.d3 (s : State) : State := if s.host.up then s.modHost fun h => { h with l1 := true } else s
/-- The function returns to D0 and the link leaves L1; pending vectors go out (R335, R336). -/
def State.d0 (s : State) : State := if s.host.l1 then (s.modHost fun h => { h with l1 := false }).flushVecs else s

/-! Configuration space, by dword number: a request names a byte offset, whose dword it reads or writes. -/

/-- BAR 2 takes a new size of 2^k GiB; BASE is kept when it is a multiple of it, else zeroed. -/
def State.bar2Size (s : State) (k : Nat) : State :=
  if 6 < k then s
  else
    let s1 := s.modHost fun h => { h with bar2Size := k }
    if bits (s.dreg 4 0x050) 0 36 % 2 ^ (30 + k) = 0 then s1 else s1.setReg (pageAddr 4 0x050) 0

/-- The settings that a configuration write reaches: Bus Master Enable (Command, bit 2), MSI-X Enable and Function Mask, Maximum Read
Request Size, the Tag Requester Enable bits, the power state, the size of BAR 2 (R129, R333, R335, R336, R338, R343). -/
def State.configTakes (s : State) (reg : Nat) (v : BitVec 32) : State :=
  let s1 := s.modHost fun h => { h with cfgSpace := Tab.set 0 h.cfgSpace reg v }
  let s2 := if reg = 1 then s1.modHost fun h => { h with bme := v.getLsbD 2 } else s1
  let s3 := if reg = Config.msixCap / 4 then s2.modHost fun h => { h with msixEn := v.getLsbD 31, funcMask := v.getLsbD 30 } else s2
  let s4 := if reg = Config.devCtl / 4 then s3.modHost fun h => { h with mrrs := 128 * 2 ^ min 5 (bits v.toNat 12 3) } else s3
  let s5 := if reg = Config.tag10Ctl / 4 then s4.modHost fun h => { h with tag10 := v.getLsbD 12 } else s4
  let s6 := if reg = Config.tag14Ctl / 4 then s5.modHost fun h => { h with tag14 := v.getLsbD 2 } else s5
  let s7 := if reg = Config.pmCap / 4 then (if bits v.toNat 0 2 = 3 then s6.d3 else s6.d0) else s6
  let s8 := if reg = Config.rebarCap / 4 + 2 && 10 ≤ bits v.toNat 8 6 then s7.bar2Size (bits v.toNat 8 6 - 10) else s7
  s8.sinceAll.flushVecs

/-- A dword of a 64-bit memory BAR of `size` bytes: the address bits above the size, and in the low one that it is 64 bits wide and whether it is
prefetchable (R338). -/
def barDword (size : Nat) (pre hi : Bool) (w : BitVec 32) : BitVec 32 :=
  if hi then w &&& BitVec.ofNat 32 ((2 ^ 64 - size) / 2 ^ 32) else (w &&& BitVec.ofNat 32 (2 ^ 64 - size)) ||| (if pre then 12 else 4)

/-- A dword with the bits of `mask` taken from `v`. -/
def withBits (w mask v : BitVec 32) : BitVec 32 := (w &&& ~~~mask) ||| (v &&& mask)

/-- What the capabilities of R336 answer at a dword whose other bits are `w`: Power Management with D0 and D3hot alone; PCI Express, an endpoint with
Function Level Reset and no ASPM; Advanced Error Reporting; Resizable BAR for BAR 2, 1 GiB to 64 GiB; the serial number. None at another dword.
PRESUMED (log 107): their layouts are those of PCI Express. -/
def State.capRead (s : State) (reg : Nat) (w : BitVec 32) : Option (BitVec 32) :=
  if reg + 1 = Config.pmCap / 4 then some (withBits w 0x060700FF 0x00030001)
  else if reg + 2 = Config.devCtl / 4 then some (withBits w 0x00FF00FF 0x00020010)
  else if reg + 1 = Config.devCtl / 4 then some (withBits w 0x10000000 0x10000000)
  else if reg = Config.devCtl / 4 + 1 then some (withBits w 0x00000FFF 0x00000106)
  else if reg = Config.aerCap / 4 then some (withBits w 0x0000FFFF 0x00000001)
  else if reg = Config.rebarCap / 4 then some (withBits w 0x0000FFFF 0x00000015)
  else if reg = Config.rebarCap / 4 + 1 then some (withBits w 0xFFFFFFF0 0x001FC000)
  else if reg = Config.rebarCap / 4 + 2 then some (withBits w 0x00003FE7 (BitVec.ofNat 32 (0x22 + (10 + s.host.bar2Size) * 0x100)))
  else if reg = Config.dsnCap / 4 then some (withBits w 0x0000FFFF 0x00000003)
  else if reg = Config.dsnCap / 4 + 1 then some (Config.serial.setWidth 32)
  else if reg = Config.dsnCap / 4 + 2 then some (BitVec.ofNat 32 (Config.serial.toNat / 2 ^ 32))
  else none

/-- What configuration space answers at a dword (R336, R338): IDs, class code, the three BARs, the settings; the rest is not given. PRESUMED (log
107): the header's layout and the MSI-X capability's fields are those of PCI Express. -/
def State.configRead (s : State) (reg : Nat) : BitVec 32 :=
  let w := Tab.get 0 s.host.cfgSpace reg
  let open_ := Config.configDword reg w
  match reg with
  | 0 => 0x71281F6A
  | 1 => putBit (putBit (putBit open_ 1 (w.getLsbD 1)) 2 s.host.bme) 20 true
  | 2 => BitVec.ofNat 32 (0x11800000 + Config.stepping.toNat)
  | 4 => barDword 0x2000000 false false w
  | 5 => barDword 0x2000000 false true w
  | 6 => barDword (2 ^ (30 + s.host.bar2Size)) true false w
  | 7 => barDword (2 ^ (30 + s.host.bar2Size)) true true w
  | 8 => barDword 0x2000000 true false w
  | 9 => barDword 0x2000000 true true w
  | 11 => s.keep.subsys
  | _ =>
    if reg = Config.msixCap / 4 then
      putBit (putBit ((open_ &&& 0xFF00) ||| 0xFF0011) 31 s.host.msixEn) 30 s.host.funcMask
    else if reg = Config.pmCap / 4 then (open_ &&& 0xFFFFFFFC) ||| (if s.host.l1 then 3 else 0)
    else if reg = Config.devCtl / 4 then (open_ &&& 0xFFFF8FFF) ||| BitVec.ofNat 32 (Nat.log2 (s.host.mrrs / 128) * 0x1000)
    else (s.capRead reg open_).getD open_

/-- A configuration request: retry status until FUSES_LEDGER ends, then completed, by the keeper's responder until SERVICEABLE and by the port
from then on (R383). With the link down none arrives. -/
def State.config (s : State) (wr : Bool) (reg : Nat) (v : BitVec 32) : State :=
  if !s.host.up then s
  else if s.dev.bringup < 2 then s.emit (.config none)
  else
    let s1 := if wr then s.configTakes reg v else s
    s1.emit (.config (some (s1.configRead reg)))

/-! The BAR 2 window (R340). -/

/-- HST.BAR2_WIN is written: BASE must be a multiple of the BAR size. -/
def State.writeBar2Win (s : State) (v : Nat) : State :=
  let base := bits v 30 6 * 2 ^ 30
  if base % 2 ^ (30 + s.host.bar2Size) = 0 then (s.setReg (pageAddr 4 0x050) base).modHost fun h => { h with winRefused := false }
  else s.modHost fun h => { h with winRefused := true }

/-! Interrupt vectors (R343). -/

/-- The gap of a vector ends: one message carries the signals it held, unless it is masked or no request may be issued. -/
def State.gapEnd (s : State) (v : Nat) : State :=
  if Tab.get false s.host.msixGap v && !s.gapOpen v then
    (s.modHost fun h => { h with msixGap := Tab.set false h.msixGap v false }).signalVec v
  else s

/-- A vector has stayed pending and masked for 1 s: MSIX_MASKED_PEND. -/
def State.maskedPend (s : State) (v : Nat) : State :=
  match Tab.get none s.host.msixSince v with
  | some t =>
    if Tab.get false s.host.msixPend v && s.vecMasked v && decide (t + 1000000 * us ≤ s.now) then
      (s.modHost fun h => { h with msixSince := Tab.set none h.msixSince v none }).raiseDev 5 1 0 0
    else s
  | none => s

/-- IRQ.TRAP_ADDR is written: an unaligned address is refused (R344). -/
def State.writeTrapAddr (s : State) (v : Nat) : State :=
  if v % 16 ≠ 0 then s.modHost fun h => { h with addrRefused := true }
  else (s.setReg (pageAddr 5 0x040) v).modHost fun h => { h with addrRefused := false }

/-- A dword of the MSI-X table is written; clearing a vector's mask releases its pending message (R338, R343). -/
def State.writeMsix (s : State) (off : Nat) (v : BitVec 32) : State :=
  if off % 16 = 12 then
    if v.getLsbD 0 then (s.modHost fun h => { h with msixTab := Tab.set 1 h.msixTab off v }).sinceVec (off / 16)
    else (s.modHost fun h => { h with msixTab := Tab.set 1 h.msixTab off (v ||| 1) }).unmaskVec (off / 16)
  else s.modHost fun h => { h with msixTab := Tab.set 0 h.msixTab off v }

/-! Commands and events. -/

def execLinkUp (dt : Nat) (gen : BitVec 3) (width : BitVec 5) (flit : Bool) (clocking : Clocking) (s : State) :
    Host.Outcome State Fault Refusal := .next ((s.advance dt).linkTrain gen.toNat width.toNat flit clocking)
def execLinkDown (dt : Nat) (s : State) : Host.Outcome State Fault Refusal := .next (s.advance dt).linkLose
def execPcieReset (dt : Nat) (s : State) : Host.Outcome State Fault Refusal := .next (s.advance dt).resetConfig
def execLinkRetrain (dt : Nat) (s : State) : Host.Outcome State Fault Refusal := .next (s.advance dt).linkRetrained
def execAerCorr (dt : Nat) (s : State) : Host.Outcome State Fault Refusal := .next ((s.advance dt).raiseDev 4 3 0 1)
def execAerUncorr (dt : Nat) (s : State) : Host.Outcome State Fault Refusal := .next ((s.advance dt).raiseDev 4 4 0 2)
def execD3hotEntry (dt : Nat) (s : State) : Host.Outcome State Fault Refusal := .next (s.advance dt).d3
def execD0Entry (dt : Nat) (s : State) : Host.Outcome State Fault Refusal := .next (s.advance dt).d0
def execConfigRequest (dt : Nat) (write : Bool) (reg : BitVec 12) (val : BitVec 32) (s : State) : Host.Outcome State Fault Refusal :=
  .next ((s.advance dt).config write (reg.toNat / 4) val)
def execBar2Resize (dt : Nat) (log2gib : BitVec 3) (s : State) : Host.Outcome State Fault Refusal := .next ((s.advance dt).bar2Size log2gib.toNat)
def execBar2WinWrite (dt : Nat) (val : Word) (s : State) : Host.Outcome State Fault Refusal :=
  .next ((s.advance dt).hostWrite 4 (.bar2WinWrite dt val) fun s => s.writeBar2Win val.toNat)
def execMsixUnmask (dt : Nat) (vec : Byte) (s : State) : Host.Outcome State Fault Refusal :=
  .next ((s.advance dt).hostWrite 0x80 (.msixUnmask dt vec) fun s => s.unmaskVec vec.toNat)
def execMsixGapEnd (dt : Nat) (vec : Byte) (s : State) : Host.Outcome State Fault Refusal := .next ((s.advance dt).gapEnd vec.toNat)
def execMsixMaskedPend (dt : Nat) (vec : Byte) (s : State) : Host.Outcome State Fault Refusal := .next ((s.advance dt).maskedPend vec.toNat)

end Sys2Proof.Machine
end

