-- ==== Sys2Proof/Machine/Chassis.lean ====
section
/-!
DEFINITION. Sys2Proof/Machine/Chassis.lean: chassis triggers (R346, R398), the star pair (R347, R399), start and stop routers (R348,
R349), the Nywen link (R350 to R359): the SYN page.
-/

namespace Sys2Proof.Machine

/-! Trigger lines. -/

/-- DRIVE of a trigger line: 0 INPUT, 1 OPEN_DRAIN, 2 DRIVEN (R346). -/
def State.trigDrive (s : State) (line : Nat) : Nat := bits (s.dreg 3 (0x040 + 4 * line)) 0 2

/-- A pulse of the part asserts the line (R346). -/
def State.pulsing (s : State) (line : Nat) : Bool := s.syn.pulses.any fun p => decide (p.1 = line) && decide (s.t < p.2.2)

/-- The trigger balls work: VCC_PE lies inside its operating limits (R396). -/
def State.trigPowered (s : State) : Bool := !s.keep.peOut

/-- A DRIVEN line's ball reads opposite to the driven level (R346). -/
def State.contends (s : State) (line : Nat) : Bool :=
  decide (s.trigDrive line = 2) && s.trigPowered && (s.syn.trig.getLsbD line != s.pulsing line)

/-- SYN.TRIG_STAT.CONTENTION shows contention only while it persists (R346). -/
def State.easeContention (s : State) (line : Nat) : State :=
  if s.contends line then s else s.modSyn fun y => { y with contention := putBit y.contention line false }

/-- A DRIVEN line has read opposite to its drive for 50 ns: TRIG_CONTENTION (R346). -/
def State.contention (s : State) (line : Nat) : State :=
  if s.contends line then (s.modSyn fun y => { y with contention := putBit y.contention line true }).raiseDev 3 3 0 2 else s

/-- SYN.TRIG_CFG[n] is written: DRIVE = 3 refuses it whole. -/
def State.writeTrigCfg (s : State) (line v : Nat) : State :=
  if bits v 0 2 = 3 then s.modSyn fun y => { y with cfgRefused := true }
  else
    ((s.setReg (pageAddr 3 (0x040 + 4 * line)) (bits v 0 2 + bits v 8 16 * 256)).modSyn fun y => { y with cfgRefused := false }).easeContention line

/-- SYN.TRIG_CMD with GO = 1: a pulse of WIDTH timebase cycles, unless WIDTH is 0 or the line is an INPUT. Driver 136 is the host. -/
def State.hostPulse (s : State) (line width : Nat) : State :=
  if width = 0 || s.trigDrive line = 0 then s
  else s.modSyn fun y => { y with pulses := y.pulses ++ [(line, 136, s.t + 256 * width)] }

/-! Frames (R352). -/

def fSync (f : BitVec 80) : Nat := bits f.toNat 0 2
def fOrigin (f : BitVec 80) : Nat := bits f.toNat 2 2
def fHops (f : BitVec 80) : Nat := bits f.toNat 4 2
def fKind (f : BitVec 80) : Nat := bits f.toNat 6 3
def fReact (f : BitVec 80) : Nat := bits f.toNat 9 8
def fFlag (f : BitVec 80) : Nat := bits f.toNat 17 8
def fPayload (f : BitVec 80) : Nat := bits f.toNat 25 47
def fCrc (f : BitVec 80) : Nat := bits f.toNat 72 8

/-- CRC-8 of polynomial 0x07 over the first `n` bits, bit 0 first (R352). -/
def crc8 (v : Nat) : Nat → Nat → Nat → Nat
  | 0, _, c => c
  | n + 1, i, c =>
    let top := c / 128 % 2
    let c' := c * 2 % 256
    crc8 v n (i + 1) (if (top + bits v i 1) % 2 = 1 then c' ^^^ 0x07 else c')

/-- SYNC and CRC of a frame are good (R351, R352). -/
def frameOk (f : BitVec 80) : Bool := decide (fSync f = 2) && decide (crc8 f.toNat 72 0 0 = fCrc f)

/-- The frame as it is sent: with the sender's current REACT and FLAG, and the CRC (R352, R353). -/
def State.sealFrame (s : State) (f : BitVec 80) : BitVec 80 :=
  let body := pack [(0, 9, f.toNat), (9, 8, s.syn.lanes.toNat), (17, 8, s.syn.flags.toNat), (25, 47, fPayload f)]
  BitVec.ofNat 80 (pack [(0, 72, body), (72, 8, crc8 body 72 0 0)])

/-! Stops. -/

/-- A routed stop acts as a STOP with TAG 0x00 at the window, arriving at its stop GT `te` (R55, R349). -/
def State.routedStop (s : State) (w te : Nat) : State :=
  if s.modeHeld w then s.modeRefuse w 7 0 2 else (s.arriveFirst w).cmdStop w te 0

/-- Accepted stops that are due reach every window in STOP_MASK, in order (R349). -/
def State.deliverStops (s : State) : State :=
  let s := s.linkDue
  let due := s.syn.stops.filter fun t => decide (t ≤ s.t)
  let s1 := s.modSyn fun y => { y with stops := y.stops.filter fun t => decide (s.t < t) }
  s1.each due fun s te =>
    (s.modSyn fun y => { y with stopT := gtOf te }).each (s.maskPins 0x090) fun s w => s.routedStop w te

/-! Edges. -/

/-- An edge sets out to the routers and link jumps whose SRC is `src` and that select it, with the acceptance GT `g`: 1 TRIG with its line, 2
STAR_IN. EDGE is 0 for a rising edge at the ball (R347, R348, R349). DEDUCED (log 119): SRC, LINE, EDGE and SLOT are judged at the edge, NYW_SEND
and the link at the acceptance. -/
def State.edgeTo (s : State) (src line : Nat) (rising : Bool) (g : Nat) : State :=
  let takes := fun r => decide (bits r 0 2 = src) && (decide (src = 2) || decide (bits r 4 3 = line)) && (bit r 7 != rising)
  let to_ := fun (dest off : Nat) => if takes (s.dreg 3 off) then [(dest, bits (s.dreg 3 off) 8 2)] else []
  let dests := to_ 0 0x070 ++ to_ 1 0x074 ++ (List.range 4).flatMap fun j => to_ (2 + j) (0x160 + 4 * j)
  (s.modSyn fun y => { y with
    coming := dests.foldl (fun l d => insertComing { at_ := g, dest := d.1, slot := d.2 } l) y.coming }).linkDue

/-- An edge at a trigger ball: TRIG is asserted low. It reaches jump requests (R97), trigger engines (R247, R248), routers and link jumps
within 12,288 tq. A pulse of 2 ns to 8 ns may go unrecognised (R398), and an unpowered receiver sees none (R396). -/
def State.trigEdge (s : State) (line : Nat) (rising accepted : Bool) : State :=
  if !accepted || !s.trigPowered then s
  else
    let s1 := (s.modSyn fun y => { y with trig := putBit y.trig line (!rising) }).easeContention line
    let g := arrival 3 12288 s.t
    let s2 := s1.each (List.range 128) fun s w =>
      if !s.trigRouted w line then s
      else
        let r := s.wreg w 1 0x070
        let a := if bit r (4 * line + 3) && (bit r (4 * line + 2) != rising) then s.jumpRequest w (bits r (4 * line) 2) g else s
        a.engOccur w 0xA (line + (if rising then 0 else 8)) 0 s.t 12288
    s2.edgeTo 1 line rising g

/-- An edge on STAR_IN (R347, R399). -/
def State.starEdge (s : State) (rising : Bool) : State :=
  (s.modSyn fun y => { y with starIn := (y.starIn.1, rising) }).edgeTo 2 0 rising (arrival 3 12288 s.t)

/-- STAR_IN is selected by a router or a link jump (R347). -/
def State.starSelected (s : State) : Bool :=
  [0x070, 0x074, 0x160, 0x164, 0x168, 0x16C].any fun o => decide (bits (s.dreg 3 o) 0 2 = 2)

/-- STAR_IN has shown no valid level for 1 µs: STAR_LOSS while it is selected (R347). -/
def State.loseStar (s : State) : State :=
  let s1 := s.modSyn fun y => { y with starIn := (false, y.starIn.2) }
  if s.starSelected then s1.raiseDev 3 4 0 2 else s1

/-- A STAR_OUT pulse ends (R399). -/
def State.endStarOut (s : State) : State := s.modSyn fun y => { y with starOut := y.starOut.filter fun p => decide (s.t < p.2) }

/-! Lanes and flags (R354 to R356). -/

/-- A lane (kind 9) or flag (kind 10) has a value, sampled or received: a change, and the first value since the link was down, is delivered at
origin GT + 20,480 tq, or at once on a part that is not aligned (R354, R359). -/
def State.linkValue (s : State) (kind i : Nat) (v own : Bool) (at_ : Nat) : State :=
  let old := if kind = 9 then s.syn.lanes.getLsbD i else s.syn.flags.getLsbD i
  let seen := if kind = 9 then s.syn.lanesSeen.getLsbD i else s.syn.flagsSeen.getLsbD i
  if old = v && seen then s
  else s.modSyn fun y => { y with
    lanes := if kind = 9 then putBit y.lanes i v else y.lanes
    flags := if kind = 9 then y.flags else putBit y.flags i v
    lanesSeen := if kind = 9 then putBit y.lanesSeen i true else y.lanesSeen
    flagsSeen := if kind = 9 then y.flagsSeen else putBit y.flagsSeen i true
    items := insertItem { at_ := at_, own := own, kind := kind, idx := i, val := b2n v, org := at_ - 20480 } y.items }

/-- The owner's current value of a lane: export EXPORT of cluster CLU (R356). -/
def State.laneSource (s : State) (l : Nat) : Bool :=
  let r := s.dreg 3 (0x120 + 4 * l)
  (s.clu (bits r 4 3)).expo.getLsbD (bits r 7 3)

/-- The owner's current value of a link flag: HOSTVAL, or output flag ACQFLAG of pin PIN's engine (R356). -/
def State.flagSource (s : State) (f : Nat) : Bool :=
  let r := s.dreg 3 (0x140 + 4 * f)
  if bit r 2 then (s.en (bits r 4 7)).flags.getLsbD (bits r 12 2) else bit r 16

/-- Owner position of a lane or flag. -/
def State.linkOwner (s : State) (kind i : Nat) : Nat := bits (s.dreg 3 ((if kind = 9 then 0x120 else 0x140) + 4 * i)) 0 2

/-- The part samples the lanes and flags it owns at the start of a frame (R354, R356). -/
def State.sampleOwn (s : State) : State :=
  let at_ := if s.nywAligned then s.t + 20480 else s.t
  s.each (List.range 8) fun s i =>
    let s1 := if s.linkOwner 9 i = s.nywPos then s.linkValue 9 i (s.laneSource i) true at_ else s
    if s1.linkOwner 10 i = s1.nywPos then s1.linkValue 10 i (s1.flagSource i) true at_ else s1

/-- Hop delay of a receiver as measured at lock: from the start of a frame at its sender to its arrival. A free value from 3,200 tq, a frame's own
length, to 6,400 tq (log 132). -/
def hopDelay (rx : Nat) : Nat := 3200 + Config.rawDelay 5 rx % 3201

/-- From the start of a frame at one part to the start of the frame in which the next part passes its contents on: whole frames (R351). -/
def passDelay (rx : Nat) : Nat := (hopDelay rx + 3199) / 3200 * 3200

/-- Start, at its sender, of the frame that arrives now on `rx`: frames of an aligned part start at multiples of 3,200 tq (R351). DEDUCED (log 132):
the multiple nearest to the arrival less the hop delay. -/
def State.frameStarted (s : State) (rx : Nat) : Nat :=
  let u := s.t + 1600 - hopDelay rx
  u - gtOf u % 3200

/-- Hops that a value of position `o` has made when it arrives on `rx`. -/
def State.hopsOn (s : State) (rx o : Nat) : Nat := if rx = 0 then (s.hopsFrom o).1 else (s.hopsFrom o).2

/-- Delivery GT of a lane or flag of position `o` that arrives now on `rx`: on an aligned part 20,480 tq after the start of the frame at which its
owner sampled it, or at its arrival when that is over; else at its arrival (R354, R355). -/
def State.valueDue (s : State) (rx o : Nat) : Nat :=
  if s.nywAligned then max s.t (s.frameStarted rx - (s.hopsOn rx o - 1) * passDelay rx + 20480) else s.t

/-- A frame's REACT and FLAG fields are taken from the direction with fewer hops from each owner (R356). -/
def State.takeFields (s : State) (rx : Nat) (f : BitVec 80) : State :=
  s.each (List.range 8) fun s i =>
    let mine := fun kind => decide (s.linkOwner kind i ≠ s.nywPos) && decide (s.nearRx (s.linkOwner kind i) = rx)
    let s1 := if mine 9 then s.linkValue 9 i (bit (fReact f) i) false (s.valueDue rx (s.linkOwner 9 i)) else s
    if mine 10 then s1.linkValue 10 i (bit (fFlag f) i) false (s1.valueDue rx (s1.linkOwner 10 i)) else s1

/-! Sending. -/

/-- The first frame of a direction, and the rest (R353). -/
def takeFrame (tx : Nat) : List (Nat × BitVec 80) → Option (BitVec 80 × List (Nat × BitVec 80))
  | [] => none
  | x :: r => if x.1 = tx then some (x.2, r) else (takeFrame tx r).map fun p => (p.1, x :: p.2)

/-- The count of frames since the latest TIME pair moves: 62 asks for TIME_LO, 63 for TIME_HI (R353). -/
def State.countFrame (s : State) (tx n : Nat) : State :=
  s.modSyn fun y => { y with sinceTime := if tx = 0 then (n, y.sinceTime.2) else (y.sinceTime.1, n) }

/-- A frame may start on a transmitter: of an enabled link, a whole frame after the one before it, and on an aligned part where GT is a multiple
of 3,200 tq (R351, R397). -/
def State.slotDue (s : State) (tx : Nat) : Bool :=
  let last := if tx = 0 then s.syn.sentT.1 else s.syn.sentT.2
  s.nywEn && decide (s.dev.bringup = 5) && (last.all fun t => decide (t + 3200 ≤ s.t) || decide (s.t < t)) &&
    (!s.nywAligned || decide (gtOf s.t % 3200 = 0))

/-- A frame starts now on a transmitter (R351). -/
def State.markSlot (s : State) (tx : Nat) : State :=
  s.modSyn fun y => { y with sentT := if tx = 0 then (some s.t, y.sentT.2) else (y.sentT.1, some s.t) }

/-- The scrambler's history after the line word `prev`: its last 58 bits, the latest lowest (R351). -/
def lineHistory (prev : BitVec 80) : Nat := (List.range 58).foldl (fun n k => n + bits prev.toNat (79 - k) 1 * 2 ^ k) 0

/-- The `n` bits of a frame from bit `i` on, scrambled by x^58 + x^39 + 1 after the history `h` (R351). -/
def scrambleBits (v : Nat) : Nat → Nat → Nat → Nat
  | 0, _, _ => 0
  | n + 1, i, h =>
    let b := (bits v i 1 + bits h 38 1 + bits h 57 1) % 2
    b * 2 ^ i + scrambleBits v n (i + 1) ((h * 2 + b) % 2 ^ 58)

/-- A frame as it stands on the line after the line word `prev`: bits [79:2] scrambled, SYNC plain (R351). -/
def onLine (prev f : BitVec 80) : BitVec 80 := BitVec.ofNat 80 (bits f.toNat 0 2 + scrambleBits f.toNat 78 2 (lineHistory prev))

/-- A frame is sealed, scrambled and sent on a transmitter (R351, R353). -/
def State.sendFrame (s : State) (tx : Nat) (f : BitVec 80) : State :=
  let f := s.sealFrame f
  (s.modSyn fun y => { y with line := if tx = 0 then (onLine y.line.1 f, y.line.2) else (y.line.1, onLine y.line.2 f) }).emit (.frame tx f)

/-- A frame slot begins on a transmitter of an enabled link: a TIME pair when 62 frames have been sent since the latest, forwarded frames, own
event frames, else IDLE (R351, R353). DEDUCED (log 133): the pair goes before forwarded and own frames then, so that 64 frames hold one. -/
def State.frameSlot (s : State) (tx : Nat) : State :=
  let s := s.linkDue
  if !s.slotDue tx then s
  else
    let s1 := (s.markSlot tx).sampleOwn
    let n := if tx = 0 then s1.syn.sinceTime.1 else s1.syn.sinceTime.2
    let hops := (s1.sendHops tx).getD 0
    if n = 62 then (s1.countFrame tx 63).sendFrame tx (mkFrame s1.nywPos hops 1 (gtOf s1.t % 2 ^ 47))
    else if n = 63 then (s1.countFrame tx 0).sendFrame tx (mkFrame s1.nywPos hops 2 (gtOf s1.t / 2 ^ 47 + epochOf s1.t * 2 ^ 17))
    else match takeFrame tx s1.syn.fwd with
    | some (f, r) => ((s1.modSyn fun y => { y with fwd := r }).countFrame tx (n + 1)).sendFrame tx f
    | none => match takeFrame tx s1.syn.own with
      | some (f, r) => ((s1.modSyn fun y => { y with own := r }).countFrame tx (n + 1)).sendFrame tx f
      | none => (s1.countFrame tx (n + 1)).sendFrame tx (mkFrame s1.nywPos 0 0 0)

/-! Receiving. -/

/-- The full time nearest to `t` whose low `w` bits are `v` (R352). -/
def nearest (w v t : Nat) : Nat :=
  let d := (v + 2 ^ w - t % 2 ^ w) % 2 ^ w
  if d < 2 ^ (w - 1) then t + d else t + d - 2 ^ w

/-- A frame is discarded and counted, with NYWEN_CRC (R352). -/
def State.badFrame (s : State) : State := (s.modSyn fun y => { y with crcErr := satInc 65535 y.crcErr }).raiseDev 3 1 0 1

/-- A received frame waits to be forwarded in the same direction, with HOPS reduced by one (R350). -/
def State.forward (s : State) (rx : Nat) (f : BitVec 80) : State :=
  if fHops f = 0 || fKind f = 0 then s
  else s.modSyn fun y => { y with fwd := y.fwd ++ [(rx, mkFrame (fOrigin f) (fHops f - 1) (fKind f) (fPayload f))] }

/-- An event of the link waits for its delivery at `g` + 20,480 tq; one that comes later, or on a part that is not aligned, is delivered at its
arrival, and a late one is counted (R354). -/
def State.linkEvent (s : State) (kind idx val g : Nat) : State :=
  let due := g + 20480
  let late := s.nywAligned && decide (due < s.t)
  let at_ := if s.nywAligned && !late then due else s.t
  s.modSyn fun y => { y with
    late := if late then satInc 65535 y.late else y.late
    items := insertItem { at_ := at_, own := false, kind := kind, idx := idx, val := val, org := g } y.items }

/-- Position 0's time at a frame's start, received now on `rx`, is compared with GT, corrected for the hop delays measured at lock; with a whole TIME
pair, or after one, the deviation is known whole (R357). -/
def State.compareTime (s : State) (rx t0 : Nat) (pair : Bool) : State :=
  if s.nywPos = 0 then s
  else
    let d := (s.t : Int) - (t0 + (s.hopsOn rx 0 - 1) * passDelay rx + hopDelay rx : Nat)
    s.modSyn fun y => { y with dev := devOf d, devAll := if pair || y.devAll.isSome then some d else none }

/-- A receiver counts a frame, good or bad: consecutive good ones, and the latest 64 (R351). -/
def State.noteFrame (s : State) (rx : Nat) (ok : Bool) : State :=
  let run := fun n => if ok then n + 1 else 0
  let mark := fun (b : BitVec 64) => b <<< 1 ||| BitVec.ofNat 64 (b2n !ok)
  s.modSyn fun y => { y with
    good := if rx = 0 then (run y.good.1, y.good.2) else (y.good.1, run y.good.2)
    bad := if rx = 0 then (mark y.bad.1, y.bad.2) else (y.bad.1, mark y.bad.2) }

/-- A receiver has seen 64 good frames in a row (R351). -/
def State.seenGood (s : State) (rx : Nat) : Bool := decide (64 ≤ if rx = 0 then s.syn.good.1 else s.syn.good.2)

/-- Sixteen of the latest 64 frames of a receiver were bad (R351). -/
def State.seenBad (s : State) (rx : Nat) : Bool :=
  decide (16 ≤ ((List.range 64).filter fun i => (if rx = 0 then s.syn.bad.1 else s.syn.bad.2).getLsbD i).length)

/-- A frame arrives on a receiver of an enabled link and is counted; a locked receiver takes it (R350 to R352, R354, R356, R357). `f` is the frame
as the descrambler gives it. -/
def State.receive (s : State) (rx : Nat) (f : BitVec 80) : State :=
  let s := s.linkDue
  if !s.nywEn then s
  else
    let s := s.noteFrame rx (frameOk f)
    if !s.syn.lock.getLsbD rx then s
    else if !frameOk f || 6 ≤ fKind f then s.badFrame
    else
      let s1 := (s.takeFields rx f).forward rx f
      let p := fPayload f
      let g := nearest 40 (p % 2 ^ 40) s.t
      match fKind f with
      | 1 => if fOrigin f = 0 then (s1.modSyn fun y => { y with timeLo := some p }).compareTime rx (nearest 47 p s.t) false else s1
      | 2 => match s1.syn.timeLo with
        | some lo => if fOrigin f = 0 then
            s1.compareTime rx (nearest 80 (bits p 17 16 * 2 ^ 64 + bits p 0 17 * 2 ^ 47 + lo + 3200) s.t) true else s1
        | none => s1
      | 3 => s1.linkEvent 3 0 0 g
      | 4 => s1.linkEvent 4 0 0 g
      | 5 => s1.linkEvent 5 (bits p 40 2) (bits p 42 2) g
      | _ => s1

/-- The first waiting item of the kind and number of the `n`-th, and the others: the items of one lane, flag, router or channel are delivered in
order (R354). -/
def takeItem (l : List NywItem) (n : Nat) : Option (NywItem × List NywItem) :=
  (l[n]?).bind fun y => takeAt l ((l.findIdx? fun x => decide (x.kind = y.kind) && decide (x.idx = y.idx)).getD n)

/-- The `n`-th waiting item of the link, or the first of its kind and number, is delivered when its time has come: a start or stop where the router takes frames, a jump, a lane's
value to its routes, a flag (R97, R106, R348, R349, R354, R355). While the link is not locked it is lost (R359). -/
def State.deliver (s : State) (n : Nat) : State :=
  let s := s.linkDue
  match takeItem s.syn.items n with
  | none => s
  | some (x, rest) =>
    if s.t < x.at_ then s
    else
      let s1 := s.modSyn fun y => { y with items := rest }
      if !s.itemTaken x then s1
      else match x.kind with
      | 3 => s1.startItem x
      | 4 => if bits (s.dreg 3 0x074) 0 2 = 3 then s1.acceptStopEvent x.at_ (some x.at_) else s1
      | 5 => s1.jumpPins x.idx x.val x.at_
      | 9 =>
        let v := decide (x.val = 1)
        (s1.modSyn fun y => { y with lanesIn := putBit y.lanesIn x.idx v }).routesTake
          (fun _ r => bits r 0 2 = 3 && bits r 4 3 = x.idx) v x.org
      | _ => s1.modSyn fun y => { y with flagsIn := putBit y.flagsIn x.idx (decide (x.val = 1)) }

/-! Lock and alignment. -/

/-- While the link is not locked, NYWEN routes hold their INIT value (R359). -/
def State.routesInit (s : State) : State :=
  s.each (List.range 8) fun s c =>
    let base := pageAddr (cluPage c) 0x400
    let rts := s.regs.filter fun e => decide (base ≤ e.1) && decide (e.1 < base + 0x400) && decide (bits e.2.toNat 0 2 = 3)
    s.each rts fun s e =>
      let i := (e.1 - base) / 4
      s.modFb (16 * c + i / 16) fun f => { f with
        ins := putBit f.ins (i % 16) (bit e.2.toNat 16), due := f.due.filter fun d => decide (d.2.1 ≠ i % 16) }

/-- The link is down: NYWEN routes hold INIT, flags read false, and what the lanes and flags were is forgotten (R359). -/
def State.linkDown (s : State) : State :=
  (s.modSyn fun y => { y with lanesIn := 0, flagsIn := 0, lanesSeen := 0, flagsSeen := 0 }).routesInit

/-- NYWEN_LOSS persists while a receiver of an enabled link of several parts has no lock (R359): it is raised unless it is known. -/
def State.linkLost (s : State) : State :=
  if !s.nywEn || s.nywParts = 1 || s.syn.lock = 3 || (s.src (devSrc 3 0)).causes.contains 0 then s else s.raiseDev 3 0 0 2

/-- A receiver locks once it has seen 64 consecutive good frames; NYWEN_LOSS ends when both have lock, and so does a RETRAIN (R351, R359). -/
def State.lockRx (s : State) (rx : Nat) : State :=
  let s := s.linkDue
  if !s.nywEn || s.nywParts = 1 || !s.seenGood rx then s
  else
    let s1 := s.modSyn fun y => { y with
      lock := putBit y.lock rx true, lanesSeen := if y.lock = 0 then 0 else y.lanesSeen, flagsSeen := if y.lock = 0 then 0 else y.flagsSeen }
    if s1.syn.lock ≠ 3 then s1
    else
      let s2 := s1.endCond (devSrc 3 0) 0
      if s2.syn.retraining then (s2.modSyn fun y => { y with retraining := false, nyw := y.nyw.done 1 0 }).bumpSeq 3 else s2

/-- A receiver's lock drops: NYWEN_LOSS; with no receiver locked the link is down (R359). -/
def State.dropRx (s : State) (rx : Nat) : State :=
  let s1 := (s.modSyn fun y => { y with
    lock := putBit y.lock rx false, good := if rx = 0 then (0, y.good.2) else (y.good.1, 0) }).raiseDev 3 0 0 2
  if s1.syn.lock = 0 then s1.linkDown else s1

/-- A locked receiver loses lock once 16 of its latest 64 frames were bad (R351, R359). -/
def State.loseRx (s : State) (rx : Nat) : State :=
  let s := s.linkDue
  if !s.syn.lock.getLsbD rx || !s.seenBad rx then s else s.dropRx rx

/-- SYN.NYW_RESULT takes a refused or finished operation. -/
def State.nywPost (s : State) (outcome reason : Nat) : State :=
  (s.modSyn fun y => { y with nyw := { y.nyw.done outcome reason with valid := !y.retraining } }).bumpSeq 3

/-- The step of an ALIGN: back by the deviation from position 0 that its TIME frames have shown (R357). DESIGN CHOICE (log 134): the operand where no
TIME pair has been received yet. -/
def State.alignBy (s : State) (offset : Int) : Int := match s.syn.devAll with | some d => -d | none => offset

/-- SYN.NYW_CMD with OP ALIGN: GT steps to position 0's, or the command is refused: MASTER 1, NO_LINK 2, WINDOWS 3 (R357). -/
def State.alignGt (s : State) (offset : Int) : State :=
  if s.nywPos = 0 then s.nywPost 2 1
  else if !s.nywEn || !s.syn.lock.getLsbD (s.nearRx 0) then s.nywPost 2 2
  else if (List.range 136).any fun w => s.armedRun w then s.nywPost 2 3
  else
    let by_ := s.alignBy offset
    let t' := (((s.t : Int) + by_) % ((2 ^ 80 : Nat) : Int)).toNat
    let s1 := { s with t := if s.gtRun then t' else s.t }.modRef fun r => { r with
      aligned := true, alignT := gtOf t', alignStep := BitVec.ofInt 64 by_ }
    (s1.modSyn fun y => { y with dev := if y.devAll.isSome then 0 else y.dev, devAll := y.devAll.map fun _ => 0 }).nywPost 1 0

/-- SYN.NYW_CMD with OP RETRAIN: both receivers drop their lock, and acquire it again (SYN.NYW_CMD). -/
def State.retrain (s : State) : State :=
  let drop := fun (s : State) rx => if s.syn.lock.getLsbD rx then s.dropRx rx else s
  if !s.nywEn || s.nywParts = 1 then s.nywPost 1 0
  else (drop (drop s 0) 1).modSyn fun y => { y with retraining := true, good := (0, 0), nyw := y.nyw.busy }

/-- GT has deviated from position 0's by more than the bound of 256 tq for 1 ms: ALIGNED clears (R357). The deviation is the one the TIME frames show,
or the operand where none has come. -/
def State.misalign (s : State) (dev : BitVec 16) : State :=
  let s := s.linkDue
  let d := s.syn.devAll.getD dev.toInt
  if s.nywPos = 0 || !s.nywAligned || d.natAbs ≤ 256 then s
  else ((s.modRef fun r => { r with aligned := false }).modSyn fun y => { y with dev := devOf d }).raiseDev 3 2 0 2

/-- The link stops: nothing is locked, sent or waiting (SYN.NYW_CFG.EN). A RETRAIN in progress ends (log 41). -/
def State.linkOff (s : State) : State :=
  let s1 := if s.syn.retraining then (s.modSyn fun y => { y with retraining := false }).nywPost 1 0 else s
  ((s1.modSyn fun y => { y with
    lock := 0, fwd := [], own := [], items := [], sinceTime := (0, 0), sentT := (none, none), timeLo := none, devAll := none, good := (0, 0),
    bad := (0, 0) }).modRef fun r => { r with aligned := false }).endCond (devSrc 3 0) 0 |>.linkDown

/-- SYN.NYW_CFG is written: refused while a window is in ARMED or RUN. An enabled link of several parts whose receivers are not locked is lost
(R359). -/
def State.writeNywCfg (s : State) (v : Nat) : State :=
  if (List.range 136).any fun w => s.armedRun w then s
  else
    let s1 := s.setReg (pageAddr 3 0x100) (v % 32)
    if !bit v 0 then s1.linkOff
    else if s1.nywParts = 1 then (if s.nywEn && s.nywParts = 1 then s1 else s1.linkOff)
    else s1.linkLost

/-! Commands and events. -/

def execTrigEdge (dt : Nat) (line : BitVec 3) (rising accepted : Bool) (s : State) : Host.Outcome State Fault Refusal :=
  .next ((s.advance dt).trigEdge line.toNat rising accepted)
def execTrigCmd (dt : Nat) (line : BitVec 3) (width : BitVec 16) (s : State) : Host.Outcome State Fault Refusal :=
  .next ((s.advance dt).hostWrite 3 (.trigCmd dt line width) fun s => s.hostPulse line.toNat width.toNat)
def execTrigContention (dt : Nat) (line : BitVec 3) (s : State) : Host.Outcome State Fault Refusal := .next ((s.advance dt).contention line.toNat)
def execStarInEdge (dt : Nat) (rising : Bool) (s : State) : Host.Outcome State Fault Refusal := .next ((s.advance dt).starEdge rising)
def execStarLoss (dt : Nat) (s : State) : Host.Outcome State Fault Refusal := .next (s.advance dt).loseStar
def execStarOutPulseEnd (dt : Nat) (s : State) : Host.Outcome State Fault Refusal := .next (s.advance dt).endStarOut
def execEvtStart (dt : Nat) (s : State) : Host.Outcome State Fault Refusal :=
  .next ((s.advance dt).hostWrite 3 (.evtStart dt) fun s => s.linkDue.acceptStart s.t none)
def execEvtStop (dt : Nat) (s : State) : Host.Outcome State Fault Refusal :=
  .next ((s.advance dt).hostWrite 3 (.evtStop dt) fun s => s.linkDue.acceptStopEvent s.t none)
def execStartDelivery (dt : Nat) (s : State) : Host.Outcome State Fault Refusal := .next (s.advance dt).deliverStarts
def execStopDelivery (dt : Nat) (s : State) : Host.Outcome State Fault Refusal := .next (s.advance dt).deliverStops
def execNywenFrameSlot (dt : Nat) (tx : Fin 2) (s : State) : Host.Outcome State Fault Refusal := .next ((s.advance dt).frameSlot tx.toNat)
def execFrameIdle (dt : Nat) (rx : Fin 2) (f : BitVec 80) (s : State) : Host.Outcome State Fault Refusal := .next ((s.advance dt).receive rx.toNat f)
def execFrameTimeLo (dt : Nat) (rx : Fin 2) (f : BitVec 80) (s : State) : Host.Outcome State Fault Refusal := .next ((s.advance dt).receive rx.toNat f)
def execFrameTimeHi (dt : Nat) (rx : Fin 2) (f : BitVec 80) (s : State) : Host.Outcome State Fault Refusal := .next ((s.advance dt).receive rx.toNat f)
def execFrameStart (dt : Nat) (rx : Fin 2) (f : BitVec 80) (s : State) : Host.Outcome State Fault Refusal := .next ((s.advance dt).receive rx.toNat f)
def execFrameStop (dt : Nat) (rx : Fin 2) (f : BitVec 80) (s : State) : Host.Outcome State Fault Refusal := .next ((s.advance dt).receive rx.toNat f)
def execFrameJump (dt : Nat) (rx : Fin 2) (f : BitVec 80) (s : State) : Host.Outcome State Fault Refusal := .next ((s.advance dt).receive rx.toNat f)
def execNywenDelivery (dt : Nat) (n : Nat) (s : State) : Host.Outcome State Fault Refusal := .next ((s.advance dt).deliver n)
def execNywenLock (dt : Nat) (rx : Fin 2) (s : State) : Host.Outcome State Fault Refusal := .next ((s.advance dt).lockRx rx.toNat)
def execNywenLoss (dt : Nat) (rx : Fin 2) (s : State) : Host.Outcome State Fault Refusal := .next ((s.advance dt).loseRx rx.toNat)
def execAlign (dt : Nat) (offset : Int) (s : State) : Host.Outcome State Fault Refusal :=
  .next ((s.advance dt).hostWrite 3 (.align dt offset) fun s => s.linkDue.alignGt offset)
def execNywRetrain (dt : Nat) (s : State) : Host.Outcome State Fault Refusal :=
  .next ((s.advance dt).hostWrite 3 (.nywRetrain dt) fun s => s.linkDue.retrain)
def execNywenAlign (dt : Nat) (dev : BitVec 16) (s : State) : Host.Outcome State Fault Refusal := .next ((s.advance dt).misalign dev)
def execNywJumpCmd (dt : Nat) (ch slot : BitVec 2) (s : State) : Host.Outcome State Fault Refusal :=
  .next ((s.advance dt).hostWrite 3 (.nywJumpCmd dt ch slot) fun s => s.linkDue.linkJump ch.toNat slot.toNat s.t)

end Sys2Proof.Machine
end

