-- ==== Sys2Proof/Machine/Electrical.lean ====
section
/-!
DEFINITION. Sys2Proof/Machine/Electrical.lean: the hardware fault sources of slots, clusters and the device (R291 to R293), rails and
temperatures (R391, R413), the ends of conditions (R299), the thermal history (PWR.THERM), SMBus and JTAG (R315, R406, R407).
-/

namespace Sys2Proof.Machine

/-- A detection by channel source `idx` of a physical slot (R291). -/
def State.raiseSlot (s : State) (k idx code native : Nat) : State := s.raise (chSrc k idx) code native

/-! Clusters. -/

/-- A cluster's AFE supply monitor trips: STATE reads FAULT, and nothing else changes (R54, R292). -/
def State.supplyTrip (s : State) (c : Nat) : State := (s.modClu c fun x => { x with afeState := 3 }).raiseClu c 0 0 3

/-- Condition sources whose cause ends by this event alone: slot and cluster hardware, the keeper link, the temperatures, STAR_IN (R299). -/
def endsHere (src code : Nat) : Bool :=
  isCond src code && (match srcLevel src with
    | 0 => true
    | 1 => decide (srcIdx src ≠ 3)
    | _ => (decide (srcInst src = 0)) || (decide (srcInst src = 1) && decide (12 ≤ srcIdx src)) ||
        (decide (srcInst src = 3) && decide (srcIdx src = 4)))

/-- The cause of a condition ceases: COND reads 0 (R299); a supply that returns ends FAULT, STAR_IN shows valid levels again (R54, R347). -/
def State.causeEnds (s : State) (src code : Nat) : State :=
  if !endsHere src code then s
  else
    let s1 := s.endCond src code
    if srcLevel src = 1 && srcIdx src = 0 then
      s1.modClu (srcInst src) fun x => { x with afeState := if x.afeState = 3 then (if x.afeReq then 2 else 0) else x.afeState }
    else if src = devSrc 3 4 then s1.modSyn fun y => { y with starIn := (true, y.starIn.2) }
    else s1

/-! Rails and temperatures. -/

/-- VCC_PE is seen to leave its operating limits, or to be back inside them: outside, every TRIG ball is high-impedance, and no contention persists
(R346, R396). -/
def State.pePower (s : State) (out : Bool) : State :=
  (s.modKeep fun k => { k with peOut := out }).modSyn fun y => { y with contention := if out then 0 else y.contention }

/-- A rail's WARN or TRIP asserts (R391); a TRIP of VCC_PE shows that it lies outside its limits (R396). -/
def State.railAssert (s : State) (r : Nat) (trip : Bool) : State :=
  let s1 := if trip && r = 8 then s.pePower true else s
  (s1.modKeep fun k => { k with railBits := putBit k.railBits (r + 16 * b2n trip) true }).raiseDev 1 r (b2n trip) (2 + b2n trip)

/-- WARN or TRIP releases, and its COND with it (R391). -/
def State.railRelease (s : State) (r : Nat) (trip : Bool) : State :=
  let s1 := if trip && r = 8 then s.pePower false else s
  (s1.modKeep fun k => { k with railBits := putBit k.railBits (r + 16 * b2n trip) false }).endCond (devSrc 1 r) (b2n trip)

/-- PWR.RAIL[r].MV takes a reading (R391); one of VCC_PE shows whether it lies within 7.4 V to 8.6 V before TRIP asserts or releases (R396). -/
def State.railReads (s : State) (r : Nat) (mv : BitVec 16) : State :=
  let s1 := s.modKeep fun k => { k with rail := Tab.set 0 k.rail r mv }
  if r = 8 then s1.pePower (mv.toInt < 7400 || 8600 < mv.toInt) else s1

/-- PWR.TJ.NOW and MAX take a temperature (R413). -/
def State.tjNow (s : State) (tj : Byte) : State :=
  s.modKeep fun k => { k with tj := tj, tjMax := if k.tjMax.toInt < tj.toInt then tj else k.tjMax }

/-- The junction temperature rises above a limit (R293): TJ_HIGH 105 °C, TJ_CRIT 115 °C. -/
def State.tjRise (s : State) (tj : Byte) (limit : Int) (idx native : Nat) : State :=
  let s1 := s.tjNow tj
  if limit < tj.toInt then s1.raiseDev 1 idx 0 native else s1

/-- A whole hour has passed: POWERED_H, and HOT_H when NOW reached 95 °C in it (PWR.THERM). -/
def State.hour (s : State) (hot : Bool) : State :=
  s.modKeep fun k => { k with therm := (satInc (2 ^ 32 - 1) k.therm.1, if hot then satInc (2 ^ 32 - 1) k.therm.2 else k.therm.2) }

/-! SMBus (R407). -/

/-- The register that a command code names: its value and its bytes; FLT registers read zero before SERVICEABLE (R382, R407). -/
def State.smbValue (s : State) (code : Nat) : Option (Nat × Nat) :=
  let served := decide (s.dev.bringup = 5)
  match code with
  | 0x00 => some (0x71281F6A, 4)
  | 0x01 => some (pack [(0, 8, Config.stepping.toNat), (8, 2, s.dev.grade.toNat)], 4)
  | 0x02 => some (Config.serial.toNat, 8)
  | 0x03 => some (pack [(0, 4, s.dev.bringup), (8, 5, s.dev.stepFail.toNat)], 4)
  | 0x04 => some (pack [(0, 3, s.sec.lc), (3, 1, b2n s.sec.trans.isSome), (4, 1, b2n (decide (s.sec.lc = 2))),
      (8, 7, ((List.range 64).filter fun i => s.sec.keyMap.getLsbD i).length)], 4)
  | 0x08 => some (if served then pack [(0, 1, b2n s.flt.running), (1, 2, s.flt.cause), (3, 1, b2n s.flt.resumeRefused),
      (16, 16, s.flt.aliveSrc)] else 0, 4)
  | 0x09 => some (if served then pack [(0, 1, b2n s.flt.trap), (16, 16, s.flt.trapSeq.toNat)] else 0, 4)
  | 0x10 => some (pack [(0, 8, s.keep.tj.toNat), (8, 8, s.keep.tjMax.toNat)], 4)
  | 0x11 => some (pack [(0, 32, s.keep.therm.1), (32, 32, s.keep.therm.2)], 8)
  | c =>
    if 0x20 ≤ c && c < 0x2C then
      let r := c - 0x20
      some (pack [(0, 16, (Tab.get 0 s.keep.rail r).toNat), (16, 1, b2n (s.keep.railBits.getLsbD r)),
        (17, 1, b2n (s.keep.railBits.getLsbD (16 + r)))], 4)
    else none

/-- The register that a command code names, as its bytes (R407). -/
def State.smbRegister (s : State) (code : Nat) : Option (List Byte) := (s.smbValue code).map fun x => bytesOf x.1 x.2

/-- One byte more of an SMBus packet error code: the CRC-8 with x^8 + x^2 + x + 1. PRESUMED (log 151): R407 names the PEC by the standard alone. -/
def pecByte (crc : Nat) (b : Byte) : Nat :=
  (List.range 8).foldl (fun c _ => if 128 ≤ c then (2 * c % 256) ^^^ 7 else 2 * c % 256) (crc ^^^ b.toNat)

/-- The PEC of a Block Read: over the address with its write bit, the code, the address with its read bit, the byte count and the bytes. -/
def pecOf (addr code : Nat) (bytes : List Byte) : Byte :=
  BitVec.ofNat 8 (([BitVec.ofNat 8 (2 * addr), BitVec.ofNat 8 code, BitVec.ofNat 8 (2 * addr + 1), BitVec.ofNat 8 bytes.length] ++ bytes).foldl pecByte 0)

/-- An SMBus transaction: not for the part, NACKed at its address before the KEEPER step ends, as a write NACKed at its first byte after the code,
else a Block Read of the register named, with no bytes for a code not listed, and with the PEC if the host asks for it (R407). -/
def State.smbus (s : State) (addr code : Nat) (op : SmbusOp) : State :=
  if addr ≠ 0x58 + Config.smbAddr.toNat then s
  else if s.dev.porLow || s.dev.bringup = 0 then s.emit (.smbus none)
  else if op.write then s.emit .smbusNack
  else
    let bytes := (s.smbRegister code).getD []
    s.emit (.smbus (some (if op.pec then bytes ++ [pecOf addr code bytes] else bytes)))

/-! Events. -/

def execDriverLimit (dt : Nat) (slot : SlotId) (s : State) : Host.Outcome State Fault Refusal := .next ((s.advance dt).raiseSlot slot.val 9 0 2)
def execDacReadback (dt : Nat) (slot : SlotId) (s : State) : Host.Outcome State Fault Refusal := .next ((s.advance dt).raiseSlot slot.val 9 1 3)
def execChannelSupply (dt : Nat) (slot : SlotId) (s : State) : Host.Outcome State Fault Refusal := .next ((s.advance dt).raiseSlot slot.val 9 2 3)
def execPgenParity (dt : Nat) (slot : SlotId) (s : State) : Host.Outcome State Fault Refusal := .next ((s.advance dt).raiseSlot slot.val 10 0 3)
def execFineDelay (dt : Nat) (slot : SlotId) (s : State) : Host.Outcome State Fault Refusal := .next ((s.advance dt).raiseSlot slot.val 10 1 3)
def execCrossingParity (dt : Nat) (slot : SlotId) (s : State) : Host.Outcome State Fault Refusal := .next ((s.advance dt).raiseSlot slot.val 10 2 2)
def execCtrlCorrected (dt : Nat) (slot : SlotId) (s : State) : Host.Outcome State Fault Refusal := .next ((s.advance dt).raiseSlot slot.val 11 0 1)
def execCtrlUncorrected (dt : Nat) (slot : SlotId) (s : State) : Host.Outcome State Fault Refusal := .next ((s.advance dt).raiseSlot slot.val 11 1 2)
def execLaneDead (dt : Nat) (slot : SlotId) (s : State) : Host.Outcome State Fault Refusal := .next ((s.advance dt).raiseSlot slot.val 11 2 3)
def execSupplyTrip (dt : Nat) (c : CluId) (s : State) : Host.Outcome State Fault Refusal := .next ((s.advance dt).supplyTrip c.val)
def execAfeHot (dt : Nat) (c : CluId) (s : State) : Host.Outcome State Fault Refusal := .next ((s.advance dt).raiseClu c.val 1 0 2)
def execAfeCritical (dt : Nat) (c : CluId) (s : State) : Host.Outcome State Fault Refusal := .next ((s.advance dt).raiseClu c.val 1 1 3)
def execPositionMismatch (dt : Nat) (c : CluId) (s : State) : Host.Outcome State Fault Refusal := .next ((s.advance dt).raiseClu c.val 8 0 2)
def execActuatorSupply (dt : Nat) (c : CluId) (s : State) : Host.Outcome State Fault Refusal := .next ((s.advance dt).raiseClu c.val 8 1 3)
def execRefFault (dt : Nat) (c : CluId) (s : State) : Host.Outcome State Fault Refusal := .next ((s.advance dt).raiseClu c.val 9 0 2)
def execRouteParity (dt : Nat) (c : CluId) (s : State) : Host.Outcome State Fault Refusal := .next ((s.advance dt).raiseClu c.val 6 0 2)
def execLatCalFail (dt : Nat) (c : CluId) (s : State) : Host.Outcome State Fault Refusal := .next ((s.advance dt).raiseClu c.val 6 1 2)
def execStatusParity (dt : Nat) (c : CluId) (s : State) : Host.Outcome State Fault Refusal := .next ((s.advance dt).raiseClu c.val 10 0 2)
def execGtReplicaDeviation (dt : Nat) (c : CluId) (s : State) : Host.Outcome State Fault Refusal := .next ((s.advance dt).raiseClu c.val 11 0 3)
def execRailWarn (dt : Nat) (r : RailId) (s : State) : Host.Outcome State Fault Refusal := .next ((s.advance dt).railAssert r.val false)
def execRailTrip (dt : Nat) (r : RailId) (s : State) : Host.Outcome State Fault Refusal := .next ((s.advance dt).railAssert r.val true)
def execRailRelease (dt : Nat) (r : RailId) (trip : Bool) (s : State) : Host.Outcome State Fault Refusal :=
  .next ((s.advance dt).railRelease r.val trip)
def execRailSample (dt : Nat) (r : RailId) (mv : BitVec 16) (s : State) : Host.Outcome State Fault Refusal :=
  .next ((s.advance dt).railReads r.val mv)
def execTjHigh (dt : Nat) (tj : Byte) (s : State) : Host.Outcome State Fault Refusal := .next ((s.advance dt).tjRise tj 105 12 2)
def execTjCrit (dt : Nat) (tj : Byte) (s : State) : Host.Outcome State Fault Refusal := .next ((s.advance dt).tjRise tj 115 13 3)
def execKeeperLink (dt : Nat) (s : State) : Host.Outcome State Fault Refusal := .next ((s.advance dt).raiseDev 0 1 0 2)
def execCollectorParity (dt : Nat) (s : State) : Host.Outcome State Fault Refusal := .next ((s.advance dt).raiseDev 6 2 0 2)
def execConditionCauseEnds (dt : Nat) (src : BitVec 16) (code : Byte) (s : State) : Host.Outcome State Fault Refusal :=
  .next ((s.advance dt).causeEnds src.toNat code.toNat)
def execThermHour (dt : Nat) (hot : Bool) (s : State) : Host.Outcome State Fault Refusal := .next ((s.advance dt).hour hot)
def execSmbusTransaction (dt : Nat) (addr : BitVec 7) (code : Byte) (op : SmbusOp) (s : State) : Host.Outcome State Fault Refusal :=
  .next ((s.advance dt).smbus addr.toNat code.toNat op)
/-- SMB_CLK is held low: the target abandons the transaction, which has changed nothing (R407). -/
def execSmbusClockLowTimeout (dt : Nat) (s : State) : Host.Outcome State Fault Refusal := .next (s.advance dt)

end Sys2Proof.Machine
end

