-- ==== Sys2Proof/Machine/Resets.lean ====
section
/-!
DEFINITION. Sys2Proof/Machine/Resets.lean: block, channel and cluster resets (R55, R56, R244, R266, R286, R303, R310, R365, R369) and the
device reset (R302, R337, R370, R385): what each clears when it starts.
-/

namespace Sys2Proof.Machine

/-! Modes under a reset. -/

/-- The end of the vector in flight, which a reset lets the formatter complete (R55). DEDUCED (log 90): the present where no vector plays. -/
def State.vectorEnd (s : State) (w : Nat) : Nat :=
  if (s.pl w).begun then max s.t (if (s.ho w).on then (s.ho w).nextT else (s.pl w).nextT) else s.t

/-- A reset ends or discards the window's burst (R55): ARMED becomes READY, RUN ends without landing and a pending set takes effect
(R165). The mode reads READY from the
reset's start; the stamper's and the engine's marks are those of the vector's end (DEDUCED, log 90). -/
def State.resetBurst (s : State) (w : Nat) : State :=
  match s.mode w with
  | .armed => (s.discardBurst w).modMd w fun m => { m with mode := .ready }
  | .run => (s.endBurst w (s.vectorEnd w) 3).applyStage w (s.vectorEnd w)
  | _ => s

/-- An ARM in transition is cancelled; its result follows the reset (R46, R55). -/
def State.cancelArming (s : State) (w : Nat) : State :=
  match (s.md w).trans with
  | some x => if x.cmd = 4 && x.swOp = 0 then (s.discardBurst w).modMd w fun m => { m with trans := some { x with cancelled := true } } else s
  | none => s

/-! Registers and status. -/

/-- Registers of class H that hold what the host wrote: SEQ.ENTRY, RUN_CTL, HOST_FLAG, JUMP_TGT, JUMP_TRIG (R369). -/
def isClassH (a : Nat) : Bool :=
  decide (0x1000 ≤ a / 0x1000) && decide (a / 0x1000 < 0x1880) && decide (a / 0x1000 % 16 = 1) && decide (a % 0x1000 ∈
    [0x040, 0x044, 0x048, 0x060, 0x064, 0x068, 0x06C, 0x070])

/-- Latched events of pages return to reset (PG_EVT); one whose time is still to come latches then. -/
def State.dropEvts (s : State) (p : Nat → Bool) : State :=
  { s with pgEvt := s.pgEvt.filter (fun e => !p e.1), evtDue := s.evtDue.filter fun e => !(p e.2.1 && decide (e.1 ≤ s.t)) }

/-- Latched events and result counts of pages return to reset (PG_EVT, PG_SEQ; R364). -/
def State.dropPages (s : State) (p : Nat → Bool) : State :=
  let s1 := s.dropEvts p
  { s1 with pgSeq := s1.pgSeq.filter fun e => !p e.1 }

/-- Some page's copy is in progress. -/
def State.copying (s : State) : Bool := s.snapSt.any fun e => e.2.copy.isSome

/-- The device-wide snapshot completes with the last of its copies, one that a reset has dropped among them (R375). -/
def State.snapFinish (s : State) : State :=
  if s.dev.snapBusy && !s.copying then
    (s.modDev fun d => { d with snapBusy := false, snapValid := true, snapSeq := d.snapSeq + 1 }).bumpSeq 0
  else s

/-- Snapshots of pages return to reset, and the copies in progress with them (R342). -/
def State.dropSnaps (s : State) (p : Nat → Bool) : State :=
  State.snapFinish { s with snaps := s.snaps.filter (fun e => !p (e.1 / 0x1000)), snapSt := s.snapSt.filter fun e => !p e.1 }

/-- A collector after its reset: PEND bits, SEQ, latch and STAT cleared; causes that persist stay known (R310). -/
def Coll.cleared (c : Coll) : Coll :=
  { srcs := (c.srcs.filter fun e => decide (e.2.causes ≠ [])).map fun e => (e.1, { causes := e.2.causes }) }

/-- Native class of a condition detection (R291 to R293). -/
def condNative (src code : Nat) : Nat :=
  match srcLevel src with
  | 0 => 3
  | 1 => match srcIdx src with
    | 0 => 3
    | 1 => 2 + code
    | 8 => 3
    | _ => 2
  | _ => match srcInst src with
    | 1 => if srcIdx src < 12 then 2 + code else if srcIdx src = 12 then 2 else 3
    | 4 => if srcIdx src = 0 then 3 else 2
    | 8 => 3
    | _ => 2

/-- The causes that a reset finds in sources are noted: they are detected again once it completes, if they persist (R310). -/
def State.noteAgain (s : State) (srcs : List Nat) : State :=
  s.modDev fun d => { d with
    again := (d.again.filter fun x => !srcs.contains x.1) ++ srcs.flatMap fun src => (s.src src).causes.map fun code => (src, code) }

/-- Causes of a source that have persisted through a reset are detected again (R310). -/
def State.detectAgain (s : State) (src : Nat) : State :=
  let due := s.dev.again.filter fun x => decide (x.1 = src)
  (s.each due fun s x => s.raise x.1 x.2 (condNative x.1 x.2)).modDev fun d => { d with again := d.again.filter fun x => decide (x.1 ≠ src) }

/-- The pages of window `w`. -/
def ofWindow (w p : Nat) : Bool := decide (p / 16 = 0x100 + w)

/-! Block, channel and cluster resets. -/

/-- What a channel or cluster reset leaves of a window, its mode apart (R56, R244, R266, R310). -/
def Win.cleared (x : Win) : Win :=
  { md := { mode := x.md.mode, trans := x.md.trans, endCause := x.md.endCause, static := x.md.static }
    sq := { hold0 := x.sq.hold0 }
    pl := { remembered := x.pl.remembered }
    ik := { cons := x.ik.cons, fetch := x.ik.fetch, skipping := x.ik.skipping, torn1 := x.ik.torn1, begun := x.ik.begun,
            reqs := x.ik.reqs, postDue := x.ik.postDue, postAt := x.ik.postAt }
    tm := { active := x.tm.active, skew := x.tm.skew }
    pm := { active := x.pm.active, settled := x.pm.settled, clamped := x.pm.clamped, above := x.pm.above, below := x.pm.below,
            changed := x.pm.changed, sampT := x.pm.sampT, lvlWritten := x.pm.lvlWritten }
    cp := { cfg := x.cp.cfg, recQ := x.cp.recQ, qDrops := x.cp.qDrops }
    fb := x.fb }

/-- A window under a channel or cluster reset (R55, R56). -/
def State.clearWindow (s : State) (w : Nat) : State :=
  let s1 := (((((s.modTm w fun x => { x with pend := none }).stampReset w).cancelArming w).resetBurst w).flushStreams w).modWin w Win.cleared
  let s2 := (s1.dropRegs fun a => isClassH a && ofWindow w (a / 0x1000)).dropPages (ofWindow w)
  (s2.dropSnaps (ofWindow w)).modColl (chSrc (s.slotOf w) 0) Coll.cleared

/-- Registers of class C of a cluster: routes, exports, CAL_BUS, PWR.HR_CFG[c] (R369). -/
def isClassC (c a : Nat) : Bool :=
  (decide (a / 0x1000 = cluPage c) && decide (0x400 ≤ a % 0x1000) && decide (a % 0x1000 ≤ 0x900)) || decide (a = pageAddr 1 (0x0C0 + 4 * c))

/-- A cluster under its reset: all 17 windows, the reaction fabric, the collector (R55, R56, R106, R107). -/
def State.clearCluster (s : State) (c : Nat) : State :=
  let s1 := s.each (cluWins c) fun s w => (s.clearWindow w).modFb w fun _ => {}
  let s2 := s1.each (List.range 8) fun s e => if (s.clu c).expo.getLsbD e then s.exportTakes c e false s.t else s
  let s3 := if (s2.clu c).flushing then s2.storeAll c else s2
  let s4 := s3.modClu c fun x => { x with swap := {}, flushing := false, lat := [], expo := 0, hrRefused := false }
  let s5 := (s4.dropRegs (isClassC c)).dropPages fun p => decide (p = cluPage c)
  (State.snapFinish { s5 with snapSt := s5.snapSt.filter fun e => decide (e.1 ≠ cluPage c) }).modColl (cluSrc c 0) Coll.cleared

/-- A march job stopped by a reset: borrowed rows are copied back; a destructive job leaves its banks undefined (R286). -/
def State.stopMarch (s : State) : State :=
  if s.mem.march = 0 then s
  else if s.marchDestructive then s.undefineBanks.marchEnd 3
  else s.marchEnd 3

/-- A repair stopped by a reset: an entry already committed takes effect at the next bring-up (R289). -/
def State.stopRepair (s : State) : State :=
  if s.mem.repair.isNone then s
  else s.modMem fun m => { m with repair := none, repairRes := { m.repairRes with valid := decide (m.repairRes.seq ≠ 0) } }

/-- What a reset of a page clears when it starts (R55, R56, R365, R369). -/
def State.resetEffect (s : State) (p : Nat) : State :=
  if 0x1000 ≤ p then
    let w := (p - 0x1000) / 16
    let q := p % 16
    let s1 := s.dropEvts (decide <| · = p)
    if q = 0 then s.clearWindow w
    else if q ≤ 4 then s1.resetBurst w
    else if q = 8 then s1.stampReset w
    else s1
  else if 0x10 ≤ p then s.clearCluster (p - 0x10)
  else
    let s1 := s.dropEvts (decide <| · = p)
    if p = 10 then s1.stopMarch.stopRepair else s1

/-- PG_CTL.BLK_RST acts on these pages (R365). -/
def resettable (p : Nat) : Bool :=
  p = 3 || p = 4 || p = 10 || (0x10 ≤ p && p < 0x18) || (0x1000 ≤ p && p < 0x1880 && p % 16 ≤ 9)

/-- A channel reset opens no consequential window; block and cluster resets do (R303). -/
def opensConseq (p : Nat) : Bool := !(decide (0x1000 ≤ p) && decide (p % 16 = 0))

/-- The condition sources whose collector the reset of a page clears (R290 to R293, R310). -/
def State.resetSrcs (s : State) (p : Nat) : List Nat :=
  let ofWin := fun w => [9, 11].map (chSrc (s.slotOf w))
  if 0x1000 ≤ p then (if p % 16 = 0 then ofWin ((p - 0x1000) / 16) else [])
  else if 0x10 ≤ p then (cluWins (p - 0x10)).flatMap ofWin ++ [0, 1, 3, 8, 9].map (cluSrc (p - 0x10))
  else []

/-- A block, channel or cluster reset starts; requested while in progress, it adds nothing (R302, R303, R365). -/
def State.startReset (s : State) (p : Nat) : State :=
  if !resettable p || s.dev.resets.contains p then s
  else
    let s1 := if opensConseq p then { s with conseqs := s.conseqs ++ [(p, s.t, s.t + 2 * us)] } else s
    ((s1.noteAgain (s.resetSrcs p)).resetEffect p).modDev fun d => { d with resets := d.resets ++ [p] }

/-- Expired consequential windows close (R303). -/
def State.conseqEnd (s : State) : State := { s with conseqs := s.conseqs.filter fun x => decide (s.t < x.2.2) }

/-- A window's cancelled ARM posts its result once the reset is over (R55). -/
def State.postCancelled (s : State) (w : Nat) : State :=
  match (s.md w).trans with
  | some x => if x.cancelled then (s.modMd w fun m => { m with trans := none }).modeDone w 4 x.tag 4 0 else s
  | none => s

/-- A reset of a page completes: cancelled ARMs post, persisting causes are detected again (R55, R310). -/
def State.endReset (s : State) (p : Nat) : State :=
  let s1 := s.modDev fun d => { d with resets := d.resets.filter fun x => decide (x ≠ p) }
  let s2 := if 0x1000 ≤ p then (if p % 16 = 0 then s1.postCancelled ((p - 0x1000) / 16) else s1)
    else if 0x10 ≤ p then s1.each (cluWins (p - 0x10)) State.postCancelled
    else s1
  s2.each (s2.resetSrcs p) State.detectAgain

/-! The device reset. -/

/-- A contact-check value for a slot; a sound channel measures 0 (R385). -/
def checkOf (checks : List (SlotId × BitVec 16)) (k : Nat) : BitVec 16 :=
  match checks.find? fun x => decide (x.1.val = k) with
  | some x => x.2
  | none => 0

/-- A switch of slot `k` is closed. -/
def State.slotClosed (s : State) (k : Nat) : Bool :=
  (s.slot k).kcal || (if k % 17 = 16 then decide ((s.clu (k / 17)).kspare ≠ 0) else (s.clu (k / 17)).kdut.getLsbD (k % 17))

/-- The contact check of a closed switch of slot `k` refuses its opening (R188, R385). -/
def State.staysClosed (s : State) (checks : List (SlotId × BitVec 16)) (k : Nat) : Bool :=
  s.slotClosed k && decide (48 < (checkOf checks k).toInt.natAbs)

/-- A slot after a device reset: unpowered with its switches open, unless one stays closed (R385). -/
def Slot.afterReset (x : Slot) (left : Bool) : Slot := { hist := none, histDue := x.histDue, kcal := left && x.kcal, afeOn := left }

/-- A cluster after a device reset: its AFE die stays on for a slot kept on (R369, R385). -/
def Clu.afterReset (x : Clu) (left : Nat → Bool) : Clu :=
  let any := (List.range 17).any left
  { afeReq := any, afeState := if any then 2 else 0, swapped := x.swapped, retired := x.retired, retRefused := x.retRefused,
    kdut := BitVec.ofNat 16 ((List.range 16).foldl (fun n k => if left k && x.kdut.getLsbD k then n + 2 ^ k else n) 0)
    kspare := if left 16 then x.kspare else 0
    life := x.life }

/-- Causes that a device reset does not end: those of the slots, the AFE dies' temperature, actuator supplies and references, the keeper
link, rails and temperatures, the reference, the host link (R310, R385). -/
def outlives (src : Nat) : Bool :=
  match srcLevel src with
  | 0 => true
  | 1 => decide (srcIdx src = 1) || decide (srcIdx src = 8) || decide (srcIdx src = 9)
  | _ => decide (srcInst src ≤ 1) || decide (src = devSrc 2 1) || decide (srcInst src = 4)

/-- A collector after a device reset. -/
def Coll.afterReset (c : Coll) (srcOf : Nat → Nat) : Coll :=
  { srcs := c.cleared.srcs.filter fun e => outlives (srcOf e.1) }

/-- The collectors after a device reset (R310). -/
def State.resetColls (s : State) : State :=
  { s with
    colCh := (s.colCh.map fun e => (e.1, e.2.afterReset fun i => chSrc e.1 i)).filter fun e => decide (e.2 ≠ {})
    colClu := (s.colClu.map fun e => (e.1, e.2.afterReset fun i => cluSrc e.1 i)).filter fun e => decide (e.2 ≠ {})
    colDev := s.colDev.afterReset devOfJ }

/-- The causes that a device reset has not ended, by source and code (R310). -/
def State.persisting (s : State) : List (Nat × Nat) :=
  let of := fun (c : Coll) (srcOf : Nat → Nat) => c.srcs.flatMap fun e => e.2.causes.map fun code => (srcOf e.1, code)
  s.colCh.flatMap (fun e => of e.2 (chSrc e.1)) ++ s.colClu.flatMap (fun e => of e.2 (cluSrc e.1)) ++ of s.colDev devOfJ

/-- A switch of slot `k` stays closed: HOT_SWITCH on the slot's AFE source, held until the new lock (R385). -/
def State.reportClosed (s : State) (k : Nat) : State :=
  let src := chSrc k 4
  s.send { src := src, pin := pinOf (s.winOf k), at_ := s.t, more := 0, parts := [{
    code := 1, native := 0, shelf := nullShelf, value := Config.detailValue src 1 s.t, conseq := false, inj := false, dry := false }] }

/-- Windows, slots and clusters under a device reset: every window is OFF, switches open after their contact checks, the seed is loaded; a slot
whose switch stays closed stays powered (R57, R169, R385). DESIGN CHOICE (log 146): in RUN the driver turns off at once, the vector in flight with it:
step 1 of R385 turns every driver off, though R11 says that the part does not cut off mid-vector. -/
def State.resetPins (s : State) (checks : List (SlotId × BitVec 16)) : State :=
  let left := (List.range 136).filter (s.staysClosed checks)
  let s1 := { s with
    wins := []
    slots := (List.range 136).foldl (fun t k => Tab.set {} t k ((s.slot k).afterReset (left.contains k))) []
    clus := (List.range 8).foldl (fun t c => Tab.set {} t c ((s.clu c).afterReset fun i => left.contains (17 * c + i))) [] }
  (s1.each left State.reportClosed).each (List.range 136) State.loadSeed

/-- Registers of class D of the device pages return to reset; class P, the host link and its configuration space stay (R369, R370, R385). -/
def State.resetDevicePages (s : State) : State :=
  { s with
    regs := [], pgEvt := [], evtDue := [], pgSeq := [], snaps := [], snapSt := [], conseqs := []
    ref := { present := s.ref.present }
    syn := { trig := s.syn.trig, starIn := s.syn.starIn }
    host := { perst := s.host.perst, up := s.host.up, gen := s.host.gen, width := s.host.width, flit := s.host.flit, tag10 := s.host.tag10, tag14 := s.host.tag14,
              l1 := s.host.l1, cfgSpace := s.host.cfgSpace, bme := s.host.bme, msixEn := s.host.msixEn, funcMask := s.host.funcMask,
              budget := s.host.budget, mrrs := s.host.mrrs, bar2Size := s.host.bar2Size }
    flt := { alive := some s.flt.pol, cause := 3, heartbeat := s.flt.heartbeat, pol := s.flt.pol, trap := s.flt.trap, trapSeq := s.flt.trapSeq,
             logWr := s.flt.logWr, logRd := s.flt.logRd, logReady := s.flt.logReady, logLost := s.flt.logLost }
    mem := { startup := s.mem.startup, startupDone := s.mem.startupDone, spare := s.mem.spare, hidden := s.mem.hidden, tags := s.mem.tags }
    sec := { lc := s.sec.lc, keyMap := s.sec.keyMap, active := s.sec.active, wipes := s.sec.wipes, wiping := s.sec.wiping,
             tamperT := s.sec.tamperT }
    keep := { s.keep with rwl := {}, rwlKind := 0, rail := [], jtag := 0 } }

/-- Host writes not yet in effect are dropped and counted (R370, R382). -/
def State.dropHeld (s : State) : State :=
  { s.each s.held fun s h => match h with
    | .write p _ => if p < 8192 then s.modDev fun d => { d with dropped := satInc 65535 d.dropped } else s
    | .bar2 .. => s
    | .commit => s.modDev fun d => { d with dropped := satInc 65535 d.dropped } with held := [] }

/-- A device reset is in progress, or the part has not come so far after power-on as to take one (R302, R385). -/
def State.resetting (s : State) : Bool := s.dev.porLow || decide (s.dev.bringup = 0) || (s.dev.rerun && decide (s.dev.bringup ≠ 5))

/-- A device reset acts in the order of R385 and bring-up runs again from STATE 0x1; one in progress adds nothing. `cause` 1 DEV.RESET_CMD,
2 a CHIP_RESET reaction of source `src`, 3 Function Level Reset. GT restarts at the new lock (R13); detections on their way keep the stamps of the old
count and reach their collectors at SERVICEABLE (R302). -/
def State.deviceReset (s : State) (cause src : Nat) (checks : List (SlotId × BitVec 16)) : State :=
  if s.resetting then s
  else
    let d := s.dev
    let s0 := if s.mem.march ≠ 0 && s.marchDestructive then s.undefineBanks else s
    let s1 := s0.dropHeld.each (List.range 8) State.storeAll
    let s2 := { s1 with
      heldDet := (s1.heldDet ++ s1.flight).map (fun (e : Det) => { e with past := true }), flight := [], heldN := 0, gtRun := false, t := 0
      dev := { porLow := false, bringup := 1, rerun := d.rerun || decide (d.bringup = 5), grade := d.grade, cause := cause,
               count := satInc 65535 d.count, src := if cause = 2 then src else 0, dropped := s1.dev.dropped,
               refused := d.refused && decide (cause ≠ 1), regPhase := true } }
    let s3 := s2.resetColls
    ((s3.modDev fun d => { d with again := s3.persisting }).resetDevicePages.resetPins checks).logIndicate

/-- DEV.RESET_CMD with GO = 1: refused unless CONFIRM is 0x7128. -/
def State.resetCmd (s : State) (confirm : Nat) (checks : List (SlotId × BitVec 16)) : State :=
  if confirm ≠ 0x7128 then s.modDev fun d => { d with refused := true } else s.deviceReset 1 0 checks

/-- A Function Level Reset is a device reset; the function's configuration space returns to its reset values (R337). -/
def State.flr (s : State) (checks : List (SlotId × BitVec 16)) : State :=
  if !s.host.up || s.resetting then s else (s.deviceReset 3 0 checks).resetConfig

/-- PG_CTL.BLK_RST is written; while the same reset runs it adds nothing and is not held (R365). -/
def State.blkRst (s : State) (dt : Nat) (page : PageId) : State :=
  if s.dev.resets.contains page.val then s else s.hostWrite page.val (.blkRst dt page) fun s => s.startReset page.val

def execBlkRst (dt : Nat) (page : PageId) (s : State) : Host.Outcome State Fault Refusal :=
  .next ((s.advance dt).blkRst dt page)
def execResetCmd (dt : Nat) (confirm : BitVec 16) (checks : List (SlotId × BitVec 16)) (s : State) : Host.Outcome State Fault Refusal :=
  .next ((s.advance dt).hostWrite 0 (.resetCmd dt confirm checks) fun s => s.resetCmd confirm.toNat checks)
def execFunctionLevelReset (dt : Nat) (checks : List (SlotId × BitVec 16)) (s : State) : Host.Outcome State Fault Refusal :=
  .next ((s.advance dt).flr checks)
def execConseqWindowEnd (dt : Nat) (s : State) : Host.Outcome State Fault Refusal := .next (s.advance dt).conseqEnd

end Sys2Proof.Machine
end

