-- ==== Sys2Proof/Machine/Collector.lean ====
section
/-!
DEFINITION. Sys2Proof/Machine/Collector.lean: what a detection does when it reaches its collector (R294 to R303), acknowledging it (R300,
R304), the reaction and counting registers (R298, R301), ALIVE and the trap (R305, R306), the event log's reader (R307), injection
(R308, R309).
-/

namespace Sys2Proof.Machine

/-- Page of the register window that holds a source's registers: the FLT page of the slot's window, CLU_c, or the FLT page. -/
def State.colPage (s : State) (src : Nat) : Nat :=
  match srcLevel src with
  | 0 => winPage (s.winOf (srcInst src)) 10
  | 1 => cluPage (srcInst src)
  | _ => 6

/-- Block reset target of a source, as the page whose reset it is (R291 to R293); none where the tables give none. -/
def State.blockTarget (s : State) (src : Nat) : Option Nat :=
  match srcLevel src with
  | 0 =>
    let q : Nat := match srcIdx src with
      | 1 => 1 | 2 => 2 | 3 => 3 | 4 => 5 | 5 => 6 | 6 => 7 | 7 => 8 | 8 => 9 | 9 => 5 | 10 => 3 | 11 => 5 | _ => 0
    if q = 0 then none else some (winPage (s.winOf (srcInst src)) q)
  | 1 => if srcIdx src = 6 || srcIdx src = 10 then some (cluPage (srcInst src)) else none
  | _ =>
    if src = devSrc 3 0 then some 3 else if src = devSrc 4 6 then some 4 else if srcInst src = 10 then some 10 else none

/-! Arrival. -/

/-- Reactions of a class field (R301): bit 0 INT, 1 TRAP, 2 BLOCK_RESET, 3 CHIP_RESET, 4 ALIVE_STOP. -/
def State.reactField (s : State) (src cls : Nat) : Nat := bits (s.reg (reactKey src)) (8 * cls) 5

/-- The reactions of a detection start, in the order of R302; a consequential one starts INT alone (R301). -/
def State.react (s : State) (d : Det) (p : DetPart) (k : Classed) (r : Rec) (checks : List (SlotId × BitVec 16)) : State :=
  let f := s.reactField d.src k.cls
  let full := fun b => bit f b && !p.conseq
  let s1 := if full 4 then s.aliveFreeze 1 d.src else s
  let s2 := if full 1 then s1.trap d k r else s1
  let s3 := if bit f 0 then s2.signalColl d.src else s2
  let s4 := if full 2 then (match s3.blockTarget d.src with | some t => s3.startReset t | none => s3) else s3
  if full 3 then s4.deviceReset 2 d.src checks else s4

/-- A record reaches its collector: it is classed, its status, the latches and the log are updated, Harvest takes it, reactions start
(R294, R297 to R303, R307 to R309). -/
def State.collectDet (s : State) (d : Det) (checks : List (SlotId × BitVec 16)) : State :=
  let compat := s.reg (compatKey d.src)
  let live := d.effective.filter fun q => !q.dry
  match pickPart (s.src d.src) compat d.at_ d.effective with
  | none => s
  | some (p, k) =>
    let r := eventRec d p k (d.parts.length - 1 + d.more)
    let s1 := s.modSrc d.src fun st => if live.isEmpty then { st with times := if d.past then st.times else d.at_ :: st.times } else st.take compat d p
    let s2 := if k.cls ≠ 0 && !p.conseq && !p.dry then
        s1.latchAll { src := d.src, cls := k.cls, esc := k.esc, inj := d.parts.any (·.inj), real := d.parts.any (fun q => !q.inj),
                      at_ := d.at_, ovf := false, openUntil := none }
      else s1
    let s3 := if d.parts.any (·.inj) && d.parts.any (fun q => !q.inj) then s2.modFlt fun f => { f with coincided := true } else s2
    let s4 := (if k.cls ≠ 0 then s3.logPush d.src r else s3).harvestEvent d.src r
    if p.dry then s4 else s4.react d p k r checks

/-- The first record of a source in a list, with the list without it. -/
def takeSrc (src : Nat) : List Det → Option (Det × List Det)
  | [] => none
  | d :: r => if d.src = src then some (d, r) else (takeSrc src r).map fun p => (p.1, d :: p.2)

/-- A record reaches its collector. One of the same epoch and GT as an earlier record of the source counts in that record (R15). -/
def State.collectOnce (s : State) (d : Det) (checks : List (SlotId × BitVec 16)) : State :=
  if !d.past && (s.src d.src).times.contains d.at_ then s.sendMore d.src d.at_ (d.parts.length + d.more) else s.collectDet d checks

/-- A record arrives (R36): the oldest of the source whose record is the `n`-th on its way, for no crossing reorders (R25). It arrives after the tq of
its stamp, in which others may still join it; one from before a device reset has its tq behind it (R302). -/
def State.detArrive (s : State) (n : Nat) (checks : List (SlotId × BitVec 16)) : State :=
  match s.flight[n]? with
  | none => s
  | some x => match takeSrc x.src s.flight with
    | some (d, rest) => if d.past || d.at_ < s.t then { s with flight := rest }.collectOnce d checks else s
    | none => s

/-! First-fault latches. -/

/-- Some source of a collector. -/
def colSrc : Collector → Nat
  | .slot k => chSrc k.val 0
  | .clu c => cluSrc c.val 0
  | .dev => devSrc 6 0

/-- The 64 ns of a latch's decision have passed: its choice is final (R37). -/
def State.decideFirst (s : State) (c : Collector) : State :=
  s.modColl (colSrc c) fun x => { x with first := x.first.map fun f =>
    match f.openUntil with
    | some e => if e ≤ s.t then { f with openUntil := none } else f
    | none => f }

/-- A latch is emptied (R300). -/
def State.emptyFirst (s : State) (c : Collector) : State := s.modColl (colSrc c) fun x => { x with first := none }

/-! Acknowledging and configuring a source. -/

/-- A CLR write: refused as STALE or PERSISTS, or the named PEND bits are cleared and the counting window emptied (R304). -/
def State.clearSrc (s : State) (src : Nat) (ack : BitVec 4) (seq : BitVec 16) : State :=
  let st := s.src src
  let refuse := fun (reason : Nat) => (s.modColl src fun c => { c with clrRefused := true, reason := reason }).raiseDev 6 1 0 0
  if st.seq ≠ seq then refuse 1
  else if st.causes ≠ [] && (ack.getLsbD 1 || ack.getLsbD 2 || ack.getLsbD 3) then refuse 2
  else
    (s.modSrc src fun x => { x with
      pend := x.pend &&& ~~~ ack, base := x.base &&& ~~~ ack, mf := x.mf && !ack.getLsbD 3, win := [] }).modColl src fun c =>
        { c with clrRefused := false }

/-- A refused REACT or COMPAT write: CFG_REFUSED and REASON = CFG (R304). -/
def State.cfgRefuse (s : State) (src : Nat) : State := s.modColl src fun c => { c with cfgRefused := true, reason := 3 }
def State.cfgAccept (s : State) (src : Nat) : State := s.modColl src fun c => { c with cfgRefused := false }

/-- A REACT write: refused whole when it sets BLOCK_RESET for a source without a target (R301). -/
def State.writeReact (s : State) (src v : Nat) : State :=
  if (s.blockTarget src).isNone && [2, 10, 18, 26].any (bit v) then s.cfgRefuse src
  else (s.setReg (reactKey src) (pack [(0, 5, bits v 0 5), (8, 5, bits v 8 5), (16, 5, bits v 16 5), (24, 5, bits v 24 5)])).cfgAccept src

/-- A COMPAT write: refused with T = 0 in COUNT mode; accepted, it empties the counting window (R298, R304). -/
def State.writeCompat (s : State) (src v : Nat) : State :=
  if bit v 0 && bits v 8 24 = 0 then s.cfgRefuse src
  else ((s.setReg (compatKey src) (pack [(0, 1, bits v 0 1), (4, 4, bits v 4 4), (8, 24, bits v 8 24)])).modSrc src fun x =>
    { x with win := [] }).cfgAccept src

/-- A write to a register of a source that exists; an ID without a source names no register. -/
def State.srcWrite (s : State) (src : Nat) (i : Instr) (act : State → State) : State :=
  if srcExists src then s.hostWrite (s.colPage src) i act else s

/-! ALIVE and the trap. -/

/-- FLT.ALIVE_CFG.DIV is written: values above 999 are refused (R305). -/
def State.writeDiv (s : State) (div : Nat) : State := if 999 < div then s else s.setReg (pageAddr 6 0x060) div

/-- ALIVE reaches its next edge (R305). -/
def State.aliveEdge (s : State) : State :=
  if s.flt.running then s.modFlt fun f => { f with alive := f.alive.map (!·) } else s

/-- The heartbeat has been missing for 10 µs (R305). -/
def State.loseHeartbeat (s : State) : State := (s.modFlt fun f => { f with heartbeat := false }).aliveFreeze 2 0

/-- FLT.ALIVE_CMD.RESUME: refused while any PEND_F is set or the heartbeat is missing (R305). -/
def State.aliveResumeCmd (s : State) : State :=
  if s.anyFatal || !s.flt.heartbeat then s.modFlt fun f => { f with resumeRefused := true }
  else s.modFlt fun f => { f with running := true, cause := 0, resumeRefused := false }

/-! The event log and injection. -/

/-- FLT.LOG_CONS is written, under the rule of R215 (R307). -/
def State.writeLogCons (s : State) (v : Nat) : State :=
  let d := (v + 4096 - s.flt.logRd % 4096) % 4096
  if 4096 ≤ v || s.flt.logLevel < d then s else (s.modFlt fun f => { f with logRd := f.logRd + d, logPop := noteMove f.logPop s.now d }).logIndicate

/-- FLT.LOG_WM is written; LO at or above HI is refused (R114). -/
def State.writeLogWm (s : State) (v : Nat) : State :=
  if bits v 0 8 ≤ bits v 8 8 then s else (s.setReg (pageAddr 6 0x088) (bits v 0 20)).logIndicate

/-- INJ.CMD with GO: refused with RANGE or BUSY, or an injection is on its way to its source (R308). -/
def State.injStart (s : State) : State :=
  let t := s.dreg 13 0x040
  let refuse := fun (reason : Nat) => (s.modFlt fun f => { f with inj := f.inj.refuse reason f.injPend.isSome }).bumpSeq 13
  if !srcExists (bits t 0 16) then refuse 1
  else if s.flt.injPend.isSome then refuse 2
  else s.modFlt fun f => { f with injPend := some (BitVec.ofNat 64 t), inj := f.inj.busy }

/-- The injected detection reaches its source (R308). It sets no COND. -/
def State.injDeliver (s : State) : State :=
  match s.flt.injPend with
  | none => s
  | some t =>
    let src := bits t.toNat 0 16
    let p : DetPart := { code := bits t.toNat 20 8, native := bits t.toNat 16 2, shelf := nullShelf, value := BitVec.ofNat 28 (bits t.toNat 32 28),
                         conseq := s.isConseq src s.t, inj := true, dry := bit t.toNat 18 }
    let s1 := s.send { src := src, pin := if srcLevel src = 0 then pinOf (s.winOf (srcInst src)) else none, at_ := s.t, parts := [p], more := 0 }
    let s2 := (s1.modFlt fun f => { f with injPend := none, inj := f.inj.done 1 0, coincided := false, injT := gtOf s.t }).bumpSeq 13
    s2.raiseDev 13 0 0 0

/-! Commands and events. -/

def execDetectionArrival (dt : Nat) (n : Nat) (checks : List (SlotId × BitVec 16)) (s : State) : Host.Outcome State Fault Refusal :=
  .next ((s.advance dt).detArrive n checks)
def execFirstFaultDecided (dt : Nat) (col : Collector) (s : State) : Host.Outcome State Fault Refusal := .next ((s.advance dt).decideFirst col)
def execSrcClr (dt : Nat) (src : BitVec 16) (ack : BitVec 4) (seq : BitVec 16) (s : State) : Host.Outcome State Fault Refusal :=
  .next ((s.advance dt).srcWrite src.toNat (.srcClr dt src ack seq) fun s => s.clearSrc src.toNat ack seq)
def execReactWrite (dt : Nat) (src : BitVec 16) (val : BitVec 32) (s : State) : Host.Outcome State Fault Refusal :=
  .next ((s.advance dt).srcWrite src.toNat (.reactWrite dt src val) fun s => s.writeReact src.toNat val.toNat)
def execCompatWrite (dt : Nat) (src : BitVec 16) (val : BitVec 32) (s : State) : Host.Outcome State Fault Refusal :=
  .next ((s.advance dt).srcWrite src.toNat (.compatWrite dt src val) fun s => s.writeCompat src.toNat val.toNat)
def execFirstLatchClear (dt : Nat) (col : Collector) (s : State) : Host.Outcome State Fault Refusal :=
  .next ((s.advance dt).srcWrite (colSrc col) (.firstLatchClear dt col) fun s => s.emptyFirst col)
def execAliveToggle (dt : Nat) (s : State) : Host.Outcome State Fault Refusal := .next (s.advance dt).aliveEdge
def execHeartbeatLoss (dt : Nat) (s : State) : Host.Outcome State Fault Refusal := .next (s.advance dt).loseHeartbeat
def execHeartbeatReturn (dt : Nat) (s : State) : Host.Outcome State Fault Refusal :=
  .next ((s.advance dt).modFlt fun f => { f with heartbeat := true })
def execAliveResume (dt : Nat) (s : State) : Host.Outcome State Fault Refusal :=
  .next ((s.advance dt).hostWrite 6 (.aliveResume dt) fun s => s.aliveResumeCmd)
def execTrapAck (dt : Nat) (s : State) : Host.Outcome State Fault Refusal :=
  .next ((s.advance dt).hostWrite 6 (.trapAck dt) fun s => s.modFlt fun f => { f with trap := false })
def execLogConsWrite (dt : Nat) (val : BitVec 32) (s : State) : Host.Outcome State Fault Refusal :=
  .next ((s.advance dt).hostWrite 6 (.logConsWrite dt val) fun s => s.writeLogCons val.toNat)
def execInjCmd (dt : Nat) (s : State) : Host.Outcome State Fault Refusal :=
  .next ((s.advance dt).hostWrite 13 (.injCmd dt) fun s => s.injStart)
def execInjectionDelivery (dt : Nat) (s : State) : Host.Outcome State Fault Refusal := .next (s.advance dt).injDeliver

end Sys2Proof.Machine
end

