-- ==== Sys2Proof/Machine/Bringup.lean ====
section
/-!
DEFINITION. Sys2Proof/Machine/Bringup.lean: power-on reset and the bring-up steps (R376 to R384), what the Ledger restores (R329), the
timebase's first lock (R13, R146), the stacks' power states (R388): the DEV and PWR pages.
-/

namespace Sys2Proof.Machine

/-! Power-on reset. -/

/-- An append that power or POR_N cuts off leaves an entry without its COMMIT byte (R328, R329). -/
def State.cutAppend (s : State) : Tab (BitVec 256) :=
  match s.keep.queue, s.nextBlank with
  | a :: _, some i =>
    let e := mkEntry i a.kind s.sec.lc a.obj.toNat a.val.toNat s.t
    Tab.set 0 s.keep.ledger i (BitVec.ofNat 256 (e.toNat % 2 ^ 216))
  | _, _ => s.keep.ledger

/-- POR_N goes low and is recognised: a pulse of less than 100 ns is not, and gives no event (R405; DEDUCED, log 147). Everything returns to its power-on value but what outlives power: the keeper's store, the Ledger, the OTP and the VBAT
domain (R377, R378). PERST_N keeps its level. -/
def State.porAssert (s : State) : State :=
  { State.reset with
    pending := s.pending, now := s.now, freeN := s.freeN, out := s.out
    host := { perst := s.host.perst }
    keep := { ledger := s.cutAppend, kek := s.keep.kek, kekSpent := s.keep.kekSpent, stored := s.keep.stored, worn := s.keep.worn, therm := s.keep.therm, seedCh := s.keep.seedCh,
              seedPath := s.keep.seedPath, unpowered := s.keep.unpowered } }

/-- A failed check of a bring-up step: STEP_FAIL and BRINGUP_STEP with the step's code (R380). -/
def State.stepFails (s : State) (step : Nat) : State :=
  (s.modDev fun d => { d with stepFail := putBit d.stepFail step true }).raiseVal (devSrc 0 0) 0 3 step

/-- POR_N is released: the KEEPER step reads the store. Records that fail their checks: 0 to 135 a slot's seed, 136 + c the switch counts of
cluster c, 144 the thermal history (R169, R192, R379, R380). -/
def State.porRelease (s : State) (bad : List Nat) : State :=
  if !s.dev.porLow then s
  else
    let s1 := (s.modDev fun d => { d with porLow := false, bringup := 0 }).modKeep fun k => { k with
      seedBad := bad.filter fun x => decide (x < 136)
      stored := k.stored.filter fun e => !bad.contains (136 + e.1 / 64)
      worn := k.worn.filter fun e => !bad.contains (136 + e.1 / 64)
      therm := if bad.contains 144 then (0, 0) else k.therm }
    let s2 := s1.each (List.range 8) fun s c => s.modClu c fun x => { x with
      life := (List.range 49).foldl (fun t i => Tab.set 0 t i (Tab.get 0 s.keep.stored (lifeKey c i))) [] }
    let s3 := s2.each (List.range 136) State.loadSeed
    if bad.isEmpty then s3 else s3.stepFails 0

/-- The KEEPER step ends: the mesh detection and the lost sentinel that the VBAT domain holds are noted, and a mesh that still reads open shows in
ACTIVE (R317, R318, R320). The other inputs are not watched without power. -/
def State.keeperEnd (s : State) (u : Unpowered) : State :=
  if s.dev.porLow || s.dev.bringup ≠ 0 then s
  else
    let s1 := s.modKeep fun k => { k with unpowered := putBit (putBit k.unpowered 0 (k.unpowered.getLsbD 0 || u.mesh || u.meshOpen)) 3 u.sentinel }
    (s1.modSec fun x => { x with active := putBit x.active 0 u.meshOpen }).modDev fun d => { d with bringup := 1 }

/-! Fuses and Ledger. -/

/-- Entries in index order up to the first blank one (R329). -/
def State.ledgerRead (s : State) : List (Nat × BitVec 256) := s.keep.ledger.filter fun e => decide (s.nextBlank.all fun b => decide (e.1 < b))

/-- Torn entries are voided by the keeper (R329). -/
def State.voidTorn (s : State) : State :=
  s.each (s.ledgerRead.filter fun e => decide (entryClass e.2 = .torn)) fun s e =>
    s.modKeep fun k => { k with ledger := Tab.set 0 k.ledger e.1 (BitVec.allOnes 256) }

/-- Some entry is bad (R329). -/
def State.ledgerBad (s : State) : Bool := s.ledgerRead.any fun e => decide (entryClass e.2 = .bad)

/-- Slots retired by the Ledger, for a cluster (R196). -/
def State.retiredBits (s : State) (c : Nat) : BitVec 17 :=
  (s.ledgerValid 4).foldl (fun m e => let k := eObj e % 256; if k / 17 = c then putBit m (k % 17) true else m) 0

/-- The effects of the valid entries: life cycle, repairs, retirements, subsystem IDs, ALIVE polarity (R288, R311, R329, R330). -/
def State.applyLedger (s : State) : State :=
  let s1 := s.modSec fun x => { x with lc := match (s.ledgerValid 2).getLast? with | some e => bits (eObj e) 8 8 | none => 0 }
  let s2 := s1.modMem fun m => { m with spare := (s.ledgerValid 3).foldl (fun t e =>
    Tab.set 0 t (bits (eObj e) 16 4 * 16384 + bits (eObj e) 0 14) (eVal e)) [] }
  let s3 := s2.each (List.range 8) fun s c => s.modClu c fun x => { x with retired := s.retiredBits c }
  let s4 := s3.modKeep fun k => { k with
    verified := true
    subsys := match (s.ledgerValid 5).getLast? with | some e => BitVec.ofNat 32 (eVal e) | none => 0x71281F6A }
  s4.modFlt fun f => { f with pol := match (s.ledgerValid 6).getLast? with | some e => bit (eVal e) 0 | none => false }

/-- FUSES_LEDGER ends: fuses and Ledger are applied, ALIVE takes its POL level, the next step begins, the march only once after power-on (R5,
R287, R305, R329, R379, R380, R385). -/
def State.fusesEnd (s : State) (bad0 bad1 : Bool) : State :=
  if s.dev.porLow || s.dev.bringup ≠ 1 then s
  else
    let s1 := if bad0 || bad1 then s.raiseDev 0 2 0 3 else s
    let bad := s1.ledgerBad
    let s2 := if bad then s1.raiseDev 12 0 0 3 else s1
    let s3 := s2.voidTorn.applyLedger
    let s3 := if s3.blanks < 64 then s3.raiseDev 12 3 0 0 else s3
    let s4 := if bad0 || bad1 || bad then s3.stepFails 1 else s3
    let slow : BitVec 2 := if (bad0 && bad1) || Config.slowGrade then 1 else 0
    (s4.modDev fun d => { d with grade := slow, bringup := if s.mem.startupDone then 3 else 2 }).modFlt fun f =>
      { f with alive := some f.pol, cause := 3 }

/-! March, timebase, stacks. -/

/-- The start-up march ends (R287, R380). -/
def State.marchStep (s : State) (fails : BitVec 16) : State :=
  if s.dev.bringup ≠ 2 then s
  else
    let s1 := s.startupMarch fails
    (if fails = 0 then s1 else s1.stepFails 2).modDev fun d => { d with bringup := 3 }

/-- Tamper detections made while unpowered are reported once GT runs, with UNPOWERED = 1 (R318). -/
def State.reportUnpowered (s : State) : State :=
  let m := s.keep.unpowered
  (s.each ((List.range 4).filter fun i => m.getLsbD i) fun s i =>
    s.raiseAt (devSrc 11 i) 0 2 nullShelf (tamperValue (devSrc 11 i) s.t true) s.t).modKeep fun k => { k with unpowered := 0 }

/-- The TIMEBASE step's lock; none comes while the reference is known to be missing (R380): GT and the epoch start at zero, the reaction routes and GT replicas are calibrated (R13, R35, R109, R379). -/
def State.firstLock (s : State) (replicaFail : Bool) : State :=
  if s.dev.bringup ≠ 3 || (s.src (devSrc 2 1)).causes ≠ [] then s
  else
    let s1 := { s with t := 0, gtRun := true }.modRef fun r => { r with locked := true, present := true }
    let s2 := (s1.each (List.range 8) State.calLat).reportUnpowered
    let s3 := if replicaFail then (s2.raiseDev 2 3 0 3).stepFails 3 else s2
    s3.modDev fun d => { d with bringup := 4 }

/-- A stack serves again: what the part itself has had to write there and could not yet is written (R268, R388). -/
def State.stackServes (s : State) (st : Nat) : State := s.each ((List.range 68).map (68 * st + ·)) State.histWrite

/-- A stack has trained, and is zero-filled after power-on, or has failed training (R379, R385). -/
def State.stackUp (s : State) (st : Nat) (fail : Bool) : State :=
  if fail then s.raiseDev 8 (5 + st) 0 3
  else
    let s1 := s.modDev fun d => { d with stk := if st = 0 then (0, d.stk.2) else (d.stk.1, 0) }
    (if s.dev.rerun then s1 else s1.setStack (Memory.zero s1.stackMem (stackBase st) (stackBase (st + 1)))).stackServes st

/-- Causes that have outlived a device reset are detected again (R310). -/
def State.detectAll (s : State) : State := s.each (s.dev.again.map (·.1)).eraseDups State.detectAgain

/-- From SERVICEABLE a window whose switch a device reset left closed reads READY, with STATIC DZ (R385): only such a slot is powered then. -/
def State.leftConnected (s : State) : State :=
  s.each ((List.range 136).filter fun k => (s.slot k).afeOn) fun s k => s.modMd (s.winOf k) fun m => { m with mode := .ready }

/-- The STACKS step ends and the part is SERVICEABLE: ALIVE toggles while the heartbeat is present, held records go to their collectors, and
interrupts that waited go out (R305, R381, R382, R384). -/
def State.serve (s : State) : State :=
  let s1 := s.leftConnected.detectAll.modDev fun d => { d with bringup := 5, rerun := false }
  let s2 := if s1.flt.heartbeat then s1.modFlt fun f => { f with running := true, cause := 0 }
    else (s1.modFlt fun f => { f with cause := 2 }).raiseDev 6 3 0 0
  { s2 with flight := s2.flight ++ s2.heldDet, heldDet := [] }.flushVecs

/-- Both stacks are trained, or have failed (R379, R380). -/
def State.stacksStep (s : State) (fails : BitVec 2) : State :=
  if s.dev.bringup ≠ 4 then s
  else
    let s1 := (s.stackUp 0 (fails.getLsbD 0)).stackUp 1 (fails.getLsbD 1)
    (if fails = 0 then s1 else s1.stepFails 4).serve

/-! Stack power states (R388). -/

def State.stkTarget (s : State) (st : Nat) : Option Nat := if st = 0 then s.dev.stkTo.1 else s.dev.stkTo.2
def State.setStk (s : State) (st v : Nat) (dest : Option Nat) : State :=
  s.modDev fun d => if st = 0 then { d with stk := (v, d.stk.2), stkTo := (dest, d.stkTo.2) } else { d with stk := (d.stk.1, v), stkTo := (d.stkTo.1, dest) }

/-- PWR.STK_RESULT takes a finished command or a refusal, with STK_DONE or STK_REFUSED latched for the host. -/
def State.stkPost (s : State) (st outcome reason : Nat) : State :=
  ((s.modDev fun d => { d with
    stkRes := { d.stkRes.done outcome reason with valid := d.stkTo = (none, none) }, stkWhich := st }).bumpSeq 1).latch 1 (13 + outcome)

/-- A stack is in use (R388). An erase works on a stack only while that is ACTIVE: before, it waits for it (R314, R325). -/
def State.stkInUse (s : State) (st : Nat) : Bool :=
  let clus := (List.range 4).map (4 * st + ·)
  clus.any (fun c => (cluWins c).any s.armedRun || !(s.hv c).stack.isEmpty) || s.marchingStack st ||
    (s.stackOn st && ((match s.sec.erase with | some (some p) => decide (p / 64 = st) | some none => true | none => false) ||
      (match s.sec.trans with | some t => decide (3 ≤ t) | none => false)))

/-- Why a stack command is refused: BUSY 1, IN_USE 2, BAD_STATE 3; 0 nothing (R388). -/
def State.stkFault (s : State) (st dest : Nat) : Nat :=
  if s.dev.bringup ≠ 5 || (s.stkTarget st).isSome then 1
  else if s.stkInUse st then 2
  else if 2 ≤ dest || s.stkState st = dest || s.stkState st = 3 then 3
  else 0

/-- PWR.STK_CMD with GO: 0 ACTIVE, 1 SELF_REFRESH (R388). -/
def State.stkCmd (s : State) (st dest : Nat) : State :=
  let f := s.stkFault st dest
  if f ≠ 0 then s.stkPost st 2 f
  else (s.setStk st 2 (some dest)).modDev fun d => { d with stkRes := d.stkRes.busy }

/-- A stack's change completes (R388). -/
def State.stkEnd (s : State) (st : Nat) : State :=
  match s.stkTarget st with
  | some dest =>
    let s1 := ((s.setStk st dest none).stkPost st 1 0).stackServes st
    if dest = 0 then s1.copyWaiting st else s1
  | none => s

/-! Events and commands. -/

def execPorAssert (dt : Nat) (s : State) : Host.Outcome State Fault Refusal := .next (s.advance dt).porAssert
def execPorRelease (dt : Nat) (badRecords : List Nat) (s : State) : Host.Outcome State Fault Refusal := .next ((s.advance dt).porRelease badRecords)
def execKeeperDone (dt : Nat) (unpowered : Unpowered) (s : State) : Host.Outcome State Fault Refusal := .next ((s.advance dt).keeperEnd unpowered)
def execFusesLedgerDone (dt : Nat) (badCopy0 badCopy1 : Bool) (s : State) : Host.Outcome State Fault Refusal :=
  .next ((s.advance dt).fusesEnd badCopy0 badCopy1)
def execStartupMarchDone (dt : Nat) (fails : BitVec 16) (s : State) : Host.Outcome State Fault Refusal := .next ((s.advance dt).marchStep fails)
def execTimebaseLock (dt : Nat) (replicaFail : Bool) (s : State) : Host.Outcome State Fault Refusal := .next ((s.advance dt).firstLock replicaFail)
def execStacksDone (dt : Nat) (fails : BitVec 2) (s : State) : Host.Outcome State Fault Refusal := .next ((s.advance dt).stacksStep fails)
/-- PERST_N is released (R383). That it goes low again is a conventional reset, PCIE_RESET with LINK_DOWN (R337, R405; DEDUCED, log 148). -/
def execPerstRelease (dt : Nat) (s : State) : Host.Outcome State Fault Refusal :=
  .next ((s.advance dt).modHost fun h => { h with perst := true })
def execStkActive (dt : Nat) (stk : Bool) (s : State) : Host.Outcome State Fault Refusal :=
  .next ((s.advance dt).hostWrite 1 (.stkActive dt stk) fun s => s.stkCmd (b2n stk) 0)
def execStkSelfRefresh (dt : Nat) (stk : Bool) (s : State) : Host.Outcome State Fault Refusal :=
  .next ((s.advance dt).hostWrite 1 (.stkSelfRefresh dt stk) fun s => s.stkCmd (b2n stk) 1)
def execStkChangeDone (dt : Nat) (stk : Bool) (s : State) : Host.Outcome State Fault Refusal := .next ((s.advance dt).stkEnd (b2n stk))

end Sys2Proof.Machine
end

