-- ==== Sys2Proof/Machine/Snapshot.lean ====
section
/-!
DEFINITION. Sys2Proof/Machine/Snapshot.lean: snapshots of counter groups, one page at a time or all at one GT (R342, R367, R375).
-/

namespace Sys2Proof.Machine

/-- The segment a pin plays, and where it stands: shelfmark, KIND, play, offset, STATE (SEQ.SNAP_POS, SNAP_OFS); no segment plays outside
RUN. -/
def State.seqPos (s : State) (w : Nat) : Shelf × Nat × Nat × Nat × Nat :=
  let q := s.sq w
  if !s.running w || !(s.pl w).begun then (nullShelf, 0, 0, 0, if q.loaded then 1 else 0)
  else if (s.ho w).on then (dShelf q.hold0, dKind q.hold0, (s.ho w).pass, (s.ho w).ofs - 1, 3)
  else (dShelf q.cur, dKind q.cur, q.play, q.ofs - 1, if q.landing ≠ 0 then 5 else if q.stop.isSome then 4 else 2)

/-- Snapshot registers of the SEQ page. -/
def State.seqSnap (s : State) (w : Nat) : List (Nat × Nat) :=
  let q := s.sq w
  let (sh, kind, play, ofs, st) := s.seqPos w
  let up := q.stack.reverse
  let vectors := if s.running w && (s.pl w).begun && !(s.ho w).on then (s.pl w).vectors - 1 else (s.pl w).vectors
  [(0x088, pack [(0, 20, sh.toNat), (20, 4, kind), (24, 4, q.stack.length), (28, 3, st), (32, 32, play)]), (0x090, ofs % 2 ^ 32),
   (0x098, gtOf s.t), (0x0A0, epochOf s.t), (0x0A8, pack [(0, 48, vectors), (48, 16, (s.pl w).jumpOvf)])] ++
  (List.range 8).map fun k => (0x0C0 + 4 * k, (up.getD k nullShelf).toNat)

/-- Snapshot registers of the SLU page. -/
def State.sluSnap (s : State) (w : Nat) : List (Nat × Nat) :=
  [(0x088, pack [(0, 48, (s.ho w).held), (48, 16, (s.ho w).underruns)]), (0x090, pack [(0, 48, (s.ik w).committed), (48, 8, (s.ik w).torn)])]

/-- Counters of the MON page (R202). -/
def State.monSnap (s : State) (w : Nat) : List (Nat × Nat) :=
  let m := s.mn w
  let code := fun i => Tab.get 0 m.codes i
  let final := fun i => Tab.get 0 m.hist i
  let two := fun (a b : Nat) => pack [(0, 32, a), (32, 32, b)]
  let (v, t, o, sh) := m.first.getD (0, 0, 0, nullShelf)
  [(0x048, m.compared % 2 ^ 48), (0x050, m.failed % 2 ^ 48), (0x058, pack [(0, 48, v), (48, 16, epochOf t)]), (0x060, gtOf t),
   (0x068, pack [(0, 32, o), (32, 20, sh.toNat), (63, 1, b2n m.first.isSome)]), (0x070, two (code 0) (code 1)), (0x078, two (code 2) (code 3)),
   (0x080, two (code 4) (code 5)), (0x088, two (final 0) (final 1)), (0x090, two (final 2) (final 3)), (0x098, two m.lostV m.lostL),
   (0x0A0, two m.sent m.withheld), (0x0A8, two m.qFail m.qOther)]

/-- Snapshot registers of the ACQ page: counters, and timers in timebase cycles of 256 tq. -/
def State.acqSnap (s : State) (w : Nat) : List (Nat × Nat) :=
  ((List.range 4).map fun j => (0x0C0 + 8 * j, Tab.get 0 (s.en w).cnt j)) ++ (List.range 4).map fun k => (0x0E0 + 8 * k,
    match Tab.get none (s.en w).tmr k with
    | some e => pack [(0, 48, (e - s.t + 255) / 256), (63, 1, 1)]
    | none => 0)

/-- CLU_c.SW_LIFE: live counts, what is not yet stored, wear (R191 to R193). -/
def State.lifeSnap (s : State) (c : Nat) : List (Nat × Nat) :=
  (List.range 49).map fun i =>
    let n := Tab.get 0 (s.clu c).life i
    (0xC00 + 8 * i, pack [(0, 40, n), (40, 16, min 65535 (n - Tab.get 0 s.keep.stored (lifeKey c i))), (63, 1, b2n (s.wearAt c ≤ n))])

/-- Snapshot registers of a page, as (offset, value) now; none where the page has no TAKE (R342). -/
def State.snapWords (s : State) (p : Nat) : Option (List (Nat × Nat)) :=
  let two := fun (k : Nat) => pack [(0, 32, Tab.get 0 s.mem.ecc k), (32, 32, Tab.get 0 s.mem.ecc (k + 1))]
  let met := fun (k : Nat) => pack [(0, 32, Tab.get 0 s.mem.conflict k), (32, 32, Tab.get 0 s.mem.conflict (k + 1))]
  if 0x1000 ≤ p then
    let w := (p - 0x1000) / 16
    if 136 ≤ w then none
    else match p % 16 with
      | 1 => some (s.seqSnap w)
      | 2 => some (s.sluSnap w)
      | 3 => some [(0x0A0, pack [(0, 32, s.droppedNow w), (32, 16, (s.tm w).clipped)])]
      | 8 => some [(0x078, pack [(0, 32, (s.st w).stamps), (32, 32, (s.st w).lostAll)]),
                   (0x080, pack [(0, 32, (s.st w).mergedAll), (32, 32, (s.st w).tsEmpty)])]
      | 9 => some (s.acqSnap w)
      | 11 => some (s.monSnap w)
      | _ => none
  else if 0x10 ≤ p then (if p < 0x18 then some (s.lifeSnap (p - 0x10)) else none)
  else match p with
    | 2 => some [(0x060, gtOf s.t), (0x068, epochOf s.t)]
    | 8 => some [(0x060, two 0), (0x068, two 2)]
    | 9 => some (((List.range 96).map fun i => (0x400 + 0x40 * (i / 6) + 8 * (i % 6),
          met (i / 6 * 16 + 2 * (i % 6)))) ++
        (List.range 16).map fun b => (0x800 + 8 * b, two (16 + 2 * b)))
    | _ => none

/-- What a snapshot register reads before its first snapshot. -/
def snapReset (a : Nat) : Word :=
  if 0x1000 ≤ a / 0x1000 && a / 0x1000 % 16 = 1 && (a % 0x1000 = 0x088 || 0x0C0 ≤ a % 0x1000) then 0xFFFFF
  else if 0x1000 ≤ a / 0x1000 && a / 0x1000 % 16 = 11 && a % 0x1000 = 0x068 then 0xFFFFF00000000
  else 0

/-- Snapshot state of a page. -/
def State.snapOf (s : State) (p : Nat) : SnapSt := Tab.get {} s.snapSt p

/-- WAITS of every bank and master takes the accesses that have waited since the last snapshot, and saturates (R280). How many is a free value
(log 86). -/
def State.countWaits (s : State) : State :=
  (s.modMem fun m => { m with conflict := (List.range 96).foldl (fun t i =>
    let k := i / 6 * 16 + 2 * (i % 6)
    Tab.set 0 t k (satAdd (2 ^ 32 - 1) (Tab.get 0 t k) (Config.waits (i / 6) (i % 6) s.freeN).toNat)) m.conflict }).draw.2

/-- What has reached a page by now is counted before its counters are copied: jump requests on a SEQ page (R99), WAITS on the WST page
(R280). -/
def State.settled (s : State) (p : Nat) : State :=
  if 0x1000 ≤ p && p % 16 = 1 then s.jumpDue ((p - 0x1000) / 16) else if p = 9 then s.countWaits else s

/-- A TAKE starts copying a page's counters; while a copy is in progress it is merged into it (R342). -/
def State.take (s : State) (p : Nat) : State :=
  if (s.snapOf p).copy.isSome then s
  else
    let s1 := s.settled p
    match s1.snapWords p with
    | none => s1
    | some ws => { s1 with snapSt := Tab.set {} s1.snapSt p { s1.snapOf p with
        valid := false, copy := some (ws.map fun (x : Nat × Nat) => (pageAddr p x.1, BitVec.ofNat 64 x.2)) } }

/-- Every page with a TAKE register. -/
def snapPages : List Nat :=
  [2, 8, 9] ++ (List.range 8).map cluPage ++ (List.range 136).flatMap fun w => [1, 2, 3, 8, 9, 11].map (winPage w)

/-- DEV.SNAP_ALL: every page's TAKE at one GT; merged into one in progress (R342, R375). -/
def State.takeAll (s : State) : State :=
  if s.dev.snapBusy && s.copying then s
  else (s.each snapPages State.take).modDev fun d => { d with snapT := s.t, snapBusy := true, snapValid := false }

/-- A page's copy completes; the device-wide snapshot completes with the last of them (R342, R367, R375). -/
def State.copied (s : State) (p : Nat) : State :=
  match (s.snapOf p).copy with
  | none => s
  | some ws =>
    (State.bumpSeq { s with
      snaps := ws.foldl (fun t (x : Nat × Word) => Tab.set (snapReset x.1) t x.1 x.2) s.snaps
      snapSt := Tab.set {} s.snapSt p { seq := (s.snapOf p).seq + 1, valid := true, copy := none } } p).snapFinish

def execSnapTake (dt : Nat) (page : PageId) (s : State) : Host.Outcome State Fault Refusal :=
  .next ((s.advance dt).hostWrite page.val (.snapTake dt page) fun s => s.take page.val)
def execSnapDone (dt : Nat) (page : PageId) (s : State) : Host.Outcome State Fault Refusal := .next ((s.advance dt).copied page.val)
def execSnapAll (dt : Nat) (s : State) : Host.Outcome State Fault Refusal :=
  .next ((s.advance dt).hostWrite 0 (.snapAll dt) fun s => s.takeAll)

end Sys2Proof.Machine
end

