-- ==== Sys2Proof/Machine/BusWrite.lean ====
section
/-!
DEFINITION. Sys2Proof/Machine/BusWrite.lean: BAR 0 writes by address (R339, R360 to R368, R373), PG_EVT, DEV.COMMIT and the end of
a reset, which lets held writes go (R341, R370, R374).
-/

namespace Sys2Proof.Machine

/-- A register that holds what the host writes, at its writable bits (R368); a register without any takes no effect. -/
def State.writePlain (s : State) (addr v : Nat) : State :=
  match regAt addr with
  | some r => if r.mask = 0 then s else s.setReg addr (v &&& r.mask)
  | none => s

/-- A free contact-check value: a plain register write carries none (log entry 5). -/
def State.drawCheck (s : State) : BitVec 16 × State :=
  let d := s.draw
  (d.1.setWidth 16, d.2)

/-- Free contact-check values for `n` windows, two for each; the hold words of a plain write's ARM are found good. -/
def State.drawChecks (s : State) : Nat → List (BitVec 16 × BitVec 16 × ArmReads) × State
  | 0 => ([], s)
  | n + 1 =>
    let d := s.drawCheck
    let e := d.2.drawCheck
    let r := e.2.drawChecks n
    ((d.1, e.1, {}) :: r.1, r.2)

/-! Pages of a channel window. -/

/-- Writes of the SEQ page. -/
def State.writeSeqPage (s : State) (w off v : Nat) : State :=
  match off with
  | 0x048 => s.setHostFlags w v
  | 0x04C => s.setHostFlags w (s.hostFlags w ||| v % 256)
  | 0x050 => s.setHostFlags w (s.hostFlags w &&& (255 - v % 256))
  | 0x060 => s.writeJumpTgt w 0 v
  | 0x064 => s.writeJumpTgt w 1 v
  | 0x068 => s.writeJumpTgt w 2 v
  | 0x06C => s.writeJumpTgt w 3 v
  | 0x074 => if bit v 8 then s.jumpRequest w (bits v 0 2) s.t else s
  | 0x078 => if bit v 0 then s.clearJumps w else s
  | 0x080 => if bit v 0 then s.take (winPage w 1) else s
  | _ => s.writePlain (pageAddr (winPage w 1) off) v

/-- Writes of the SLU page. -/
def State.writeSluPage (s : State) (w off v : Nat) : State :=
  match off with
  | 0x040 => s.writeSluCfg w v
  | 0x048 => s.writeStreamRing w v
  | 0x050 => s.writeIntRing w v
  | 0x060 => s.writeIntProd w v
  | 0x080 => if bit v 0 then s.take (winPage w 2) else s
  | _ => s.writePlain (pageAddr (winPage w 2) off) v

/-- Writes of the TIM page. TIM.DRIFT is a field of the slot. -/
def State.writeTimPage (s : State) (w off v : Nat) : State :=
  match off with
  | 0x040 => if bit v 8 then s.stage w (bits v 0 2) else s
  | 0x060 =>
    if bit v 8 then
      (match bits v 0 2 with | 0 => s.calRefuse w 6 | 3 => s.calRestore w | op => s.calStart w op)
    else s
  | 0x088 => s.writeCalPath w v
  | 0x090 => s.writeDrift w v
  | 0x098 => if bit v 0 then s.take (winPage w 3) else s
  | _ => s.writePlain (pageAddr (winPage w 3) off) v

/-- Writes of the AFE page. -/
def State.writeAfePage (s : State) (w off v : Nat) : State :=
  match off with
  | 0x040 => s.writeLevel w .drv v
  | 0x048 => s.writeLevel w .cmp v
  | 0x050 => s.writeTerm w v
  | 0x054 => s.writeLevel w .bleed v
  | 0x060 =>
    if bit v 8 then
      let d := s.drawCheck
      d.2.swCmd w (bits v 0 2) d.1
    else s
  | _ => s.writePlain (pageAddr (winPage w 5) off) v

/-- Writes of the PMU page. -/
def State.writePmuPage (s : State) (w off v : Nat) : State :=
  match off with
  | 0x040 => s.writePmuCfg w v
  | 0x044 => s.writePmuForce w v
  | 0x048 => s.writePmuClamp w v
  | 0x050 => s.writePmuThresh w v
  | 0x060 => if bit v 17 then s.pmuMeas w (bits v 0 16) (bit v 16) else s
  | _ => s.writePlain (pageAddr (winPage w 6) off) v

/-- Writes of the STP page. -/
def State.writeStpPage (s : State) (w off v : Nat) : State :=
  match off with
  | 0x040 => s.writeStpCfg w v
  | 0x044 => s.writeStpLimit w v
  | 0x048 => if bit v 8 then s.stpCmd w (bits v 0 2) else s
  | 0x068 => s.writeStpWm w v
  | 0x070 => if bit v 0 then s.take (winPage w 8) else s
  | _ => s.writePlain (pageAddr (winPage w 8) off) v

/-- Registers of the ACQ page that the engine reads as it runs. -/
def engReg (off : Nat) : Bool :=
  off = 0x040 || off = 0x050 || off = 0x054 || (0x100 ≤ off && off < 0x160) || (0x400 ≤ off && off < 0x500)

/-- Writes of the ACQ page. -/
def State.writeAcqPage (s : State) (w off v : Nat) : State :=
  match off with
  | 0x044 => if bit v 8 then s.engCmd w (bits v 0 2) else s
  | 0x058 => if bit v 8 then s.hostEvent w (bits v 0 3) else s
  | 0x060 => s.writeRedCfg w v
  | 0x064 => if bit v 8 then s.redCmd w (bits v 0 2) else s
  | 0x080 => s.writeWinCfg w v
  | 0x088 => if bit v 8 then s.winCmd w (bits v 0 2) else s
  | 0x0B0 => if bit v 0 then s.take (winPage w 9) else s
  | _ => if engReg off then s.writeEngReg w off v else s.writePlain (pageAddr (winPage w 9) off) v

/-- The first-fault latch, CLR, REACT and COMPAT registers of a collector, whose arrays start at the given offsets. -/
def State.writeFltRegs (s : State) (col : Collector) (src : Nat → Nat) (first clr react compat n off v : Nat) : State :=
  if off = first then (if bit v 63 then s.emptyFirst col else s)
  else if clr ≤ off && off < clr + 4 * n then
    s.clearSrc (src ((off - clr) / 4)) (BitVec.ofNat 4 v) (BitVec.ofNat 16 (bits v 8 16))
  else if react ≤ off && off < react + 4 * n then s.writeReact (src ((off - react) / 4)) v
  else if compat ≤ off && off < compat + 4 * n then s.writeCompat (src ((off - compat) / 4)) v
  else s

/-- A write of page `q` of window `w` (R362). -/
def State.writeWindow (s : State) (w : WinId) (q off v : Nat) : State :=
  match q with
  | 0 => if off = 0x04C then s.writeReadyDrive w v else s
  | 1 => s.writeSeqPage w off v
  | 2 => s.writeSluPage w off v
  | 3 => s.writeTimPage w off v
  | 4 => s.writePlain (pageAddr (winPage w 4) off) v
  | 5 => s.writeAfePage w off v
  | 6 => s.writePmuPage w off v
  | 7 => if off = 0x044 then s.writeCapArea w v else s.writePlain (pageAddr (winPage w 7) off) v
  | 8 => s.writeStpPage w off v
  | 9 => s.writeAcqPage w off v
  | 10 =>
    let k := s.slotOf w
    if h : k < 136 then s.writeFltRegs (.slot ⟨k, h⟩) (chSrc k) 0x048 0x0E0 0x110 0x140 12 off v else s
  | 11 => if off = 0x040 && bit v 0 then s.take (winPage w 11) else s
  | _ => s

/-! Cluster pages. -/

/-- A write of CLU_c, MODE_BCAST apart. -/
def State.writeCluster (s : State) (c : CluId) (off v : Nat) : State :=
  match off with
  | 0x040 => if bit v 0 then s.afeReqOn c else s.afeReqOff c
  | 0x908 => if bit v 8 then s.swapCmd c (bits v 0 4) else s
  | 0x910 => if bit v 28 then s.retire c else s
  | 0x914 => if bit v 0 then s.swFlushStart c else s
  | 0x91C => if bit v 0 then s.take (cluPage c) else s
  | _ =>
    if 0x400 ≤ off && off < 0x800 then s.writeRoute c ((off - 0x400) / 4) v
    else if 0x800 ≤ off && off < 0x820 then s.writeExport c ((off - 0x800) / 4) v
    else if 0xA00 ≤ off && off < 0xC00 then s.writeFltRegs (.clu c) (cluSrc c) 0xA08 0xAA0 0xAD0 0xB00 12 off v
    else s.writePlain (pageAddr (cluPage c) off) v

/-! Device pages. -/

/-- A write of DEV.COMMIT arrives and waits behind everything before it (R341). -/
def State.commitArrive (s : State) : State := { s with held := s.held ++ [.commit] }

/-- Writes of the DEV page. A plain RESET_CMD write carries no contact-check values: sound channels measure 0 (R385). -/
def State.writeDevPage (s : State) (off v : Nat) : State :=
  match off with
  | 0x060 => if bit v 0 then s.commitArrive else s
  | 0x070 => if bit v 0 then s.resetCmd (bits v 16 16) [] else s
  | 0x088 => if bit v 0 then s.takeAll else s
  | _ => s

/-- Writes of the PWR page. -/
def State.writePwrPage (s : State) (off v : Nat) : State :=
  if off = 0x048 then (if bit v 8 then s.stkCmd (bits v 0 1) (bits v 4 2) else s)
  else if 0x0C0 ≤ off && off < 0x0E0 then s.writeHrCfg ((off - 0x0C0) / 4) v
  else s

/-- The offset by which a plain ALIGN write steps GT: free (log entry 5). -/
def State.alignDrawn (s : State) : State :=
  let d := s.draw
  d.2.alignGt d.1.toInt

/-- Writes of the SYN page. -/
def State.writeSynPage (s : State) (off v : Nat) : State :=
  let s := s.linkDue
  match off with
  | 0x060 => if bit v 8 then s.hostPulse (bits v 0 3) (bits v 16 16) else s
  | 0x0A0 =>
    let s1 := if bit v 0 then s.acceptStart s.t none else s
    if bit v 1 then s1.acceptStopEvent s1.t none else s1
  | 0x100 => s.writeNywCfg v
  | 0x104 =>
    if bit v 8 then (match bits v 0 2 with | 1 => s.alignDrawn | 2 => s.retrain | _ => s.nywPost 2 4) else s
  | 0x1C0 => if bit v 8 then s.linkJump (bits v 0 2) (bits v 4 2) s.t else s
  | _ => if 0x040 ≤ off && off < 0x060 then s.writeTrigCfg ((off - 0x040) / 4) v else s.writePlain (pageAddr 3 off) v

/-- Writes of the HST page. -/
def State.writeHstPage (s : State) (off v : Nat) : State :=
  if off = 0x050 then s.writeBar2Win v
  else if 0x400 ≤ off && off < 0x600 then
    let c := (off - 0x400) / 0x40
    match (off - 0x400) % 0x40 with
    | 0x00 => s.writeHvsRing c v
    | 0x14 => s.writeCons c v
    | 0x18 => s.writeHvsWm c v
    | 0x28 => s.writeHvsSwm c v
    | _ => s.writePlain (pageAddr 4 off) v
  else s.writePlain (pageAddr 4 off) v

/-- Writes of the FLT page. -/
def State.writeFltPage (s : State) (off v : Nat) : State :=
  match off with
  | 0x060 => (s.writeDiv (bits v 0 10)).writePol (bit v 16)
  | 0x064 => if bit v 0 then s.aliveResumeCmd else s
  | 0x070 => if bit v 0 then s.modFlt fun f => { f with trap := false } else s
  | 0x084 => s.writeLogCons v
  | 0x088 => s.writeLogWm v
  | _ => s.writeFltRegs .dev devOfJ 0x050 0x640 0x760 0x880 72 off v

/-- Writes of the MCH page. -/
def State.writeMchPage (s : State) (off v : Nat) : State :=
  match off with
  | 0x040 => s.writeMarchCfg v
  | 0x048 => if bit v 8 then (match bits v 0 2 with | 1 => s.marchStartCmd | 2 => s.marchAbortCmd | _ => s) else s
  | 0x068 => if bit v 24 then s.repairStart (bits v 16 4) (bits v 0 14) else s
  | _ => s

/-- Writes of the SEC page. -/
def State.writeSecPage (s : State) (off v : Nat) : State :=
  if off = 0x044 then (if bit v 8 then s.lcRequest (bits v 0 3) (bits v 16 16) else s)
  else if 0x060 ≤ off && off < 0x080 then s.writeKek ((off - 0x060) / 4) v
  else if off = 0x080 then (if bit v 16 then s.keyCmd (bits v 8 2) (bits v 0 6) else s)
  else if 0x0A0 ≤ off && off < 0x0C8 then s.writeKeyData ((off - 0x0A0) / 4) v
  else if off = 0x0E8 then s.storeWord (BitVec.ofNat 64 v)
  else if off = 0x100 then (if bit v 8 then s.eraseStart (if bit v 7 then none else some (bits v 0 7)) else s)
  else s.writePlain (pageAddr 11 off) v

/-- A write of device page `p` (R361). -/
def State.writeDevice (s : State) (p off v : Nat) : State :=
  match p with
  | 0 => s.writeDevPage off v
  | 1 => s.writePwrPage off v
  | 2 => if off = 0x058 && bit v 0 then s.take 2 else s
  | 3 => s.writeSynPage off v
  | 4 => s.writeHstPage off v
  | 5 => if off = 0x040 then s.writeTrapAddr v else s.writePlain (pageAddr 5 off) v
  | 6 => s.writeFltPage off v
  | 8 => if off = 0x040 then s.writeScrubCfg v else if off = 0x058 && bit v 0 then s.take 8 else s
  | 9 =>
    if off = 0x040 then (if bit v 16 then s.bankCmd (bits v 0 4) (bits v 8 2) else s)
    else if off = 0x060 && bit v 0 then s.take 9 else s
  | 10 => s.writeMchPage off v
  | 11 => s.writeSecPage off v
  | 12 => if off = 0x050 then s.writeSubsys v else s.writePlain (pageAddr 12 off) v
  | 13 => if off = 0x048 then (if bit v 8 then s.injStart else s) else s.writePlain (pageAddr 13 off) v
  | _ => s

/-! All of BAR 0. -/

/-- A write of the page header (R364, R365, R366). -/
def State.writeHeader (s : State) (p off v : Nat) : State :=
  match off with
  | 0x010 =>
    let s1 := if p = 14 then s.setReg (pageAddr 14 0x010) (v % 2) else s
    if bit v 1 then s1.startReset p else s1
  | 0x014 => s.clearEvt p (BitVec.ofNat 32 v)
  | _ => s.writePlain (pageAddr p off) v

/-- A well-formed write of the register at `addr` (R360 to R368). -/
def State.regAct (s : State) (addr v : Nat) : State :=
  let p := addr / 0x1000
  let off := addr % 0x1000
  if off < 0x40 then s.writeHeader p off v
  else if h : 0x1000 ≤ p ∧ p < 0x1880 then s.writeWindow ⟨(p - 0x1000) / 16, by omega⟩ (p % 16) off v
  else if h : 0x10 ≤ p ∧ p < 0x18 then s.writeCluster ⟨p - 0x10, by omega⟩ off v
  else s.writeDevice p off v

/-- A BAR 0 write that covers no register exactly is dropped and counted (R339). -/
def State.bar0Lost (s : State) : State := s.modHost fun h => { h with bar0Drop := satInc 65535 h.bar0Drop }

/-- A BAR 0 write: the MSI-X table, the pending-bit array, a register it covers exactly, or dropped (R338, R339). -/
def State.bar0Write (s : State) (addr size : Nat) (v : Word) : State :=
  let p := addr / 0x1000
  let off := addr % 0x1000
  if p = 0x80 && (size = 4 || size = 8) && addr % size = 0 then
    let s1 := s.writeMsix off (v.setWidth 32)
    if size = 8 then s1.writeMsix (off + 4) (BitVec.ofNat 32 (v.toNat / 2 ^ 32)) else s1
  else if p = 0x81 && off < 0x20 && (size = 4 || size = 8) && addr % size = 0 then s
  else match regAt addr with
    | some r => if r.size = size && addr % size = 0 then s.regAct addr (if size = 4 then v.toNat % 2 ^ 32 else v.toNat) else s.bar0Lost
    | none => s.bar0Lost

/-- CTL.MODE_CMD of window `w` as a plain write: contact checks are free, and no word copied for the holding pattern is bad. -/
def State.modeRegWrite (s : State) (w : WinId) (v : Nat) : State :=
  let code := bits v 0 4
  let tag : Byte := BitVec.ofNat 8 (bits v 8 8)
  if code = 0 then s.earlyLost
  else
    let d := s.drawCheck
    let e := d.2.drawCheck
    e.2.modeArrive w code tag (modeInstr 0 w code tag d.1 e.1 {}) fun s => s.modeCmd w code tag d.1 e.1 {}

/-- CLU_c.MODE_BCAST as a plain write. -/
def State.bcastRegWrite (s : State) (c : CluId) (v : Nat) : State :=
  let d := s.drawChecks 17
  d.2.broadcast c (bits v 0 4) (BitVec.ofNat 8 (bits v 8 8)) (BitVec.ofNat 17 (bits v 32 17)) d.1

/-- A BAR 0 write of `size` bytes. Mode commands have their own rule of arrival (R53, R55, R57); a PG_CTL.BLK_RST of the reset that runs adds nothing
(R365). -/
def State.regWriteAt (s : State) (addr : BitVec 25) (size : Nat) (v : Word) : State :=
  let a := addr.toNat
  let p := a / 0x1000
  if h : 0x1000 ≤ p ∧ p < 0x1880 ∧ p % 16 = 0 ∧ a % 0x1000 = 0x040 ∧ size = 4 then
    s.modeRegWrite ⟨(p - 0x1000) / 16, by omega⟩ (v.toNat % 2 ^ 32)
  else if h : 0x10 ≤ p ∧ p < 0x18 ∧ a % 0x1000 = 0x048 ∧ size = 8 then s.bcastRegWrite ⟨p - 0x10, by omega⟩ v.toNat
  else
    let v := if a % 0x1000 = 0x010 && s.dev.resets.contains p then v &&& ~~~2 else v
    s.hostWrite p (.regWrite 0 addr size v) fun s => s.bar0Write a size v

def execRegWrite (dt : Nat) (addr : BitVec 25) (size : Nat) (data : Word) (s : State) : Host.Outcome State Fault Refusal :=
  .next ((s.advance dt).regWriteAt addr size data)
def execPgEvtClear (dt : Nat) (page : PageId) (mask : BitVec 32) (s : State) : Host.Outcome State Fault Refusal :=
  .next ((s.advance dt).hostWrite page.val (.pgEvtClear dt page mask) fun s => if pageExists page.val then s.clearEvt page.val mask else s)
def execCommit (dt : Nat) (s : State) : Host.Outcome State Fault Refusal :=
  .next ((s.advance dt).hostWrite 0 (.commit dt) fun s => s.commitArrive)

/-! Held writes go. -/

/-- The state after a meaning that always goes on. -/
def landed (s : State) : Host.Outcome State Fault Refusal → State
  | .next t => t
  | _ => s

/-- A held write takes effect, at the time its hold ends. -/
def runHeld (i : Instr) (s : State) : State :=
  match i with
  | .powerOff _ w tag check => landed s (execPowerOff 0 w tag check s)
  | .park _ w tag check => landed s (execPark 0 w tag check s)
  | .connect _ w tag check calCheck => landed s (execConnect 0 w tag check calCheck s)
  | .arm _ w tag reads => landed s (execArm 0 w tag reads s)
  | .disarm _ w tag => landed s (execDisarm 0 w tag s)
  | .start _ w tag => landed s (execStart 0 w tag s)
  | .stop _ w tag => landed s (execStop 0 w tag s)
  | .service _ w tag check => landed s (execService 0 w tag check s)
  | .modeCmdReserved _ w code tag => landed s (execModeCmdReserved 0 w code tag s)
  | .readyDriveWrite _ w val => landed s (execReadyDriveWrite 0 w val s)
  | .afePwrReqOn _ c => landed s (execAfePwrReqOn 0 c s)
  | .afePwrReqOff _ c => landed s (execAfePwrReqOff 0 c s)
  | .jumpReq _ w slot => landed s (execJumpReq 0 w slot s)
  | .jumpClr _ w => landed s (execJumpClr 0 w s)
  | .jumpTgtWrite _ w k val => landed s (execJumpTgtWrite 0 w k val s)
  | .hostFlagWrite _ w val => landed s (execHostFlagWrite 0 w val s)
  | .hostFlagSet _ w val => landed s (execHostFlagSet 0 w val s)
  | .hostFlagClr _ w val => landed s (execHostFlagClr 0 w val s)
  | .fabRouteWrite _ c i val => landed s (execFabRouteWrite 0 c i val s)
  | .fabExportWrite _ c e val => landed s (execFabExportWrite 0 c e val s)
  | .intProdWrite _ w val => landed s (execIntProdWrite 0 w val s)
  | .intRingWrite _ w val => landed s (execIntRingWrite 0 w val s)
  | .sluCfgWrite _ w val => landed s (execSluCfgWrite 0 w val s)
  | .stageCmd _ w point => landed s (execStageCmd 0 w point s)
  | .calMeasure _ w => landed s (execCalMeasure 0 w s)
  | .calMeasureApply _ w => landed s (execCalMeasureApply 0 w s)
  | .restoreSeed _ w => landed s (execRestoreSeed 0 w s)
  | .calPathWrite _ w val => landed s (execCalPathWrite 0 w val s)
  | .levelWrite _ w reg val => landed s (execLevelWrite 0 w reg val s)
  | .termWrite _ w val => landed s (execTermWrite 0 w val s)
  | .pmuCfgWrite _ w val => landed s (execPmuCfgWrite 0 w val s)
  | .pmuMeasCmd _ w n wait => landed s (execPmuMeasCmd 0 w n wait s)
  | .closeCal _ w check => landed s (execCloseCal 0 w check s)
  | .openCal _ w check => landed s (execOpenCal 0 w check s)
  | .swFlush _ c => landed s (execSwFlush 0 c s)
  | .swap _ c pos => landed s (execSwap 0 c pos s)
  | .retire _ c => landed s (execRetire 0 c s)
  | .hvsConsWrite _ c val => landed s (execHvsConsWrite 0 c val s)
  | .hvsRingWrite _ c val => landed s (execHvsRingWrite 0 c val s)
  | .capAreaWrite _ w val => landed s (execCapAreaWrite 0 w val s)
  | .stampArm _ w => landed s (execStampArm 0 w s)
  | .stampDisarm _ w => landed s (execStampDisarm 0 w s)
  | .engineStart _ w => landed s (execEngineStart 0 w s)
  | .engineStop _ w => landed s (execEngineStop 0 w s)
  | .hostEvt _ w sel => landed s (execHostEvt 0 w sel s)
  | .redArm _ w => landed s (execRedArm 0 w s)
  | .redDisarm _ w => landed s (execRedDisarm 0 w s)
  | .winArm _ w => landed s (execWinArm 0 w s)
  | .winAbandon _ w => landed s (execWinAbandon 0 w s)
  | .bankOn _ b => landed s (execBankOn 0 b s)
  | .bankRetention _ b => landed s (execBankRetention 0 b s)
  | .bankOff _ b => landed s (execBankOff 0 b s)
  | .marchStart _ => landed s (execMarchStart 0 s)
  | .marchAbort _ => landed s (execMarchAbort 0 s)
  | .repairCmd _ b col => landed s (execRepairCmd 0 b col s)
  | .bar4Write _ off data found => landed s (execBar4Write 0 off data found s)
  | .regWrite _ addr size data => landed s (execRegWrite 0 addr size data s)
  | .pgEvtClear _ page mask => landed s (execPgEvtClear 0 page mask s)
  | .srcClr _ src ack seq => landed s (execSrcClr 0 src ack seq s)
  | .reactWrite _ src val => landed s (execReactWrite 0 src val s)
  | .compatWrite _ src val => landed s (execCompatWrite 0 src val s)
  | .firstLatchClear _ col => landed s (execFirstLatchClear 0 col s)
  | .aliveResume _ => landed s (execAliveResume 0 s)
  | .trapAck _ => landed s (execTrapAck 0 s)
  | .logConsWrite _ val => landed s (execLogConsWrite 0 val s)
  | .injCmd _ => landed s (execInjCmd 0 s)
  | .msixUnmask _ vec => landed s (execMsixUnmask 0 vec s)
  | .lcCmd _ target confirm => landed s (execLcCmd 0 target confirm s)
  | .loadPlain _ slot => landed s (execLoadPlain 0 slot s)
  | .loadWrapped _ slot => landed s (execLoadWrapped 0 slot s)
  | .keyClear _ slot => landed s (execKeyClear 0 slot s)
  | .storeWrite _ val => landed s (execStoreWrite 0 val s)
  | .eraseCmd _ pin all => landed s (execEraseCmd 0 pin all s)
  | .subsysWrite _ val => landed s (execSubsysWrite 0 val s)
  | .alivePolWrite _ pol => landed s (execAlivePolWrite 0 pol s)
  | .bar2WinWrite _ val => landed s (execBar2WinWrite 0 val s)
  | .commit _ => landed s (execCommit 0 s)
  | .snapTake _ page => landed s (execSnapTake 0 page s)
  | .snapAll _ => landed s (execSnapAll 0 s)
  | .trigCmd _ line width => landed s (execTrigCmd 0 line width s)
  | .evtStart _ => landed s (execEvtStart 0 s)
  | .evtStop _ => landed s (execEvtStop 0 s)
  | .align _ offset => landed s (execAlign 0 offset s)
  | .nywRetrain _ => landed s (execNywRetrain 0 s)
  | .nywJumpCmd _ ch slot => landed s (execNywJumpCmd 0 ch slot s)
  | .blkRst _ page => landed s (execBlkRst 0 page s)
  | .resetCmd _ confirm checks => landed s (execResetCmd 0 confirm checks s)
  | .stkActive _ stk => landed s (execStkActive 0 stk s)
  | .stkSelfRefresh _ stk => landed s (execStkSelfRefresh 0 stk s)
  | _ => s

/-- Held writes take effect in order up to the next commit; one whose stream is still held waits on (R341, R370). -/
def replay : List Held → State → State
  | [], s => s
  | .write _ i :: r, s => replay r (runHeld i s)
  | .bar2 base off data ecc :: r, s => replay r (s.hostHeldWrite bar2Stream (.bar2 base off data ecc) fun s => s.bar2Store base off data ecc)
  | .commit :: r, s => { s with held := s.held ++ .commit :: r }

/-- What was held is taken out and goes as far as it may. -/
def State.release (s : State) : State := replay s.held { s with held := [] }

/-- A commit takes effect once everything before it has (R341, R374). -/
def State.commitNow (s : State) : State :=
  match s.held with
  | .commit :: r => ({ s with held := r }.modDev fun d => { d with commitSeq := d.commitSeq + 1 }).release
  | _ => s

/-- A reset is over: the device reset has returned the registers (page 0), or a page's reset ends and its writes go (R370). -/
def State.resetOver (s : State) (p : Nat) : State :=
  if p = 0 then s.modDev fun d => { d with regPhase := false }
  else if s.dev.resets.contains p then (s.endReset p).release
  else s

def execCommitDone (dt : Nat) (s : State) : Host.Outcome State Fault Refusal := .next (s.advance dt).commitNow
def execResetDone (dt : Nat) (page : PageId) (s : State) : Host.Outcome State Fault Refusal := .next ((s.advance dt).resetOver page.val)

end Sys2Proof.Machine
end

