-- ==== Sys2Proof/Machine/Flags.lean ====
section
/-!
DEFINITION. Sys2Proof/Machine/Flags.lean: status that summarises the state: PEND bits and status words (R299), the fault state, PG_STAT
(R42, R364, R370), the HOLDOFF outputs (R145), TRAP_N and ALIVE (R305, R306).
-/

namespace Sys2Proof.Machine

/-- Some PEND bit of the source is set (R299). -/
def State.pending1 (s : State) (src : Nat) : Bool := decide ((s.src src).pend ≠ 0)

/-- PEND_C, PEND_U or PEND_F of the source is set (R299). -/
def State.faulty (s : State) (src : Nat) : Bool := decide ((s.src src).pend &&& 0xE ≠ 0)

/-- COND of the source: its cause persists (R299). -/
def State.condOf (s : State) (src : Nat) : Bool := !(s.src src).causes.isEmpty

/-- A SRC_STAT register (FLT.SRC_STAT). -/
def State.srcStat (s : State) (src : Nat) : Nat :=
  let x := s.src src
  pack [(0, 4, x.pend.toNat), (4, 1, b2n (s.condOf src)), (5, 1, b2n x.mf), (6, 1, b2n x.conseq), (7, 1, b2n x.inj),
    (8, 16, x.seq.toNat), (32, 32, x.count)]

/-- The bits of a list of flags, the first lowest. -/
def flagWord : List Bool → Nat
  | [] => 0
  | b :: r => b2n b + 2 * flagWord r

/-- Channel word of a slot (R299). -/
def State.chWord (s : State) (k : Nat) : Nat := flagWord ((List.range 12).map fun i => s.pending1 (chSrc k i))

/-- Cluster word (R299). -/
def State.cluWord (s : State) (c : Nat) : Nat :=
  flagWord (((List.range 17).map fun i => decide (s.chWord (17 * c + i) ≠ 0)) ++ (List.range 12).map fun i => s.pending1 (cluSrc c i))

/-- Device word (R299). -/
def State.devWord (s : State) : Nat :=
  flagWord (((List.range 8).map fun c => decide (s.cluWord c ≠ 0)) ++
    (List.range 15).map fun p => (List.range (devFirst p).2).any fun i => s.pending1 (devSrc p i))

/-- Sources that belong to a page (R299). -/
def State.pageSrcs (s : State) (p : Nat) : List Nat :=
  if 0x1000 ≤ p then
    let w := (p - 0x1000) / 16
    ((List.range 12).filter fun i => decide (chPage i = p % 16)).map (chSrc (s.slotOf w))
  else if 0x10 ≤ p then (List.range 12).map (cluSrc (p - 0x10))
  else (List.range (devFirst p).2).map (devSrc p)

/-- PG_STAT.FAULT (R299). -/
def State.pgFault (s : State) (p : Nat) : Bool := (s.pageSrcs p).any s.faulty

/-- PG_STAT.BUSY through a reset of the page (R370). -/
def State.pgInReset (s : State) (p : Nat) : Bool := s.pageHeld p || s.dev.regPhase

/-- The device is in the fault state (R299). -/
def State.inFault (s : State) : Bool :=
  ((List.range 136).any fun k => (List.range 12).any fun i => s.faulty (chSrc k i)) ||
    ((List.range 8).any fun c => (List.range 12).any fun i => s.faulty (cluSrc c i)) ||
    (List.range 72).any fun j => s.faulty (devOfJ j)

/-- MODE as CTL.MODE_STAT and PG_STAT encode it (R42). -/
def modeCode : Mode → Nat
  | .off => 0 | .parked => 1 | .ready => 2 | .armed => 3 | .run => 4 | .service => 5

/-- PG_STAT.MODE: the window's mode on channel pages, 0b111 elsewhere (R364). -/
def State.pgMode (s : State) (p : Nat) : Nat := if 0x1000 ≤ p then modeCode (s.mode ((p - 0x1000) / 16)) else 7

/-- The indication of a window that a SEL of SLU.HOLDOFF assigns (R145). -/
def State.indication (s : State) (w : Nat) : Nat → Bool
  | 1 => (s.sl w).filled
  | 2 => !(s.sl w).filled
  | 3 => (s.sl w).stocked
  | 4 => !(s.sl w).stocked
  | 5 => (s.ho w).on
  | _ => false

/-- HOLDOFF[h] is asserted: high, and never before SERVICEABLE (R145, R217, R307, R397). The level at the ball is `holdoffLevel`; the 20 ns for which
an asserted level lasts there are left out (R404, log 128). -/
def State.holdoff (s : State) (h : Nat) : Bool :=
  decide (s.dev.bringup = 5) && (((List.range 136).any fun w => s.indication w (bits (s.wreg w 2 0x07C) (4 * h) 3)) ||
    ((List.range 8).any fun c => bit (s.dreg 4 (hvsOff c 0x28)) (16 + h) && (s.hv c).backlog) ||
    (bit (s.dreg 6 0x088) (16 + h) && s.flt.logReady))

/-- Level of HOLDOFF[h]; none while it is high-impedance, until the KEEPER step ends (R397). -/
def State.holdoffLevel (s : State) (h : Nat) : Option Bool := if s.dev.porLow || s.dev.bringup = 0 then none else some (s.holdoff h)

/-- TRAP_N is held low (R306, R397). -/
def State.trapLow (s : State) : Bool := s.flt.trap

/-- Level of ALIVE; none while it is high-impedance (R305, R397). -/
def State.aliveLevel (s : State) : Option Bool := if s.dev.porLow then none else s.flt.alive

/-- What the part drives on TRIG[line]: a level, low to assert the line, or nothing. It is high-impedance before SERVICEABLE and while VCC_PE
lies outside its limits (R346, R396, R397). -/
def State.trigDriven (s : State) (line : Nat) : Option Bool :=
  if s.dev.bringup ≠ 5 || !s.trigPowered then none
  else match s.trigDrive line with
    | 1 => if s.pulsing line then some false else none
    | 2 => some !s.pulsing line
    | _ => none

/-- STAR_OUT is high: a pulse, or TRIG[LINE] asserted in mirror mode; low before SERVICEABLE (R347, R397, R399). DESIGN CHOICE (log 120): the
mirror follows its line at once, and an asserted line shows as a high STAR_OUT. -/
def State.starOutHigh (s : State) : Bool :=
  let cfg := s.dreg 3 0x068
  decide (s.dev.bringup = 5) &&
    (if bits cfg 0 2 = 3 then s.syn.trig.getLsbD (bits cfg 4 3)
     else s.syn.starOut.any fun p => decide (p.1 ≤ s.t) && decide (s.t < p.2))

/-! JTAG (R315, R406). -/

/-- The balls of the boundary-scan chain (R396, R406). DESIGN CHOICE (log 152): the order in the chain, which R406 does not give. -/
inductive Ball where
  | alive | holdoff (h : BitVec 2) | smbAddr (i : BitVec 1) | por | perst | trap | smbClk | smbDat | trig (n : BitVec 3)
deriving DecidableEq, Repr

def chain : List Ball :=
  [.alive, .holdoff 0, .holdoff 1, .holdoff 2, .holdoff 3, .smbAddr 0, .smbAddr 1, .por, .perst, .trap, .smbClk, .smbDat,
   .trig 0, .trig 1, .trig 2, .trig 3, .trig 4, .trig 5, .trig 6, .trig 7]

/-- The part drives the ball, or may. -/
def Ball.output : Ball → Bool
  | .alive | .holdoff _ | .trap | .smbDat | .trig _ => true
  | _ => false

/-- What the part itself drives on a ball, with no boundary scan; none where it drives nothing. -/
def State.coreDrives (s : State) : Ball → Option Bool
  | .alive => s.aliveLevel
  | .holdoff h => s.holdoffLevel h.toNat
  | .trap => if s.trapLow then some false else none
  | .trig n => s.trigDriven n.toNat
  | _ => none

/-- What the part drives on a ball: what the chain holds for it, while it drives (R406). -/
def State.ballDrives (s : State) (b : Ball) : Option Bool :=
  match s.keep.scan with
  | some v => if b.output then v[chain.findIdx (· = b)]? else none
  | none => s.coreDrives b

/-- Level that the chain samples at a ball: what the part drives there, or sees there; none where neither is known to it. -/
def State.ballLevel (s : State) (b : Ball) : Option Bool :=
  match b with
  | .smbAddr i => some (Config.smbAddr.getLsbD i.toNat)
  | .por => some !s.dev.porLow
  | .perst => some s.host.perst
  | .trig n => some !s.syn.trig.getLsbD n.toNat
  | b => s.ballDrives b

/-- Internal scan and DBG register access over JTAG are refused (DBG.STAT.INTERNAL_LOCKED). -/
def State.internalLocked (s : State) : Bool := decide (s.sec.lc = 2) || !bit (s.dreg 14 0x010) 0

/-- A JTAG access: boundary scan is always taken; internal scan or a DBG register is refused, or counted with JTAG_ACCESS (R315, R406). It takes the TAP
out of Test-Logic-Reset, into which a reset puts it back; the chain then drives nothing. Before the KEEPER step ends TDO is released: nothing is
answered (R397). -/
def State.jtagAccess (s : State) (op : JtagOp) : State :=
  if s.dev.porLow || s.dev.bringup = 0 then s
  else
    let s1 := s.modKeep fun k => { k with tap := true }
    match op with
    | .reset => s.modKeep fun k => { k with tap := false, scan := none }
    | .sample => s1.emit (.scan (chain.map s.ballLevel))
    | .drive v => (s1.modKeep fun k => { k with scan := some v }).emit (.jtag true)
    | .release => (s1.modKeep fun k => { k with scan := none }).emit (.jtag true)
    | .core =>
      if s.internalLocked then s1.emit (.jtag false)
      else ((s1.modKeep fun k => { k with jtag := satInc 65535 k.jtag }).emit (.jtag true)).raiseDev 14 0 0 0

def execJtagAccess (dt : Nat) (op : JtagOp) (s : State) : Host.Outcome State Fault Refusal := .next ((s.advance dt).jtagAccess op)

/-- SLINK_TX carries frames; it is electrically idle otherwise (R351, R397). -/
def State.linkSends (s : State) : Bool := decide (s.dev.bringup = 5) && s.nywEn

end Sys2Proof.Machine
end

