-- ==== Sys2Proof/Machine/Dispatch.lean ====
section
/-!
DEFINITION. Sys2Proof/Machine/Dispatch.lean: one arm per command, each one direct call of its meaning.
-/

namespace Sys2Proof.Machine

def exec (i : Instr) (s : State) : Host.Outcome State Fault Refusal :=
  match i with
  | .powerOff dt w tag check => Sys2Proof.Machine.execPowerOff dt w tag check s
  | .park dt w tag check => Sys2Proof.Machine.execPark dt w tag check s
  | .connect dt w tag check calCheck => Sys2Proof.Machine.execConnect dt w tag check calCheck s
  | .arm dt w tag reads => Sys2Proof.Machine.execArm dt w tag reads s
  | .disarm dt w tag => Sys2Proof.Machine.execDisarm dt w tag s
  | .start dt w tag => Sys2Proof.Machine.execStart dt w tag s
  | .stop dt w tag => Sys2Proof.Machine.execStop dt w tag s
  | .service dt w tag check => Sys2Proof.Machine.execService dt w tag check s
  | .modeCmdReserved dt w code tag => Sys2Proof.Machine.execModeCmdReserved dt w code tag s
  | .modeBcast dt c cmd tag mask checks => Sys2Proof.Machine.execModeBcast dt c cmd tag mask checks s
  | .modeTransitionDone dt w => Sys2Proof.Machine.execModeTransitionDone dt w s
  | .switchTimeout dt w => Sys2Proof.Machine.execSwitchTimeout dt w s
  | .burstStart dt w => Sys2Proof.Machine.execBurstStart dt w s
  | .landingEnd dt w => Sys2Proof.Machine.execLandingEnd dt w s
  | .readyDriveWrite dt w val => Sys2Proof.Machine.execReadyDriveWrite dt w val s
  | .afePwrReqOn dt c => Sys2Proof.Machine.execAfePwrReqOn dt c s
  | .afePwrReqOff dt c => Sys2Proof.Machine.execAfePwrReqOff dt c s
  | .afePowerUpDone dt c => Sys2Proof.Machine.execAfePowerUpDone dt c s
  | .descriptorFetch dt w role ecc => Sys2Proof.Machine.execDescriptorFetch dt w role ecc s
  | .stackReadDone dt w role n bad laneBad corrected => Sys2Proof.Machine.execStackReadDone dt w role n bad laneBad corrected s
  | .decisionPoint dt w => Sys2Proof.Machine.execDecisionPoint dt w s
  | .playBoundary dt w => Sys2Proof.Machine.execPlayBoundary dt w s
  | .vectorStart dt w ecc => Sys2Proof.Machine.execVectorStart dt w ecc s
  | .strobeClose dt w levels final drained => Sys2Proof.Machine.execStrobeClose dt w levels final drained s
  | .verdictGapWrite dt w => Sys2Proof.Machine.execVerdictGapWrite dt w s
  | .queueDropGap dt w => Sys2Proof.Machine.execQueueDropGap dt w s
  | .captureFlushed dt w => Sys2Proof.Machine.execCaptureFlushed dt w s
  | .jumpReq dt w slot => Sys2Proof.Machine.execJumpReq dt w slot s
  | .jumpClr dt w => Sys2Proof.Machine.execJumpClr dt w s
  | .jumpTgtWrite dt w k val => Sys2Proof.Machine.execJumpTgtWrite dt w k val s
  | .jumpHeadReady dt w k reads => Sys2Proof.Machine.execJumpHeadReady dt w k reads s
  | .hostFlagWrite dt w val => Sys2Proof.Machine.execHostFlagWrite dt w val s
  | .hostFlagSet dt w val => Sys2Proof.Machine.execHostFlagSet dt w val s
  | .hostFlagClr dt w val => Sys2Proof.Machine.execHostFlagClr dt w val s
  | .fabRouteWrite dt c ix val => Sys2Proof.Machine.execFabRouteWrite dt c ix val s
  | .fabExportWrite dt c e val => Sys2Proof.Machine.execFabExportWrite dt c e val s
  | .fabricInputChange dt w ix => Sys2Proof.Machine.execFabricInputChange dt w ix s
  | .holdingResumePoint dt w => Sys2Proof.Machine.execHoldingResumePoint dt w s
  | .holdingPassEnd dt w => Sys2Proof.Machine.execHoldingPassEnd dt w s
  | .headroomUpdate dt c capacity => Sys2Proof.Machine.execHeadroomUpdate dt c capacity s
  | .intProdWrite dt w val => Sys2Proof.Machine.execIntProdWrite dt w val s
  | .intakeReadRequest dt => Sys2Proof.Machine.execIntakeReadRequest dt s
  | .readCompletion dt tag data status reads => Sys2Proof.Machine.execReadCompletion dt tag data status reads s
  | .consIndexPost dt w => Sys2Proof.Machine.execConsIndexPost dt w s
  | .cplTimeout dt tag => Sys2Proof.Machine.execCplTimeout dt tag s
  | .intRingWrite dt w val => Sys2Proof.Machine.execIntRingWrite dt w val s
  | .sluCfgWrite dt w val => Sys2Proof.Machine.execSluCfgWrite dt w val s
  | .timebaseLock dt replicaFail => Sys2Proof.Machine.execTimebaseLock dt replicaFail s
  | .lossOfLock dt refMissing => Sys2Proof.Machine.execLossOfLock dt refMissing s
  | .referenceReturn dt phase => Sys2Proof.Machine.execReferenceReturn dt phase s
  | .relockDone dt => Sys2Proof.Machine.execRelockDone dt s
  | .epochWrap => Sys2Proof.Machine.execEpochWrap s
  | .stageCmd dt w point => Sys2Proof.Machine.execStageCmd dt w point s
  | .stageApply dt w => Sys2Proof.Machine.execStageApply dt w s
  | .calMeasure dt w => Sys2Proof.Machine.execCalMeasure dt w s
  | .calMeasureApply dt w => Sys2Proof.Machine.execCalMeasureApply dt w s
  | .restoreSeed dt w => Sys2Proof.Machine.execRestoreSeed dt w s
  | .calDone dt w terms tj seen => Sys2Proof.Machine.execCalDone dt w terms tj seen s
  | .calPathWrite dt w val => Sys2Proof.Machine.execCalPathWrite dt w val s
  | .driftMeasure dt slot reading => Sys2Proof.Machine.execDriftMeasure dt slot reading s
  | .levelWrite dt w reg val => Sys2Proof.Machine.execLevelWrite dt w reg val s
  | .levelSettled dt w => Sys2Proof.Machine.execLevelSettled dt w s
  | .termWrite dt w val => Sys2Proof.Machine.execTermWrite dt w val s
  | .pmuCfgWrite dt w val => Sys2Proof.Machine.execPmuCfgWrite dt w val s
  | .pmuSettled dt w => Sys2Proof.Machine.execPmuSettled dt w s
  | .pmuMeasCmd dt w n wait => Sys2Proof.Machine.execPmuMeasCmd dt w n wait s
  | .pmuMeasDone dt w => Sys2Proof.Machine.execPmuMeasDone dt w s
  | .ppmuSample dt w code clamped => Sys2Proof.Machine.execPpmuSample dt w code clamped s
  | .closeCal dt w check => Sys2Proof.Machine.execCloseCal dt w check s
  | .openCal dt w check => Sys2Proof.Machine.execOpenCal dt w check s
  | .swOpDone dt w => Sys2Proof.Machine.execSwOpDone dt w s
  | .swFlush dt c => Sys2Proof.Machine.execSwFlush dt c s
  | .swFlushDone dt c => Sys2Proof.Machine.execSwFlushDone dt c s
  | .swap dt c pos => Sys2Proof.Machine.execSwap dt c pos s
  | .swapDone dt c => Sys2Proof.Machine.execSwapDone dt c s
  | .retire dt c => Sys2Proof.Machine.execRetire dt c s
  | .harvestTake dt c => Sys2Proof.Machine.execHarvestTake dt c s
  | .stagingDropGap dt c => Sys2Proof.Machine.execStagingDropGap dt c s
  | .stagingRefill dt c ecc firstBad => Sys2Proof.Machine.execStagingRefill dt c ecc firstBad s
  | .harvestRingWrite dt c ecc firstBad => Sys2Proof.Machine.execHarvestRingWrite dt c ecc firstBad s
  | .hvsReadyCoal dt c => Sys2Proof.Machine.execHvsReadyCoal dt c s
  | .prodIndexPost dt c => Sys2Proof.Machine.execProdIndexPost dt c s
  | .hvsConsWrite dt c val => Sys2Proof.Machine.execHvsConsWrite dt c val s
  | .hvsRingWrite dt c val => Sys2Proof.Machine.execHvsRingWrite dt c val s
  | .capAreaWrite dt w val => Sys2Proof.Machine.execCapAreaWrite dt w val s
  | .comparatorEdge dt w rising counted => Sys2Proof.Machine.execComparatorEdge dt w rising counted s
  | .stampTransfer dt w => Sys2Proof.Machine.execStampTransfer dt w s
  | .stampLostGap dt w => Sys2Proof.Machine.execStampLostGap dt w s
  | .stampArm dt w => Sys2Proof.Machine.execStampArm dt w s
  | .stampDisarm dt w => Sys2Proof.Machine.execStampDisarm dt w s
  | .engineSample dt w => Sys2Proof.Machine.execEngineSample dt w s
  | .acqTimerExpiry dt w k => Sys2Proof.Machine.execAcqTimerExpiry dt w k s
  | .engineStart dt w => Sys2Proof.Machine.execEngineStart dt w s
  | .engineStop dt w => Sys2Proof.Machine.execEngineStop dt w s
  | .hostEvt dt w sel => Sys2Proof.Machine.execHostEvt dt w sel s
  | .engineActionEffect dt w => Sys2Proof.Machine.execEngineActionEffect dt w s
  | .trigPulseEnd dt line => Sys2Proof.Machine.execTrigPulseEnd dt line s
  | .redArm dt w => Sys2Proof.Machine.execRedArm dt w s
  | .redDisarm dt w => Sys2Proof.Machine.execRedDisarm dt w s
  | .winArm dt w => Sys2Proof.Machine.execWinArm dt w s
  | .winAbandon dt w => Sys2Proof.Machine.execWinAbandon dt w s
  | .scrubStep dt target ecc written => Sys2Proof.Machine.execScrubStep dt target ecc written s
  | .bankOn dt b => Sys2Proof.Machine.execBankOn dt b s
  | .bankRetention dt b => Sys2Proof.Machine.execBankRetention dt b s
  | .bankOff dt b => Sys2Proof.Machine.execBankOff dt b s
  | .bankChangeDone dt b => Sys2Proof.Machine.execBankChangeDone dt b s
  | .marchStart dt => Sys2Proof.Machine.execMarchStart dt s
  | .marchAbort dt => Sys2Proof.Machine.execMarchAbort dt s
  | .marchCopyInDone dt row => Sys2Proof.Machine.execMarchCopyInDone dt row s
  | .marchRowTestDone dt stk failCol => Sys2Proof.Machine.execMarchRowTestDone dt stk failCol s
  | .marchCopyBackDone dt row => Sys2Proof.Machine.execMarchCopyBackDone dt row s
  | .destructiveMarchDone dt fails => Sys2Proof.Machine.execDestructiveMarchDone dt fails s
  | .repairCmd dt b col => Sys2Proof.Machine.execRepairCmd dt b col s
  | .repairSwitch dt => Sys2Proof.Machine.execRepairSwitch dt s
  | .bar2Read dt off len ecc => Sys2Proof.Machine.execBar2Read dt off len ecc s
  | .bar2Write dt off data ecc => Sys2Proof.Machine.execBar2Write dt off data ecc s
  | .bar4Read dt off len ecc collide => Sys2Proof.Machine.execBar4Read dt off len ecc collide s
  | .bar4Write dt off data found => Sys2Proof.Machine.execBar4Write dt off data found s
  | .regWrite dt addr size data => Sys2Proof.Machine.execRegWrite dt addr size data s
  | .pgEvtClear dt page mask => Sys2Proof.Machine.execPgEvtClear dt page mask s
  | .detectionArrival dt n checks => Sys2Proof.Machine.execDetectionArrival dt n checks s
  | .firstFaultDecided dt col => Sys2Proof.Machine.execFirstFaultDecided dt col s
  | .conseqWindowEnd dt => Sys2Proof.Machine.execConseqWindowEnd dt s
  | .srcClr dt src ack seq => Sys2Proof.Machine.execSrcClr dt src ack seq s
  | .reactWrite dt src val => Sys2Proof.Machine.execReactWrite dt src val s
  | .compatWrite dt src val => Sys2Proof.Machine.execCompatWrite dt src val s
  | .firstLatchClear dt col => Sys2Proof.Machine.execFirstLatchClear dt col s
  | .aliveToggle dt => Sys2Proof.Machine.execAliveToggle dt s
  | .heartbeatLoss dt => Sys2Proof.Machine.execHeartbeatLoss dt s
  | .aliveResume dt => Sys2Proof.Machine.execAliveResume dt s
  | .trapAck dt => Sys2Proof.Machine.execTrapAck dt s
  | .logConsWrite dt val => Sys2Proof.Machine.execLogConsWrite dt val s
  | .injCmd dt => Sys2Proof.Machine.execInjCmd dt s
  | .injectionDelivery dt => Sys2Proof.Machine.execInjectionDelivery dt s
  | .msixUnmask dt vec => Sys2Proof.Machine.execMsixUnmask dt vec s
  | .msixGapEnd dt vec => Sys2Proof.Machine.execMsixGapEnd dt vec s
  | .msixMaskedPend dt vec => Sys2Proof.Machine.execMsixMaskedPend dt vec s
  | .driverLimit dt slot => Sys2Proof.Machine.execDriverLimit dt slot s
  | .dacReadback dt slot => Sys2Proof.Machine.execDacReadback dt slot s
  | .channelSupply dt slot => Sys2Proof.Machine.execChannelSupply dt slot s
  | .pgenParity dt slot => Sys2Proof.Machine.execPgenParity dt slot s
  | .fineDelay dt slot => Sys2Proof.Machine.execFineDelay dt slot s
  | .crossingParity dt slot => Sys2Proof.Machine.execCrossingParity dt slot s
  | .ctrlCorrected dt slot => Sys2Proof.Machine.execCtrlCorrected dt slot s
  | .ctrlUncorrected dt slot => Sys2Proof.Machine.execCtrlUncorrected dt slot s
  | .laneDead dt slot => Sys2Proof.Machine.execLaneDead dt slot s
  | .supplyTrip dt c => Sys2Proof.Machine.execSupplyTrip dt c s
  | .afeHot dt c => Sys2Proof.Machine.execAfeHot dt c s
  | .afeCritical dt c => Sys2Proof.Machine.execAfeCritical dt c s
  | .positionMismatch dt c => Sys2Proof.Machine.execPositionMismatch dt c s
  | .actuatorSupply dt c => Sys2Proof.Machine.execActuatorSupply dt c s
  | .refFault dt c => Sys2Proof.Machine.execRefFault dt c s
  | .routeParity dt c => Sys2Proof.Machine.execRouteParity dt c s
  | .latCalFail dt c => Sys2Proof.Machine.execLatCalFail dt c s
  | .statusParity dt c => Sys2Proof.Machine.execStatusParity dt c s
  | .gtReplicaDeviation dt c => Sys2Proof.Machine.execGtReplicaDeviation dt c s
  | .railWarn dt r => Sys2Proof.Machine.execRailWarn dt r s
  | .railTrip dt r => Sys2Proof.Machine.execRailTrip dt r s
  | .railRelease dt r trip => Sys2Proof.Machine.execRailRelease dt r trip s
  | .railSample dt r mv => Sys2Proof.Machine.execRailSample dt r mv s
  | .tjHigh dt tj => Sys2Proof.Machine.execTjHigh dt tj s
  | .tjCrit dt tj => Sys2Proof.Machine.execTjCrit dt tj s
  | .keeperLink dt => Sys2Proof.Machine.execKeeperLink dt s
  | .collectorParity dt => Sys2Proof.Machine.execCollectorParity dt s
  | .linkRetrain dt => Sys2Proof.Machine.execLinkRetrain dt s
  | .aerCorr dt => Sys2Proof.Machine.execAerCorr dt s
  | .aerUncorr dt => Sys2Proof.Machine.execAerUncorr dt s
  | .lcCmd dt target confirm => Sys2Proof.Machine.execLcCmd dt target confirm s
  | .lcTransitionDone dt appendOk => Sys2Proof.Machine.execLcTransitionDone dt appendOk s
  | .tamperMesh dt => Sys2Proof.Machine.execTamperMesh dt s
  | .tamperVoltage dt => Sys2Proof.Machine.execTamperVoltage dt s
  | .tamperClock dt => Sys2Proof.Machine.execTamperClock dt s
  | .vbatLoss dt => Sys2Proof.Machine.execVbatLoss dt s
  | .tamperCleared dt input => Sys2Proof.Machine.execTamperCleared dt input s
  | .wipeDone dt => Sys2Proof.Machine.execWipeDone dt s
  | .loadPlain dt slot => Sys2Proof.Machine.execLoadPlain dt slot s
  | .loadWrapped dt slot => Sys2Proof.Machine.execLoadWrapped dt slot s
  | .keyClear dt slot => Sys2Proof.Machine.execKeyClear dt slot s
  | .keyCmdDone dt => Sys2Proof.Machine.execKeyCmdDone dt s
  | .storeWrite dt val => Sys2Proof.Machine.execStoreWrite dt val s
  | .eraseCmd dt pin all => Sys2Proof.Machine.execEraseCmd dt pin all s
  | .eraseDone dt => Sys2Proof.Machine.execEraseDone dt s
  | .ledgerAppendDone dt verified => Sys2Proof.Machine.execLedgerAppendDone dt verified s
  | .subsysWrite dt val => Sys2Proof.Machine.execSubsysWrite dt val s
  | .alivePolWrite dt pol => Sys2Proof.Machine.execAlivePolWrite dt pol s
  | .linkUp dt gen width flit clocking => Sys2Proof.Machine.execLinkUp dt gen width flit clocking s
  | .linkDown dt => Sys2Proof.Machine.execLinkDown dt s
  | .pcieReset dt => Sys2Proof.Machine.execPcieReset dt s
  | .functionLevelReset dt checks => Sys2Proof.Machine.execFunctionLevelReset dt checks s
  | .d3hotEntry dt => Sys2Proof.Machine.execD3hotEntry dt s
  | .d0Entry dt => Sys2Proof.Machine.execD0Entry dt s
  | .configRequest dt write reg val => Sys2Proof.Machine.execConfigRequest dt write reg val s
  | .bar2Resize dt log2gib => Sys2Proof.Machine.execBar2Resize dt log2gib s
  | .bar2WinWrite dt val => Sys2Proof.Machine.execBar2WinWrite dt val s
  | .commit dt => Sys2Proof.Machine.execCommit dt s
  | .commitDone dt => Sys2Proof.Machine.execCommitDone dt s
  | .snapTake dt page => Sys2Proof.Machine.execSnapTake dt page s
  | .snapDone dt page => Sys2Proof.Machine.execSnapDone dt page s
  | .snapAll dt => Sys2Proof.Machine.execSnapAll dt s
  | .trigEdge dt line rising accepted => Sys2Proof.Machine.execTrigEdge dt line rising accepted s
  | .trigCmd dt line width => Sys2Proof.Machine.execTrigCmd dt line width s
  | .trigContention dt line => Sys2Proof.Machine.execTrigContention dt line s
  | .starInEdge dt rising => Sys2Proof.Machine.execStarInEdge dt rising s
  | .starLoss dt => Sys2Proof.Machine.execStarLoss dt s
  | .starOutPulseEnd dt => Sys2Proof.Machine.execStarOutPulseEnd dt s
  | .evtStart dt => Sys2Proof.Machine.execEvtStart dt s
  | .evtStop dt => Sys2Proof.Machine.execEvtStop dt s
  | .startDelivery dt => Sys2Proof.Machine.execStartDelivery dt s
  | .stopDelivery dt => Sys2Proof.Machine.execStopDelivery dt s
  | .nywenFrameSlot dt tx => Sys2Proof.Machine.execNywenFrameSlot dt tx s
  | .frameIdle dt rx f => Sys2Proof.Machine.execFrameIdle dt rx f s
  | .frameTimeLo dt rx f => Sys2Proof.Machine.execFrameTimeLo dt rx f s
  | .frameTimeHi dt rx f => Sys2Proof.Machine.execFrameTimeHi dt rx f s
  | .frameStart dt rx f => Sys2Proof.Machine.execFrameStart dt rx f s
  | .frameStop dt rx f => Sys2Proof.Machine.execFrameStop dt rx f s
  | .frameJump dt rx f => Sys2Proof.Machine.execFrameJump dt rx f s
  | .nywenDelivery dt n => Sys2Proof.Machine.execNywenDelivery dt n s
  | .nywenLock dt rx => Sys2Proof.Machine.execNywenLock dt rx s
  | .nywenLoss dt rx => Sys2Proof.Machine.execNywenLoss dt rx s
  | .align dt offset => Sys2Proof.Machine.execAlign dt offset s
  | .nywRetrain dt => Sys2Proof.Machine.execNywRetrain dt s
  | .nywenAlign dt dev => Sys2Proof.Machine.execNywenAlign dt dev s
  | .nywJumpCmd dt ch slot => Sys2Proof.Machine.execNywJumpCmd dt ch slot s
  | .blkRst dt page => Sys2Proof.Machine.execBlkRst dt page s
  | .resetDone dt page => Sys2Proof.Machine.execResetDone dt page s
  | .resetCmd dt confirm checks => Sys2Proof.Machine.execResetCmd dt confirm checks s
  | .porAssert dt => Sys2Proof.Machine.execPorAssert dt s
  | .porRelease dt badRecords => Sys2Proof.Machine.execPorRelease dt badRecords s
  | .keeperDone dt unpowered => Sys2Proof.Machine.execKeeperDone dt unpowered s
  | .fusesLedgerDone dt badCopy0 badCopy1 => Sys2Proof.Machine.execFusesLedgerDone dt badCopy0 badCopy1 s
  | .startupMarchDone dt fails => Sys2Proof.Machine.execStartupMarchDone dt fails s
  | .stacksDone dt fails => Sys2Proof.Machine.execStacksDone dt fails s
  | .perstRelease dt => Sys2Proof.Machine.execPerstRelease dt s
  | .stkActive dt stk => Sys2Proof.Machine.execStkActive dt stk s
  | .stkSelfRefresh dt stk => Sys2Proof.Machine.execStkSelfRefresh dt stk s
  | .stkChangeDone dt stk => Sys2Proof.Machine.execStkChangeDone dt stk s
  | .thermHour dt hot => Sys2Proof.Machine.execThermHour dt hot s
  | .conditionCauseEnds dt src code => Sys2Proof.Machine.execConditionCauseEnds dt src code s
  | .heartbeatReturn dt => Sys2Proof.Machine.execHeartbeatReturn dt s
  | .logBufferDrain dt w => Sys2Proof.Machine.execLogBufferDrain dt w s
  | .smbusTransaction dt addr code op => Sys2Proof.Machine.execSmbusTransaction dt addr code op s
  | .smbusClockLowTimeout dt => Sys2Proof.Machine.execSmbusClockLowTimeout dt s
  | .jtagAccess dt op => Sys2Proof.Machine.execJtagAccess dt op s

end Sys2Proof.Machine
end

