-- ==== Sys2Proof/WellFormed.lean ====
section
/-!
DEFINITION. Sys2Proof/WellFormed.lean: the operands that a command or event of the part can have. A command's meaning is total;
operands outside these ranges name nothing that the part can meet.
-/

namespace Sys2Proof

/-- KIND of a Nywen frame (R352). -/
def frameKind (f : BitVec 80) : Nat := f.toNat / 2 ^ 6 % 8

/-- The time that passes before a command or event; the end of an epoch comes when GT reaches it. -/
def Instr.elapsed : Instr → Nat
  | .powerOff (dt := dt) .. | .park (dt := dt) .. | .connect (dt := dt) .. | .arm (dt := dt) .. | .disarm (dt := dt) ..
  | .start (dt := dt) .. | .stop (dt := dt) .. | .service (dt := dt) .. | .modeCmdReserved (dt := dt) ..
  | .modeBcast (dt := dt) .. | .modeTransitionDone (dt := dt) .. | .switchTimeout (dt := dt) .. | .burstStart (dt := dt) ..
  | .landingEnd (dt := dt) .. | .readyDriveWrite (dt := dt) .. | .afePwrReqOn (dt := dt) .. | .afePwrReqOff (dt := dt) ..
  | .afePowerUpDone (dt := dt) .. | .descriptorFetch (dt := dt) .. | .stackReadDone (dt := dt) ..
  | .decisionPoint (dt := dt) .. | .playBoundary (dt := dt) .. | .vectorStart (dt := dt) .. | .strobeClose (dt := dt) ..
  | .verdictGapWrite (dt := dt) .. | .queueDropGap (dt := dt) .. | .captureFlushed (dt := dt) .. | .jumpReq (dt := dt) ..
  | .jumpClr (dt := dt) .. | .jumpTgtWrite (dt := dt) .. | .jumpHeadReady (dt := dt) .. | .hostFlagWrite (dt := dt) ..
  | .hostFlagSet (dt := dt) .. | .hostFlagClr (dt := dt) .. | .fabRouteWrite (dt := dt) .. | .fabExportWrite (dt := dt) ..
  | .fabricInputChange (dt := dt) .. | .holdingResumePoint (dt := dt) .. | .holdingPassEnd (dt := dt) ..
  | .headroomUpdate (dt := dt) .. | .intProdWrite (dt := dt) .. | .intakeReadRequest (dt := dt) ..
  | .readCompletion (dt := dt) .. | .consIndexPost (dt := dt) .. | .cplTimeout (dt := dt) .. | .intRingWrite (dt := dt) ..
  | .sluCfgWrite (dt := dt) .. | .timebaseLock (dt := dt) .. | .lossOfLock (dt := dt) .. | .referenceReturn (dt := dt) ..
  | .relockDone (dt := dt) .. | .stageCmd (dt := dt) .. | .stageApply (dt := dt) .. | .calMeasure (dt := dt) ..
  | .calMeasureApply (dt := dt) .. | .restoreSeed (dt := dt) .. | .calDone (dt := dt) .. | .calPathWrite (dt := dt) ..
  | .driftMeasure (dt := dt) .. | .levelWrite (dt := dt) .. | .levelSettled (dt := dt) .. | .termWrite (dt := dt) ..
  | .pmuCfgWrite (dt := dt) .. | .pmuSettled (dt := dt) .. | .pmuMeasCmd (dt := dt) .. | .pmuMeasDone (dt := dt) ..
  | .ppmuSample (dt := dt) .. | .closeCal (dt := dt) .. | .openCal (dt := dt) .. | .swOpDone (dt := dt) ..
  | .swFlush (dt := dt) .. | .swFlushDone (dt := dt) .. | .swap (dt := dt) .. | .swapDone (dt := dt) .. | .retire (dt := dt) ..
  | .harvestTake (dt := dt) .. | .stagingDropGap (dt := dt) .. | .stagingRefill (dt := dt) .. | .harvestRingWrite (dt := dt) ..
  | .hvsReadyCoal (dt := dt) .. | .prodIndexPost (dt := dt) .. | .hvsConsWrite (dt := dt) .. | .hvsRingWrite (dt := dt) ..
  | .capAreaWrite (dt := dt) .. | .comparatorEdge (dt := dt) .. | .stampTransfer (dt := dt) .. | .stampLostGap (dt := dt) ..
  | .stampArm (dt := dt) .. | .stampDisarm (dt := dt) .. | .engineSample (dt := dt) .. | .acqTimerExpiry (dt := dt) ..
  | .engineStart (dt := dt) .. | .engineStop (dt := dt) .. | .hostEvt (dt := dt) .. | .engineActionEffect (dt := dt) ..
  | .trigPulseEnd (dt := dt) .. | .redArm (dt := dt) .. | .redDisarm (dt := dt) .. | .winArm (dt := dt) ..
  | .winAbandon (dt := dt) .. | .scrubStep (dt := dt) .. | .bankOn (dt := dt) .. | .bankRetention (dt := dt) ..
  | .bankOff (dt := dt) .. | .bankChangeDone (dt := dt) .. | .marchStart (dt := dt) .. | .marchAbort (dt := dt) ..
  | .marchCopyInDone (dt := dt) .. | .marchRowTestDone (dt := dt) .. | .marchCopyBackDone (dt := dt) ..
  | .destructiveMarchDone (dt := dt) .. | .repairCmd (dt := dt) .. | .repairSwitch (dt := dt) .. | .bar2Read (dt := dt) ..
  | .bar2Write (dt := dt) .. | .bar4Read (dt := dt) .. | .bar4Write (dt := dt) .. | .regWrite (dt := dt) ..
  | .pgEvtClear (dt := dt) .. | .detectionArrival (dt := dt) .. | .firstFaultDecided (dt := dt) ..
  | .conseqWindowEnd (dt := dt) .. | .srcClr (dt := dt) .. | .reactWrite (dt := dt) .. | .compatWrite (dt := dt) ..
  | .firstLatchClear (dt := dt) .. | .aliveToggle (dt := dt) .. | .heartbeatLoss (dt := dt) .. | .aliveResume (dt := dt) ..
  | .trapAck (dt := dt) .. | .logConsWrite (dt := dt) .. | .injCmd (dt := dt) .. | .injectionDelivery (dt := dt) ..
  | .msixUnmask (dt := dt) .. | .msixGapEnd (dt := dt) .. | .msixMaskedPend (dt := dt) .. | .driverLimit (dt := dt) ..
  | .dacReadback (dt := dt) .. | .channelSupply (dt := dt) .. | .pgenParity (dt := dt) .. | .fineDelay (dt := dt) ..
  | .crossingParity (dt := dt) .. | .ctrlCorrected (dt := dt) .. | .ctrlUncorrected (dt := dt) .. | .laneDead (dt := dt) ..
  | .supplyTrip (dt := dt) .. | .afeHot (dt := dt) .. | .afeCritical (dt := dt) .. | .positionMismatch (dt := dt) ..
  | .actuatorSupply (dt := dt) .. | .refFault (dt := dt) .. | .routeParity (dt := dt) .. | .latCalFail (dt := dt) ..
  | .statusParity (dt := dt) .. | .gtReplicaDeviation (dt := dt) .. | .railWarn (dt := dt) .. | .railTrip (dt := dt) ..
  | .railRelease (dt := dt) .. | .railSample (dt := dt) .. | .tjHigh (dt := dt) .. | .tjCrit (dt := dt) ..
  | .keeperLink (dt := dt) .. | .collectorParity (dt := dt) .. | .linkRetrain (dt := dt) .. | .aerCorr (dt := dt) ..
  | .aerUncorr (dt := dt) .. | .lcCmd (dt := dt) .. | .lcTransitionDone (dt := dt) .. | .tamperMesh (dt := dt) ..
  | .tamperVoltage (dt := dt) .. | .tamperClock (dt := dt) .. | .vbatLoss (dt := dt) .. | .tamperCleared (dt := dt) ..
  | .wipeDone (dt := dt) .. | .loadPlain (dt := dt) .. | .loadWrapped (dt := dt) .. | .keyClear (dt := dt) ..
  | .keyCmdDone (dt := dt) .. | .storeWrite (dt := dt) .. | .eraseCmd (dt := dt) .. | .eraseDone (dt := dt) ..
  | .ledgerAppendDone (dt := dt) .. | .subsysWrite (dt := dt) .. | .alivePolWrite (dt := dt) .. | .linkUp (dt := dt) ..
  | .linkDown (dt := dt) .. | .pcieReset (dt := dt) .. | .functionLevelReset (dt := dt) .. | .d3hotEntry (dt := dt) ..
  | .d0Entry (dt := dt) .. | .configRequest (dt := dt) .. | .bar2Resize (dt := dt) .. | .bar2WinWrite (dt := dt) ..
  | .commit (dt := dt) .. | .commitDone (dt := dt) .. | .snapTake (dt := dt) .. | .snapDone (dt := dt) ..
  | .snapAll (dt := dt) .. | .trigEdge (dt := dt) .. | .trigCmd (dt := dt) .. | .trigContention (dt := dt) ..
  | .starInEdge (dt := dt) .. | .starLoss (dt := dt) .. | .starOutPulseEnd (dt := dt) .. | .evtStart (dt := dt) ..
  | .evtStop (dt := dt) .. | .startDelivery (dt := dt) .. | .stopDelivery (dt := dt) .. | .nywenFrameSlot (dt := dt) ..
  | .frameIdle (dt := dt) .. | .frameTimeLo (dt := dt) .. | .frameTimeHi (dt := dt) .. | .frameStart (dt := dt) ..
  | .frameStop (dt := dt) .. | .frameJump (dt := dt) .. | .nywenDelivery (dt := dt) .. | .nywenLock (dt := dt) ..
  | .nywenLoss (dt := dt) .. | .align (dt := dt) .. | .nywRetrain (dt := dt) .. | .nywenAlign (dt := dt) ..
  | .nywJumpCmd (dt := dt) .. | .blkRst (dt := dt) .. | .resetDone (dt := dt) .. | .resetCmd (dt := dt) ..
  | .porAssert (dt := dt) .. | .porRelease (dt := dt) .. | .keeperDone (dt := dt) .. | .fusesLedgerDone (dt := dt) ..
  | .startupMarchDone (dt := dt) .. | .stacksDone (dt := dt) .. | .perstRelease (dt := dt) .. | .stkActive (dt := dt) ..
  | .stkSelfRefresh (dt := dt) .. | .stkChangeDone (dt := dt) .. | .thermHour (dt := dt) .. | .conditionCauseEnds (dt := dt) ..
  | .heartbeatReturn (dt := dt) .. | .logBufferDrain (dt := dt) .. | .smbusTransaction (dt := dt) ..
  | .smbusClockLowTimeout (dt := dt) .. | .jtagAccess (dt := dt) .. => dt
  | .epochWrap => 0

/-- Words and lane units of a HOLD segment, and entries of a Catalogue (R63, R67). -/
def ArmReads.ok (r : ArmReads) : Bool :=
  (r.words ++ r.lanes ++ r.wordsFixed ++ r.lanesFixed).all (fun i => decide (i < 1024)) &&
    (r.entries ++ r.entriesFixed).all fun e => decide (e < 16384)

/-- The operands lie in the ranges that the manual gives them. -/
def Instr.wellFormed : Instr → Bool
  | .arm _ _ _ reads => reads.ok
  | .modeCmdReserved _ _ code _ => decide (9 ≤ code.toNat)
  | .modeBcast _ _ _ _ _ checks => decide (checks.length ≤ 17) && checks.all fun x => x.2.2.ok
  | .stackReadDone _ _ _ n _ _ _ => decide (n ≤ 64)
  | .strobeClose _ _ _ _ drained => decide (drained ≤ 1)
  | .readCompletion _ tag data _ _ => decide (tag < 16384) && decide (data.length ≤ 4096)
  | .cplTimeout _ tag => decide (tag < 16384)
  | .levelWrite _ _ reg val => match reg with | .drv => decide (val.toNat < 2 ^ 48) | .cmp => decide (val.toNat < 2 ^ 32) | .bleed => decide (val.toNat < 2 ^ 16)
  | .scrubStep _ target _ _ => decide (target.toNat < 18)
  | .marchCopyInDone _ row => row.found.all fun x => decide (x.1 < 128)
  | .marchCopyBackDone _ row => row.found.all fun x => decide (x.1 < 128)
  | .marchRowTestDone _ _ failCol => failCol.all fun c => decide (c < 9216)
  | .destructiveMarchDone _ fails => fails.all fun f => decide (f.1 < 16) && decide (f.2.1 < 2048) && decide (f.2.2 < 9216)
  | .bar2Read _ _ len _ => decide (1 ≤ len) && decide (len ≤ 4096)
  | .bar2Write _ _ data _ => decide (1 ≤ data.length) && decide (data.length ≤ 4096)
  | .bar4Read _ _ len _ m => decide (1 ≤ len) && decide (len ≤ 4096) && m.all fun m => decide (m.word * 8 < len + 7)
  | .bar4Write _ _ data r => decide (1 ≤ data.length) && decide (data.length ≤ 4096) && r.meet.all fun m => decide (m.word * 8 < data.length + 7)
  | .regWrite _ _ size _ => decide (1 ≤ size) && decide (size ≤ 4096)
  | .linkUp _ gen width flit _ => decide (3 ≤ gen.toNat) && decide (gen.toNat ≤ 6) && (width == 4 || width == 8 || width == 16) && (flit == decide (gen.toNat = 6))
  | .configRequest _ _ reg _ => decide (reg.toNat % 4 = 0)
  | .bar2Resize _ log2gib => decide (log2gib.toNat ≤ 6)
  | .frameIdle _ _ f => frameKind f == 0 || decide (6 ≤ frameKind f)
  | .frameTimeLo _ _ f => frameKind f == 1
  | .frameTimeHi _ _ f => frameKind f == 2
  | .frameStart _ _ f => frameKind f == 3
  | .frameStop _ _ f => frameKind f == 4
  | .frameJump _ _ f => frameKind f == 5
  | .porRelease _ badRecords => badRecords.all fun r => decide (r < 145)
  | .fusesLedgerDone .. | .powerOff .. | .park .. | .connect .. | .disarm .. | .start .. | .stop .. | .service .. | .modeTransitionDone ..
  | .switchTimeout .. | .burstStart .. | .landingEnd .. | .readyDriveWrite .. | .afePwrReqOn .. | .afePwrReqOff ..
  | .afePowerUpDone .. | .descriptorFetch .. | .decisionPoint .. | .playBoundary .. | .vectorStart .. | .verdictGapWrite ..
  | .queueDropGap .. | .captureFlushed .. | .jumpReq .. | .jumpClr .. | .jumpTgtWrite .. | .jumpHeadReady ..
  | .hostFlagWrite .. | .hostFlagSet .. | .hostFlagClr .. | .fabRouteWrite .. | .fabExportWrite .. | .fabricInputChange ..
  | .holdingResumePoint .. | .holdingPassEnd .. | .headroomUpdate .. | .intProdWrite .. | .intakeReadRequest ..
  | .consIndexPost .. | .intRingWrite .. | .sluCfgWrite .. | .timebaseLock .. | .lossOfLock .. | .referenceReturn ..
  | .relockDone .. | .epochWrap .. | .stageCmd .. | .stageApply .. | .calMeasure .. | .calMeasureApply .. | .restoreSeed ..
  | .calDone .. | .calPathWrite .. | .driftMeasure .. | .levelSettled .. | .termWrite .. | .pmuCfgWrite .. | .pmuSettled ..
  | .pmuMeasCmd .. | .pmuMeasDone .. | .ppmuSample .. | .closeCal .. | .openCal .. | .swOpDone .. | .swFlush ..
  | .swFlushDone .. | .swap .. | .swapDone .. | .retire .. | .harvestTake .. | .stagingDropGap .. | .stagingRefill ..
  | .harvestRingWrite .. | .hvsReadyCoal .. | .prodIndexPost .. | .hvsConsWrite .. | .hvsRingWrite .. | .capAreaWrite ..
  | .comparatorEdge .. | .stampTransfer .. | .stampLostGap .. | .stampArm .. | .stampDisarm .. | .engineSample ..
  | .acqTimerExpiry .. | .engineStart .. | .engineStop .. | .hostEvt .. | .engineActionEffect .. | .trigPulseEnd ..
  | .redArm .. | .redDisarm .. | .winArm .. | .winAbandon .. | .bankOn .. | .bankRetention .. | .bankOff ..
  | .bankChangeDone .. | .marchStart .. | .marchAbort .. | .repairCmd ..
  | .repairSwitch .. | .pgEvtClear .. | .detectionArrival .. | .firstFaultDecided .. | .conseqWindowEnd .. | .srcClr ..
  | .reactWrite .. | .compatWrite .. | .firstLatchClear .. | .aliveToggle .. | .heartbeatLoss .. | .aliveResume ..
  | .trapAck .. | .logConsWrite .. | .injCmd .. | .injectionDelivery .. | .msixUnmask .. | .msixGapEnd .. | .msixMaskedPend ..
  | .driverLimit .. | .dacReadback .. | .channelSupply .. | .pgenParity .. | .fineDelay .. | .crossingParity ..
  | .ctrlCorrected .. | .ctrlUncorrected .. | .laneDead .. | .supplyTrip .. | .afeHot .. | .afeCritical ..
  | .positionMismatch .. | .actuatorSupply .. | .refFault .. | .routeParity .. | .latCalFail .. | .statusParity ..
  | .gtReplicaDeviation .. | .railWarn .. | .railTrip .. | .railRelease .. | .railSample .. | .tjHigh .. | .tjCrit ..
  | .keeperLink .. | .collectorParity .. | .linkRetrain .. | .aerCorr .. | .aerUncorr .. | .lcCmd .. | .lcTransitionDone ..
  | .tamperMesh .. | .tamperVoltage .. | .tamperClock .. | .vbatLoss .. | .tamperCleared .. | .wipeDone .. | .loadPlain ..
  | .loadWrapped .. | .keyClear .. | .keyCmdDone .. | .storeWrite .. | .eraseCmd .. | .eraseDone .. | .ledgerAppendDone ..
  | .subsysWrite .. | .alivePolWrite .. | .linkDown .. | .pcieReset .. | .functionLevelReset .. | .d3hotEntry .. | .d0Entry ..
  | .bar2WinWrite .. | .commit .. | .commitDone .. | .snapTake .. | .snapDone .. | .snapAll .. | .trigEdge .. | .trigCmd ..
  | .trigContention .. | .starInEdge .. | .starLoss .. | .starOutPulseEnd .. | .evtStart .. | .evtStop .. | .startDelivery ..
  | .stopDelivery .. | .nywenFrameSlot .. | .nywenDelivery .. | .nywenLock .. | .nywenLoss .. | .align .. | .nywRetrain ..
  | .nywenAlign .. | .nywJumpCmd .. | .blkRst .. | .resetDone .. | .resetCmd .. | .porAssert .. | .keeperDone ..
  | .startupMarchDone .. | .stacksDone .. | .perstRelease .. | .stkActive .. | .stkSelfRefresh .. | .stkChangeDone ..
  | .thermHour .. | .conditionCauseEnds .. | .heartbeatReturn .. | .logBufferDrain .. | .smbusTransaction ..
  | .smbusClockLowTimeout .. | .jtagAccess .. => true

end Sys2Proof
end

