-- ==== Sys2Proof/Safety.lean ====
section
/-!
DEFINITION. Sys2Proof/Safety.lean: what a sound state of the part is: byte memories and register storage in canonical form, and a
queue of commands whose operands the part can meet.
-/

namespace Sys2Proof.Machine

/-- Both byte memories are in canonical form: addresses strictly rising, no byte stored that an unlisted address reads as. -/
def State.memWf (s : State) : Bool := Memory.wf s.stackMem && Memory.wf s.wsMem

/-- The stored registers are in canonical form: addresses strictly rising, none stored at its reset value. -/
def State.regsWf (s : State) : Bool := Tab.above 0 s.regs && s.regs.all fun e => decide (e.2 ≠ regReset e.1)

/-- The memories, the registers, the windows, the slots and the clusters are in canonical form: one machine is one datum. -/
def State.canonical (s : State) : Bool :=
  s.memWf && s.regsWf && Tab.wf {} s.wins && Tab.wf {} s.slots && Tab.wf {} s.clus

/-- A host write to page `p` that arrives now takes effect at once: bring-up is over and neither a commit nor a reset holds it (R341, R370,
R382). -/
def State.takes (s : State) (p : Nat) : Bool :=
  decide (s.dev.bringup = 5) && !s.dev.regPhase && !s.committing && !s.pageHeld p

/-- A mode command of window `w` that arrives now is judged at once: no reset that affects the window's mode is in progress either (R55, R57). -/
def State.takesMode (s : State) (w : Nat) : Bool :=
  decide (s.dev.bringup = 5) && !s.dev.regPhase && !s.committing && !s.modeHeld w

/-- Window `w` is in no transition and in no exchange: its mode commands are not refused with BUSY (R45, R190). -/
def State.modeFree (s : State) (w : Nat) : Bool := (s.md w).trans.isNone && !s.exchanging w

/-- No edge from a TRIG or STAR_IN ball is due at the routers (R348, R349, R354): the commands of the SYN page accept those first. -/
def State.noEdgeDue (s : State) : Bool := s.syn.coming.all fun x => decide (s.t < x.at_)

/-- Nothing stands before a mode command of window `w` in its arbiter's cycle: no start event and no edge of a router is due, and no landing has
come to its end (R47). -/
def State.noneFirst (s : State) (w : Nat) : Bool :=
  s.noEdgeDue && (s.syn.starts.all fun x => decide (s.t < x)) &&
    (s.syn.items.all fun x => decide (x.kind ≠ 3) || decide (s.t < x.at_)) &&
    (decide (s.mode w ≠ .run) || decide (s.t < (s.pl w).nextT))

/-- No jump request on its way to the sequencer of window `w` is due (R97). -/
def State.noJumpDue (s : State) (w : Nat) : Bool := (s.sq w).coming.all fun r => decide (s.t < r.at_)

/-- The state with the traces of detections taken out: PG_EVT bits and those just set, collectors, detections on their way or held, their count lost before
SERVICEABLE, and the persisting causes due to be detected again. Two states with the same calm differ in nothing else. -/
def State.calm (s : State) : State :=
  { s with pgEvt := [], evtNow := (0, []), evtDue := [], colCh := [], colClu := [], colDev := {}, flight := [], heldDet := [], heldN := 0,
           dev := { s.dev with heldLost := 0, again := [] } }

/-- The state `dt` later: true time moves on, and GT with it while it runs (R13). -/
def State.later (s : State) (dt : Nat) : State :=
  { s with now := s.now + dt, t := if s.gtRun then (s.t + dt) % 2 ^ 80 else s.t }

/-- A mode command `cmd` of window `w` has begun its transition to `target` since `a`: the mode still reads its origin and VALID reads 0
(R45, R372). -/
def Began (a t : State) (w cmd : Nat) (tag : Byte) (target : Mode) : Prop :=
  (t.md w).trans = some { cmd := cmd, tag := tag, target := target, at_ := a.t, swOp := 0, oversub := false, cancelled := false, hot := false } ∧
  t.mode w = a.mode w ∧ (t.md w).res.valid = false ∧ (t.md w).res.seq = (a.md w).res.seq

/-- CTL.CMD_RESULT of window `w` has taken a finished mode command since `a` (R53, R372). -/
def Finished (a t : State) (w cmd : Nat) (tag : Byte) (outcome reason : Nat) : Prop :=
  (t.md w).cmd = cmd ∧ (t.md w).tag = tag ∧ (t.md w).res.outcome = outcome ∧ (t.md w).res.reason = reason ∧
  (t.md w).res.seq = (a.md w).res.seq + 1 ∧ Tab.get 0 t.pgSeq (winPage w 0) = Tab.get 0 a.pgSeq (winPage w 0) + 1

/-- Since `a`, source `src` has made a detection of code and native class: its record is on its way to the collector, and a persisting cause
is known (R294, R299). -/
def Reports (a t : State) (src code native : Nat) : Prop :=
  (a.gtRun = true → a.dev.bringup = 5 → ∃ d ∈ t.flight, d.src = src ∧ d.at_ = a.t ∧
    ∃ p ∈ d.parts, p.code = code ∧ p.native = native ∧ p.inj = false) ∧
  (isCond src code = true → code ∈ (t.src src).causes)

/-- A mode command of window `w` has been refused since `a` (R53): CTL.CMD_RESULT says so with the reason, the command-refused event is set, and
nothing else has changed but the traces of its detection. -/
def Refused (a t : State) (w cmd : Nat) (tag : Byte) (reason : Nat) : Prop :=
  Finished a t w cmd tag 2 reason ∧ (Tab.get 0 t.pgEvt (winPage w 0)).getLsbD 0 = true ∧
  t.calm = { a.calm with wins := t.wins, pgSeq := t.pgSeq } ∧ (∀ v, v ≠ w → t.win v = a.win v) ∧
  t.win w = { a.win w with md := { a.md w with tag := tag, cmd := cmd, oversub := false, late := false, cancelled := false, res := (t.md w).res } } ∧
  ∀ p, p ≠ winPage w 0 → Tab.get 0 t.pgSeq p = Tab.get 0 a.pgSeq p

/-- What a channel or cluster reset has left of window `w` since `a` (R55, R56, R244, R266): its mode kept, but for a burst that has ended without
landing; its static drive, the active timing and the records in its queue kept; its result, sequencer, pending set, streams, counters, stamper,
engine, reduction and window capture cleared; an ARM in transition cancelled and any other transition as it was. -/
def WindowReset (a t : State) (w : Nat) : Prop :=
  t.mode w = (if a.armedRun w then .ready else a.mode w) ∧ (t.md w).endCause = (if a.mode w = .run then 3 else (a.md w).endCause) ∧
  (t.md w).static = (if a.mode w = .run ∧ (a.pl w).begun = true then (a.pl w).remembered else (a.md w).static) ∧ (t.md w).res = {} ∧
  (∀ x, (a.md w).trans = some x → (t.md w).trans = some { x with cancelled := x.cancelled || (decide (x.cmd = 4) && decide (x.swOp = 0)) }) ∧
  ((a.md w).trans = none → (t.md w).trans = none) ∧
  (t.sq w).loaded = false ∧ (t.sq w).stack = [] ∧ (t.sq w).reqs = [] ∧ (t.tm w).pend = none ∧ (t.tm w).active = (a.tm w).active ∧
  (t.sl w).bufs = [] ∧ (t.sl w).ring = [] ∧ (t.mn w) = {} ∧ (t.cp w).xing = 0 ∧ (∃ l, (t.cp w).recQ = (a.cp w).recQ ++ l) ∧
  (t.st w).armed = false ∧ (t.st w).stage = [] ∧ (t.st w).buf = [] ∧ t.en w = {} ∧ (t.rd w).armed = false ∧ (t.cw w).phase = 0 ∧
  t.slotOf w = a.slotOf w ∧ (t.slot (a.slotOf w)).kcal = (a.slot (a.slotOf w)).kcal ∧
  ∀ x, isClassH x = true → ofWindow w (x / 0x1000) = true → t.reg x = (regReset x).toNat

/-- Every waiting command has operands that the part can meet. -/
def State.queueWf (s : State) : Bool := s.pending.all Instr.wellFormed

/-- Some window carries a burst: it is in ARMED or RUN (R42). -/
def State.anyActive (s : State) : Bool := (List.range 136).any s.armedRun

/-- Since `a`, nothing changed but window `w`. -/
def OnlyWin (a t : State) (w : Nat) : Prop := t = { a with wins := t.wins } ∧ ∀ v, v ≠ w → t.win v = a.win v

/-- Since `a`, nothing changed but window `w` and traces of detections. -/
def CalmWin (a t : State) (w : Nat) : Prop :=
  t.calm = { a.calm with wins := t.wins } ∧ ∀ v, v ≠ w → t.win v = a.win v

/-- Since `a`, nothing changed but cluster `c`. -/
def OnlyClu (a t : State) (c : Nat) : Prop := t = { a with clus := t.clus } ∧ ∀ d, d ≠ c → t.clu d = a.clu d

/-- Since `a`, nothing changed but cluster `c` and traces of detections. -/
def CalmClu (a t : State) (c : Nat) : Prop :=
  t.calm = { a.calm with clus := t.clus } ∧ ∀ d, d ≠ c → t.clu d = a.clu d

/-- Since `a`, nothing changed but slot `k`. -/
def OnlySlot (a t : State) (k : Nat) : Prop :=
  t = { a with slots := t.slots } ∧ ∀ j, j ≠ k → t.slot j = a.slot j

/-- Since `a`, nothing changed but the stored register at address `r`. -/
def OnlyReg (a t : State) (r : Nat) : Prop := t = { a with regs := t.regs } ∧ ∀ x, x ≠ r → t.reg x = a.reg x

end Sys2Proof.Machine
end

