-- ==== Sys2Proof/Certificates/Slice0/Obligations.lean ====
section
/-!
DEFINITION. Sys2Proof/Certificates/Slice0/Obligations.lean: the statements for the provers. Throughout, `a` is the state once the time
that the command names has passed, and the command's own effect runs on it.
-/

open Sys2Proof Sys2Proof.Machine

/-! The block as a whole, and three rules stated whole (R52, R215, R340). -/

/-- A step with command `c` at the front of the queue is `exec c` on the state with the queue's rest; with an empty queue the block idles, which is
the model's choice (log entry 3). -/
def Obligations.StepTakesTheFront : Prop :=
  (∀ (c : Instr) (rest : List Instr) (s : State), s.pending = c :: rest → step s = exec c { s with pending := rest }) ∧
  (∀ s : State, s.pending = [] → step s = .next s)

/-- Every step goes on and keeps the memories, the register storage, the windows, the slots and the clusters in canonical form, from every state in
that form; it takes one command from the queue, and true time never runs back. -/
def Obligations.StepKeepsCanonical : Prop :=
  ∀ s : State, s.canonical = true → ∃ t, step s = .next t ∧ t.canonical = true ∧ t.pending = s.pending.tail ∧ s.now ≤ t.now

/-- After reset the part is held in power-on reset, with every window OFF, no key loaded, nothing waiting, and everything in canonical form. That
stack memory reads 0 everywhere at reset is the model's choice (log 80), and so is that no detection is on its way then (log 81). -/
def Obligations.ResetState : Prop :=
  State.reset.canonical = true ∧ State.reset.pending = [] ∧ State.reset.dev.bringup = 0 ∧ State.reset.dev.porLow = true ∧
  State.reset.gtRun = false ∧ (∀ w, State.reset.mode w = .off) ∧ State.reset.sec.keyMap = 0 ∧ State.reset.flight = [] ∧
  (∀ x, Memory.read State.reset.stackMem x = 0) ∧ ∀ x, State.reset.reg x = (regReset x).toNat

/-- A start event that reaches a window not in ARMED has no effect on it. With an ARM in transition, START_MISSED is set, and the ARM completes in
ARMED with no burst started. An accepted ARM clears START_MISSED (R52). -/
def Obligations.StartEventsOutsideArmed : Prop :=
  (∀ (s : State) (dt te w : Nat),
    let a := s.advance dt
    a.noEdgeDue = true → a.syn.starts = [te] → te ≤ a.t → w ∈ a.maskPins 0x080 →
    (a.mode w ≠ .armed → (∀ x, (a.md w).trans = some x → ¬ (x.cmd = 4 ∧ x.swOp = 0)) →
      ∃ t, exec (.startDelivery dt) s = .next t ∧ t.win w = a.win w ∧ t.slots = a.slots) ∧
    (∀ x, (a.md w).trans = some x → x.cmd = 4 → x.swOp = 0 →
      ∃ t, exec (.startDelivery dt) s = .next t ∧ t.win w = { a.win w with md := { a.md w with startMissed := true } } ∧ t.slots = a.slots)) ∧
  (∀ (s : State) (dt : Nat) (w : WinId) (x : Trans),
    let a := s.advance dt
    (a.md w).trans = some x → (a.md w).startMissed = true → x.cmd = 4 → x.target = .armed → x.swOp = 0 → x.cancelled = false → x.hot = false →
    ((a.sl w).streamFirst = false ∨ a.supplied w = true) →
    ∃ t, exec (.modeTransitionDone dt w) s = .next t ∧ t.mode w = .armed ∧ (t.md w).startMissed = true) ∧
  (∀ (s : State) (dt : Nat) (w : WinId) (tag : Byte) (reads : ArmReads),
    let a := s.advance dt
    a.takesMode w = true → a.modeFree w = true → a.noneFirst w = true → w.val < 128 → a.mode w = .ready → a.sec.lc ≠ 4 →
    a.sec.trans = none → (a.armCheck w reads.entries).fault = none →
    (∀ k ∈ (a.armCheck w reads.entries).keys, (a.keyOf k).isSome = true) → a.ref.locked = true →
    ∃ t, exec (.arm dt w tag reads) s = .next t ∧ (t.md w).startMissed = false)

/-- The host advances ring c by writing its read pointer: accepted when it has no bit above the pointer's width and moves no further than the ring's
depth, which falls by as much, and refused else, with CONS_REFUSED set and raised and the previous pointer standing (R215). -/
def Obligations.HostAdvancesItsRing : Prop :=
  ∀ (s : State) (dt : Nat) (c : CluId) (val : BitVec 32),
    let a := s.advance dt
    let m := 2 ^ (a.hvsBits c + 1)
    let d := (val.toNat + m - (a.hv c).rd % m) % m
    let legal := val.toNat < m ∧ d ≤ a.hvsLevel c
    a.takes 4 = true →
    (legal → ∃ t, exec (.hvsConsWrite dt c val) s = .next t ∧ (t.hv c).rd = val.toNat ∧ (t.hv c).consRefused = false ∧
      t.hvsLevel c + d = a.hvsLevel c ∧ (t.hv c).wr = (a.hv c).wr ∧ t.wins = a.wins ∧ ∀ k, k ≠ c.val → t.clu k = a.clu k) ∧
    (¬ legal → ∃ t, exec (.hvsConsWrite dt c val) s = .next t ∧ t.hv c = { a.hv c with consRefused := true } ∧
      (Tab.get 0 t.pgEvt 4).getLsbD (8 + c) = true ∧ CalmClu a t c)

/-- Offset o of BAR 2 reaches the full-aperture address BASE + o, with the BASE in force at the request's arrival; each byte of a stack that is not
ACTIVE reads 0 (R388). A BASE that is no multiple of the BAR size is refused with WIN_REFUSED set; after a resize BASE is kept when it is still a
multiple of the new size, and else set to 0 (R340). -/
def Obligations.Bar2Window : Prop :=
  (∀ (s : State) (dt : Nat) (off : BitVec 36) (len : Nat),
    let a := s.advance dt
    let x := bits (a.dreg 4 0x050) 0 36 + off.toNat
    0 < len → off.toNat + len ≤ 2 ^ (30 + a.host.bar2Size) → a.dev.bringup = 5 → 
    (a.stackOn (x / 0x800000000) = true → x / 0x800000000 = (x + len - 1) / 0x800000000 →
      exec (.bar2Read dt off len .clean) s = .next { a with out := a.out ++ [.data ((List.range len).map fun i =>
        if a.tagged (x + i) || regionOf (x + i) = .reserved then 0 else Memory.read a.stackMem (x + i)) false] }) ∧
    (len ≤ 0x800000000 → ∃ t, exec (.bar2Read dt off len .clean) s = .next t ∧ t.out = a.out ++ [.data ((List.range len).map fun i =>
      if a.tagged (x + i) || regionOf (x + i) = .reserved || !a.stackOn ((x + i) / 0x800000000) then 0 else Memory.read a.stackMem (x + i)) false] ∧
      t.stackMem = a.stackMem)) ∧
  (∀ (s : State) (dt : Nat) (val : Word),
    let a := s.advance dt
    let base := bits val.toNat 30 6 * 2 ^ 30
    a.takes 4 = true →
    (base % 2 ^ (30 + a.host.bar2Size) ≠ 0 → exec (.bar2WinWrite dt val) s = .next { a with host := { a.host with winRefused := true } }) ∧
    (base % 2 ^ (30 + a.host.bar2Size) = 0 → ∃ t, exec (.bar2WinWrite dt val) s = .next t ∧ t.dreg 4 0x050 = base ∧
      t.host = { a.host with winRefused := false } ∧ (∀ x, x ≠ pageAddr 4 0x050 → t.reg x = a.reg x) ∧
      t = { a with host := t.host, regs := t.regs })) ∧
  (∀ (s : State) (dt : Nat) (k : BitVec 3),
    let a := s.advance dt
    let base := a.dreg 4 0x050
    (k = 7 → exec (.bar2Resize dt k) s = .next a) ∧
    (k ≠ 7 → ∃ t, exec (.bar2Resize dt k) s = .next t ∧ t.host = { a.host with bar2Size := k.toNat } ∧
      t.dreg 4 0x050 = (if bits base 0 36 % 2 ^ (30 + k.toNat) = 0 then base else 0) ∧ t = { a with host := t.host, regs := t.regs }))

/-! Modes and bursts (R42 to R58). -/

/-- The mode commands begin the transitions of R48: at a window that judges its commands and is in no transition, with nothing before the command in
its arbiter's cycle (R45, R47, R55), POWER_OFF from PARKED and SERVICE, PARK from OFF, READY and SERVICE, CONNECT and SERVICE from either mode that
R48 gives them, and DISARM and STOP from ARMED start a transition to the mode R48 names: the mode still reads its origin and VALID reads 0 (R45,
R48, R372). The contact checks that a form makes find at most 0.48 V (R188). In READY a DISARM or STOP is done at once (R48). A mode command that
cannot be carried out is refused with the reason of R53 and changes nothing else (R8): with NOT_SERVICEABLE before SERVICEABLE; with BUSY during a
reset that affects the window's mode (R55), in a transition, DISARM of an ARM apart, or in a window exchange (R45; the exchange is log 97); with
ILLEGAL_FROM_MODE where R48 does not list it; PARK from OFF with CLUSTER_AFE_OFF; CONNECT, ARM and START of a spare window with SPARE_WINDOW (R43);
CONNECT and ARM in SCRAPPED with LIFE_CYCLE (R58); a CONNECT that would close a second K_SPARE with SPARE_BUS_TAKEN. An ARM in READY is refused by
its check (R50). Where two reasons hold, the one that R53 does not rank is the model's choice (log 130). A STOP in RUN, or a DISARM carried out as
one, finishes DONE at once with the window still in RUN: the first schedules its run-out under SEQ.RUN_CTL.STOP_POLICY, and with one scheduled it
changes nothing of the burst (R49; DISARM_LATE of such a DISARM is log 94). A DISARM during an ARM's transition cancels it: the window stays in
READY with its static drive, the burst is gone, the Sluice is empty and the demand released, and SEQ has advanced by two, the ARM's CANCELLED and
the DISARM's DONE with CANCELLED = 1 (R46). -/
def Obligations.ModeCommandsBegin : Prop :=
  (∀ (s : State) (dt : Nat) (w : WinId) (tag : Byte) (check cal : BitVec 16),
    let a := s.advance dt
    a.takesMode w = true → a.modeFree w = true → a.noneFirst w = true →
    (a.mode w = .parked ∨ a.mode w = .service ∧ a.calHot w check = false →
      ∃ t, exec (.powerOff dt w tag check) s = .next t ∧ Began a t w 1 tag .off) ∧
    (a.mode w = .off ∧ (a.clu (cluOf w)).afeState = 2 ∨ a.mode w = .ready ∧ check.toInt.natAbs ≤ 48 ∨
        a.mode w = .service ∧ a.calHot w check = false →
      ∃ t, exec (.park dt w tag check) s = .next t ∧ Began a t w 2 tag .parked) ∧
    (a.mode w = .parked ∨ a.mode w = .service → w.val < 128 → a.sec.lc ≠ 4 → a.sec.trans = none → a.spareTaken w = false →
      a.calHot w cal = false → a.contactHot w (a.closeDrop w check) = false →
      ∃ t, exec (.connect dt w tag check cal) s = .next t ∧ Began a t w 3 tag .ready) ∧
    (a.mode w = .parked ∨ a.mode w = .ready ∧ check.toInt.natAbs ≤ 48 →
      ∃ t, exec (.service dt w tag check) s = .next t ∧ Began a t w 8 tag .service) ∧
    (a.mode w = .armed → (∃ t, exec (.disarm dt w tag) s = .next t ∧ Began a t w 5 tag .ready) ∧
      ∃ t, exec (.stop dt w tag) s = .next t ∧ Began a t w 7 tag .ready) ∧
    (a.mode w = .ready → (∃ t, exec (.disarm dt w tag) s = .next t ∧ Finished a t w 5 tag 1 0 ∧ t.mode w = .ready) ∧
      ∃ t, exec (.stop dt w tag) s = .next t ∧ Finished a t w 7 tag 1 0 ∧ t.mode w = .ready)) ∧
  (∀ (s : State) (dt : Nat) (w : WinId) (tag : Byte) (check cal : BitVec 16) (reads : ArmReads),
    let a := s.advance dt
    let off := (Instr.powerOff dt w tag check, 1)
    let park := (Instr.park dt w tag check, 2)
    let connect := (Instr.connect dt w tag check cal, 3)
    let arm := (Instr.arm dt w tag reads, 4)
    let disarm := (Instr.disarm dt w tag, 5)
    let start := (Instr.start dt w tag, 6)
    let stop := (Instr.stop dt w tag, 7)
    let service := (Instr.service dt w tag check, 8)
    let refused := fun (l : List (Instr × Nat)) (reason : Nat) => ∀ e ∈ l, ∃ t, exec e.1 s = .next t ∧ Refused a t w e.2 tag reason
    (a.dev.regPhase = false → a.dev.bringup ≠ 5 → refused [off, park, connect, arm, disarm, start, stop, service] 3) ∧
    (a.dev.regPhase = false → a.dev.bringup = 5 → a.committing = false → a.modeHeld w = true →
      refused [off, park, connect, arm, disarm, start, stop, service] 2) ∧
    (a.takesMode w = true → a.noneFirst w = true → a.modeFree w = false →
      refused [off, park, connect, arm, start, stop, service] 2 ∧
      ((∀ x, (a.md w).trans = some x → x.cmd = 4 → x.swOp ≠ 0) → refused [disarm] 2)) ∧
    (a.takesMode w = true → a.noneFirst w = true → a.modeFree w = true →
      (a.mode w = .off → refused [service] 1) ∧ (a.mode w = .ready → refused [off] 1) ∧
      (a.armedRun w = true → refused [off, park, service] 1) ∧
      (a.mode w = .off → (a.clu (cluOf w)).afeState ≠ 2 → refused [park] 4) ∧
      (128 ≤ w.val → refused [connect, arm, start] 10) ∧
      (w.val < 128 → a.mode w ≠ .armed → refused [start] 1) ∧
      (w.val < 128 → a.lcBars = true → refused [connect, arm] 7) ∧
      (w.val < 128 → a.lcBars = false →
        (a.mode w = .off ∨ a.armedRun w = true → refused [connect] 1) ∧ (a.mode w ≠ .ready → refused [arm] 1) ∧
        (a.mode w = .parked ∨ a.mode w = .service → a.spareTaken w = true → refused [connect] 6) ∧
        (a.mode w = .ready → let chk := a.armCheck w reads.entries
          chk.fault.isSome = true ∨ (∃ k ∈ chk.keys, a.keyOf k = none) ∨ a.ref.locked = false →
          ∃ t, exec (.arm dt w tag reads) s = .next t ∧ t.mode w = .ready ∧ (t.md w).trans = none ∧ t.sq w = a.sq w ∧
            Finished a t w 4 tag 2 (if chk.fault.isSome then 8 else if ∃ k ∈ chk.keys, a.keyOf k = none then 12 else 9))))) ∧
  (∀ (s : State) (dt : Nat) (w : WinId) (tag : Byte),
    let a := s.advance dt
    let policy := bits (a.wreg w 1 0x044) 0 2
    a.takesMode w = true → a.noneFirst w = true →
    (a.modeFree w = true → a.mode w = .run → ∀ e ∈ ([(.stop dt w tag, 7, false), (.disarm dt w tag, 5, true)] : List (Instr × Nat × Bool)),
      ∃ t, exec e.1 s = .next t ∧ Finished a t w e.2.1 tag 1 0 ∧ t.mode w = .run ∧ (t.md w).trans = none ∧ (t.md w).late = e.2.2 ∧
        (a.noJumpDue w = true → (a.sq w).stop.isSome = true ∨ (a.sq w).landing ≠ 0 → t.sq w = a.sq w) ∧
        (a.noJumpDue w = true → (a.sq w).stop = none → (a.sq w).landing = 0 → (t.sq w).reqs = [] ∧
          ∃ p, (t.sq w).stop = some (p, a.t) ∧ (a.landChosen w = false → p = if policy = 3 then 1 else policy))) ∧
    (∀ x, (a.md w).trans = some x → x.cmd = 4 → x.swOp = 0 → a.mode w = .ready →
      ∃ t, exec (.disarm dt w tag) s = .next t ∧ t.mode w = .ready ∧ (t.md w).trans = none ∧ (t.md w).static = (a.md w).static ∧
        (t.md w).cmd = 5 ∧ (t.md w).tag = tag ∧ (t.md w).res.outcome = 1 ∧ (t.md w).res.reason = 0 ∧ (t.md w).cancelled = true ∧
        (t.md w).oversub = false ∧ (t.md w).res.seq = (a.md w).res.seq + 2 ∧
        Tab.get 0 t.pgSeq (winPage w 0) = Tab.get 0 a.pgSeq (winPage w 0) + 2 ∧
        (t.sq w).loaded = false ∧ (t.sl w).bufs = [] ∧ (t.sl w).held = false ∧ (t.ik w) = a.ik w))

/-- An accepted ARM loads the burst that the Catalogue and SEQ.ENTRY name, and its transition to ARMED begins (R48, R50, R80). It is accepted in
READY when its check finds no fault and every key it needs, and GT is locked (R48, R50, R58). START takes an ARMED window to RUN with its first
vector at GT_first (R48, R101); the burst begins when that vector is due, counts its own vectors and plays from the start of its first segment; the
landing's last vector ends the burst in READY, with the cause of its end, and the driver keeps the burst's last drive state (R44, R48, R103). That
GT_FIRST and the burst count are taken when the first vector is due is the model's choice (log 112). -/
def Obligations.BurstsAreLoadedAndPlayed : Prop :=
  (∀ (s : State) (dt : Nat) (w : WinId) (tag : Byte) (reads : ArmReads),
    let a := s.advance dt
    a.takesMode w = true → a.modeFree w = true → a.noneFirst w = true → w.val < 128 → a.mode w = .ready → a.sec.lc ≠ 4 →
    a.sec.trans = none → (a.armCheck w reads.entries).fault = none →
    (∀ k ∈ (a.armCheck w reads.entries).keys, (a.keyOf k).isSome = true) → a.ref.locked = true →
    ∃ t x, exec (.arm dt w tag reads) s = .next t ∧ (t.md w).trans = some x ∧ x.cmd = 4 ∧ x.tag = tag ∧ x.target = .armed ∧ x.at_ = a.t ∧
      t.mode w = .ready ∧ (t.sq w).loaded = true ∧ (t.sq w).cur = a.desc w (a.wreg w 1 0x040 % 16384) ∧ (t.sq w).hold0 = a.desc w 0 ∧
      (t.sq w).land1 = a.desc w 1 ∧ t.out = a.out ∧ t.held = a.held) ∧
  ((∀ (s : State) (dt : Nat) (w : WinId) (tag : Byte),
    let a := s.advance dt
    a.takesMode w = true → a.modeFree w = true → a.noneFirst w = true → w.val < 128 → a.mode w = .armed →
    ∃ t, exec (.start dt w tag) s = .next t ∧ t.mode w = .run ∧ Finished a t w 6 tag 1 0 ∧
      (t.pl w).nextT = (a.t + 255) / 256 * 256 + 65536 + 256 * bits (a.wreg w 1 0x044) 8 16 ∧ (t.pl w).begun = false ∧
      ∀ v, v ≠ w.val → t.win v = a.win v) ∧
  (∀ (s : State) (dt : Nat) (w : WinId),
    let a := s.advance dt
    a.mode w = .run → (a.pl w).begun = false → (a.pl w).nextT ≤ a.t →
    ∃ t, exec (.burstStart dt w) s = .next t ∧ (t.pl w).begun = true ∧ (t.pl w).gtFirst = (a.pl w).nextT ∧ (t.pl w).bursts = (a.pl w).bursts + 1 ∧
      (t.pl w).vectors = 0 ∧ (t.sq w).play = 1 ∧ (t.sq w).ofs = 0 ∧ t.mode w = .run ∧ ∀ v, v ≠ w.val → t.win v = a.win v) ∧
  (∀ (s : State) (dt : Nat) (w : WinId),
    let a := s.advance dt
    a.mode w = .run → (a.pl w).begun = true → (a.ho w).on = false → (a.sq w).ofs = (a.sq w).playEnd → (a.sq w).decided = some .finish →
    (a.pl w).nextT ≤ a.t →
    ∃ t, exec (.landingEnd dt w) s = .next t ∧ t.mode w = .ready ∧ (t.md w).endCause = (if (a.sq w).landing = 2 then 2 else 1) ∧
      (t.sq w).loaded = false ∧ (t.md w).static = (a.pl w).remembered))

/-- A reserved mode command is refused with REASON 11 when no transition is in progress, and changes nothing else: no other window, and of its own
window the result alone (R45, R53); MODE_BCAST with one bit of MASK set is that window's own command (R47, R53). A transition that ends reaches its
destination and posts DONE (R48, R53); an ARM of a streamed burst ends when the Sluice is supplied (R119). A contact check that found more than 0.5
V ends the command with REFUSED and HOT_SWITCH in its starting mode (R53, R188). A switch that misses its time posts FAILED with SWITCH_FAULT and
leaves the mode, the driver off (R53, R189). -/
def Obligations.ModeCommandsFinish : Prop :=
  ((∀ (s : State) (dt : Nat) (w : WinId) (code : BitVec 4) (tag : Byte),
    let a := s.advance dt
    a.takesMode w = true → a.modeFree w = true → a.noneFirst w = true → 9 ≤ code.toNat →
    ∃ t, exec (.modeCmdReserved dt w code tag) s = .next t ∧ Refused a t w code.toNat tag 11) ∧
  (∀ (s : State) (dt : Nat) (c : CluId) (i : Fin 17) (cmd : BitVec 4) (tag : Byte) (checks : List (BitVec 16 × BitVec 16 × ArmReads)) (w : WinId),
    let a := s.advance dt
    let v := checks.getD i.val (0, 0, {})
    (cluWins c)[i.val]? = some w.val → a.takesMode w = true → cmd ≠ 0 →
    ∃ t, exec (.modeBcast dt c cmd tag (BitVec.ofNat 17 (2 ^ i.val)) checks) s = .next t ∧
      exec (modeInstr dt w cmd.toNat tag v.1 v.2.1 v.2.2) s = .next t)) ∧
  (∀ (s : State) (dt : Nat) (w : WinId) (x : Trans),
    let a := s.advance dt
    (a.md w).trans = some x → x.swOp = 0 → x.cancelled = false →
    (x.hot = false → (x.cmd ≠ 4 ∨ (a.sl w).streamFirst = false ∨ a.supplied w = true) →
      ∃ t, exec (.modeTransitionDone dt w) s = .next t ∧ t.mode w = x.target ∧ (t.md w).trans = none ∧ Finished a t w x.cmd x.tag 1 0 ∧
        (t.md w).oversub = x.oversub) ∧
    (x.hot = true → ∃ t, exec (.modeTransitionDone dt w) s = .next t ∧ t.mode w = a.mode w ∧ (t.md w).trans = none ∧
      Finished a t w x.cmd x.tag 2 5) ∧
    (x.hot = false → a.movesSwitch w x = true →
      ∃ t, exec (.switchTimeout dt w) s = .next t ∧ t.mode w = a.mode w ∧ (t.md w).trans = none ∧ Finished a t w x.cmd x.tag 3 13 ∧
        (t.md w).static = .dz ∧ (t.slot (a.slotOf w)).drvEn = false))

/-- CTL.READY_DRIVE is stored in every mode, and in READY or ARMED out of a transition the static drive follows it (R44); AFE_PWR requests and the
end of a power-up change the cluster's AFE alone (R54; that REQ = 0 leaves FAULT for OFF is the model's choice, log 95); a headroom update takes the
value of R30 over the cluster's demand (R30, R32). -/
def Obligations.ReadyDriveAndClusterPower : Prop :=
  (∀ (s : State) (dt : Nat) (w : WinId) (v : BitVec 32),
    let a := s.advance dt
    a.takes (winPage w 0) = true →
    (a.mode w ≠ .ready → a.mode w ≠ .armed →
      exec (.readyDriveWrite dt w v) s = .next (a.setReg (pageAddr (winPage w 0) 0x04C) (v.toNat % 4))) ∧
    (a.mode w = .ready ∨ a.mode w = .armed → (a.md w).trans = none → forces (a.pm w).active = false →
      ∃ t, exec (.readyDriveWrite dt w v) s = .next t ∧ t.wreg w 0 0x04C = v.toNat % 4 ∧ (t.md w).static = drvOf (v.toNat % 4) ∧
        (t.slot (a.slotOf w)).drvEn = decide (v.toNat % 4 < 2) ∧ t.mode w = a.mode w)) ∧
  (∀ (s : State) (dt : Nat) (c : CluId),
    let a := s.advance dt
    a.takes (cluPage c) = true →
    (∃ t, exec (.afePwrReqOn dt c) s = .next t ∧ (t.clu c).afeReq = true ∧ (t.clu c).afeRefused = false ∧
      (t.clu c).afeState = (if (a.clu c).afeState = 0 then 1 else (a.clu c).afeState) ∧ t = { a with clus := t.clus } ∧
      ∀ d, d ≠ c.val → t.clu d = a.clu d) ∧
    ((∀ w ∈ cluWins c, a.mode w = .off ∧ (a.md w).trans = none) →
      ∃ t, exec (.afePwrReqOff dt c) s = .next t ∧ (t.clu c).afeReq = false ∧ (t.clu c).afeState = 0 ∧ t = { a with clus := t.clus } ∧
        ∀ d, d ≠ c.val → t.clu d = a.clu d)) ∧
  (∀ (s : State) (dt : Nat) (c : CluId),
    let a := s.advance dt
    ∃ t, exec (.afePowerUpDone dt c) s = .next t ∧ (t.clu c).afeState = (if (a.clu c).afeState = 1 then 2 else (a.clu c).afeState) ∧
      t = { a with clus := t.clus } ∧ ∀ d, d ≠ c.val → t.clu d = a.clu d) ∧
  (∀ (s : State) (dt : Nat) (c : CluId) (capacity : BitVec 12),
    let a := s.advance dt
    ∃ t, exec (.headroomUpdate dt c capacity) s = .next t ∧ (t.clu c).hrValid = true ∧ (t.clu c).hrSeq = (a.clu c).hrSeq + 1 ∧
      (t.clu c).capacity = capacity.toNat ∧ (t.clu c).noDemand = (a.clusterPeriod c).isNone ∧
      (t.clu c).headroom = (match a.clusterPeriod c with | some p => headroomOf capacity.toNat p | none => 1000) ∧
      t.calm = { a.calm with clus := t.clus })

/-! The sequencer, the fabric and play (R69 to R112, R138 to R149). -/

/-- A write of SEQ.HOST_FLAG, HOST_FLAG_SET or HOST_FLAG_CLR stores, sets or clears host flags and touches nothing else (R72); SEQ.JUMP_TGT written
outside a burst only stores its value (R98). A jump request of an enabled, unrejected slot joins the queue in arrival order when it has room (R99);
one beyond four pending, or while a stop is pending, is dropped and counted; one of a slot that is off or rejected is a program error of code 7;
outside a burst a request has no effect; SEQ.JUMP_CLR empties the queue (R98, R99). Requests of other sources that are due at the same instant come
first (R97). A slot that is looked for is READY once its head is whole in the Sluice, and REJ when the descriptor it then finds cannot be jumped to
(R98). -/
def Obligations.FlagsTargetsAndJumpRequests : Prop :=
  (∀ (s : State) (dt : Nat) (w : WinId),
    let a := s.advance dt
    let r := pageAddr (winPage w 1) 0x048
    a.takes (winPage w 1) = true →
    (∀ val : Byte, ∃ t, exec (.hostFlagWrite dt w val) s = .next t ∧ t.reg r = val.toNat ∧ OnlyReg a t r) ∧
    (∀ val : Byte, ∃ t, exec (.hostFlagSet dt w val) s = .next t ∧ t.reg r = (a.reg r ||| val.toNat) % 256 ∧ OnlyReg a t r) ∧
    (∀ val : Byte, ∃ t, exec (.hostFlagClr dt w val) s = .next t ∧ t.reg r = (a.reg r &&& (255 - val.toNat)) % 256 ∧ OnlyReg a t r) ∧
    (∀ (k : BitVec 2) (val : BitVec 32), (a.sq w).loaded = false → (a.sq w).decided = none → a.noJumpDue w = true →
      ∃ t, exec (.jumpTgtWrite dt w k val) s = .next t ∧ t.jumpShelf w k.toNat = BitVec.ofNat 20 val.toNat ∧
        t.jumpEn w k.toNat = bit val.toNat 24 ∧ OnlyReg a t (pageAddr (winPage w 1) (0x060 + 4 * k.toNat)))) ∧
  (∀ (s : State) (dt : Nat) (w : WinId),
    let a := s.advance dt
    (a.takes (winPage w 1) = true → a.noJumpDue w = true →
      (∀ slot : BitVec 2, (a.sq w).loaded = true → (a.sq w).stop = none → a.jumpEn w slot.toNat = true →
        (a.sq w).jrej.getLsbD slot.toNat = false → (a.sq w).reqs.length < 4 →
        ∃ t, exec (.jumpReq dt w slot) s = .next t ∧ (t.sq w).reqs = insertReq { slot := slot, at_ := a.t } (a.sq w).reqs ∧
          (t.sq w).reqs.length = (a.sq w).reqs.length + 1 ∧ OnlyWin a t w) ∧
      (∀ slot : BitVec 2, (a.sq w).loaded = true → ((a.sq w).stop ≠ none ∨ (a.jumpEn w slot.toNat = true ∧
          (a.sq w).jrej.getLsbD slot.toNat = false ∧ 4 ≤ (a.sq w).reqs.length)) →
        ∃ t, exec (.jumpReq dt w slot) s = .next t ∧ (t.sq w) = (a.sq w) ∧ (t.pl w).jumpOvf = satInc 65535 (a.pl w).jumpOvf ∧ CalmWin a t w) ∧
      (∀ slot : BitVec 2, (a.sq w).loaded = true → (a.sq w).stop = none → (a.jumpEn w slot.toNat = false ∨ (a.sq w).jrej.getLsbD slot.toNat = true) →
        ∃ t, exec (.jumpReq dt w slot) s = .next t ∧ (t.sq w) = (a.sq w) ∧ (t.pl w).perrCode = 7 ∧
          (t.pl w).perrShelf = a.jumpShelf w slot.toNat) ∧
      (∀ slot : BitVec 2, (a.sq w).loaded = false → exec (.jumpReq dt w slot) s = .next a) ∧
      (∃ t, exec (.jumpClr dt w) s = .next t ∧ t.sq w = { a.sq w with reqs := [] } ∧ OnlyWin a t w)) ∧
    (∀ (k : BitVec 2) (reads : JumpReads),
      (a.slotOpen w k = true → ∃ t, exec (.jumpHeadReady dt w k reads) s = .next t ∧ (t.sq w).jready.getLsbD k.toNat = t.slotLoaded w k ∧
        (t.sq w).reqs = (a.sq w).reqs ∧ (t.sq w).cur = (a.sq w).cur ∧ t.mode w = a.mode w) ∧
      (a.slotOpen w k = false → exec (.jumpHeadReady dt w k reads) s = .next a) ∧
      (∀ sh, a.roleShelf w (.jump k) = some sh → roleGet (.jump k) (a.sq w).fetched = none → a.slotRejected w sh = true →
        a.stackOn (w.val / 64 % 2) = true →
        ∃ t, exec (.jumpHeadReady dt w k reads) s = .next t ∧ (t.sq w).jrej.getLsbD k.toNat = true ∧ (t.sq w).jready.getLsbD k.toNat = false)))

/-- A written route gives its input the value INIT, and false for a reserved signal, and discards what was on its way; a written export presents the
signal it names; a change that arrives takes effect at its time (R106, R107). -/
def Obligations.FabricRoutesAndExports : Prop :=
  (∀ (s : State) (dt : Nat) (c : CluId) (i : Byte) (val : BitVec 32),
    let a := s.advance dt
    let w := 16 * c.val + i.toNat / 16
    let v := val.toNat
    a.takes (cluPage c) = true →
    ∃ t, exec (.fabRouteWrite dt c i val) s = .next t ∧
      (t.fb w).ins.getLsbD (i.toNat % 16) = (bit v 16 && !(bits v 0 2 = 1 && 5 ≤ bits v 12 3)) ∧
      (∀ d ∈ (t.fb w).due, d.2.1 ≠ i.toNat % 16) ∧ (∀ k, k ≠ i.toNat % 16 → (t.fb w).ins.getLsbD k = (a.fb w).ins.getLsbD k) ∧
      t = { a with wins := t.wins, clus := t.clus, regs := t.regs } ∧ ∀ v, v ≠ w → t.win v = a.win v) ∧
  (∀ (s : State) (dt : Nat) (c : CluId) (e : BitVec 3) (val : BitVec 32),
    let a := s.advance dt
    let v := val.toNat
    a.takes (cluPage c) = true →
    ∃ t, exec (.fabExportWrite dt c e val) s = .next t ∧
      (t.clu c).expo.getLsbD e.toNat = (bit v 8 && a.sigOf (16 * c.val + bits v 0 4) (bits v 4 3)) ∧
      t.creg c (0x800 + 4 * e.toNat) = bits v 0 7 + bits v 8 1 * 256 ∧ ∀ d, d ≠ c.val → t.clu d = a.clu d) ∧
  (∀ (s : State) (dt : Nat) (w : WinId) (i : BitVec 4),
    let a := s.advance dt
    ∃ t, exec (.fabricInputChange dt w i) s = .next t ∧ (t.fb w).ins.getLsbD i.toNat = (a.fb w).val i.toNat a.t ∧
      (∀ k, k ≠ i.toNat → (t.fb w).ins.getLsbD k = (a.fb w).ins.getLsbD k) ∧ OnlyWin a t w)

/-- A descriptor that arrives for a role is held as fetched when its word is sound and passes its checks, and as failed else (R83); one already held
is not fetched again, but a fetch for the one known successor then goes on along the chain of segments (R83, R96). Nothing is fetched or read while
the stack is not ACTIVE (R388). A stack read appends slices to the role's buffer, in order, from the segment's next slice on, and never more than
were read (R95, R96); a resident segment's slice holds what the stack holds, an uncorrectable word apart (R61, R62, R272). A read for that successor
when its head is whole serves its later plays and the segments after it (R96). -/
def Obligations.FetchesAndReads : Prop :=
  (∀ (s : State) (dt : Nat) (w : WinId) (role : Role) (reads : EntryReads) (sh : Shelf),
    let a := s.advance dt
    a.roleShelf w role = some sh → roleGet role (a.sq w).fetched = none → a.stackOn (w.val / 64 % 2) = true →
    ((∃ k, role = .jump k) → a.slotRejected w sh = false) →
    ∃ t, exec (.descriptorFetch dt w role reads) s = .next t ∧
      roleGet role (t.sq w).fetched = some (if decide (reads.store ≠ .bad) && a.fetchOk w sh &&
        ((a.sq w).nextOfPlay role || !dStream (a.desc w (entryOf sh))) then .good (a.desc w (entryOf sh)) else .failed sh) ∧
      (∀ r, r ≠ role → roleGet r (t.sq w).fetched = roleGet r (a.sq w).fetched) ∧ (t.sq w).cur = (a.sq w).cur ∧
      ∀ v, v ≠ w.val → t.win v = a.win v) ∧
  (∀ (s : State) (dt : Nat) (w : WinId) (role : Role) (reads : EntryReads),
    let a := s.advance dt
    (a.stackOn (w.val / 64 % 2) = false → exec (.descriptorFetch dt w role reads) s = .next ((a.cacheRead reads.cache))) ∧
    (a.roleShelf w role = none ∨ (roleGet role (a.sq w).fetched).isSome = true →
    ∃ t, exec (.descriptorFetch dt w role reads) s = .next t ∧ t.sq w = a.sq w ∧ (t.sl w).bufs = (a.sl w).bufs ∧
      (∃ new, (t.sl w).chain = (a.sl w).chain ++ new ∧ new.length ≤ 1 ∧ (role ≠ linkRole (a.sq w).cur → new = [])) ∧
      ∀ v, v ≠ w.val → t.win v = a.win v)) ∧
  (∀ (s : State) (dt : Nat) (w : WinId) (role : Role) (n : Nat) (bad laneBad : Word) (corrected : Bool) (d : RawDesc),
    let a := s.advance dt
    let b := (a.sl w).buf role
    (a.stackOn (w.val / 64 % 2) = false → exec (.stackReadDone dt w role n bad laneBad corrected) s = .next a) ∧
    ((a.sq w).loaded = true → a.stackOn (w.val / 64 % 2) = true → a.bankOn (cluOf w) = true → (a.sq w).segOf role = some d →
    (a.nextWhole w role = false →
      ∃ t, exec (.stackReadDone dt w role n bad laneBad corrected) s = .next t ∧ t.sq w = a.sq w ∧
        (∃ new : List Slice, ((t.sl w).buf role).slices = b.slices ++ new ∧ new.length ≤ n ∧
          (dStream d = false → new = (List.range new.length).map fun i =>
            a.readSlice w d ((b.lo + b.slices.length + i) % dSlices d) (bad.getLsbD i) (laneBad.getLsbD i))) ∧
        ((t.sl w).buf role).lo = b.lo ∧ (∀ r, r ≠ role → (t.sl w).buf r = (a.sl w).buf r) ∧
        ∀ v, v ≠ w.val → t.win v = a.win v) ∧
    (a.nextWhole w role = true →
      ∃ t, exec (.stackReadDone dt w role n bad laneBad corrected) s = .next t ∧ t.sq w = a.sq w ∧ (t.sl w).bufs = (a.sl w).bufs ∧
        (t.sl w).chain.length = (a.sl w).chain.length ∧ ∀ v, v ≠ w.val → t.win v = a.win v)))

/-- At a play's decision point what follows is fixed once (R89, R90): a landing that a stop, an error or an underrun began ends the burst; else a
stop that applies outweighs all, then the oldest pending jump whose target is ready, then what the program says. A choice whose descriptor is held
as failed is entry 1's landing, and a program error of its code then (R83, R93). That a pending jump acts at the decision point of a LAND that the
program has reached is the model's reading (log 100), and so is the instant of a program error that the choice itself makes: the decision point (log
48, DEDUCED). Once fixed, the command has no further effect. At a play's boundary, what its decision fixed starts (R88, R90): the same segment
again, with its play number one higher; the NEXT, ALT, popped or jumped-to descriptor; a CALL pushes its return shelfmark and a RETURN pops it
(R93); entry 1's landing for a stop or a program error (R83, R103). -/
def Obligations.DecisionsAndBoundaries : Prop :=
  (∀ (s : State) (dt : Nat) (w : WinId),
    let a := s.advance dt
    let q := a.sq w
    let prog := a.programChoice w (a.pl w).decT
    let seg := decide (prog ≠ .again) || dKind q.cur = 3 || dKind q.cur = 4
    (q.owesDecision = false → exec (.decisionPoint dt w) s = .next a) ∧
    (a.mode w = .run → (a.pl w).begun = true → (a.ho w).on = false → q.owesDecision = true → a.noJumpDue w = true →
      (2 ≤ q.landing → ∃ t, exec (.decisionPoint dt w) s = .next t ∧ t.sq w = { q with decided := some .finish } ∧ OnlyWin a t w) ∧
      (q.landing < 2 → q.stopDue seg (a.pl w).decT = true →
        ∃ t, exec (.decisionPoint dt w) s = .next t ∧ t.sq w = { q with decided := some .stopLand } ∧ OnlyWin a t w) ∧
      (∀ (c : Choice) (left : List JumpReq), q.landing < 2 → q.stopDue seg (a.pl w).decT = false →
        ((∃ r, readyReq q.jready (a.pl w).decT q.reqs = some (r, left) ∧ c = q.checkChoice (.jump r.slot)) ∨
          (readyReq q.jready (a.pl w).decT q.reqs = none ∧ left = q.reqs ∧ c = q.checkChoice prog)) →
        ∃ t, exec (.decisionPoint dt w) s = .next t ∧ t.sq w = { q with reqs := left, decided := some c } ∧
          ((∀ n sh, c ≠ .errLand n sh) → OnlyWin a t w) ∧
          ∀ n sh, c = .errLand n sh → (t.pl w).perrCode = n ∧ (t.pl w).perrShelf = sh ∧ (t.pl w).perrSeq = (a.pl w).perrSeq + 1))) ∧
  (∀ (s : State) (dt : Nat) (w : WinId),
    let a := s.advance dt
    let q := a.sq w
    a.mode w = .run → (a.pl w).begun = true → (a.ho w).on = false → q.ofs = q.playEnd → (a.pl w).nextT ≤ a.t → a.stageDue w = false →
    (q.decided = some .again → ∃ t, exec (.playBoundary dt w) s = .next t ∧ (t.sq w).play = q.play + 1 ∧ (t.sq w).ofs = 0 ∧
      (t.sq w).cur = q.cur ∧ (t.sq w).decided = none ∧ (t.sq w).stack = q.stack) ∧
    (∀ d, q.decided = some .next → roleGet .next q.fetched = some (.good d) → ∃ t, exec (.playBoundary dt w) s = .next t ∧ (t.sq w).cur = d ∧
      (t.sq w).play = 1 ∧ (t.sq w).ofs = 0 ∧ (t.sq w).decided = none ∧
      (t.sq w).stack = (if dKind q.cur = 5 then dAlt q.cur :: q.stack else q.stack)) ∧
    (∀ d, q.decided = some .alt → roleGet .alt q.fetched = some (.good d) → ∃ t, exec (.playBoundary dt w) s = .next t ∧ (t.sq w).cur = d ∧
      (t.sq w).play = 1 ∧ (t.sq w).ofs = 0 ∧ (t.sq w).stack = q.stack) ∧
    (∀ d, q.decided = some .ret → roleGet .ret q.fetched = some (.good d) → ∃ t, exec (.playBoundary dt w) s = .next t ∧ (t.sq w).cur = d ∧
      (t.sq w).play = 1 ∧ (t.sq w).ofs = 0 ∧ (t.sq w).stack = q.stack.tail) ∧
    (∀ k d, q.decided = some (.jump k) → roleGet (.jump k) q.fetched = some (.good d) → ∃ t, exec (.playBoundary dt w) s = .next t ∧
      (t.sq w).cur = d ∧ (t.sq w).play = 1 ∧ (t.sq w).ofs = 0 ∧ (t.sq w).stack = q.stack) ∧
    (q.decided = some .stopLand → ∃ t, exec (.playBoundary dt w) s = .next t ∧ (t.sq w).cur = q.land1 ∧ (t.sq w).landing = 2 ∧
      (t.sq w).play = 1 ∧ (t.sq w).ofs = 0) ∧
    (∀ n sh, q.decided = some (.errLand n sh) → ∃ t, exec (.playBoundary dt w) s = .next t ∧ (t.sq w).cur = q.land1 ∧ (t.sq w).landing = 3 ∧
      (t.sq w).play = 1 ∧ (t.sq w).ofs = 0))

/-- A due vector in the Sluice plays (R59, R149): the next is due one period later, the offset and the count of vectors rise by one, and the driver
remembers what an ordinary code without a strobe drove. A due vector that is missing starts the holding pattern at that instant with the pattern's
vector 0 (R138). In the holding pattern its due vector plays (R139). Nothing is due before its time, nor while a decision or a staged change comes
first (R89, R165). -/
def Obligations.VectorsPlayOrUnderrun : Prop :=
  ∀ (s : State) (dt : Nat) (w : WinId) (reads : WordReads),
    let a := s.advance dt
    let q := a.sq w
    let h := a.ho w
    a.mode w = .run → (a.pl w).begun = true →
    (h.on = false → a.t < (a.pl w).nextT ∨ q.owesDecision = true ∨ a.stageDue w = true → exec (.vectorStart dt w reads) s = .next a) ∧
    (h.on = false → (a.pl w).nextT ≤ a.t → q.ofs < q.playEnd → q.owesDecision = false → a.stageDue w = false →
      (∀ x, a.slicePresent w = some x →
        let code := (a.readDue w x reads.word reads.lane).1.code (dKind q.cur = 7 && a.condHolds w q.cur (a.pl w).nextT) (dInput q.cur q.ofs)
        ∃ t, exec (.vectorStart dt w reads) s = .next t ∧ (t.sq w).ofs = q.ofs + 1 ∧ (t.sq w).play = q.play ∧
          (t.pl w).nextT = (a.pl w).nextT + periodOf (a.activeView w) (a.pl w).entry (a.pl w).n ∧ (t.pl w).lastT = (a.pl w).nextT ∧
          (t.pl w).vectors = (a.pl w).vectors + 1 ∧ (t.pl w).n = (a.pl w).n + 1 ∧ t.mode w = .run ∧ (t.ho w).on = false ∧
          (isInvalid code = false → hasStrobe code = false → (t.pl w).remembered = rememberAfter (a.pl w).remembered code)) ∧
      (a.slicePresent w = none →
        ∃ t, exec (.vectorStart dt w reads) s = .next t ∧ (t.ho w).on = true ∧ (t.ho w).at_ = (a.pl w).nextT ∧ (t.ho w).pass = 1 ∧
          (t.ho w).ofs = 1 ∧ (t.ho w).underruns = satInc 65535 h.underruns ∧ (t.sq w).ofs = q.ofs ∧
          (t.pl w).vectors = (a.pl w).vectors ∧ t.mode w = .run)) ∧
    (h.on = true → h.nextT ≤ a.t → h.ofs < q.holdLen → (h.ofs + 63 = q.holdLen → h.resumeAt ≠ none) →
      ∃ t, exec (.vectorStart dt w reads) s = .next t ∧ (t.ho w).on = true ∧ (t.ho w).ofs = h.ofs + 1 ∧ (t.ho w).nextT = h.nextT + h.period ∧
        (t.ho w).vecs = h.vecs + 1 ∧ t.sq w = q ∧ (t.pl w).vectors = (a.pl w).vectors ∧ t.mode w = .run)

/-- In the holding pattern each pass of H vectors has a resume point 64 vectors before its end; the pass is the last when supply is back there or a
stop applies (R139, R142), and else another pass follows, as it does when a stop comes after the resume point of a pass that would have been the
last (R142). With RESUME_AT_VECTOR the pin goes on with the interrupted play at the missing vector, with RESTART_SEGMENT at vector 0 of that play,
and with LAND in entry 1's landing (R140); for a stop entry 1's landing follows (R142). -/
def Obligations.HoldingPasses : Prop :=
  (∀ (s : State) (dt : Nat) (w : WinId),
    let a := s.advance dt
    let h := a.ho w
    (h.on = true → h.ofs + 63 = (a.sq w).holdLen → h.resumeAt = none →
      ∃ t, exec (.holdingResumePoint dt w) s = .next t ∧ t.ho w = { h with
        resumeAt := some (h.nextT - h.period)
        last := a.supplied w || a.stopInHold w (h.nextT - h.period) } ∧ ((a.sq w).refetches = false → OnlyWin a t w)) ∧
    ((h.on = false ∨ h.ofs + 63 ≠ (a.sq w).holdLen ∨ h.resumeAt ≠ none) → exec (.holdingResumePoint dt w) s = .next a)) ∧
  (∀ (s : State) (dt : Nat) (w : WinId),
    let a := s.advance dt
    let h := a.ho w
    let land := match h.resumeAt with | some r => a.stopInHold w r | none => false
    let leaves := fun (policy : Nat) (more : State → Prop) => h.last = true → land = false → a.stopInHold w (h.nextT - 1) = false →
      (a.sq w).policyNow = policy → ∃ t, exec (.holdingPassEnd dt w) s = .next t ∧ (t.ho w).on = false ∧ (t.ho w).policy = policy ∧
        (t.pl w).nextT = h.nextT ∧ more t
    h.on = true → h.ofs = (a.sq w).holdLen → h.nextT ≤ a.t →
    (land = false → h.last = false ∨ a.stopInHold w (h.nextT - 1) = true →
      ∃ t, exec (.holdingPassEnd dt w) s = .next t ∧ t.ho w = { h with pass := h.pass + 1, ofs := 0, resumeAt := none } ∧ OnlyWin a t w) ∧
    leaves 0 (fun t => (t.sq w).ofs = (a.sq w).ofs ∧ (t.sq w).cur = (a.sq w).cur ∧ (t.sq w).play = (a.sq w).play) ∧
    leaves 1 (fun t => (t.sq w).ofs = 0 ∧ (t.sq w).cur = (a.sq w).cur ∧ (t.sq w).play = (a.sq w).play ∧
      ((a.sq w).ofs ≠ 0 → (t.pl w).entry = (a.pl w).entry0 ∧ (t.pl w).n = (a.pl w).n0 ∧ (t.sq w).playFail = false)) ∧
    leaves 2 (fun t => (t.ho w).landed = true ∧ (t.sq w).cur = (a.sq w).land1 ∧ (t.sq w).landing = 3 ∧ (t.sq w).play = 1 ∧ (t.sq w).ofs = 0) ∧
    (land = true → ∃ t, exec (.holdingPassEnd dt w) s = .next t ∧ (t.ho w).on = false ∧
      (t.ho w).policy = 3 ∧ (t.sq w).cur = (a.sq w).land1 ∧ (t.sq w).landing = 2 ∧ (t.pl w).nextT = h.nextT))

/-! Streaming, the timebase, staged timing and calibration (R113 to R172). -/

/-- A producer index within the ring is stored, whatever the reserved bits above PROD (R121, R368); one past full, or too wide for the ring (the
model's choice, log 102), is refused and breaks the stream with cause 5 (R121); a consumer index that moves at the same instant is not yet seen
(R112, R113). Legal writes of SLU.INT_RING and SLU.CFG take effect, and an illegal one is refused and changes no configuration (R114, R117). The
intake engine serves the next window, round robin, that can issue a request, with a free tag (R129, R131); the consumer index is posted to the
address of SLU.INT_POST when it has moved and the latest post is a microsecond old (R121). -/
def Obligations.IntakeRegistersAndTraffic : Prop :=
  (∀ (s : State) (dt : Nat) (w : WinId),
    let a := s.advance dt
    a.takes (winPage w 2) = true →
    (∀ val : BitVec 32,
      let n := 2 ^ (a.ringBits w + 1)
      let prod := val.toNat % 2 ^ 17
      let seen := ((a.ik w).cons + n - movedNow (a.ik w).consNow a.now) % n
      let legal := prod < n ∧ (prod + n - seen) % n ≤ 2 ^ a.ringBits w
      (legal → ∃ t, exec (.intProdWrite dt w val) s = .next t ∧ t.wreg w 2 0x060 = prod ∧ (t.ik w).broken = (a.ik w).broken ∧
        t = { a with regs := t.regs, wins := t.wins } ∧ (∀ x, x ≠ pageAddr (winPage w 2) 0x060 → t.reg x = a.reg x) ∧
        ∀ v, v ≠ w.val → t.win v = a.win v) ∧
      (¬ legal → ∃ t, exec (.intProdWrite dt w val) s = .next t ∧ (t.ik w).broken = 5 ∧ (t.ik w).errCause = 5 ∧ (t.ik w).errShelf = nullShelf ∧
        (t.ik w).bufs = [] ∧ (t.ik w).bytes = [] ∧ t.sq w = a.sq w ∧ CalmWin a t w)) ∧
    (∀ val : Word,
      (a.armedRun w = false → bits val.toNat 0 4 ≤ 12 → ∃ t, exec (.intRingWrite dt w val) s = .next t ∧
        t.wreg w 2 0x050 = bits val.toNat 0 5 + bits val.toNat 12 52 * 4096 ∧ t.wreg w 2 0x060 = 0 ∧ (t.ik w).cons = 0 ∧ (t.ik w).fetch = 0 ∧
        (t.ik w).skipping = false ∧ (t.ik w).bufs = [] ∧ (t.sl w).cfgRefused = false ∧ ∀ v, v ≠ w.val → t.win v = a.win v) ∧
      ((a.armedRun w = true ∨ 12 < bits val.toNat 0 4) → ∃ t, exec (.intRingWrite dt w val) s = .next t ∧ (t.sl w).cfgRefused = true ∧
        t.ik w = a.ik w ∧ CalmWin a t w)) ∧
    (∀ val : BitVec 32,
      let size := 8192 * 2 ^ bits val.toNat 0 3
      let illegal := a.armedRun w = true ∨ 5 < bits val.toNat 0 3 ∨ bits val.toNat 8 12 ≤ bits val.toNat 20 12 ∨
        size - 6144 < 64 * bits val.toNat 8 12 ∨ 2 * 0x100000 < a.otherSluices w + size
      (¬ illegal → ∃ t, exec (.sluCfgWrite dt w val) s = .next t ∧ t.sluSize w = size ∧ bits (t.wreg w 2 0x040) 8 12 = bits val.toNat 8 12 ∧
        bits (t.wreg w 2 0x040) 20 12 = bits val.toNat 20 12 ∧ (t.sl w).cfgRefused = false ∧ ∀ v, v ≠ w.val → t.win v = a.win v) ∧
      (illegal → ∃ t, exec (.sluCfgWrite dt w val) s = .next t ∧ (t.sl w).cfgRefused = true ∧ t.ik w = a.ik w ∧ CalmWin a t w))) ∧
  ((∀ (s : State) (dt : Nat) (w tag addr n : Nat) (d : Bool),
    let a := s.advance dt
    a.canIssue = true → ((List.range 136).map fun i => (a.host.lastWin + 1 + i) % 136).find? (fun w => (a.issuable w).isSome) = some w →
    freeTag (a.host.tags.map (·.1)) a.host.poolSize 0 = some tag → a.issuable w = some (addr, n, d) →
    ∃ t, exec (.intakeReadRequest dt) s = .next t ∧ t.out = a.out ++ [.read tag addr n] ∧
      t.host = { a.host with tags := a.host.tags ++ [(tag, w)], lastWin := w } ∧
      (t.ik w).reqs = (a.ik w).reqs ++ [{ tag := tag, size := n, got := [], taken := 0, desc := d, dead := false }] ∧ tag ∉ a.host.tags.map (·.1) ∧
      (∀ v, v ≠ w → t.win v = a.win v)) ∧
  (∀ (s : State) (dt : Nat) (w : WinId),
    let a := s.advance dt
    (a.ik w).postDue = true → (∀ t, (a.ik w).postAt = some t → t + us ≤ a.now) → bit (a.wreg w 2 0x058) 0 = true → a.canIssue = true →
    ∃ t, exec (.consIndexPost dt w) s = .next t ∧
      t.out = a.out ++ [.write (bits (a.wreg w 2 0x058) 3 61 * 8) (bytesOf (a.ik w).cons 8)] ∧
      t.ik w = { a.ik w with postDue := false, postAt := some a.now } ∧ t = { a with wins := t.wins, out := t.out } ∧
      ∀ v, v ≠ w.val → t.win v = a.win v))

/-- A completion that carries an error, and a completion timeout, free the tag and break the stream of their window with cause 6 (R132, R293). A
completion with data keeps its tag until the request is whole, and touches no other window (R131); the data of a descriptor read that is not yet
whole joins it and changes nothing else. -/
def Obligations.CompletionsArrive : Prop :=
  ∀ (s : State) (dt tag w : Nat) (q : Req),
    let a := s.advance dt
    a.host.tags.find? (fun x => x.1 = tag) = some (tag, w) → (a.ik w).reqs.find? (fun q => q.out tag) = some q →
    (∀ (data : List Byte) (status : CplStatus) (e : IntakeReads), status ≠ .ok → q.dead = false →
      ∃ t, exec (.readCompletion dt tag data status e) s = .next t ∧ (t.ik w).broken = 6 ∧ (t.ik w).errCause = 6 ∧
        t.host.tags = a.host.tags.filter (fun x => decide (x.1 ≠ tag)) ∧ (∀ r ∈ (t.ik w).reqs, r.out tag = false) ∧ t.stackMem = a.stackMem ∧
        ∀ v, v ≠ w → t.win v = a.win v) ∧
    (q.dead = false → ∃ t, exec (.cplTimeout dt tag) s = .next t ∧ (t.ik w).broken = 6 ∧
      t.host.tags = a.host.tags.filter (fun x => decide (x.1 ≠ tag)) ∧ ∀ v, v ≠ w → t.win v = a.win v) ∧
    (∀ (data : List Byte) (e : IntakeReads), ∃ t, exec (.readCompletion dt tag data .ok e) s = .next t ∧
      t.host.tags = (if q.got.length + data.length < q.size then a.host.tags else a.host.tags.filter (fun x => decide (x.1 ≠ tag))) ∧
      ∀ v, v ≠ w → t.win v = a.win v) ∧
    (∀ (data : List Byte) (e : IntakeReads) (rest : List Req), (a.ik w).reqs = q :: rest → q.desc = true → q.dead = false →
      (∀ r ∈ rest, r.out tag = false) → (a.ik w).bytes.length < 32 → q.got.length + data.length < q.size →
      ∃ t, exec (.readCompletion dt tag data .ok e) s = .next t ∧
        t.ik w = { a.ik w with reqs := { q with got := q.got ++ data, taken := q.got.length + data.length } :: rest } ∧ OnlyWin a t w)

/-- A load frame stores plaintext in the pin's vector area and nowhere else: no byte outside the 402,653,184 bytes of that area changes when frames
are parsed as data arrives (R127). -/
def Obligations.FramesWriteOnlyTheirVectorArea : Prop :=
  ∀ (s : State) (dt tag w : Nat) (data : List Byte) (status : CplStatus) (e : IntakeReads),
    let a := s.advance dt
    a.host.tags.find? (fun x => x.1 = tag) = some (tag, w) → bits (a.wreg w 2 0x048) 0 9 + 2 ^ bits (a.wreg w 2 0x048) 12 3 ≤ 384 →
    ∃ t, exec (.readCompletion dt tag data status e) s = .next t ∧ t.wsMem = a.wsMem ∧
      ∀ x, (x < vecArea w ∨ vecArea w + 0x18000000 ≤ x) → Memory.read t.stackMem x = Memory.read a.stackMem x

/-- Loss of lock enters holdover, counts and notes the GT (R146, R147); the reference's return starts the slew with the phase error found, the
deviation from position 0 where the part slews to its link (R358), and its end locks the timebase again (R148), aligned with the link where it
followed that (R358). GT that reaches 2^64 raises the epoch by one (R13). -/
def Obligations.LockAndEpoch : Prop :=
  (∀ (s : State) (dt : Nat) (missing : Bool),
    let a := s.advance dt
    a.ref.locked = true → ∃ t, exec (.lossOfLock dt missing) s = .next t ∧
      t.ref = { a.ref with locked := false, holdover := true, present := !missing, losses := satInc 65535 a.ref.losses, lossT := gtOf a.t } ∧
      t.calm = { a.calm with ref := t.ref }) ∧
  (∀ (s : State) (dt : Nat) (phase : BitVec 40),
    let a := s.advance dt
    a.ref.locked = false → a.gtRun = true → ∃ t, exec (.referenceReturn dt phase) s = .next t ∧ t.ref.slewing = true ∧ t.ref.present = true ∧
      t.ref.phase = a.phaseFound phase ∧ t.ref.phaseNyw = a.slewsToLink ∧ t.ref.locked = false ∧ t.calm = { a.calm with ref := t.ref }) ∧
  (∀ (s : State) (dt : Nat),
    let a := s.advance dt
    a.ref.slewing = true → ∃ t, exec (.relockDone dt) s = .next t ∧
      t.ref = { a.ref with slewing := false, locked := true, holdover := false, relockT := gtOf a.t,
                           aligned := a.ref.aligned || a.ref.phaseNyw } ∧
      (a.ref.phaseNyw = false → t.calm = { a.calm with ref := t.ref }) ∧
      (a.ref.phaseNyw = true → t.calm = { a.calm with ref := t.ref, syn := t.syn, freeN := t.freeN } ∧
        ∃ d : Int, d.natAbs ≤ 2 ∧ t.syn = { a.syn with dev := devOf d, devAll := some d })) ∧
  (∀ s : State, s.gtRun = true → ∃ t, exec .epochWrap s = .next t ∧ gtOf t.t = 0 ∧ epochOf t.t = (epochOf s.t + 1) % 65536)

/-- TIM.STAGE_CMD that meets its checks takes the shadows as the pending set with the time it arrived; one refused leaves the pending set and the
active values, with the first check that fails and its time-set or entry in STAGE_STAT: BAD_POINT, BUSY, FORMAT, PAIR, PERIOD_RANGE and, in ARMED
and RUN, LIMIT and ENTRY_IN_USE (R164, R167). A pending set takes effect whole: outside RUN at once, in RUN at the boundary that it waits for
(R165). -/
def Obligations.StagedTiming : Prop :=
  (∀ (s : State) (dt : Nat) (w : WinId) (point : BitVec 2),
    let a := s.advance dt
    a.takes (winPage w 3) = true →
    let T := pendView (a.shadows w)
    let first := fun (bad : Nat → Bool) => (List.range 64).find? bad
    let refused := fun (reason set_ : Nat) => ∃ t, exec (.stageCmd dt w point) s = .next t ∧ (t.tm w).pend = (a.tm w).pend ∧
      (t.tm w).active = (a.tm w).active ∧ (t.tm w).res.outcome = 2 ∧ (t.tm w).res.reason = reason ∧ (t.tm w).tset = set_ ∧
      (t.tm w).res.seq = (a.tm w).res.seq + 1
    (point ≠ 3 → (a.tm w).pend = none → a.stageFault w (a.shadows w) = none →
      ∃ t, exec (.stageCmd dt w point) s = .next t ∧ (t.tm w).pend = some (a.shadows w, if a.mode w = .run then point.toNat else 3, a.t) ∧
        (t.tm w).active = (a.tm w).active ∧ (t.tm w).res = { (a.tm w).res with valid := false } ∧ OnlyWin a t w) ∧
    ((point = 3 ∨ (a.tm w).pend ≠ none) → refused (if point = 3 then 7 else 1) 0) ∧
    (point ≠ 3 → (a.tm w).pend = none →
      (∀ e, first (badFormat T) = some e → refused 2 e) ∧
      (first (badFormat T) = none →
        (∀ e, first (badPair T) = some e → refused 3 e) ∧
        (first (badPair T) = none →
          (∀ e, first (badRange T) = some e → refused 4 e) ∧
          (first (badRange T) = none → a.armedRun w = true →
            (∀ e, lowestPeriod (a.burstFaults w T (a.wreg w 5 0x040)) = some e → refused 5 e) ∧
            (lowestPeriod (a.burstFaults w T (a.wreg w 5 0x040)) = none →
              ∀ e, first (fun e => (a.usedEntries w).contains e && !perEn T e) = some e → refused 6 e)))))) ∧
  (∀ (s : State) (dt : Nat) (w : WinId) (tab : Tab Word) (point t0 : Nat),
    let a := s.advance dt
    (a.tm w).pend = some (tab, point, t0) → a.mode w ≠ .run →
    ∃ t, exec (.stageApply dt w) s = .next t ∧ (t.tm w).active = tab ∧ (t.tm w).pend = none ∧ (t.tm w).res.outcome = 1 ∧
      (t.tm w).res.seq = (a.tm w).res.seq + 1 ∧ (t.tm w).applyT = a.t ∧ t.calm = { a.calm with wins := t.wins, pgSeq := t.pgSeq } ∧
      ∀ v, v ≠ w.val → t.win v = a.win v) ∧
  (∀ (s : State) (dt : Nat) (w : WinId) (tab : Tab Word) (point t0 : Nat),
    let a := s.advance dt
    (a.tm w).pend = some (tab, point, t0) → a.mode w = .run → point ≠ 3 → a.stageDue w = true → (a.pl w).nextT ≤ a.t →
    ∃ t, exec (.stageApply dt w) s = .next t ∧ (t.tm w).active = tab ∧ (t.tm w).pend = none ∧ (t.tm w).res.outcome = 1 ∧
      (t.tm w).applyT = (a.pl w).nextT ∧ ∀ v, v ≠ w.val → t.win v = a.win v)

/-- TIM.CAL_CMD: a measurement starts when the window is in SERVICE, K_CAL is closed, the AFE is on, the timebase locked and no other runs in the
cluster (R170); outside SERVICE it is refused with REASON 1 (R170). RESTORE_SEED takes the seed's terms at once outside ARMED and RUN (R169), unless
the slot's own measurement runs (the model's choice, log 116). A legal write of TIM.CAL_PATH takes that path's terms; another has no effect (R171).
A measurement that saw its reference posts DONE with its terms and time, and MEASURE_APPLY puts them to use (R170); its record joins the slot's
history, in the ring once the stack serves, and in no other place (R268). One that saw no reference posts FAILED and changes no term (R170). The
first reading of the delay replica is the reference; a later one makes the change since then what the drift term moves to, by at most 1 tq per 10 µs
(R172). -/
def Obligations.Calibration : Prop :=
  (∀ (s : State) (dt : Nat) (w : WinId),
    let a := s.advance dt
    let k := a.slotOf w
    a.takes (winPage w 3) = true →
    (a.mode w = .service → (a.slot k).kcal = true → (a.clu (k / 17)).afeState = 2 → a.ref.locked = true → a.calBusy (k / 17) = false →
      (∃ t, exec (.calMeasure dt w) s = .next t ∧ t.slot k = { a.slot k with calOp := some 1, cal := (a.slot k).cal.busy } ∧ OnlySlot a t k) ∧
      (∃ t, exec (.calMeasureApply dt w) s = .next t ∧ t.slot k = { a.slot k with calOp := some 2, cal := (a.slot k).cal.busy } ∧ OnlySlot a t k)) ∧
    (a.mode w ≠ .service → ∃ t, exec (.calMeasure dt w) s = .next t ∧ (t.slot k).cal.outcome = 2 ∧ (t.slot k).cal.reason = 1 ∧
      (t.slot k).calOp = (a.slot k).calOp ∧ t.calm = { a.calm with slots := t.slots, pgSeq := t.pgSeq }) ∧
    (a.armedRun w = false → (a.slot k).calOp = none →
      ∃ t, exec (.restoreSeed dt w) s = .next t ∧ (t.slot k).chTerm = a.seedTerms k ∧ (t.slot k).pathTerm = a.pathTerms k (a.sreg k 3 0x088) ∧
        (t.slot k).drift = 0 ∧ (t.slot k).cal.outcome = 1 ∧ (t.slot k).cal.seq = (a.slot k).cal.seq + 1 ∧
        t.calm = { a.calm with slots := t.slots, pgSeq := t.pgSeq } ∧ ∀ j, j ≠ k → t.slot j = a.slot j) ∧
    (∀ val : BitVec 32,
      let path := bits val.toNat 0 5
      let legal := a.armedRun w = false ∧ if k % 17 = 16 then path ≤ 15 else path = 16
      (legal → ∃ t, exec (.calPathWrite dt w val) s = .next t ∧ (t.slot k).pathTerm = a.pathTerms k path ∧ t.sreg k 3 0x088 = path ∧
        t = { a with slots := t.slots, regs := t.regs } ∧ ∀ j, j ≠ k → t.slot j = a.slot j) ∧
      (¬ legal → exec (.calPathWrite dt w val) s = .next a))) ∧
  ((∀ (s : State) (dt : Nat) (w : WinId) (terms : BitVec 60) (tj : Byte) (op : Nat),
    let a := s.advance dt
    let k := a.slotOf w
    (a.slot k).calOp = some op →
    (∃ t, exec (.calDone dt w terms tj true) s = .next t ∧ (t.slot k).meas = terms ∧ (t.slot k).calTj = tj ∧ (t.slot k).calT = gtOf a.t ∧
      (t.slot k).chTerm = (if op = 2 then terms else (a.slot k).chTerm) ∧ (t.slot k).calOp = none ∧ (t.slot k).cal.outcome = 1 ∧
      (a.stackOn (k / 17 / 4) = true → (t.slot k).histDue = []) ∧
      (a.stackOn (k / 17 / 4) = false → t.stackMem = a.stackMem ∧ ∃ r, (t.slot k).histDue = (a.slot k).histDue ++ [r]) ∧
      (∀ j, j ≠ k → t.slot j = a.slot j) ∧
      ∀ x, (x < calRing k ∨ calRing k + 32 * 65536 ≤ x) → Memory.read t.stackMem x = Memory.read a.stackMem x) ∧
    (∃ t, exec (.calDone dt w terms tj false) s = .next t ∧ (t.slot k).cal.outcome = 3 ∧ (t.slot k).cal.reason = 8 ∧ (t.slot k).calOp = none ∧
      (t.slot k).meas = (a.slot k).meas ∧ (t.slot k).chTerm = (a.slot k).chTerm ∧ t.stackMem = a.stackMem)) ∧
  (∀ (s : State) (dt : Nat) (k : SlotId) (reading : Int),
    let a := s.advance dt
    let x := a.slot k
    x.afeOn = true → bit (a.sreg k 3 0x090) 0 = true →
    (x.driftRef = none → ∃ t, exec (.driftMeasure dt k reading) s = .next t ∧ (t.slot k).driftRef = some reading ∧ (t.slot k).drift = 0 ∧
      (t.slot k).driftTo = 0 ∧ OnlySlot a t k) ∧
    (∀ ref, x.driftRef = some ref → ∃ t, exec (.driftMeasure dt k reading) s = .next t ∧ (t.slot k).driftRef = some ref ∧
      (t.slot k).driftTo = reading - ref ∧ (t.slot k).drift = x.driftAt a.now ∧ (t.slot k).driftT = a.now ∧
      t.calm = { a.calm with slots := t.slots } ∧ ∀ j, j ≠ k.val → t.slot j = a.slot j)) ∧
  (∀ (x : Slot) (now : Nat), (x.driftAt now - x.drift).natAbs ≤ (now - x.driftT) / (10 * us) ∧
    (x.drift ≤ x.driftTo → x.drift ≤ x.driftAt now ∧ x.driftAt now ≤ x.driftTo) ∧
    (x.driftTo ≤ x.drift → x.driftTo ≤ x.driftAt now ∧ x.driftAt now ≤ x.drift)))

/-! The front end (R174 to R195). -/

/-- A level in range is stored whole and SETTLED reads 0 until the levels settle (R174, R175, R178); one that fails a check is refused with its
reason and no level changes; TERM takes bit 0 (R179). -/
def Obligations.LevelsAreStoredWhole : Prop :=
  (∀ (s : State) (dt : Nat) (w : WinId) (val : Word),
    let a := s.advance dt
    let v := val.toNat
    let posted := fun (t : State) (o r : Nat) => (t.pm w).lvl.outcome = o ∧ (t.pm w).lvl.reason = r ∧
      (t.pm w).lvl.seq = (a.pm w).lvl.seq + 1 ∧ ∀ u, u ≠ w.val → t.win u = a.win u
    let stored := fun (t : State) (off n : Nat) => t.wreg w 5 off = n ∧ (t.pm w).lvlSettled = false ∧ posted t 1 0 ∧
      ∀ x, x ≠ pageAddr (winPage w 5) off → t.reg x = a.reg x
    a.takes (winPage w 5) = true →
    (a.drvFault w v = 0 → ∃ t, exec (.levelWrite dt w .drv val) s = .next t ∧ stored t 0x040 (bits v 0 48)) ∧
    (a.drvFault w v ≠ 0 → ∃ t, exec (.levelWrite dt w .drv val) s = .next t ∧ posted t 2 (a.drvFault w v) ∧ t.regs = a.regs) ∧
    (cmpFault v = 0 → ∃ t, exec (.levelWrite dt w .cmp val) s = .next t ∧ stored t 0x048 (bits v 0 32)) ∧
    (cmpFault v ≠ 0 → ∃ t, exec (.levelWrite dt w .cmp val) s = .next t ∧ posted t 2 (cmpFault v) ∧ t.regs = a.regs) ∧
    (cmpCode (bits v 0 16) = true → ∃ t, exec (.levelWrite dt w .bleed val) s = .next t ∧ stored t 0x054 (bits v 0 16)) ∧
    (cmpCode (bits v 0 16) = false → ∃ t, exec (.levelWrite dt w .bleed val) s = .next t ∧ posted t 2 1 ∧ t.regs = a.regs) ∧
    (∀ val : BitVec 32, ∃ t, exec (.termWrite dt w val) s = .next t ∧ stored t 0x050 (bits val.toNat 0 1))) ∧
  (∀ (s : State) (dt : Nat) (w : WinId),
    let a := s.advance dt
    ((a.mode w = .off ∨ (a.pm w).lvlWritten = false) → exec (.levelSettled dt w) s = .next a) ∧
    (a.mode w ≠ .off → (a.pm w).lvlWritten = true →
      ∃ t, exec (.levelSettled dt w) s = .next t ∧ t.pm w = { a.pm w with lvlSettled := true } ∧ OnlyWin a t w))

/-- PMU.CFG with a mode that the window's mode allows, a legal range and a force in range takes effect (R181, R182); with a forcing mode in READY
the driver goes off. What the window's mode does not allow is refused with reason 1, and a range past 4, or a force out of the new mode's range,
with reason 2; CFG is unchanged. That the mode is judged before the range is the model's choice (log 130). SETTLED reads 1 once the time of R183 has
passed; PMU.MEAS_CMD starts a measurement of n + 1 samples, or is refused with reason 1 while one runs and 2 with the unit off, in this order by the
model's choice (log 130); its end posts the mean rounded to nearest with ties up, or FAILED with reason 3 when it was disturbed (R185), which leaves
VALUE as it was by the model's reading (log 24). A sample of the parametric unit sets ABOVE and BELOW by strict comparison with the thresholds
(R186), adds to the measurement in progress (R185); one is taken at each GT that is a multiple of 250 ns, and none with the unit off or in an
exchange (R185, R258, R266). -/
def Obligations.ParametricUnit : Prop :=
  (∀ (s : State) (dt : Nat) (w : WinId) (val : BitVec 32),
    let a := s.advance dt
    let m := bits val.toNat 0 2
    let range := bits val.toNat 4 3
    a.takes (winPage w 6) = true →
    (pmuAllowed m (a.mode w) = true → range ≤ 4 → (m = a.pmuMode w ∨ forceOk m (a.pmuForce w) = true) →
      ∃ t, exec (.pmuCfgWrite dt w val) s = .next t ∧ t.pmuMode w = m ∧ t.pmuRange w = range ∧ (t.pm w).active = m ∧
        (t.pm w).refused = false ∧ (t.pm w).forceEnded = false ∧ t.mode w = a.mode w ∧
        (m ≠ a.pmuMode w → a.mode w = .ready → forces m = true → (t.slot (a.slotOf w)).drvEn = false) ∧
        (m ≠ a.pmuMode w → (t.pm w).settled = false ∧ (t.pm w).changed = a.now) ∧ ∀ v, v ≠ w.val → t.win v = a.win v) ∧
    (pmuAllowed m (a.mode w) = false → ∃ t, exec (.pmuCfgWrite dt w val) s = .next t ∧
      t.pm w = { a.pm w with forceEnded := false, refused := true, reason := 1 } ∧ t.regs = a.regs ∧ CalmWin a t w) ∧
    (pmuAllowed m (a.mode w) = true → (4 < range ∨ m ≠ a.pmuMode w ∧ forceOk m (a.pmuForce w) = false) → ∃ t, exec (.pmuCfgWrite dt w val) s = .next t ∧
      t.pm w = { a.pm w with forceEnded := false, refused := true, reason := 2 } ∧ t.regs = a.regs ∧ CalmWin a t w)) ∧
  (∀ (s : State) (dt : Nat) (w : WinId),
    let a := s.advance dt
    let p := a.pm w
    (p.changed + pmuSettle p.active (a.pmuRange w) ≤ a.now →
      ∃ t, exec (.pmuSettled dt w) s = .next t ∧ t.pm w = { p with settled := true } ∧ OnlyWin a t w) ∧
    (a.now < p.changed + pmuSettle p.active (a.pmuRange w) → exec (.pmuSettled dt w) s = .next a) ∧
    (∀ (n : BitVec 16) (wait : Bool), a.takes (winPage w 6) = true →
      (p.meas = none → a.pmuMode w ≠ 0 → ∃ t, exec (.pmuMeasCmd dt w n wait) s = .next t ∧
        t.pm w = { p with meas := some (n.toNat + 1, 0, 0, wait), mOver := false, mClamp := false, mBad := false, res := p.res.busy } ∧
        OnlyWin a t w) ∧
      ((p.meas ≠ none ∨ a.pmuMode w = 0) → ∃ t, exec (.pmuMeasCmd dt w n wait) s = .next t ∧ (t.pm w).meas = p.meas ∧
        (t.pm w).res.outcome = 2 ∧ (t.pm w).res.reason = (if p.meas.isSome then 1 else 2) ∧ (t.pm w).res.seq = p.res.seq + 1 ∧
        ∀ v, v ≠ w.val → t.win v = a.win v)) ∧
    (∀ (n : Nat) (sum : Int) (wt : Bool), 0 < n → p.meas = some (n, n, sum, wt) →
      (p.mBad = false → ∃ t, exec (.pmuMeasDone dt w) s = .next t ∧ (t.pm w).value = BitVec.ofInt 16 (meanOf sum n) ∧
        (t.pm w).flags = (decide (p.active = 1), a.pmuRange w, p.mClamp, p.mOver) ∧ (t.pm w).res.outcome = 1 ∧ (t.pm w).meas = none ∧
        2 * (meanOf sum n * n) ≤ 2 * sum + n ∧ 2 * sum + n < 2 * (meanOf sum n * n) + 2 * n) ∧
      (p.mBad = true → ∃ t, exec (.pmuMeasDone dt w) s = .next t ∧ (t.pm w).value = p.value ∧ (t.pm w).meas = none ∧
        (t.pm w).res.outcome = 3 ∧ (t.pm w).res.reason = 3))) ∧
  (∀ (s : State) (dt : Nat) (w : WinId) (code : BitVec 16) (clamped : Bool),
    let a := s.advance dt
    let p := a.pm w
    let cur := decide (p.active = 1)
    let th := a.wreg w 6 0x050
    (p.active = 0 ∨ a.exchanging w = true ∨ gtOf a.t % 256000 ≠ 0 ∨ p.sampT = some a.t → exec (.ppmuSample dt w code clamped) s = .next a) ∧
    (p.active ≠ 0 → a.exchanging w = false → gtOf a.t % 256000 = 0 → p.sampT ≠ some a.t →
      ∃ t, exec (.ppmuSample dt w code clamped) s = .next t ∧
        (t.pm w).above = decide (sampleVal cur (BitVec.ofNat 16 (bits th 0 16)) < sampleVal cur code) ∧
        (t.pm w).below = decide (sampleVal cur code < sampleVal cur (BitVec.ofNat 16 (bits th 16 16))) ∧
        (t.pm w).clamped = (clamped && forces p.active) ∧ (t.pm w).active = p.active ∧ t.mode w = a.mode w ∧
        (∀ (n k : Nat) (sum : Int), p.meas = some (n, k, sum, false) → k ≠ n →
          (t.pm w).meas = some (n, k + 1, sum + sampleVal cur code, false)) ∧
        (p.meas = none → (t.pm w).meas = none) ∧ (∀ v, v ≠ w.val → t.win v = a.win v)))

/-- AFE.SW_CMD closes K_CAL only in SERVICE, outside an exchange, and where no exclusive path breaks (R187 to R190; BUSY in an exchange is the
model's choice, log 97). A command that would move the switch makes its contact check and records what it measured (R188). What a command finishes
is posted, a closure that ends raising its count (R191); one that the check refuses leaves the switch as it was, and one whose switch misses its
time is posted as FAILED (R188, R189). A flush stores all 49 counts of its cluster, and only those (R192). An exchange needs both windows in SERVICE
and the conditions of R195; when it completes the mapping of PIN_MAP has changed, and a second one changes it back. -/
def Obligations.SwitchesAndSwaps : Prop :=
  (∀ (s : State) (dt : Nat) (w : WinId),
    let a := s.advance dt
    let k := a.slotOf w
    let cal := (a.slot k).kcal
    (∀ check : BitVec 16, a.takes (winPage w 5) = true → a.modeFree w = true →
      let drop := a.closeDrop w check
      (a.mode w = .service → a.calExcluded w = false →
        ∃ t x, exec (.closeCal dt w check) s = .next t ∧ (t.md w).trans = some x ∧ x.swOp = 1 ∧ x.hot = (!cal && a.contactHot w drop) ∧
          (t.slot k).checkV = (if cal then (a.slot k).checkV else drop) ∧ (t.slot k).kcal = cal ∧ (t.pm w).sw.valid = false ∧
          t.mode w = .service) ∧
      (a.mode w = .service →
        ∃ t x, exec (.openCal dt w check) s = .next t ∧ (t.md w).trans = some x ∧ x.swOp = 2 ∧ x.hot = (cal && a.contactHot w check) ∧
          (t.slot k).checkV = (if cal then check else (a.slot k).checkV) ∧ (t.slot k).kcal = cal ∧ t.mode w = .service) ∧
      (a.mode w = .service → a.calExcluded w = true → ∃ t, exec (.closeCal dt w check) s = .next t ∧ (t.md w).trans = none ∧
        (t.pm w).sw.outcome = 2 ∧ (t.pm w).sw.reason = 4 ∧ t.slots = a.slots) ∧
      (a.mode w ≠ .service → ∃ t, exec (.openCal dt w check) s = .next t ∧ (t.md w).trans = none ∧
        (t.pm w).sw.outcome = 2 ∧ (t.pm w).sw.reason = 2 ∧ t.slots = a.slots)) ∧
    (∀ x : Trans, (a.md w).trans = some x →
      (x.swOp = 1 → x.hot = false → cal = false → ∃ t, exec (.swOpDone dt w) s = .next t ∧ (t.slot k).kcal = true ∧
        (t.md w).trans = none ∧ (t.pm w).sw.outcome = 1 ∧ t.mode w = a.mode w ∧
        (let i := if k % 17 = 16 then 48 else 3 * (k % 17) + 2
         Tab.get 0 (t.clu (k / 17)).life i = satInc (2 ^ 40 - 1) (Tab.get 0 (a.clu (k / 17)).life i))) ∧
      (x.swOp = 2 → x.hot = false → ∃ t, exec (.swOpDone dt w) s = .next t ∧ (t.slot k).kcal = false ∧ (t.md w).trans = none ∧
        (t.pm w).sw.outcome = 1 ∧ t.clus = a.clus) ∧
      (x.swOp ≠ 0 → x.hot = true → ∃ t, exec (.swOpDone dt w) s = .next t ∧ t.slots = a.slots ∧ (t.md w).trans = none ∧
        (t.pm w).sw.outcome = 2 ∧ (t.pm w).sw.reason = 3) ∧
      (x.swOp ≠ 0 → x.hot = false → x.cancelled = false → cal ≠ decide (x.swOp = 1) → ∃ t, exec (.switchTimeout dt w) s = .next t ∧
        t.slots = a.slots ∧ (t.md w).trans = none ∧ (t.pm w).sw.outcome = 3 ∧ (t.pm w).sw.reason = 6))) ∧
  ((∀ (s : State) (dt : Nat) (c : CluId),
    let a := s.advance dt
    (a.takes (cluPage c) = true → ∃ t, exec (.swFlush dt c) s = .next t ∧ t.clu c = { a.clu c with flushing := true } ∧ OnlyClu a t c) ∧
    ((a.clu c).flushing = true → ∃ t, exec (.swFlushDone dt c) s = .next t ∧ (t.clu c).flushing = false ∧
      (∀ i, i < 49 → Tab.get 0 t.keep.stored (lifeKey c i) = Tab.get 0 (a.clu c).life i) ∧
      (∀ key, (∀ i, i < 49 → key ≠ lifeKey c i) → Tab.get 0 t.keep.stored key = Tab.get 0 a.keep.stored key) ∧
      t = { a with clus := t.clus, keep := { a.keep with stored := t.keep.stored } } ∧ ∀ d, d ≠ c.val → t.clu d = a.clu d)) ∧
  (∀ (s : State) (dt : Nat) (c : CluId) (pos : BitVec 4),
    let a := s.advance dt
    a.takes (cluPage c) = true →
    (a.swapFault c pos.toNat = 0 → ∃ t, exec (.swap dt c pos) s = .next t ∧
      t.clu c = { a.clu c with swapping := some pos, swap := (a.clu c).swap.busy } ∧ OnlyClu a t c) ∧
    (a.swapFault c pos.toNat ≠ 0 → ∃ t, exec (.swap dt c pos) s = .next t ∧ (t.clu c).swap.outcome = 2 ∧
      (t.clu c).swap.reason = a.swapFault c pos.toNat ∧ (t.clu c).swapped = (a.clu c).swapped ∧ (t.clu c).swapping = (a.clu c).swapping ∧
      t.calm = { a.calm with clus := t.clus, pgSeq := t.pgSeq })) ∧
  (∀ (s : State) (dt : Nat) (c : CluId) (pos : BitVec 4),
    let a := s.advance dt
    (a.clu c).swapping = some pos → (∀ p, (a.clu c).swapped = some p → p = pos) →
    ∃ t, exec (.swapDone dt c) s = .next t ∧ (t.clu c).swapping = none ∧ (t.clu c).swap.outcome = 1 ∧
      (t.clu c).swapped = (if (a.clu c).swapped = none then some pos else none) ∧
      t.slotOf (16 * c + pos.toNat) = a.slotOf (128 + c) ∧ t.slotOf (128 + c) = a.slotOf (16 * c + pos.toNat) ∧
      (∀ i, i < 16 → i ≠ pos.toNat → t.slotOf (16 * c + i) = a.slotOf (16 * c + i)) ∧ t.slots = a.slots))

/-! Capture, stamping and acquisition (R197 to R266). -/

/-- The open strobe that closes first forms its result at its close (R107, R201). A compared vector passes when every level seen meets its code; a
verdict that finds 512 in the crossing is lost (R26, R198). What it formed is entered in vector order (R204, R205): at once when no earlier strobe
is open, and else once those have closed. A compared verdict is counted once, and once more when it fails (R202); a lost one is counted as lost,
with no pass or fail (R26); a captured vector adds to the histogram of its final code (R199); a strobe of a TS vector counts nothing. -/
def Obligations.StrobesGiveVerdicts : Prop :=
  ∀ (s : State) (dt : Nat) (w : WinId) (levels : List (BitVec 2)) (final : BitVec 2) (drained : Nat) (b : Strobe) (rest : List Strobe),
    let a := s.advance dt
    let fail := (seen b.edge levels final).any fun l => !levelPasses b.code.toNat (a.pl w).etRef l
    let more := fun (c : Strobe → Bool) => rest.all fun x => c x && !x.same b
    ((a.cp w).strobes = b :: rest → firstClose (b :: rest) = some b → b.close ≤ a.t → more (fun x => x.done.isNone) = true →
      (isVerdict b.code.toNat = true → (a.cp w).xing - drained < 512 →
        ∃ t, exec (.strobeClose dt w levels final drained) s = .next t ∧ (t.cp w).strobes = rest ∧
          (t.cp w).xing = (a.cp w).xing - drained + 1 ∧ (t.mn w).compared = ((a.mn w).compared + 1) % 2 ^ 48 ∧
          (t.mn w).failed = (if fail then ((a.mn w).failed + 1) % 2 ^ 48 else (a.mn w).failed) ∧
          (t.pl w).etRef = refAfter (a.pl w).etRef final.toNat ∧ t.mode w = a.mode w ∧ (t.mn w).lostV = (a.mn w).lostV) ∧
      (isVerdict b.code.toNat = true → 512 ≤ (a.cp w).xing - drained →
        ∃ t, exec (.strobeClose dt w levels final drained) s = .next t ∧ (t.cp w).strobes = rest ∧
          (t.mn w).compared = (a.mn w).compared ∧ (t.mn w).failed = (a.mn w).failed ∧ (t.mn w).lostV = satInc (2 ^ 32 - 1) (a.mn w).lostV ∧
          (t.cp w).lost ≠ none ∧ t.mode w = a.mode w) ∧
      (b.code = 9 → ∃ t, exec (.strobeClose dt w levels final drained) s = .next t ∧ (t.cp w).strobes = rest ∧
        Tab.get 0 (t.mn w).hist final.toNat = satInc (2 ^ 32 - 1) (Tab.get 0 (a.mn w).hist final.toNat) ∧
        (t.mn w).compared = (a.mn w).compared ∧ (t.mn w).failed = (a.mn w).failed) ∧
      (b.code = 0xD → ∃ t, exec (.strobeClose dt w levels final drained) s = .next t ∧ (t.cp w).strobes = rest ∧ t.mn w = a.mn w)) ∧
    (∀ c : Strobe, (a.cp w).strobes = c :: rest → c.done = none → c.code ≠ 0xD → firstClose (c :: rest) = some b → c.same b = false →
      b.close ≤ a.t → isVerdict b.code.toNat = true ∨ b.code = 9 →
      ∃ t, exec (.strobeClose dt w levels final drained) s = .next t ∧ t.mn w = a.mn w ∧ (t.pl w).etRef = refAfter (a.pl w).etRef final.toNat ∧
        (t.cp w).strobes.length = rest.length + 1 ∧ (t.cp w).strobes.head? = some c ∧ (t.cp w).recQ = (a.cp w).recQ ∧ t.mode w = a.mode w)

/-- The verdicts lost become one GAP record in the pin record queue (R26), as do the records the queue dropped (R211); the capture is FLUSHED when
the burst is over and nothing of it waits, once the stack is ACTIVE (R209, R388); a write of CAP.AREA that fits is stored, and one that does not is
refused (R203, R265). The oldest entry of the log buffer goes to the next free place of the log region, and to no other byte of the stacks, while
the stack is ACTIVE (R207, R208, R388). -/
def Obligations.CaptureQueuesAndLogs : Prop :=
  (∀ (s : State) (dt : Nat) (w : WinId),
    let a := s.advance dt
    (∀ n t0 v, (a.cp w).lost = some (n, t0, v) → (a.cp w).qDrops.first = none → (a.cp w).recQ.length < 255 →
      ∃ t r, exec (.verdictGapWrite dt w) s = .next t ∧ (t.cp w).recQ = (a.cp w).recQ ++ [r] ∧ (t.cp w).lost = none ∧ recType r = 5 ∧
        recTime r = t0 % 2 ^ 80 ∧ OnlyWin a t w) ∧
    (∀ t0, (a.cp w).qDrops.first = some t0 → (a.cp w).recQ.length < 255 →
      ∃ t r, exec (.queueDropGap dt w) s = .next t ∧ (t.cp w).recQ = (a.cp w).recQ ++ [r] ∧ (t.cp w).qDrops = {} ∧ recType r = 5 ∧
        recTime r = t0 % 2 ^ 80 ∧ OnlyWin a t w) ∧
    ((a.sq w).loaded = false → (a.cp w).strobes = [] → (a.cp w).logBuf = [] → (a.cp w).bits % 64 = 0 → (a.cp w).logFullCnt = none →
      (a.cp w).logLoss = 0 →
      (a.stackOn (w.val / 64 % 2) = true →
        ∃ t, exec (.captureFlushed dt w) s = .next t ∧ t.cp w = { a.cp w with flushed := true } ∧ OnlyWin a t w) ∧
      (a.stackOn (w.val / 64 % 2) = false → exec (.captureFlushed dt w) s = .next a)) ∧
    ((a.sq w).loaded = false → (a.cp w).strobes = [] → (a.cp w).logBuf = [] → (a.cp w).logLoss = 0 → a.stackOn (w.val / 64 % 2) = true →
      ∃ t, exec (.captureFlushed dt w) s = .next t ∧ (t.cp w).flushed = true ∧ t.mn w = a.mn w ∧ t.sq w = a.sq w) ∧
    (∀ val : BitVec 32, a.takes (winPage w 7) = true →
      (bits val.toNat 0 7 + bits val.toNat 8 7 ≤ 64 → a.armedRun w = false → (a.cw w).open_ = false →
        ∃ t, exec (.capAreaWrite dt w val) s = .next t ∧ t.wreg w 7 0x044 = bits val.toNat 0 7 + bits val.toNat 8 7 * 256 ∧
          t.cp w = { a.cp w with areaRefused := false } ∧ t = { a with regs := t.regs, wins := t.wins }) ∧
      ((64 < bits val.toNat 0 7 + bits val.toNat 8 7 ∨ a.armedRun w = true ∨ (a.cw w).open_ = true) →
        ∃ t, exec (.capAreaWrite dt w val) s = .next t ∧ t.cp w = { a.cp w with areaRefused := true } ∧ CalmWin a t w))) ∧
  (∀ (s : State) (dt : Nat) (w : WinId) (e : BitVec 128) (rest : List (BitVec 128)),
    let a := s.advance dt
    (a.cp w).logBuf = e :: rest → (a.cp w).logFull = false → (a.cp w).logEnt + 2 < a.logCap w →
    (a.stackOn (w.val / 64 % 2) = false → exec (.logBufferDrain dt w) s = .next a) ∧
    (a.stackOn (w.val / 64 % 2) = true → ∃ t, exec (.logBufferDrain dt w) s = .next t ∧ t.cp w = { a.cp w with logBuf := rest, logEnt := (a.cp w).logEnt + 1 } ∧
      Memory.load t.stackMem (a.logBase w + 16 * (a.cp w).logEnt) 16 = bytesOf e.toNat 16 ∧
      (∀ x, (x < a.logBase w + 16 * (a.cp w).logEnt ∨ a.logBase w + 16 * (a.cp w).logEnt + 16 ≤ x) →
        Memory.read t.stackMem x = Memory.read a.stackMem x) ∧
      t = { a with wins := t.wins, stackMem := t.stackMem } ∧ ∀ v, v ≠ w.val → t.win v = a.win v))

/-- Arming starts the numbering of edges at 0 with its effective GT, and a loss of the arming before it keeps its GAP record; arming an armed
stamper changes nothing, in OFF it is refused with reason 3, and with no edge selected with reason 4; disarming an armed one notes its cause and GT,
and discards an arming of the same GT (R233, R235 to R238). A crossing is stamped at its corrected instant (R227). With GATE free and no prescaler,
a stamper that takes it numbers an edge that keeps the dead time of 410 tq, in a stage of four, and merges one that does not (R230 to R233); an edge
that is not selected, or lies outside the arming, or falls in an exchange, changes nothing (R226, R235, R238, R245). The stage's oldest stamp moves
to the local buffer, one each 1,024 tq at most (R232), behind the GAP of a loss while the stamper is armed; the loss of a disarmed stamper becomes
its GAP behind its stamps (R233). A place that the drain frees at the same instant is not yet free (R112, R113). -/
def Obligations.StampersArmAndStamp : Prop :=
  (∀ (s : State) (dt : Nat) (w : WinId),
    let a := s.advance dt
    let x := a.st w
    a.takes (winPage w 8) = true →
    (x.isArmed a.t = false → x.offT ≠ some a.t →
      (a.mode w ≠ .off → a.stpEdge w ≠ 0 →
        ∃ t, exec (.stampArm dt w) s = .next t ∧ (t.st w).armed = true ∧ (t.st w).armCause = 1 ∧ (t.st w).armT = a.t ∧ (t.st w).num = 0 ∧
          (t.st w).merged = 0 ∧ (t.st w).refused = false ∧ (t.st w).stage = x.stage ++ a.lossRec w ∧ (t.st w).loss = none ∧
          (t.st w).buf = x.buf ∧ CalmWin a t w) ∧
      (a.mode w = .off → ∃ t, exec (.stampArm dt w) s = .next t ∧ t.st w = { x with refused := true, reason := 3 } ∧ CalmWin a t w) ∧
      (a.mode w ≠ .off → a.stpEdge w = 0 →
        ∃ t, exec (.stampArm dt w) s = .next t ∧ t.st w = { x with refused := true, reason := 4 } ∧ CalmWin a t w)) ∧
    (x.isArmed a.t = true → ∃ t, exec (.stampArm dt w) s = .next t ∧ t.st w = { x with refused := false, reason := 0 } ∧ OnlyWin a t w) ∧
    (x.isArmed a.t = true → ¬ (x.armed = true ∧ x.armT = a.t) →
      ∃ t, exec (.stampDisarm dt w) s = .next t ∧
        t.st w = { x with armed := false, disarmCause := 1, disarmT := a.t, offT := some a.t, refused := false, reason := 0 } ∧ CalmWin a t w) ∧
    (x.armed = true → x.armT = a.t →
      ∃ t, exec (.stampDisarm dt w) s = .next t ∧ (t.st w).armed = false ∧ (t.st w).armCause = x.was.armCause ∧ (t.st w).armT = x.was.armT ∧
        (t.st w).disarmCause = x.disarmCause ∧ CalmWin a t w) ∧
    (x.isArmed a.t = false →
      ∃ t, exec (.stampDisarm dt w) s = .next t ∧ t.st w = { x with offT := some a.t, refused := false, reason := 0 } ∧ OnlyWin a t w)) ∧
  (∀ (s : State) (dt : Nat) (w : WinId),
    let a := s.advance dt
    let x := a.st w
    let held := x.buf.length + movedNow x.popNow a.now
    (∀ rising counted : Bool,
      let g := a.stampTime w rising
      let sel := bit (a.stpEdge w) (if rising then 0 else 1)
      (a.exchanging w = true ∨ sel = false ∨ x.takes g counted = false → exec (.comparatorEdge dt w rising counted) s = .next a) ∧
      (a.exchanging w = false → sel = true → x.takes g counted = true → a.stpTs w = false → a.stpP w = 0 →
        (x.dead g = false → a.wreg w 8 0x044 = 0 → ∃ t, exec (.comparatorEdge dt w rising counted) s = .next t ∧
          (t.st w).num = x.num + 1 ∧ (t.st w).lastT = some g ∧ (t.st w).merged = 0 ∧ (t.st w).armed = x.armed ∧
          (t.st w).stage.length = (if x.staged < 4 then x.stage.length + 1 else x.stage.length) ∧ CalmWin a t w) ∧
        (x.dead g = true → ∃ t, exec (.comparatorEdge dt w rising counted) s = .next t ∧
          (t.st w).num = x.num ∧ (t.st w).merged = x.merged + 1 ∧ (t.st w).lastT = x.lastT ∧ (t.st w).stage = x.stage ∧ OnlyWin a t w))) ∧
    (∀ (r : Rec) (rest : List Rec), x.stage = r :: rest →
      (recType r ≠ 5 → (∀ m, x.moveT = some m → m + 1024 ≤ a.t) → held < 4096 →
        ∃ t, exec (.stampTransfer dt w) s = .next t ∧ (t.st w).stage = rest ∧
          (t.st w).buf = x.buf ++ (if x.isArmed a.t then a.lossRec w else []) ++ [r] ∧ (t.st w).moveT = some a.t ∧
          (t.st w).stamps = satInc (2 ^ 32 - 1) x.stamps ∧ (t.st w).armed = x.armed ∧ CalmWin a t w) ∧
      (recType r = 5 → held < 4097 →
        ∃ t, exec (.stampTransfer dt w) s = .next t ∧ (t.st w).stage = rest ∧ (t.st w).buf = x.buf ++ [r] ∧ CalmWin a t w)) ∧
    (∀ l, x.isArmed a.t = false → x.stage = [] → x.loss = some l → held < 4097 →
      ∃ t g, exec (.stampLostGap dt w) s = .next t ∧ (t.st w).buf = x.buf ++ [g] ∧ (t.st w).loss = none ∧ recType g = 5 ∧ CalmWin a t w))

/-- START begins the engine in its initial state with no counts or flags, with the inputs that arrive from then on, and with the delayed actions of
earlier transitions still to come (R247, R254, R256); STOP ends it and its timers (R256). A host event is one occurrence of the engine's next sample
(R248); outside a sample instant, stopped, or twice at one instant, no sample is taken (R247). A timer that has expired is an occurrence once
(R253). A trigger line's pulses that have run their width end (R255). -/
def Obligations.EngineCommands : Prop :=
  ∀ (s : State) (dt : Nat) (w : WinId),
    let a := s.advance dt
    let e := a.en w
    (a.takes (winPage w 9) = true →
      (a.mode w ≠ .off → ∃ t, exec (.engineStart dt w) s = .next t ∧ (t.en w).running = true ∧ (t.en w).state = bits (a.wreg w 9 0x040) 0 4 ∧
        (t.en w).cnt = [] ∧ (t.en w).flags = 0 ∧ (t.en w).ins = insFrom a.t e.ins ∧ (t.en w).acts = e.acts ∧ (t.en w).transitions = 0 ∧
        (t.en w).refused = false ∧ CalmWin a t w) ∧
      (a.mode w = .off → ∃ t, exec (.engineStart dt w) s = .next t ∧ t.en w = { e with refused := true, reason := 2 } ∧ CalmWin a t w) ∧
      (e.running = true → ∃ t, exec (.engineStop dt w) s = .next t ∧
        t.en w = { e with running := false, tmr := [], refused := false, reason := 0 } ∧ CalmWin a t w) ∧
      (e.running = false → ∃ t, exec (.engineStop dt w) s = .next t ∧ t.en w = { e with refused := false, reason := 0 } ∧ OnlyWin a t w) ∧
      (∀ sel : BitVec 3, ∃ t o, exec (.hostEvt dt w sel) s = .next t ∧
        (t.en w).ins = (if e.running then e.ins else insFrom a.t e.ins) ++ [o] ∧ t.en w = { e with ins := (t.en w).ins } ∧
        o.src = 0x10 ∧ o.sel = sel.toNat ∧ o.at_ = a.t ∧ OnlyWin a t w)) ∧
    ((e.running = false ∨ a.t % 256 ≠ 0 ∨ e.sampT = some a.t) → exec (.engineSample dt w) s = .next a) ∧
    (∀ (k : BitVec 2) (g : Nat), Tab.get none e.tmr k.toNat = some g → g ≤ a.t →
      ∃ t, exec (.acqTimerExpiry dt w k) s = .next t ∧ Tab.get none (t.en w).tmr k.toNat = none ∧
        (t.en w).ins = e.ins ++ [{ at_ := g, src := 0xF, sel := k.toNat, code := 0 }] ∧ OnlyWin a t w) ∧
    (∀ line : BitVec 3, ∃ t, exec (.trigPulseEnd dt line) s = .next t ∧
      t = { a with syn := { a.syn with pulses := a.syn.pulses.filter fun p => decide (p.1 ≠ line.toNat) || decide (a.t < p.2.2) } })

/-- In a sample of a running engine with no occurrence, timer or count, one transition at most is taken, by the lowest arc whose condition holds
(R247, R250): the state becomes its DEST and the count of transitions rises by one; with none the state stays. A delayed action whose time has come
takes its flag changes and its window trigger, with what else it asks for, and leaves the rest of the machine as it was (R254, R263). -/
def Obligations.EngineSamplesAndActs : Prop :=
  (∀ (s : State) (dt : Nat) (w : WinId),
    let a := s.advance dt
    (a.en w).running = true → a.t % 256 = 0 → (a.en w).sampT ≠ some a.t → (a.en w).ins = [] → (a.en w).tmr = [] →
    (∀ j < 4, bit (a.wreg w 9 (0x100 + 0x10 * j)) (16 + (a.en w).state) = false) →
    let met := (List.range 16).filter fun i => bit (a.wreg w 9 (0x400 + 0x10 * i)) 20 && bit (a.wreg w 9 (0x400 + 0x10 * i)) (a.en w).state &&
      a.condTrue w (a.en w).cnt [] (a.arcCond w i) a.t
    (∀ i rest, met = i :: rest → ∃ t, exec (.engineSample dt w) s = .next t ∧ (t.en w).state = bits (a.wreg w 9 (0x400 + 0x10 * i)) 16 4 ∧
      (t.en w).transitions = satInc (2 ^ 32 - 1) (a.en w).transitions ∧ (t.en w).running = true ∧ (t.en w).sampT = some a.t ∧
      t.mode w = a.mode w) ∧
    (met = [] → ∃ t, exec (.engineSample dt w) s = .next t ∧ t.en w = { a.en w with sampT := some a.t } ∧ OnlyWin a t w)) ∧
  (∀ (s : State) (dt : Nat) (w : WinId) (x : EngAct) (rest : List EngAct),
    let a := s.advance dt
    let act := x.act.toNat
    (a.en w).acts = x :: rest → x.at_ ≤ a.t →
    ∃ t, exec (.engineActionEffect dt w) s = .next t ∧ (t.en w).acts = rest ∧
      (t.en w).flags = ((a.en w).flags &&& ~~~ BitVec.ofNat 4 (bits act 28 4)) ||| BitVec.ofNat 4 (bits act 24 4) ∧
      (bit act 20 = false → t.cw w = a.cw w) ∧
      (bit act 20 = true → (a.cw w).phase = 1 → (t.cw w).trigT = x.tr ∧ (t.cw w).preHeld = (a.cw w).wr - (a.cw w).rd) ∧
      (bit act 20 = true → (a.cw w).phase ≠ 1 → t.cw w = { a.cw w with ignored := satInc 255 (a.cw w).ignored }) ∧
      (bits act 16 2 = 0 → t.st w = a.st w) ∧ (bits act 18 2 = 0 → t.rd w = a.rd w) ∧ CalmWin a t w)

/-- ARM of the reduction needs the parametric unit on, and starts its intervals at 0 with its GT; DISARM notes its cause and GT, and on an idle one
only the GT (R236, R259, R260). The capture window's ARM is refused with the reason of the first condition that fails and opens its PRE phase else;
ABANDON returns it to IDLE (R262 to R264). -/
def Obligations.ReductionAndWindow : Prop :=
  ∀ (s : State) (dt : Nat) (w : WinId),
    let a := s.advance dt
    a.takes (winPage w 9) = true →
    (a.pmuMode w = 0 → ∃ t, exec (.redArm dt w) s = .next t ∧ t.rd w = { a.rd w with refused := true, reason := 1 } ∧ CalmWin a t w) ∧
    (a.pmuMode w ≠ 0 → (a.rd w).armed = false → (a.rd w).disarmT ≠ some a.t →
      ∃ t, exec (.redArm dt w) s = .next t ∧ (t.rd w).armed = true ∧ (t.rd w).armCause = 1 ∧ (t.rd w).armT = a.t ∧ (t.rd w).n = 0 ∧
        (t.rd w).interval = 0 ∧ (t.rd w).refused = false ∧ OnlyWin a t w) ∧
    ((a.rd w).armed = true → (a.rd w).armT ≠ a.t → ∃ t, exec (.redDisarm dt w) s = .next t ∧ (t.rd w).armed = false ∧
      (t.rd w).disarmCause = 1 ∧ (t.rd w).disarmT = some a.t ∧ (t.rd w).n = 0 ∧ (t.rd w).refused = false ∧ OnlyWin a t w) ∧
    ((a.rd w).armed = false → ∃ t, exec (.redDisarm dt w) s = .next t ∧ (t.rd w).armed = false ∧ (t.rd w).disarmT = some a.t ∧
      (t.rd w).disarmCause = (a.rd w).disarmCause ∧ (t.rd w).interval = (a.rd w).interval ∧ (t.rd w).refused = false ∧ OnlyWin a t w) ∧
    (let cfg := a.wreg w 9 0x080
     let cap := a.acqMib w * 32768
     let why := if bit cfg 0 = false then 1 else if cap = 0 then 2 else if cap < bits cfg 8 22 then 3 else if (a.cw w).open_ then 4 else 0
     (why ≠ 0 → ∃ t, exec (.winArm dt w) s = .next t ∧ t.cw w = { a.cw w with refused := true, reason := why } ∧ CalmWin a t w) ∧
     (why = 0 → ∃ t, exec (.winArm dt w) s = .next t ∧ (t.cw w).phase = 1 ∧ (t.cw w).cap = cap ∧ (t.cw w).pre = bits cfg 8 22 ∧
       (t.cw w).postEff = min (bits cfg 32 22) (cap - bits cfg 8 22) ∧ (t.cw w).rd = (t.cw w).wr ∧ (t.cw w).refused = false ∧
       CalmWin a t w)) ∧
    (∃ t, exec (.winAbandon dt w) s = .next t ∧ t.cw w = { a.cw w with phase := 0, refused := false, reason := 0 } ∧ OnlyWin a t w)

/-! Harvest and memory (R212 to R217, R267 to R289, R340). -/

/-- The engine serves the next input, round robin, that holds a record (R212): it leaves its queue, buffer or collector, the pointer passes the
input, and it enters staging behind what waits there (R212, R213), or the next slot of the pin's window ring when capture there is open and asks for
it (R261, R263). While the stack of its destination does not serve, it waits (R388). What was dropped becomes one GAP once two slots are free
(R213). The stack ring's oldest record moves behind the bank ring (R213); staging's oldest record is written to the slot of the host ring at the
write pointer, its PHASE the complement of the pointer's wrap bit (R213, R214). A record found uncorrectable is discarded and counted (R272). -/
def Obligations.HarvestReachesTheHost : Prop :=
  ((∀ (s : State) (dt : Nat) (c : CluId) (i : Nat) (r : Rec),
    let a := s.advance dt
    let v := inputWin c i
    ((List.range 36).map fun k => ((a.hv c).turn + k) % 36).find? (fun k => (a.inputHead c k).isSome) = some i → a.inputHead c i = some r →
    let gone := fun (t : State) => (i < 17 → (t.cp v).recQ = (a.cp v).recQ.tail) ∧ (17 ≤ i → i < 34 → (t.st v).buf = (a.st v).buf.tail) ∧
      (i = 34 → (t.hv c).collQ = (a.hv c).collQ.erase r) ∧ (i = 35 → t.flt.devQ = a.flt.devQ.erase r) ∧ (t.hv c).turn = (i + 1) % 36 ∧
      ∀ d, d ≠ c.val → t.clu d = a.clu d
    (a.destOpen c i r = false → exec (.harvestTake dt c) s = .next a) ∧
    (a.destOpen c i r = true → a.toWindow c i r = false → (a.hv c).drops.first = none → 1 < a.stagingFree c →
      ∃ t, exec (.harvestTake dt c) s = .next t ∧ gone t ∧ (t.hv c).bank ++ (t.hv c).stack = (a.hv c).bank ++ (a.hv c).stack ++ [r] ∧
        (t.hv c).drops = (a.hv c).drops) ∧
    (a.destOpen c i r = true → a.toWindow c i r = true →
      let x := a.cw v
      let slot := a.acqBase v + 32 * (x.wr % max x.cap 1)
      ∃ t, exec (.harvestTake dt c) s = .next t ∧ gone t ∧ (t.hv c).bank = (a.hv c).bank ∧ (t.hv c).stack = (a.hv c).stack ∧
        Memory.load t.stackMem slot 32 = recBytes (recPhase r false) ∧
        (∀ y, (y < slot ∨ slot + 32 ≤ y) → Memory.read t.stackMem y = Memory.read a.stackMem y) ∧
        (x.phase = 1 → x.pre = 0 → t.cw v = x) ∧
        (x.phase = 1 → x.pre ≠ 0 → t.cw v = { x with wr := x.wr + 1, rd := if x.pre < x.wr + 1 - x.rd then x.rd + 1 else x.rd }) ∧
        (x.phase = 2 → t.cw v = { x with wr := x.wr + 1, postHeld := x.postHeld + 1, phase := if x.postEff ≤ x.postHeld + 1 then 3 else 2 }))) ∧
  (∀ (s : State) (dt : Nat) (c : CluId),
    let a := s.advance dt
    (∀ i < 36, a.inputHead c i = none) → exec (.harvestTake dt c) s = .next a) ∧
  (∀ (s : State) (dt : Nat) (c : CluId) (t0 : Nat),
    let a := s.advance dt
    (a.hv c).drops.first = some t0 → 2 ≤ a.stagingFree c → a.stageOpen c 1 = true →
    ∃ t r, exec (.stagingDropGap dt c) s = .next t ∧ (t.hv c).bank ++ (t.hv c).stack = (a.hv c).bank ++ (a.hv c).stack ++ [r] ∧
      recType r = 5 ∧ (t.hv c).drops = {} ∧ (t.hv c).gaps = satInc 65535 (a.hv c).gaps ∧ t.wins = a.wins ∧ ∀ d, d ≠ c.val → t.clu d = a.clu d)) ∧
  ((∀ (s : State) (dt : Nat) (c : CluId) (ecc : Ecc) (firstBad : Bool) (r : Rec) (rest : List Rec),
    let a := s.advance dt
    (a.hv c).stack = r :: rest → (a.hv c).bank.length < 16384 → a.bankOn (stageBank c) = true → a.stackOn (c / 4) = true →
    (ecc ≠ .bad → ∃ t, exec (.stagingRefill dt c ecc firstBad) s = .next t ∧ (t.hv c).stack = rest ∧ (t.hv c).bank = (a.hv c).bank ++ [r] ∧
      t.wins = a.wins ∧ t.stackMem = a.stackMem ∧ ∀ d, d ≠ c.val → t.clu d = a.clu d) ∧
    (ecc = .bad → ∃ t, exec (.stagingRefill dt c ecc firstBad) s = .next t ∧ (t.hv c).stack = rest ∧ (t.hv c).bank = (a.hv c).bank ∧
      (t.hv c).dropAll = ((a.hv c).dropAll + 1) % 2 ^ 48 ∧ ∀ d, d ≠ c.val → t.clu d = a.clu d)) ∧
  (∀ (s : State) (dt : Nat) (c : CluId) (ecc : Ecc) (firstBad : Bool) (r : Rec) (rest : List Rec),
    let a := s.advance dt
    let k := a.hvsBits c
    (a.hv c).bank = r :: rest → bit (a.hvsReg c 0) 0 = true → a.canIssue = true → a.bankOn (stageBank c) = true → a.hvsLevel c < 2 ^ k →
    (ecc ≠ .bad → ∃ t more, exec (.harvestRingWrite dt c ecc firstBad) s = .next t ∧
      t.out = a.out ++ .write (bits (a.hvsReg c 0) 12 52 * 4096 + 32 * ((a.hv c).wr % 2 ^ k)) (recBytes (recPhase r (!bit (a.hv c).wr k))) :: more ∧
      (t.hv c).bank = rest ∧ (t.hv c).wr = ((a.hv c).wr + 1) % 2 ^ (k + 1) ∧ t.wins = a.wins ∧ ∀ d, d ≠ c.val → t.clu d = a.clu d) ∧
    (ecc = .bad → ∃ t, exec (.harvestRingWrite dt c ecc firstBad) s = .next t ∧ t.out = a.out ∧ (t.hv c).bank = rest ∧
      (t.hv c).wr = (a.hv c).wr ∧ (t.hv c).dropAll = ((a.hv c).dropAll + 1) % 2 ^ 48 ∧ ∀ d, d ≠ c.val → t.clu d = a.clu d)))

/-- The write pointer is posted when records have been written since (R214); a legal HVS_RING is stored whole, its reserved bits apart, and enables
a ring that was off with both pointers 0; an illegal one is refused; no other register and no other cluster changes (R214); HVS_READY's second
condition fires once per stretch (R216). -/
def Obligations.HostRingRegisters : Prop :=
  ∀ (s : State) (dt : Nat) (c : CluId),
    let a := s.advance dt
    let h := a.hv c
    (bit (a.hvsReg c 0x08) 0 = true → a.canIssue = true → h.unposted ≠ 0 →
      ∃ t, exec (.prodIndexPost dt c) s = .next t ∧ t.out = a.out ++ [.write (bits (a.hvsReg c 0x08) 3 61 * 8) (bytesOf h.wr 8)] ∧
        t.hv c = { h with unposted := 0 } ∧ t = { a with clus := t.clus, out := t.out }) ∧
    (∀ val : Word, a.takes 4 = true →
      let v := val.toNat
      let old := a.hvsReg c 0
      let illegal := bits v 1 5 < 6 ∨ 22 < bits v 1 5 ∨ (bit old 0 = true ∧ (bits v 1 5 ≠ bits old 1 5 ∨ bits v 12 52 ≠ bits old 12 52))
      (illegal → ∃ t, exec (.hvsRingWrite dt c val) s = .next t ∧ t.hv c = { h with cfgRefused := true } ∧ OnlyClu a t c) ∧
      let stored := fun (t : State) => t.hvsReg c 0 = bits v 0 6 + bits v 12 52 * 4096 ∧
        (∀ x, x ≠ pageAddr 4 (hvsOff c 0) → t.reg x = a.reg x) ∧ t = { a with clus := t.clus, regs := t.regs } ∧
        t.clu c = { a.clu c with hv := t.hv c } ∧ ∀ d, d ≠ c.val → t.clu d = a.clu d
      (¬ illegal → bit v 0 = true → bit old 0 = false → ∃ t, exec (.hvsRingWrite dt c val) s = .next t ∧ stored t ∧
        t.hv c = { h with cfgRefused := false, wr := 0, rd := 0, unposted := 0, ready := false, since := none, coal := false }) ∧
      (¬ illegal → (bit v 0 = false ∨ bit old 0 = true) → ∃ t, exec (.hvsRingWrite dt c val) s = .next t ∧ stored t ∧
        t.hv c = { h with cfgRefused := false })) ∧
    (∀ t0, h.since = some t0 →
      let coal := bits (a.hvsReg c 0x18) 16 16
      (coal ≠ 0 → h.coal = false → t0 + coal * us ≤ a.now →
        ∃ t, exec (.hvsReadyCoal dt c) s = .next t ∧ t.hv c = { h with coal := true } ∧ t.wins = a.wins) ∧
      (h.coal = true → exec (.hvsReadyCoal dt c) s = .next a))

/-- At SERVICEABLE, scrub reads the words of a stack, and those of a bank, in rising order and starts again after the last (R273, R384). A bank
command of an unpinned bank that may leave ON begins its change, and OFF loses the contents at once, every byte of that bank and no other (R274,
R276); ON begins the way back, or is DONE at once for a bank that is ON by the model's choice (log 130); refusals take the reasons of R276 in the
order of log 34, and a bank under march is refused BUSY (R286). A change that ends puts the bank in the state asked for. -/
def Obligations.ScrubAndBanks : Prop :=
  (∀ (s : State) (dt : Nat) (st : Fin 2) (ecc : Ecc) (written : Bool),
    let a := s.advance dt
    a.dev.bringup = 5 → bit (a.dreg 8 0x040) 0 = true → a.stackOn st.val = true → a.marchingStack st.val = false →
    ∃ t, exec (.scrubStep dt (BitVec.ofNat 5 st.val) ecc written) s = .next t ∧
      t.scrubNext st.val = (if a.scrubNext st.val + 8 < stackBase (st.val + 1) then a.scrubNext st.val + 8 else stackBase st.val) ∧
      t.stackMem = a.stackMem ∧ t.calm = { a.calm with mem := t.mem }) ∧
  (∀ (s : State) (dt : Nat) (b : Fin 16) (ecc : Ecc) (written : Bool),
    let a := s.advance dt
    a.dev.bringup = 5 → a.bankOn b.val = true →
    ∃ t, exec (.scrubStep dt (BitVec.ofNat 5 (2 + b.val)) ecc written) s = .next t ∧
      Tab.get 0 t.mem.bankScrub b.val = (Tab.get 0 a.mem.bankScrub b.val + 1) % 262144 ∧ t.wsMem = a.wsMem ∧
      t.calm = { a.calm with mem := t.mem }) ∧
  (∀ (s : State) (dt : Nat) (b : BitVec 4),
    let a := s.advance dt
    let n := b.toNat
    a.takes 9 = true →
    (a.marchingBank n = true → pinned n = false → a.mayLeave n = true → ∃ t, exec (.bankOff dt b) s = .next t ∧ t.bankState n = a.bankState n ∧ t.mem.bankRes.outcome = 2 ∧
      t.mem.bankRes.reason = 1 ∧ t.wsMem = a.wsMem) ∧
    (a.marchingBank n = false → pinned n = false → (a.mem.repair.any fun r => decide (r.1 = n)) = false →
      (a.mayLeave n = true → a.bankState n = 0 →
        (∃ t, exec (.bankOff dt b) s = .next t ∧ t.bankState n = 3 ∧ Tab.get none t.mem.bankTo n = some 2 ∧
          (∀ x, bankBase n ≤ x → x < bankBase (n + 1) → Memory.read t.wsMem x = 0) ∧
          (∀ x, (x < bankBase n ∨ bankBase (n + 1) ≤ x) → Memory.read t.wsMem x = Memory.read a.wsMem x)) ∧
        (∃ t, exec (.bankRetention dt b) s = .next t ∧ t.bankState n = 3 ∧ Tab.get none t.mem.bankTo n = some 1 ∧ t.wsMem = a.wsMem)) ∧
      (a.bankState n = 0 → ∃ t, exec (.bankOn dt b) s = .next t ∧ t.bankState n = 0 ∧ t.mem.bankRes.outcome = 1 ∧ t.wsMem = a.wsMem) ∧
      (a.bankState n = 1 ∨ a.bankState n = 2 → ∃ t, exec (.bankOn dt b) s = .next t ∧ t.bankState n = 3 ∧
        Tab.get none t.mem.bankTo n = some 0 ∧ t.wsMem = a.wsMem)) ∧
    (a.marchingBank n = false → pinned n = true → ∃ t, exec (.bankOff dt b) s = .next t ∧ t.bankState n = a.bankState n ∧
      t.mem.bankRes.outcome = 2 ∧ t.mem.bankRes.reason = 2 ∧ t.wsMem = a.wsMem) ∧
    (a.marchingBank n = false → pinned n = false → a.mayLeave n = false → ∃ t, exec (.bankRetention dt b) s = .next t ∧
      t.bankState n = a.bankState n ∧ t.mem.bankRes.outcome = 2 ∧ t.mem.bankRes.reason = 3 ∧ t.wsMem = a.wsMem)) ∧
  (∀ (s : State) (dt : Nat) (b : BitVec 4) (st : Nat),
    let a := s.advance dt
    Tab.get none a.mem.bankTo b.toNat = some st →
    ∃ t, exec (.bankChangeDone dt b) s = .next t ∧ t.bankState b.toNat = st ∧ Tab.get none t.mem.bankTo b.toNat = none ∧
      t.mem.bankRes.outcome = 1 ∧ t.calm = { a.calm with mem := t.mem, pgSeq := t.pgSeq })

/-- A march job starts when no condition of R286 refuses it, borrowing the first row of its first target (R281 to R283). Each row of a bank or a
stack is copied in, so that its shadow row in bank 15 holds what it holds, tested, and copied back, and no byte outside the shadow row changes; its
return borrows the next row, that of the next bank, or after the banks those of the stacks, whose two borrowings go on apart; the last return of all
ends the job with DONE, or ABORTED after an abort (R283, R285, R286). A destructive march ends with zeros in every byte of the banks it names, and
no other byte changed, ROWS counting the banks (R282). A field repair is refused with the reasons of R289, or asks the Ledger for its entry; once
copied, the column is served by the spare at one instant. -/
def Obligations.MarchAndRepair : Prop :=
  (∀ (s : State) (dt : Nat),
    let a := s.advance dt
    (a.takes 10 = true →
      (a.marchFault = 0 → a.marchDestructive = false → ∃ t, exec (.marchStart dt) s = .next t ∧ t.mem.march = 1 ∧ t.mem.rows = 0 ∧
        t.mem.fails = 0 ∧ t.mem.borrow = a.nextBorrows 0 ∧ t = { a with mem := t.mem }) ∧
      (a.marchFault ≠ 0 → ∃ t, exec (.marchStart dt) s = .next t ∧ t.mem.march = a.mem.march ∧ t.mem.borrow = a.mem.borrow ∧
        t.mem.marchRes.outcome = 2 ∧ t.mem.marchRes.reason = a.marchFault ∧ t.calm = { a.calm with mem := t.mem, pgSeq := t.pgSeq }) ∧
      (a.mem.march ≠ 0 → a.marchDestructive = false → a.mem.borrow ≠ [] →
        ∃ t, exec (.marchAbort dt) s = .next t ∧ t.mem = { a.mem with march := 2 } ∧ t = { a with mem := t.mem }) ∧
      (a.mem.march = 0 → exec (.marchAbort dt) s = .next a)) ∧
    (∀ (stk : Bool) (b row phase : Nat), a.mem.march ≠ 0 → a.borrowOf stk = some (b, row, phase) →
      (∀ x ∈ a.mem.borrow, x.1 = b → x = (b, row, phase)) →
      let at_ := shadowAt b row
      let shadowed := fun (t : State) => (∀ i < 0x400, Memory.read t.wsMem (at_ + i) =
          if b < 16 then Memory.read a.wsMem (bankBase b + 0x400 * row + i) else Memory.read a.stackMem (stackBase (b - 16) + 0x400 * row + i)) ∧
        (∀ x, (x < at_ ∨ at_ + 0x400 ≤ x) → Memory.read t.wsMem x = Memory.read a.wsMem x) ∧ t.stackMem = a.stackMem
      let moved := fun (n : Nat) => a.mem.borrow.map fun x => if x.1 = b then (b, row, n) else x
      (row < rowsOf b → phase = 1 → a.targetOn b = true → ∀ found : List (Nat × Ecc),
        ∃ t, exec (.marchCopyInDone dt { stk := stk, found := found }) s = .next t ∧ shadowed t ∧ t.mem.borrow = moved 2 ∧
          (found = [] → t = { a with mem := { a.mem with borrow := moved 2 }, wsMem := t.wsMem })) ∧
      (phase = 2 →
        (∃ t, exec (.marchRowTestDone dt stk none) s = .next t ∧ t.mem = { a.mem with borrow := moved 3 } ∧ t = { a with mem := t.mem }) ∧
        ∀ col < 9216, ∃ t, exec (.marchRowTestDone dt stk (some col)) s = .next t ∧ t.mem.borrow = moved 3 ∧
          t.mem.fails = satInc 65535 a.mem.fails ∧
          t.mem.failLoc = (match a.mem.failLoc with | none => some (b, row, col) | some x => some x) ∧ t.calm = { a.calm with mem := t.mem }) ∧
      (row < rowsOf b → phase = 3 → ∀ found : List (Nat × Ecc),
        let next := if a.mem.march = 2 then [] else if row + 1 < rowsOf b then [(b, row + 1, 1)] else if b < 16 then a.nextBorrows (b + 1) else []
        let left := next ++ a.mem.borrow.filter fun x => decide (x.1 ≠ b)
        ∃ t, exec (.marchCopyBackDone dt { stk := stk, found := found }) s = .next t ∧ shadowed t ∧ t.mem.borrow = left ∧
          t.mem.rows = satInc (2 ^ 28 - 1) a.mem.rows ∧ t.mem.fails = a.mem.fails ∧
          (left ≠ [] → t.mem.march = a.mem.march ∧ t.mem.marchRes = a.mem.marchRes) ∧
          (left = [] → t.mem.march = 0 ∧ t.mem.marchRes.outcome = (if a.mem.march = 2 then 3 else 1) ∧
            t.mem.marchRes.seq = a.mem.marchRes.seq + 1)))) ∧
  ((∀ (s : State) (dt : Nat) (fails : List (Nat × Nat × Nat)),
    let a := s.advance dt
    a.mem.march ≠ 0 → a.marchDestructive = true →
    ∃ t, exec (.destructiveMarchDone dt fails) s = .next t ∧ t.mem.march = 0 ∧ t.mem.rows = a.marchBanks.length ∧ t.mem.marchRes.outcome = 1 ∧
      ∀ x, Memory.read t.wsMem x = (if a.marchBanks.any (fun b => decide (bankBase b ≤ x) && decide (x < bankBase (b + 1))) then 0
        else Memory.read a.wsMem x)) ∧
  (∀ (s : State) (dt : Nat) (b : BitVec 4) (col : BitVec 14),
    let a := s.advance dt
    let f := a.repairFault b.toNat col.toNat
    a.takes 10 = true →
    (f = 0 → ∃ t, exec (.repairCmd dt b col) s = .next t ∧ t.mem.repair = some (b.toNat, col.toNat, 1) ∧ t.mem.repairRes.valid = false ∧
      t.mem.spare = a.mem.spare) ∧
    (f ≠ 0 → ∃ t, exec (.repairCmd dt b col) s = .next t ∧ t.mem.repair = a.mem.repair ∧ t.mem.repairRes.outcome = 2 ∧
      t.mem.repairRes.reason = f ∧ t.mem.spare = a.mem.spare)) ∧
  (∀ (s : State) (dt b col : Nat),
    let a := s.advance dt
    a.mem.repair = some (b, col, 2) →
    ∃ t, exec (.repairSwitch dt) s = .next t ∧ t.mem.repair = none ∧ Tab.get 0 t.mem.spare (b * 16384 + col) = a.nextSpare b - 1 ∧
      t.mem.repairRes.outcome = 1 ∧ t.wsMem = a.wsMem ∧ t.stackMem = a.stackMem))

/-- A BAR 2 write to an unguarded address stores its bytes there and nowhere else; one to a closed region or to a tagged granule, or with a partial
word that cannot be corrected, changes no byte (R77, R267, R271; that one such word drops the whole write is the model's reading, log 124), and
neither does one that reaches a stack that is not ACTIVE (R388). -/
def Obligations.Bar2Writes : Prop :=
  ∀ (s : State) (dt : Nat) (off : BitVec 36) (data : List Byte) (reads : PartReads),
    let a := s.advance dt
    let x := a.bar2Addr off.toNat
    let n := data.length
    a.takes bar2Stream = true → 0 < n → off.toNat + n ≤ a.bar2Bytes →
    (a.stacksOn x n = false → ∃ t, exec (.bar2Write dt off data reads) s = .next t ∧ t.dev.stkDrop = satInc 65535 a.dev.stkDrop ∧
      t.calm = { a.calm with dev := { a.calm.dev with stkDrop := t.dev.stkDrop } }) ∧
    (a.stacksOn x n = true → rmwBad (rmwReads x n reads) = false → noWrite (regionOf x) = false → noWrite (regionOf (x + n - 1)) = false → a.tagged x = false →
      a.tagged (x + n - 1) = false → (∀ w ∈ pinsTouched x n, a.activeReason w x n = none ∧ a.guarded w x n = false) →
      ∃ t, exec (.bar2Write dt off data reads) s = .next t ∧ Memory.load t.stackMem x n = data ∧
        (∀ y, (y < x ∨ x + n ≤ y) → Memory.read t.stackMem y = Memory.read a.stackMem y) ∧ t.wsMem = a.wsMem ∧ t.out = a.out) ∧
    (a.stacksOn x n = true → (rmwBad (rmwReads x n reads) = true ∨ noWrite (regionOf x) = true ∨ a.tagged x = true) →
      ∃ t, exec (.bar2Write dt off data reads) s = .next t ∧ t.stackMem = a.stackMem ∧ t.wsMem = a.wsMem ∧ t.out = a.out)

/-- A BAR 4 read of a bank that is ON, with no collision, answers its bytes, zeros where a bank hides them, and zeros for the bytes of a bank that
is not ON (R275, R276); a write lands in the scratch of bank 15 and is dropped everywhere else, with the bytes outside it unchanged (R275, R278; one
that begins before the scratch is dropped whole by the model's reading, log 36). -/
def Obligations.Bar4ReadsAndWrites : Prop :=
  (∀ (s : State) (dt : Nat) (off : BitVec 25) (len : Nat),
    let a := s.advance dt
    let o := off.toNat
    0 < len → o + len ≤ 0x2000000 → a.dev.bringup = 5 →
    (a.bankOn (o / 0x200000) = true → o % 0x200000 + len ≤ 0x200000 →
      ∃ t, exec (.bar4Read dt off len .clean none) s = .next t ∧ t.out = a.out ++ [.data ((List.range len).map fun i => a.bar4Byte (o + i)) false] ∧
        t = { a with out := t.out }) ∧
    (∀ (ecc : Ecc) (meet : Option Meet), a.bankOn (o / 0x200000) = false → o % 0x200000 + len ≤ 0x200000 →
      ∃ t, exec (.bar4Read dt off len ecc meet) s = .next t ∧ t.out = a.out ++ [.data (List.replicate len 0) false] ∧ t.wsMem = a.wsMem) ∧
    (len ≤ 0x200000 → 0x200000 < o % 0x200000 + len → ∃ t, exec (.bar4Read dt off len .clean none) s = .next t ∧ t.wsMem = a.wsMem ∧
      t.out = a.out ++ [.data ((List.range len).map fun i => if a.bankOn ((o + i) / 0x200000) then a.bar4Byte (o + i) else 0) false])) ∧
  (∀ (s : State) (dt : Nat) (off : BitVec 25) (data : List Byte) (found : PortReads),
    let a := s.advance dt
    let o := off.toNat
    let n := data.length
    a.takes bar4Stream = true → 0 < n → o + n ≤ 0x2000000 →
    (bankBase 15 + 0x800 ≤ o → a.bankOn 15 = true → rmwBad (rmwReads o n found.part) = false → found.meet = none →
      ∃ t, exec (.bar4Write dt off data found) s = .next t ∧ Memory.load t.wsMem o n = data ∧
        (∀ y, (y < o ∨ o + n ≤ y) → Memory.read t.wsMem y = Memory.read a.wsMem y) ∧ t.stackMem = a.stackMem ∧
        (found = {} → t = { a with wsMem := t.wsMem })) ∧
    (o < bankBase 15 + 0x800 → ∃ t, exec (.bar4Write dt off data found) s = .next t ∧ t.wsMem = a.wsMem ∧ t.stackMem = a.stackMem ∧
      (a.bankOn (o / 0x200000) = true → t.calm = a.calm)))

/-! The Ledger and security (R196, R311 to R331). -/

/-- Programming the Ledger can only turn its bits from 0 to 1 (R326): whatever command runs, no bit of an entry that reads 1 reads 0 afterwards. -/
def Obligations.LedgerBitsOnlySet : Prop :=
  ∀ (i : Instr) (s : State), ∃ t, exec i s = .next t ∧
    ∀ (n k : Nat), (Tab.get 0 s.keep.ledger n).getLsbD k = true → (Tab.get 0 t.keep.ledger n).getLsbD k = true

/-- RETIRE asks for an entry for the slot its spare window addresses, and is refused when that slot is retired (R196). A subsystem ID or polarity
equal to the value in force changes nothing; a new one asks for an entry (R330). The change takes effect when its entry is committed, at the lowest
blank index: a retirement, an identity, a polarity, or a spare column whose copy then begins (R196, R289, R305, R330); an entry that does not verify
is voided and changes nothing (R328). An append whose budget is spent when it starts is refused with BUDGET and takes no entry (R329, R331). -/
def Obligations.LedgerWrites : Prop :=
  ∀ (s : State) (dt : Nat),
    let a := s.advance dt
    let unasked := fun (t : State) => t.keep.rwl.outcome = 2 ∧ t.keep.rwl.reason = 1 ∧ t.keep.queue = [] ∧ t.keep.ledger = a.keep.ledger
    (∀ c : CluId, a.takes (cluPage c) = true →
      (a.retired (a.slotOf (128 + c)) = true → ∃ t, exec (.retire dt c) s = .next t ∧ (t.clu c).retRefused = true ∧ t.keep = a.keep ∧
        (t.clu c).retired = (a.clu c).retired) ∧
      (a.retired (a.slotOf (128 + c)) = false → a.budgetSpent 4 0 = false → ∃ t, exec (.retire dt c) s = .next t ∧
        (t.clu c).retRefused = false ∧ (t.clu c).retired = (a.clu c).retired ∧ t.keep.ledger = a.keep.ledger ∧
        t.keep.queue = a.keep.queue ++ [{ kind := 4, obj := BitVec.ofNat 32 (a.slotOf (128 + c)), val := 0 }]) ∧
      (a.retired (a.slotOf (128 + c)) = false → a.budgetSpent 4 0 = true → a.keep.queue = [] → ∃ t, exec (.retire dt c) s = .next t ∧
        (t.clu c).retRefused = true ∧ (t.clu c).retired = (a.clu c).retired ∧ unasked t)) ∧
    (∀ val : BitVec 32, a.takes 12 = true →
      (val = a.keep.subsys → exec (.subsysWrite dt val) s = .next a) ∧
      (val ≠ a.keep.subsys → a.sec.lc < 2 → a.budgetSpent 5 0 = false → ∃ t, exec (.subsysWrite dt val) s = .next t ∧
        t.keep.queue = a.keep.queue ++ [{ kind := 5, obj := 0, val := val.setWidth 64 }] ∧ t.keep.subsys = a.keep.subsys) ∧
      (val ≠ a.keep.subsys → a.sec.lc < 2 → a.budgetSpent 5 0 = true → a.keep.queue = [] → ∃ t, exec (.subsysWrite dt val) s = .next t ∧
        t.keep.subsys = a.keep.subsys ∧ unasked t) ∧
      (val ≠ a.keep.subsys → 2 ≤ a.sec.lc → ∃ t, exec (.subsysWrite dt val) s = .next t ∧ t.keep.rwl.outcome = 2 ∧ t.keep.rwl.reason = 3 ∧
        t.keep.queue = a.keep.queue ∧ t.keep.subsys = a.keep.subsys)) ∧
    (∀ pol : Bool, a.takes 6 = true →
      (pol = a.flt.pol → exec (.alivePolWrite dt pol) s = .next a) ∧
      (pol ≠ a.flt.pol → a.budgetSpent 6 0 = false → ∃ t, exec (.alivePolWrite dt pol) s = .next t ∧
        t.keep.queue = a.keep.queue ++ [{ kind := 6, obj := 0, val := BitVec.ofNat 64 (b2n pol) }] ∧ t.flt.pol = a.flt.pol) ∧
      (pol ≠ a.flt.pol → a.budgetSpent 6 0 = true → a.keep.queue = [] → ∃ t, exec (.alivePolWrite dt pol) s = .next t ∧
        t.flt.pol = a.flt.pol ∧ unasked t)) ∧
    (∀ (x : Append) (i : Nat), a.keep.queue = [x] → a.nextBlank = some i →
      let k := x.obj.toNat % 256
      let c := cluOfSlot k
      (∃ t, exec (.ledgerAppendDone dt true) s = .next t ∧ t.keep.queue = [] ∧ t.keep.rwl.outcome = 1 ∧ t.keep.rwlKind = x.kind ∧
        Tab.get 0 t.keep.ledger i = mkEntry i x.kind a.sec.lc x.obj.toNat x.val.toNat a.t ∧
        (∀ j, j ≠ i → Tab.get 0 t.keep.ledger j = Tab.get 0 a.keep.ledger j) ∧
        t.mem.repair = (if x.kind = 3 then a.mem.repair.map fun r => (r.1, r.2.1, 2) else a.mem.repair) ∧
        (x.kind = 4 → (t.clu c).retired = putBit (a.clu c).retired (k % 17) true ∧ (t.clu c).retRefused = false) ∧
        (x.kind ≠ 4 → t.clus = a.clus) ∧ t.keep.subsys = (if x.kind = 5 then BitVec.ofNat 32 x.val.toNat else a.keep.subsys) ∧
        t.flt.pol = (if x.kind = 6 then bit x.val.toNat 0 else a.flt.pol)) ∧
      (∃ t, exec (.ledgerAppendDone dt false) s = .next t ∧ t.keep.queue = [] ∧ t.keep.rwl.outcome = 3 ∧ t.keep.rwl.reason = 2 ∧
        Tab.get 0 t.keep.ledger i = BitVec.allOnes 256 ∧ t.clus = a.clus ∧ t.keep.subsys = a.keep.subsys ∧ t.flt.pol = a.flt.pol ∧
        (x.kind = 3 → t.mem.repair = none ∧ t.mem.repairRes.outcome = 3 ∧ t.mem.repairRes.reason = 5)))

/-- A life-cycle request is refused with the first reason of R313 that holds, and begins the transition and its wipe else; its end, once the appends
before it are done and the stacks that RETURNED and SCRAPPED erase serve, reaches the target state with its entry committed, without an owner KEK
and with every key slot empty from RETURNED on, and stays in the old state when the append failed (R312 to R314, R331; a stack that never trains is
not waited for by the model's choice, log 109). -/
def Obligations.LifeCycle : Prop :=
  (∀ (s : State) (dt : Nat) (target : BitVec 3) (confirm : BitVec 16),
    let a := s.advance dt
    let f := a.lcFault target.toNat confirm.toNat
    a.takes 11 = true →
    (f ≠ 0 → ∃ t, exec (.lcCmd dt target confirm) s = .next t ∧ t.sec.lc = a.sec.lc ∧ t.sec.trans = a.sec.trans ∧ t.sec.res.outcome = 2 ∧
      t.sec.res.reason = f ∧ t.sec.keyMap = a.sec.keyMap ∧ t.wsMem = a.wsMem) ∧
    (f = 0 → ∃ t, exec (.lcCmd dt target confirm) s = .next t ∧ t.sec.lc = a.sec.lc ∧ t.sec.trans = some target.toNat ∧ t.sec.wiping = true ∧
      t.sec.keyMap = 0 ∧ lcLegal a.sec.lc target.toNat = true ∧ confirm = 0x7128 ∧ t.keep.ledger = a.keep.ledger)) ∧
  (∀ (s : State) (dt target : Nat),
    let a := s.advance dt
    a.sec.trans = some target → target < 3 ∨ a.eraseServed none = true → a.keep.queue = [] → a.nextBlank ≠ none →
    (∃ t, exec (.lcTransitionDone dt true) s = .next t ∧ t.sec.lc = target ∧ t.sec.trans = none ∧ t.sec.wiping = false ∧
      t.sec.res.outcome = 1 ∧ t.keep.kek = (if target < 3 then a.keep.kek else none) ∧ (3 ≤ target → t.sec.keyMap = 0)) ∧
    (∃ t, exec (.lcTransitionDone dt false) s = .next t ∧ t.sec.lc = a.sec.lc ∧ t.sec.trans = none ∧ t.sec.wiping = false ∧
      t.sec.res.outcome = 3 ∧ t.sec.res.reason = 7))

/-- A tamper input that fires with POR_N high, and for the voltage and the clock with VDD_AON within its conditions, stamps the GT and starts a
wipe: every key slot reads 0 and none is loaded, from the cause on by the model's reading (R316, R317, R320; log 32); all but the voltage input stay
ACTIVE until cleared (R320). Nothing else changes where no window has a frame waiting (R319). With POR_N low, which the model takes for the part
without power, the mesh's detection is held, and the others make none (R317, R318; log 153). The wipe's end zeroes the secure store and counts
(R316). -/
def Obligations.TamperWipes : Prop :=
  (∀ (s : State) (dt : Nat),
    let a := s.advance dt
    let wiped := fun (t : State) (act : BitVec 4) => t.sec.wiping = true ∧ t.sec.keyMap = 0 ∧ t.sec.tamperT = gtOf a.t ∧ t.sec.active = act ∧
      (∀ x, keyAddr 0 ≤ x → x < keyAddr 64 → Memory.read t.wsMem x = 0) ∧
      (∀ x, (x < keyAddr 0 ∨ keyAddr 64 ≤ x) → Memory.read t.wsMem x = Memory.read a.wsMem x) ∧
      ((∀ w < 128, (a.ik w).bytes.length < 32) → t.calm = { a.calm with sec := t.sec, wsMem := t.wsMem })
    (a.dev.porLow = false →
      (∃ t, exec (.tamperMesh dt) s = .next t ∧ wiped t (putBit a.sec.active 0 true)) ∧
      (a.keep.railBits.getLsbD 11 = false → (∃ t, exec (.tamperVoltage dt) s = .next t ∧ wiped t a.sec.active) ∧
        ∃ t, exec (.tamperClock dt) s = .next t ∧ wiped t (putBit a.sec.active 2 true)) ∧
      (∃ t, exec (.vbatLoss dt) s = .next t ∧ wiped t (putBit a.sec.active 3 true))) ∧
    (a.dev.porLow = true → exec (.tamperMesh dt) s = .next { a with keep := { a.keep with unpowered := putBit a.keep.unpowered 0 true } } ∧
      exec (.tamperVoltage dt) s = .next a ∧ exec (.tamperClock dt) s = .next a ∧ exec (.vbatLoss dt) s = .next a) ∧
    (∀ i : BitVec 2, ∃ t, exec (.tamperCleared dt i) s = .next t ∧
      t = { a with sec := { a.sec with active := putBit a.sec.active i.toNat false } }) ∧
    (a.sec.wiping = true → ∃ t, exec (.wipeDone dt) s = .next t ∧ t.sec = { a.sec with
        wiping := false, staged := 0, kekWords := 0, keyWords := 0, wipes := satInc 65535 a.sec.wipes } ∧
      (∀ x, bankBase 11 ≤ x → x < keyAddr 0 → Memory.read t.wsMem x = 0) ∧
      (∀ x, (x < bankBase 11 ∨ keyAddr 0 ≤ x) → Memory.read t.wsMem x = Memory.read a.wsMem x) ∧ t = { a with sec := t.sec, wsMem := t.wsMem }) ∧
    (a.sec.wiping = false → exec (.wipeDone dt) s = .next a))

/-- Key commands are refused with the first reason that holds, and the slots stay as they are (R321, R322); a plain load writes its key to its slot
and to no other byte; a clear empties it; a wrapped load writes the key that it unwraps under the owner KEK, and one that does not unwrap fails with
reason 4 (R321); a load that a wipe overtook ends REFUSED with reason 3 by the model's reading (log 32). A write of SEC.STORE_DATA reaches the
secure store at its address, and the address moves on with AUTO_INC (R323); where the life cycle, a tamper input or a wipe forbids it nothing
changes. An erase is refused while a window it covers is in ARMED or RUN; its end leaves no granule that it covers tagged and touches no other byte
(R325; a stack that never trains keeps its tags by the model's choice, log 109). -/
def Obligations.KeysStoreAndErase : Prop :=
  ((∀ (s : State) (dt : Nat) (slot : BitVec 6),
    let a := s.advance dt
    let begun := fun (t : State) (op : Nat) => t.sec = { a.sec with
      keyOp := some (op, slot.toNat), keyIn := a.sec.keyWords, keyRes := a.sec.keyRes.busy } ∧ t = { a with sec := t.sec }
    let refused := fun (t : State) (f : Nat) => t.sec.keyMap = a.sec.keyMap ∧ t.sec.keyOp = a.sec.keyOp ∧ t.sec.keyRes.outcome = 2 ∧
      t.sec.keyRes.reason = f ∧ t.sec.keySlot = slot.toNat ∧ t.sec.keyWords = 0 ∧ t.wsMem = a.wsMem
    a.takes 11 = true →
    (a.keyFault 2 slot.toNat = 0 → ∃ t, exec (.loadPlain dt slot) s = .next t ∧ begun t 2) ∧
    (a.keyFault 1 slot.toNat = 0 → ∃ t, exec (.loadWrapped dt slot) s = .next t ∧ begun t 1) ∧
    (a.keyFault 3 slot.toNat = 0 → ∃ t, exec (.keyClear dt slot) s = .next t ∧ begun t 3) ∧
    (a.keyFault 2 slot.toNat ≠ 0 → ∃ t, exec (.loadPlain dt slot) s = .next t ∧ refused t (a.keyFault 2 slot.toNat)) ∧
    (a.keyFault 1 slot.toNat ≠ 0 → ∃ t, exec (.loadWrapped dt slot) s = .next t ∧ refused t (a.keyFault 1 slot.toNat)) ∧
    (a.keyFault 3 slot.toNat ≠ 0 → ∃ t, exec (.keyClear dt slot) s = .next t ∧ refused t (a.keyFault 3 slot.toNat))) ∧
  (∀ (s : State) (dt slot : Nat),
    let a := s.advance dt
    slot < 64 →
    (a.sec.keyOp = some (2, slot) → ∃ t, exec (.keyCmdDone dt) s = .next t ∧ t.sec.keyMap.getLsbD slot = true ∧ t.sec.keyOp = none ∧
      Memory.load t.wsMem (keyAddr slot) 32 = bytesOf (a.sec.keyIn.toNat % 2 ^ 256) 32 ∧ t.sec.keyRes.outcome = 1 ∧
      ∀ x, (x < keyAddr slot ∨ keyAddr slot + 32 ≤ x) → Memory.read t.wsMem x = Memory.read a.wsMem x) ∧
    (a.sec.keyOp = some (3, slot) → ∃ t, exec (.keyCmdDone dt) s = .next t ∧ t.sec.keyMap.getLsbD slot = false ∧ t.sec.keyRes.outcome = 1 ∧
      (∀ x, keyAddr slot ≤ x → x < keyAddr slot + 32 → Memory.read t.wsMem x = 0) ∧
      ∀ x, (x < keyAddr slot ∨ keyAddr slot + 32 ≤ x) → Memory.read t.wsMem x = Memory.read a.wsMem x) ∧
    (a.sec.keyOp = some (1, slot) → ∃ t, exec (.keyCmdDone dt) s = .next t ∧
      (∀ key, (a.keep.kek.bind fun k => unwrapKey k a.sec.keyIn) = some key → t.sec.keyMap.getLsbD slot = true ∧ t.sec.keyRes.outcome = 1 ∧
        Memory.load t.wsMem (keyAddr slot) 32 = bytesOf key.toNat 32 ∧
        ∀ x, (x < keyAddr slot ∨ keyAddr slot + 32 ≤ x) → Memory.read t.wsMem x = Memory.read a.wsMem x) ∧
      ((a.keep.kek.bind fun k => unwrapKey k a.sec.keyIn) = none →
        t.sec.keyRes.outcome = 2 ∧ t.sec.keyRes.reason = 4 ∧ t.wsMem = a.wsMem ∧ t.sec.keyMap = a.sec.keyMap)) ∧
    (a.sec.keyOp = some (0, slot) → ∃ t, exec (.keyCmdDone dt) s = .next t ∧ t.sec.keyRes.outcome = 2 ∧ t.sec.keyRes.reason = 3 ∧
      t.wsMem = a.wsMem ∧ t.sec.keyMap = a.sec.keyMap))) ∧
  ((∀ (s : State) (dt : Nat) (val : Word),
    let a := s.advance dt
    let r := a.dreg 11 0x0E0
    a.takes 11 = true →
    (a.sec.lc ≤ 2 → a.sec.active = 0 → a.sec.wiping = false → ∃ t, exec (.storeWrite dt val) s = .next t ∧
      Memory.load t.wsMem (bankBase 11 + 8 * bits r 0 15) 8 = bytesOf val.toNat 8 ∧
      (∀ x, (x < bankBase 11 + 8 * bits r 0 15 ∨ bankBase 11 + 8 * bits r 0 15 + 8 ≤ x) → Memory.read t.wsMem x = Memory.read a.wsMem x) ∧
      t.dreg 11 0x0E0 = (if bit r 16 then (bits r 0 15 + 1) % 32768 + 65536 else r) ∧ t = { a with wsMem := t.wsMem, regs := t.regs }) ∧
    ((2 < a.sec.lc ∨ a.sec.active ≠ 0 ∨ a.sec.wiping = true) → exec (.storeWrite dt val) s = .next a)) ∧
  (∀ (s : State) (dt : Nat) (pin : BitVec 7) (all : Bool),
    let a := s.advance dt
    let covers := fun (w : Nat) => if all then w < 128 else w = pin.toNat
    a.takes 11 = true →
    ((∀ w < 128, covers w → a.armedRun w = false) → a.sec.erase = none → a.sec.trans = none →
      ∃ t, exec (.eraseCmd dt pin all) s = .next t ∧ t.sec.erase = some (if all then none else some pin.toNat) ∧ t.sec.eraseRes.valid = false ∧
        t = { a with sec := t.sec }) ∧
    ((∃ w < 128, covers w ∧ a.armedRun w = true) → ∃ t, exec (.eraseCmd dt pin all) s = .next t ∧ t.sec.erase = a.sec.erase ∧
      t.sec.eraseRes.outcome = 2 ∧ t.sec.eraseRes.reason = 1 ∧ t.stackMem = a.stackMem)) ∧
  (∀ (s : State) (dt : Nat) (sel : Option Nat),
    let a := s.advance dt
    let gone := fun (k : Nat) => (∀ p, sel = some p → k / 6144 = p) ∧ a.stackOn (k / 6144 / 64) = true
    a.sec.erase = some sel → a.eraseServed sel = true →
    ∃ t, exec (.eraseDone dt) s = .next t ∧ t.sec.erase = none ∧ t.sec.eraseRes.outcome = 1 ∧
      (∀ k, gone k → Tab.get false t.mem.tags k = false) ∧ (∀ k, ¬ gone k → Tab.get false t.mem.tags k = Tab.get false a.mem.tags k) ∧
      ∀ x, (∀ k, gone k → Tab.get false a.mem.tags k = true →
          x < vecArea (k / 6144) + k % 6144 * 65536 ∨ vecArea (k / 6144) + k % 6144 * 65536 + 65536 ≤ x) →
        Memory.read t.stackMem x = Memory.read a.stackMem x))

/-! Registers, snapshots, commits, resets and bring-up (R339 to R342, R365 to R388). -/

/-- A BAR 0 write that covers a plain register exactly stores its writable bits there and nowhere else (R339, R368), here on the TSET pages and the
IRQ page; one that covers no register exactly is dropped and counted (R339). Ones written to PG_EVT clear those bits and no other, but for a bit
whose event occurs at the instant of the write, which stays 1 (R366). A TAKE copies the page's counters as they are at that instant, and its
snapshot registers keep their old values until the copy is complete (R342), once the page's pending jumps that are due and its waits are brought up
to that instant (the waits drawn there are free, log 86); one taken meanwhile is merged into it. A complete copy shows each value at its register,
raises SEQ and sets VALID. SNAP_ALL takes every page at one GT (R375); one that overlaps the last is merged with it by the model's reading (log 71).
-/
def Obligations.RegisterWritesAndSnapshots : Prop :=
  ((∀ (s : State) (dt : Nat) (w : WinId) (addr : BitVec 25) (size : Nat) (data : Word) (r : RegRow),
    let a := s.advance dt
    let x := addr.toNat
    let p := x / 0x1000
    (p = winPage w 4 ∧ 0x40 ≤ x % 0x1000 ∨ p = 5 ∧ 0x48 ≤ x % 0x1000) → a.takes p = true → regAt x = some r → r.mask ≠ 0 → r.size = size →
    x % size = 0 →
    ∃ t, exec (.regWrite dt addr size data) s = .next t ∧ t.reg x = (if size = 4 then data.toNat % 2 ^ 32 else data.toNat) &&& r.mask ∧
      OnlyReg a t x) ∧
  (∀ (s : State) (dt : Nat) (addr : BitVec 25) (size : Nat) (data : Word),
    let a := s.advance dt
    let x := addr.toNat
    let p := x / 0x1000
    p ≠ 0x80 → p ≠ 0x81 → a.takes p = true → (∀ r, regAt x = some r → r.size ≠ size ∨ x % size ≠ 0) →
    exec (.regWrite dt addr size data) s = .next { a with host := { a.host with bar0Drop := satInc 65535 a.host.bar0Drop } }) ∧
  (∀ (s : State) (dt : Nat) (page : PageId) (mask : BitVec 32),
    let a := s.advance dt
    a.takes page = true → pageExists page = true →
    ∃ t, exec (.pgEvtClear dt page mask) s = .next t ∧
      (∀ k : Fin 32, (t.evtBits page).getLsbD k = ((a.evtBits page).getLsbD k && (!mask.getLsbD k || (a.freshBits page).getLsbD k))) ∧
      (∀ p, p ≠ page.val → t.evtBits p = a.evtBits p) ∧ t = { a with pgEvt := t.pgEvt, evtDue := t.evtDue })) ∧
  ((∀ (s : State) (dt : Nat) (page : PageId) (ws : List (Nat × Nat)),
    let a := s.advance dt
    a.takes page = true → (a.settled page).snapWords page = some ws →
    ((a.snapOf page).copy = none → ∃ t, exec (.snapTake dt page) s = .next t ∧ (t.snapOf page).valid = false ∧
      (t.snapOf page).copy = some (ws.map fun x => (pageAddr page x.1, BitVec.ofNat 64 x.2)) ∧ (t.snapOf page).seq = (a.snapOf page).seq ∧
      (∀ p, p ≠ page.val → t.snapOf p = a.snapOf p) ∧ t = { a.settled page with snapSt := t.snapSt } ∧
      (page.val ≠ 9 → (∀ w : WinId, page.val = winPage w 1 → a.noJumpDue w = true) → t = { a with snapSt := t.snapSt })) ∧
    ((a.snapOf page).copy.isSome = true → exec (.snapTake dt page) s = .next a)) ∧
  (∀ (s : State) (dt : Nat) (page : PageId),
    let a := s.advance dt
    ((a.snapOf page).copy = none → exec (.snapDone dt page) s = .next a) ∧
    (∀ ws : List (Nat × Word), (a.snapOf page).copy = some ws → (ws.map Prod.fst).Nodup → a.dev.snapBusy = false →
      ∃ t, exec (.snapDone dt page) s = .next t ∧ t.snapOf page = { seq := (a.snapOf page).seq + 1, valid := true, copy := none } ∧
        (∀ x v, (x, v) ∈ ws → Tab.get (snapReset x) t.snaps x = v) ∧
        (∀ x, x ∉ ws.map Prod.fst → Tab.get (snapReset x) t.snaps x = Tab.get (snapReset x) a.snaps x) ∧
        t = { a with snaps := t.snaps, snapSt := t.snapSt, pgSeq := t.pgSeq })) ∧
  (∀ (s : State) (dt : Nat),
    let a := s.advance dt
    a.takes 0 = true →
    ((a.dev.snapBusy && a.copying) = true → exec (.snapAll dt) s = .next a) ∧
    ((a.dev.snapBusy && a.copying) = false → ∃ t, exec (.snapAll dt) s = .next t ∧ t.dev.snapT = a.t ∧ t.dev.snapBusy = true ∧
      t.dev.snapValid = false ∧ (∀ p ∈ snapPages, (t.snapOf p).copy.isSome = true) ∧ ((∀ w : WinId, a.noJumpDue w = true) →
        t = { a with snapSt := t.snapSt, dev := t.dev, mem := { a.mem with conflict := t.mem.conflict }, freeN := t.freeN }))))

/-- A host write behind a commit or to a page under reset waits, in order; before SERVICEABLE it is dropped and counted (R341, R370, R382). A commit
waits behind what came before it, and takes effect once, with the writes behind it following in order (R341, R374). -/
def Obligations.CommitsOrderWrites : Prop :=
  (∀ (s : State) (dt : Nat) (page : PageId) (mask : BitVec 32),
    let a := s.advance dt
    (a.dev.regPhase = true → exec (.pgEvtClear dt page mask) s = .next { a with dev := { a.dev with dropped := satInc 65535 a.dev.dropped } }) ∧
    (a.dev.regPhase = false → a.dev.bringup ≠ 5 → page.val ≠ 1 →
      exec (.pgEvtClear dt page mask) s = .next { a with dev := { a.dev with buDropped := satInc 65535 a.dev.buDropped } }) ∧
    (a.dev.regPhase = false → a.dev.bringup = 5 → (a.committing || a.pageHeld page) = true →
      exec (.pgEvtClear dt page mask) s = .next { a with held := a.held ++ [.write page (.pgEvtClear dt page mask)] })) ∧
  (∀ (s : State) (dt : Nat),
    let a := s.advance dt
    (a.takes 0 = true → exec (.commit dt) s = .next { a with held := a.held ++ [.commit] }) ∧
    ((∀ r, a.held ≠ .commit :: r) → exec (.commitDone dt) s = .next a) ∧
    (a.held = [.commit] →
      exec (.commitDone dt) s = .next { a with held := [], dev := { a.dev with commitSeq := a.dev.commitSeq + 1 } }) ∧
    (∀ (d : Nat) (w : WinId) (val : Byte), a.dev.bringup = 5 → a.dev.regPhase = false → a.pageHeld (winPage w 1) = false →
      a.held = [.commit, .write (winPage w 1) (.hostFlagWrite d w val)] →
      ∃ t, exec (.commitDone dt) s = .next t ∧ t.held = [] ∧ t.reg (pageAddr (winPage w 1) 0x048) = val.toNat ∧
        t.dev = { a.dev with commitSeq := a.dev.commitSeq + 1 } ∧ t = { a with held := t.held, dev := t.dev, regs := t.regs }))

/-- A block reset of a window's sequencer, Sluice, timing or timing-set page ends a burst in RUN without landing, the static drive becoming the
state remembered, or staying where no vector has started, and discards one in ARMED (R44, R55; the mode reads READY from the reset's start, log 90,
and an ARM in transition goes on, log 62); one of the AFE, PMU, CAP or ACQ page changes nothing of the window, and one of the STP page returns its
stamper (R55, R244; log 62); one of the SYN or HST page changes nothing else, and one of MCH ends a march and a repair (R286; log 62). Each clears
its page's PG_EVT (R365) and opens a consequential window of 2 µs (R303). A channel or cluster reset leaves its windows as R55, R56, R244 and R266
say; a cluster reset returns the fabric, the headroom threshold and the cluster's other registers of its class too, and keeps the AFE's power, the
pin map and the counts of the switches (R56). A reset requested again while it is in progress adds nothing, and pages without one ignore it (R365).
A reset that is over lets the page's writes go (R370); expired consequential windows close (R303). -/
def Obligations.BlockResets : Prop :=
  (∀ (s : State) (dt : Nat) (page : PageId),
    let a := s.advance dt
    (a.takes page = true → resettable page = false → exec (.blkRst dt page) s = .next a) ∧
    (page.val ∈ a.dev.resets → exec (.blkRst dt page) s = .next a)) ∧
  (∀ (s : State) (dt : Nat) (page : PageId),
    let a := s.advance dt
    let q := page.val % 16
    let w := (page.val - 0x1000) / 16
    let evts := fun (t : State) => t.evtBits page = 0 ∧ ∀ p, p ≠ page.val → t.evtBits p = a.evtBits p
    let quiet := fun (t : State) => evts t ∧ t = { a with pgEvt := t.pgEvt, evtDue := t.evtDue, dev := t.dev, conseqs := t.conseqs }
    let begun := fun (t : State) => t.dev.resets = a.dev.resets ++ [page.val] ∧ t.conseqs = a.conseqs ++ [(page.val, a.t, a.t + 2 * us)]
    a.takes page = true → resettable page = true → page.val ∉ a.dev.resets →
    (0x1000 ≤ page.val → 1 ≤ q → q ≤ 4 →
      ∃ t, exec (.blkRst dt page) s = .next t ∧ begun t ∧
        (a.mode w = .run → t.mode w = .ready ∧ (t.md w).endCause = 3 ∧ (t.sq w).loaded = false ∧
          (t.md w).static = (if (a.pl w).begun then (a.pl w).remembered else (a.md w).static)) ∧
        (a.mode w = .armed → t.mode w = .ready ∧ (t.sq w).loaded = false) ∧
        (a.mode w ≠ .run → a.mode w ≠ .armed → quiet t)) ∧
    (0x1000 ≤ page.val → q ∈ [5, 6, 7, 9] → ∃ t, exec (.blkRst dt page) s = .next t ∧ begun t ∧ quiet t) ∧
    (0x1000 ≤ page.val → q = 8 → ∃ t, exec (.blkRst dt page) s = .next t ∧ begun t ∧ evts t ∧
      t.win w = { a.win w with st := { armT := (a.st w).armT, disarmT := (a.st w).disarmT } } ∧ (∀ v, v ≠ w → t.win v = a.win v) ∧
      t = { a with pgEvt := t.pgEvt, evtDue := t.evtDue, dev := t.dev, conseqs := t.conseqs, wins := t.wins }) ∧
    (page.val = 3 ∨ page.val = 4 → ∃ t, exec (.blkRst dt page) s = .next t ∧ begun t ∧ quiet t) ∧
    (page.val = 10 → ∃ t, exec (.blkRst dt page) s = .next t ∧ begun t ∧ t.mem.march = 0 ∧ (a.mem.march ≠ 0 → t.mem.borrow = [] ∧
      t.mem.marchRes.outcome = 3) ∧ t.mem.repair = none ∧ t.wins = a.wins ∧ t.clus = a.clus ∧ t.stackMem = a.stackMem ∧
      (a.marchDestructive = false → t.wsMem = a.wsMem)) ∧
    (0x1000 ≤ page.val → q = 0 → ∃ t, exec (.blkRst dt page) s = .next t ∧ t.dev.resets = a.dev.resets ++ [page.val] ∧ t.conseqs = a.conseqs ∧
      WindowReset a t w ∧ t.clus = a.clus ∧ ∀ v, v ≠ w → t.win v = a.win v) ∧
    (∀ c : CluId, page.val = cluPage c → ∃ t, exec (.blkRst dt page) s = .next t ∧ begun t ∧
      (∀ w ∈ cluWins c, WindowReset a t w ∧ t.fb w = {}) ∧ (∀ x, isClassC c x = true → t.reg x = (regReset x).toNat) ∧
      (t.clu c).expo = 0 ∧ (t.clu c).afeState = (a.clu c).afeState ∧ (t.clu c).swapped = (a.clu c).swapped ∧
      (t.clu c).retired = (a.clu c).retired ∧ (t.clu c).life = (a.clu c).life ∧ ∀ d, d ≠ c.val → t.clu d = a.clu d)) ∧
  (∀ (s : State) (dt : Nat) (page : PageId),
    let a := s.advance dt
    (page.val = 0 → exec (.resetDone dt page) s = .next { a with dev := { a.dev with regPhase := false } }) ∧
    (page.val ≠ 0 → page.val ∉ a.dev.resets → exec (.resetDone dt page) s = .next a) ∧
    (page.val ∈ a.dev.resets → 0x1000 ≤ page.val → page.val % 16 ≠ 0 → a.held = [] →
      exec (.resetDone dt page) s = .next { a with dev := { a.dev with resets := a.dev.resets.filter fun x => decide (x ≠ page.val) } })) ∧
  (∀ (s : State) (dt : Nat),
    let a := s.advance dt
    exec (.conseqWindowEnd dt) s = .next { a with conseqs := a.conseqs.filter fun x => decide (a.t < x.2.2) })

/-- DEV.RESET_CMD without CONFIRM is refused and does nothing else; with it, and by a Function Level Reset, the device reset runs: bring-up starts
again at STATE 0x1, GT stops at 0, registers return to reset, held writes are dropped, and every window reads OFF, a vector in flight included (R57,
R370, R385; log 146). The stacks, the Ledger, the loaded keys and the event log stay (R310, R369). What of the configuration space a Function Level
Reset clears, and that one is ignored while the link is down or the part is in reset, is the model's reading of PCI Express (log 37, PRESUMED); that
records on their way are held, and that a commanded reset keeps the configuration space, is log 65 (DEDUCED); that TRAP_N stays asserted is log 66
(DEDUCED). -/
def Obligations.DeviceResets : Prop :=
  let run := fun (a t : State) (cause : Nat) =>
    t.dev.bringup = 1 ∧ t.dev.regPhase = true ∧ t.dev.cause = cause ∧ t.dev.count = satInc 65535 a.dev.count ∧ t.gtRun = false ∧ t.t = 0 ∧
    t.held = [] ∧ t.regs = [] ∧ t.pgSeq = [] ∧ t.conseqs = [] ∧ t.flight = [] ∧ t.now = a.now ∧
    (∀ w, t.mode w = .off) ∧ t.stackMem = a.stackMem ∧ t.keep.ledger = a.keep.ledger ∧
    t.sec.keyMap = a.sec.keyMap ∧ t.sec.lc = a.sec.lc ∧ t.flt.logWr = a.flt.logWr ∧ t.flt.logRd = a.flt.logRd ∧ t.flt.trap = a.flt.trap ∧
    (a.mem.march = 0 → t.wsMem = a.wsMem)
  (∀ (s : State) (dt : Nat) (confirm : BitVec 16) (checks : List (SlotId × BitVec 16)),
    let a := s.advance dt
    a.takes 0 = true →
    (confirm ≠ 0x7128 → exec (.resetCmd dt confirm checks) s = .next { a with dev := { a.dev with refused := true } }) ∧
    (confirm = 0x7128 → a.dev.porLow = false → ∃ t, exec (.resetCmd dt confirm checks) s = .next t ∧ run a t 1 ∧
      t.host.cfgSpace = a.host.cfgSpace ∧ t.host.bme = a.host.bme)) ∧
  (∀ (s : State) (dt : Nat) (checks : List (SlotId × BitVec 16)),
    let a := s.advance dt
    ((a.host.up = false ∨ a.resetting = true) → exec (.functionLevelReset dt checks) s = .next a) ∧
    (a.host.up = true → a.resetting = false → ∃ t, exec (.functionLevelReset dt checks) s = .next t ∧ run a t 3 ∧
      t.host.cfgSpace = [] ∧ t.host.bme = false ∧ t.host.msixEn = false))

/-- POR_N low returns the part to its power-on state, but for what outlives power: the Ledger, the key-encryption key, the keeper's records (R377,
R378). Its release, PERST_N's and the KEEPER step's end each act in their place alone (R379): the release starts the live switch counts from the
stored ones (R192), and the KEEPER step takes up what the VBAT domain holds of the mesh and the sentinel (R318, R320). The bring-up steps follow in
order, each from its own STATE alone: fuses and Ledger (R329), where two bad copies of the fuses, or a fused grade of 1, make the part grade 1 (R5,
R380); start-up march, once after power-on (R287); timebase lock with GT at 0 (R13), which waits while the reference is lost (R380), stacks with
their zero-fill after power-on; a step whose check fails sets its STEP_FAIL bit and bring-up goes on (R379, R380). At SERVICEABLE ALIVE runs when
the heartbeat is there and held detections go to their collectors (R305, R381, R384). -/
def Obligations.PowerOnAndBringUp : Prop :=
  (∀ (s : State) (dt : Nat),
    let a := s.advance dt
    (∃ t, exec (.porAssert dt) s = .next t ∧ t.dev = State.reset.dev ∧ t.regs = [] ∧ t.wins = [] ∧ t.slots = [] ∧ t.clus = [] ∧
      t.stackMem = [] ∧ t.wsMem = [] ∧ t.gtRun = false ∧ t.t = 0 ∧ t.sec = State.reset.sec ∧ t.flt = State.reset.flt ∧
      t.mem = State.reset.mem ∧ t.held = [] ∧ t.flight = [] ∧ t.keep.kek = a.keep.kek ∧ t.keep.kekSpent = a.keep.kekSpent ∧
      t.keep.worn = a.keep.worn ∧ t.keep.stored = a.keep.stored ∧
      t.keep.therm = a.keep.therm ∧ t.keep.seedCh = a.keep.seedCh ∧ t.keep.seedPath = a.keep.seedPath ∧ t.keep.queue = [] ∧
      (a.keep.queue = [] → t.keep.ledger = a.keep.ledger)) ∧
    (∀ bad : List Nat,
      (a.dev.porLow = false → exec (.porRelease dt bad) s = .next a) ∧
      (a.dev.porLow = true → ∃ t, exec (.porRelease dt bad) s = .next t ∧ t.dev.porLow = false ∧ t.dev.bringup = 0 ∧
        t.dev.stepFail = (if bad = [] then a.dev.stepFail else putBit a.dev.stepFail 0 true) ∧ t.keep.ledger = a.keep.ledger ∧
        t.keep.kek = a.keep.kek ∧ t.wins = a.wins ∧ t.stackMem = a.stackMem ∧
        (∀ c < 8, ∀ i < 49, Tab.get 0 (t.clu c).life i = (if bad.contains (136 + c) then 0 else Tab.get 0 a.keep.stored (lifeKey c i))))) ∧
    exec (.perstRelease dt) s = .next { a with host := { a.host with perst := true } } ∧
    (∀ u : Unpowered,
      ((a.dev.porLow = true ∨ a.dev.bringup ≠ 0) → exec (.keeperDone dt u) s = .next a) ∧
      (a.dev.porLow = false → a.dev.bringup = 0 → ∃ t, exec (.keeperDone dt u) s = .next t ∧ t.dev.bringup = 1 ∧
        t.keep.unpowered.getLsbD 0 = (a.keep.unpowered.getLsbD 0 || u.mesh || u.meshOpen) ∧ t.keep.unpowered.getLsbD 3 = u.sentinel ∧
        t.sec.active.getLsbD 0 = u.meshOpen ∧
        t = { a with dev := { a.dev with bringup := 1 }, keep := { a.keep with unpowered := t.keep.unpowered }, sec := { a.sec with active := t.sec.active } }))) ∧
  (∀ (s : State) (dt : Nat),
    let a := s.advance dt
    (∀ bad0 bad1 : Bool,
      ((a.dev.porLow = true ∨ a.dev.bringup ≠ 1) → exec (.fusesLedgerDone dt bad0 bad1) s = .next a) ∧
      (a.dev.porLow = false → a.dev.bringup = 1 → ∃ t, exec (.fusesLedgerDone dt bad0 bad1) s = .next t ∧
        t.dev.bringup = (if a.mem.startupDone then 3 else 2) ∧ t.dev.grade = (if (bad0 && bad1) || Config.slowGrade then 1 else 0) ∧
        t.keep.verified = true ∧ t.dev.stepFail = (if bad0 = true ∨ bad1 = true ∨ a.ledgerBad = true then putBit a.dev.stepFail 1 true else a.dev.stepFail) ∧
        t.flt.alive = some t.flt.pol ∧ t.wins = a.wins ∧ t.stackMem = a.stackMem ∧ t.wsMem = a.wsMem ∧
        (a.keep.ledger = [] → t.keep.ledger = [] ∧ t.sec.lc = 0 ∧ t.keep.subsys = 0x71281F6A ∧ t.flt.pol = false ∧ t.mem.spare = []))) ∧
    (∀ fails : BitVec 16,
      (a.dev.bringup ≠ 2 → exec (.startupMarchDone dt fails) s = .next a) ∧
      (a.dev.bringup = 2 → ∃ t, exec (.startupMarchDone dt fails) s = .next t ∧ t.dev.bringup = 3 ∧ t.mem.startup = fails ∧ t.wsMem = [] ∧
        t.dev.stepFail = (if fails = 0 then a.dev.stepFail else putBit a.dev.stepFail 2 true) ∧ t.stackMem = a.stackMem ∧ t.regs = a.regs)) ∧
    (∀ replicaFail : Bool,
      ((a.dev.bringup ≠ 3 ∨ (a.src (devSrc 2 1)).causes ≠ []) → exec (.timebaseLock dt replicaFail) s = .next a) ∧
      (a.dev.bringup = 3 → (a.src (devSrc 2 1)).causes = [] → ∃ t, exec (.timebaseLock dt replicaFail) s = .next t ∧ t.dev.bringup = 4 ∧ t.t = 0 ∧ t.gtRun = true ∧
        t.ref.locked = true ∧ t.dev.stepFail = (if replicaFail then putBit a.dev.stepFail 3 true else a.dev.stepFail) ∧ t.regs = a.regs ∧
        t.stackMem = a.stackMem ∧ t.keep.unpowered = 0)) ∧
    (∀ fails : BitVec 2,
      (a.dev.bringup ≠ 4 → exec (.stacksDone dt fails) s = .next a) ∧
      (a.dev.bringup = 4 → ∃ t, exec (.stacksDone dt fails) s = .next t ∧ t.dev.bringup = 5 ∧ t.dev.rerun = false ∧ t.heldDet = [] ∧
        t.dev.stepFail = (if fails = 0 then a.dev.stepFail else putBit a.dev.stepFail 4 true) ∧ t.regs = a.regs ∧ t.wsMem = a.wsMem ∧
        (a.flt.heartbeat = true → t.flt.running = true ∧ t.flt.cause = 0) ∧
        (a.dev.rerun = true → (∀ k, (a.slot k).histDue = []) → t.stackMem = a.stackMem) ∧
        (a.dev.rerun = false → (∀ k, (a.slot k).histDue = []) → ∀ k < 2, fails.getLsbD k = false → ∀ x, stackBase k ≤ x → x < stackBase (k + 1) → Memory.read t.stackMem x = 0))))

/-- A stack command is refused with the first reason of R388 that holds, and begins the stack's change else; its end reaches the state asked for,
what the part itself had to write there meanwhile is written once the stack serves, and an ARM that waits to read its burst from there goes on once
the stack is ACTIVE (R388). -/
def Obligations.StackPowerStates : Prop :=
  ∀ (s : State) (dt : Nat) (stk : Bool),
    let a := s.advance dt
    let k := b2n stk
    let begins := fun (dest : Nat) (t : State) => t.stkState k = 2 ∧ t.stkTarget k = some dest ∧ t.stkState (1 - k) = a.stkState (1 - k) ∧
      t.stkTarget (1 - k) = a.stkTarget (1 - k) ∧ t.dev.stkRes.valid = false ∧ t = { a with dev := t.dev }
    let refused := fun (f : Nat) (t : State) => t.dev.stk = a.dev.stk ∧ t.dev.stkTo = a.dev.stkTo ∧ t.dev.stkRes.outcome = 2 ∧
      t.dev.stkRes.reason = f ∧ t.stackMem = a.stackMem
    (a.takes 1 = true →
      (a.stkFault k 0 = 0 → ∃ t, exec (.stkActive dt stk) s = .next t ∧ begins 0 t) ∧
      (a.stkFault k 0 ≠ 0 → ∃ t, exec (.stkActive dt stk) s = .next t ∧ refused (a.stkFault k 0) t) ∧
      (a.stkFault k 1 = 0 → ∃ t, exec (.stkSelfRefresh dt stk) s = .next t ∧ begins 1 t) ∧
      (a.stkFault k 1 ≠ 0 → ∃ t, exec (.stkSelfRefresh dt stk) s = .next t ∧ refused (a.stkFault k 1) t)) ∧
    (a.stkTarget k = none → exec (.stkChangeDone dt stk) s = .next a) ∧
    (∀ dest, a.stkTarget k = some dest → ∃ t, exec (.stkChangeDone dt stk) s = .next t ∧ t.stkState k = dest ∧ t.stkTarget k = none ∧
      t.stkState (1 - k) = a.stkState (1 - k) ∧ t.dev.stkRes.outcome = 1 ∧ t.dev.stkRes.seq = a.dev.stkRes.seq + 1 ∧
      ((dest ≠ 0 ∨ ∀ w < 128, w / 64 = k → (a.sq w).copyDue = none) → t.wins = a.wins ∧ t.wsMem = a.wsMem) ∧
      (dest = 0 → ∀ w < 128, w / 64 = k → (t.sq w).copyDue = none) ∧ ((∀ n, (a.slot n).histDue = []) → t.stackMem = a.stackMem))

/-! Faults (R290 to R309, R391, R413). -/

/-- A record reaches its collector after the tq of its stamp, the oldest of its source first (R15, R25), and one held over a device reset at once
(R302, R381); one whose stamp is that of a record the source has already given only counts in that one (R15). Else it sets the PEND bit of its class
and counts (R297 to R299): its native class, or one higher, with mf for F, when an unacknowledged detection of that class is on record (R297); in
COUNT mode F when N − 1 earlier ones lie in its window, C else (R298). It enters the log when its class is not N (R307). The clauses on what it
leaves are those of a class whose REACT field asks for nothing. -/
def Obligations.DetectionsReachTheirCollector : Prop :=
  (∀ (s : State) (dt n : Nat) (checks : List (SlotId × BitVec 16)) (x d : Det) (rest : List Det),
    let a := s.advance dt
    let st := a.src d.src
    a.flight[n]? = some x → takeSrc x.src a.flight = some (d, rest) →
    (d.past = false → a.t ≤ d.at_ → exec (.detectionArrival dt n checks) s = .next a) ∧
    (d.past = false → d.at_ < a.t → d.at_ ∈ st.times → rest.all (fun e => !(decide (e.src = d.src) && decide (e.at_ = d.at_))) = true →
      ∃ t, exec (.detectionArrival dt n checks) s = .next t ∧ t.flight = rest ∧
        t.src d.src = { st with count := satAdd (2 ^ 32 - 1) st.count (d.parts.length + d.more) } ∧ t.flt.logWr = a.flt.logWr ∧
        t.wins = a.wins ∧ t.regs = a.regs ∧ t.stackMem = a.stackMem ∧ t.dev = a.dev) ∧
    (∀ p : DetPart, (d.past = true ∨ d.at_ < a.t ∧ d.at_ ∉ st.times) → d.parts = [p] → p.inj = false → p.dry = false → p.conseq = false →
      d.src ≠ devSrc 6 0 → a.flt.logLevel + movedNow a.flt.logPop a.now < 2048 →
      let c := a.reg (compatKey d.src)
      let earlier := (st.win.filter fun u => decide (u ≤ d.at_) && decide (d.at_ - u < bits c 8 24 * 1024000000)).length
      let landed := fun (cls : Nat) (mf : Bool) => ∃ t, exec (.detectionArrival dt n checks) s = .next t ∧ t.flight = rest ∧
        (t.src d.src).pend = st.pend ||| BitVec.ofNat 4 (2 ^ cls) ∧ (t.src d.src).mf = (st.mf || mf) ∧ (t.src d.src).seq = st.seq + 1 ∧
        (t.src d.src).count = satAdd (2 ^ 32 - 1) st.count (1 + d.more) ∧ (t.src d.src).causes = st.causes ∧
        t.flt.logWr = a.flt.logWr + (if cls = 0 then 0 else 1) ∧ t.wins = a.wins ∧ t.regs = a.regs ∧ t.stackMem = a.stackMem ∧ t.dev = a.dev
      (bit c 0 = false → (st.base.getLsbD p.native = false ∨ p.native = 0) → a.reactField d.src p.native = 0 → landed p.native false) ∧
      (bit c 0 = false → st.base.getLsbD p.native = true → 1 ≤ p.native → p.native ≤ 3 → a.reactField d.src (min 3 (p.native + 1)) = 0 →
        landed (min 3 (p.native + 1)) (p.native = 3)) ∧
      (bit c 0 = true → bits c 4 4 ≤ earlier → a.reactField d.src 3 = 0 → landed 3 false) ∧
      (bit c 0 = true → earlier < bits c 4 4 → a.reactField d.src 1 = 0 → landed 1 false))) ∧
  (∀ (s : State) (dt n : Nat) (checks : List (SlotId × BitVec 16)),
    let a := s.advance dt
    a.flight[n]? = none → exec (.detectionArrival dt n checks) s = .next a)

/-- A latch's first choice may change for 64 ns and is final then (R37, R300); clearing a latch empties it and touches no status (R300). CLR clears
the named PEND bits of a source when it names the current SEQ and no cause persists behind a C, U or F it acknowledges; refused, it changes no
status and says STALE or PERSISTS (R304). REACT and COMPAT store their fields, unless the source has no block reset to ask for, or COUNT has a
window of 0 (R298, R301). -/
def Obligations.LatchesAndAcknowledging : Prop :=
  (∀ (s : State) (dt : Nat) (col : Collector),
    let a := s.advance dt
    let c := colSrc col
    (∃ t, exec (.firstFaultDecided dt col) s = .next t ∧ (t.coll c).srcs = (a.coll c).srcs ∧
      t = { a with colCh := t.colCh, colClu := t.colClu, colDev := t.colDev } ∧
      (∀ f e, (a.coll c).first = some f → f.openUntil = some e →
        (t.coll c).first = some (if e ≤ a.t then { f with openUntil := none } else f)) ∧
      ((a.coll c).first = none → (t.coll c).first = none)) ∧
    (a.takes (a.colPage c) = true → ∃ t, exec (.firstLatchClear dt col) s = .next t ∧ (t.coll c).first = none ∧
      (t.coll c).srcs = (a.coll c).srcs ∧ t = { a with colCh := t.colCh, colClu := t.colClu, colDev := t.colDev })) ∧
  (∀ (s : State) (dt : Nat) (src : BitVec 16),
    let a := s.advance dt
    let k := src.toNat
    (srcExists k = false → ∀ ack seq val, exec (.srcClr dt src ack seq) s = .next a ∧ exec (.reactWrite dt src val) s = .next a ∧
      exec (.compatWrite dt src val) s = .next a) ∧
    (srcExists k = true → a.takes (a.colPage k) = true →
      (∀ (ack : BitVec 4) (seq : BitVec 16),
        let st := a.src k
        let persists := st.causes ≠ [] ∧ (ack.getLsbD 1 || ack.getLsbD 2 || ack.getLsbD 3) = true
        (st.seq ≠ seq → ∃ t, exec (.srcClr dt src ack seq) s = .next t ∧ t.src k = st ∧ (t.coll k).clrRefused = true ∧ (t.coll k).reason = 1) ∧
        (st.seq = seq → persists → ∃ t, exec (.srcClr dt src ack seq) s = .next t ∧ t.src k = st ∧ (t.coll k).clrRefused = true ∧
          (t.coll k).reason = 2) ∧
        (st.seq = seq → ¬ persists → ∃ t, exec (.srcClr dt src ack seq) s = .next t ∧ (t.coll k).clrRefused = false ∧
          t.src k = { st with pend := st.pend &&& ~~~ ack, base := st.base &&& ~~~ ack, mf := st.mf && !ack.getLsbD 3, win := [] } ∧
          (t.coll k).first = (a.coll k).first ∧ t = { a with colCh := t.colCh, colClu := t.colClu, colDev := t.colDev })) ∧
      (∀ val : BitVec 32,
        let v := val.toNat
        let bad := (a.blockTarget k).isNone && (bit v 2 || bit v 10 || bit v 18 || bit v 26)
        (bad = true → ∃ t, exec (.reactWrite dt src val) s = .next t ∧ t.regs = a.regs ∧ (t.coll k).cfgRefused = true ∧ (t.coll k).reason = 3) ∧
        (bad = false → ∃ t, exec (.reactWrite dt src val) s = .next t ∧ (t.coll k).cfgRefused = false ∧
          (∀ cls < 4, t.reactField k cls = bits v (8 * cls) 5) ∧ (∀ x, x ≠ reactKey k → t.reg x = a.reg x) ∧ t.src k = a.src k)) ∧
      (∀ val : BitVec 32,
        let v := val.toNat
        (bit v 0 = true → bits v 8 24 = 0 → ∃ t, exec (.compatWrite dt src val) s = .next t ∧ t.regs = a.regs ∧
          (t.coll k).cfgRefused = true ∧ (t.coll k).reason = 3 ∧ t.src k = a.src k) ∧
        ((bit v 0 = false ∨ bits v 8 24 ≠ 0) → ∃ t, exec (.compatWrite dt src val) s = .next t ∧ (t.coll k).cfgRefused = false ∧
          bit (t.reg (compatKey k)) 0 = bit v 0 ∧ bits (t.reg (compatKey k)) 4 4 = bits v 4 4 ∧ bits (t.reg (compatKey k)) 8 24 = bits v 8 24 ∧
          (∀ x, x ≠ compatKey k → t.reg x = a.reg x) ∧ t.src k = { a.src k with win := [] }))))

/-- ALIVE toggles while it runs and freezes at its polarity level when the heartbeat is lost; RESUME starts it again only with no PEND_F set and the
heartbeat present (R305). That RESUME leaves SRC as it was is log 69 (DEDUCED), and that a heartbeat loss sets it to 0, no source having stopped
ALIVE, is log 154 (DEDUCED). TRAP_ACK releases TRAP_N (R306). LOG_CONS moves the log's read position by what it consumes, and a value beyond what
was written is ignored (R215, R307). -/
def Obligations.AliveTrapAndLog : Prop :=
  ∀ (s : State) (dt : Nat),
    let a := s.advance dt
    let f := a.flt
    (f.running = true → exec (.aliveToggle dt) s = .next { a with flt := { f with alive := f.alive.map fun x => !x } }) ∧
    (f.running = false → exec (.aliveToggle dt) s = .next a) ∧
    (f.running = true → ∃ t, exec (.heartbeatLoss dt) s = .next t ∧
      t.flt = { f with heartbeat := false, alive := some f.pol, running := false, cause := 2, aliveSrc := 0 } ∧
      t.calm = { a.calm with flt := t.flt }) ∧
    (f.running = false → exec (.heartbeatLoss dt) s = .next { a with flt := { f with heartbeat := false } }) ∧
    exec (.heartbeatReturn dt) s = .next { a with flt := { f with heartbeat := true } } ∧
    (a.takes 6 = true →
      (a.anyFatal = true ∨ f.heartbeat = false → exec (.aliveResume dt) s = .next { a with flt := { f with resumeRefused := true } }) ∧
      (a.anyFatal = false → f.heartbeat = true →
        exec (.aliveResume dt) s = .next { a with flt := { f with running := true, cause := 0, resumeRefused := false } }) ∧
      exec (.trapAck dt) s = .next { a with flt := { f with trap := false } } ∧
      (∀ val : BitVec 32,
        let d := (val.toNat + 4096 - f.logRd % 4096) % 4096
        (4096 ≤ val.toNat ∨ f.logLevel < d → exec (.logConsWrite dt val) s = .next a) ∧
        (val.toNat < 4096 → d ≤ f.logLevel → ∃ t, exec (.logConsWrite dt val) s = .next t ∧ t.flt.logRd = f.logRd + d ∧
          t.flt.logWr = f.logWr ∧ t.flt.logLost = f.logLost ∧ t = { a with flt := t.flt })))

/-- INJ.CMD is refused for a source that does not exist and while an injection is on its way, and sends one else; delivered, it is a detection of
the source named, of the class and code named, marked injected (R308). That RANGE is tested before BUSY is log 68 (DEDUCED). -/
def Obligations.Injections : Prop :=
  ∀ (s : State) (dt : Nat),
    let a := s.advance dt
    let g := a.dreg 13 0x040
    (a.takes 13 = true →
      (srcExists (bits g 0 16) = false → ∃ t, exec (.injCmd dt) s = .next t ∧ t.flt.injPend = a.flt.injPend ∧ t.flt.inj.outcome = 2 ∧
        t.flt.inj.reason = 1 ∧ t.flight = a.flight) ∧
      (srcExists (bits g 0 16) = true → a.flt.injPend.isSome = true → ∃ t, exec (.injCmd dt) s = .next t ∧ t.flt.injPend = a.flt.injPend ∧
        t.flt.inj.outcome = 2 ∧ t.flt.inj.reason = 2 ∧ t.flight = a.flight) ∧
      (srcExists (bits g 0 16) = true → a.flt.injPend = none → ∃ t, exec (.injCmd dt) s = .next t ∧ t.flt.injPend = some (BitVec.ofNat 64 g) ∧
        t.flt.inj.valid = false ∧ t = { a with flt := t.flt })) ∧
    (a.flt.injPend = none → exec (.injectionDelivery dt) s = .next a) ∧
    (∀ x : Word, a.flt.injPend = some x → ∃ t, exec (.injectionDelivery dt) s = .next t ∧ t.flt.injPend = none ∧ t.flt.inj.outcome = 1 ∧
      t.flt.injT = gtOf a.t ∧ t.wins = a.wins ∧ t.regs = a.regs ∧
      (a.gtRun = true → a.dev.bringup = 5 → ∃ d ∈ t.flight, d.src = bits x.toNat 0 16 ∧ d.at_ = a.t ∧
        ∃ p ∈ d.parts, p.inj = true ∧ p.code = bits x.toNat 20 8 ∧ p.native = bits x.toNat 16 2 ∧ p.dry = bit x.toNat 18))

/-- The hardware's own fault sources report the code and class that R291 to R293 give them, and change nothing else: the slots', the clusters' and
the device's. A rail's WARN and TRIP bits follow its monitor, each with its detection, U for WARN and F for TRIP (R293), and its cause ends at the
release (R391); while VCC_PE is outside its limits the trigger lines are high-impedance and show no contention (R396); temperatures above 105 °C and
115 °C are detected, and PWR.TJ keeps the last and the highest (R413). A persisting cause that ends leaves COND 0 (R299), and a supply that returns
ends the AFE's FAULT, in the state that REQ asks for (R54; log 21, DEDUCED). The thermal history counts hours. -/
def Obligations.FaultSources : Prop :=
  ((∀ (s : State) (dt : Nat) (k : SlotId),
    let a := s.advance dt
    let only := fun (i : Instr) (idx code native : Nat) => ∃ t, exec i s = .next t ∧ t.calm = a.calm ∧ Reports a t (32 * k + idx) code native
    only (.driverLimit dt k) 9 0 2 ∧ only (.dacReadback dt k) 9 1 3 ∧ only (.channelSupply dt k) 9 2 3 ∧ only (.pgenParity dt k) 10 0 3 ∧
    only (.fineDelay dt k) 10 1 3 ∧ only (.crossingParity dt k) 10 2 2 ∧ only (.ctrlCorrected dt k) 11 0 1 ∧
    only (.ctrlUncorrected dt k) 11 1 2 ∧ only (.laneDead dt k) 11 2 3) ∧
  (∀ (s : State) (dt : Nat) (c : CluId),
    let a := s.advance dt
    let only := fun (i : Instr) (idx code native : Nat) =>
      ∃ t, exec i s = .next t ∧ t.calm = a.calm ∧ Reports a t (0x2000 + 32 * c + idx) code native
    only (.afeHot dt c) 1 0 2 ∧ only (.afeCritical dt c) 1 1 3 ∧ only (.routeParity dt c) 6 0 2 ∧ only (.latCalFail dt c) 6 1 2 ∧
    only (.positionMismatch dt c) 8 0 2 ∧ only (.actuatorSupply dt c) 8 1 3 ∧ only (.refFault dt c) 9 0 2 ∧ only (.statusParity dt c) 10 0 2 ∧
    only (.gtReplicaDeviation dt c) 11 0 3 ∧
    ∃ t, exec (.supplyTrip dt c) s = .next t ∧ (t.clu c).afeState = 3 ∧ (∀ d, d ≠ c.val → t.clu d = a.clu d) ∧
      t.calm = { a.calm with clus := t.clus } ∧ Reports a t (0x2000 + 32 * c) 0 3) ∧
  (∀ (s : State) (dt : Nat),
    let a := s.advance dt
    let only := fun (i : Instr) (page idx native : Nat) =>
      ∃ t, exec i s = .next t ∧ t.calm = a.calm ∧ Reports a t (0x4000 + 32 * page + idx) 0 native
    only (.keeperLink dt) 0 1 2 ∧ only (.collectorParity dt) 6 2 2 ∧ only (.aerCorr dt) 4 3 1 ∧ only (.aerUncorr dt) 4 4 2 ∧
    (a.host.up = true → ∃ t, exec (.linkRetrain dt) s = .next t ∧
      t.calm = { a.calm with host := { a.host with retrains := satInc 65535 a.host.retrains } } ∧ Reports a t 0x4081 0 1) ∧
    (a.host.up = false → exec (.linkRetrain dt) s = .next a))) ∧
  (∀ (s : State) (dt : Nat),
    let a := s.advance dt
    let k := a.keep
    (∀ r : RailId,
      (∃ t, exec (.railWarn dt r) s = .next t ∧ t.calm = { a.calm with keep := { k with railBits := putBit k.railBits r true } } ∧
        Reports a t (0x4020 + r) 0 2) ∧
      (∃ t, exec (.railTrip dt r) s = .next t ∧ t.calm = { a.calm with
          keep := { k with railBits := putBit k.railBits (r + 16) true, peOut := k.peOut || decide (r.val = 8) }
          syn := { a.syn with contention := if r.val = 8 then 0 else a.syn.contention } } ∧
        Reports a t (0x4020 + r) 1 3) ∧
      (∀ trip : Bool, ∃ t, exec (.railRelease dt r trip) s = .next t ∧
        t.calm = { a.calm with
          keep := { k with railBits := putBit k.railBits (r + 16 * b2n trip) false, peOut := k.peOut && !(trip && decide (r.val = 8)) } } ∧
        (t.src (0x4020 + r)).causes = (a.src (0x4020 + r)).causes.filter fun c => decide (c ≠ b2n trip)) ∧
      (∀ mv : BitVec 16,
        let out := decide (r.val = 8) && (decide (mv.toInt < 7400) || decide (8600 < mv.toInt))
        exec (.railSample dt r mv) s = .next { a with
          keep := { k with rail := Tab.set 0 k.rail r mv, peOut := if r.val = 8 then out else k.peOut }
          syn := { a.syn with contention := if out then 0 else a.syn.contention } })) ∧
    (∀ tj : Byte,
      let k' := { k with tj := tj, tjMax := if k.tjMax.toInt < tj.toInt then tj else k.tjMax }
      (tj.toInt ≤ 105 → exec (.tjHigh dt tj) s = .next { a with keep := k' }) ∧
      (105 < tj.toInt → ∃ t, exec (.tjHigh dt tj) s = .next t ∧ t.calm = { a.calm with keep := k' } ∧ Reports a t 0x402C 0 2) ∧
      (tj.toInt ≤ 115 → exec (.tjCrit dt tj) s = .next { a with keep := k' }) ∧
      (115 < tj.toInt → ∃ t, exec (.tjCrit dt tj) s = .next t ∧ t.calm = { a.calm with keep := k' } ∧ Reports a t 0x402D 0 3)) ∧
    (∀ hot : Bool, exec (.thermHour dt hot) s = .next { a with keep := { k with
        therm := (satInc (2 ^ 32 - 1) k.therm.1, if hot then satInc (2 ^ 32 - 1) k.therm.2 else k.therm.2) } }) ∧
    (∀ (src : BitVec 16) (code : Byte),
      (endsHere src.toNat code.toNat = false → exec (.conditionCauseEnds dt src code) s = .next a) ∧
      (endsHere src.toNat code.toNat = true → ∃ t, exec (.conditionCauseEnds dt src code) s = .next t ∧
        (t.src src.toNat).causes = (a.src src.toNat).causes.filter (fun c => decide (c ≠ code.toNat)) ∧
        (∀ c : CluId, src.toNat = cluSrc c 0 → (t.clu c).afeState =
          (if (a.clu c).afeState = 3 then (if (a.clu c).afeReq then 2 else 0) else (a.clu c).afeState)) ∧
        (src.toNat ≠ devSrc 3 4 → t.syn = a.syn) ∧ t.calm = { a.calm with clus := t.clus, syn := t.syn })))

/-! The host port, sideband buses, triggers and the Nywen link (R332 to R359, R383, R396 to R407). -/

/-- The link trains at the pairs of R135 alone, with Flit mode at 6.0 only and not between ends clocked apart with spread spectrum, and reports a
link below 6.0 x16 (R332, R333); it goes down with LINK_DOWN and its configuration space reset (R335, R337). D3hot and L1 come and go together
(R336). That a reset of the configuration space sets the Maximum Read Request Size to 512 bytes is log 20 (PRESUMED), and that the BAR 2 size the
host has chosen stays is log 37 (PRESUMED). A configuration request gets retry status until FUSES_LEDGER has ended and completes from then on
(R383); a write stores its dword and reaches Bus Master Enable (R335). The IDs, the class code and the subsystem IDs read as R336 gives them (dword
numbers of PCI Express's header, log 107, PRESUMED). That configuration requests are answered while the link is up alone is log 37 (PRESUMED). -/
def Obligations.LinkAndConfiguration : Prop :=
  (∀ (s : State) (dt : Nat),
    let a := s.advance dt
    let h := a.host
    let same := fun (t : State) => t.wins = a.wins ∧ t.regs = a.regs ∧ t.stackMem = a.stackMem ∧ t.wsMem = a.wsMem ∧ t.keep = a.keep
    (∀ (gen : BitVec 3) (width : BitVec 5) (flit : Bool) (clocking : Clocking),
      let ok := h.up = false ∧ h.perst = true ∧ flit = decide (gen = 6) ∧ clocking ≠ .spread
      ((linkBudget gen.toNat width.toNat = none ∨ ¬ ok) → exec (.linkUp dt gen width flit clocking) s = .next a) ∧
      (∀ b, linkBudget gen.toNat width.toNat = some b → ok → ∃ t, exec (.linkUp dt gen width flit clocking) s = .next t ∧ t.host.up = true ∧
        t.host.gen = gen.toNat ∧ t.host.width = width.toNat ∧ t.host.flit = flit ∧ t.host.tag10 = h.tag10 ∧ t.host.tag14 = h.tag14 ∧ t.host.l1 = false ∧
        t.host.budget = b ∧ t.host.cfgSpace = h.cfgSpace ∧ (¬ (gen = 6 ∧ width = 16) → Reports a t 0x4082 0 2) ∧ same t)) ∧
    (h.up = false → exec (.linkDown dt) s = .next a ∧ exec (.d3hotEntry dt) s = .next a) ∧
    (h.up = true → ∃ t, exec (.linkDown dt) s = .next t ∧ Reports a t 0x4080 0 3 ∧ t.calm = { a.calm with host := { h with
        up := false, gen := 0, width := 0, flit := false, cfgSpace := [], bme := false, msixEn := false, funcMask := false, mrrs := 512,
        tag10 := false, tag14 := false, l1 := false, msixSince := t.host.msixSince } }) ∧
    (∃ t, exec (.pcieReset dt) s = .next t ∧ t = { a with host := { h with
        cfgSpace := [], bme := false, msixEn := false, funcMask := false, mrrs := 512, tag10 := false, tag14 := false, l1 := false, msixSince := t.host.msixSince } }) ∧
    (h.up = true → exec (.d3hotEntry dt) s = .next { a with host := { h with l1 := true } }) ∧
    (h.l1 = false → exec (.d0Entry dt) s = .next a) ∧
    (h.l1 = true → ∃ t, exec (.d0Entry dt) s = .next t ∧ t.host.l1 = false ∧ t.host.up = h.up ∧ t.host.cfgSpace = h.cfgSpace ∧ same t)) ∧
  (∀ (s : State) (dt : Nat),
    let a := s.advance dt
    let h := a.host
    (∀ (write : Bool) (reg : BitVec 12) (val : BitVec 32),
      let k := reg.toNat / 4
      (h.up = false → exec (.configRequest dt write reg val) s = .next a) ∧
      (h.up = true → a.dev.bringup < 2 → exec (.configRequest dt write reg val) s = .next { a with out := a.out ++ [.config none] }) ∧
      (h.up = true → 2 ≤ a.dev.bringup →
        exec (.configRequest dt false reg val) s =
          .next { a with out := a.out ++ [.config (some (a.configRead k))] } ∧
        a.configRead 0 = 0x71281F6A ∧ (a.configRead 2).toNat / 256 = 0x118000 ∧ a.configRead 11 = a.keep.subsys ∧
        ∃ t, exec (.configRequest dt true reg val) s = .next t ∧ Tab.get 0 t.host.cfgSpace k = val ∧
          (∀ j, j ≠ k → Tab.get 0 t.host.cfgSpace j = Tab.get 0 h.cfgSpace j) ∧
          t.host.bme = (if k = 1 then val.getLsbD 2 else h.bme) ∧ t.wins = a.wins ∧ t.regs = a.regs ∧ t.dev = a.dev)))

/-- A vector that is unmasked with a message pending sends one message and is pending no longer; without one it sends none (R343). At the end of its
gap it sends one message for the signals it held. A vector pending and masked for 1 s is reported once (R343). -/
def Obligations.InterruptVectors : Prop :=
  ∀ (s : State) (dt : Nat) (v : Byte),
    let a := s.advance dt
    let h := a.host
    (a.takes 0x80 = true →
      (Tab.get false h.msixPend v.toNat = false → ∃ t, exec (.msixUnmask dt v) s = .next t ∧
        (Tab.get 1 t.host.msixTab (16 * v.toNat + 12)).getLsbD 0 = false ∧ t.host.msixPend = h.msixPend ∧ t = { a with host := t.host }) ∧
      (Tab.get false h.msixPend v.toNat = true → h.msixEn = true → h.funcMask = false → a.canIssue = true → a.gapOpen v.toNat = false →
        ∃ t, exec (.msixUnmask dt v) s = .next t ∧ t.out = a.out ++ [.msix v.toNat] ∧ Tab.get false t.host.msixPend v.toNat = false ∧
          (∀ u, u ≠ v.toNat → Tab.get false t.host.msixPend u = Tab.get false h.msixPend u) ∧ t = { a with host := t.host, out := t.out })) ∧
    ((Tab.get false h.msixGap v.toNat = false ∨ a.gapOpen v.toNat = true) → exec (.msixGapEnd dt v) s = .next a) ∧
    (Tab.get false h.msixGap v.toNat = true → a.gapOpen v.toNat = false → a.vecMasked v.toNat = false → a.canIssue = true →
      ∃ t, exec (.msixGapEnd dt v) s = .next t ∧ t.out = a.out ++ [.msix v.toNat] ∧ Tab.get false t.host.msixGap v.toNat = false ∧
        Tab.get none t.host.msixLast v.toNat = some a.now ∧ t = { a with host := t.host, out := t.out }) ∧
    (Tab.get none h.msixSince v.toNat = none → exec (.msixMaskedPend dt v) s = .next a) ∧
    (∀ t0, Tab.get none h.msixSince v.toNat = some t0 →
      (a.now < t0 + 1000000 * us → exec (.msixMaskedPend dt v) s = .next a) ∧
      (t0 + 1000000 * us ≤ a.now → Tab.get false h.msixPend v.toNat = true → a.vecMasked v.toNat = true →
        ∃ t, exec (.msixMaskedPend dt v) s = .next t ∧ Tab.get none t.host.msixSince v.toNat = none ∧
          (Tab.get 0 t.pgEvt 5).getLsbD 1 = true ∧ t.calm = { a.calm with host := t.host }))

/-- An SMBus transaction to the part answers a read of a listed register with its bytes, and its PEC where the host clocks one out, NACKs a write at
its first byte after the command code, and NACKs its address before the KEEPER step has ended (R407); a transaction to another address, or one
abandoned at a clock low too long, changes nothing. Boundary scan is always taken: it samples the balls of the chain, drives them or releases them;
a JTAG access to internal scan is refused while the part is locked or DBG does not open it, and counted and reported else (R315, R406); before the
KEEPER step has ended TDO is released and nothing is taken (R397). That another address is ignored and that an access sets TAP_ACTIVE is log 60
(DEDUCED), that a PEC is SMBus's own code is log 151 (PRESUMED), and the order of the chain's balls is log 152 (DESIGN CHOICE). -/
def Obligations.SidebandBuses : Prop :=
  ∀ (s : State) (dt : Nat),
    let a := s.advance dt
    let asleep := a.dev.porLow = true ∨ a.dev.bringup = 0
    let emits := fun (x : Out) => (.next { a with out := a.out ++ [x] } : Host.Outcome State Fault Refusal)
    (∀ (addr : BitVec 7) (code : Byte) (op : SmbusOp),
      let bytes := (a.smbRegister code.toNat).getD []
      (addr.toNat ≠ 0x58 + Config.smbAddr.toNat → exec (.smbusTransaction dt addr code op) s = .next a) ∧
      (addr.toNat = 0x58 + Config.smbAddr.toNat →
        (asleep → exec (.smbusTransaction dt addr code op) s = emits (.smbus none)) ∧
        (¬ asleep → op.write = true → exec (.smbusTransaction dt addr code op) s = emits .smbusNack) ∧
        (¬ asleep → op.write = false → op.pec = false → exec (.smbusTransaction dt addr code op) s = emits (.smbus (some bytes))) ∧
        (¬ asleep → op.write = false → op.pec = true →
          exec (.smbusTransaction dt addr code op) s = emits (.smbus (some (bytes ++ [pecOf addr.toNat code.toNat bytes])))))) ∧
    a.smbRegister 0x00 = some [0x6A, 0x1F, 0x28, 0x71] ∧ a.smbRegister 0x05 = none ∧
    exec (.smbusClockLowTimeout dt) s = .next a ∧
    (asleep → ∀ op, exec (.jtagAccess dt op) s = .next a) ∧
    (¬ asleep →
      exec (.jtagAccess dt .sample) s =
        .next { a with keep := { a.keep with tap := true }, out := a.out ++ [.scan (chain.map a.ballLevel)] } ∧
      (∀ v, exec (.jtagAccess dt (.drive v)) s =
        .next { a with keep := { a.keep with tap := true, scan := some v }, out := a.out ++ [.jtag true] }) ∧
      exec (.jtagAccess dt .release) s =
        .next { a with keep := { a.keep with tap := true, scan := none }, out := a.out ++ [.jtag true] } ∧
      exec (.jtagAccess dt .reset) s = .next { a with keep := { a.keep with tap := false, scan := none } } ∧
      (a.internalLocked = true →
        exec (.jtagAccess dt .core) s = .next { a with keep := { a.keep with tap := true }, out := a.out ++ [.jtag false] }) ∧
      (a.internalLocked = false → ∃ t, exec (.jtagAccess dt .core) s = .next t ∧ (Tab.get 0 t.pgEvt 14).getLsbD 0 = true ∧
        t.calm = { a.calm with keep := { a.keep with tap := true, jtag := satInc 65535 a.keep.jtag }, out := a.out ++ [.jtag true] }))

/-- SYN.TRIG_CMD pulses a line it drives for WIDTH timebase cycles and does nothing for WIDTH 0 or an INPUT (R346). A DRIVEN line that reads
opposite to its drive shows contention (R346). An edge at a ball is seen when its receiver is powered and the pulse long enough (R396, R398). It
sets out to the routers that select its line and edge and is accepted within 12,288 tq (R348). STAR_IN's level is followed, its loss reported while
it is selected (R347); a STAR_OUT pulse ends at its time (R399). Host start and stop events of one timebase cycle form one start or stop, with one
STAR_OUT pulse of 4,096 tq where STAR_CFG.OUT selects it (R347 to R349, R399); without the link they are due at once, and over an aligned link
20,480 tq later, with a frame of their acceptance GT queued on every transmitter that sends it (R350, R354). At its delivery a start takes the ARMED
windows of SYN.START_MASK to RUN, and a stop acts at every window of SYN.STOP_MASK as a STOP with TAG 0 that arrives at the stop GT: it disarms an
ARMED window and schedules a run-out in RUN (R348, R349). An edge that was on its way is accepted at its own GT, and a START frame's event, due
before commands, where the router selects the link (R47, R348, R354). The bounded delays of arrivals are log 10 (DESIGN CHOICE); that START_GT and
STOP_GT are written at the delivery is log 42, and that NYW_SEND and the link's state count at the acceptance log 119 (both DEDUCED). -/
def Obligations.TriggersAndRouters : Prop :=
  (∀ (s : State) (dt : Nat),
    let a := s.advance dt
    let y := a.syn
    (∀ line : BitVec 3,
      (∀ width : BitVec 16, a.takes 3 = true →
        ((width = 0 ∨ a.trigDrive line.toNat = 0) → exec (.trigCmd dt line width) s = .next a) ∧
        (width ≠ 0 → a.trigDrive line.toNat ≠ 0 → exec (.trigCmd dt line width) s =
          .next { a with syn := { y with pulses := y.pulses ++ [(line.toNat, 136, a.t + 256 * width.toNat)] } })) ∧
      (a.contends line.toNat = false → exec (.trigContention dt line) s = .next a) ∧
      (a.contends line.toNat = true → ∃ t, exec (.trigContention dt line) s = .next t ∧ Reports a t 0x4063 0 2 ∧
        t.calm = { a.calm with syn := { y with contention := putBit y.contention line.toNat true } }) ∧
      (∀ rising accepted : Bool,
        ((accepted = false ∨ a.trigPowered = false) → exec (.trigEdge dt line rising accepted) s = .next a) ∧
        (accepted = true → a.trigPowered = true → ∃ t, exec (.trigEdge dt line rising accepted) s = .next t ∧
          t.syn.trig = putBit y.trig line.toNat (!rising) ∧ t.regs = a.regs ∧ t.stackMem = a.stackMem ∧ t.wsMem = a.wsMem ∧
          (∀ w, t.mode w = a.mode w) ∧
          (bits (a.dreg 3 0x070) 0 2 = 1 → bits (a.dreg 3 0x070) 4 3 = line.toNat → bit (a.dreg 3 0x070) 7 = !rising →
            a.t < arrival 3 12288 a.t → { at_ := arrival 3 12288 a.t, dest := 0, slot := bits (a.dreg 3 0x070) 8 2 } ∈ t.syn.coming)))) ∧
    (∀ rising : Bool, ∃ t, exec (.starInEdge dt rising) s = .next t ∧ t.syn.starIn = (y.starIn.1, rising) ∧ t.syn.trig = y.trig ∧
      t.regs = a.regs ∧ ∀ w, t.mode w = a.mode w) ∧
    (a.starSelected = false → exec (.starLoss dt) s = .next { a with syn := { y with starIn := (false, y.starIn.2) } }) ∧
    (a.starSelected = true → ∃ t, exec (.starLoss dt) s = .next t ∧ Reports a t 0x4064 0 2 ∧
      t.calm = { a.calm with syn := { y with starIn := (false, y.starIn.2) } }) ∧
    exec (.starOutPulseEnd dt) s = .next { a with syn := { y with starOut := y.starOut.filter fun p => decide (a.t < p.2) } }) ∧
  ((∀ (s : State) (dt : Nat),
    let a := s.advance dt
    let y := a.syn
    let startLink := bit (a.dreg 3 0x070) 8 && a.nywAligned
    let stopLink := bit (a.dreg 3 0x074) 8 && a.nywAligned
    let frames := fun (kind : Nat) => ([0, 1] : List Nat).flatMap fun tx =>
      match a.sendHops tx with | some h => [(tx, mkFrame a.nywPos h kind (gtOf a.t % 2 ^ 40))] | none => []
    let pulse := fun (out : Nat) => if bits (a.dreg 3 0x068) 0 2 = out then [(arrival 3 12288 a.t, arrival 3 12288 a.t + 4096)] else []
    a.takes 3 = true → a.noEdgeDue = true →
    (y.startCyc = some (a.t / 256) → exec (.evtStart dt) s = .next a) ∧
    (y.startCyc ≠ some (a.t / 256) → ∃ t, exec (.evtStart dt) s = .next t ∧ t.syn.startCyc = some (a.t / 256) ∧
      t.syn.startSeq = y.startSeq + 1 ∧ t.syn.starts = insertTime (if startLink then a.t + 20480 else a.t) y.starts ∧
      t.syn.own = y.own ++ (if startLink then frames 3 else []) ∧ t.syn.starOut = y.starOut ++ pulse 1 ∧
      (Tab.get 0 t.pgEvt 3).getLsbD 5 = true ∧ t = { a with syn := t.syn, pgEvt := t.pgEvt, evtNow := t.evtNow }) ∧
    (y.stopCyc = some (a.t / 256) → exec (.evtStop dt) s = .next a) ∧
    (y.stopCyc ≠ some (a.t / 256) → ∃ t, exec (.evtStop dt) s = .next t ∧ t.syn.stopCyc = some (a.t / 256) ∧
      t.syn.stopSeq = y.stopSeq + 1 ∧ t.syn.stops = insertTime (if stopLink then a.t + 20480 else a.t) y.stops ∧
      t.syn.own = y.own ++ (if stopLink then frames 4 else []) ∧ t.syn.starOut = y.starOut ++ pulse 2 ∧
      (Tab.get 0 t.pgEvt 3).getLsbD 6 = true ∧ t = { a with syn := t.syn, pgEvt := t.pgEvt, evtNow := t.evtNow })) ∧
  (∀ (s : State) (dt : Nat) (x : LinkEdge),
    let a := s.advance dt
    a.syn.coming = [x] → x.at_ ≤ a.t → x.dest = 0 → a.syn.starts = [] → a.syn.items = [] → a.syn.startCyc ≠ some (x.at_ / 256) →
    (bit (a.dreg 3 0x070) 8 = false ∨ a.nywAligned = false) →
    ∃ t, exec (.startDelivery dt) s = .next t ∧ t.syn.startSeq = a.syn.startSeq + 1 ∧ t.syn.startT = gtOf x.at_ ∧ t.syn.starts = [] ∧
      t.syn.coming = []) ∧
  (∀ (s : State) (dt : Nat) (x : NywItem),
    let a := s.advance dt
    a.noEdgeDue = true → a.syn.items = [x] → x.kind = 3 → x.at_ ≤ a.t → a.syn.starts = [] → a.nywLocked = true →
    (bits (a.dreg 3 0x070) 0 2 ≠ 3 → exec (.startDelivery dt) s = .next { a with syn := { a.syn with items := [] } }) ∧
    (bits (a.dreg 3 0x070) 0 2 = 3 → a.syn.startCyc ≠ some (x.at_ / 256) → ∃ t, exec (.startDelivery dt) s = .next t ∧
      t.syn.startSeq = a.syn.startSeq + 1 ∧ t.syn.startT = gtOf x.at_ ∧ t.syn.starts = [] ∧ t.syn.items = [] ∧ t.syn.own = a.syn.own)) ∧
  (∀ (s : State) (dt te : Nat),
    let a := s.advance dt
    a.noEdgeDue = true → (∀ x ∈ a.syn.items, x.kind = 3 → a.t < x.at_) →
    (a.syn.starts = [te] → te ≤ a.t → ∃ t, exec (.startDelivery dt) s = .next t ∧ t.syn = { a.syn with starts := [], startT := gtOf te } ∧
      (∀ w, w ∉ a.maskPins 0x080 → t.win w = a.win w) ∧
      (∀ w ∈ a.maskPins 0x080, a.mode w = .armed → (a.md w).trans = none →
        t.mode w = .run ∧ (t.pl w).nextT = (te + 255) / 256 * 256 + 65536 + 256 * bits (a.wreg w 1 0x044) 8 16) ∧
      t = { a with syn := t.syn, wins := t.wins }) ∧
    ((∀ x ∈ a.syn.starts, a.t < x) → exec (.startDelivery dt) s = .next a) ∧
    ((∀ x ∈ a.syn.starts, a.t < x) → a.syn.stops = [te] → te ≤ a.t → ∃ t, exec (.stopDelivery dt) s = .next t ∧ t.syn = { a.syn with stops := [], stopT := gtOf te } ∧
      (∀ w, w ∉ a.maskPins 0x090 → t.win w = a.win w) ∧
      (∀ w ∈ a.maskPins 0x090, a.mode w = .armed → (a.md w).trans = none → a.modeHeld w = false → a.noneFirst w = true → Began { a with t := te } t w 7 0 .ready) ∧
      (∀ w ∈ a.maskPins 0x090, a.mode w = .run → (a.md w).trans = none → a.modeHeld w = false → a.noneFirst w = true → a.noJumpDue w = true →
        (a.sq w).landing = 0 → Finished a t w 7 0 1 0 ∧ t.mode w = .run ∧
        ((a.sq w).stop.isSome = true → t.sq w = a.sq w) ∧
        ((a.sq w).stop = none → (t.sq w).reqs = [] ∧ ∃ p, (t.sq w).stop = some (p, te)))) ∧
    ((∀ x ∈ a.syn.stops, a.t < x) → exec (.stopDelivery dt) s = .next a)))

/-- A frame slot of an enabled link sends one frame: a TIME pair after 62 others, so that 64 frames hold one, what is to be forwarded, then the
part's own events, and IDLE else (R353); its REACT field carries the lanes. On a disabled link, within 3,200 tq of the frame before it, and on an
aligned part off the multiples of 3,200 tq none is sent (R351, R397). That the pair goes before the other frames then is log 133 (DEDUCED). Frames
reach a receiver of an enabled link, which counts the good ones in a row, and are taken by a locked one alone (R350, R351): one with a bad SYNC, CRC
or KIND is discarded and counted with NYWEN_CRC (R352); a good event frame with hops left is to be forwarded with one hop fewer (R350), and so, by
the model's reading, is a TIME frame (log 121, DEDUCED); START, STOP and JUMP frames wait for their delivery, and position 0's TIME_LO is kept for
the TIME_HI that follows (R352, R354). -/
def Obligations.NywenFrames : Prop :=
  (∀ (s : State) (dt : Nat) (tx : Fin 2),
    let a := s.advance dt
    let y := a.syn
    let n := if tx.val = 0 then y.sinceTime.1 else y.sinceTime.2
    let count := fun (t : State) => if tx.val = 0 then t.syn.sinceTime.1 else t.syn.sinceTime.2
    let last := if tx.val = 0 then y.sentT.1 else y.sentT.2
    a.noEdgeDue = true →
    ((a.nywEn = false ∨ a.dev.bringup ≠ 5) → exec (.nywenFrameSlot dt tx) s = .next a) ∧
    (∀ u, last = some u → u ≤ a.t → a.t < u + 3200 → exec (.nywenFrameSlot dt tx) s = .next a) ∧
    (a.nywAligned = true → gtOf a.t % 3200 ≠ 0 → exec (.nywenFrameSlot dt tx) s = .next a) ∧
    (a.slotDue tx = true →
      ∃ t f, exec (.nywenFrameSlot dt tx) s = .next t ∧ t.out = a.out ++ [.frame tx f] ∧ fReact f = t.syn.lanes.toNat ∧
        fFlag f = t.syn.flags.toNat ∧ frameOk f = true ∧ t.wins = a.wins ∧ t.regs = a.regs ∧
        (n = 62 → fKind f = 1 ∧ fPayload f = gtOf a.t % 2 ^ 47 ∧ count t = 63 ∧ t.syn.own = y.own ∧ t.syn.fwd = y.fwd) ∧
        (n = 63 → fKind f = 2 ∧ fPayload f = gtOf a.t / 2 ^ 47 + epochOf a.t * 2 ^ 17 ∧ count t = 0 ∧ t.syn.own = y.own ∧ t.syn.fwd = y.fwd) ∧
        (n < 62 → count t = n + 1 ∧
          (∀ g r, takeFrame tx y.fwd = some (g, r) → t.syn.fwd = r ∧ t.syn.own = y.own ∧ fKind f = fKind g ∧ fPayload f = fPayload g) ∧
          (∀ g r, takeFrame tx y.fwd = none → takeFrame tx y.own = some (g, r) → t.syn.own = r ∧ t.syn.fwd = y.fwd ∧ fKind f = fKind g ∧
            fPayload f = fPayload g) ∧
          (takeFrame tx y.fwd = none → takeFrame tx y.own = none → t.syn.own = y.own ∧ t.syn.fwd = y.fwd ∧ fKind f = 0)))) ∧
  (∀ (s : State) (dt : Nat) (rx : Fin 2) (f : BitVec 80),
    let a := s.advance dt
    let y := a.syn
    let row := fun (z : SynSt) => if rx.val = 0 then z.good.1 else z.good.2
    let counted := fun (t : State) => row t.syn = if frameOk f then row y + 1 else 0
    a.noEdgeDue = true → ∀ i ∈ ([.frameIdle dt rx f, .frameTimeLo dt rx f, .frameTimeHi dt rx f, .frameStart dt rx f, .frameStop dt rx f, .frameJump dt rx f] : List Instr),
    (a.nywEn = false → exec i s = .next a) ∧
    (a.nywEn = true → y.lock.getLsbD rx = false → ∃ t, exec i s = .next t ∧ counted t ∧
      t = { a with syn := { y with good := t.syn.good, bad := t.syn.bad } }) ∧
    (a.nywEn = true → y.lock.getLsbD rx = true → (frameOk f = false ∨ 6 ≤ fKind f) → ∃ t, exec i s = .next t ∧ counted t ∧ Reports a t 0x4061 0 1 ∧
      t.calm = { a.calm with syn := { y with crcErr := satInc 65535 y.crcErr, good := t.syn.good, bad := t.syn.bad } }) ∧
    (a.nywEn = true → y.lock.getLsbD rx = true → frameOk f = true → fKind f < 6 → ∃ t, exec i s = .next t ∧ counted t ∧ (∀ x ∈ y.items, x ∈ t.syn.items) ∧
      t.syn.fwd = y.fwd ++ (if fHops f = 0 ∨ fKind f = 0 then [] else [(rx.val, mkFrame (fOrigin f) (fHops f - 1) (fKind f) (fPayload f))]) ∧
      t.syn.crcErr = y.crcErr ∧ t = { a with syn := t.syn } ∧
      (fKind f < 3 → ∀ x ∈ t.syn.items, x ∈ y.items ∨ 9 ≤ x.kind) ∧
      (3 ≤ fKind f → ∃ x ∈ t.syn.items, x.kind = fKind f ∧ x.org = nearest 40 (fPayload f % 2 ^ 40) a.t ∧
        x.at_ = (if a.nywAligned = true ∧ a.t ≤ x.org + 20480 then x.org + 20480 else a.t) ∧
        (fKind f = 5 → x.idx = bits (fPayload f) 40 2 ∧ x.val = bits (fPayload f) 42 2)) ∧
      (fKind f = 1 → fOrigin f = 0 → t.syn.timeLo = some (fPayload f)) ∧ (fKind f ≠ 1 → t.syn.timeLo = y.timeLo)))

/-- An item of the link is delivered at its time and not before, the first of its kind and number among those that wait (R354): a flag to the flags
received, a lane to the lanes received, a jump to the pins selected and to no other, and a START or STOP frame where the router takes frames (R348,
R349, R355). While the link has no lock, nothing of it arrives but the part's own jumps (R359). That one event of the hardware delivers one item is
log 40 (DEDUCED). Receivers lock and lose lock one by one, after 64 good frames in a row and after 16 bad ones of 64, with NYWEN_LOSS at each loss
(R351, R359); with none locked, lanes and flags read false. RETRAIN drops both locks, and ends when both are back; with the link off, or of one
part, it ends DONE at once (log 41, DEDUCED). ALIGN steps GT by the offset that position 0's TIME frames have shown, or by the operand where none
has come (log 134, DESIGN CHOICE), or is refused as MASTER, NO_LINK or WINDOWS (R357); instants stored before it are not moved (log 122, DESIGN
CHOICE). A deviation beyond the bound clears ALIGNED (R357). A host jump is sent and delivered 20,480 tq later over an aligned link (log 40,
DEDUCED), and at once to the selected pins without (R354). -/
def Obligations.NywenDelivery : Prop :=
  (∀ (s : State) (dt n : Nat),
    let a := s.advance dt
    let y := a.syn
    a.noEdgeDue = true →
    (takeItem y.items n = none → exec (.nywenDelivery dt n) s = .next a) ∧
    (∀ x rest, takeItem y.items n = some (x, rest) →
      (a.t < x.at_ → exec (.nywenDelivery dt n) s = .next a) ∧
      (x.at_ ≤ a.t → a.nywLocked = false → (x.own = false ∨ x.kind ≠ 5) →
        exec (.nywenDelivery dt n) s = .next { a with syn := { y with items := rest } }) ∧
      (x.at_ ≤ a.t → (a.nywLocked = true ∨ x.own = true ∧ x.kind = 5) →
        (x.kind = 10 → exec (.nywenDelivery dt n) s =
          .next { a with syn := { y with items := rest, flagsIn := putBit y.flagsIn x.idx (decide (x.val = 1)) } }) ∧
        (x.kind = 9 → ∃ t, exec (.nywenDelivery dt n) s = .next t ∧
          t.syn = { y with items := rest, lanesIn := putBit y.lanesIn x.idx (decide (x.val = 1)) } ∧ t = { a with syn := t.syn, wins := t.wins }) ∧
        (x.kind = 5 → ∃ t, exec (.nywenDelivery dt n) s = .next t ∧ t.syn = { y with items := rest } ∧
          ∀ w, w ∉ a.maskPins (0x180 + 0x10 * x.idx) → t.win w = a.win w) ∧
        (x.kind = 3 → bits (a.dreg 3 0x070) 0 2 ≠ 3 → exec (.nywenDelivery dt n) s = .next { a with syn := { y with items := rest } }) ∧
        (x.kind = 3 → bits (a.dreg 3 0x070) 0 2 = 3 → y.startCyc ≠ some (x.at_ / 256) → ∃ t, exec (.nywenDelivery dt n) s = .next t ∧
          t.syn.starts = insertTime x.at_ y.starts ∧ t.syn.startSeq = y.startSeq + 1 ∧ t.syn.own = y.own) ∧
        (x.kind = 4 → bits (a.dreg 3 0x074) 0 2 ≠ 3 → exec (.nywenDelivery dt n) s = .next { a with syn := { y with items := rest } }) ∧
        (x.kind = 4 → bits (a.dreg 3 0x074) 0 2 = 3 → y.stopCyc ≠ some (x.at_ / 256) → ∃ t, exec (.nywenDelivery dt n) s = .next t ∧
          t.syn.stops = insertTime x.at_ y.stops ∧ t.syn.stopSeq = y.stopSeq + 1 ∧ t.syn.own = y.own)))) ∧
  (∀ (s : State) (dt : Nat),
    let a := s.advance dt
    let y := a.syn
    let left := fun (rx : Nat) => putBit y.lock rx false
    a.noEdgeDue = true →
    (∀ rx : Fin 2,
      let good := if rx.val = 0 then y.good.1 else y.good.2
      let bad := if rx.val = 0 then y.bad.1 else y.bad.2
      let seenBad := 16 ≤ ((List.range 64).filter fun i => bad.getLsbD i).length
      ((a.nywEn = false ∨ a.nywParts = 1 ∨ good < 64) → exec (.nywenLock dt rx) s = .next a) ∧
      (a.nywEn = true → a.nywParts ≠ 1 → 64 ≤ good → ∃ t, exec (.nywenLock dt rx) s = .next t ∧ t.syn.lock = putBit y.lock rx true ∧ t.wins = a.wins ∧
        t.regs = a.regs ∧ (putBit y.lock rx true = 3 → t.syn.retraining = false ∧ 0 ∉ (t.src 0x4060).causes)) ∧
      ((y.lock.getLsbD rx = false ∨ ¬ seenBad) → exec (.nywenLoss dt rx) s = .next a) ∧
      (y.lock.getLsbD rx = true → seenBad → ∃ t, exec (.nywenLoss dt rx) s = .next t ∧ t.syn.lock = left rx ∧
        (left rx ≠ 0 → t.syn.lanesIn = y.lanesIn ∧ t.syn.flagsIn = y.flagsIn ∧ t.wins = a.wins) ∧
        (left rx = 0 → t.syn.lanesIn = 0 ∧ t.syn.flagsIn = 0) ∧ t.syn.items = y.items ∧ t.syn.fwd = y.fwd ∧ t.syn.own = y.own ∧
        Reports a t 0x4060 0 2 ∧ t.calm = { a.calm with syn := t.syn, wins := t.wins } ∧ ∀ w, t.mode w = a.mode w)) ∧
    (a.takes 3 = true →
      (∀ offset : Int,
        let f := if a.nywPos = 0 then 1 else if a.nywEn = false ∨ y.lock.getLsbD (a.nearRx 0) = false then 2
          else if a.anyActive = true then 3 else 0
        let by_ := match y.devAll with | some d => -d | none => offset
        (f ≠ 0 → ∃ t, exec (.align dt offset) s = .next t ∧ t.syn.nyw.outcome = 2 ∧ t.syn.nyw.reason = f ∧ t.t = a.t ∧ t.ref = a.ref ∧
          t = { a with syn := t.syn, pgSeq := t.pgSeq }) ∧
        (f = 0 → ∃ t, exec (.align dt offset) s = .next t ∧ t.syn.nyw.outcome = 1 ∧ t.ref.aligned = true ∧
          (a.gtRun = true → (t.t : Int) = ((a.t : Int) + by_) % 2 ^ 80) ∧ (a.gtRun = false → t.t = a.t) ∧
          t.ref.alignStep = BitVec.ofInt 64 by_ ∧ t.syn.items = y.items ∧ t.syn.starts = y.starts ∧
          t = { a with t := t.t, ref := t.ref, syn := t.syn, pgSeq := t.pgSeq })) ∧
      ((a.nywEn = false ∨ a.nywParts = 1) → ∃ t, exec (.nywRetrain dt) s = .next t ∧ t.syn.nyw.outcome = 1 ∧ t.syn.lock = y.lock) ∧
      (a.nywEn = true → a.nywParts ≠ 1 → ∃ t, exec (.nywRetrain dt) s = .next t ∧ t.syn.lock = 0 ∧ t.syn.retraining = true ∧
        t.syn.nyw.valid = false ∧ t.regs = a.regs) ∧
      (∀ ch slot : BitVec 2,
        (a.nywAligned = true → ∃ t, exec (.nywJumpCmd dt ch slot) s = .next t ∧
          t.syn.items = insertItem { at_ := a.t + 20480, own := true, kind := 5, idx := ch.toNat, val := slot.toNat, org := a.t } y.items ∧
          t.syn.own = y.own ++ (([0, 1] : List Nat).flatMap fun tx => match a.sendHops tx with
            | some h => [(tx, mkFrame a.nywPos h 5 (gtOf a.t % 2 ^ 40 + ch.toNat * 2 ^ 40 + slot.toNat * 2 ^ 42))]
            | none => []) ∧ t = { a with syn := t.syn }) ∧
        (a.nywAligned = false → ∃ t, exec (.nywJumpCmd dt ch slot) s = .next t ∧ t.syn = y ∧
          ∀ w, w ∉ a.maskPins (0x180 + 0x10 * ch.toNat) → t.win w = a.win w))) ∧
    (∀ dev : BitVec 16,
      let d := y.devAll.getD dev.toInt
      ((a.nywPos = 0 ∨ a.nywAligned = false ∨ d.natAbs ≤ 256) → exec (.nywenAlign dt dev) s = .next a) ∧
      (a.nywPos ≠ 0 → a.nywAligned = true → 256 < d.natAbs → ∃ t, exec (.nywenAlign dt dev) s = .next t ∧ Reports a t 0x4062 0 2 ∧
        t.calm = { a.calm with ref := { a.ref with aligned := false }, syn := { y with dev := devOf d } })))

/-- Each of these events and commands completes, with its own effect, where the spec's conditions for it hold: the sequencer's descriptor fetch
(R83), stack read (R95) and vector start (R59); the calibration commands and their end (R169 to R172); power-on reset and the bring-up steps (R378,
R379); the stacks' commands (R388); and, with GT running at SERVICEABLE, a detection of the fault sources that R291 to R293 name, from which a
record of that source is on its way. -/
def Obligations.EventsTakeEffect : Prop :=
  ∀ (s : State) (dt : Nat),
    let a := s.advance dt
    (∀ (w : WinId) (role : Role) (sh : Shelf), a.roleShelf w role = some sh → roleGet role (a.sq w).fetched = none → a.fetchOk w sh = true →
      a.stackOn (w.val / 64 % 2) = true → ((∃ k, role = .jump k) → a.slotRejected w sh = false) → dStream (a.desc w (entryOf sh)) = false → ∃ t, exec (.descriptorFetch dt w role {}) s = .next t ∧
        roleGet role (t.sq w).fetched = some (.good (a.desc w (entryOf sh)))) ∧
    (∀ (w : WinId) (role : Role) (n : Nat) (d : RawDesc), (a.sq w).loaded = true → a.stackOn (w.val / 64 % 2) = true →
      a.bankOn (cluOf w) = true → (a.sq w).segOf role = some d → a.nextWhole w role = false →
      ∃ t new, exec (.stackReadDone dt w role n 0 0 false) s = .next t ∧ ((t.sl w).buf role).slices = ((a.sl w).buf role).slices ++ new ∧
        new.length ≤ n) ∧
    (∀ (w : WinId) (x : Slice), a.mode w = .run → (a.pl w).begun = true → (a.ho w).on = false → (a.pl w).nextT ≤ a.t →
      (a.sq w).ofs < (a.sq w).playEnd → (a.sq w).owesDecision = false → a.stageDue w = false → a.slicePresent w = some x →
      ∃ t, exec (.vectorStart dt w {}) s = .next t ∧ (t.sq w).ofs = (a.sq w).ofs + 1 ∧ (t.pl w).vectors = (a.pl w).vectors + 1) ∧
    (∀ w : WinId,
      let k := a.slotOf w
      a.takes (winPage w 3) = true →
      (a.mode w = .service → (a.slot k).kcal = true → (a.clu (k / 17)).afeState = 2 → a.ref.locked = true → a.calBusy (k / 17) = false →
        (∃ t, exec (.calMeasure dt w) s = .next t ∧ (t.slot k).calOp = some 1) ∧
        ∃ t, exec (.calMeasureApply dt w) s = .next t ∧ (t.slot k).calOp = some 2) ∧
      (a.armedRun w = false → (a.slot k).calOp = none → ∃ t, exec (.restoreSeed dt w) s = .next t ∧ (t.slot k).chTerm = a.seedTerms k) ∧
      (∀ val : BitVec 32, a.armedRun w = false → k % 17 ≠ 16 → bits val.toNat 0 5 = 16 →
        ∃ t, exec (.calPathWrite dt w val) s = .next t ∧ (t.slot k).pathTerm = a.pathTerms k 16)) ∧
    (∀ (w : WinId) (terms : BitVec 60) (tj : Byte), (a.slot (a.slotOf w)).calOp = some 2 → ∃ t, exec (.calDone dt w terms tj true) s = .next t ∧
      (t.slot (a.slotOf w)).meas = terms ∧ (t.slot (a.slotOf w)).chTerm = terms) ∧
    (∀ (k : SlotId) (reading : Int), (a.slot k).afeOn = true → bit (a.sreg k 3 0x090) 0 = true → (a.slot k).driftRef = none →
      ∃ t, exec (.driftMeasure dt k reading) s = .next t ∧ (t.slot k).driftRef = some reading) ∧
    (∃ t, exec (.porAssert dt) s = .next t ∧ t.dev.porLow = true ∧ ∀ w, t.mode w = .off) ∧
    (a.dev.porLow = true → ∃ t, exec (.porRelease dt []) s = .next t ∧ t.dev.porLow = false) ∧
    (∃ t, exec (.perstRelease dt) s = .next t ∧ t.host.perst = true) ∧
    (a.dev.porLow = false → a.dev.bringup = 0 → ∃ t, exec (.keeperDone dt {}) s = .next t ∧ t.dev.bringup = 1) ∧
    (a.dev.porLow = false → a.dev.bringup = 1 → a.mem.startupDone = false →
      ∃ t, exec (.fusesLedgerDone dt false false) s = .next t ∧ t.dev.bringup = 2 ∧ t.keep.verified = true) ∧
    (a.dev.bringup = 2 → ∃ t, exec (.startupMarchDone dt 0) s = .next t ∧ t.dev.bringup = 3) ∧
    (a.dev.bringup = 3 → (a.src (devSrc 2 1)).causes = [] → ∃ t, exec (.timebaseLock dt false) s = .next t ∧ t.dev.bringup = 4 ∧ t.gtRun = true ∧ t.t = 0) ∧
    (a.dev.bringup = 4 → ∃ t, exec (.stacksDone dt 0) s = .next t ∧ t.dev.bringup = 5) ∧
    (∀ stk : Bool, a.takes 1 = true →
      (a.stkFault (b2n stk) 0 = 0 → ∃ t, exec (.stkActive dt stk) s = .next t ∧ t.stkTarget (b2n stk) = some 0) ∧
      (a.stkFault (b2n stk) 1 = 0 → ∃ t, exec (.stkSelfRefresh dt stk) s = .next t ∧ t.stkTarget (b2n stk) = some 1)) ∧
    (a.gtRun = true → a.dev.bringup = 5 → ∀ (k : SlotId) (c : CluId) (r : RailId), ∀ e ∈ ([
        (.driverLimit dt k, chSrc k 9), (.dacReadback dt k, chSrc k 9), (.channelSupply dt k, chSrc k 9), (.pgenParity dt k, chSrc k 10),
        (.fineDelay dt k, chSrc k 10), (.crossingParity dt k, chSrc k 10), (.ctrlCorrected dt k, chSrc k 11), (.ctrlUncorrected dt k, chSrc k 11),
        (.laneDead dt k, chSrc k 11), (.supplyTrip dt c, cluSrc c 0), (.afeHot dt c, cluSrc c 1), (.afeCritical dt c, cluSrc c 1),
        (.routeParity dt c, cluSrc c 6), (.latCalFail dt c, cluSrc c 6), (.positionMismatch dt c, cluSrc c 8),
        (.actuatorSupply dt c, cluSrc c 8), (.refFault dt c, cluSrc c 9), (.statusParity dt c, cluSrc c 10),
        (.gtReplicaDeviation dt c, cluSrc c 11), (.railWarn dt r, devSrc 1 r), (.railTrip dt r, devSrc 1 r), (.tjHigh dt 106, devSrc 1 12),
        (.tjCrit dt 116, devSrc 1 13), (.keeperLink dt, devSrc 0 1), (.collectorParity dt, devSrc 6 2), (.aerCorr dt, devSrc 4 3),
        (.aerUncorr dt, devSrc 4 4)] : List (Instr × Nat)),
      ∃ t, exec e.1 s = .next t ∧ ∃ d ∈ t.flight, d.src = e.2 ∧ d.at_ = a.t)
end

