-- ==== Sys2Proof/Laws/Tab.lean ====
section
/-!
SUPPORT. Sys2Proof/Laws/Tab.lean: sparse tables read back what was written and keep their canonical form; byte memories are tables.
-/

namespace Sys2Proof

variable {α : Type}

theorem Tab.get_del_self (d : α) (t : Tab α) (k : Nat) : Tab.get d (t.del k) k = d := by
  induction t with
  | nil => rfl
  | cons e r ih =>
    obtain ⟨k', v⟩ := e
    by_cases h : k' = k
    · simp [Tab.del, h, ih]
    · simp [Tab.del, h, Tab.get, ih]

theorem Tab.get_del_other (d : α) (t : Tab α) {k j : Nat} (h : k ≠ j) : Tab.get d (t.del k) j = Tab.get d t j := by
  induction t with
  | nil => rfl
  | cons e r ih =>
    obtain ⟨k', v⟩ := e
    by_cases h1 : k' = k
    · subst h1; simp [Tab.del, Tab.get, h, ih]
    · simp only [Tab.del, h1, if_false, Tab.get, ih]

theorem Tab.get_ins_self (d : α) (t : Tab α) (k : Nat) (v : α) (h : ∀ e ∈ t, e.1 ≠ k) : Tab.get d (Tab.ins t k v) k = v := by
  induction t with
  | nil => simp [Tab.ins, Tab.get]
  | cons e r ih =>
    obtain ⟨k', v'⟩ := e
    have hk : k' ≠ k := h (k', v') List.mem_cons_self
    have hr : ∀ e ∈ r, e.1 ≠ k := fun e he => h e (List.mem_cons_of_mem _ he)
    by_cases h1 : k' < k <;> simp [Tab.ins, h1, Tab.get, hk, ih hr]

theorem Tab.get_ins_other (d : α) (t : Tab α) {k j : Nat} (v : α) (h : k ≠ j) :
    Tab.get d (Tab.ins t k v) j = Tab.get d t j := by
  induction t with
  | nil => simp [Tab.ins, Tab.get, h]
  | cons e r ih =>
    obtain ⟨k', v'⟩ := e
    by_cases h1 : k' < k
    · simp only [Tab.ins, h1, if_true, Tab.get, ih]
    · simp [Tab.ins, h1, Tab.get, h]

theorem Tab.mem_del {t : Tab α} {k : Nat} {e : Nat × α} (h : e ∈ t.del k) : e ∈ t ∧ e.1 ≠ k := by
  induction t with
  | nil => simp [Tab.del] at h
  | cons x r ih =>
    obtain ⟨k', v⟩ := x
    by_cases h1 : k' = k
    · simp only [Tab.del, h1, if_true] at h
      exact ⟨List.mem_cons_of_mem _ (ih h).1, (ih h).2⟩
    · simp only [Tab.del, h1, if_false, List.mem_cons] at h
      rcases h with rfl | h
      · exact ⟨List.mem_cons_self, h1⟩
      · exact ⟨List.mem_cons_of_mem _ (ih h).1, (ih h).2⟩

/-- What was written is read back. -/
@[simp] theorem Tab.get_set_self [DecidableEq α] (d : α) (t : Tab α) (k : Nat) (v : α) : Tab.get d (Tab.set d t k v) k = v := by
  unfold Tab.set
  split
  · next h => rw [Tab.get_del_self, h]
  · exact Tab.get_ins_self d _ k v fun e he => (Tab.mem_del he).2

/-- A write of one key leaves what every other key reads. -/
theorem Tab.get_set_other [DecidableEq α] (d : α) (t : Tab α) {k j : Nat} (v : α) (h : k ≠ j) :
    Tab.get d (Tab.set d t k v) j = Tab.get d t j := by
  unfold Tab.set
  split
  · exact Tab.get_del_other d t h
  · rw [Tab.get_ins_other d _ v h, Tab.get_del_other d t h]

/-- The same where the two keys have unlisted values of their own. -/
theorem Tab.get_set_ne [DecidableEq α] (d d' : α) (t : Tab α) {k j : Nat} (v : α) (h : k ≠ j) :
    Tab.get d (Tab.set d' t k v) j = Tab.get d t j := by
  unfold Tab.set
  split
  · exact Tab.get_del_other d t h
  · rw [Tab.get_ins_other d _ v h, Tab.get_del_other d t h]

/-- A table after one write, read at any key. -/
theorem Tab.get_set [DecidableEq α] (d : α) (t : Tab α) (k j : Nat) (v : α) :
    Tab.get d (Tab.set d t k v) j = if k = j then v else Tab.get d t j := by
  by_cases h : k = j
  · subst h; simp
  · simp [h, Tab.get_set_other d t v h]

/-! The canonical form. -/

theorem Tab.above_mono {b c : Nat} (h : c ≤ b) : ∀ {t : Tab α}, Tab.above b t = true → Tab.above c t = true
  | [], _ => rfl
  | (k, v) :: r, ht => by
    simp only [Tab.above, Bool.and_eq_true, decide_eq_true_eq] at ht ⊢
    exact ⟨le_trans h ht.1, ht.2⟩

theorem Tab.above_del (k : Nat) : ∀ {b : Nat} {t : Tab α}, Tab.above b t = true → Tab.above b (t.del k) = true
  | _, [], _ => rfl
  | b, (k', v) :: r, ht => by
    simp only [Tab.above, Bool.and_eq_true, decide_eq_true_eq] at ht
    by_cases h : k' = k
    · simp only [Tab.del, h, if_true]
      exact Tab.above_mono (by omega) (Tab.above_del k ht.2)
    · simp only [Tab.del, h, if_false, Tab.above, Bool.and_eq_true, decide_eq_true_eq]
      exact ⟨ht.1, Tab.above_del k ht.2⟩

theorem Tab.above_ins (k : Nat) (v : α) : ∀ {b : Nat} {t : Tab α}, Tab.above b t = true → b ≤ k → (∀ e ∈ t, e.1 ≠ k) →
    Tab.above b (Tab.ins t k v) = true
  | b, [], _, hb, _ => by simp [Tab.ins, Tab.above, hb]
  | b, (k', v') :: r, ht, hb, hk => by
    simp only [Tab.above, Bool.and_eq_true, decide_eq_true_eq] at ht
    have hne : k' ≠ k := hk (k', v') List.mem_cons_self
    by_cases h : k' < k
    · simp only [Tab.ins, h, if_true, Tab.above, Bool.and_eq_true, decide_eq_true_eq]
      exact ⟨ht.1, Tab.above_ins k v ht.2 h fun e he => hk e (List.mem_cons_of_mem _ he)⟩
    · simp only [Tab.ins, h, if_false, Tab.above, Bool.and_eq_true, decide_eq_true_eq]
      exact ⟨hb, by omega, ht.2⟩

theorem Tab.mem_ins {t : Tab α} {k : Nat} {v : α} {e : Nat × α} (h : e ∈ Tab.ins t k v) : e = (k, v) ∨ e ∈ t := by
  induction t with
  | nil => simpa [Tab.ins] using h
  | cons x r ih =>
    obtain ⟨k', v'⟩ := x
    by_cases h1 : k' < k
    · simp only [Tab.ins, h1, if_true, List.mem_cons] at h
      rcases h with rfl | h
      · exact .inr List.mem_cons_self
      · rcases ih h with h | h
        · exact .inl h
        · exact .inr (List.mem_cons_of_mem _ h)
    · simp only [Tab.ins, h1, if_false] at h
      rcases List.mem_cons.mp h with h | h
      · exact .inl h
      · exact .inr h

/-- Keys strictly rising, and each entry differs from what its key reads when unlisted. -/
def Tab.neat (d : Nat → α) (t : Tab α) : Prop := Tab.above 0 t = true ∧ ∀ e ∈ t, e.2 ≠ d e.1

theorem Tab.neat_set [DecidableEq α] {d : Nat → α} {t : Tab α} (k : Nat) (v : α) (h : Tab.neat d t) :
    Tab.neat d (Tab.set (d k) t k v) := by
  unfold Tab.set
  split
  · exact ⟨Tab.above_del k h.1, fun e he => h.2 e (Tab.mem_del he).1⟩
  · next hv =>
    refine ⟨Tab.above_ins k v (Tab.above_del k h.1) (Nat.zero_le k) fun e he => (Tab.mem_del he).2, fun e he => ?_⟩
    rcases Tab.mem_ins he with rfl | he
    · exact hv
    · exact h.2 e (Tab.mem_del he).1

theorem Tab.above_filter (p : Nat × α → Bool) : ∀ {b : Nat} {t : Tab α}, Tab.above b t = true → Tab.above b (t.filter p) = true
  | _, [], _ => rfl
  | b, (k, v) :: r, ht => by
    simp only [Tab.above, Bool.and_eq_true, decide_eq_true_eq] at ht
    rw [List.filter_cons]
    split
    · simp only [Tab.above, Bool.and_eq_true, decide_eq_true_eq]
      exact ⟨ht.1, Tab.above_filter p ht.2⟩
    · exact Tab.above_mono (by omega) (Tab.above_filter p ht.2)

theorem Tab.neat_filter {d : Nat → α} {t : Tab α} (p : Nat × α → Bool) (h : Tab.neat d t) : Tab.neat d (t.filter p) :=
  ⟨Tab.above_filter p h.1, fun e he => h.2 e (List.mem_filter.mp he).1⟩

theorem Tab.neat_nil (d : Nat → α) : Tab.neat d ([] : Tab α) := ⟨rfl, fun _ h => absurd h List.not_mem_nil⟩

theorem Tab.wf_iff [DecidableEq α] (d : α) (t : Tab α) : Tab.wf d t = true ↔ Tab.neat (fun _ => d) t := by
  simp [Tab.wf, Tab.neat, List.all_eq_true]

/-- A write keeps the canonical form. -/
theorem Tab.wf_set [DecidableEq α] {d : α} {t : Tab α} (k : Nat) (v : α) (h : Tab.wf d t = true) : Tab.wf d (Tab.set d t k v) = true :=
  (Tab.wf_iff d _).mpr (Tab.neat_set k v ((Tab.wf_iff d t).mp h))

theorem Tab.wf_filter [DecidableEq α] {d : α} {t : Tab α} (p : Nat × α → Bool) (h : Tab.wf d t = true) : Tab.wf d (t.filter p) = true :=
  (Tab.wf_iff d _).mpr (Tab.neat_filter p ((Tab.wf_iff d t).mp h))

/-- A table built by writes from a canonical one is canonical. -/
theorem Tab.wf_foldl_set [DecidableEq α] {β : Type} {d : α} (key : β → Nat) (val : β → α) (l : List β) {t : Tab α} (h : Tab.wf d t = true) :
    Tab.wf d (l.foldl (fun t b => Tab.set d t (key b) (val b)) t) = true := by
  induction l generalizing t with
  | nil => exact h
  | cons b r ih => exact ih (Tab.wf_set _ _ h)

/-! Byte memories. -/

namespace Machine

/-- A byte reads as it was last written; every other byte reads as before. -/
theorem Memory.read_write (m : List Host.Cell) (a b : Nat) (v : Byte) :
    Memory.read (Memory.write m a v) b = if a = b then v else Memory.read m b := Tab.get_set 0 m a b v

/-- A store leaves every byte outside it. -/
theorem Memory.read_store_below (m : List Host.Cell) (a b : Nat) (l : List Byte) (h : b < a) :
    Memory.read (Memory.store m a l) b = Memory.read m b := by
  induction l generalizing m a with
  | nil => rfl
  | cons x r ih => rw [Memory.store, ih _ _ (by omega), Memory.read_write]; simp [show a ≠ b by omega]

theorem Memory.read_store_above (m : List Host.Cell) (a b : Nat) (l : List Byte) (h : a + l.length ≤ b) :
    Memory.read (Memory.store m a l) b = Memory.read m b := by
  induction l generalizing m a with
  | nil => rfl
  | cons x r ih =>
    simp only [List.length_cons] at h
    rw [Memory.store, ih _ _ (by omega), Memory.read_write]; simp [show a ≠ b by omega]

/-- A stored byte reads back. -/
theorem Memory.read_store_in (m : List Host.Cell) (a i : Nat) (l : List Byte) (h : i < l.length) :
    Memory.read (Memory.store m a l) (a + i) = l[i] := by
  induction l generalizing m a i with
  | nil => simp at h
  | cons x r ih =>
    cases i with
    | zero => rw [Memory.store, Nat.add_zero, Memory.read_store_below _ _ _ _ (by omega), Memory.read_write]; simp
    | succ j =>
      simp only [List.length_cons] at h
      have := ih (Memory.write m a x) (a + 1) j (by omega)
      rw [Memory.store, show a + (j + 1) = a + 1 + j by omega, this]; simp

/-- Reading back what was stored, whole. -/
theorem Memory.load_store (m : List Host.Cell) (a : Nat) (l : List Byte) : Memory.load (Memory.store m a l) a l.length = l := by
  have h : ∀ (n a0 : Nat) (q : List Byte), q.length = n → (∀ i (hi : i < q.length), Memory.read (Memory.store m a l) (a0 + i) = q[i]) →
      Memory.load (Memory.store m a l) a0 n = q := by
    intro n
    induction n with
    | zero => intro a0 q hq _; rw [List.length_eq_zero_iff.mp hq]; rfl
    | succ n ih =>
      intro a0 q hq hr
      match q, hq with
      | x :: r, hq =>
        have h0 := hr 0 (by simp)
        simp only [Nat.add_zero, List.getElem_cons_zero] at h0
        rw [Memory.load, h0, ih (a0 + 1) r (by simpa using hq)]
        intro i hi
        have := hr (i + 1) (by simp; omega)
        simp only [List.getElem_cons_succ] at this
        rw [← this]; congr 1; omega
  exact h l.length a l rfl fun i hi => Memory.read_store_in m a i l hi

theorem Memory.wf_write {m : List Host.Cell} (a : Nat) (v : Byte) (h : Memory.wf m = true) : Memory.wf (Memory.write m a v) = true :=
  Tab.wf_set a v h

/-- A store keeps the canonical form. -/
theorem Memory.wf_store {m : List Host.Cell} (a : Nat) (l : List Byte) (h : Memory.wf m = true) : Memory.wf (Memory.store m a l) = true := by
  induction l generalizing m a with
  | nil => exact h
  | cons x r ih => exact ih (a + 1) (Memory.wf_write a x h)

/-- Zeroing keeps the canonical form. -/
theorem Memory.wf_zero {m : List Host.Cell} (lo hi : Nat) (h : Memory.wf m = true) : Memory.wf (Memory.zero m lo hi) = true :=
  Tab.wf_filter _ h

end Machine

end Sys2Proof
end

