-- ==== Sys2Proof/Laws/State.lean ====
section
/-!
SUPPORT. Sys2Proof/Laws/State.lean: what each update of the state does to each field, so that no proof unfolds a record update: one
lemma per field per update, then the reads of windows, slots and clusters.
-/

namespace Sys2Proof.Machine

@[simp] theorem State.modWin_pending (s : State) (w : Nat) (f : Win → Win) : (s.modWin w f).pending = s.pending := rfl
@[simp] theorem State.modWin_now (s : State) (w : Nat) (f : Win → Win) : (s.modWin w f).now = s.now := rfl
@[simp] theorem State.modWin_t (s : State) (w : Nat) (f : Win → Win) : (s.modWin w f).t = s.t := rfl
@[simp] theorem State.modWin_gtRun (s : State) (w : Nat) (f : Win → Win) : (s.modWin w f).gtRun = s.gtRun := rfl
@[simp] theorem State.modWin_regs (s : State) (w : Nat) (f : Win → Win) : (s.modWin w f).regs = s.regs := rfl
@[simp] theorem State.modWin_pgEvt (s : State) (w : Nat) (f : Win → Win) : (s.modWin w f).pgEvt = s.pgEvt := rfl
@[simp] theorem State.modWin_evtNow (s : State) (w : Nat) (f : Win → Win) : (s.modWin w f).evtNow = s.evtNow := rfl
@[simp] theorem State.modWin_evtDue (s : State) (w : Nat) (f : Win → Win) : (s.modWin w f).evtDue = s.evtDue := rfl
@[simp] theorem State.modWin_pgSeq (s : State) (w : Nat) (f : Win → Win) : (s.modWin w f).pgSeq = s.pgSeq := rfl
@[simp] theorem State.modWin_snaps (s : State) (w : Nat) (f : Win → Win) : (s.modWin w f).snaps = s.snaps := rfl
@[simp] theorem State.modWin_snapSt (s : State) (w : Nat) (f : Win → Win) : (s.modWin w f).snapSt = s.snapSt := rfl
@[simp] theorem State.modWin_wins (s : State) (w : Nat) (f : Win → Win) : (s.modWin w f).wins = Tab.set {} s.wins w (f (s.win w)) := rfl
@[simp] theorem State.modWin_slots (s : State) (w : Nat) (f : Win → Win) : (s.modWin w f).slots = s.slots := rfl
@[simp] theorem State.modWin_clus (s : State) (w : Nat) (f : Win → Win) : (s.modWin w f).clus = s.clus := rfl
@[simp] theorem State.modWin_colCh (s : State) (w : Nat) (f : Win → Win) : (s.modWin w f).colCh = s.colCh := rfl
@[simp] theorem State.modWin_colClu (s : State) (w : Nat) (f : Win → Win) : (s.modWin w f).colClu = s.colClu := rfl
@[simp] theorem State.modWin_colDev (s : State) (w : Nat) (f : Win → Win) : (s.modWin w f).colDev = s.colDev := rfl
@[simp] theorem State.modWin_flight (s : State) (w : Nat) (f : Win → Win) : (s.modWin w f).flight = s.flight := rfl
@[simp] theorem State.modWin_heldDet (s : State) (w : Nat) (f : Win → Win) : (s.modWin w f).heldDet = s.heldDet := rfl
@[simp] theorem State.modWin_heldN (s : State) (w : Nat) (f : Win → Win) : (s.modWin w f).heldN = s.heldN := rfl
@[simp] theorem State.modWin_conseqs (s : State) (w : Nat) (f : Win → Win) : (s.modWin w f).conseqs = s.conseqs := rfl
@[simp] theorem State.modWin_held (s : State) (w : Nat) (f : Win → Win) : (s.modWin w f).held = s.held := rfl
@[simp] theorem State.modWin_dev (s : State) (w : Nat) (f : Win → Win) : (s.modWin w f).dev = s.dev := rfl
@[simp] theorem State.modWin_ref (s : State) (w : Nat) (f : Win → Win) : (s.modWin w f).ref = s.ref := rfl
@[simp] theorem State.modWin_syn (s : State) (w : Nat) (f : Win → Win) : (s.modWin w f).syn = s.syn := rfl
@[simp] theorem State.modWin_host (s : State) (w : Nat) (f : Win → Win) : (s.modWin w f).host = s.host := rfl
@[simp] theorem State.modWin_flt (s : State) (w : Nat) (f : Win → Win) : (s.modWin w f).flt = s.flt := rfl
@[simp] theorem State.modWin_mem (s : State) (w : Nat) (f : Win → Win) : (s.modWin w f).mem = s.mem := rfl
@[simp] theorem State.modWin_sec (s : State) (w : Nat) (f : Win → Win) : (s.modWin w f).sec = s.sec := rfl
@[simp] theorem State.modWin_keep (s : State) (w : Nat) (f : Win → Win) : (s.modWin w f).keep = s.keep := rfl
@[simp] theorem State.modWin_stackMem (s : State) (w : Nat) (f : Win → Win) : (s.modWin w f).stackMem = s.stackMem := rfl
@[simp] theorem State.modWin_wsMem (s : State) (w : Nat) (f : Win → Win) : (s.modWin w f).wsMem = s.wsMem := rfl
@[simp] theorem State.modWin_out (s : State) (w : Nat) (f : Win → Win) : (s.modWin w f).out = s.out := rfl
@[simp] theorem State.modWin_freeN (s : State) (w : Nat) (f : Win → Win) : (s.modWin w f).freeN = s.freeN := rfl

@[simp] theorem State.modSlot_pending (s : State) (k : Nat) (f : Slot → Slot) : (s.modSlot k f).pending = s.pending := rfl
@[simp] theorem State.modSlot_now (s : State) (k : Nat) (f : Slot → Slot) : (s.modSlot k f).now = s.now := rfl
@[simp] theorem State.modSlot_t (s : State) (k : Nat) (f : Slot → Slot) : (s.modSlot k f).t = s.t := rfl
@[simp] theorem State.modSlot_gtRun (s : State) (k : Nat) (f : Slot → Slot) : (s.modSlot k f).gtRun = s.gtRun := rfl
@[simp] theorem State.modSlot_regs (s : State) (k : Nat) (f : Slot → Slot) : (s.modSlot k f).regs = s.regs := rfl
@[simp] theorem State.modSlot_pgEvt (s : State) (k : Nat) (f : Slot → Slot) : (s.modSlot k f).pgEvt = s.pgEvt := rfl
@[simp] theorem State.modSlot_evtNow (s : State) (k : Nat) (f : Slot → Slot) : (s.modSlot k f).evtNow = s.evtNow := rfl
@[simp] theorem State.modSlot_evtDue (s : State) (k : Nat) (f : Slot → Slot) : (s.modSlot k f).evtDue = s.evtDue := rfl
@[simp] theorem State.modSlot_pgSeq (s : State) (k : Nat) (f : Slot → Slot) : (s.modSlot k f).pgSeq = s.pgSeq := rfl
@[simp] theorem State.modSlot_snaps (s : State) (k : Nat) (f : Slot → Slot) : (s.modSlot k f).snaps = s.snaps := rfl
@[simp] theorem State.modSlot_snapSt (s : State) (k : Nat) (f : Slot → Slot) : (s.modSlot k f).snapSt = s.snapSt := rfl
@[simp] theorem State.modSlot_wins (s : State) (k : Nat) (f : Slot → Slot) : (s.modSlot k f).wins = s.wins := rfl
@[simp] theorem State.modSlot_slots (s : State) (k : Nat) (f : Slot → Slot) : (s.modSlot k f).slots = Tab.set {} s.slots k (f (s.slot k)) := rfl
@[simp] theorem State.modSlot_clus (s : State) (k : Nat) (f : Slot → Slot) : (s.modSlot k f).clus = s.clus := rfl
@[simp] theorem State.modSlot_colCh (s : State) (k : Nat) (f : Slot → Slot) : (s.modSlot k f).colCh = s.colCh := rfl
@[simp] theorem State.modSlot_colClu (s : State) (k : Nat) (f : Slot → Slot) : (s.modSlot k f).colClu = s.colClu := rfl
@[simp] theorem State.modSlot_colDev (s : State) (k : Nat) (f : Slot → Slot) : (s.modSlot k f).colDev = s.colDev := rfl
@[simp] theorem State.modSlot_flight (s : State) (k : Nat) (f : Slot → Slot) : (s.modSlot k f).flight = s.flight := rfl
@[simp] theorem State.modSlot_heldDet (s : State) (k : Nat) (f : Slot → Slot) : (s.modSlot k f).heldDet = s.heldDet := rfl
@[simp] theorem State.modSlot_heldN (s : State) (k : Nat) (f : Slot → Slot) : (s.modSlot k f).heldN = s.heldN := rfl
@[simp] theorem State.modSlot_conseqs (s : State) (k : Nat) (f : Slot → Slot) : (s.modSlot k f).conseqs = s.conseqs := rfl
@[simp] theorem State.modSlot_held (s : State) (k : Nat) (f : Slot → Slot) : (s.modSlot k f).held = s.held := rfl
@[simp] theorem State.modSlot_dev (s : State) (k : Nat) (f : Slot → Slot) : (s.modSlot k f).dev = s.dev := rfl
@[simp] theorem State.modSlot_ref (s : State) (k : Nat) (f : Slot → Slot) : (s.modSlot k f).ref = s.ref := rfl
@[simp] theorem State.modSlot_syn (s : State) (k : Nat) (f : Slot → Slot) : (s.modSlot k f).syn = s.syn := rfl
@[simp] theorem State.modSlot_host (s : State) (k : Nat) (f : Slot → Slot) : (s.modSlot k f).host = s.host := rfl
@[simp] theorem State.modSlot_flt (s : State) (k : Nat) (f : Slot → Slot) : (s.modSlot k f).flt = s.flt := rfl
@[simp] theorem State.modSlot_mem (s : State) (k : Nat) (f : Slot → Slot) : (s.modSlot k f).mem = s.mem := rfl
@[simp] theorem State.modSlot_sec (s : State) (k : Nat) (f : Slot → Slot) : (s.modSlot k f).sec = s.sec := rfl
@[simp] theorem State.modSlot_keep (s : State) (k : Nat) (f : Slot → Slot) : (s.modSlot k f).keep = s.keep := rfl
@[simp] theorem State.modSlot_stackMem (s : State) (k : Nat) (f : Slot → Slot) : (s.modSlot k f).stackMem = s.stackMem := rfl
@[simp] theorem State.modSlot_wsMem (s : State) (k : Nat) (f : Slot → Slot) : (s.modSlot k f).wsMem = s.wsMem := rfl
@[simp] theorem State.modSlot_out (s : State) (k : Nat) (f : Slot → Slot) : (s.modSlot k f).out = s.out := rfl
@[simp] theorem State.modSlot_freeN (s : State) (k : Nat) (f : Slot → Slot) : (s.modSlot k f).freeN = s.freeN := rfl

@[simp] theorem State.modClu_pending (s : State) (c : Nat) (f : Clu → Clu) : (s.modClu c f).pending = s.pending := rfl
@[simp] theorem State.modClu_now (s : State) (c : Nat) (f : Clu → Clu) : (s.modClu c f).now = s.now := rfl
@[simp] theorem State.modClu_t (s : State) (c : Nat) (f : Clu → Clu) : (s.modClu c f).t = s.t := rfl
@[simp] theorem State.modClu_gtRun (s : State) (c : Nat) (f : Clu → Clu) : (s.modClu c f).gtRun = s.gtRun := rfl
@[simp] theorem State.modClu_regs (s : State) (c : Nat) (f : Clu → Clu) : (s.modClu c f).regs = s.regs := rfl
@[simp] theorem State.modClu_pgEvt (s : State) (c : Nat) (f : Clu → Clu) : (s.modClu c f).pgEvt = s.pgEvt := rfl
@[simp] theorem State.modClu_evtNow (s : State) (c : Nat) (f : Clu → Clu) : (s.modClu c f).evtNow = s.evtNow := rfl
@[simp] theorem State.modClu_evtDue (s : State) (c : Nat) (f : Clu → Clu) : (s.modClu c f).evtDue = s.evtDue := rfl
@[simp] theorem State.modClu_pgSeq (s : State) (c : Nat) (f : Clu → Clu) : (s.modClu c f).pgSeq = s.pgSeq := rfl
@[simp] theorem State.modClu_snaps (s : State) (c : Nat) (f : Clu → Clu) : (s.modClu c f).snaps = s.snaps := rfl
@[simp] theorem State.modClu_snapSt (s : State) (c : Nat) (f : Clu → Clu) : (s.modClu c f).snapSt = s.snapSt := rfl
@[simp] theorem State.modClu_wins (s : State) (c : Nat) (f : Clu → Clu) : (s.modClu c f).wins = s.wins := rfl
@[simp] theorem State.modClu_slots (s : State) (c : Nat) (f : Clu → Clu) : (s.modClu c f).slots = s.slots := rfl
@[simp] theorem State.modClu_clus (s : State) (c : Nat) (f : Clu → Clu) : (s.modClu c f).clus = Tab.set {} s.clus c (f (s.clu c)) := rfl
@[simp] theorem State.modClu_colCh (s : State) (c : Nat) (f : Clu → Clu) : (s.modClu c f).colCh = s.colCh := rfl
@[simp] theorem State.modClu_colClu (s : State) (c : Nat) (f : Clu → Clu) : (s.modClu c f).colClu = s.colClu := rfl
@[simp] theorem State.modClu_colDev (s : State) (c : Nat) (f : Clu → Clu) : (s.modClu c f).colDev = s.colDev := rfl
@[simp] theorem State.modClu_flight (s : State) (c : Nat) (f : Clu → Clu) : (s.modClu c f).flight = s.flight := rfl
@[simp] theorem State.modClu_heldDet (s : State) (c : Nat) (f : Clu → Clu) : (s.modClu c f).heldDet = s.heldDet := rfl
@[simp] theorem State.modClu_heldN (s : State) (c : Nat) (f : Clu → Clu) : (s.modClu c f).heldN = s.heldN := rfl
@[simp] theorem State.modClu_conseqs (s : State) (c : Nat) (f : Clu → Clu) : (s.modClu c f).conseqs = s.conseqs := rfl
@[simp] theorem State.modClu_held (s : State) (c : Nat) (f : Clu → Clu) : (s.modClu c f).held = s.held := rfl
@[simp] theorem State.modClu_dev (s : State) (c : Nat) (f : Clu → Clu) : (s.modClu c f).dev = s.dev := rfl
@[simp] theorem State.modClu_ref (s : State) (c : Nat) (f : Clu → Clu) : (s.modClu c f).ref = s.ref := rfl
@[simp] theorem State.modClu_syn (s : State) (c : Nat) (f : Clu → Clu) : (s.modClu c f).syn = s.syn := rfl
@[simp] theorem State.modClu_host (s : State) (c : Nat) (f : Clu → Clu) : (s.modClu c f).host = s.host := rfl
@[simp] theorem State.modClu_flt (s : State) (c : Nat) (f : Clu → Clu) : (s.modClu c f).flt = s.flt := rfl
@[simp] theorem State.modClu_mem (s : State) (c : Nat) (f : Clu → Clu) : (s.modClu c f).mem = s.mem := rfl
@[simp] theorem State.modClu_sec (s : State) (c : Nat) (f : Clu → Clu) : (s.modClu c f).sec = s.sec := rfl
@[simp] theorem State.modClu_keep (s : State) (c : Nat) (f : Clu → Clu) : (s.modClu c f).keep = s.keep := rfl
@[simp] theorem State.modClu_stackMem (s : State) (c : Nat) (f : Clu → Clu) : (s.modClu c f).stackMem = s.stackMem := rfl
@[simp] theorem State.modClu_wsMem (s : State) (c : Nat) (f : Clu → Clu) : (s.modClu c f).wsMem = s.wsMem := rfl
@[simp] theorem State.modClu_out (s : State) (c : Nat) (f : Clu → Clu) : (s.modClu c f).out = s.out := rfl
@[simp] theorem State.modClu_freeN (s : State) (c : Nat) (f : Clu → Clu) : (s.modClu c f).freeN = s.freeN := rfl

@[simp] theorem State.modDev_pending (s : State) (f : DevSt → DevSt) : (s.modDev f).pending = s.pending := rfl
@[simp] theorem State.modDev_now (s : State) (f : DevSt → DevSt) : (s.modDev f).now = s.now := rfl
@[simp] theorem State.modDev_t (s : State) (f : DevSt → DevSt) : (s.modDev f).t = s.t := rfl
@[simp] theorem State.modDev_gtRun (s : State) (f : DevSt → DevSt) : (s.modDev f).gtRun = s.gtRun := rfl
@[simp] theorem State.modDev_regs (s : State) (f : DevSt → DevSt) : (s.modDev f).regs = s.regs := rfl
@[simp] theorem State.modDev_pgEvt (s : State) (f : DevSt → DevSt) : (s.modDev f).pgEvt = s.pgEvt := rfl
@[simp] theorem State.modDev_evtNow (s : State) (f : DevSt → DevSt) : (s.modDev f).evtNow = s.evtNow := rfl
@[simp] theorem State.modDev_evtDue (s : State) (f : DevSt → DevSt) : (s.modDev f).evtDue = s.evtDue := rfl
@[simp] theorem State.modDev_pgSeq (s : State) (f : DevSt → DevSt) : (s.modDev f).pgSeq = s.pgSeq := rfl
@[simp] theorem State.modDev_snaps (s : State) (f : DevSt → DevSt) : (s.modDev f).snaps = s.snaps := rfl
@[simp] theorem State.modDev_snapSt (s : State) (f : DevSt → DevSt) : (s.modDev f).snapSt = s.snapSt := rfl
@[simp] theorem State.modDev_wins (s : State) (f : DevSt → DevSt) : (s.modDev f).wins = s.wins := rfl
@[simp] theorem State.modDev_slots (s : State) (f : DevSt → DevSt) : (s.modDev f).slots = s.slots := rfl
@[simp] theorem State.modDev_clus (s : State) (f : DevSt → DevSt) : (s.modDev f).clus = s.clus := rfl
@[simp] theorem State.modDev_colCh (s : State) (f : DevSt → DevSt) : (s.modDev f).colCh = s.colCh := rfl
@[simp] theorem State.modDev_colClu (s : State) (f : DevSt → DevSt) : (s.modDev f).colClu = s.colClu := rfl
@[simp] theorem State.modDev_colDev (s : State) (f : DevSt → DevSt) : (s.modDev f).colDev = s.colDev := rfl
@[simp] theorem State.modDev_flight (s : State) (f : DevSt → DevSt) : (s.modDev f).flight = s.flight := rfl
@[simp] theorem State.modDev_heldDet (s : State) (f : DevSt → DevSt) : (s.modDev f).heldDet = s.heldDet := rfl
@[simp] theorem State.modDev_heldN (s : State) (f : DevSt → DevSt) : (s.modDev f).heldN = s.heldN := rfl
@[simp] theorem State.modDev_conseqs (s : State) (f : DevSt → DevSt) : (s.modDev f).conseqs = s.conseqs := rfl
@[simp] theorem State.modDev_held (s : State) (f : DevSt → DevSt) : (s.modDev f).held = s.held := rfl
@[simp] theorem State.modDev_dev (s : State) (f : DevSt → DevSt) : (s.modDev f).dev = f s.dev := rfl
@[simp] theorem State.modDev_ref (s : State) (f : DevSt → DevSt) : (s.modDev f).ref = s.ref := rfl
@[simp] theorem State.modDev_syn (s : State) (f : DevSt → DevSt) : (s.modDev f).syn = s.syn := rfl
@[simp] theorem State.modDev_host (s : State) (f : DevSt → DevSt) : (s.modDev f).host = s.host := rfl
@[simp] theorem State.modDev_flt (s : State) (f : DevSt → DevSt) : (s.modDev f).flt = s.flt := rfl
@[simp] theorem State.modDev_mem (s : State) (f : DevSt → DevSt) : (s.modDev f).mem = s.mem := rfl
@[simp] theorem State.modDev_sec (s : State) (f : DevSt → DevSt) : (s.modDev f).sec = s.sec := rfl
@[simp] theorem State.modDev_keep (s : State) (f : DevSt → DevSt) : (s.modDev f).keep = s.keep := rfl
@[simp] theorem State.modDev_stackMem (s : State) (f : DevSt → DevSt) : (s.modDev f).stackMem = s.stackMem := rfl
@[simp] theorem State.modDev_wsMem (s : State) (f : DevSt → DevSt) : (s.modDev f).wsMem = s.wsMem := rfl
@[simp] theorem State.modDev_out (s : State) (f : DevSt → DevSt) : (s.modDev f).out = s.out := rfl
@[simp] theorem State.modDev_freeN (s : State) (f : DevSt → DevSt) : (s.modDev f).freeN = s.freeN := rfl

@[simp] theorem State.modRef_pending (s : State) (f : RefSt → RefSt) : (s.modRef f).pending = s.pending := rfl
@[simp] theorem State.modRef_now (s : State) (f : RefSt → RefSt) : (s.modRef f).now = s.now := rfl
@[simp] theorem State.modRef_t (s : State) (f : RefSt → RefSt) : (s.modRef f).t = s.t := rfl
@[simp] theorem State.modRef_gtRun (s : State) (f : RefSt → RefSt) : (s.modRef f).gtRun = s.gtRun := rfl
@[simp] theorem State.modRef_regs (s : State) (f : RefSt → RefSt) : (s.modRef f).regs = s.regs := rfl
@[simp] theorem State.modRef_pgEvt (s : State) (f : RefSt → RefSt) : (s.modRef f).pgEvt = s.pgEvt := rfl
@[simp] theorem State.modRef_evtNow (s : State) (f : RefSt → RefSt) : (s.modRef f).evtNow = s.evtNow := rfl
@[simp] theorem State.modRef_evtDue (s : State) (f : RefSt → RefSt) : (s.modRef f).evtDue = s.evtDue := rfl
@[simp] theorem State.modRef_pgSeq (s : State) (f : RefSt → RefSt) : (s.modRef f).pgSeq = s.pgSeq := rfl
@[simp] theorem State.modRef_snaps (s : State) (f : RefSt → RefSt) : (s.modRef f).snaps = s.snaps := rfl
@[simp] theorem State.modRef_snapSt (s : State) (f : RefSt → RefSt) : (s.modRef f).snapSt = s.snapSt := rfl
@[simp] theorem State.modRef_wins (s : State) (f : RefSt → RefSt) : (s.modRef f).wins = s.wins := rfl
@[simp] theorem State.modRef_slots (s : State) (f : RefSt → RefSt) : (s.modRef f).slots = s.slots := rfl
@[simp] theorem State.modRef_clus (s : State) (f : RefSt → RefSt) : (s.modRef f).clus = s.clus := rfl
@[simp] theorem State.modRef_colCh (s : State) (f : RefSt → RefSt) : (s.modRef f).colCh = s.colCh := rfl
@[simp] theorem State.modRef_colClu (s : State) (f : RefSt → RefSt) : (s.modRef f).colClu = s.colClu := rfl
@[simp] theorem State.modRef_colDev (s : State) (f : RefSt → RefSt) : (s.modRef f).colDev = s.colDev := rfl
@[simp] theorem State.modRef_flight (s : State) (f : RefSt → RefSt) : (s.modRef f).flight = s.flight := rfl
@[simp] theorem State.modRef_heldDet (s : State) (f : RefSt → RefSt) : (s.modRef f).heldDet = s.heldDet := rfl
@[simp] theorem State.modRef_heldN (s : State) (f : RefSt → RefSt) : (s.modRef f).heldN = s.heldN := rfl
@[simp] theorem State.modRef_conseqs (s : State) (f : RefSt → RefSt) : (s.modRef f).conseqs = s.conseqs := rfl
@[simp] theorem State.modRef_held (s : State) (f : RefSt → RefSt) : (s.modRef f).held = s.held := rfl
@[simp] theorem State.modRef_dev (s : State) (f : RefSt → RefSt) : (s.modRef f).dev = s.dev := rfl
@[simp] theorem State.modRef_ref (s : State) (f : RefSt → RefSt) : (s.modRef f).ref = f s.ref := rfl
@[simp] theorem State.modRef_syn (s : State) (f : RefSt → RefSt) : (s.modRef f).syn = s.syn := rfl
@[simp] theorem State.modRef_host (s : State) (f : RefSt → RefSt) : (s.modRef f).host = s.host := rfl
@[simp] theorem State.modRef_flt (s : State) (f : RefSt → RefSt) : (s.modRef f).flt = s.flt := rfl
@[simp] theorem State.modRef_mem (s : State) (f : RefSt → RefSt) : (s.modRef f).mem = s.mem := rfl
@[simp] theorem State.modRef_sec (s : State) (f : RefSt → RefSt) : (s.modRef f).sec = s.sec := rfl
@[simp] theorem State.modRef_keep (s : State) (f : RefSt → RefSt) : (s.modRef f).keep = s.keep := rfl
@[simp] theorem State.modRef_stackMem (s : State) (f : RefSt → RefSt) : (s.modRef f).stackMem = s.stackMem := rfl
@[simp] theorem State.modRef_wsMem (s : State) (f : RefSt → RefSt) : (s.modRef f).wsMem = s.wsMem := rfl
@[simp] theorem State.modRef_out (s : State) (f : RefSt → RefSt) : (s.modRef f).out = s.out := rfl
@[simp] theorem State.modRef_freeN (s : State) (f : RefSt → RefSt) : (s.modRef f).freeN = s.freeN := rfl

@[simp] theorem State.modSyn_pending (s : State) (f : SynSt → SynSt) : (s.modSyn f).pending = s.pending := rfl
@[simp] theorem State.modSyn_now (s : State) (f : SynSt → SynSt) : (s.modSyn f).now = s.now := rfl
@[simp] theorem State.modSyn_t (s : State) (f : SynSt → SynSt) : (s.modSyn f).t = s.t := rfl
@[simp] theorem State.modSyn_gtRun (s : State) (f : SynSt → SynSt) : (s.modSyn f).gtRun = s.gtRun := rfl
@[simp] theorem State.modSyn_regs (s : State) (f : SynSt → SynSt) : (s.modSyn f).regs = s.regs := rfl
@[simp] theorem State.modSyn_pgEvt (s : State) (f : SynSt → SynSt) : (s.modSyn f).pgEvt = s.pgEvt := rfl
@[simp] theorem State.modSyn_evtNow (s : State) (f : SynSt → SynSt) : (s.modSyn f).evtNow = s.evtNow := rfl
@[simp] theorem State.modSyn_evtDue (s : State) (f : SynSt → SynSt) : (s.modSyn f).evtDue = s.evtDue := rfl
@[simp] theorem State.modSyn_pgSeq (s : State) (f : SynSt → SynSt) : (s.modSyn f).pgSeq = s.pgSeq := rfl
@[simp] theorem State.modSyn_snaps (s : State) (f : SynSt → SynSt) : (s.modSyn f).snaps = s.snaps := rfl
@[simp] theorem State.modSyn_snapSt (s : State) (f : SynSt → SynSt) : (s.modSyn f).snapSt = s.snapSt := rfl
@[simp] theorem State.modSyn_wins (s : State) (f : SynSt → SynSt) : (s.modSyn f).wins = s.wins := rfl
@[simp] theorem State.modSyn_slots (s : State) (f : SynSt → SynSt) : (s.modSyn f).slots = s.slots := rfl
@[simp] theorem State.modSyn_clus (s : State) (f : SynSt → SynSt) : (s.modSyn f).clus = s.clus := rfl
@[simp] theorem State.modSyn_colCh (s : State) (f : SynSt → SynSt) : (s.modSyn f).colCh = s.colCh := rfl
@[simp] theorem State.modSyn_colClu (s : State) (f : SynSt → SynSt) : (s.modSyn f).colClu = s.colClu := rfl
@[simp] theorem State.modSyn_colDev (s : State) (f : SynSt → SynSt) : (s.modSyn f).colDev = s.colDev := rfl
@[simp] theorem State.modSyn_flight (s : State) (f : SynSt → SynSt) : (s.modSyn f).flight = s.flight := rfl
@[simp] theorem State.modSyn_heldDet (s : State) (f : SynSt → SynSt) : (s.modSyn f).heldDet = s.heldDet := rfl
@[simp] theorem State.modSyn_heldN (s : State) (f : SynSt → SynSt) : (s.modSyn f).heldN = s.heldN := rfl
@[simp] theorem State.modSyn_conseqs (s : State) (f : SynSt → SynSt) : (s.modSyn f).conseqs = s.conseqs := rfl
@[simp] theorem State.modSyn_held (s : State) (f : SynSt → SynSt) : (s.modSyn f).held = s.held := rfl
@[simp] theorem State.modSyn_dev (s : State) (f : SynSt → SynSt) : (s.modSyn f).dev = s.dev := rfl
@[simp] theorem State.modSyn_ref (s : State) (f : SynSt → SynSt) : (s.modSyn f).ref = s.ref := rfl
@[simp] theorem State.modSyn_syn (s : State) (f : SynSt → SynSt) : (s.modSyn f).syn = f s.syn := rfl
@[simp] theorem State.modSyn_host (s : State) (f : SynSt → SynSt) : (s.modSyn f).host = s.host := rfl
@[simp] theorem State.modSyn_flt (s : State) (f : SynSt → SynSt) : (s.modSyn f).flt = s.flt := rfl
@[simp] theorem State.modSyn_mem (s : State) (f : SynSt → SynSt) : (s.modSyn f).mem = s.mem := rfl
@[simp] theorem State.modSyn_sec (s : State) (f : SynSt → SynSt) : (s.modSyn f).sec = s.sec := rfl
@[simp] theorem State.modSyn_keep (s : State) (f : SynSt → SynSt) : (s.modSyn f).keep = s.keep := rfl
@[simp] theorem State.modSyn_stackMem (s : State) (f : SynSt → SynSt) : (s.modSyn f).stackMem = s.stackMem := rfl
@[simp] theorem State.modSyn_wsMem (s : State) (f : SynSt → SynSt) : (s.modSyn f).wsMem = s.wsMem := rfl
@[simp] theorem State.modSyn_out (s : State) (f : SynSt → SynSt) : (s.modSyn f).out = s.out := rfl
@[simp] theorem State.modSyn_freeN (s : State) (f : SynSt → SynSt) : (s.modSyn f).freeN = s.freeN := rfl

@[simp] theorem State.modHost_pending (s : State) (f : HostSt → HostSt) : (s.modHost f).pending = s.pending := rfl
@[simp] theorem State.modHost_now (s : State) (f : HostSt → HostSt) : (s.modHost f).now = s.now := rfl
@[simp] theorem State.modHost_t (s : State) (f : HostSt → HostSt) : (s.modHost f).t = s.t := rfl
@[simp] theorem State.modHost_gtRun (s : State) (f : HostSt → HostSt) : (s.modHost f).gtRun = s.gtRun := rfl
@[simp] theorem State.modHost_regs (s : State) (f : HostSt → HostSt) : (s.modHost f).regs = s.regs := rfl
@[simp] theorem State.modHost_pgEvt (s : State) (f : HostSt → HostSt) : (s.modHost f).pgEvt = s.pgEvt := rfl
@[simp] theorem State.modHost_evtNow (s : State) (f : HostSt → HostSt) : (s.modHost f).evtNow = s.evtNow := rfl
@[simp] theorem State.modHost_evtDue (s : State) (f : HostSt → HostSt) : (s.modHost f).evtDue = s.evtDue := rfl
@[simp] theorem State.modHost_pgSeq (s : State) (f : HostSt → HostSt) : (s.modHost f).pgSeq = s.pgSeq := rfl
@[simp] theorem State.modHost_snaps (s : State) (f : HostSt → HostSt) : (s.modHost f).snaps = s.snaps := rfl
@[simp] theorem State.modHost_snapSt (s : State) (f : HostSt → HostSt) : (s.modHost f).snapSt = s.snapSt := rfl
@[simp] theorem State.modHost_wins (s : State) (f : HostSt → HostSt) : (s.modHost f).wins = s.wins := rfl
@[simp] theorem State.modHost_slots (s : State) (f : HostSt → HostSt) : (s.modHost f).slots = s.slots := rfl
@[simp] theorem State.modHost_clus (s : State) (f : HostSt → HostSt) : (s.modHost f).clus = s.clus := rfl
@[simp] theorem State.modHost_colCh (s : State) (f : HostSt → HostSt) : (s.modHost f).colCh = s.colCh := rfl
@[simp] theorem State.modHost_colClu (s : State) (f : HostSt → HostSt) : (s.modHost f).colClu = s.colClu := rfl
@[simp] theorem State.modHost_colDev (s : State) (f : HostSt → HostSt) : (s.modHost f).colDev = s.colDev := rfl
@[simp] theorem State.modHost_flight (s : State) (f : HostSt → HostSt) : (s.modHost f).flight = s.flight := rfl
@[simp] theorem State.modHost_heldDet (s : State) (f : HostSt → HostSt) : (s.modHost f).heldDet = s.heldDet := rfl
@[simp] theorem State.modHost_heldN (s : State) (f : HostSt → HostSt) : (s.modHost f).heldN = s.heldN := rfl
@[simp] theorem State.modHost_conseqs (s : State) (f : HostSt → HostSt) : (s.modHost f).conseqs = s.conseqs := rfl
@[simp] theorem State.modHost_held (s : State) (f : HostSt → HostSt) : (s.modHost f).held = s.held := rfl
@[simp] theorem State.modHost_dev (s : State) (f : HostSt → HostSt) : (s.modHost f).dev = s.dev := rfl
@[simp] theorem State.modHost_ref (s : State) (f : HostSt → HostSt) : (s.modHost f).ref = s.ref := rfl
@[simp] theorem State.modHost_syn (s : State) (f : HostSt → HostSt) : (s.modHost f).syn = s.syn := rfl
@[simp] theorem State.modHost_host (s : State) (f : HostSt → HostSt) : (s.modHost f).host = f s.host := rfl
@[simp] theorem State.modHost_flt (s : State) (f : HostSt → HostSt) : (s.modHost f).flt = s.flt := rfl
@[simp] theorem State.modHost_mem (s : State) (f : HostSt → HostSt) : (s.modHost f).mem = s.mem := rfl
@[simp] theorem State.modHost_sec (s : State) (f : HostSt → HostSt) : (s.modHost f).sec = s.sec := rfl
@[simp] theorem State.modHost_keep (s : State) (f : HostSt → HostSt) : (s.modHost f).keep = s.keep := rfl
@[simp] theorem State.modHost_stackMem (s : State) (f : HostSt → HostSt) : (s.modHost f).stackMem = s.stackMem := rfl
@[simp] theorem State.modHost_wsMem (s : State) (f : HostSt → HostSt) : (s.modHost f).wsMem = s.wsMem := rfl
@[simp] theorem State.modHost_out (s : State) (f : HostSt → HostSt) : (s.modHost f).out = s.out := rfl
@[simp] theorem State.modHost_freeN (s : State) (f : HostSt → HostSt) : (s.modHost f).freeN = s.freeN := rfl

@[simp] theorem State.modFlt_pending (s : State) (f : FltSt → FltSt) : (s.modFlt f).pending = s.pending := rfl
@[simp] theorem State.modFlt_now (s : State) (f : FltSt → FltSt) : (s.modFlt f).now = s.now := rfl
@[simp] theorem State.modFlt_t (s : State) (f : FltSt → FltSt) : (s.modFlt f).t = s.t := rfl
@[simp] theorem State.modFlt_gtRun (s : State) (f : FltSt → FltSt) : (s.modFlt f).gtRun = s.gtRun := rfl
@[simp] theorem State.modFlt_regs (s : State) (f : FltSt → FltSt) : (s.modFlt f).regs = s.regs := rfl
@[simp] theorem State.modFlt_pgEvt (s : State) (f : FltSt → FltSt) : (s.modFlt f).pgEvt = s.pgEvt := rfl
@[simp] theorem State.modFlt_evtNow (s : State) (f : FltSt → FltSt) : (s.modFlt f).evtNow = s.evtNow := rfl
@[simp] theorem State.modFlt_evtDue (s : State) (f : FltSt → FltSt) : (s.modFlt f).evtDue = s.evtDue := rfl
@[simp] theorem State.modFlt_pgSeq (s : State) (f : FltSt → FltSt) : (s.modFlt f).pgSeq = s.pgSeq := rfl
@[simp] theorem State.modFlt_snaps (s : State) (f : FltSt → FltSt) : (s.modFlt f).snaps = s.snaps := rfl
@[simp] theorem State.modFlt_snapSt (s : State) (f : FltSt → FltSt) : (s.modFlt f).snapSt = s.snapSt := rfl
@[simp] theorem State.modFlt_wins (s : State) (f : FltSt → FltSt) : (s.modFlt f).wins = s.wins := rfl
@[simp] theorem State.modFlt_slots (s : State) (f : FltSt → FltSt) : (s.modFlt f).slots = s.slots := rfl
@[simp] theorem State.modFlt_clus (s : State) (f : FltSt → FltSt) : (s.modFlt f).clus = s.clus := rfl
@[simp] theorem State.modFlt_colCh (s : State) (f : FltSt → FltSt) : (s.modFlt f).colCh = s.colCh := rfl
@[simp] theorem State.modFlt_colClu (s : State) (f : FltSt → FltSt) : (s.modFlt f).colClu = s.colClu := rfl
@[simp] theorem State.modFlt_colDev (s : State) (f : FltSt → FltSt) : (s.modFlt f).colDev = s.colDev := rfl
@[simp] theorem State.modFlt_flight (s : State) (f : FltSt → FltSt) : (s.modFlt f).flight = s.flight := rfl
@[simp] theorem State.modFlt_heldDet (s : State) (f : FltSt → FltSt) : (s.modFlt f).heldDet = s.heldDet := rfl
@[simp] theorem State.modFlt_heldN (s : State) (f : FltSt → FltSt) : (s.modFlt f).heldN = s.heldN := rfl
@[simp] theorem State.modFlt_conseqs (s : State) (f : FltSt → FltSt) : (s.modFlt f).conseqs = s.conseqs := rfl
@[simp] theorem State.modFlt_held (s : State) (f : FltSt → FltSt) : (s.modFlt f).held = s.held := rfl
@[simp] theorem State.modFlt_dev (s : State) (f : FltSt → FltSt) : (s.modFlt f).dev = s.dev := rfl
@[simp] theorem State.modFlt_ref (s : State) (f : FltSt → FltSt) : (s.modFlt f).ref = s.ref := rfl
@[simp] theorem State.modFlt_syn (s : State) (f : FltSt → FltSt) : (s.modFlt f).syn = s.syn := rfl
@[simp] theorem State.modFlt_host (s : State) (f : FltSt → FltSt) : (s.modFlt f).host = s.host := rfl
@[simp] theorem State.modFlt_flt (s : State) (f : FltSt → FltSt) : (s.modFlt f).flt = f s.flt := rfl
@[simp] theorem State.modFlt_mem (s : State) (f : FltSt → FltSt) : (s.modFlt f).mem = s.mem := rfl
@[simp] theorem State.modFlt_sec (s : State) (f : FltSt → FltSt) : (s.modFlt f).sec = s.sec := rfl
@[simp] theorem State.modFlt_keep (s : State) (f : FltSt → FltSt) : (s.modFlt f).keep = s.keep := rfl
@[simp] theorem State.modFlt_stackMem (s : State) (f : FltSt → FltSt) : (s.modFlt f).stackMem = s.stackMem := rfl
@[simp] theorem State.modFlt_wsMem (s : State) (f : FltSt → FltSt) : (s.modFlt f).wsMem = s.wsMem := rfl
@[simp] theorem State.modFlt_out (s : State) (f : FltSt → FltSt) : (s.modFlt f).out = s.out := rfl
@[simp] theorem State.modFlt_freeN (s : State) (f : FltSt → FltSt) : (s.modFlt f).freeN = s.freeN := rfl

@[simp] theorem State.modMem_pending (s : State) (f : MemSt → MemSt) : (s.modMem f).pending = s.pending := rfl
@[simp] theorem State.modMem_now (s : State) (f : MemSt → MemSt) : (s.modMem f).now = s.now := rfl
@[simp] theorem State.modMem_t (s : State) (f : MemSt → MemSt) : (s.modMem f).t = s.t := rfl
@[simp] theorem State.modMem_gtRun (s : State) (f : MemSt → MemSt) : (s.modMem f).gtRun = s.gtRun := rfl
@[simp] theorem State.modMem_regs (s : State) (f : MemSt → MemSt) : (s.modMem f).regs = s.regs := rfl
@[simp] theorem State.modMem_pgEvt (s : State) (f : MemSt → MemSt) : (s.modMem f).pgEvt = s.pgEvt := rfl
@[simp] theorem State.modMem_evtNow (s : State) (f : MemSt → MemSt) : (s.modMem f).evtNow = s.evtNow := rfl
@[simp] theorem State.modMem_evtDue (s : State) (f : MemSt → MemSt) : (s.modMem f).evtDue = s.evtDue := rfl
@[simp] theorem State.modMem_pgSeq (s : State) (f : MemSt → MemSt) : (s.modMem f).pgSeq = s.pgSeq := rfl
@[simp] theorem State.modMem_snaps (s : State) (f : MemSt → MemSt) : (s.modMem f).snaps = s.snaps := rfl
@[simp] theorem State.modMem_snapSt (s : State) (f : MemSt → MemSt) : (s.modMem f).snapSt = s.snapSt := rfl
@[simp] theorem State.modMem_wins (s : State) (f : MemSt → MemSt) : (s.modMem f).wins = s.wins := rfl
@[simp] theorem State.modMem_slots (s : State) (f : MemSt → MemSt) : (s.modMem f).slots = s.slots := rfl
@[simp] theorem State.modMem_clus (s : State) (f : MemSt → MemSt) : (s.modMem f).clus = s.clus := rfl
@[simp] theorem State.modMem_colCh (s : State) (f : MemSt → MemSt) : (s.modMem f).colCh = s.colCh := rfl
@[simp] theorem State.modMem_colClu (s : State) (f : MemSt → MemSt) : (s.modMem f).colClu = s.colClu := rfl
@[simp] theorem State.modMem_colDev (s : State) (f : MemSt → MemSt) : (s.modMem f).colDev = s.colDev := rfl
@[simp] theorem State.modMem_flight (s : State) (f : MemSt → MemSt) : (s.modMem f).flight = s.flight := rfl
@[simp] theorem State.modMem_heldDet (s : State) (f : MemSt → MemSt) : (s.modMem f).heldDet = s.heldDet := rfl
@[simp] theorem State.modMem_heldN (s : State) (f : MemSt → MemSt) : (s.modMem f).heldN = s.heldN := rfl
@[simp] theorem State.modMem_conseqs (s : State) (f : MemSt → MemSt) : (s.modMem f).conseqs = s.conseqs := rfl
@[simp] theorem State.modMem_held (s : State) (f : MemSt → MemSt) : (s.modMem f).held = s.held := rfl
@[simp] theorem State.modMem_dev (s : State) (f : MemSt → MemSt) : (s.modMem f).dev = s.dev := rfl
@[simp] theorem State.modMem_ref (s : State) (f : MemSt → MemSt) : (s.modMem f).ref = s.ref := rfl
@[simp] theorem State.modMem_syn (s : State) (f : MemSt → MemSt) : (s.modMem f).syn = s.syn := rfl
@[simp] theorem State.modMem_host (s : State) (f : MemSt → MemSt) : (s.modMem f).host = s.host := rfl
@[simp] theorem State.modMem_flt (s : State) (f : MemSt → MemSt) : (s.modMem f).flt = s.flt := rfl
@[simp] theorem State.modMem_mem (s : State) (f : MemSt → MemSt) : (s.modMem f).mem = f s.mem := rfl
@[simp] theorem State.modMem_sec (s : State) (f : MemSt → MemSt) : (s.modMem f).sec = s.sec := rfl
@[simp] theorem State.modMem_keep (s : State) (f : MemSt → MemSt) : (s.modMem f).keep = s.keep := rfl
@[simp] theorem State.modMem_stackMem (s : State) (f : MemSt → MemSt) : (s.modMem f).stackMem = s.stackMem := rfl
@[simp] theorem State.modMem_wsMem (s : State) (f : MemSt → MemSt) : (s.modMem f).wsMem = s.wsMem := rfl
@[simp] theorem State.modMem_out (s : State) (f : MemSt → MemSt) : (s.modMem f).out = s.out := rfl
@[simp] theorem State.modMem_freeN (s : State) (f : MemSt → MemSt) : (s.modMem f).freeN = s.freeN := rfl

@[simp] theorem State.modSec_pending (s : State) (f : SecSt → SecSt) : (s.modSec f).pending = s.pending := rfl
@[simp] theorem State.modSec_now (s : State) (f : SecSt → SecSt) : (s.modSec f).now = s.now := rfl
@[simp] theorem State.modSec_t (s : State) (f : SecSt → SecSt) : (s.modSec f).t = s.t := rfl
@[simp] theorem State.modSec_gtRun (s : State) (f : SecSt → SecSt) : (s.modSec f).gtRun = s.gtRun := rfl
@[simp] theorem State.modSec_regs (s : State) (f : SecSt → SecSt) : (s.modSec f).regs = s.regs := rfl
@[simp] theorem State.modSec_pgEvt (s : State) (f : SecSt → SecSt) : (s.modSec f).pgEvt = s.pgEvt := rfl
@[simp] theorem State.modSec_evtNow (s : State) (f : SecSt → SecSt) : (s.modSec f).evtNow = s.evtNow := rfl
@[simp] theorem State.modSec_evtDue (s : State) (f : SecSt → SecSt) : (s.modSec f).evtDue = s.evtDue := rfl
@[simp] theorem State.modSec_pgSeq (s : State) (f : SecSt → SecSt) : (s.modSec f).pgSeq = s.pgSeq := rfl
@[simp] theorem State.modSec_snaps (s : State) (f : SecSt → SecSt) : (s.modSec f).snaps = s.snaps := rfl
@[simp] theorem State.modSec_snapSt (s : State) (f : SecSt → SecSt) : (s.modSec f).snapSt = s.snapSt := rfl
@[simp] theorem State.modSec_wins (s : State) (f : SecSt → SecSt) : (s.modSec f).wins = s.wins := rfl
@[simp] theorem State.modSec_slots (s : State) (f : SecSt → SecSt) : (s.modSec f).slots = s.slots := rfl
@[simp] theorem State.modSec_clus (s : State) (f : SecSt → SecSt) : (s.modSec f).clus = s.clus := rfl
@[simp] theorem State.modSec_colCh (s : State) (f : SecSt → SecSt) : (s.modSec f).colCh = s.colCh := rfl
@[simp] theorem State.modSec_colClu (s : State) (f : SecSt → SecSt) : (s.modSec f).colClu = s.colClu := rfl
@[simp] theorem State.modSec_colDev (s : State) (f : SecSt → SecSt) : (s.modSec f).colDev = s.colDev := rfl
@[simp] theorem State.modSec_flight (s : State) (f : SecSt → SecSt) : (s.modSec f).flight = s.flight := rfl
@[simp] theorem State.modSec_heldDet (s : State) (f : SecSt → SecSt) : (s.modSec f).heldDet = s.heldDet := rfl
@[simp] theorem State.modSec_heldN (s : State) (f : SecSt → SecSt) : (s.modSec f).heldN = s.heldN := rfl
@[simp] theorem State.modSec_conseqs (s : State) (f : SecSt → SecSt) : (s.modSec f).conseqs = s.conseqs := rfl
@[simp] theorem State.modSec_held (s : State) (f : SecSt → SecSt) : (s.modSec f).held = s.held := rfl
@[simp] theorem State.modSec_dev (s : State) (f : SecSt → SecSt) : (s.modSec f).dev = s.dev := rfl
@[simp] theorem State.modSec_ref (s : State) (f : SecSt → SecSt) : (s.modSec f).ref = s.ref := rfl
@[simp] theorem State.modSec_syn (s : State) (f : SecSt → SecSt) : (s.modSec f).syn = s.syn := rfl
@[simp] theorem State.modSec_host (s : State) (f : SecSt → SecSt) : (s.modSec f).host = s.host := rfl
@[simp] theorem State.modSec_flt (s : State) (f : SecSt → SecSt) : (s.modSec f).flt = s.flt := rfl
@[simp] theorem State.modSec_mem (s : State) (f : SecSt → SecSt) : (s.modSec f).mem = s.mem := rfl
@[simp] theorem State.modSec_sec (s : State) (f : SecSt → SecSt) : (s.modSec f).sec = f s.sec := rfl
@[simp] theorem State.modSec_keep (s : State) (f : SecSt → SecSt) : (s.modSec f).keep = s.keep := rfl
@[simp] theorem State.modSec_stackMem (s : State) (f : SecSt → SecSt) : (s.modSec f).stackMem = s.stackMem := rfl
@[simp] theorem State.modSec_wsMem (s : State) (f : SecSt → SecSt) : (s.modSec f).wsMem = s.wsMem := rfl
@[simp] theorem State.modSec_out (s : State) (f : SecSt → SecSt) : (s.modSec f).out = s.out := rfl
@[simp] theorem State.modSec_freeN (s : State) (f : SecSt → SecSt) : (s.modSec f).freeN = s.freeN := rfl

@[simp] theorem State.modKeep_pending (s : State) (f : KeepSt → KeepSt) : (s.modKeep f).pending = s.pending := rfl
@[simp] theorem State.modKeep_now (s : State) (f : KeepSt → KeepSt) : (s.modKeep f).now = s.now := rfl
@[simp] theorem State.modKeep_t (s : State) (f : KeepSt → KeepSt) : (s.modKeep f).t = s.t := rfl
@[simp] theorem State.modKeep_gtRun (s : State) (f : KeepSt → KeepSt) : (s.modKeep f).gtRun = s.gtRun := rfl
@[simp] theorem State.modKeep_regs (s : State) (f : KeepSt → KeepSt) : (s.modKeep f).regs = s.regs := rfl
@[simp] theorem State.modKeep_pgEvt (s : State) (f : KeepSt → KeepSt) : (s.modKeep f).pgEvt = s.pgEvt := rfl
@[simp] theorem State.modKeep_evtNow (s : State) (f : KeepSt → KeepSt) : (s.modKeep f).evtNow = s.evtNow := rfl
@[simp] theorem State.modKeep_evtDue (s : State) (f : KeepSt → KeepSt) : (s.modKeep f).evtDue = s.evtDue := rfl
@[simp] theorem State.modKeep_pgSeq (s : State) (f : KeepSt → KeepSt) : (s.modKeep f).pgSeq = s.pgSeq := rfl
@[simp] theorem State.modKeep_snaps (s : State) (f : KeepSt → KeepSt) : (s.modKeep f).snaps = s.snaps := rfl
@[simp] theorem State.modKeep_snapSt (s : State) (f : KeepSt → KeepSt) : (s.modKeep f).snapSt = s.snapSt := rfl
@[simp] theorem State.modKeep_wins (s : State) (f : KeepSt → KeepSt) : (s.modKeep f).wins = s.wins := rfl
@[simp] theorem State.modKeep_slots (s : State) (f : KeepSt → KeepSt) : (s.modKeep f).slots = s.slots := rfl
@[simp] theorem State.modKeep_clus (s : State) (f : KeepSt → KeepSt) : (s.modKeep f).clus = s.clus := rfl
@[simp] theorem State.modKeep_colCh (s : State) (f : KeepSt → KeepSt) : (s.modKeep f).colCh = s.colCh := rfl
@[simp] theorem State.modKeep_colClu (s : State) (f : KeepSt → KeepSt) : (s.modKeep f).colClu = s.colClu := rfl
@[simp] theorem State.modKeep_colDev (s : State) (f : KeepSt → KeepSt) : (s.modKeep f).colDev = s.colDev := rfl
@[simp] theorem State.modKeep_flight (s : State) (f : KeepSt → KeepSt) : (s.modKeep f).flight = s.flight := rfl
@[simp] theorem State.modKeep_heldDet (s : State) (f : KeepSt → KeepSt) : (s.modKeep f).heldDet = s.heldDet := rfl
@[simp] theorem State.modKeep_heldN (s : State) (f : KeepSt → KeepSt) : (s.modKeep f).heldN = s.heldN := rfl
@[simp] theorem State.modKeep_conseqs (s : State) (f : KeepSt → KeepSt) : (s.modKeep f).conseqs = s.conseqs := rfl
@[simp] theorem State.modKeep_held (s : State) (f : KeepSt → KeepSt) : (s.modKeep f).held = s.held := rfl
@[simp] theorem State.modKeep_dev (s : State) (f : KeepSt → KeepSt) : (s.modKeep f).dev = s.dev := rfl
@[simp] theorem State.modKeep_ref (s : State) (f : KeepSt → KeepSt) : (s.modKeep f).ref = s.ref := rfl
@[simp] theorem State.modKeep_syn (s : State) (f : KeepSt → KeepSt) : (s.modKeep f).syn = s.syn := rfl
@[simp] theorem State.modKeep_host (s : State) (f : KeepSt → KeepSt) : (s.modKeep f).host = s.host := rfl
@[simp] theorem State.modKeep_flt (s : State) (f : KeepSt → KeepSt) : (s.modKeep f).flt = s.flt := rfl
@[simp] theorem State.modKeep_mem (s : State) (f : KeepSt → KeepSt) : (s.modKeep f).mem = s.mem := rfl
@[simp] theorem State.modKeep_sec (s : State) (f : KeepSt → KeepSt) : (s.modKeep f).sec = s.sec := rfl
@[simp] theorem State.modKeep_keep (s : State) (f : KeepSt → KeepSt) : (s.modKeep f).keep = f s.keep := rfl
@[simp] theorem State.modKeep_stackMem (s : State) (f : KeepSt → KeepSt) : (s.modKeep f).stackMem = s.stackMem := rfl
@[simp] theorem State.modKeep_wsMem (s : State) (f : KeepSt → KeepSt) : (s.modKeep f).wsMem = s.wsMem := rfl
@[simp] theorem State.modKeep_out (s : State) (f : KeepSt → KeepSt) : (s.modKeep f).out = s.out := rfl
@[simp] theorem State.modKeep_freeN (s : State) (f : KeepSt → KeepSt) : (s.modKeep f).freeN = s.freeN := rfl

@[simp] theorem State.setStack_pending (s : State) (m : List Host.Cell) : (s.setStack m).pending = s.pending := rfl
@[simp] theorem State.setStack_now (s : State) (m : List Host.Cell) : (s.setStack m).now = s.now := rfl
@[simp] theorem State.setStack_t (s : State) (m : List Host.Cell) : (s.setStack m).t = s.t := rfl
@[simp] theorem State.setStack_gtRun (s : State) (m : List Host.Cell) : (s.setStack m).gtRun = s.gtRun := rfl
@[simp] theorem State.setStack_regs (s : State) (m : List Host.Cell) : (s.setStack m).regs = s.regs := rfl
@[simp] theorem State.setStack_pgEvt (s : State) (m : List Host.Cell) : (s.setStack m).pgEvt = s.pgEvt := rfl
@[simp] theorem State.setStack_evtNow (s : State) (m : List Host.Cell) : (s.setStack m).evtNow = s.evtNow := rfl
@[simp] theorem State.setStack_evtDue (s : State) (m : List Host.Cell) : (s.setStack m).evtDue = s.evtDue := rfl
@[simp] theorem State.setStack_pgSeq (s : State) (m : List Host.Cell) : (s.setStack m).pgSeq = s.pgSeq := rfl
@[simp] theorem State.setStack_snaps (s : State) (m : List Host.Cell) : (s.setStack m).snaps = s.snaps := rfl
@[simp] theorem State.setStack_snapSt (s : State) (m : List Host.Cell) : (s.setStack m).snapSt = s.snapSt := rfl
@[simp] theorem State.setStack_wins (s : State) (m : List Host.Cell) : (s.setStack m).wins = s.wins := rfl
@[simp] theorem State.setStack_slots (s : State) (m : List Host.Cell) : (s.setStack m).slots = s.slots := rfl
@[simp] theorem State.setStack_clus (s : State) (m : List Host.Cell) : (s.setStack m).clus = s.clus := rfl
@[simp] theorem State.setStack_colCh (s : State) (m : List Host.Cell) : (s.setStack m).colCh = s.colCh := rfl
@[simp] theorem State.setStack_colClu (s : State) (m : List Host.Cell) : (s.setStack m).colClu = s.colClu := rfl
@[simp] theorem State.setStack_colDev (s : State) (m : List Host.Cell) : (s.setStack m).colDev = s.colDev := rfl
@[simp] theorem State.setStack_flight (s : State) (m : List Host.Cell) : (s.setStack m).flight = s.flight := rfl
@[simp] theorem State.setStack_heldDet (s : State) (m : List Host.Cell) : (s.setStack m).heldDet = s.heldDet := rfl
@[simp] theorem State.setStack_heldN (s : State) (m : List Host.Cell) : (s.setStack m).heldN = s.heldN := rfl
@[simp] theorem State.setStack_conseqs (s : State) (m : List Host.Cell) : (s.setStack m).conseqs = s.conseqs := rfl
@[simp] theorem State.setStack_held (s : State) (m : List Host.Cell) : (s.setStack m).held = s.held := rfl
@[simp] theorem State.setStack_dev (s : State) (m : List Host.Cell) : (s.setStack m).dev = s.dev := rfl
@[simp] theorem State.setStack_ref (s : State) (m : List Host.Cell) : (s.setStack m).ref = s.ref := rfl
@[simp] theorem State.setStack_syn (s : State) (m : List Host.Cell) : (s.setStack m).syn = s.syn := rfl
@[simp] theorem State.setStack_host (s : State) (m : List Host.Cell) : (s.setStack m).host = s.host := rfl
@[simp] theorem State.setStack_flt (s : State) (m : List Host.Cell) : (s.setStack m).flt = s.flt := rfl
@[simp] theorem State.setStack_mem (s : State) (m : List Host.Cell) : (s.setStack m).mem = s.mem := rfl
@[simp] theorem State.setStack_sec (s : State) (m : List Host.Cell) : (s.setStack m).sec = s.sec := rfl
@[simp] theorem State.setStack_keep (s : State) (m : List Host.Cell) : (s.setStack m).keep = s.keep := rfl
@[simp] theorem State.setStack_stackMem (s : State) (m : List Host.Cell) : (s.setStack m).stackMem = m := rfl
@[simp] theorem State.setStack_wsMem (s : State) (m : List Host.Cell) : (s.setStack m).wsMem = s.wsMem := rfl
@[simp] theorem State.setStack_out (s : State) (m : List Host.Cell) : (s.setStack m).out = s.out := rfl
@[simp] theorem State.setStack_freeN (s : State) (m : List Host.Cell) : (s.setStack m).freeN = s.freeN := rfl

@[simp] theorem State.setWs_pending (s : State) (m : List Host.Cell) : (s.setWs m).pending = s.pending := rfl
@[simp] theorem State.setWs_now (s : State) (m : List Host.Cell) : (s.setWs m).now = s.now := rfl
@[simp] theorem State.setWs_t (s : State) (m : List Host.Cell) : (s.setWs m).t = s.t := rfl
@[simp] theorem State.setWs_gtRun (s : State) (m : List Host.Cell) : (s.setWs m).gtRun = s.gtRun := rfl
@[simp] theorem State.setWs_regs (s : State) (m : List Host.Cell) : (s.setWs m).regs = s.regs := rfl
@[simp] theorem State.setWs_pgEvt (s : State) (m : List Host.Cell) : (s.setWs m).pgEvt = s.pgEvt := rfl
@[simp] theorem State.setWs_evtNow (s : State) (m : List Host.Cell) : (s.setWs m).evtNow = s.evtNow := rfl
@[simp] theorem State.setWs_evtDue (s : State) (m : List Host.Cell) : (s.setWs m).evtDue = s.evtDue := rfl
@[simp] theorem State.setWs_pgSeq (s : State) (m : List Host.Cell) : (s.setWs m).pgSeq = s.pgSeq := rfl
@[simp] theorem State.setWs_snaps (s : State) (m : List Host.Cell) : (s.setWs m).snaps = s.snaps := rfl
@[simp] theorem State.setWs_snapSt (s : State) (m : List Host.Cell) : (s.setWs m).snapSt = s.snapSt := rfl
@[simp] theorem State.setWs_wins (s : State) (m : List Host.Cell) : (s.setWs m).wins = s.wins := rfl
@[simp] theorem State.setWs_slots (s : State) (m : List Host.Cell) : (s.setWs m).slots = s.slots := rfl
@[simp] theorem State.setWs_clus (s : State) (m : List Host.Cell) : (s.setWs m).clus = s.clus := rfl
@[simp] theorem State.setWs_colCh (s : State) (m : List Host.Cell) : (s.setWs m).colCh = s.colCh := rfl
@[simp] theorem State.setWs_colClu (s : State) (m : List Host.Cell) : (s.setWs m).colClu = s.colClu := rfl
@[simp] theorem State.setWs_colDev (s : State) (m : List Host.Cell) : (s.setWs m).colDev = s.colDev := rfl
@[simp] theorem State.setWs_flight (s : State) (m : List Host.Cell) : (s.setWs m).flight = s.flight := rfl
@[simp] theorem State.setWs_heldDet (s : State) (m : List Host.Cell) : (s.setWs m).heldDet = s.heldDet := rfl
@[simp] theorem State.setWs_heldN (s : State) (m : List Host.Cell) : (s.setWs m).heldN = s.heldN := rfl
@[simp] theorem State.setWs_conseqs (s : State) (m : List Host.Cell) : (s.setWs m).conseqs = s.conseqs := rfl
@[simp] theorem State.setWs_held (s : State) (m : List Host.Cell) : (s.setWs m).held = s.held := rfl
@[simp] theorem State.setWs_dev (s : State) (m : List Host.Cell) : (s.setWs m).dev = s.dev := rfl
@[simp] theorem State.setWs_ref (s : State) (m : List Host.Cell) : (s.setWs m).ref = s.ref := rfl
@[simp] theorem State.setWs_syn (s : State) (m : List Host.Cell) : (s.setWs m).syn = s.syn := rfl
@[simp] theorem State.setWs_host (s : State) (m : List Host.Cell) : (s.setWs m).host = s.host := rfl
@[simp] theorem State.setWs_flt (s : State) (m : List Host.Cell) : (s.setWs m).flt = s.flt := rfl
@[simp] theorem State.setWs_mem (s : State) (m : List Host.Cell) : (s.setWs m).mem = s.mem := rfl
@[simp] theorem State.setWs_sec (s : State) (m : List Host.Cell) : (s.setWs m).sec = s.sec := rfl
@[simp] theorem State.setWs_keep (s : State) (m : List Host.Cell) : (s.setWs m).keep = s.keep := rfl
@[simp] theorem State.setWs_stackMem (s : State) (m : List Host.Cell) : (s.setWs m).stackMem = s.stackMem := rfl
@[simp] theorem State.setWs_wsMem (s : State) (m : List Host.Cell) : (s.setWs m).wsMem = m := rfl
@[simp] theorem State.setWs_out (s : State) (m : List Host.Cell) : (s.setWs m).out = s.out := rfl
@[simp] theorem State.setWs_freeN (s : State) (m : List Host.Cell) : (s.setWs m).freeN = s.freeN := rfl

@[simp] theorem State.bumpSeq_pending (s : State) (p : Nat) : (s.bumpSeq p).pending = s.pending := rfl
@[simp] theorem State.bumpSeq_now (s : State) (p : Nat) : (s.bumpSeq p).now = s.now := rfl
@[simp] theorem State.bumpSeq_t (s : State) (p : Nat) : (s.bumpSeq p).t = s.t := rfl
@[simp] theorem State.bumpSeq_gtRun (s : State) (p : Nat) : (s.bumpSeq p).gtRun = s.gtRun := rfl
@[simp] theorem State.bumpSeq_regs (s : State) (p : Nat) : (s.bumpSeq p).regs = s.regs := rfl
@[simp] theorem State.bumpSeq_pgEvt (s : State) (p : Nat) : (s.bumpSeq p).pgEvt = s.pgEvt := rfl
@[simp] theorem State.bumpSeq_evtNow (s : State) (p : Nat) : (s.bumpSeq p).evtNow = s.evtNow := rfl
@[simp] theorem State.bumpSeq_evtDue (s : State) (p : Nat) : (s.bumpSeq p).evtDue = s.evtDue := rfl
@[simp] theorem State.bumpSeq_pgSeq (s : State) (p : Nat) : (s.bumpSeq p).pgSeq = Tab.set 0 s.pgSeq p (Tab.get 0 s.pgSeq p + 1) := rfl
@[simp] theorem State.bumpSeq_snaps (s : State) (p : Nat) : (s.bumpSeq p).snaps = s.snaps := rfl
@[simp] theorem State.bumpSeq_snapSt (s : State) (p : Nat) : (s.bumpSeq p).snapSt = s.snapSt := rfl
@[simp] theorem State.bumpSeq_wins (s : State) (p : Nat) : (s.bumpSeq p).wins = s.wins := rfl
@[simp] theorem State.bumpSeq_slots (s : State) (p : Nat) : (s.bumpSeq p).slots = s.slots := rfl
@[simp] theorem State.bumpSeq_clus (s : State) (p : Nat) : (s.bumpSeq p).clus = s.clus := rfl
@[simp] theorem State.bumpSeq_colCh (s : State) (p : Nat) : (s.bumpSeq p).colCh = s.colCh := rfl
@[simp] theorem State.bumpSeq_colClu (s : State) (p : Nat) : (s.bumpSeq p).colClu = s.colClu := rfl
@[simp] theorem State.bumpSeq_colDev (s : State) (p : Nat) : (s.bumpSeq p).colDev = s.colDev := rfl
@[simp] theorem State.bumpSeq_flight (s : State) (p : Nat) : (s.bumpSeq p).flight = s.flight := rfl
@[simp] theorem State.bumpSeq_heldDet (s : State) (p : Nat) : (s.bumpSeq p).heldDet = s.heldDet := rfl
@[simp] theorem State.bumpSeq_heldN (s : State) (p : Nat) : (s.bumpSeq p).heldN = s.heldN := rfl
@[simp] theorem State.bumpSeq_conseqs (s : State) (p : Nat) : (s.bumpSeq p).conseqs = s.conseqs := rfl
@[simp] theorem State.bumpSeq_held (s : State) (p : Nat) : (s.bumpSeq p).held = s.held := rfl
@[simp] theorem State.bumpSeq_dev (s : State) (p : Nat) : (s.bumpSeq p).dev = s.dev := rfl
@[simp] theorem State.bumpSeq_ref (s : State) (p : Nat) : (s.bumpSeq p).ref = s.ref := rfl
@[simp] theorem State.bumpSeq_syn (s : State) (p : Nat) : (s.bumpSeq p).syn = s.syn := rfl
@[simp] theorem State.bumpSeq_host (s : State) (p : Nat) : (s.bumpSeq p).host = s.host := rfl
@[simp] theorem State.bumpSeq_flt (s : State) (p : Nat) : (s.bumpSeq p).flt = s.flt := rfl
@[simp] theorem State.bumpSeq_mem (s : State) (p : Nat) : (s.bumpSeq p).mem = s.mem := rfl
@[simp] theorem State.bumpSeq_sec (s : State) (p : Nat) : (s.bumpSeq p).sec = s.sec := rfl
@[simp] theorem State.bumpSeq_keep (s : State) (p : Nat) : (s.bumpSeq p).keep = s.keep := rfl
@[simp] theorem State.bumpSeq_stackMem (s : State) (p : Nat) : (s.bumpSeq p).stackMem = s.stackMem := rfl
@[simp] theorem State.bumpSeq_wsMem (s : State) (p : Nat) : (s.bumpSeq p).wsMem = s.wsMem := rfl
@[simp] theorem State.bumpSeq_out (s : State) (p : Nat) : (s.bumpSeq p).out = s.out := rfl
@[simp] theorem State.bumpSeq_freeN (s : State) (p : Nat) : (s.bumpSeq p).freeN = s.freeN := rfl

@[simp] theorem State.emit_pending (s : State) (o : Out) : (s.emit o).pending = s.pending := rfl
@[simp] theorem State.emit_now (s : State) (o : Out) : (s.emit o).now = s.now := rfl
@[simp] theorem State.emit_t (s : State) (o : Out) : (s.emit o).t = s.t := rfl
@[simp] theorem State.emit_gtRun (s : State) (o : Out) : (s.emit o).gtRun = s.gtRun := rfl
@[simp] theorem State.emit_regs (s : State) (o : Out) : (s.emit o).regs = s.regs := rfl
@[simp] theorem State.emit_pgEvt (s : State) (o : Out) : (s.emit o).pgEvt = s.pgEvt := rfl
@[simp] theorem State.emit_evtNow (s : State) (o : Out) : (s.emit o).evtNow = s.evtNow := rfl
@[simp] theorem State.emit_evtDue (s : State) (o : Out) : (s.emit o).evtDue = s.evtDue := rfl
@[simp] theorem State.emit_pgSeq (s : State) (o : Out) : (s.emit o).pgSeq = s.pgSeq := rfl
@[simp] theorem State.emit_snaps (s : State) (o : Out) : (s.emit o).snaps = s.snaps := rfl
@[simp] theorem State.emit_snapSt (s : State) (o : Out) : (s.emit o).snapSt = s.snapSt := rfl
@[simp] theorem State.emit_wins (s : State) (o : Out) : (s.emit o).wins = s.wins := rfl
@[simp] theorem State.emit_slots (s : State) (o : Out) : (s.emit o).slots = s.slots := rfl
@[simp] theorem State.emit_clus (s : State) (o : Out) : (s.emit o).clus = s.clus := rfl
@[simp] theorem State.emit_colCh (s : State) (o : Out) : (s.emit o).colCh = s.colCh := rfl
@[simp] theorem State.emit_colClu (s : State) (o : Out) : (s.emit o).colClu = s.colClu := rfl
@[simp] theorem State.emit_colDev (s : State) (o : Out) : (s.emit o).colDev = s.colDev := rfl
@[simp] theorem State.emit_flight (s : State) (o : Out) : (s.emit o).flight = s.flight := rfl
@[simp] theorem State.emit_heldDet (s : State) (o : Out) : (s.emit o).heldDet = s.heldDet := rfl
@[simp] theorem State.emit_heldN (s : State) (o : Out) : (s.emit o).heldN = s.heldN := rfl
@[simp] theorem State.emit_conseqs (s : State) (o : Out) : (s.emit o).conseqs = s.conseqs := rfl
@[simp] theorem State.emit_held (s : State) (o : Out) : (s.emit o).held = s.held := rfl
@[simp] theorem State.emit_dev (s : State) (o : Out) : (s.emit o).dev = s.dev := rfl
@[simp] theorem State.emit_ref (s : State) (o : Out) : (s.emit o).ref = s.ref := rfl
@[simp] theorem State.emit_syn (s : State) (o : Out) : (s.emit o).syn = s.syn := rfl
@[simp] theorem State.emit_host (s : State) (o : Out) : (s.emit o).host = s.host := rfl
@[simp] theorem State.emit_flt (s : State) (o : Out) : (s.emit o).flt = s.flt := rfl
@[simp] theorem State.emit_mem (s : State) (o : Out) : (s.emit o).mem = s.mem := rfl
@[simp] theorem State.emit_sec (s : State) (o : Out) : (s.emit o).sec = s.sec := rfl
@[simp] theorem State.emit_keep (s : State) (o : Out) : (s.emit o).keep = s.keep := rfl
@[simp] theorem State.emit_stackMem (s : State) (o : Out) : (s.emit o).stackMem = s.stackMem := rfl
@[simp] theorem State.emit_wsMem (s : State) (o : Out) : (s.emit o).wsMem = s.wsMem := rfl
@[simp] theorem State.emit_out (s : State) (o : Out) : (s.emit o).out = s.out ++ [o] := rfl
@[simp] theorem State.emit_freeN (s : State) (o : Out) : (s.emit o).freeN = s.freeN := rfl

@[simp] theorem State.setReg_pending (s : State) (a v : Nat) : (s.setReg a v).pending = s.pending := rfl
@[simp] theorem State.setReg_now (s : State) (a v : Nat) : (s.setReg a v).now = s.now := rfl
@[simp] theorem State.setReg_t (s : State) (a v : Nat) : (s.setReg a v).t = s.t := rfl
@[simp] theorem State.setReg_gtRun (s : State) (a v : Nat) : (s.setReg a v).gtRun = s.gtRun := rfl
@[simp] theorem State.setReg_pgEvt (s : State) (a v : Nat) : (s.setReg a v).pgEvt = s.pgEvt := rfl
@[simp] theorem State.setReg_evtNow (s : State) (a v : Nat) : (s.setReg a v).evtNow = s.evtNow := rfl
@[simp] theorem State.setReg_evtDue (s : State) (a v : Nat) : (s.setReg a v).evtDue = s.evtDue := rfl
@[simp] theorem State.setReg_pgSeq (s : State) (a v : Nat) : (s.setReg a v).pgSeq = s.pgSeq := rfl
@[simp] theorem State.setReg_snaps (s : State) (a v : Nat) : (s.setReg a v).snaps = s.snaps := rfl
@[simp] theorem State.setReg_snapSt (s : State) (a v : Nat) : (s.setReg a v).snapSt = s.snapSt := rfl
@[simp] theorem State.setReg_wins (s : State) (a v : Nat) : (s.setReg a v).wins = s.wins := rfl
@[simp] theorem State.setReg_slots (s : State) (a v : Nat) : (s.setReg a v).slots = s.slots := rfl
@[simp] theorem State.setReg_clus (s : State) (a v : Nat) : (s.setReg a v).clus = s.clus := rfl
@[simp] theorem State.setReg_colCh (s : State) (a v : Nat) : (s.setReg a v).colCh = s.colCh := rfl
@[simp] theorem State.setReg_colClu (s : State) (a v : Nat) : (s.setReg a v).colClu = s.colClu := rfl
@[simp] theorem State.setReg_colDev (s : State) (a v : Nat) : (s.setReg a v).colDev = s.colDev := rfl
@[simp] theorem State.setReg_flight (s : State) (a v : Nat) : (s.setReg a v).flight = s.flight := rfl
@[simp] theorem State.setReg_heldDet (s : State) (a v : Nat) : (s.setReg a v).heldDet = s.heldDet := rfl
@[simp] theorem State.setReg_heldN (s : State) (a v : Nat) : (s.setReg a v).heldN = s.heldN := rfl
@[simp] theorem State.setReg_conseqs (s : State) (a v : Nat) : (s.setReg a v).conseqs = s.conseqs := rfl
@[simp] theorem State.setReg_held (s : State) (a v : Nat) : (s.setReg a v).held = s.held := rfl
@[simp] theorem State.setReg_dev (s : State) (a v : Nat) : (s.setReg a v).dev = s.dev := rfl
@[simp] theorem State.setReg_ref (s : State) (a v : Nat) : (s.setReg a v).ref = s.ref := rfl
@[simp] theorem State.setReg_syn (s : State) (a v : Nat) : (s.setReg a v).syn = s.syn := rfl
@[simp] theorem State.setReg_host (s : State) (a v : Nat) : (s.setReg a v).host = s.host := rfl
@[simp] theorem State.setReg_flt (s : State) (a v : Nat) : (s.setReg a v).flt = s.flt := rfl
@[simp] theorem State.setReg_mem (s : State) (a v : Nat) : (s.setReg a v).mem = s.mem := rfl
@[simp] theorem State.setReg_sec (s : State) (a v : Nat) : (s.setReg a v).sec = s.sec := rfl
@[simp] theorem State.setReg_keep (s : State) (a v : Nat) : (s.setReg a v).keep = s.keep := rfl
@[simp] theorem State.setReg_stackMem (s : State) (a v : Nat) : (s.setReg a v).stackMem = s.stackMem := rfl
@[simp] theorem State.setReg_wsMem (s : State) (a v : Nat) : (s.setReg a v).wsMem = s.wsMem := rfl
@[simp] theorem State.setReg_out (s : State) (a v : Nat) : (s.setReg a v).out = s.out := rfl
@[simp] theorem State.setReg_freeN (s : State) (a v : Nat) : (s.setReg a v).freeN = s.freeN := rfl

@[simp] theorem State.dropRegs_pending (s : State) (p : Nat → Bool) : (s.dropRegs p).pending = s.pending := rfl
@[simp] theorem State.dropRegs_now (s : State) (p : Nat → Bool) : (s.dropRegs p).now = s.now := rfl
@[simp] theorem State.dropRegs_t (s : State) (p : Nat → Bool) : (s.dropRegs p).t = s.t := rfl
@[simp] theorem State.dropRegs_gtRun (s : State) (p : Nat → Bool) : (s.dropRegs p).gtRun = s.gtRun := rfl
@[simp] theorem State.dropRegs_pgEvt (s : State) (p : Nat → Bool) : (s.dropRegs p).pgEvt = s.pgEvt := rfl
@[simp] theorem State.dropRegs_evtNow (s : State) (p : Nat → Bool) : (s.dropRegs p).evtNow = s.evtNow := rfl
@[simp] theorem State.dropRegs_evtDue (s : State) (p : Nat → Bool) : (s.dropRegs p).evtDue = s.evtDue := rfl
@[simp] theorem State.dropRegs_pgSeq (s : State) (p : Nat → Bool) : (s.dropRegs p).pgSeq = s.pgSeq := rfl
@[simp] theorem State.dropRegs_snaps (s : State) (p : Nat → Bool) : (s.dropRegs p).snaps = s.snaps := rfl
@[simp] theorem State.dropRegs_snapSt (s : State) (p : Nat → Bool) : (s.dropRegs p).snapSt = s.snapSt := rfl
@[simp] theorem State.dropRegs_wins (s : State) (p : Nat → Bool) : (s.dropRegs p).wins = s.wins := rfl
@[simp] theorem State.dropRegs_slots (s : State) (p : Nat → Bool) : (s.dropRegs p).slots = s.slots := rfl
@[simp] theorem State.dropRegs_clus (s : State) (p : Nat → Bool) : (s.dropRegs p).clus = s.clus := rfl
@[simp] theorem State.dropRegs_colCh (s : State) (p : Nat → Bool) : (s.dropRegs p).colCh = s.colCh := rfl
@[simp] theorem State.dropRegs_colClu (s : State) (p : Nat → Bool) : (s.dropRegs p).colClu = s.colClu := rfl
@[simp] theorem State.dropRegs_colDev (s : State) (p : Nat → Bool) : (s.dropRegs p).colDev = s.colDev := rfl
@[simp] theorem State.dropRegs_flight (s : State) (p : Nat → Bool) : (s.dropRegs p).flight = s.flight := rfl
@[simp] theorem State.dropRegs_heldDet (s : State) (p : Nat → Bool) : (s.dropRegs p).heldDet = s.heldDet := rfl
@[simp] theorem State.dropRegs_heldN (s : State) (p : Nat → Bool) : (s.dropRegs p).heldN = s.heldN := rfl
@[simp] theorem State.dropRegs_conseqs (s : State) (p : Nat → Bool) : (s.dropRegs p).conseqs = s.conseqs := rfl
@[simp] theorem State.dropRegs_held (s : State) (p : Nat → Bool) : (s.dropRegs p).held = s.held := rfl
@[simp] theorem State.dropRegs_dev (s : State) (p : Nat → Bool) : (s.dropRegs p).dev = s.dev := rfl
@[simp] theorem State.dropRegs_ref (s : State) (p : Nat → Bool) : (s.dropRegs p).ref = s.ref := rfl
@[simp] theorem State.dropRegs_syn (s : State) (p : Nat → Bool) : (s.dropRegs p).syn = s.syn := rfl
@[simp] theorem State.dropRegs_host (s : State) (p : Nat → Bool) : (s.dropRegs p).host = s.host := rfl
@[simp] theorem State.dropRegs_flt (s : State) (p : Nat → Bool) : (s.dropRegs p).flt = s.flt := rfl
@[simp] theorem State.dropRegs_mem (s : State) (p : Nat → Bool) : (s.dropRegs p).mem = s.mem := rfl
@[simp] theorem State.dropRegs_sec (s : State) (p : Nat → Bool) : (s.dropRegs p).sec = s.sec := rfl
@[simp] theorem State.dropRegs_keep (s : State) (p : Nat → Bool) : (s.dropRegs p).keep = s.keep := rfl
@[simp] theorem State.dropRegs_stackMem (s : State) (p : Nat → Bool) : (s.dropRegs p).stackMem = s.stackMem := rfl
@[simp] theorem State.dropRegs_wsMem (s : State) (p : Nat → Bool) : (s.dropRegs p).wsMem = s.wsMem := rfl
@[simp] theorem State.dropRegs_out (s : State) (p : Nat → Bool) : (s.dropRegs p).out = s.out := rfl
@[simp] theorem State.dropRegs_freeN (s : State) (p : Nat → Bool) : (s.dropRegs p).freeN = s.freeN := rfl

@[simp] theorem State.draw_pending (s : State) : s.draw.2.pending = s.pending := rfl
@[simp] theorem State.draw_now (s : State) : s.draw.2.now = s.now := rfl
@[simp] theorem State.draw_t (s : State) : s.draw.2.t = s.t := rfl
@[simp] theorem State.draw_gtRun (s : State) : s.draw.2.gtRun = s.gtRun := rfl
@[simp] theorem State.draw_regs (s : State) : s.draw.2.regs = s.regs := rfl
@[simp] theorem State.draw_pgEvt (s : State) : s.draw.2.pgEvt = s.pgEvt := rfl
@[simp] theorem State.draw_evtNow (s : State) : s.draw.2.evtNow = s.evtNow := rfl
@[simp] theorem State.draw_evtDue (s : State) : s.draw.2.evtDue = s.evtDue := rfl
@[simp] theorem State.draw_pgSeq (s : State) : s.draw.2.pgSeq = s.pgSeq := rfl
@[simp] theorem State.draw_snaps (s : State) : s.draw.2.snaps = s.snaps := rfl
@[simp] theorem State.draw_snapSt (s : State) : s.draw.2.snapSt = s.snapSt := rfl
@[simp] theorem State.draw_wins (s : State) : s.draw.2.wins = s.wins := rfl
@[simp] theorem State.draw_slots (s : State) : s.draw.2.slots = s.slots := rfl
@[simp] theorem State.draw_clus (s : State) : s.draw.2.clus = s.clus := rfl
@[simp] theorem State.draw_colCh (s : State) : s.draw.2.colCh = s.colCh := rfl
@[simp] theorem State.draw_colClu (s : State) : s.draw.2.colClu = s.colClu := rfl
@[simp] theorem State.draw_colDev (s : State) : s.draw.2.colDev = s.colDev := rfl
@[simp] theorem State.draw_flight (s : State) : s.draw.2.flight = s.flight := rfl
@[simp] theorem State.draw_heldDet (s : State) : s.draw.2.heldDet = s.heldDet := rfl
@[simp] theorem State.draw_heldN (s : State) : s.draw.2.heldN = s.heldN := rfl
@[simp] theorem State.draw_conseqs (s : State) : s.draw.2.conseqs = s.conseqs := rfl
@[simp] theorem State.draw_held (s : State) : s.draw.2.held = s.held := rfl
@[simp] theorem State.draw_dev (s : State) : s.draw.2.dev = s.dev := rfl
@[simp] theorem State.draw_ref (s : State) : s.draw.2.ref = s.ref := rfl
@[simp] theorem State.draw_syn (s : State) : s.draw.2.syn = s.syn := rfl
@[simp] theorem State.draw_host (s : State) : s.draw.2.host = s.host := rfl
@[simp] theorem State.draw_flt (s : State) : s.draw.2.flt = s.flt := rfl
@[simp] theorem State.draw_mem (s : State) : s.draw.2.mem = s.mem := rfl
@[simp] theorem State.draw_sec (s : State) : s.draw.2.sec = s.sec := rfl
@[simp] theorem State.draw_keep (s : State) : s.draw.2.keep = s.keep := rfl
@[simp] theorem State.draw_stackMem (s : State) : s.draw.2.stackMem = s.stackMem := rfl
@[simp] theorem State.draw_wsMem (s : State) : s.draw.2.wsMem = s.wsMem := rfl
@[simp] theorem State.draw_out (s : State) : s.draw.2.out = s.out := rfl
@[simp] theorem State.draw_freeN (s : State) : s.draw.2.freeN = s.freeN + 1 := rfl
@[simp] theorem State.draw_val (s : State) : s.draw.1 = Config.freeValue s.freeN := rfl

/-! Windows, slots and clusters. -/

@[simp] theorem State.win_modWin (s : State) (w v : Nat) (f : Win → Win) : (s.modWin w f).win v = if w = v then f (s.win w) else s.win v :=
  Tab.get_set ..
@[simp] theorem State.slot_modSlot (s : State) (k j : Nat) (f : Slot → Slot) : (s.modSlot k f).slot j = if k = j then f (s.slot k) else s.slot j :=
  Tab.get_set ..
@[simp] theorem State.clu_modClu (s : State) (c d : Nat) (f : Clu → Clu) : (s.modClu c f).clu d = if c = d then f (s.clu c) else s.clu d :=
  Tab.get_set ..
@[simp] theorem State.slot_modWin (s : State) (w : Nat) (f : Win → Win) (i : Nat) : (s.modWin w f).slot i = s.slot i := rfl
@[simp] theorem State.clu_modWin (s : State) (w : Nat) (f : Win → Win) (i : Nat) : (s.modWin w f).clu i = s.clu i := rfl
@[simp] theorem State.win_modSlot (s : State) (k : Nat) (f : Slot → Slot) (i : Nat) : (s.modSlot k f).win i = s.win i := rfl
@[simp] theorem State.clu_modSlot (s : State) (k : Nat) (f : Slot → Slot) (i : Nat) : (s.modSlot k f).clu i = s.clu i := rfl
@[simp] theorem State.win_modClu (s : State) (c : Nat) (f : Clu → Clu) (i : Nat) : (s.modClu c f).win i = s.win i := rfl
@[simp] theorem State.slot_modClu (s : State) (c : Nat) (f : Clu → Clu) (i : Nat) : (s.modClu c f).slot i = s.slot i := rfl
@[simp] theorem State.win_modDev (s : State) (f : DevSt → DevSt) (i : Nat) : (s.modDev f).win i = s.win i := rfl
@[simp] theorem State.slot_modDev (s : State) (f : DevSt → DevSt) (i : Nat) : (s.modDev f).slot i = s.slot i := rfl
@[simp] theorem State.clu_modDev (s : State) (f : DevSt → DevSt) (i : Nat) : (s.modDev f).clu i = s.clu i := rfl
@[simp] theorem State.win_modRef (s : State) (f : RefSt → RefSt) (i : Nat) : (s.modRef f).win i = s.win i := rfl
@[simp] theorem State.slot_modRef (s : State) (f : RefSt → RefSt) (i : Nat) : (s.modRef f).slot i = s.slot i := rfl
@[simp] theorem State.clu_modRef (s : State) (f : RefSt → RefSt) (i : Nat) : (s.modRef f).clu i = s.clu i := rfl
@[simp] theorem State.win_modSyn (s : State) (f : SynSt → SynSt) (i : Nat) : (s.modSyn f).win i = s.win i := rfl
@[simp] theorem State.slot_modSyn (s : State) (f : SynSt → SynSt) (i : Nat) : (s.modSyn f).slot i = s.slot i := rfl
@[simp] theorem State.clu_modSyn (s : State) (f : SynSt → SynSt) (i : Nat) : (s.modSyn f).clu i = s.clu i := rfl
@[simp] theorem State.win_modHost (s : State) (f : HostSt → HostSt) (i : Nat) : (s.modHost f).win i = s.win i := rfl
@[simp] theorem State.slot_modHost (s : State) (f : HostSt → HostSt) (i : Nat) : (s.modHost f).slot i = s.slot i := rfl
@[simp] theorem State.clu_modHost (s : State) (f : HostSt → HostSt) (i : Nat) : (s.modHost f).clu i = s.clu i := rfl
@[simp] theorem State.win_modFlt (s : State) (f : FltSt → FltSt) (i : Nat) : (s.modFlt f).win i = s.win i := rfl
@[simp] theorem State.slot_modFlt (s : State) (f : FltSt → FltSt) (i : Nat) : (s.modFlt f).slot i = s.slot i := rfl
@[simp] theorem State.clu_modFlt (s : State) (f : FltSt → FltSt) (i : Nat) : (s.modFlt f).clu i = s.clu i := rfl
@[simp] theorem State.win_modMem (s : State) (f : MemSt → MemSt) (i : Nat) : (s.modMem f).win i = s.win i := rfl
@[simp] theorem State.slot_modMem (s : State) (f : MemSt → MemSt) (i : Nat) : (s.modMem f).slot i = s.slot i := rfl
@[simp] theorem State.clu_modMem (s : State) (f : MemSt → MemSt) (i : Nat) : (s.modMem f).clu i = s.clu i := rfl
@[simp] theorem State.win_modSec (s : State) (f : SecSt → SecSt) (i : Nat) : (s.modSec f).win i = s.win i := rfl
@[simp] theorem State.slot_modSec (s : State) (f : SecSt → SecSt) (i : Nat) : (s.modSec f).slot i = s.slot i := rfl
@[simp] theorem State.clu_modSec (s : State) (f : SecSt → SecSt) (i : Nat) : (s.modSec f).clu i = s.clu i := rfl
@[simp] theorem State.win_modKeep (s : State) (f : KeepSt → KeepSt) (i : Nat) : (s.modKeep f).win i = s.win i := rfl
@[simp] theorem State.slot_modKeep (s : State) (f : KeepSt → KeepSt) (i : Nat) : (s.modKeep f).slot i = s.slot i := rfl
@[simp] theorem State.clu_modKeep (s : State) (f : KeepSt → KeepSt) (i : Nat) : (s.modKeep f).clu i = s.clu i := rfl
@[simp] theorem State.win_setStack (s : State) (m : List Host.Cell) (i : Nat) : (s.setStack m).win i = s.win i := rfl
@[simp] theorem State.slot_setStack (s : State) (m : List Host.Cell) (i : Nat) : (s.setStack m).slot i = s.slot i := rfl
@[simp] theorem State.clu_setStack (s : State) (m : List Host.Cell) (i : Nat) : (s.setStack m).clu i = s.clu i := rfl
@[simp] theorem State.win_setWs (s : State) (m : List Host.Cell) (i : Nat) : (s.setWs m).win i = s.win i := rfl
@[simp] theorem State.slot_setWs (s : State) (m : List Host.Cell) (i : Nat) : (s.setWs m).slot i = s.slot i := rfl
@[simp] theorem State.clu_setWs (s : State) (m : List Host.Cell) (i : Nat) : (s.setWs m).clu i = s.clu i := rfl
@[simp] theorem State.win_bumpSeq (s : State) (p : Nat) (i : Nat) : (s.bumpSeq p).win i = s.win i := rfl
@[simp] theorem State.slot_bumpSeq (s : State) (p : Nat) (i : Nat) : (s.bumpSeq p).slot i = s.slot i := rfl
@[simp] theorem State.clu_bumpSeq (s : State) (p : Nat) (i : Nat) : (s.bumpSeq p).clu i = s.clu i := rfl
@[simp] theorem State.win_emit (s : State) (o : Out) (i : Nat) : (s.emit o).win i = s.win i := rfl
@[simp] theorem State.slot_emit (s : State) (o : Out) (i : Nat) : (s.emit o).slot i = s.slot i := rfl
@[simp] theorem State.clu_emit (s : State) (o : Out) (i : Nat) : (s.emit o).clu i = s.clu i := rfl
@[simp] theorem State.win_setReg (s : State) (a v : Nat) (i : Nat) : (s.setReg a v).win i = s.win i := rfl
@[simp] theorem State.slot_setReg (s : State) (a v : Nat) (i : Nat) : (s.setReg a v).slot i = s.slot i := rfl
@[simp] theorem State.clu_setReg (s : State) (a v : Nat) (i : Nat) : (s.setReg a v).clu i = s.clu i := rfl
@[simp] theorem State.win_dropRegs (s : State) (p : Nat → Bool) (i : Nat) : (s.dropRegs p).win i = s.win i := rfl
@[simp] theorem State.slot_dropRegs (s : State) (p : Nat → Bool) (i : Nat) : (s.dropRegs p).slot i = s.slot i := rfl
@[simp] theorem State.clu_dropRegs (s : State) (p : Nat → Bool) (i : Nat) : (s.dropRegs p).clu i = s.clu i := rfl
@[simp] theorem State.win_draw (s : State) (i : Nat) : s.draw.2.win i = s.win i := rfl
@[simp] theorem State.slot_draw (s : State) (i : Nat) : s.draw.2.slot i = s.slot i := rfl
@[simp] theorem State.clu_draw (s : State) (i : Nat) : s.draw.2.clu i = s.clu i := rfl

/-! Parts of windows and clusters: reads and updates go through the whole window or cluster. -/

theorem State.md_eq (s : State) (w : Nat) : s.md w = (s.win w).md := rfl
theorem State.modMd_eq (s : State) (w : Nat) (f : ModeSt → ModeSt) : s.modMd w f = s.modWin w fun x => { x with md := f x.md } := rfl
theorem State.sq_eq (s : State) (w : Nat) : s.sq w = (s.win w).sq := rfl
theorem State.modSq_eq (s : State) (w : Nat) (f : SeqSt → SeqSt) : s.modSq w f = s.modWin w fun x => { x with sq := f x.sq } := rfl
theorem State.pl_eq (s : State) (w : Nat) : s.pl w = (s.win w).pl := rfl
theorem State.modPl_eq (s : State) (w : Nat) (f : PlaySt → PlaySt) : s.modPl w f = s.modWin w fun x => { x with pl := f x.pl } := rfl
theorem State.sl_eq (s : State) (w : Nat) : s.sl w = (s.win w).sl := rfl
theorem State.modSl_eq (s : State) (w : Nat) (f : SluSt → SluSt) : s.modSl w f = s.modWin w fun x => { x with sl := f x.sl } := rfl
theorem State.ho_eq (s : State) (w : Nat) : s.ho w = (s.win w).ho := rfl
theorem State.modHo_eq (s : State) (w : Nat) (f : HoldSt → HoldSt) : s.modHo w f = s.modWin w fun x => { x with ho := f x.ho } := rfl
theorem State.ik_eq (s : State) (w : Nat) : s.ik w = (s.win w).ik := rfl
theorem State.modIk_eq (s : State) (w : Nat) (f : IntakeSt → IntakeSt) : s.modIk w f = s.modWin w fun x => { x with ik := f x.ik } := rfl
theorem State.tm_eq (s : State) (w : Nat) : s.tm w = (s.win w).tm := rfl
theorem State.modTm_eq (s : State) (w : Nat) (f : TimSt → TimSt) : s.modTm w f = s.modWin w fun x => { x with tm := f x.tm } := rfl
theorem State.pm_eq (s : State) (w : Nat) : s.pm w = (s.win w).pm := rfl
theorem State.modPm_eq (s : State) (w : Nat) (f : PmuSt → PmuSt) : s.modPm w f = s.modWin w fun x => { x with pm := f x.pm } := rfl
theorem State.cp_eq (s : State) (w : Nat) : s.cp w = (s.win w).cp := rfl
theorem State.modCp_eq (s : State) (w : Nat) (f : CapSt → CapSt) : s.modCp w f = s.modWin w fun x => { x with cp := f x.cp } := rfl
theorem State.mn_eq (s : State) (w : Nat) : s.mn w = (s.win w).mn := rfl
theorem State.modMn_eq (s : State) (w : Nat) (f : MonSt → MonSt) : s.modMn w f = s.modWin w fun x => { x with mn := f x.mn } := rfl
theorem State.st_eq (s : State) (w : Nat) : s.st w = (s.win w).st := rfl
theorem State.modSt_eq (s : State) (w : Nat) (f : StpSt → StpSt) : s.modSt w f = s.modWin w fun x => { x with st := f x.st } := rfl
theorem State.en_eq (s : State) (w : Nat) : s.en w = (s.win w).en := rfl
theorem State.modEn_eq (s : State) (w : Nat) (f : EngSt → EngSt) : s.modEn w f = s.modWin w fun x => { x with en := f x.en } := rfl
theorem State.rd_eq (s : State) (w : Nat) : s.rd w = (s.win w).rd := rfl
theorem State.modRd_eq (s : State) (w : Nat) (f : RedSt → RedSt) : s.modRd w f = s.modWin w fun x => { x with rd := f x.rd } := rfl
theorem State.cw_eq (s : State) (w : Nat) : s.cw w = (s.win w).cw := rfl
theorem State.modCw_eq (s : State) (w : Nat) (f : CwSt → CwSt) : s.modCw w f = s.modWin w fun x => { x with cw := f x.cw } := rfl
theorem State.fb_eq (s : State) (w : Nat) : s.fb w = (s.win w).fb := rfl
theorem State.modFb_eq (s : State) (w : Nat) (f : FabSt → FabSt) : s.modFb w f = s.modWin w fun x => { x with fb := f x.fb } := rfl
theorem State.hv_eq (s : State) (c : Nat) : s.hv c = (s.clu c).hv := rfl
theorem State.modHv_eq (s : State) (c : Nat) (f : HvsSt → HvsSt) : s.modHv c f = s.modClu c fun x => { x with hv := f x.hv } := rfl
theorem State.mode_eq (s : State) (w : Nat) : s.mode w = (s.win w).md.mode := rfl

/-! Register storage. -/

theorem State.reg_eq (s : State) (a : Nat) : s.reg a = (Tab.get (regReset a) s.regs a).toNat := rfl

end Sys2Proof.Machine
end

