-- ==== Sys2Proof/Laws/Calm.lean ====
section
/-!
SUPPORT. Sys2Proof/Laws/Calm.lean: a detection changes nothing but its own traces: PG_EVT, the collectors, the detections on their way.
-/

namespace Sys2Proof.Machine

@[simp] theorem State.calm_pending (s : State) : s.calm.pending = s.pending := rfl
@[simp] theorem State.calm_now (s : State) : s.calm.now = s.now := rfl
@[simp] theorem State.calm_t (s : State) : s.calm.t = s.t := rfl
@[simp] theorem State.calm_gtRun (s : State) : s.calm.gtRun = s.gtRun := rfl
@[simp] theorem State.calm_regs (s : State) : s.calm.regs = s.regs := rfl
@[simp] theorem State.calm_pgSeq (s : State) : s.calm.pgSeq = s.pgSeq := rfl
@[simp] theorem State.calm_snaps (s : State) : s.calm.snaps = s.snaps := rfl
@[simp] theorem State.calm_snapSt (s : State) : s.calm.snapSt = s.snapSt := rfl
@[simp] theorem State.calm_wins (s : State) : s.calm.wins = s.wins := rfl
@[simp] theorem State.calm_slots (s : State) : s.calm.slots = s.slots := rfl
@[simp] theorem State.calm_clus (s : State) : s.calm.clus = s.clus := rfl
@[simp] theorem State.calm_conseqs (s : State) : s.calm.conseqs = s.conseqs := rfl
@[simp] theorem State.calm_held (s : State) : s.calm.held = s.held := rfl
@[simp] theorem State.calm_ref (s : State) : s.calm.ref = s.ref := rfl
@[simp] theorem State.calm_syn (s : State) : s.calm.syn = s.syn := rfl
@[simp] theorem State.calm_host (s : State) : s.calm.host = s.host := rfl
@[simp] theorem State.calm_flt (s : State) : s.calm.flt = s.flt := rfl
@[simp] theorem State.calm_mem (s : State) : s.calm.mem = s.mem := rfl
@[simp] theorem State.calm_sec (s : State) : s.calm.sec = s.sec := rfl
@[simp] theorem State.calm_keep (s : State) : s.calm.keep = s.keep := rfl
@[simp] theorem State.calm_stackMem (s : State) : s.calm.stackMem = s.stackMem := rfl
@[simp] theorem State.calm_wsMem (s : State) : s.calm.wsMem = s.wsMem := rfl
@[simp] theorem State.calm_out (s : State) : s.calm.out = s.out := rfl
@[simp] theorem State.calm_freeN (s : State) : s.calm.freeN = s.freeN := rfl
@[simp] theorem State.calm_win_at (s : State) (i : Nat) : s.calm.win i = s.win i := rfl
@[simp] theorem State.calm_slot_at (s : State) (i : Nat) : s.calm.slot i = s.slot i := rfl
@[simp] theorem State.calm_clu_at (s : State) (i : Nat) : s.calm.clu i = s.clu i := rfl
@[simp] theorem State.calm_reg_at (s : State) (i : Nat) : s.calm.reg i = s.reg i := rfl
@[simp] theorem State.calm_modWin (s : State) (w : Nat) (f : Win → Win) : (s.modWin w f).calm = s.calm.modWin w f := rfl
@[simp] theorem State.calm_modSlot (s : State) (k : Nat) (f : Slot → Slot) : (s.modSlot k f).calm = s.calm.modSlot k f := rfl
@[simp] theorem State.calm_modClu (s : State) (c : Nat) (f : Clu → Clu) : (s.modClu c f).calm = s.calm.modClu c f := rfl
@[simp] theorem State.calm_modRef (s : State) (f : RefSt → RefSt) : (s.modRef f).calm = s.calm.modRef f := rfl
@[simp] theorem State.calm_modSyn (s : State) (f : SynSt → SynSt) : (s.modSyn f).calm = s.calm.modSyn f := rfl
@[simp] theorem State.calm_modHost (s : State) (f : HostSt → HostSt) : (s.modHost f).calm = s.calm.modHost f := rfl
@[simp] theorem State.calm_modFlt (s : State) (f : FltSt → FltSt) : (s.modFlt f).calm = s.calm.modFlt f := rfl
@[simp] theorem State.calm_modMem (s : State) (f : MemSt → MemSt) : (s.modMem f).calm = s.calm.modMem f := rfl
@[simp] theorem State.calm_modSec (s : State) (f : SecSt → SecSt) : (s.modSec f).calm = s.calm.modSec f := rfl
@[simp] theorem State.calm_modKeep (s : State) (f : KeepSt → KeepSt) : (s.modKeep f).calm = s.calm.modKeep f := rfl
@[simp] theorem State.calm_setStack (s : State) (m : List Host.Cell) : (s.setStack m).calm = s.calm.setStack m := rfl
@[simp] theorem State.calm_setWs (s : State) (m : List Host.Cell) : (s.setWs m).calm = s.calm.setWs m := rfl
@[simp] theorem State.calm_bumpSeq (s : State) (p : Nat) : (s.bumpSeq p).calm = s.calm.bumpSeq p := rfl
@[simp] theorem State.calm_emit (s : State) (o : Out) : (s.emit o).calm = s.calm.emit o := rfl
@[simp] theorem State.calm_setReg (s : State) (a v : Nat) : (s.setReg a v).calm = s.calm.setReg a v := rfl
@[simp] theorem State.calm_dropRegs (s : State) (p : Nat → Bool) : (s.dropRegs p).calm = s.calm.dropRegs p := rfl
@[simp] theorem State.calm_draw (s : State) : s.draw.2.calm = s.calm.draw.2 := rfl

/-! The operations that leave only traces of detections. -/

@[simp] theorem State.calm_latch (s : State) (p b : Nat) : (s.latch p b).calm = s.calm := rfl
@[simp] theorem State.calm_latchAt (s : State) (p b t : Nat) : (s.latchAt p b t).calm = s.calm := by
  unfold State.latchAt
  split <;> rfl
@[simp] theorem State.calm_unlatch (s : State) (p : Nat) (m : BitVec 32) : (s.unlatch p m).calm = s.calm := rfl
@[simp] theorem State.calm_modColl (s : State) (src : Nat) (f : Coll → Coll) : (s.modColl src f).calm = s.calm := by
  unfold State.modColl
  split <;> rfl
@[simp] theorem State.calm_modSrc (s : State) (src : Nat) (f : SrcSt → SrcSt) : (s.modSrc src f).calm = s.calm := State.calm_modColl ..
@[simp] theorem State.calm_endCond (s : State) (src code : Nat) : (s.endCond src code).calm = s.calm := by
  show (s.modSrc src _).calm = s.calm
  exact State.calm_modColl ..
@[simp] theorem State.calm_send (s : State) (d : Det) : (s.send d).calm = s.calm := by
  unfold State.send
  split
  · split <;> rfl
  · split <;> rfl
@[simp] theorem State.calm_raiseAt (s : State) (src code native : Nat) (shelf : Shelf) (v : BitVec 28) (t : Nat) :
    (s.raiseAt src code native shelf v t).calm = s.calm := by
  unfold State.raiseAt
  extract_lets s1 enabled s2
  have h1 : s1.calm = s.calm := by
    dsimp only [s1]
    split <;> simp
  have h2 : s2.calm = s.calm := by
    dsimp only [s2]
    split <;> simp [h1]
  split
  · rw [State.calm_send, h2]
  · exact h2
@[simp] theorem State.calm_raise (s : State) (src code native : Nat) : (s.raise src code native).calm = s.calm := State.calm_raiseAt ..
@[simp] theorem State.calm_raiseCh (s : State) (w i code native : Nat) : (s.raiseCh w i code native).calm = s.calm := State.calm_raiseAt ..
@[simp] theorem State.calm_raiseSeg (s : State) (w i code native : Nat) (shelf : Shelf) (t : Nat) :
    (s.raiseSeg w i code native shelf t).calm = s.calm := State.calm_raiseAt ..
@[simp] theorem State.calm_raiseClu (s : State) (c i code native : Nat) : (s.raiseClu c i code native).calm = s.calm := State.calm_raiseAt ..
@[simp] theorem State.calm_raiseDev (s : State) (p i code native : Nat) : (s.raiseDev p i code native).calm = s.calm := State.calm_raiseAt ..
@[simp] theorem State.calm_raiseVal (s : State) (src code native v : Nat) : (s.raiseVal src code native v).calm = s.calm := State.calm_raiseAt ..

/-- States with the same calm agree on every field that detections do not trace. -/
theorem State.pending_of_calm {s t : State} (h : s.calm = t.calm) : s.pending = t.pending := congrArg (·.pending) h
theorem State.now_of_calm {s t : State} (h : s.calm = t.calm) : s.now = t.now := congrArg (·.now) h
theorem State.t_of_calm {s t : State} (h : s.calm = t.calm) : s.t = t.t := congrArg (·.t) h
theorem State.gtRun_of_calm {s t : State} (h : s.calm = t.calm) : s.gtRun = t.gtRun := congrArg (·.gtRun) h
theorem State.regs_of_calm {s t : State} (h : s.calm = t.calm) : s.regs = t.regs := congrArg (·.regs) h
theorem State.pgSeq_of_calm {s t : State} (h : s.calm = t.calm) : s.pgSeq = t.pgSeq := congrArg (·.pgSeq) h
theorem State.snaps_of_calm {s t : State} (h : s.calm = t.calm) : s.snaps = t.snaps := congrArg (·.snaps) h
theorem State.snapSt_of_calm {s t : State} (h : s.calm = t.calm) : s.snapSt = t.snapSt := congrArg (·.snapSt) h
theorem State.wins_of_calm {s t : State} (h : s.calm = t.calm) : s.wins = t.wins := congrArg (·.wins) h
theorem State.slots_of_calm {s t : State} (h : s.calm = t.calm) : s.slots = t.slots := congrArg (·.slots) h
theorem State.clus_of_calm {s t : State} (h : s.calm = t.calm) : s.clus = t.clus := congrArg (·.clus) h
theorem State.conseqs_of_calm {s t : State} (h : s.calm = t.calm) : s.conseqs = t.conseqs := congrArg (·.conseqs) h
theorem State.held_of_calm {s t : State} (h : s.calm = t.calm) : s.held = t.held := congrArg (·.held) h
theorem State.ref_of_calm {s t : State} (h : s.calm = t.calm) : s.ref = t.ref := congrArg (·.ref) h
theorem State.syn_of_calm {s t : State} (h : s.calm = t.calm) : s.syn = t.syn := congrArg (·.syn) h
theorem State.host_of_calm {s t : State} (h : s.calm = t.calm) : s.host = t.host := congrArg (·.host) h
theorem State.flt_of_calm {s t : State} (h : s.calm = t.calm) : s.flt = t.flt := congrArg (·.flt) h
theorem State.mem_of_calm {s t : State} (h : s.calm = t.calm) : s.mem = t.mem := congrArg (·.mem) h
theorem State.sec_of_calm {s t : State} (h : s.calm = t.calm) : s.sec = t.sec := congrArg (·.sec) h
theorem State.keep_of_calm {s t : State} (h : s.calm = t.calm) : s.keep = t.keep := congrArg (·.keep) h
theorem State.stackMem_of_calm {s t : State} (h : s.calm = t.calm) : s.stackMem = t.stackMem := congrArg (·.stackMem) h
theorem State.wsMem_of_calm {s t : State} (h : s.calm = t.calm) : s.wsMem = t.wsMem := congrArg (·.wsMem) h
theorem State.out_of_calm {s t : State} (h : s.calm = t.calm) : s.out = t.out := congrArg (·.out) h
theorem State.freeN_of_calm {s t : State} (h : s.calm = t.calm) : s.freeN = t.freeN := congrArg (·.freeN) h

theorem State.win_at_of_calm {s t : State} (h : s.calm = t.calm) (i : Nat) : s.win i = t.win i := congrArg (·.win i) h
theorem State.slot_at_of_calm {s t : State} (h : s.calm = t.calm) (i : Nat) : s.slot i = t.slot i := congrArg (·.slot i) h
theorem State.clu_at_of_calm {s t : State} (h : s.calm = t.calm) (i : Nat) : s.clu i = t.clu i := congrArg (·.clu i) h
theorem State.reg_at_of_calm {s t : State} (h : s.calm = t.calm) (i : Nat) : s.reg i = t.reg i := congrArg (·.reg i) h

@[simp] theorem State.raiseAt_pending (s : State) (src code native : Nat) (sh : Shelf) (v : BitVec 28) (t : Nat) :
    (s.raiseAt src code native sh v t).pending = s.pending := State.pending_of_calm (State.calm_raiseAt ..)
@[simp] theorem State.raiseAt_now (s : State) (src code native : Nat) (sh : Shelf) (v : BitVec 28) (t : Nat) :
    (s.raiseAt src code native sh v t).now = s.now := State.now_of_calm (State.calm_raiseAt ..)
@[simp] theorem State.raiseAt_t (s : State) (src code native : Nat) (sh : Shelf) (v : BitVec 28) (t : Nat) :
    (s.raiseAt src code native sh v t).t = s.t := State.t_of_calm (State.calm_raiseAt ..)
@[simp] theorem State.raiseAt_gtRun (s : State) (src code native : Nat) (sh : Shelf) (v : BitVec 28) (t : Nat) :
    (s.raiseAt src code native sh v t).gtRun = s.gtRun := State.gtRun_of_calm (State.calm_raiseAt ..)
@[simp] theorem State.raiseAt_regs (s : State) (src code native : Nat) (sh : Shelf) (v : BitVec 28) (t : Nat) :
    (s.raiseAt src code native sh v t).regs = s.regs := State.regs_of_calm (State.calm_raiseAt ..)
@[simp] theorem State.raiseAt_pgSeq (s : State) (src code native : Nat) (sh : Shelf) (v : BitVec 28) (t : Nat) :
    (s.raiseAt src code native sh v t).pgSeq = s.pgSeq := State.pgSeq_of_calm (State.calm_raiseAt ..)
@[simp] theorem State.raiseAt_snaps (s : State) (src code native : Nat) (sh : Shelf) (v : BitVec 28) (t : Nat) :
    (s.raiseAt src code native sh v t).snaps = s.snaps := State.snaps_of_calm (State.calm_raiseAt ..)
@[simp] theorem State.raiseAt_snapSt (s : State) (src code native : Nat) (sh : Shelf) (v : BitVec 28) (t : Nat) :
    (s.raiseAt src code native sh v t).snapSt = s.snapSt := State.snapSt_of_calm (State.calm_raiseAt ..)
@[simp] theorem State.raiseAt_wins (s : State) (src code native : Nat) (sh : Shelf) (v : BitVec 28) (t : Nat) :
    (s.raiseAt src code native sh v t).wins = s.wins := State.wins_of_calm (State.calm_raiseAt ..)
@[simp] theorem State.raiseAt_slots (s : State) (src code native : Nat) (sh : Shelf) (v : BitVec 28) (t : Nat) :
    (s.raiseAt src code native sh v t).slots = s.slots := State.slots_of_calm (State.calm_raiseAt ..)
@[simp] theorem State.raiseAt_clus (s : State) (src code native : Nat) (sh : Shelf) (v : BitVec 28) (t : Nat) :
    (s.raiseAt src code native sh v t).clus = s.clus := State.clus_of_calm (State.calm_raiseAt ..)
@[simp] theorem State.raiseAt_conseqs (s : State) (src code native : Nat) (sh : Shelf) (v : BitVec 28) (t : Nat) :
    (s.raiseAt src code native sh v t).conseqs = s.conseqs := State.conseqs_of_calm (State.calm_raiseAt ..)
@[simp] theorem State.raiseAt_held (s : State) (src code native : Nat) (sh : Shelf) (v : BitVec 28) (t : Nat) :
    (s.raiseAt src code native sh v t).held = s.held := State.held_of_calm (State.calm_raiseAt ..)
@[simp] theorem State.raiseAt_ref (s : State) (src code native : Nat) (sh : Shelf) (v : BitVec 28) (t : Nat) :
    (s.raiseAt src code native sh v t).ref = s.ref := State.ref_of_calm (State.calm_raiseAt ..)
@[simp] theorem State.raiseAt_syn (s : State) (src code native : Nat) (sh : Shelf) (v : BitVec 28) (t : Nat) :
    (s.raiseAt src code native sh v t).syn = s.syn := State.syn_of_calm (State.calm_raiseAt ..)
@[simp] theorem State.raiseAt_host (s : State) (src code native : Nat) (sh : Shelf) (v : BitVec 28) (t : Nat) :
    (s.raiseAt src code native sh v t).host = s.host := State.host_of_calm (State.calm_raiseAt ..)
@[simp] theorem State.raiseAt_flt (s : State) (src code native : Nat) (sh : Shelf) (v : BitVec 28) (t : Nat) :
    (s.raiseAt src code native sh v t).flt = s.flt := State.flt_of_calm (State.calm_raiseAt ..)
@[simp] theorem State.raiseAt_mem (s : State) (src code native : Nat) (sh : Shelf) (v : BitVec 28) (t : Nat) :
    (s.raiseAt src code native sh v t).mem = s.mem := State.mem_of_calm (State.calm_raiseAt ..)
@[simp] theorem State.raiseAt_sec (s : State) (src code native : Nat) (sh : Shelf) (v : BitVec 28) (t : Nat) :
    (s.raiseAt src code native sh v t).sec = s.sec := State.sec_of_calm (State.calm_raiseAt ..)
@[simp] theorem State.raiseAt_keep (s : State) (src code native : Nat) (sh : Shelf) (v : BitVec 28) (t : Nat) :
    (s.raiseAt src code native sh v t).keep = s.keep := State.keep_of_calm (State.calm_raiseAt ..)
@[simp] theorem State.raiseAt_stackMem (s : State) (src code native : Nat) (sh : Shelf) (v : BitVec 28) (t : Nat) :
    (s.raiseAt src code native sh v t).stackMem = s.stackMem := State.stackMem_of_calm (State.calm_raiseAt ..)
@[simp] theorem State.raiseAt_wsMem (s : State) (src code native : Nat) (sh : Shelf) (v : BitVec 28) (t : Nat) :
    (s.raiseAt src code native sh v t).wsMem = s.wsMem := State.wsMem_of_calm (State.calm_raiseAt ..)
@[simp] theorem State.raiseAt_out (s : State) (src code native : Nat) (sh : Shelf) (v : BitVec 28) (t : Nat) :
    (s.raiseAt src code native sh v t).out = s.out := State.out_of_calm (State.calm_raiseAt ..)
@[simp] theorem State.raiseAt_freeN (s : State) (src code native : Nat) (sh : Shelf) (v : BitVec 28) (t : Nat) :
    (s.raiseAt src code native sh v t).freeN = s.freeN := State.freeN_of_calm (State.calm_raiseAt ..)
@[simp] theorem State.win_raiseAt (s : State) (src code native : Nat) (sh : Shelf) (v : BitVec 28) (t i : Nat) :
    (s.raiseAt src code native sh v t).win i = s.win i := State.win_at_of_calm (State.calm_raiseAt ..) i
@[simp] theorem State.slot_raiseAt (s : State) (src code native : Nat) (sh : Shelf) (v : BitVec 28) (t i : Nat) :
    (s.raiseAt src code native sh v t).slot i = s.slot i := State.slot_at_of_calm (State.calm_raiseAt ..) i
@[simp] theorem State.clu_raiseAt (s : State) (src code native : Nat) (sh : Shelf) (v : BitVec 28) (t i : Nat) :
    (s.raiseAt src code native sh v t).clu i = s.clu i := State.clu_at_of_calm (State.calm_raiseAt ..) i
@[simp] theorem State.reg_raiseAt (s : State) (src code native : Nat) (sh : Shelf) (v : BitVec 28) (t i : Nat) :
    (s.raiseAt src code native sh v t).reg i = s.reg i := State.reg_at_of_calm (State.calm_raiseAt ..) i

/-- Time passes and nothing else happens, beside a detection of a wrap of GT (R13). -/
theorem State.calm_advance (s : State) (dt : Nat) : (s.advance dt).calm = (s.later dt).calm := by
  unfold State.advance State.later
  cases h : s.gtRun
  · simp
  · simp only [↓reduceIte]
    split
    · rfl
    · rw [State.calm_raiseAt]

end Sys2Proof.Machine
end

