-- ==== Sys2Proof/Laws/Host.lean ====
section
/-!
SUPPORT. Sys2Proof/Laws/Host.lean: what a host write and a mode command do when they take effect at once, and where results are posted.
-/

namespace Sys2Proof.Machine

/-- A host write that takes effect now is its action. -/
theorem State.hostWrite_takes {s : State} {p : Nat} (h : s.takes p = true) (i : Instr) (act : State → State) :
    s.hostWrite p i act = act s := by
  simp only [State.takes, Bool.and_eq_true, Bool.not_eq_true', decide_eq_true_eq] at h
  obtain ⟨⟨⟨h1, h2⟩, h3⟩, h4⟩ := h
  simp [State.hostWrite, State.hostHeldWrite, h1, h2, h3, h4]

/-- A mode command that is judged now is its action. -/
theorem State.modeWrite_takes {s : State} {w : Nat} (h : s.takesMode w = true) (cmd : Nat) (tag : Byte) (i : Instr) (act : State → State) :
    s.modeWrite w cmd tag i act = act s := by
  simp only [State.takesMode, Bool.and_eq_true, Bool.not_eq_true', decide_eq_true_eq] at h
  obtain ⟨⟨⟨h1, h2⟩, h3⟩, h4⟩ := h
  simp [State.modeWrite, h1, h2, h3, h4]

/-- A mode command is judged when neither a transition nor an exchange is in progress. -/
theorem State.modeGate_idle {s : State} {w : Nat} (h : s.modeFree w = true) (cmd : Nat) (tag : Byte) (act : State → State) :
    s.modeGate w cmd tag act = act s := by
  simp only [State.modeFree, Bool.and_eq_true, Option.isNone_iff_eq_none, Bool.not_eq_true'] at h
  simp [State.modeGate, h.1, h.2]

/-- A write to a source that exists is a host write of its collector's page. -/
theorem State.srcWrite_takes {s : State} {src : Nat} (he : srcExists src = true) (h : s.takes (s.colPage src) = true) (i : Instr) (act : State → State) :
    s.srcWrite src i act = act s := by
  simp [State.srcWrite, he, State.hostWrite_takes h]

/-! Registers. -/

theorem State.reg_setReg (s : State) (a b v : Nat) : (s.setReg a v).reg b = if a = b then v % 2 ^ 64 else s.reg b := by
  simp only [State.reg, State.setReg]
  by_cases h : a = b
  · subst h
    simp [Tab.get_set_self]
  · rw [Tab.get_set_ne _ _ _ _ h, if_neg h]

/-! Reads of a window's or cluster's parts after an update of a window or cluster. -/

@[simp] theorem State.md_modWin (s : State) (w v : Nat) (f : Win → Win) : (s.modWin w f).md v = if w = v then (f (s.win w)).md else s.md v := by
  rw [State.md, State.win_modWin]; split <;> rfl
@[simp] theorem State.sq_modWin (s : State) (w v : Nat) (f : Win → Win) : (s.modWin w f).sq v = if w = v then (f (s.win w)).sq else s.sq v := by
  rw [State.sq, State.win_modWin]; split <;> rfl
@[simp] theorem State.pl_modWin (s : State) (w v : Nat) (f : Win → Win) : (s.modWin w f).pl v = if w = v then (f (s.win w)).pl else s.pl v := by
  rw [State.pl, State.win_modWin]; split <;> rfl
@[simp] theorem State.sl_modWin (s : State) (w v : Nat) (f : Win → Win) : (s.modWin w f).sl v = if w = v then (f (s.win w)).sl else s.sl v := by
  rw [State.sl, State.win_modWin]; split <;> rfl
@[simp] theorem State.ho_modWin (s : State) (w v : Nat) (f : Win → Win) : (s.modWin w f).ho v = if w = v then (f (s.win w)).ho else s.ho v := by
  rw [State.ho, State.win_modWin]; split <;> rfl
@[simp] theorem State.ik_modWin (s : State) (w v : Nat) (f : Win → Win) : (s.modWin w f).ik v = if w = v then (f (s.win w)).ik else s.ik v := by
  rw [State.ik, State.win_modWin]; split <;> rfl
@[simp] theorem State.tm_modWin (s : State) (w v : Nat) (f : Win → Win) : (s.modWin w f).tm v = if w = v then (f (s.win w)).tm else s.tm v := by
  rw [State.tm, State.win_modWin]; split <;> rfl
@[simp] theorem State.pm_modWin (s : State) (w v : Nat) (f : Win → Win) : (s.modWin w f).pm v = if w = v then (f (s.win w)).pm else s.pm v := by
  rw [State.pm, State.win_modWin]; split <;> rfl
@[simp] theorem State.cp_modWin (s : State) (w v : Nat) (f : Win → Win) : (s.modWin w f).cp v = if w = v then (f (s.win w)).cp else s.cp v := by
  rw [State.cp, State.win_modWin]; split <;> rfl
@[simp] theorem State.mn_modWin (s : State) (w v : Nat) (f : Win → Win) : (s.modWin w f).mn v = if w = v then (f (s.win w)).mn else s.mn v := by
  rw [State.mn, State.win_modWin]; split <;> rfl
@[simp] theorem State.st_modWin (s : State) (w v : Nat) (f : Win → Win) : (s.modWin w f).st v = if w = v then (f (s.win w)).st else s.st v := by
  rw [State.st, State.win_modWin]; split <;> rfl
@[simp] theorem State.en_modWin (s : State) (w v : Nat) (f : Win → Win) : (s.modWin w f).en v = if w = v then (f (s.win w)).en else s.en v := by
  rw [State.en, State.win_modWin]; split <;> rfl
@[simp] theorem State.rd_modWin (s : State) (w v : Nat) (f : Win → Win) : (s.modWin w f).rd v = if w = v then (f (s.win w)).rd else s.rd v := by
  rw [State.rd, State.win_modWin]; split <;> rfl
@[simp] theorem State.cw_modWin (s : State) (w v : Nat) (f : Win → Win) : (s.modWin w f).cw v = if w = v then (f (s.win w)).cw else s.cw v := by
  rw [State.cw, State.win_modWin]; split <;> rfl
@[simp] theorem State.fb_modWin (s : State) (w v : Nat) (f : Win → Win) : (s.modWin w f).fb v = if w = v then (f (s.win w)).fb else s.fb v := by
  rw [State.fb, State.win_modWin]; split <;> rfl
@[simp] theorem State.hv_modClu (s : State) (c d : Nat) (f : Clu → Clu) : (s.modClu c f).hv d = if c = d then (f (s.clu c)).hv else s.hv d := by
  rw [State.hv, State.clu_modClu]; split <;> rfl

/-! Registers and slots seen through the other updates. -/

@[simp] theorem State.reg_modSlot (s : State) (k : Nat) (f : Slot → Slot) (i : Nat) : (s.modSlot k f).reg i = s.reg i := rfl
@[simp] theorem State.reg_modClu (s : State) (k : Nat) (f : Clu → Clu) (i : Nat) : (s.modClu k f).reg i = s.reg i := rfl
@[simp] theorem State.reg_modDev (s : State) (g : DevSt → DevSt) (i : Nat) : (s.modDev g).reg i = s.reg i := rfl
@[simp] theorem State.reg_modRef (s : State) (g : RefSt → RefSt) (i : Nat) : (s.modRef g).reg i = s.reg i := rfl
@[simp] theorem State.reg_modSyn (s : State) (g : SynSt → SynSt) (i : Nat) : (s.modSyn g).reg i = s.reg i := rfl
@[simp] theorem State.reg_modHost (s : State) (g : HostSt → HostSt) (i : Nat) : (s.modHost g).reg i = s.reg i := rfl
@[simp] theorem State.reg_modFlt (s : State) (g : FltSt → FltSt) (i : Nat) : (s.modFlt g).reg i = s.reg i := rfl
@[simp] theorem State.reg_modMem (s : State) (g : MemSt → MemSt) (i : Nat) : (s.modMem g).reg i = s.reg i := rfl
@[simp] theorem State.reg_modSec (s : State) (g : SecSt → SecSt) (i : Nat) : (s.modSec g).reg i = s.reg i := rfl
@[simp] theorem State.reg_modKeep (s : State) (g : KeepSt → KeepSt) (i : Nat) : (s.modKeep g).reg i = s.reg i := rfl
@[simp] theorem State.reg_setStack (s : State) (m : List Host.Cell) (i : Nat) : (s.setStack m).reg i = s.reg i := rfl
@[simp] theorem State.reg_setWs (s : State) (m : List Host.Cell) (i : Nat) : (s.setWs m).reg i = s.reg i := rfl
@[simp] theorem State.reg_bumpSeq (s : State) (p : Nat) (i : Nat) : (s.bumpSeq p).reg i = s.reg i := rfl
@[simp] theorem State.reg_emit (s : State) (o : Out) (i : Nat) : (s.emit o).reg i = s.reg i := rfl
@[simp] theorem State.reg_modWin (s : State) (w : Nat) (f : Win → Win) (i : Nat) : (s.modWin w f).reg i = s.reg i := rfl
@[simp] theorem State.slotOf_modWin (s : State) (w v : Nat) (f : Win → Win) : (s.modWin w f).slotOf v = s.slotOf v := rfl
@[simp] theorem State.slotOf_modSlot (s : State) (k v : Nat) (f : Slot → Slot) : (s.modSlot k f).slotOf v = s.slotOf v := rfl
@[simp] theorem State.slotOf_bumpSeq (s : State) (p v : Nat) : (s.bumpSeq p).slotOf v = s.slotOf v := rfl

end Sys2Proof.Machine
end

