-- ==== Sys2Proof/Laws/Keeps.lean ====
section
/-!
SUPPORT. Sys2Proof/Laws/Keeps.lean: what no operation of the part may do: touch the queue, move the model's clock, take a free value back,
clear a programmed bit of the Ledger, or break the canonical form of its memories and tables. `Keeps s t` says that a change from `s` to
`t` does none of it; here stand the updates that every operation is made of.
-/

namespace Sys2Proof.Machine

/-- Programmed Ledger bits stay programmed (R326 to R329: entries are one-time-programmable). -/
def OtpKept (a b : Tab (BitVec 256)) : Prop := ∀ i, Tab.get 0 a i &&& ~~~ Tab.get 0 b i = 0

theorem OtpKept.refl (a : Tab (BitVec 256)) : OtpKept a a := fun i => by simp

theorem OtpKept.trans {a b c : Tab (BitVec 256)} (h1 : OtpKept a b) (h2 : OtpKept b c) : OtpKept a c := fun i => by
  have e1 := h1 i
  have e2 := h2 i
  ext j hj
  have f1 := congrArg (fun x : BitVec 256 => x.getLsbD j) e1
  have f2 := congrArg (fun x : BitVec 256 => x.getLsbD j) e2
  simp only [BitVec.getLsbD_and, BitVec.getLsbD_not, hj, decide_true, Bool.true_and] at f1 f2
  simp only [← BitVec.getLsbD_eq_getElem, BitVec.getLsbD_and, BitVec.getLsbD_not, hj, decide_true, Bool.true_and]
  revert f1 f2
  generalize (Tab.get 0 a i).getLsbD j = x
  generalize (Tab.get 0 b i).getLsbD j = y
  generalize (Tab.get 0 c i).getLsbD j = z
  cases x <;> cases y <;> cases z <;> simp

/-- What every operation of the part keeps. -/
structure Keeps (s t : State) : Prop where
  pending : t.pending = s.pending
  now : t.now = s.now
  freeN : s.freeN ≤ t.freeN
  otp : OtpKept s.keep.ledger t.keep.ledger
  canon : s.canonical = true → t.canonical = true

theorem Keeps.refl (s : State) : Keeps s s := ⟨rfl, rfl, Nat.le_refl _, OtpKept.refl _, id⟩

theorem Keeps.trans {s t u : State} (h1 : Keeps s t) (h2 : Keeps t u) : Keeps s u :=
  ⟨h2.pending.trans h1.pending, h2.now.trans h1.now, Nat.le_trans h1.freeN h2.freeN, h1.otp.trans h2.otp, fun h => h2.canon (h1.canon h)⟩

/-- A change that keeps, after changes that keep. -/
theorem Keeps.after {s t u : State} (h2 : Keeps t u) (h1 : Keeps s t) : Keeps s u := h1.trans h2

theorem Keeps.ite {s a b : State} {c : Prop} [Decidable c] (ha : Keeps s a) (hb : Keeps s b) : Keeps s (if c then a else b) := by
  split <;> assumption

/-- The parts of the canonical form. -/
theorem canonical_iff (s : State) : s.canonical = true ↔ Memory.wf s.stackMem = true ∧ Memory.wf s.wsMem = true ∧ s.regsWf = true ∧
    Tab.wf {} s.wins = true ∧ Tab.wf {} s.slots = true ∧ Tab.wf {} s.clus = true := by
  simp [State.canonical, State.memWf, and_assoc]

/-- A change of fields that `Keeps` does not speak of. -/
theorem Keeps.of_fields {s t : State} (h1 : t.pending = s.pending) (h2 : t.now = s.now) (h3 : t.freeN = s.freeN) (h4 : t.keep.ledger = s.keep.ledger)
    (h5 : t.stackMem = s.stackMem) (h6 : t.wsMem = s.wsMem) (h7 : t.regs = s.regs) (h8 : t.wins = s.wins) (h9 : t.slots = s.slots)
    (h10 : t.clus = s.clus) : Keeps s t :=
  ⟨h1, h2, Nat.le_of_eq h3.symm, h4 ▸ OtpKept.refl _, fun h => by
    rw [canonical_iff] at h ⊢
    simpa only [State.regsWf, h5, h6, h7, h8, h9, h10] using h⟩

theorem regsWf_iff (s : State) : s.regsWf = true ↔ Tab.neat regReset s.regs := by
  simp [State.regsWf, Tab.neat, List.all_eq_true]

theorem State.each_keeps {α : Type} (s : State) (l : List α) (f : State → α → State) (hf : ∀ s a, Keeps s (f s a)) : Keeps s (s.each l f) := by
  unfold State.each
  induction l generalizing s with
  | nil => exact Keeps.refl s
  | cons a r ih => exact (hf s a).trans (ih (f s a))

theorem foldl_keeps {α : Type} (s : State) (l : List α) (f : State → α → State) (hf : ∀ s a, Keeps s (f s a)) : Keeps s (l.foldl f s) :=
  State.each_keeps s l f hf

/-! The updates. -/

theorem State.modWin_keeps (s : State) (w : Nat) (f : Win → Win) : Keeps s (s.modWin w f) :=
  ⟨rfl, rfl, Nat.le_refl _, OtpKept.refl _, fun h => by
    rw [canonical_iff] at h ⊢
    exact ⟨h.1, h.2.1, h.2.2.1, Tab.wf_set _ _ h.2.2.2.1, h.2.2.2.2.1, h.2.2.2.2.2⟩⟩

theorem State.modSlot_keeps (s : State) (k : Nat) (f : Slot → Slot) : Keeps s (s.modSlot k f) :=
  ⟨rfl, rfl, Nat.le_refl _, OtpKept.refl _, fun h => by
    rw [canonical_iff] at h ⊢
    exact ⟨h.1, h.2.1, h.2.2.1, h.2.2.2.1, Tab.wf_set _ _ h.2.2.2.2.1, h.2.2.2.2.2⟩⟩

theorem State.modClu_keeps (s : State) (c : Nat) (f : Clu → Clu) : Keeps s (s.modClu c f) :=
  ⟨rfl, rfl, Nat.le_refl _, OtpKept.refl _, fun h => by
    rw [canonical_iff] at h ⊢
    exact ⟨h.1, h.2.1, h.2.2.1, h.2.2.2.1, h.2.2.2.2.1, Tab.wf_set _ _ h.2.2.2.2.2⟩⟩

theorem State.modMd_keeps (s : State) (w : Nat) (f : ModeSt → ModeSt) : Keeps s (s.modMd w f) := State.modWin_keeps ..
theorem State.modSq_keeps (s : State) (w : Nat) (f : SeqSt → SeqSt) : Keeps s (s.modSq w f) := State.modWin_keeps ..
theorem State.modPl_keeps (s : State) (w : Nat) (f : PlaySt → PlaySt) : Keeps s (s.modPl w f) := State.modWin_keeps ..
theorem State.modSl_keeps (s : State) (w : Nat) (f : SluSt → SluSt) : Keeps s (s.modSl w f) := State.modWin_keeps ..
theorem State.modHo_keeps (s : State) (w : Nat) (f : HoldSt → HoldSt) : Keeps s (s.modHo w f) := State.modWin_keeps ..
theorem State.modIk_keeps (s : State) (w : Nat) (f : IntakeSt → IntakeSt) : Keeps s (s.modIk w f) := State.modWin_keeps ..
theorem State.modTm_keeps (s : State) (w : Nat) (f : TimSt → TimSt) : Keeps s (s.modTm w f) := State.modWin_keeps ..
theorem State.modPm_keeps (s : State) (w : Nat) (f : PmuSt → PmuSt) : Keeps s (s.modPm w f) := State.modWin_keeps ..
theorem State.modCp_keeps (s : State) (w : Nat) (f : CapSt → CapSt) : Keeps s (s.modCp w f) := State.modWin_keeps ..
theorem State.modMn_keeps (s : State) (w : Nat) (f : MonSt → MonSt) : Keeps s (s.modMn w f) := State.modWin_keeps ..
theorem State.modSt_keeps (s : State) (w : Nat) (f : StpSt → StpSt) : Keeps s (s.modSt w f) := State.modWin_keeps ..
theorem State.modEn_keeps (s : State) (w : Nat) (f : EngSt → EngSt) : Keeps s (s.modEn w f) := State.modWin_keeps ..
theorem State.modRd_keeps (s : State) (w : Nat) (f : RedSt → RedSt) : Keeps s (s.modRd w f) := State.modWin_keeps ..
theorem State.modCw_keeps (s : State) (w : Nat) (f : CwSt → CwSt) : Keeps s (s.modCw w f) := State.modWin_keeps ..
theorem State.modFb_keeps (s : State) (w : Nat) (f : FabSt → FabSt) : Keeps s (s.modFb w f) := State.modWin_keeps ..
theorem State.modHv_keeps (s : State) (c : Nat) (f : HvsSt → HvsSt) : Keeps s (s.modHv c f) := State.modClu_keeps ..

theorem State.modDev_keeps (s : State) (f : DevSt → DevSt) : Keeps s (s.modDev f) := Keeps.of_fields rfl rfl rfl rfl rfl rfl rfl rfl rfl rfl
theorem State.modRef_keeps (s : State) (f : RefSt → RefSt) : Keeps s (s.modRef f) := Keeps.of_fields rfl rfl rfl rfl rfl rfl rfl rfl rfl rfl
theorem State.modSyn_keeps (s : State) (f : SynSt → SynSt) : Keeps s (s.modSyn f) := Keeps.of_fields rfl rfl rfl rfl rfl rfl rfl rfl rfl rfl
theorem State.modHost_keeps (s : State) (f : HostSt → HostSt) : Keeps s (s.modHost f) := Keeps.of_fields rfl rfl rfl rfl rfl rfl rfl rfl rfl rfl
theorem State.modFlt_keeps (s : State) (f : FltSt → FltSt) : Keeps s (s.modFlt f) := Keeps.of_fields rfl rfl rfl rfl rfl rfl rfl rfl rfl rfl
theorem State.modMem_keeps (s : State) (f : MemSt → MemSt) : Keeps s (s.modMem f) := Keeps.of_fields rfl rfl rfl rfl rfl rfl rfl rfl rfl rfl
theorem State.modSec_keeps (s : State) (f : SecSt → SecSt) : Keeps s (s.modSec f) := Keeps.of_fields rfl rfl rfl rfl rfl rfl rfl rfl rfl rfl

/-- A change of the keeper's registers that leaves the Ledger. -/
theorem State.modKeep_keeps (s : State) (f : KeepSt → KeepSt) (h : (f s.keep).ledger = s.keep.ledger) : Keeps s (s.modKeep f) :=
  Keeps.of_fields rfl rfl rfl h rfl rfl rfl rfl rfl rfl

/-- A change of the Ledger that programs bits and clears none. -/
theorem State.modKeep_otp (s : State) (f : KeepSt → KeepSt) (h : OtpKept s.keep.ledger (f s.keep).ledger) : Keeps s (s.modKeep f) :=
  ⟨rfl, rfl, Nat.le_refl _, h, id⟩

theorem State.bumpSeq_keeps (s : State) (p : Nat) : Keeps s (s.bumpSeq p) := Keeps.of_fields rfl rfl rfl rfl rfl rfl rfl rfl rfl rfl
theorem State.emit_keeps (s : State) (o : Out) : Keeps s (s.emit o) := Keeps.of_fields rfl rfl rfl rfl rfl rfl rfl rfl rfl rfl
theorem State.draw_keeps (s : State) : Keeps s s.draw.2 := ⟨rfl, rfl, Nat.le_succ _, OtpKept.refl _, id⟩

theorem State.setReg_keeps (s : State) (a v : Nat) : Keeps s (s.setReg a v) :=
  ⟨rfl, rfl, Nat.le_refl _, OtpKept.refl _, fun h => by
    rw [canonical_iff] at h ⊢
    exact ⟨h.1, h.2.1, (regsWf_iff _).mpr (Tab.neat_set a _ ((regsWf_iff s).mp h.2.2.1)), h.2.2.2⟩⟩

theorem State.dropRegs_keeps (s : State) (p : Nat → Bool) : Keeps s (s.dropRegs p) :=
  ⟨rfl, rfl, Nat.le_refl _, OtpKept.refl _, fun h => by
    rw [canonical_iff] at h ⊢
    exact ⟨h.1, h.2.1, (regsWf_iff _).mpr (Tab.neat_filter _ ((regsWf_iff s).mp h.2.2.1)), h.2.2.2⟩⟩

/-- The stacks take another content in canonical form. -/
theorem State.setStack_keeps (s : State) (m : List Host.Cell) (h : Memory.wf s.stackMem = true → Memory.wf m = true) : Keeps s (s.setStack m) :=
  ⟨rfl, rfl, Nat.le_refl _, OtpKept.refl _, fun hc => by
    rw [canonical_iff] at hc ⊢
    exact ⟨h hc.1, hc.2⟩⟩

/-- The working store takes another content in canonical form. -/
theorem State.setWs_keeps (s : State) (m : List Host.Cell) (h : Memory.wf s.wsMem = true → Memory.wf m = true) : Keeps s (s.setWs m) :=
  ⟨rfl, rfl, Nat.le_refl _, OtpKept.refl _, fun hc => by
    rw [canonical_iff] at hc ⊢
    exact ⟨hc.1, h hc.2.1, hc.2.2⟩⟩

theorem State.setStack_store_keeps (s : State) (a : Nat) (l : List Byte) : Keeps s (s.setStack (Memory.store s.stackMem a l)) :=
  State.setStack_keeps _ _ (Memory.wf_store a l)
theorem State.setStack_zero_keeps (s : State) (lo hi : Nat) : Keeps s (s.setStack (Memory.zero s.stackMem lo hi)) :=
  State.setStack_keeps _ _ (Memory.wf_zero lo hi)
theorem State.setWs_store_keeps (s : State) (a : Nat) (l : List Byte) : Keeps s (s.setWs (Memory.store s.wsMem a l)) :=
  State.setWs_keeps _ _ (Memory.wf_store a l)
theorem State.setWs_zero_keeps (s : State) (lo hi : Nat) : Keeps s (s.setWs (Memory.zero s.wsMem lo hi)) :=
  State.setWs_keeps _ _ (Memory.wf_zero lo hi)

/-! One field takes another value. -/

theorem Keeps.set_held (s : State) (held : List Held) : Keeps s { s with held := held } := Keeps.of_fields rfl rfl rfl rfl rfl rfl rfl rfl rfl rfl
theorem Keeps.set_conseqs (s : State) (x : List (Nat × Nat × Nat)) : Keeps s { s with conseqs := x } := Keeps.of_fields rfl rfl rfl rfl rfl rfl rfl rfl rfl rfl
theorem Keeps.set_pgEvt (s : State) (x : Tab (BitVec 32)) : Keeps s { s with pgEvt := x } := Keeps.of_fields rfl rfl rfl rfl rfl rfl rfl rfl rfl rfl
theorem Keeps.set_evtDue (s : State) (x : List (Nat × Nat × Nat)) : Keeps s { s with evtDue := x } := Keeps.of_fields rfl rfl rfl rfl rfl rfl rfl rfl rfl rfl
theorem Keeps.set_pgEvt_evtDue (s : State) (x : Tab (BitVec 32)) (y : List (Nat × Nat × Nat)) : Keeps s { s with pgEvt := x, evtDue := y } :=
  Keeps.of_fields rfl rfl rfl rfl rfl rfl rfl rfl rfl rfl
theorem Keeps.set_flight (s : State) (x : List Det) : Keeps s { s with flight := x } := Keeps.of_fields rfl rfl rfl rfl rfl rfl rfl rfl rfl rfl
theorem Keeps.set_heldDet (s : State) (x : List Det) : Keeps s { s with heldDet := x } := Keeps.of_fields rfl rfl rfl rfl rfl rfl rfl rfl rfl rfl
theorem Keeps.set_colCh (s : State) (x : Tab Coll) : Keeps s { s with colCh := x } := Keeps.of_fields rfl rfl rfl rfl rfl rfl rfl rfl rfl rfl
theorem Keeps.set_colClu (s : State) (x : Tab Coll) : Keeps s { s with colClu := x } := Keeps.of_fields rfl rfl rfl rfl rfl rfl rfl rfl rfl rfl
theorem Keeps.set_colDev (s : State) (x : Coll) : Keeps s { s with colDev := x } := Keeps.of_fields rfl rfl rfl rfl rfl rfl rfl rfl rfl rfl
theorem Keeps.set_snapSt (s : State) (x : Tab SnapSt) : Keeps s { s with snapSt := x } := Keeps.of_fields rfl rfl rfl rfl rfl rfl rfl rfl rfl rfl
theorem Keeps.set_heldDet_heldN (s : State) (x : List Det) (n : Nat) : Keeps s { s with heldDet := x, heldN := n } :=
  Keeps.of_fields rfl rfl rfl rfl rfl rfl rfl rfl rfl rfl
theorem Keeps.set_flight_heldDet (s : State) (x y : List Det) : Keeps s { s with flight := x, heldDet := y } :=
  Keeps.of_fields rfl rfl rfl rfl rfl rfl rfl rfl rfl rfl
theorem Keeps.set_t (s : State) (t : Nat) : Keeps s { s with t := t } := Keeps.of_fields rfl rfl rfl rfl rfl rfl rfl rfl rfl rfl
theorem Keeps.set_t_gtRun (s : State) (t : Nat) (b : Bool) : Keeps s { s with t := t, gtRun := b } :=
  Keeps.of_fields rfl rfl rfl rfl rfl rfl rfl rfl rfl rfl
theorem Keeps.set_pgEvt_pgSeq (s : State) (x : Tab (BitVec 32)) (y : Tab (BitVec 16)) : Keeps s { s with pgEvt := x, pgSeq := y } :=
  Keeps.of_fields rfl rfl rfl rfl rfl rfl rfl rfl rfl rfl
theorem Keeps.set_snaps (s : State) (x : Tab Word) (y : Tab SnapSt) : Keeps s { s with snaps := x, snapSt := y } :=
  Keeps.of_fields rfl rfl rfl rfl rfl rfl rfl rfl rfl rfl

end Sys2Proof.Machine
end

