-- ==== Sys2Proof/Laws/KeepsCore.lean ====
section
/-!
SUPPORT. Sys2Proof/Laws/KeepsCore.lean: `Keeps` for raising faults, interrupts, error correction, the Sluice, drive and stamping.
-/

set_option linter.unusedTactic false
set_option linter.unreachableTactic false

namespace Sys2Proof.Machine

theorem State.modColl_keeps (s : State) (src : Nat) (f : Coll → Coll) : Keeps s (s.modColl src f) := by
  simp only [State.modColl]
  split
  · exact Keeps.set_colCh ..
  · exact Keeps.set_colClu ..
  · exact Keeps.set_colDev ..

theorem State.modSrc_keeps (s : State) (src : Nat) (f : SrcSt → SrcSt) : Keeps s (s.modSrc src f) := by
  unfold State.modSrc
  repeat' first
    | with_reducible apply Keeps.refl
    | intro _
    | extract_lets
    | with_reducible apply Keeps.ite
    | with_reducible apply Keeps.after (State.modColl_keeps ..)
    | split
    | dsimp +zetaDelta only

theorem State.latch_keeps (s : State) (page b : Nat) : Keeps s (s.latch page b) := Keeps.of_fields rfl rfl rfl rfl rfl rfl rfl rfl rfl rfl

theorem State.latchAt_keeps (s : State) (page b at_ : Nat) : Keeps s (s.latchAt page b at_) := by
  unfold State.latchAt
  repeat' first
    | with_reducible apply Keeps.refl
    | intro _
    | extract_lets
    | with_reducible apply Keeps.ite
    | with_reducible apply Keeps.after (State.latch_keeps ..)
    | with_reducible apply Keeps.after (Keeps.set_evtDue ..)
    | split
    | dsimp +zetaDelta only

theorem State.unlatch_keeps (s : State) (page : Nat) (m : BitVec 32) : Keeps s (s.unlatch page m) :=
  Keeps.of_fields rfl rfl rfl rfl rfl rfl rfl rfl rfl rfl

theorem State.clearEvt_keeps (s : State) (page : Nat) (m : BitVec 32) : Keeps s (s.clearEvt page m) := by
  unfold State.clearEvt
  repeat' first
    | with_reducible apply Keeps.refl
    | intro _
    | extract_lets
    | with_reducible apply Keeps.ite
    | with_reducible apply Keeps.after (State.unlatch_keeps ..)
    | split
    | dsimp +zetaDelta only

theorem State.send_keeps (s : State) (d : Det) : Keeps s (s.send d) := by
  unfold State.send
  split
  · split
    · exact Keeps.set_heldDet_heldN ..
    · exact State.modDev_keeps ..
  · split
    · exact Keeps.set_heldDet ..
    · exact Keeps.set_flight ..

theorem State.withdraw_keeps (s : State) (src code at_ : Nat) : Keeps s (s.withdraw src code at_) :=
  Keeps.of_fields rfl rfl rfl rfl rfl rfl rfl rfl rfl rfl

theorem State.callOff_keeps (s : State) (src code : Nat) : Keeps s (s.callOff src code) :=
  Keeps.of_fields rfl rfl rfl rfl rfl rfl rfl rfl rfl rfl

theorem State.raiseAt_keeps (s : State) (src code native : Nat) (shelf : Shelf) (value : BitVec 28) (at_ : Nat) : Keeps s (s.raiseAt src code native shelf value at_) := by
  unfold State.raiseAt
  repeat' first
    | with_reducible apply Keeps.refl
    | intro _
    | extract_lets
    | with_reducible apply Keeps.ite
    | with_reducible apply Keeps.after (State.latchAt_keeps ..)
    | with_reducible apply Keeps.after (State.modSrc_keeps ..)
    | with_reducible apply Keeps.after (State.send_keeps ..)
    | split
    | dsimp +zetaDelta only

theorem State.raise_keeps (s : State) (src code native : Nat) : Keeps s (s.raise src code native) := by
  unfold State.raise
  repeat' first
    | with_reducible apply Keeps.refl
    | intro _
    | extract_lets
    | with_reducible apply Keeps.ite
    | with_reducible apply Keeps.after (State.raiseAt_keeps ..)
    | split
    | dsimp +zetaDelta only

theorem State.raiseCh_keeps (s : State) (w idx code native : Nat) : Keeps s (s.raiseCh w idx code native) := by
  unfold State.raiseCh
  repeat' first
    | with_reducible apply Keeps.refl
    | intro _
    | extract_lets
    | with_reducible apply Keeps.ite
    | with_reducible apply Keeps.after (State.raise_keeps ..)
    | split
    | dsimp +zetaDelta only

theorem State.raiseSeg_keeps (s : State) (w idx code native : Nat) (shelf : Shelf) (at_ : Nat) : Keeps s (s.raiseSeg w idx code native shelf at_) := by
  unfold State.raiseSeg
  repeat' first
    | with_reducible apply Keeps.refl
    | intro _
    | extract_lets
    | with_reducible apply Keeps.ite
    | with_reducible apply Keeps.after (State.raiseAt_keeps ..)
    | split
    | dsimp +zetaDelta only

theorem State.raiseClu_keeps (s : State) (c idx code native : Nat) : Keeps s (s.raiseClu c idx code native) := by
  unfold State.raiseClu
  repeat' first
    | with_reducible apply Keeps.refl
    | intro _
    | extract_lets
    | with_reducible apply Keeps.ite
    | with_reducible apply Keeps.after (State.raise_keeps ..)
    | split
    | dsimp +zetaDelta only

theorem State.raiseDev_keeps (s : State) (page idx code native : Nat) : Keeps s (s.raiseDev page idx code native) := by
  unfold State.raiseDev
  repeat' first
    | with_reducible apply Keeps.refl
    | intro _
    | extract_lets
    | with_reducible apply Keeps.ite
    | with_reducible apply Keeps.after (State.raise_keeps ..)
    | split
    | dsimp +zetaDelta only

theorem State.raiseVal_keeps (s : State) (src code native value : Nat) : Keeps s (s.raiseVal src code native value) := by
  unfold State.raiseVal
  repeat' first
    | with_reducible apply Keeps.refl
    | intro _
    | extract_lets
    | with_reducible apply Keeps.ite
    | with_reducible apply Keeps.after (State.raiseAt_keeps ..)
    | split
    | dsimp +zetaDelta only

theorem State.endCond_keeps (s : State) (src code : Nat) : Keeps s (s.endCond src code) := by
  unfold State.endCond
  repeat' first
    | with_reducible apply Keeps.refl
    | intro _
    | extract_lets
    | with_reducible apply Keeps.ite
    | with_reducible apply Keeps.after (State.modSrc_keeps ..)
    | with_reducible apply Keeps.after (State.modDev_keeps ..)
    | split
    | dsimp +zetaDelta only

theorem State.sendMore_keeps (s : State) (src at_ k : Nat) : Keeps s (s.sendMore src at_ k) := by
  unfold State.sendMore
  split
  · exact Keeps.set_flight ..
  · extract_lets s1
    have h : Keeps s s1 := State.modSrc_keeps ..
    split
    · exact h.trans (State.modHv_keeps ..)
    · exact h.trans (State.modHv_keeps ..)
    · exact h.trans (State.modFlt_keeps ..)

theorem State.latchAll_keeps (s : State) (d : First) : Keeps s (s.latchAll d) := by
  unfold State.latchAll
  refine Keeps.trans ?_ (Keeps.set_colDev ..)
  split
  · refine Keeps.trans ?_ (State.modColl_keeps ..)
    split
    · exact State.modColl_keeps ..
    · exact Keeps.refl _
  · split
    · exact State.modColl_keeps ..
    · exact Keeps.refl _

theorem State.logIndicate_keeps (s : State) : Keeps s (s.logIndicate) := by
  unfold State.logIndicate
  repeat' first
    | with_reducible apply Keeps.refl
    | intro _
    | extract_lets
    | with_reducible apply Keeps.ite
    | with_reducible apply Keeps.after (State.modFlt_keeps ..)
    | split
    | dsimp +zetaDelta only

theorem State.logPush_keeps (s : State) (src : Nat) (r : Rec) : Keeps s (s.logPush src r) := by
  unfold State.logPush
  repeat' first
    | with_reducible apply Keeps.refl
    | intro _
    | extract_lets
    | with_reducible apply Keeps.ite
    | with_reducible apply Keeps.after (State.modFlt_keeps ..)
    | with_reducible apply Keeps.after (State.logIndicate_keeps ..)
    | with_reducible apply Keeps.after (State.raiseDev_keeps ..)
    | with_reducible apply Keeps.after (State.setWs_store_keeps ..)
    | split
    | dsimp +zetaDelta only

theorem State.harvestEvent_keeps (s : State) (src : Nat) (r : Rec) : Keeps s (s.harvestEvent src r) := by
  unfold State.harvestEvent
  repeat' first
    | with_reducible apply Keeps.refl
    | intro _
    | extract_lets
    | with_reducible apply Keeps.ite
    | with_reducible apply Keeps.after (State.modHv_keeps ..)
    | with_reducible apply Keeps.after (State.modFlt_keeps ..)
    | split
    | dsimp +zetaDelta only

/-- Time passes: the clock advances by `dt`, and nothing else that `Keeps` speaks of changes. -/
theorem State.advance_keeps (s : State) (dt : Nat) : Keeps { s with now := s.now + dt } (s.advance dt) := by
  unfold State.advance
  split
  · dsimp only
    split
    · exact Keeps.set_t ..
    · exact Keeps.trans (Keeps.set_t ..) (State.raiseAt_keeps ..)
  · exact Keeps.refl _

theorem State.sendVec_keeps (s : State) (v : Nat) : Keeps s (s.sendVec v) := by
  unfold State.sendVec
  repeat' first
    | with_reducible apply Keeps.refl
    | intro _
    | extract_lets
    | with_reducible apply Keeps.ite
    | with_reducible apply Keeps.after (State.modHost_keeps ..)
    | with_reducible apply Keeps.after (State.emit_keeps ..)
    | split
    | dsimp +zetaDelta only

theorem State.sinceVec_keeps (s : State) (v : Nat) : Keeps s (s.sinceVec v) := by
  unfold State.sinceVec
  repeat' first
    | with_reducible apply Keeps.refl
    | intro _
    | extract_lets
    | with_reducible apply Keeps.ite
    | with_reducible apply Keeps.after (State.modHost_keeps ..)
    | split
    | dsimp +zetaDelta only

theorem State.sinceAll_keeps (s : State) : Keeps s (s.sinceAll) := by
  unfold State.sinceAll
  repeat' first
    | with_reducible apply Keeps.refl
    | intro _
    | extract_lets
    | with_reducible apply Keeps.ite
    | with_reducible apply Keeps.after (State.sinceVec_keeps ..)
    | with_reducible apply Keeps.after (State.each_keeps _ _ _ ?_)
    | split
    | dsimp +zetaDelta only

theorem State.signalVec_keeps (s : State) (v : Nat) : Keeps s (s.signalVec v) := by
  unfold State.signalVec
  repeat' first
    | with_reducible apply Keeps.refl
    | intro _
    | extract_lets
    | with_reducible apply Keeps.ite
    | with_reducible apply Keeps.after (State.modHost_keeps ..)
    | with_reducible apply Keeps.after (State.sinceVec_keeps ..)
    | with_reducible apply Keeps.after (State.sendVec_keeps ..)
    | split
    | dsimp +zetaDelta only

theorem State.signal_keeps (s : State) (off : Nat) : Keeps s (s.signal off) := by
  unfold State.signal
  repeat' first
    | with_reducible apply Keeps.refl
    | intro _
    | extract_lets
    | with_reducible apply Keeps.ite
    | with_reducible apply Keeps.after (State.signalVec_keeps ..)
    | split
    | dsimp +zetaDelta only

theorem State.flushVecs_keeps (s : State) : Keeps s (s.flushVecs) := by
  unfold State.flushVecs
  repeat' first
    | with_reducible apply Keeps.refl
    | intro _
    | extract_lets
    | with_reducible apply Keeps.ite
    | with_reducible apply Keeps.after (State.modHost_keeps ..)
    | with_reducible apply Keeps.after (State.sendVec_keeps ..)
    | with_reducible apply Keeps.after (State.each_keeps _ _ _ ?_)
    | split
    | dsimp +zetaDelta only

theorem State.unmaskVec_keeps (s : State) (v : Nat) : Keeps s (s.unmaskVec v) := by
  unfold State.unmaskVec
  repeat' first
    | with_reducible apply Keeps.refl
    | intro _
    | extract_lets
    | with_reducible apply Keeps.ite
    | with_reducible apply Keeps.after (State.modHost_keeps ..)
    | with_reducible apply Keeps.after (State.sinceVec_keeps ..)
    | with_reducible apply Keeps.after (State.sendVec_keeps ..)
    | split
    | dsimp +zetaDelta only

theorem State.signalColl_keeps (s : State) (src : Nat) : Keeps s (s.signalColl src) := by
  unfold State.signalColl
  repeat' first
    | with_reducible apply Keeps.refl
    | intro _
    | extract_lets
    | with_reducible apply Keeps.ite
    | with_reducible apply Keeps.after (State.signal_keeps ..)
    | split
    | dsimp +zetaDelta only

theorem State.aliveFreeze_keeps (s : State) (cause src : Nat) : Keeps s (s.aliveFreeze cause src) := by
  unfold State.aliveFreeze
  repeat' first
    | with_reducible apply Keeps.refl
    | intro _
    | extract_lets
    | with_reducible apply Keeps.ite
    | with_reducible apply Keeps.after (State.modFlt_keeps ..)
    | with_reducible apply Keeps.after (State.raiseDev_keeps ..)
    | split
    | dsimp +zetaDelta only

theorem State.trap_keeps (s : State) (d : Det) (k : Classed) (r : Rec) : Keeps s (s.trap d k r) := by
  unfold State.trap
  repeat' first
    | with_reducible apply Keeps.refl
    | intro _
    | extract_lets
    | with_reducible apply Keeps.ite
    | with_reducible apply Keeps.after (State.modFlt_keeps ..)
    | with_reducible apply Keeps.after (State.raiseDev_keeps ..)
    | with_reducible apply Keeps.after (State.emit_keeps ..)
    | with_reducible apply Keeps.after (State.modHost_keeps ..)
    | with_reducible apply Keeps.after (State.setWs_store_keeps ..)
    | split
    | dsimp +zetaDelta only

theorem State.touchBank_keeps (s : State) (b : Nat) : Keeps s (s.touchBank b) := by
  unfold State.touchBank
  repeat' first
    | with_reducible apply Keeps.refl
    | intro _
    | extract_lets
    | with_reducible apply Keeps.ite
    | with_reducible apply Keeps.after (State.modMem_keeps ..)
    | with_reducible apply Keeps.after (State.raiseDev_keeps ..)
    | split
    | dsimp +zetaDelta only

theorem State.eccStack_keeps (s : State) (addr kind m : Nat) : Keeps s (s.eccStack addr kind m) := by
  unfold State.eccStack
  repeat' first
    | with_reducible apply Keeps.refl
    | intro _
    | extract_lets
    | with_reducible apply Keeps.ite
    | with_reducible apply Keeps.after (State.modMem_keeps ..)
    | with_reducible apply Keeps.after (State.raiseDev_keeps ..)
    | split
    | dsimp +zetaDelta only

theorem State.eccBank_keeps (s : State) (off kind m : Nat) : Keeps s (s.eccBank off kind m) := by
  unfold State.eccBank
  repeat' first
    | with_reducible apply Keeps.refl
    | intro _
    | extract_lets
    | with_reducible apply Keeps.ite
    | with_reducible apply Keeps.after (State.modMem_keeps ..)
    | with_reducible apply Keeps.after (State.raiseDev_keeps ..)
    | split
    | dsimp +zetaDelta only

theorem State.eccStackSeen_keeps (s : State) (e : Ecc) (addr m : Nat) : Keeps s (s.eccStackSeen e addr m) := by
  unfold State.eccStackSeen
  repeat' first
    | with_reducible apply Keeps.refl
    | intro _
    | extract_lets
    | with_reducible apply Keeps.ite
    | with_reducible apply Keeps.after (State.eccStack_keeps ..)
    | split
    | dsimp +zetaDelta only

theorem State.eccBankSeen_keeps (s : State) (e : Ecc) (off m : Nat) : Keeps s (s.eccBankSeen e off m) := by
  unfold State.eccBankSeen
  repeat' first
    | with_reducible apply Keeps.refl
    | intro _
    | extract_lets
    | with_reducible apply Keeps.ite
    | with_reducible apply Keeps.after (State.eccBank_keeps ..)
    | split
    | dsimp +zetaDelta only

theorem State.queueGap_keeps (s : State) (w : Nat) : Keeps s (s.queueGap w) := by
  unfold State.queueGap
  repeat' first
    | with_reducible apply Keeps.refl
    | intro _
    | extract_lets
    | with_reducible apply Keeps.ite
    | with_reducible apply Keeps.after (State.modCp_keeps ..)
    | split
    | dsimp +zetaDelta only

theorem State.queueRec_keeps (s : State) (w : Nat) (r : Rec) : Keeps s (s.queueRec w r) := by
  unfold State.queueRec
  repeat' first
    | with_reducible apply Keeps.refl
    | intro _
    | extract_lets
    | with_reducible apply Keeps.ite
    | with_reducible apply Keeps.after (State.queueGap_keeps ..)
    | with_reducible apply Keeps.after (State.modCp_keeps ..)
    | with_reducible apply Keeps.after (State.modMn_keeps ..)
    | with_reducible apply Keeps.after (State.raiseCh_keeps ..)
    | split
    | dsimp +zetaDelta only

theorem State.fillIndicate_keeps (s : State) (w : Nat) : Keeps s (s.fillIndicate w) := by
  unfold State.fillIndicate
  repeat' first
    | with_reducible apply Keeps.refl
    | intro _
    | extract_lets
    | with_reducible apply Keeps.ite
    | with_reducible apply Keeps.after (State.modSl_keeps ..)
    | split
    | dsimp +zetaDelta only

theorem State.pushSlices_keeps (s : State) (w : Nat) (r : Role) (n : Nat) (bad laneBad : Word) : Keeps s (s.pushSlices w r n bad laneBad) := by
  unfold State.pushSlices
  repeat' first
    | with_reducible apply Keeps.refl
    | intro _
    | extract_lets
    | with_reducible apply Keeps.ite
    | with_reducible apply Keeps.after (State.touchBank_keeps ..)
    | with_reducible apply Keeps.after (State.modSl_keeps ..)
    | with_reducible apply Keeps.after (foldl_keeps _ _ _ ?_)
    | split
    | dsimp +zetaDelta only

theorem State.pushChain_keeps (s : State) (w n : Nat) (bad laneBad : Word) : Keeps s (s.pushChain w n bad laneBad).1 := by
  unfold State.pushChain
  dsimp only
  split
  · exact Keeps.refl s
  · split
    · dsimp only
      exact State.modSl_keeps ..
    · split
      · exact Keeps.refl s
      · dsimp only
        exact State.modSl_keeps ..

theorem State.stockIndicate_keeps (s : State) (w : Nat) : Keeps s (s.stockIndicate w) := by
  unfold State.stockIndicate
  repeat' first
    | with_reducible apply Keeps.refl
    | intro _
    | extract_lets
    | with_reducible apply Keeps.ite
    | with_reducible apply Keeps.after (State.modSl_keeps ..)
    | split
    | dsimp +zetaDelta only

theorem State.perr_keeps (s : State) (w code : Nat) (sh : Shelf) (t : Nat) : Keeps s (s.perr w code sh t) := by
  unfold State.perr
  repeat' first
    | with_reducible apply Keeps.refl
    | intro _
    | extract_lets
    | with_reducible apply Keeps.ite
    | with_reducible apply Keeps.after (State.modPl_keeps ..)
    | with_reducible apply Keeps.after (State.bumpSeq_keeps ..)
    | with_reducible apply Keeps.after (State.raiseSeg_keeps ..)
    | split
    | dsimp +zetaDelta only

theorem State.flushIntake_keeps (s : State) (w : Nat) : Keeps s (s.flushIntake w) := by
  unfold State.flushIntake
  repeat' first
    | with_reducible apply Keeps.refl
    | intro _
    | extract_lets
    | with_reducible apply Keeps.ite
    | with_reducible apply Keeps.after (State.modIk_keeps ..)
    | split
    | dsimp +zetaDelta only

theorem State.flushStreams_keeps (s : State) (w : Nat) : Keeps s (s.flushStreams w) := by
  unfold State.flushStreams
  repeat' first
    | with_reducible apply Keeps.refl
    | intro _
    | extract_lets
    | with_reducible apply Keeps.ite
    | with_reducible apply Keeps.after (State.modSl_keeps ..)
    | with_reducible apply Keeps.after (State.flushIntake_keeps ..)
    | with_reducible apply Keeps.after (Keeps.set_held ..)
    | split
    | dsimp +zetaDelta only

theorem State.dropProgram_keeps (s : State) (w : Nat) : Keeps s (s.dropProgram w) := by
  unfold State.dropProgram
  repeat' first
    | with_reducible apply Keeps.refl
    | intro _
    | extract_lets
    | with_reducible apply Keeps.ite
    | with_reducible apply Keeps.after (State.modSq_keeps ..)
    | split
    | dsimp +zetaDelta only

theorem State.settle_keeps (s : State) (w horizon : Nat) : Keeps s (s.settle w horizon) := by
  unfold State.settle
  repeat' first
    | with_reducible apply Keeps.refl
    | intro _
    | extract_lets
    | with_reducible apply Keeps.ite
    | with_reducible apply Keeps.after (State.modSlot_keeps ..)
    | with_reducible apply Keeps.after (State.raiseAt_keeps ..)
    | with_reducible apply Keeps.after (State.modTm_keeps ..)
    | with_reducible apply Keeps.after (foldl_keeps _ _ _ ?_)
    | split
    | dsimp +zetaDelta only

theorem State.placeDrive_keeps (s : State) (w t p ts c vec : Nat) (strobed : Bool) : Keeps s (s.placeDrive w t p ts c vec strobed) := by
  unfold State.placeDrive
  repeat' first
    | with_reducible apply Keeps.refl
    | intro _
    | extract_lets
    | with_reducible apply Keeps.ite
    | with_reducible apply Keeps.after (State.modSlot_keeps ..)
    | with_reducible apply Keeps.after (State.raiseAt_keeps ..)
    | with_reducible apply Keeps.after (State.modTm_keeps ..)
    | with_reducible apply Keeps.after (foldl_keeps _ _ _ ?_)
    | split
    | dsimp +zetaDelta only

theorem State.setStatic_keeps (s : State) (w : Nat) (d : Drv) : Keeps s (s.setStatic w d) := by
  unfold State.setStatic
  repeat' first
    | with_reducible apply Keeps.refl
    | intro _
    | extract_lets
    | with_reducible apply Keeps.ite
    | with_reducible apply Keeps.after (State.modMd_keeps ..)
    | with_reducible apply Keeps.after (State.modSlot_keeps ..)
    | split
    | dsimp +zetaDelta only

theorem State.stpRefuse_keeps (s : State) (w reason : Nat) : Keeps s (s.stpRefuse w reason) := by
  unfold State.stpRefuse
  repeat' first
    | with_reducible apply Keeps.refl
    | intro _
    | extract_lets
    | with_reducible apply Keeps.ite
    | with_reducible apply Keeps.after (State.modSt_keeps ..)
    | with_reducible apply Keeps.after (State.raiseCh_keeps ..)
    | split
    | dsimp +zetaDelta only

theorem State.stpAccept_keeps (s : State) (w : Nat) : Keeps s (s.stpAccept w) := by
  unfold State.stpAccept
  repeat' first
    | with_reducible apply Keeps.refl
    | intro _
    | extract_lets
    | with_reducible apply Keeps.ite
    | with_reducible apply Keeps.after (State.modSt_keeps ..)
    | split
    | dsimp +zetaDelta only

theorem State.stampArmAt_keeps (s : State) (w t cause : Nat) : Keeps s (s.stampArmAt w t cause) := by
  unfold State.stampArmAt
  repeat' first
    | with_reducible apply Keeps.refl
    | intro _
    | extract_lets
    | with_reducible apply Keeps.ite
    | with_reducible apply Keeps.after (State.stpRefuse_keeps ..)
    | with_reducible apply Keeps.after (State.modSt_keeps ..)
    | with_reducible apply Keeps.after (State.raiseAt_keeps ..)
    | split
    | dsimp +zetaDelta only

theorem State.stampUnarm_keeps (s : State) (w t : Nat) : Keeps s (s.stampUnarm w t) := by
  unfold State.stampUnarm
  repeat' first
    | with_reducible apply Keeps.refl
    | intro _
    | extract_lets
    | with_reducible apply Keeps.ite
    | with_reducible apply Keeps.after (State.modSt_keeps ..)
    | with_reducible apply Keeps.after (State.withdraw_keeps ..)
    | with_reducible apply Keeps.after (State.unlatch_keeps ..)
    | split
    | dsimp +zetaDelta only

theorem State.stampDisarmAt_keeps (s : State) (w t cause : Nat) : Keeps s (s.stampDisarmAt w t cause) := by
  unfold State.stampDisarmAt
  repeat' first
    | with_reducible apply Keeps.refl
    | intro _
    | extract_lets
    | with_reducible apply Keeps.ite
    | with_reducible apply Keeps.after (State.modSt_keeps ..)
    | with_reducible apply Keeps.after (State.withdraw_keeps ..)
    | with_reducible apply Keeps.after (State.stampUnarm_keeps ..)
    | with_reducible apply Keeps.after (State.raiseAt_keeps ..)
    | split
    | dsimp +zetaDelta only

theorem State.numberEdge_keeps (s : State) (w t : Nat) (rising : Bool) (vec : Option Nat) : Keeps s (s.numberEdge w t rising vec) := by
  unfold State.numberEdge
  repeat' first
    | with_reducible apply Keeps.refl
    | intro _
    | extract_lets
    | with_reducible apply Keeps.ite
    | with_reducible apply Keeps.after (State.modSt_keeps ..)
    | with_reducible apply Keeps.after (State.raiseCh_keeps ..)
    | with_reducible apply Keeps.after (State.stampDisarmAt_keeps ..)
    | split
    | dsimp +zetaDelta only

theorem State.deadTime_keeps (s : State) (w t : Nat) (rising : Bool) (vec : Option Nat) : Keeps s (s.deadTime w t rising vec) := by
  unfold State.deadTime
  repeat' first
    | with_reducible apply Keeps.refl
    | intro _
    | extract_lets
    | with_reducible apply Keeps.ite
    | with_reducible apply Keeps.after (State.modSt_keeps ..)
    | with_reducible apply Keeps.after (State.numberEdge_keeps ..)
    | split
    | dsimp +zetaDelta only

theorem State.edgeTs_keeps (s : State) (w now t : Nat) (rising : Bool) : Keeps s (s.edgeTs w now t rising) := by
  unfold State.edgeTs
  repeat' first
    | with_reducible apply Keeps.refl
    | intro _
    | extract_lets
    | with_reducible apply Keeps.ite
    | with_reducible apply Keeps.after (State.deadTime_keeps ..)
    | with_reducible apply Keeps.after (State.modSt_keeps ..)
    | split
    | dsimp +zetaDelta only

theorem State.edgeFree_keeps (s : State) (w t : Nat) (rising counted : Bool) : Keeps s (s.edgeFree w t rising counted) := by
  unfold State.edgeFree
  repeat' first
    | with_reducible apply Keeps.refl
    | intro _
    | extract_lets
    | with_reducible apply Keeps.ite
    | with_reducible apply Keeps.after (State.modSt_keeps ..)
    | with_reducible apply Keeps.after (State.deadTime_keeps ..)
    | split
    | dsimp +zetaDelta only

theorem State.edgeAt_keeps (s : State) (w : Nat) (rising counted : Bool) : Keeps s (s.edgeAt w rising counted) := by
  unfold State.edgeAt
  repeat' first
    | with_reducible apply Keeps.refl
    | intro _
    | extract_lets
    | with_reducible apply Keeps.ite
    | with_reducible apply Keeps.after (State.edgeTs_keeps ..)
    | with_reducible apply Keeps.after (State.edgeFree_keeps ..)
    | split
    | dsimp +zetaDelta only

theorem State.fullish_keeps (s : State) (w : Nat) : Keeps s (s.fullish w) := by
  unfold State.fullish
  repeat' first
    | with_reducible apply Keeps.refl
    | intro _
    | extract_lets
    | with_reducible apply Keeps.ite
    | with_reducible apply Keeps.after (State.modSt_keeps ..)
    | with_reducible apply Keeps.after (State.raiseCh_keeps ..)
    | split
    | dsimp +zetaDelta only

theorem State.lossGap_keeps (s : State) (w : Nat) : Keeps s (s.lossGap w) := by
  unfold State.lossGap
  repeat' first
    | with_reducible apply Keeps.refl
    | intro _
    | extract_lets
    | with_reducible apply Keeps.ite
    | with_reducible apply Keeps.after (State.modSt_keeps ..)
    | split
    | dsimp +zetaDelta only

theorem State.engOccur_keeps (s : State) (w src sel code t bound : Nat) : Keeps s (s.engOccur w src sel code t bound) := by
  unfold State.engOccur
  repeat' first
    | with_reducible apply Keeps.refl
    | intro _
    | extract_lets
    | with_reducible apply Keeps.ite
    | with_reducible apply Keeps.after (State.modEn_keeps ..)
    | split
    | dsimp +zetaDelta only

theorem State.transfer_keeps (s : State) (w : Nat) : Keeps s (s.transfer w) := by
  unfold State.transfer
  repeat' first
    | with_reducible apply Keeps.refl
    | intro _
    | extract_lets
    | with_reducible apply Keeps.ite
    | with_reducible apply Keeps.after (State.modSt_keeps ..)
    | with_reducible apply Keeps.after (State.fullish_keeps ..)
    | with_reducible apply Keeps.after (State.lossGap_keeps ..)
    | with_reducible apply Keeps.after (State.engOccur_keeps ..)
    | split
    | dsimp +zetaDelta only

theorem State.lostGapNow_keeps (s : State) (w : Nat) : Keeps s (s.lostGapNow w) := by
  unfold State.lostGapNow
  repeat' first
    | with_reducible apply Keeps.refl
    | intro _
    | extract_lets
    | with_reducible apply Keeps.ite
    | with_reducible apply Keeps.after (State.lossGap_keeps ..)
    | with_reducible apply Keeps.after (State.fullish_keeps ..)
    | split
    | dsimp +zetaDelta only

theorem State.stampReset_keeps (s : State) (w : Nat) : Keeps s (s.stampReset w) := by
  unfold State.stampReset
  repeat' first
    | with_reducible apply Keeps.refl
    | intro _
    | extract_lets
    | with_reducible apply Keeps.ite
    | with_reducible apply Keeps.after (State.modSt_keeps ..)
    | split
    | dsimp +zetaDelta only

end Sys2Proof.Machine
end

