-- ==== Sys2Proof/Laws/KeepsProgram.lean ====
section
/-!
SUPPORT. Sys2Proof/Laws/KeepsProgram.lean: `Keeps` for the sequencer, playing, capture and intake.
-/

set_option linter.unusedTactic false
set_option linter.unreachableTactic false

namespace Sys2Proof.Machine

theorem State.fabDue_keeps (s : State) (w i at_ : Nat) (v : Bool) : Keeps s (s.fabDue w i at_ v) := by
  unfold State.fabDue
  repeat' first
    | with_reducible apply Keeps.refl
    | intro _
    | extract_lets
    | with_reducible apply Keeps.ite
    | with_reducible apply Keeps.after (State.modFb_keeps ..)
    | split
    | dsimp +zetaDelta only

theorem State.calLat_keeps (s : State) (c : Nat) : Keeps s (s.calLat c) := by
  unfold State.calLat
  repeat' first
    | with_reducible apply Keeps.refl
    | intro _
    | extract_lets
    | with_reducible apply Keeps.ite
    | with_reducible apply Keeps.after (State.modClu_keeps ..)
    | with_reducible apply Keeps.after (foldl_keeps _ _ _ ?_)
    | split
    | dsimp +zetaDelta only

theorem State.routesTake_keeps (s : State) (p : Nat → Nat → Bool) (v : Bool) (t : Nat) : Keeps s (s.routesTake p v t) := by
  unfold State.routesTake
  repeat' first
    | with_reducible apply Keeps.refl
    | intro _
    | extract_lets
    | with_reducible apply Keeps.ite
    | with_reducible apply Keeps.after (State.fabDue_keeps ..)
    | with_reducible apply Keeps.after (foldl_keeps _ _ _ ?_)
    | split
    | dsimp +zetaDelta only

theorem State.exportTakes_keeps (s : State) (c e : Nat) (v : Bool) (t : Nat) : Keeps s (s.exportTakes c e v t) := by
  unfold State.exportTakes
  repeat' first
    | with_reducible apply Keeps.refl
    | intro _
    | extract_lets
    | with_reducible apply Keeps.ite
    | with_reducible apply Keeps.after (State.modClu_keeps ..)
    | with_reducible apply Keeps.after (State.routesTake_keeps ..)
    | split
    | dsimp +zetaDelta only

theorem State.signalTakes_keeps (s : State) (w sig : Nat) (v : Bool) (t : Nat) : Keeps s (s.signalTakes w sig v t) := by
  unfold State.signalTakes
  repeat' first
    | with_reducible apply Keeps.refl
    | intro _
    | extract_lets
    | with_reducible apply Keeps.ite
    | with_reducible apply Keeps.after (State.modFb_keeps ..)
    | with_reducible apply Keeps.after (State.routesTake_keeps ..)
    | with_reducible apply Keeps.after (State.exportTakes_keeps ..)
    | with_reducible apply Keeps.after (foldl_keeps _ _ _ ?_)
    | split
    | dsimp +zetaDelta only

theorem State.keepChosen_keeps (s : State) (w : Nat) (k : BitVec 2) (sh : Shelf) : Keeps s (s.keepChosen w k sh) := by
  unfold State.keepChosen
  repeat' first
    | with_reducible apply Keeps.refl
    | intro _
    | extract_lets
    | with_reducible apply Keeps.ite
    | with_reducible apply Keeps.after (State.modSq_keeps ..)
    | with_reducible apply Keeps.after (State.modSl_keeps ..)
    | split
    | dsimp +zetaDelta only

theorem State.judgeSlot_keeps (s : State) (w k : Nat) : Keeps s (s.judgeSlot w k) := by
  unfold State.judgeSlot
  repeat' first
    | with_reducible apply Keeps.refl
    | intro _
    | extract_lets
    | with_reducible apply Keeps.ite
    | with_reducible apply Keeps.after (State.modSq_keeps ..)
    | with_reducible apply Keeps.after (State.modSl_keeps ..)
    | with_reducible apply Keeps.after (State.raiseCh_keeps ..)
    | split
    | dsimp +zetaDelta only

theorem State.raiseSeq_keeps (s : State) (w code t : Nat) : Keeps s (s.raiseSeq w code t) := by
  unfold State.raiseSeq
  repeat' first
    | with_reducible apply Keeps.refl
    | intro _
    | extract_lets
    | with_reducible apply Keeps.ite
    | with_reducible apply Keeps.after (State.raiseSeg_keeps ..)
    | split
    | dsimp +zetaDelta only

theorem State.jumpDrop_keeps (s : State) (w t : Nat) : Keeps s (s.jumpDrop w t) := by
  unfold State.jumpDrop
  repeat' first
    | with_reducible apply Keeps.refl
    | intro _
    | extract_lets
    | with_reducible apply Keeps.ite
    | with_reducible apply Keeps.after (State.modPl_keeps ..)
    | with_reducible apply Keeps.after (State.raiseSeq_keeps ..)
    | split
    | dsimp +zetaDelta only

theorem State.jumpArrive_keeps (s : State) (w k t : Nat) : Keeps s (s.jumpArrive w k t) := by
  unfold State.jumpArrive
  repeat' first
    | with_reducible apply Keeps.refl
    | intro _
    | extract_lets
    | with_reducible apply Keeps.ite
    | with_reducible apply Keeps.after (State.jumpDrop_keeps ..)
    | with_reducible apply Keeps.after (State.perr_keeps ..)
    | with_reducible apply Keeps.after (State.raiseSeq_keeps ..)
    | with_reducible apply Keeps.after (State.modSq_keeps ..)
    | split
    | dsimp +zetaDelta only

theorem State.jumpDue_keeps (s : State) (w : Nat) : Keeps s (s.jumpDue w) := by
  unfold State.jumpDue
  repeat' first
    | with_reducible apply Keeps.refl
    | intro _
    | extract_lets
    | with_reducible apply Keeps.ite
    | with_reducible apply Keeps.after (State.modSq_keeps ..)
    | with_reducible apply Keeps.after (State.jumpArrive_keeps ..)
    | with_reducible apply Keeps.after (State.each_keeps _ _ _ ?_)
    | split
    | dsimp +zetaDelta only

theorem State.jumpRequest_keeps (s : State) (w k t : Nat) : Keeps s (s.jumpRequest w k t) := by
  unfold State.jumpRequest
  repeat' first
    | with_reducible apply Keeps.refl
    | intro _
    | extract_lets
    | with_reducible apply Keeps.ite
    | with_reducible apply Keeps.after (State.jumpDue_keeps ..)
    | with_reducible apply Keeps.after (State.jumpArrive_keeps ..)
    | with_reducible apply Keeps.after (State.modSq_keeps ..)
    | split
    | dsimp +zetaDelta only

theorem State.engHit_keeps (s : State) (w state t : Nat) : Keeps s (s.engHit w state t) := by
  unfold State.engHit
  repeat' first
    | with_reducible apply Keeps.refl
    | intro _
    | extract_lets
    | with_reducible apply Keeps.ite
    | with_reducible apply Keeps.after (State.raiseAt_keeps ..)
    | split
    | dsimp +zetaDelta only

theorem State.engStart_keeps (s : State) (w t : Nat) : Keeps s (s.engStart w t) := by
  unfold State.engStart
  repeat' first
    | with_reducible apply Keeps.refl
    | intro _
    | extract_lets
    | with_reducible apply Keeps.ite
    | with_reducible apply Keeps.after (State.modEn_keeps ..)
    | with_reducible apply Keeps.after (State.raiseAt_keeps ..)
    | with_reducible apply Keeps.after (State.engHit_keeps ..)
    | split
    | dsimp +zetaDelta only

theorem State.engStop_keeps (s : State) (w : Nat) : Keeps s (s.engStop w) := by
  unfold State.engStop
  repeat' first
    | with_reducible apply Keeps.refl
    | intro _
    | extract_lets
    | with_reducible apply Keeps.ite
    | with_reducible apply Keeps.after (State.modEn_keeps ..)
    | with_reducible apply Keeps.after (State.raiseCh_keeps ..)
    | split
    | dsimp +zetaDelta only

theorem State.engRefuse_keeps (s : State) (w reason : Nat) : Keeps s (s.engRefuse w reason) := by
  unfold State.engRefuse
  repeat' first
    | with_reducible apply Keeps.refl
    | intro _
    | extract_lets
    | with_reducible apply Keeps.ite
    | with_reducible apply Keeps.after (State.modEn_keeps ..)
    | with_reducible apply Keeps.after (State.raiseCh_keeps ..)
    | split
    | dsimp +zetaDelta only

theorem State.engAccept_keeps (s : State) (w : Nat) : Keeps s (s.engAccept w) := by
  unfold State.engAccept
  repeat' first
    | with_reducible apply Keeps.refl
    | intro _
    | extract_lets
    | with_reducible apply Keeps.ite
    | with_reducible apply Keeps.after (State.modEn_keeps ..)
    | split
    | dsimp +zetaDelta only

theorem State.engStartCmd_keeps (s : State) (w : Nat) : Keeps s (s.engStartCmd w) := by
  unfold State.engStartCmd
  repeat' first
    | with_reducible apply Keeps.refl
    | intro _
    | extract_lets
    | with_reducible apply Keeps.ite
    | with_reducible apply Keeps.after (State.engRefuse_keeps ..)
    | with_reducible apply Keeps.after (State.engAccept_keeps ..)
    | with_reducible apply Keeps.after (State.engStart_keeps ..)
    | split
    | dsimp +zetaDelta only

theorem State.enginePulse_keeps (s : State) (w line t : Nat) : Keeps s (s.enginePulse w line t) := by
  unfold State.enginePulse
  repeat' first
    | with_reducible apply Keeps.refl
    | intro _
    | extract_lets
    | with_reducible apply Keeps.ite
    | with_reducible apply Keeps.after (State.modEn_keeps ..)
    | with_reducible apply Keeps.after (State.modSyn_keeps ..)
    | split
    | dsimp +zetaDelta only

theorem State.arcActs_keeps (s : State) (w i frm also forced t : Nat) : Keeps s (s.arcActs w i frm also forced t) := by
  unfold State.arcActs
  repeat' first
    | with_reducible apply Keeps.refl
    | intro _
    | extract_lets
    | with_reducible apply Keeps.ite
    | with_reducible apply Keeps.after (State.queueRec_keeps ..)
    | with_reducible apply Keeps.after (State.jumpRequest_keeps ..)
    | with_reducible apply Keeps.after (State.modEn_keeps ..)
    | with_reducible apply Keeps.after (State.enginePulse_keeps ..)
    | with_reducible apply Keeps.after (foldl_keeps _ _ _ ?_)
    | split
    | dsimp +zetaDelta only

theorem State.takeArc_keeps (s : State) (w i also : Nat) (forced : Bool) (t : Nat) : Keeps s (s.takeArc w i also forced t) := by
  unfold State.takeArc
  repeat' first
    | with_reducible apply Keeps.refl
    | intro _
    | extract_lets
    | with_reducible apply Keeps.ite
    | with_reducible apply Keeps.after (State.modEn_keeps ..)
    | with_reducible apply Keeps.after (State.arcActs_keeps ..)
    | with_reducible apply Keeps.after (State.engHit_keeps ..)
    | with_reducible apply Keeps.after (State.raiseCh_keeps ..)
    | split
    | dsimp +zetaDelta only

theorem State.expireTimer_keeps (s : State) (w k t : Nat) : Keeps s (s.expireTimer w k t) := by
  unfold State.expireTimer
  repeat' first
    | with_reducible apply Keeps.refl
    | intro _
    | extract_lets
    | with_reducible apply Keeps.ite
    | with_reducible apply Keeps.after (State.modEn_keeps ..)
    | split
    | dsimp +zetaDelta only

theorem State.engSample_keeps (s : State) (w : Nat) : Keeps s (s.engSample w) := by
  unfold State.engSample
  repeat' first
    | with_reducible apply Keeps.refl
    | intro _
    | extract_lets
    | with_reducible apply Keeps.ite
    | with_reducible apply Keeps.after (State.modEn_keeps ..)
    | with_reducible apply Keeps.after (State.expireTimer_keeps ..)
    | with_reducible apply Keeps.after (State.takeArc_keeps ..)
    | with_reducible apply Keeps.after (State.each_keeps _ _ _ ?_)
    | with_reducible apply Keeps.after (foldl_keeps _ _ _ ?_)
    | split
    | dsimp +zetaDelta only

theorem State.redWrite_keeps (s : State) (w : Nat) : Keeps s (s.redWrite w) := by
  unfold State.redWrite
  repeat' first
    | with_reducible apply Keeps.refl
    | intro _
    | extract_lets
    | with_reducible apply Keeps.ite
    | with_reducible apply Keeps.after (State.queueRec_keeps ..)
    | with_reducible apply Keeps.after (State.modRd_keeps ..)
    | split
    | dsimp +zetaDelta only

theorem State.redGrid_keeps (s : State) (w t : Nat) : Keeps s (s.redGrid w t) := by
  unfold State.redGrid
  repeat' first
    | with_reducible apply Keeps.refl
    | intro _
    | extract_lets
    | with_reducible apply Keeps.ite
    | with_reducible apply Keeps.after (State.redWrite_keeps ..)
    | split
    | dsimp +zetaDelta only

theorem State.redTake_keeps (s : State) (w : Nat) (x : RedIn) : Keeps s (s.redTake w x) := by
  unfold State.redTake
  repeat' first
    | with_reducible apply Keeps.refl
    | intro _
    | extract_lets
    | with_reducible apply Keeps.ite
    | with_reducible apply Keeps.after (State.redGrid_keeps ..)
    | with_reducible apply Keeps.after (State.modRd_keeps ..)
    | split
    | dsimp +zetaDelta only

theorem State.redSettle_keeps (s : State) (w t : Nat) : Keeps s (s.redSettle w t) := by
  unfold State.redSettle
  repeat' first
    | with_reducible apply Keeps.refl
    | intro _
    | extract_lets
    | with_reducible apply Keeps.ite
    | with_reducible apply Keeps.after (State.modRd_keeps ..)
    | with_reducible apply Keeps.after (State.redTake_keeps ..)
    | with_reducible apply Keeps.after (State.redWrite_keeps ..)
    | split
    | dsimp +zetaDelta only

theorem State.redSample_keeps (s : State) (w : Nat) (qty : Bool) (range : Nat) (v : Int) (clamped oversub : Bool) : Keeps s (s.redSample w qty range v clamped oversub) := by
  unfold State.redSample
  repeat' first
    | with_reducible apply Keeps.refl
    | intro _
    | extract_lets
    | with_reducible apply Keeps.ite
    | with_reducible apply Keeps.after (State.redSettle_keeps ..)
    | with_reducible apply Keeps.after (State.redGrid_keeps ..)
    | with_reducible apply Keeps.after (State.modRd_keeps ..)
    | split
    | dsimp +zetaDelta only

theorem State.redCut_keeps (s : State) (w : Nat) : Keeps s (s.redCut w) := by
  unfold State.redCut
  repeat' first
    | with_reducible apply Keeps.refl
    | intro _
    | extract_lets
    | with_reducible apply Keeps.ite
    | with_reducible apply Keeps.after (State.modRd_keeps ..)
    | with_reducible apply Keeps.after (State.redSettle_keeps ..)
    | with_reducible apply Keeps.after (State.redWrite_keeps ..)
    | split
    | dsimp +zetaDelta only

theorem State.redRefuse_keeps (s : State) (w reason : Nat) : Keeps s (s.redRefuse w reason) := by
  unfold State.redRefuse
  repeat' first
    | with_reducible apply Keeps.refl
    | intro _
    | extract_lets
    | with_reducible apply Keeps.ite
    | with_reducible apply Keeps.after (State.modRd_keeps ..)
    | with_reducible apply Keeps.after (State.raiseCh_keeps ..)
    | split
    | dsimp +zetaDelta only

theorem State.redArmAt_keeps (s : State) (w t cause : Nat) : Keeps s (s.redArmAt w t cause) := by
  unfold State.redArmAt
  repeat' first
    | with_reducible apply Keeps.refl
    | intro _
    | extract_lets
    | with_reducible apply Keeps.ite
    | with_reducible apply Keeps.after (State.redSettle_keeps ..)
    | with_reducible apply Keeps.after (State.modRd_keeps ..)
    | split
    | dsimp +zetaDelta only

theorem State.redArmCmd_keeps (s : State) (w : Nat) : Keeps s (s.redArmCmd w) := by
  unfold State.redArmCmd
  repeat' first
    | with_reducible apply Keeps.refl
    | intro _
    | extract_lets
    | with_reducible apply Keeps.ite
    | with_reducible apply Keeps.after (State.redRefuse_keeps ..)
    | with_reducible apply Keeps.after (State.modRd_keeps ..)
    | with_reducible apply Keeps.after (State.redArmAt_keeps ..)
    | split
    | dsimp +zetaDelta only

theorem State.redDisarmAt_keeps (s : State) (w t cause : Nat) : Keeps s (s.redDisarmAt w t cause) := by
  unfold State.redDisarmAt
  repeat' first
    | with_reducible apply Keeps.refl
    | intro _
    | extract_lets
    | with_reducible apply Keeps.ite
    | with_reducible apply Keeps.after (State.redSettle_keeps ..)
    | with_reducible apply Keeps.after (State.modRd_keeps ..)
    | with_reducible apply Keeps.after (State.redWrite_keeps ..)
    | split
    | dsimp +zetaDelta only

theorem State.winRefuse_keeps (s : State) (w reason : Nat) : Keeps s (s.winRefuse w reason) := by
  unfold State.winRefuse
  repeat' first
    | with_reducible apply Keeps.refl
    | intro _
    | extract_lets
    | with_reducible apply Keeps.ite
    | with_reducible apply Keeps.after (State.modCw_keeps ..)
    | with_reducible apply Keeps.after (State.raiseCh_keeps ..)
    | split
    | dsimp +zetaDelta only

theorem State.winArmCmd_keeps (s : State) (w : Nat) : Keeps s (s.winArmCmd w) := by
  unfold State.winArmCmd
  repeat' first
    | with_reducible apply Keeps.refl
    | intro _
    | extract_lets
    | with_reducible apply Keeps.ite
    | with_reducible apply Keeps.after (State.winRefuse_keeps ..)
    | with_reducible apply Keeps.after (State.modCw_keeps ..)
    | with_reducible apply Keeps.after (State.raiseCh_keeps ..)
    | split
    | dsimp +zetaDelta only

theorem State.winAbandonCmd_keeps (s : State) (w : Nat) : Keeps s (s.winAbandonCmd w) := by
  unfold State.winAbandonCmd
  repeat' first
    | with_reducible apply Keeps.refl
    | intro _
    | extract_lets
    | with_reducible apply Keeps.ite
    | with_reducible apply Keeps.after (State.modCw_keeps ..)
    | split
    | dsimp +zetaDelta only

theorem State.winDone_keeps (s : State) (w : Nat) : Keeps s (s.winDone w) := by
  unfold State.winDone
  repeat' first
    | with_reducible apply Keeps.refl
    | intro _
    | extract_lets
    | with_reducible apply Keeps.ite
    | with_reducible apply Keeps.after (State.modCw_keeps ..)
    | with_reducible apply Keeps.after (State.raiseCh_keeps ..)
    | split
    | dsimp +zetaDelta only

theorem State.winPush_keeps (s : State) (w : Nat) (r : Rec) : Keeps s (s.winPush w r) := by
  unfold State.winPush
  repeat' first
    | with_reducible apply Keeps.refl
    | intro _
    | extract_lets
    | with_reducible apply Keeps.ite
    | with_reducible apply Keeps.after (State.modCw_keeps ..)
    | with_reducible apply Keeps.after (State.winDone_keeps ..)
    | with_reducible apply Keeps.after (State.setStack_store_keeps ..)
    | split
    | dsimp +zetaDelta only

theorem State.winTrigger_keeps (s : State) (w tr : Nat) : Keeps s (s.winTrigger w tr) := by
  unfold State.winTrigger
  repeat' first
    | with_reducible apply Keeps.refl
    | intro _
    | extract_lets
    | with_reducible apply Keeps.ite
    | with_reducible apply Keeps.after (State.modCw_keeps ..)
    | with_reducible apply Keeps.after (State.winDone_keeps ..)
    | split
    | dsimp +zetaDelta only

theorem State.engAct_keeps (s : State) (w : Nat) (x : EngAct) : Keeps s (s.engAct w x) := by
  unfold State.engAct
  repeat' first
    | with_reducible apply Keeps.refl
    | intro _
    | extract_lets
    | with_reducible apply Keeps.ite
    | with_reducible apply Keeps.after (State.stampArmAt_keeps ..)
    | with_reducible apply Keeps.after (State.stampDisarmAt_keeps ..)
    | with_reducible apply Keeps.after (State.redArmAt_keeps ..)
    | with_reducible apply Keeps.after (State.redDisarmAt_keeps ..)
    | with_reducible apply Keeps.after (State.winTrigger_keeps ..)
    | with_reducible apply Keeps.after (State.modEn_keeps ..)
    | split
    | dsimp +zetaDelta only

theorem State.engEffect_keeps (s : State) (w : Nat) : Keeps s (s.engEffect w) := by
  unfold State.engEffect
  repeat' first
    | with_reducible apply Keeps.refl
    | intro _
    | extract_lets
    | with_reducible apply Keeps.ite
    | with_reducible apply Keeps.after (State.modEn_keeps ..)
    | with_reducible apply Keeps.after (State.engAct_keeps ..)
    | split
    | dsimp +zetaDelta only

theorem State.driveVector_keeps (s : State) (w t p ts c : Nat) : Keeps s (s.driveVector w t p ts c) := by
  unfold State.driveVector
  repeat' first
    | with_reducible apply Keeps.refl
    | intro _
    | extract_lets
    | with_reducible apply Keeps.ite
    | with_reducible apply Keeps.after (State.modTm_keeps ..)
    | with_reducible apply Keeps.after (State.placeDrive_keeps ..)
    | with_reducible apply Keeps.after (State.settle_keeps ..)
    | with_reducible apply Keeps.after (State.modPl_keeps ..)
    | split
    | dsimp +zetaDelta only

theorem State.placeStrobe_keeps (s : State) (w t p ts : Nat) (b : Strobe) : Keeps s (s.placeStrobe w t p ts b) := by
  unfold State.placeStrobe
  repeat' first
    | with_reducible apply Keeps.refl
    | intro _
    | extract_lets
    | with_reducible apply Keeps.ite
    | with_reducible apply Keeps.after (State.modCp_keeps ..)
    | with_reducible apply Keeps.after (State.modSt_keeps ..)
    | split
    | dsimp +zetaDelta only

theorem State.seqMark_keeps (s : State) (w sub t : Nat) : Keeps s (s.seqMark w sub t) := by
  unfold State.seqMark
  repeat' first
    | with_reducible apply Keeps.refl
    | intro _
    | extract_lets
    | with_reducible apply Keeps.ite
    | with_reducible apply Keeps.after (State.queueRec_keeps ..)
    | with_reducible apply Keeps.after (State.engOccur_keeps ..)
    | split
    | dsimp +zetaDelta only

theorem State.dueMark_keeps (s : State) (w t : Nat) : Keeps s (s.dueMark w t) := by
  unfold State.dueMark
  repeat' first
    | with_reducible apply Keeps.refl
    | intro _
    | extract_lets
    | with_reducible apply Keeps.ite
    | with_reducible apply Keeps.after (State.modSq_keeps ..)
    | with_reducible apply Keeps.after (State.seqMark_keeps ..)
    | split
    | dsimp +zetaDelta only

theorem State.invalidCode_keeps (s : State) (w : Nat) (sh : Shelf) (pass ofs t : Nat) : Keeps s (s.invalidCode w sh pass ofs t) := by
  unfold State.invalidCode
  repeat' first
    | with_reducible apply Keeps.refl
    | intro _
    | extract_lets
    | with_reducible apply Keeps.ite
    | with_reducible apply Keeps.after (State.modPl_keeps ..)
    | with_reducible apply Keeps.after (State.bumpSeq_keeps ..)
    | with_reducible apply Keeps.after (State.raiseAt_keeps ..)
    | split
    | dsimp +zetaDelta only

theorem State.invalidVec_keeps (s : State) (w t : Nat) : Keeps s (s.invalidVec w t) := by
  unfold State.invalidVec
  repeat' first
    | with_reducible apply Keeps.refl
    | intro _
    | extract_lets
    | with_reducible apply Keeps.ite
    | with_reducible apply Keeps.after (State.modSq_keeps ..)
    | with_reducible apply Keeps.after (State.invalidCode_keeps ..)
    | with_reducible apply Keeps.after (State.sendMore_keeps ..)
    | split
    | dsimp +zetaDelta only

theorem State.invalidHold_keeps (s : State) (w t : Nat) : Keeps s (s.invalidHold w t) := by
  unfold State.invalidHold
  repeat' first
    | with_reducible apply Keeps.refl
    | intro _
    | extract_lets
    | with_reducible apply Keeps.ite
    | with_reducible apply Keeps.after (State.modHo_keeps ..)
    | with_reducible apply Keeps.after (State.invalidCode_keeps ..)
    | with_reducible apply Keeps.after (State.sendMore_keeps ..)
    | split
    | dsimp +zetaDelta only

theorem State.holdVector_keeps (s : State) (w t : Nat) (ecc laneEcc : Ecc) : Keeps s (s.holdVector w t ecc laneEcc) := by
  unfold State.holdVector
  repeat' first
    | with_reducible apply Keeps.refl
    | intro _
    | extract_lets
    | with_reducible apply Keeps.ite
    | with_reducible apply Keeps.after (State.eccBankSeen_keeps ..)
    | with_reducible apply Keeps.after (State.invalidHold_keeps ..)
    | with_reducible apply Keeps.after (State.driveVector_keeps ..)
    | with_reducible apply Keeps.after (State.modHo_keeps ..)
    | with_reducible apply Keeps.after (Keeps.set_held ..)
    | split
    | dsimp +zetaDelta only

theorem State.breakStream_keeps (s : State) (w cause : Nat) (sh : Shelf) : Keeps s (s.breakStream w cause sh) := by
  unfold State.breakStream
  repeat' first
    | with_reducible apply Keeps.refl
    | intro _
    | extract_lets
    | with_reducible apply Keeps.ite
    | with_reducible apply Keeps.after (State.modIk_keeps ..)
    | with_reducible apply Keeps.after (State.raiseSeg_keeps ..)
    | split
    | dsimp +zetaDelta only

theorem State.streamMismatch_keeps (s : State) (w : Nat) : Keeps s (s.streamMismatch w) := by
  unfold State.streamMismatch
  repeat' first
    | with_reducible apply Keeps.refl
    | intro _
    | extract_lets
    | with_reducible apply Keeps.ite
    | with_reducible apply Keeps.after (State.breakStream_keeps ..)
    | split
    | dsimp +zetaDelta only

theorem State.underrun_keeps (s : State) (w t : Nat) (ecc laneEcc : Ecc) : Keeps s (s.underrun w t ecc laneEcc) := by
  unfold State.underrun
  repeat' first
    | with_reducible apply Keeps.refl
    | intro _
    | extract_lets
    | with_reducible apply Keeps.ite
    | with_reducible apply Keeps.after (State.streamMismatch_keeps ..)
    | with_reducible apply Keeps.after (State.modHo_keeps ..)
    | with_reducible apply Keeps.after (State.raiseSeg_keeps ..)
    | with_reducible apply Keeps.after (State.engOccur_keeps ..)
    | with_reducible apply Keeps.after (State.holdVector_keeps ..)
    | split
    | dsimp +zetaDelta only

theorem State.underrunGap_keeps (s : State) (w policy : Nat) : Keeps s (s.underrunGap w policy) := by
  unfold State.underrunGap
  repeat' first
    | with_reducible apply Keeps.refl
    | intro _
    | extract_lets
    | with_reducible apply Keeps.ite
    | with_reducible apply Keeps.after (State.queueRec_keeps ..)
    | split
    | dsimp +zetaDelta only

theorem State.leaveHold_keeps (s : State) (w policy t : Nat) : Keeps s (s.leaveHold w policy t) := by
  unfold State.leaveHold
  repeat' first
    | with_reducible apply Keeps.refl
    | intro _
    | extract_lets
    | with_reducible apply Keeps.ite
    | with_reducible apply Keeps.after (State.underrunGap_keeps ..)
    | with_reducible apply Keeps.after (State.modHo_keeps ..)
    | with_reducible apply Keeps.after (State.engOccur_keeps ..)
    | split
    | dsimp +zetaDelta only

theorem State.dropPlayed_keeps (s : State) (w : Nat) : Keeps s (s.dropPlayed w) := by
  unfold State.dropPlayed
  repeat' first
    | with_reducible apply Keeps.refl
    | intro _
    | extract_lets
    | with_reducible apply Keeps.ite
    | with_reducible apply Keeps.after (State.modSl_keeps ..)
    | with_reducible apply Keeps.after (State.fillIndicate_keeps ..)
    | split
    | dsimp +zetaDelta only

theorem State.sluiceRead_keeps (s : State) (w : Nat) (ecc : Ecc) : Keeps s (s.sluiceRead w ecc) := by
  unfold State.sluiceRead
  repeat' first
    | with_reducible apply Keeps.refl
    | intro _
    | extract_lets
    | with_reducible apply Keeps.ite
    | with_reducible apply Keeps.after (State.eccBankSeen_keeps ..)
    | with_reducible apply Keeps.after (State.draw_keeps ..)
    | split
    | dsimp +zetaDelta only

theorem State.readDue_keeps (s : State) (w : Nat) (x : Slice) (ecc laneEcc : Ecc) : Keeps s (s.readDue w x ecc laneEcc).2 := by
  unfold State.readDue
  split
  · dsimp only
    exact ((State.sluiceRead_keeps ..).trans (State.sluiceRead_keeps ..)).trans (State.modSl_keeps ..)
  · exact Keeps.refl s

theorem State.programVector_keeps (s : State) (w t : Nat) (x : Slice) : Keeps s (s.programVector w t x) := by
  unfold State.programVector
  extract_lets q pl d i alt raw code ts p s1 s2 s3 s4 s5
  have h1 : Keeps s s1 := State.dueMark_keeps ..
  have h2 : Keeps s1 s2 := by
    dsimp only [s2]
    split
    · exact State.invalidVec_keeps ..
    · exact Keeps.refl s1
  have h3 : Keeps s2 s3 := State.driveVector_keeps ..
  have h4 : Keeps s3 s4 := State.placeStrobe_keeps ..
  have h5 : Keeps s4 s5 := State.modPl_keeps ..
  exact ((((h1.trans h2).trans h3).trans h4).trans h5).trans ((State.modSq_keeps ..).trans (State.dropPlayed_keeps ..))

theorem State.startVector_keeps (s : State) (w : Nat) (ecc laneEcc : Ecc) : Keeps s (s.startVector w ecc laneEcc) := by
  unfold State.startVector
  extract_lets q h len
  split
  · exact Keeps.refl s
  · split
    · exact Keeps.ite (Keeps.refl s) (State.holdVector_keeps ..)
    · split
      · exact Keeps.refl s
      · split
        · exact Keeps.trans (State.readDue_keeps ..) (State.programVector_keeps ..)
        · exact State.underrun_keeps ..

/-- A host write runs, is dropped, refused or held; whatever it runs keeps. -/
theorem State.hostHeldWrite_keeps (s : State) (page : Nat) (h : Held) (act : State → State) (hact : Keeps s (act s)) :
    Keeps s (s.hostHeldWrite page h act) := by
  unfold State.hostHeldWrite
  split
  · exact State.modDev_keeps ..
  · split
    · exact State.modDev_keeps ..
    · split
      · exact Keeps.set_held ..
      · exact hact

theorem State.earlyLost_keeps (s : State) : Keeps s (s.earlyLost) := by
  unfold State.earlyLost
  repeat' first
    | with_reducible apply Keeps.refl
    | intro _
    | extract_lets
    | with_reducible apply Keeps.ite
    | with_reducible apply Keeps.after (State.modDev_keeps ..)
    | split
    | dsimp +zetaDelta only

theorem State.hostWrite_keeps (s : State) (page : Nat) (i : Instr) (act : State → State) (hact : Keeps s (act s)) :
    Keeps s (s.hostWrite page i act) := State.hostHeldWrite_keeps s page _ act hact

theorem State.modeDone_keeps (s : State) (w cmd : Nat) (tag : Byte) (outcome reason : Nat) : Keeps s (s.modeDone w cmd tag outcome reason) := by
  unfold State.modeDone
  repeat' first
    | with_reducible apply Keeps.refl
    | intro _
    | extract_lets
    | with_reducible apply Keeps.ite
    | with_reducible apply Keeps.after (State.modMd_keeps ..)
    | with_reducible apply Keeps.after (State.bumpSeq_keeps ..)
    | split
    | dsimp +zetaDelta only

theorem State.modeRefuse_keeps (s : State) (w cmd : Nat) (tag : Byte) (reason : Nat) : Keeps s (s.modeRefuse w cmd tag reason) := by
  unfold State.modeRefuse
  repeat' first
    | with_reducible apply Keeps.refl
    | intro _
    | extract_lets
    | with_reducible apply Keeps.ite
    | with_reducible apply Keeps.after (State.modeDone_keeps ..)
    | with_reducible apply Keeps.after (State.raiseCh_keeps ..)
    | split
    | dsimp +zetaDelta only

/-- A MODE command runs, is dropped, refused or held; whatever it runs keeps. -/
theorem State.modeWrite_keeps (s : State) (w cmd : Nat) (tag : Byte) (i : Instr) (act : State → State) (hact : Keeps s (act s)) :
    Keeps s (s.modeWrite w cmd tag i act) := by
  unfold State.modeWrite
  split
  · exact State.modDev_keeps ..
  · split
    · exact State.modeRefuse_keeps ..
    · split
      · exact Keeps.set_held ..
      · split
        · exact State.modeRefuse_keeps ..
        · exact hact

theorem State.bitmapPut_keeps (s : State) (w : Nat) (fail : Bool) : Keeps s (s.bitmapPut w fail) := by
  unfold State.bitmapPut
  repeat' first
    | with_reducible apply Keeps.refl
    | intro _
    | extract_lets
    | with_reducible apply Keeps.ite
    | with_reducible apply Keeps.after (State.modCp_keeps ..)
    | with_reducible apply Keeps.after (State.raiseCh_keeps ..)
    | with_reducible apply Keeps.after (State.setStack_store_keeps ..)
    | split
    | dsimp +zetaDelta only

theorem State.storeEntry_keeps (s : State) (w i : Nat) (e : BitVec 128) : Keeps s (s.storeEntry w i e) := by
  unfold State.storeEntry
  repeat' first
    | with_reducible apply Keeps.refl
    | intro _
    | extract_lets
    | with_reducible apply Keeps.ite
    | with_reducible apply Keeps.after (State.setStack_store_keeps ..)
    | split
    | dsimp +zetaDelta only

theorem State.logFill_keeps (s : State) (w : Nat) : Keeps s (s.logFill w) := by
  unfold State.logFill
  repeat' first
    | with_reducible apply Keeps.refl
    | intro _
    | extract_lets
    | with_reducible apply Keeps.ite
    | with_reducible apply Keeps.after (State.storeEntry_keeps ..)
    | with_reducible apply Keeps.after (State.modCp_keeps ..)
    | with_reducible apply Keeps.after (State.raiseCh_keeps ..)
    | split
    | dsimp +zetaDelta only

theorem State.logRefused_keeps (s : State) (w : Nat) (e : BitVec 128) : Keeps s (s.logRefused w e) := by
  unfold State.logRefused
  repeat' first
    | with_reducible apply Keeps.refl
    | intro _
    | extract_lets
    | with_reducible apply Keeps.ite
    | with_reducible apply Keeps.after (State.modCp_keeps ..)
    | with_reducible apply Keeps.after (State.modMn_keeps ..)
    | split
    | dsimp +zetaDelta only

theorem State.logUnwritten_keeps (s : State) (w : Nat) : Keeps s (s.logUnwritten w) := by
  unfold State.logUnwritten
  repeat' first
    | with_reducible apply Keeps.refl
    | intro _
    | extract_lets
    | with_reducible apply Keeps.ite
    | with_reducible apply Keeps.after (State.modCp_keeps ..)
    | with_reducible apply Keeps.after (State.modMn_keeps ..)
    | split
    | dsimp +zetaDelta only

theorem State.drainLog_keeps (s : State) (w : Nat) : Keeps s (s.drainLog w) := by
  unfold State.drainLog
  repeat' first
    | with_reducible apply Keeps.refl
    | intro _
    | extract_lets
    | with_reducible apply Keeps.ite
    | with_reducible apply Keeps.after (State.modCp_keeps ..)
    | with_reducible apply Keeps.after (State.logFill_keeps ..)
    | with_reducible apply Keeps.after (State.logRefused_keeps ..)
    | with_reducible apply Keeps.after (State.storeEntry_keeps ..)
    | split
    | dsimp +zetaDelta only

theorem State.logEntry_keeps (s : State) (w : Nat) (b : Strobe) (e : BitVec 128) : Keeps s (s.logEntry w b e) := by
  unfold State.logEntry
  repeat' first
    | with_reducible apply Keeps.refl
    | intro _
    | extract_lets
    | with_reducible apply Keeps.ite
    | with_reducible apply Keeps.after (State.logUnwritten_keeps ..)
    | with_reducible apply Keeps.after (State.modCp_keeps ..)
    | with_reducible apply Keeps.after (State.modMn_keeps ..)
    | with_reducible apply Keeps.after (State.raiseCh_keeps ..)
    | split
    | dsimp +zetaDelta only

theorem State.failRecord_keeps (s : State) (w : Nat) (r : Rec) : Keeps s (s.failRecord w r) := by
  unfold State.failRecord
  repeat' first
    | with_reducible apply Keeps.refl
    | intro _
    | extract_lets
    | with_reducible apply Keeps.ite
    | with_reducible apply Keeps.after (State.modMn_keeps ..)
    | with_reducible apply Keeps.after (State.queueRec_keeps ..)
    | split
    | dsimp +zetaDelta only

theorem State.reportVector_keeps (s : State) (w : Nat) (b : Strobe) (cap : Bool) (rcv : Nat) (chg noref : Bool) : Keeps s (s.reportVector w b cap rcv chg noref) := by
  unfold State.reportVector
  repeat' first
    | with_reducible apply Keeps.refl
    | intro _
    | extract_lets
    | with_reducible apply Keeps.ite
    | with_reducible apply Keeps.after (State.logEntry_keeps ..)
    | with_reducible apply Keeps.after (State.failRecord_keeps ..)
    | split
    | dsimp +zetaDelta only

theorem State.failPlay_keeps (s : State) (w : Nat) (b : Strobe) : Keeps s (s.failPlay w b) := by
  unfold State.failPlay
  repeat' first
    | with_reducible apply Keeps.refl
    | intro _
    | extract_lets
    | with_reducible apply Keeps.ite
    | with_reducible apply Keeps.after (State.modSq_keeps ..)
    | split
    | dsimp +zetaDelta only

theorem State.countVerdict_keeps (s : State) (w : Nat) (b : Strobe) (fail : Bool) : Keeps s (s.countVerdict w b fail) := by
  unfold State.countVerdict
  repeat' first
    | with_reducible apply Keeps.refl
    | intro _
    | extract_lets
    | with_reducible apply Keeps.ite
    | with_reducible apply Keeps.after (State.modMn_keeps ..)
    | with_reducible apply Keeps.after (State.raiseCh_keeps ..)
    | split
    | dsimp +zetaDelta only

theorem State.levelSignals_keeps (s : State) (w final t : Nat) : Keeps s (s.levelSignals w final t) := by
  unfold State.levelSignals
  repeat' first
    | with_reducible apply Keeps.refl
    | intro _
    | extract_lets
    | with_reducible apply Keeps.ite
    | with_reducible apply Keeps.after (State.signalTakes_keeps ..)
    | split
    | dsimp +zetaDelta only

theorem State.lossRecord_keeps (s : State) (w : Nat) : Keeps s (s.lossRecord w) := by
  unfold State.lossRecord
  repeat' first
    | with_reducible apply Keeps.refl
    | intro _
    | extract_lets
    | with_reducible apply Keeps.ite
    | with_reducible apply Keeps.after (State.queueRec_keeps ..)
    | with_reducible apply Keeps.after (State.modCp_keeps ..)
    | split
    | dsimp +zetaDelta only

theorem State.report_keeps (s : State) (w : Nat) (b : Strobe) (j : Judged) : Keeps s (s.report w b j) := by
  unfold State.report
  repeat' first
    | with_reducible apply Keeps.refl
    | intro _
    | extract_lets
    | with_reducible apply Keeps.ite
    | with_reducible apply Keeps.after (State.modMn_keeps ..)
    | with_reducible apply Keeps.after (State.reportVector_keeps ..)
    | with_reducible apply Keeps.after (State.modCp_keeps ..)
    | with_reducible apply Keeps.after (State.bitmapPut_keeps ..)
    | with_reducible apply Keeps.after (State.lossRecord_keeps ..)
    | with_reducible apply Keeps.after (State.countVerdict_keeps ..)
    | split
    | dsimp +zetaDelta only

theorem State.tsClose_keeps (s : State) (w : Nat) (b : Strobe) : Keeps s (s.tsClose w b) := by
  unfold State.tsClose
  repeat' first
    | with_reducible apply Keeps.refl
    | intro _
    | extract_lets
    | with_reducible apply Keeps.ite
    | with_reducible apply Keeps.after (State.modSt_keeps ..)
    | split
    | dsimp +zetaDelta only

theorem State.finishCapture_keeps (s : State) (w : Nat) : Keeps s (s.finishCapture w) := by
  unfold State.finishCapture
  repeat' first
    | with_reducible apply Keeps.refl
    | intro _
    | extract_lets
    | with_reducible apply Keeps.ite
    | with_reducible apply Keeps.after (State.modCp_keeps ..)
    | with_reducible apply Keeps.after (State.storeEntry_keeps ..)
    | with_reducible apply Keeps.after (State.setStack_store_keeps ..)
    | split
    | dsimp +zetaDelta only

theorem State.reportDone_keeps (s : State) (w : Nat) : Keeps s (s.reportDone w) := by
  unfold State.reportDone
  repeat' first
    | with_reducible apply Keeps.refl
    | intro _
    | extract_lets
    | with_reducible apply Keeps.ite
    | with_reducible apply Keeps.after (State.modCp_keeps ..)
    | with_reducible apply Keeps.after (State.report_keeps ..)
    | with_reducible apply Keeps.after (State.each_keeps _ _ _ ?_)
    | split
    | dsimp +zetaDelta only

theorem State.verdict_keeps (s : State) (w : Nat) (b : Strobe) (lv : List Nat) (final : Nat) : Keeps s (s.verdict w b lv final).2 := by
  unfold State.verdict
  extract_lets ref code fail lost j s0 s1 s2
  have h1 : Keeps s s1 := (((State.modPl_keeps ..).trans (State.signalTakes_keeps ..)).trans (State.signalTakes_keeps ..)).trans (State.levelSignals_keeps ..)
  have h2 : Keeps s1 s2 := by
    dsimp only [s2]
    split
    · exact State.failPlay_keeps ..
    · exact Keeps.refl s1
  dsimp only
  split
  · exact (h1.trans h2).trans (State.raiseCh_keeps ..)
  · exact (((h1.trans h2).trans (State.modCp_keeps ..)).trans (State.engOccur_keeps ..)).trans (State.engOccur_keeps ..)

theorem State.capture_keeps (s : State) (w : Nat) (b : Strobe) (lv : List Nat) (final : Nat) : Keeps s (s.capture w b lv final).2 :=
  ((State.modPl_keeps ..).trans (State.levelSignals_keeps ..)).trans (State.engOccur_keeps ..)

theorem State.closeStrobe_keeps (s : State) (w : Nat) (levels : List (BitVec 2)) (final : BitVec 2) (drained : Nat) :
    Keeps s (s.closeStrobe w levels final drained) := by
  unfold State.closeStrobe
  split
  · exact Keeps.refl s
  · rename_i b _
    split
    · exact Keeps.refl s
    · extract_lets s1 lv p
      have h1 : Keeps s s1 := State.modCp_keeps ..
      have h2 : Keeps s1 p.2 := by
        dsimp only [p]
        split
        · exact State.verdict_keeps ..
        · exact State.capture_keeps ..
      split
      · exact ((h1.trans (State.tsClose_keeps ..)).trans (State.modCp_keeps ..)).trans (State.finishCapture_keeps ..)
      · exact (((h1.trans h2).trans (State.modCp_keeps ..)).trans (State.reportDone_keeps ..)).trans (State.finishCapture_keeps ..)

theorem State.verdictGap_keeps (s : State) (w : Nat) : Keeps s (s.verdictGap w) := by
  unfold State.verdictGap
  repeat' first
    | with_reducible apply Keeps.refl
    | intro _
    | extract_lets
    | with_reducible apply Keeps.ite
    | with_reducible apply Keeps.after (State.lossRecord_keeps ..)
    | with_reducible apply Keeps.after (State.modCp_keeps ..)
    | split
    | dsimp +zetaDelta only

theorem State.flushCapture_keeps (s : State) (w : Nat) : Keeps s (s.flushCapture w) := by
  unfold State.flushCapture
  repeat' first
    | with_reducible apply Keeps.refl
    | intro _
    | extract_lets
    | with_reducible apply Keeps.ite
    | with_reducible apply Keeps.after (State.finishCapture_keeps ..)
    | with_reducible apply Keeps.after (State.modCp_keeps ..)
    | split
    | dsimp +zetaDelta only

theorem State.openCapture_keeps (s : State) (w : Nat) : Keeps s (s.openCapture w) := by
  unfold State.openCapture
  repeat' first
    | with_reducible apply Keeps.refl
    | intro _
    | extract_lets
    | with_reducible apply Keeps.ite
    | with_reducible apply Keeps.after (State.modWin_keeps ..)
    | with_reducible apply Keeps.after (State.logFill_keeps ..)
    | split
    | dsimp +zetaDelta only

theorem State.fetchChain_keeps (s : State) (w : Nat) (ecc : Ecc) : Keeps s (s.fetchChain w ecc) := by
  unfold State.fetchChain
  repeat' first
    | with_reducible apply Keeps.refl
    | intro _
    | extract_lets
    | with_reducible apply Keeps.ite
    | with_reducible apply Keeps.after (State.eccStackSeen_keeps ..)
    | with_reducible apply Keeps.after (State.modSl_keeps ..)
    | split
    | dsimp +zetaDelta only

theorem State.cacheRead_keeps (s : State) (cache : Ecc) : Keeps s (s.cacheRead cache) := by
  unfold State.cacheRead
  repeat' first
    | with_reducible apply Keeps.refl
    | intro _
    | extract_lets
    | with_reducible apply Keeps.ite
    | with_reducible apply Keeps.after (State.eccBank_keeps ..)
    | with_reducible apply Keeps.after (State.draw_keeps ..)
    | split
    | dsimp +zetaDelta only

theorem State.rejectNow_keeps (s : State) (w : Nat) (k : BitVec 2) : Keeps s (s.rejectNow w k) := by
  unfold State.rejectNow
  repeat' first
    | with_reducible apply Keeps.refl
    | intro _
    | extract_lets
    | with_reducible apply Keeps.ite
    | with_reducible apply Keeps.after (State.modSq_keeps ..)
    | with_reducible apply Keeps.after (State.raiseCh_keeps ..)
    | split
    | dsimp +zetaDelta only

theorem State.fetchRole_keeps (s : State) (w : Nat) (r : Role) (ecc : Ecc) : Keeps s (s.fetchRole w r ecc) := by
  unfold State.fetchRole
  repeat' first
    | with_reducible apply Keeps.refl
    | intro _
    | extract_lets
    | with_reducible apply Keeps.ite
    | with_reducible apply Keeps.after (State.fetchChain_keeps ..)
    | with_reducible apply Keeps.after (State.rejectNow_keeps ..)
    | with_reducible apply Keeps.after (State.eccStackSeen_keeps ..)
    | with_reducible apply Keeps.after (State.modSq_keeps ..)
    | split
    | dsimp +zetaDelta only

theorem State.badWords_keeps (s : State) (base step k : Nat) (bad : Word) : Keeps s (s.badWords base step k bad) := by
  unfold State.badWords
  repeat' first
    | with_reducible apply Keeps.refl
    | intro _
    | extract_lets
    | with_reducible apply Keeps.ite
    | with_reducible apply Keeps.after (State.eccStack_keeps ..)
    | with_reducible apply Keeps.after (State.each_keeps _ _ _ ?_)
    | split
    | dsimp +zetaDelta only

theorem State.readErrors_keeps (s : State) (w : Nat) (d : RawDesc) (at_ first k : Nat) (bad laneBad : Word) (corrected : Bool) : Keeps s (s.readErrors w d at_ first k bad laneBad corrected) := by
  unfold State.readErrors
  repeat' first
    | with_reducible apply Keeps.refl
    | intro _
    | extract_lets
    | with_reducible apply Keeps.ite
    | with_reducible apply Keeps.after (State.badWords_keeps ..)
    | with_reducible apply Keeps.after (State.eccStack_keeps ..)
    | split
    | dsimp +zetaDelta only

theorem State.readInto_keeps (s : State) (w : Nat) (r : Role) (n : Nat) (bad laneBad : Word) (corrected : Bool) :
    Keeps s (s.readInto w r n bad laneBad corrected) :=
  (((State.pushSlices_keeps ..).trans (State.readErrors_keeps ..)).trans (State.fillIndicate_keeps ..)).trans (State.stockIndicate_keeps ..)

theorem State.loadHead_keeps (s : State) (w : Nat) (r : Role) (rd : HeadReads) : Keeps s (s.loadHead w r rd) := by
  unfold State.loadHead
  repeat' first
    | with_reducible apply Keeps.refl
    | intro _
    | extract_lets
    | with_reducible apply Keeps.ite
    | with_reducible apply Keeps.after (State.readInto_keeps ..)
    | split
    | dsimp +zetaDelta only

theorem State.readDone_keeps (s : State) (w : Nat) (r : Role) (n : Nat) (bad laneBad : Word) (corrected : Bool) :
    Keeps s (s.readDone w r n bad laneBad corrected) := by
  unfold State.readDone
  split
  · exact Keeps.refl s
  · split
    · have h := State.pushChain_keeps s w n bad laneBad
      split
      · rename_i e
        rw [e] at h
        exact Keeps.trans h (State.readErrors_keeps ..)
      · rename_i e
        rw [e] at h
        exact h
    · exact State.readInto_keeps ..

theorem State.applyEntry_keeps (s : State) (w e : Nat) : Keeps s (s.applyEntry w e) := by
  unfold State.applyEntry
  repeat' first
    | with_reducible apply Keeps.refl
    | intro _
    | extract_lets
    | with_reducible apply Keeps.ite
    | with_reducible apply Keeps.after (State.modPl_keeps ..)
    | split
    | dsimp +zetaDelta only

theorem State.takeChain_keeps (s : State) (w : Nat) (along : Bool) : Keeps s (s.takeChain w along) := by
  unfold State.takeChain
  repeat' first
    | with_reducible apply Keeps.refl
    | intro _
    | extract_lets
    | with_reducible apply Keeps.ite
    | with_reducible apply Keeps.after (State.modSl_keeps ..)
    | with_reducible apply Keeps.after (State.modSq_keeps ..)
    | split
    | dsimp +zetaDelta only

theorem State.enterSeg_keeps (s : State) (w : Nat) (r : Role) (d : RawDesc) (landing : Nat) : Keeps s (s.enterSeg w r d landing) := by
  unfold State.enterSeg
  repeat' first
    | with_reducible apply Keeps.refl
    | intro _
    | extract_lets
    | with_reducible apply Keeps.ite
    | with_reducible apply Keeps.after (State.modSq_keeps ..)
    | with_reducible apply Keeps.after (State.modSl_keeps ..)
    | with_reducible apply Keeps.after (State.takeChain_keeps ..)
    | with_reducible apply Keeps.after (State.applyEntry_keeps ..)
    | with_reducible apply Keeps.after (State.streamMismatch_keeps ..)
    | with_reducible apply Keeps.after (State.fillIndicate_keeps ..)
    | split
    | dsimp +zetaDelta only

theorem State.enterLanding_keeps (s : State) (w why : Nat) : Keeps s (s.enterLanding w why) := by
  unfold State.enterLanding
  repeat' first
    | with_reducible apply Keeps.refl
    | intro _
    | extract_lets
    | with_reducible apply Keeps.ite
    | with_reducible apply Keeps.after (State.enterSeg_keeps ..)
    | split
    | dsimp +zetaDelta only

theorem State.enterFetched_keeps (s : State) (w : Nat) (r : Role) (sh : Shelf) (t : Nat) : Keeps s (s.enterFetched w r sh t) := by
  unfold State.enterFetched
  repeat' first
    | with_reducible apply Keeps.refl
    | intro _
    | extract_lets
    | with_reducible apply Keeps.ite
    | with_reducible apply Keeps.after (State.enterSeg_keeps ..)
    | with_reducible apply Keeps.after (State.perr_keeps ..)
    | with_reducible apply Keeps.after (State.enterLanding_keeps ..)
    | split
    | dsimp +zetaDelta only

theorem State.repeatPlay_keeps (s : State) (w : Nat) : Keeps s (s.repeatPlay w) := by
  unfold State.repeatPlay
  repeat' first
    | with_reducible apply Keeps.refl
    | intro _
    | extract_lets
    | with_reducible apply Keeps.ite
    | with_reducible apply Keeps.after (State.modSq_keeps ..)
    | with_reducible apply Keeps.after (State.modSl_keeps ..)
    | with_reducible apply Keeps.after (State.fillIndicate_keeps ..)
    | split
    | dsimp +zetaDelta only

theorem State.startChoice_keeps (s : State) (w t : Nat) (c : Choice) : Keeps s (s.startChoice w t c) := by
  unfold State.startChoice
  repeat' first
    | with_reducible apply Keeps.refl
    | intro _
    | extract_lets
    | with_reducible apply Keeps.ite
    | with_reducible apply Keeps.after (State.repeatPlay_keeps ..)
    | with_reducible apply Keeps.after (State.modSq_keeps ..)
    | with_reducible apply Keeps.after (State.enterFetched_keeps ..)
    | with_reducible apply Keeps.after (State.enterLanding_keeps ..)
    | split
    | dsimp +zetaDelta only

theorem State.boundary_keeps (s : State) (w : Nat) : Keeps s (s.boundary w) := by
  unfold State.boundary
  repeat' first
    | with_reducible apply Keeps.refl
    | intro _
    | extract_lets
    | with_reducible apply Keeps.ite
    | with_reducible apply Keeps.after (State.startChoice_keeps ..)
    | split
    | dsimp +zetaDelta only

theorem State.choose_keeps (s : State) (w t : Nat) (c : Choice) : Keeps s (s.choose w t c) := by
  unfold State.choose
  repeat' first
    | with_reducible apply Keeps.refl
    | intro _
    | extract_lets
    | with_reducible apply Keeps.ite
    | with_reducible apply Keeps.after (State.perr_keeps ..)
    | with_reducible apply Keeps.after (State.modSq_keeps ..)
    | split
    | dsimp +zetaDelta only

theorem State.decideNow_keeps (s : State) (w : Nat) : Keeps s (s.decideNow w) := by
  unfold State.decideNow
  repeat' first
    | with_reducible apply Keeps.refl
    | intro _
    | extract_lets
    | with_reducible apply Keeps.ite
    | with_reducible apply Keeps.after (State.choose_keeps ..)
    | with_reducible apply Keeps.after (State.modSq_keeps ..)
    | split
    | dsimp +zetaDelta only

theorem State.decide__keeps (s : State) (w : Nat) : Keeps s (s.decide_ w) := by
  unfold State.decide_
  repeat' first
    | with_reducible apply Keeps.refl
    | intro _
    | extract_lets
    | with_reducible apply Keeps.ite
    | with_reducible apply Keeps.after (State.jumpDue_keeps ..)
    | with_reducible apply Keeps.after (State.decideNow_keeps ..)
    | with_reducible apply Keeps.after (State.fillIndicate_keeps ..)
    | split
    | dsimp +zetaDelta only

theorem State.applyStage_keeps (s : State) (w t : Nat) : Keeps s (s.applyStage w t) := by
  unfold State.applyStage
  repeat' first
    | with_reducible apply Keeps.refl
    | intro _
    | extract_lets
    | with_reducible apply Keeps.ite
    | with_reducible apply Keeps.after (State.modTm_keeps ..)
    | with_reducible apply Keeps.after (State.applyEntry_keeps ..)
    | with_reducible apply Keeps.after (State.bumpSeq_keeps ..)
    | with_reducible apply Keeps.after (State.raiseAt_keeps ..)
    | split
    | dsimp +zetaDelta only

theorem State.stageNow_keeps (s : State) (w : Nat) : Keeps s (s.stageNow w) := by
  unfold State.stageNow
  repeat' first
    | with_reducible apply Keeps.refl
    | intro _
    | extract_lets
    | with_reducible apply Keeps.ite
    | with_reducible apply Keeps.after (State.applyStage_keeps ..)
    | split
    | dsimp +zetaDelta only

theorem State.startRun_keeps (s : State) (w te : Nat) : Keeps s (s.startRun w te) := by
  unfold State.startRun
  repeat' first
    | with_reducible apply Keeps.refl
    | intro _
    | extract_lets
    | with_reducible apply Keeps.ite
    | with_reducible apply Keeps.after (State.modMd_keeps ..)
    | with_reducible apply Keeps.after (State.modPl_keeps ..)
    | split
    | dsimp +zetaDelta only

theorem State.burstBegin_keeps (s : State) (w : Nat) : Keeps s (s.burstBegin w) := by
  unfold State.burstBegin
  repeat' first
    | with_reducible apply Keeps.refl
    | intro _
    | extract_lets
    | with_reducible apply Keeps.ite
    | with_reducible apply Keeps.after (State.modPl_keeps ..)
    | with_reducible apply Keeps.after (State.modSq_keeps ..)
    | with_reducible apply Keeps.after (State.raiseAt_keeps ..)
    | with_reducible apply Keeps.after (State.stampArmAt_keeps ..)
    | with_reducible apply Keeps.after (State.engStart_keeps ..)
    | with_reducible apply Keeps.after (State.engOccur_keeps ..)
    | split
    | dsimp +zetaDelta only

theorem State.endBurst_keeps (s : State) (w t cause : Nat) : Keeps s (s.endBurst w t cause) := by
  unfold State.endBurst
  repeat' first
    | with_reducible apply Keeps.refl
    | intro _
    | extract_lets
    | with_reducible apply Keeps.ite
    | with_reducible apply Keeps.after (State.leaveHold_keeps ..)
    | with_reducible apply Keeps.after (State.jumpDue_keeps ..)
    | with_reducible apply Keeps.after (State.settle_keeps ..)
    | with_reducible apply Keeps.after (State.setStatic_keeps ..)
    | with_reducible apply Keeps.after (State.modMd_keeps ..)
    | with_reducible apply Keeps.after (State.dropProgram_keeps ..)
    | with_reducible apply Keeps.after (State.modPl_keeps ..)
    | with_reducible apply Keeps.after (State.stampDisarmAt_keeps ..)
    | with_reducible apply Keeps.after (State.engOccur_keeps ..)
    | with_reducible apply Keeps.after (State.flushStreams_keeps ..)
    | with_reducible apply Keeps.after (State.finishCapture_keeps ..)
    | split
    | dsimp +zetaDelta only

theorem State.landEnd_keeps (s : State) (w : Nat) : Keeps s (s.landEnd w) := by
  unfold State.landEnd
  repeat' first
    | with_reducible apply Keeps.refl
    | intro _
    | extract_lets
    | with_reducible apply Keeps.ite
    | with_reducible apply Keeps.after (State.endBurst_keeps ..)
    | with_reducible apply Keeps.after (State.applyStage_keeps ..)
    | with_reducible apply Keeps.after (State.raiseAt_keeps ..)
    | split
    | dsimp +zetaDelta only

theorem State.acceptStop_keeps (s : State) (w t : Nat) : Keeps s (s.acceptStop w t) := by
  unfold State.acceptStop
  repeat' first
    | with_reducible apply Keeps.refl
    | intro _
    | extract_lets
    | with_reducible apply Keeps.ite
    | with_reducible apply Keeps.after (State.jumpDue_keeps ..)
    | with_reducible apply Keeps.after (State.jumpDrop_keeps ..)
    | with_reducible apply Keeps.after (State.modSq_keeps ..)
    | with_reducible apply Keeps.after (State.fillIndicate_keeps ..)
    | with_reducible apply Keeps.after (State.each_keeps _ _ _ ?_)
    | split
    | dsimp +zetaDelta only

theorem State.rewindPath_keeps (s : State) (w : Nat) : Keeps s (s.rewindPath w) := by
  unfold State.rewindPath
  repeat' first
    | with_reducible apply Keeps.refl
    | intro _
    | extract_lets
    | with_reducible apply Keeps.ite
    | with_reducible apply Keeps.after (State.modSl_keeps ..)
    | with_reducible apply Keeps.after (State.fillIndicate_keeps ..)
    | split
    | dsimp +zetaDelta only

theorem State.resumePoint_keeps (s : State) (w : Nat) : Keeps s (s.resumePoint w) := by
  unfold State.resumePoint
  repeat' first
    | with_reducible apply Keeps.refl
    | intro _
    | extract_lets
    | with_reducible apply Keeps.ite
    | with_reducible apply Keeps.after (State.modHo_keeps ..)
    | with_reducible apply Keeps.after (State.rewindPath_keeps ..)
    | split
    | dsimp +zetaDelta only

theorem State.restartPlay_keeps (s : State) (w : Nat) : Keeps s (s.restartPlay w) := by
  unfold State.restartPlay
  repeat' first
    | with_reducible apply Keeps.refl
    | intro _
    | extract_lets
    | with_reducible apply Keeps.ite
    | with_reducible apply Keeps.after (State.modSq_keeps ..)
    | with_reducible apply Keeps.after (State.modPl_keeps ..)
    | with_reducible apply Keeps.after (State.modSl_keeps ..)
    | with_reducible apply Keeps.after (State.fillIndicate_keeps ..)
    | with_reducible apply Keeps.after (State.rewindPath_keeps ..)
    | split
    | dsimp +zetaDelta only

theorem State.passEnd_keeps (s : State) (w : Nat) : Keeps s (s.passEnd w) := by
  unfold State.passEnd
  repeat' first
    | with_reducible apply Keeps.refl
    | intro _
    | extract_lets
    | with_reducible apply Keeps.ite
    | with_reducible apply Keeps.after (State.modPl_keeps ..)
    | with_reducible apply Keeps.after (State.modHo_keeps ..)
    | with_reducible apply Keeps.after (State.leaveHold_keeps ..)
    | with_reducible apply Keeps.after (State.enterLanding_keeps ..)
    | with_reducible apply Keeps.after (State.restartPlay_keeps ..)
    | with_reducible apply Keeps.after (State.raiseSeg_keeps ..)
    | split
    | dsimp +zetaDelta only

theorem State.writeJumpTgt_keeps (s : State) (w k v : Nat) : Keeps s (s.writeJumpTgt w k v) := by
  unfold State.writeJumpTgt
  repeat' first
    | with_reducible apply Keeps.refl
    | intro _
    | extract_lets
    | with_reducible apply Keeps.ite
    | with_reducible apply Keeps.after (State.jumpDue_keeps ..)
    | with_reducible apply Keeps.after (State.keepChosen_keeps ..)
    | with_reducible apply Keeps.after (State.setReg_keeps ..)
    | with_reducible apply Keeps.after (State.judgeSlot_keeps ..)
    | split
    | dsimp +zetaDelta only

theorem State.jumpHead_keeps (s : State) (w : Nat) (k : BitVec 2) (rd : JumpReads) : Keeps s (s.jumpHead w k rd) := by
  unfold State.jumpHead
  repeat' first
    | with_reducible apply Keeps.refl
    | intro _
    | extract_lets
    | with_reducible apply Keeps.ite
    | with_reducible apply Keeps.after (State.fetchRole_keeps ..)
    | with_reducible apply Keeps.after (State.loadHead_keeps ..)
    | with_reducible apply Keeps.after (State.modSq_keeps ..)
    | split
    | dsimp +zetaDelta only

theorem State.clearJumps_keeps (s : State) (w : Nat) : Keeps s (s.clearJumps w) := by
  unfold State.clearJumps
  repeat' first
    | with_reducible apply Keeps.refl
    | intro _
    | extract_lets
    | with_reducible apply Keeps.ite
    | with_reducible apply Keeps.after (State.jumpDue_keeps ..)
    | with_reducible apply Keeps.after (State.modSq_keeps ..)
    | split
    | dsimp +zetaDelta only

theorem State.setHostFlags_keeps (s : State) (w v : Nat) : Keeps s (s.setHostFlags w v) := by
  unfold State.setHostFlags
  repeat' first
    | with_reducible apply Keeps.refl
    | intro _
    | extract_lets
    | with_reducible apply Keeps.ite
    | with_reducible apply Keeps.after (State.setReg_keeps ..)
    | split
    | dsimp +zetaDelta only

theorem State.writeRoute_keeps (s : State) (c i v : Nat) : Keeps s (s.writeRoute c i v) := by
  unfold State.writeRoute
  repeat' first
    | with_reducible apply Keeps.refl
    | intro _
    | extract_lets
    | with_reducible apply Keeps.ite
    | with_reducible apply Keeps.after (State.setReg_keeps ..)
    | with_reducible apply Keeps.after (State.modClu_keeps ..)
    | with_reducible apply Keeps.after (State.modFb_keeps ..)
    | split
    | dsimp +zetaDelta only

theorem State.writeExport_keeps (s : State) (c e v : Nat) : Keeps s (s.writeExport c e v) := by
  unfold State.writeExport
  repeat' first
    | with_reducible apply Keeps.refl
    | intro _
    | extract_lets
    | with_reducible apply Keeps.ite
    | with_reducible apply Keeps.after (State.setReg_keeps ..)
    | with_reducible apply Keeps.after (State.exportTakes_keeps ..)
    | split
    | dsimp +zetaDelta only

theorem State.sluRefuse_keeps (s : State) (w : Nat) : Keeps s (s.sluRefuse w) := by
  unfold State.sluRefuse
  repeat' first
    | with_reducible apply Keeps.refl
    | intro _
    | extract_lets
    | with_reducible apply Keeps.ite
    | with_reducible apply Keeps.after (State.modSl_keeps ..)
    | with_reducible apply Keeps.after (State.raiseCh_keeps ..)
    | split
    | dsimp +zetaDelta only

theorem State.sluAccept_keeps (s : State) (w : Nat) : Keeps s (s.sluAccept w) := by
  unfold State.sluAccept
  repeat' first
    | with_reducible apply Keeps.refl
    | intro _
    | extract_lets
    | with_reducible apply Keeps.ite
    | with_reducible apply Keeps.after (State.modSl_keeps ..)
    | split
    | dsimp +zetaDelta only

theorem State.writeSluCfg_keeps (s : State) (w v : Nat) : Keeps s (s.writeSluCfg w v) := by
  unfold State.writeSluCfg
  repeat' first
    | with_reducible apply Keeps.refl
    | intro _
    | extract_lets
    | with_reducible apply Keeps.ite
    | with_reducible apply Keeps.after (State.sluRefuse_keeps ..)
    | with_reducible apply Keeps.after (State.setReg_keeps ..)
    | with_reducible apply Keeps.after (State.sluAccept_keeps ..)
    | with_reducible apply Keeps.after (State.fillIndicate_keeps ..)
    | split
    | dsimp +zetaDelta only

theorem State.writeStreamRing_keeps (s : State) (w v : Nat) : Keeps s (s.writeStreamRing w v) := by
  unfold State.writeStreamRing
  repeat' first
    | with_reducible apply Keeps.refl
    | intro _
    | extract_lets
    | with_reducible apply Keeps.ite
    | with_reducible apply Keeps.after (State.sluRefuse_keeps ..)
    | with_reducible apply Keeps.after (State.setReg_keeps ..)
    | with_reducible apply Keeps.after (State.sluAccept_keeps ..)
    | with_reducible apply Keeps.after (State.stockIndicate_keeps ..)
    | split
    | dsimp +zetaDelta only

theorem State.writeIntRing_keeps (s : State) (w v : Nat) : Keeps s (s.writeIntRing w v) := by
  unfold State.writeIntRing
  repeat' first
    | with_reducible apply Keeps.refl
    | intro _
    | extract_lets
    | with_reducible apply Keeps.ite
    | with_reducible apply Keeps.after (State.sluRefuse_keeps ..)
    | with_reducible apply Keeps.after (State.setReg_keeps ..)
    | with_reducible apply Keeps.after (State.modIk_keeps ..)
    | with_reducible apply Keeps.after (State.sluAccept_keeps ..)
    | split
    | dsimp +zetaDelta only

theorem State.writeIntProd_keeps (s : State) (w v : Nat) : Keeps s (s.writeIntProd w v) := by
  unfold State.writeIntProd
  repeat' first
    | with_reducible apply Keeps.refl
    | intro _
    | extract_lets
    | with_reducible apply Keeps.ite
    | with_reducible apply Keeps.after (State.breakStream_keeps ..)
    | with_reducible apply Keeps.after (State.setReg_keeps ..)
    | with_reducible apply Keeps.after (State.modIk_keeps ..)
    | split
    | dsimp +zetaDelta only

theorem State.intakeIssue_keeps (s : State) : Keeps s (s.intakeIssue) := by
  unfold State.intakeIssue
  repeat' first
    | with_reducible apply Keeps.refl
    | intro _
    | extract_lets
    | with_reducible apply Keeps.ite
    | with_reducible apply Keeps.after (State.modIk_keeps ..)
    | with_reducible apply Keeps.after (State.modHost_keeps ..)
    | with_reducible apply Keeps.after (State.emit_keeps ..)
    | split
    | dsimp +zetaDelta only

theorem State.advanceCons_keeps (s : State) (w : Nat) (notify : Bool) : Keeps s (s.advanceCons w notify) := by
  unfold State.advanceCons
  repeat' first
    | with_reducible apply Keeps.refl
    | intro _
    | extract_lets
    | with_reducible apply Keeps.ite
    | with_reducible apply Keeps.after (State.modIk_keeps ..)
    | with_reducible apply Keeps.after (State.raiseCh_keeps ..)
    | split
    | dsimp +zetaDelta only

theorem State.skipDesc_keeps (s : State) (w : Nat) : Keeps s (s.skipDesc w) := by
  unfold State.skipDesc
  repeat' first
    | with_reducible apply Keeps.refl
    | intro _
    | extract_lets
    | with_reducible apply Keeps.ite
    | with_reducible apply Keeps.after (State.advanceCons_keeps ..)
    | with_reducible apply Keeps.after (State.modIk_keeps ..)
    | with_reducible apply Keeps.after (State.raiseCh_keeps ..)
    | split
    | dsimp +zetaDelta only

theorem State.takeDesc_keeps (s : State) (w : Nat) (bs : List Byte) : Keeps s (s.takeDesc w bs) := by
  unfold State.takeDesc
  repeat' first
    | with_reducible apply Keeps.refl
    | intro _
    | extract_lets
    | with_reducible apply Keeps.ite
    | with_reducible apply Keeps.after (State.skipDesc_keeps ..)
    | with_reducible apply Keeps.after (State.breakStream_keeps ..)
    | with_reducible apply Keeps.after (State.modIk_keeps ..)
    | split
    | dsimp +zetaDelta only

theorem State.tagGranules_keeps (s : State) (w lo hi : Nat) : Keeps s (s.tagGranules w lo hi) := by
  unfold State.tagGranules
  repeat' first
    | with_reducible apply Keeps.refl
    | intro _
    | extract_lets
    | with_reducible apply Keeps.ite
    | with_reducible apply Keeps.after (State.modMem_keeps ..)
    | with_reducible apply Keeps.after (foldl_keeps _ _ _ ?_)
    | split
    | dsimp +zetaDelta only

theorem State.rmwRing_keeps (s : State) (base size pos n : Nat) (part : PartReads) : Keeps s (s.rmwRing base size pos n part) := by
  unfold State.rmwRing
  repeat' first
    | with_reducible apply Keeps.refl
    | intro _
    | extract_lets
    | with_reducible apply Keeps.ite
    | with_reducible apply Keeps.after (State.eccStack_keeps ..)
    | split
    | dsimp +zetaDelta only

theorem State.storeRing_keeps (s : State) (base size pos : Nat) (l : List Byte) : Keeps s (s.storeRing base size pos l) := by
  induction l generalizing s pos with
  | nil => exact Keeps.refl s
  | cons b r ih => exact (State.setStack_keeps _ _ (Memory.wf_write _ _)).trans (ih _ _)

theorem State.commitFrame_keeps (s : State) (w : Nat) (d : RawDesc) (last secret : Bool) (bs : List Byte) (part : PartReads) :
    Keeps s (s.commitFrame w d last secret bs part) := by
  unfold State.commitFrame
  extract_lets n base size pos kept s0 new s1 s2 s3
  have h0 : Keeps s s0 := State.rmwRing_keeps ..
  have h1 : Keeps s0 s1 := State.storeRing_keeps ..
  have h2 : Keeps s1 s2 := by
    dsimp only [s2]
    split
    · split
      · exact State.tagGranules_keeps ..
      · exact (State.tagGranules_keeps ..).trans (State.tagGranules_keeps ..)
    · exact Keeps.refl s1
  have h3 : Keeps s2 s3 := State.modSl_keeps ..
  exact (((h0.trans h1).trans h2).trans h3).trans ((State.modIk_keeps ..).trans (State.stockIndicate_keeps ..))

theorem State.keyRead_keeps (s : State) (keyEcc : Ecc) (id : Nat) : Keeps s (s.keyRead keyEcc id) := by
  unfold State.keyRead
  repeat' first
    | with_reducible apply Keeps.refl
    | intro _
    | extract_lets
    | with_reducible apply Keeps.ite
    | with_reducible apply Keeps.after (State.eccBankSeen_keeps ..)
    | split
    | dsimp +zetaDelta only

theorem State.dropFrame_keeps (s : State) (w total : Nat) : Keeps s (s.dropFrame w total) := by
  unfold State.dropFrame
  repeat' first
    | with_reducible apply Keeps.refl
    | intro _
    | extract_lets
    | with_reducible apply Keeps.ite
    | with_reducible apply Keeps.after (State.modIk_keeps ..)
    | split
    | dsimp +zetaDelta only

/-- What parsing one frame keeps. -/
def Parsed.Keeps (s : State) : Parsed → Prop
  | .wait => True
  | .next t => Machine.Keeps s t

theorem State.loadFrame_keeps (s : State) (w h : Nat) (bs : List Byte) (total : Nat) (rd : IntakeReads) :
    Parsed.Keeps s (s.loadFrame w h bs total rd) := by
  unfold State.loadFrame
  extract_lets id len dest s1 p s2 out s3
  have h1 : Machine.Keeps s s1 := (State.modIk_keeps ..).trans (State.keyRead_keeps ..)
  have h2 : Machine.Keeps s s3 := (h1.trans (State.tagGranules_keeps ..)).trans (State.setStack_store_keeps ..)
  split
  · exact State.breakStream_keeps ..
  · split
    · exact State.breakStream_keeps ..
    · split
      · trivial
      · split
        · exact h1.trans (State.breakStream_keeps ..)
        · show Machine.Keeps s (if p.2 = 0 then s3 else s3.breakStream w 3 nullShelf)
          split
          · exact h2
          · exact h2.trans (State.breakStream_keeps ..)

theorem State.streamFrame_keeps (s : State) (w h : Nat) (bs : List Byte) (total : Nat) (rd : IntakeReads) :
    Parsed.Keeps s (s.streamFrame w h bs total rd) := by
  unfold State.streamFrame
  extract_lets k sealed_ id last sh len s1 body s2 p
  have h1 : Machine.Keeps s s1 := State.modIk_keeps ..
  have h2 : Machine.Keeps s s2 := h1.trans (State.keyRead_keeps ..)
  split
  · exact State.breakStream_keeps ..
  · extract_lets n sum
    split
    · exact State.breakStream_keeps ..
    · split
      · exact State.breakStream_keeps ..
      · split
        · split
          · trivial
          · simp only [Parsed.Keeps]
            exact Machine.Keeps.ite (h2.trans (State.commitFrame_keeps ..)) (h2.trans (State.breakStream_keeps ..))
        · split
          · trivial
          · exact h1.trans (State.commitFrame_keeps ..)

theorem State.parseFrame_keeps (s : State) (w : Nat) (rd : IntakeReads) : Parsed.Keeps s (s.parseFrame w rd) := by
  unfold State.parseFrame
  extract_lets k bs h ty body total
  repeat' first
    | trivial
    | with_reducible exact State.loadFrame_keeps ..
    | with_reducible exact State.streamFrame_keeps ..
    | exact State.breakStream_keeps ..
    | exact State.modIk_keeps ..
    | split

theorem State.parseAll_keeps (s : State) (w : Nat) (rd : IntakeReads) (n : Nat) : Keeps s (s.parseAll w rd n) := by
  induction n generalizing s with
  | zero => exact Keeps.refl s
  | succ n ih =>
    unfold State.parseAll
    have h := State.parseFrame_keeps s w rd
    revert h
    cases s.parseFrame w rd with
    | wait => intro _; exact Keeps.refl s
    | next s1 => intro h; exact Keeps.trans h (ih s1)

theorem State.parse_keeps (s : State) (w : Nat) (rd : IntakeReads) : Keeps s (s.parse w rd) := State.parseAll_keeps ..

theorem State.arrive_keeps (s : State) (w f n : Nat) : Keeps s (s.arrive w f n) := by
  induction f generalizing s n with
  | zero => exact Keeps.refl s
  | succ f ih =>
    unfold State.arrive
    repeat' first
      | with_reducible apply Keeps.refl
      | intro _
      | extract_lets
      | with_reducible apply Keeps.ite
      | with_reducible apply Keeps.after (State.modIk_keeps ..)
      | with_reducible apply Keeps.after (State.advanceCons_keeps ..)
      | with_reducible apply Keeps.after (ih ..)
      | split
      | dsimp +zetaDelta only

theorem State.collect_keeps (s : State) (w f : Nat) : Keeps s (s.collect w f) := by
  induction f generalizing s with
  | zero => exact Keeps.refl s
  | succ f ih =>
    unfold State.collect
    repeat' first
      | with_reducible apply Keeps.refl
      | intro _
      | extract_lets
      | with_reducible apply Keeps.ite
      | with_reducible apply Keeps.after (ih ..)
      | with_reducible apply Keeps.after (State.arrive_keeps ..)
      | with_reducible apply Keeps.after (State.takeDesc_keeps ..)
      | with_reducible apply Keeps.after (State.modIk_keeps ..)
      | split
      | dsimp +zetaDelta only

theorem State.completion_keeps (s : State) (tag : Nat) (data : List Byte) (status : CplStatus) (rd : IntakeReads) :
    Keeps s (s.completion tag data status rd) := by
  unfold State.completion
  repeat' first
    | with_reducible apply Keeps.refl
    | intro _
    | extract_lets
    | with_reducible apply Keeps.ite
    | with_reducible apply Keeps.after (State.parse_keeps ..)
    | with_reducible apply Keeps.after (State.collect_keeps ..)
    | with_reducible apply Keeps.after (State.breakStream_keeps ..)
    | with_reducible apply Keeps.after (State.modIk_keeps ..)
    | with_reducible apply Keeps.after (State.modHost_keeps ..)
    | split
    | dsimp +zetaDelta only

theorem State.timeout_keeps (s : State) (tag : Nat) : Keeps s (s.timeout tag) := by
  unfold State.timeout
  repeat' first
    | with_reducible apply Keeps.refl
    | intro _
    | extract_lets
    | with_reducible apply Keeps.ite
    | with_reducible apply Keeps.after (State.completion_keeps ..)
    | with_reducible apply Keeps.after (State.raiseDev_keeps ..)
    | split
    | dsimp +zetaDelta only

theorem State.postCons_keeps (s : State) (w : Nat) : Keeps s (s.postCons w) := by
  unfold State.postCons
  repeat' first
    | with_reducible apply Keeps.refl
    | intro _
    | extract_lets
    | with_reducible apply Keeps.ite
    | with_reducible apply Keeps.after (State.modIk_keeps ..)
    | with_reducible apply Keeps.after (State.emit_keeps ..)
    | split
    | dsimp +zetaDelta only

end Sys2Proof.Machine
end

