-- ==== Sys2Proof/Laws/KeepsPins.lean ====
section
/-!
SUPPORT. Sys2Proof/Laws/KeepsPins.lean: `Keeps` for timing, the front end, mode commands and pin commands.
-/

set_option linter.unusedTactic false
set_option linter.unreachableTactic false

namespace Sys2Proof.Machine

theorem State.loseLock_keeps (s : State) (refMissing : Bool) : Keeps s (s.loseLock refMissing) := by
  unfold State.loseLock
  repeat' first
    | with_reducible apply Keeps.refl
    | intro _
    | extract_lets
    | with_reducible apply Keeps.ite
    | with_reducible apply Keeps.after (State.modRef_keeps ..)
    | with_reducible apply Keeps.after (State.raiseDev_keeps ..)
    | split
    | dsimp +zetaDelta only

theorem State.refReturn_keeps (s : State) (phase : BitVec 40) : Keeps s (s.refReturn phase) := by
  unfold State.refReturn
  repeat' first
    | with_reducible apply Keeps.refl
    | intro _
    | extract_lets
    | with_reducible apply Keeps.ite
    | with_reducible apply Keeps.after (State.modRef_keeps ..)
    | with_reducible apply Keeps.after (State.endCond_keeps ..)
    | split
    | dsimp +zetaDelta only

theorem State.slewedToLink_keeps (s : State) : Keeps s (s.slewedToLink) := by
  unfold State.slewedToLink
  repeat' first
    | with_reducible apply Keeps.refl
    | intro _
    | extract_lets
    | with_reducible apply Keeps.ite
    | with_reducible apply Keeps.after (State.modSyn_keeps ..)
    | with_reducible apply Keeps.after (State.modRef_keeps ..)
    | with_reducible apply Keeps.after (State.draw_keeps ..)
    | split
    | dsimp +zetaDelta only

theorem State.relock_keeps (s : State) : Keeps s (s.relock) := by
  unfold State.relock
  repeat' first
    | with_reducible apply Keeps.refl
    | intro _
    | extract_lets
    | with_reducible apply Keeps.ite
    | with_reducible apply Keeps.after (State.slewedToLink_keeps ..)
    | with_reducible apply Keeps.after (State.modRef_keeps ..)
    | with_reducible apply Keeps.after (State.endCond_keeps ..)
    | with_reducible apply Keeps.after (State.raiseDev_keeps ..)
    | split
    | dsimp +zetaDelta only

theorem State.stageRefuse_keeps (s : State) (w reason tset : Nat) : Keeps s (s.stageRefuse w reason tset) := by
  unfold State.stageRefuse
  repeat' first
    | with_reducible apply Keeps.refl
    | intro _
    | extract_lets
    | with_reducible apply Keeps.ite
    | with_reducible apply Keeps.after (State.modTm_keeps ..)
    | with_reducible apply Keeps.after (State.bumpSeq_keeps ..)
    | with_reducible apply Keeps.after (State.raiseCh_keeps ..)
    | split
    | dsimp +zetaDelta only

theorem State.stage_keeps (s : State) (w point : Nat) : Keeps s (s.stage w point) := by
  unfold State.stage
  repeat' first
    | with_reducible apply Keeps.refl
    | intro _
    | extract_lets
    | with_reducible apply Keeps.ite
    | with_reducible apply Keeps.after (State.stageRefuse_keeps ..)
    | with_reducible apply Keeps.after (State.modTm_keeps ..)
    | split
    | dsimp +zetaDelta only

theorem State.loadSeed_keeps (s : State) (k : Nat) : Keeps s (s.loadSeed k) := by
  unfold State.loadSeed
  repeat' first
    | with_reducible apply Keeps.refl
    | intro _
    | extract_lets
    | with_reducible apply Keeps.ite
    | with_reducible apply Keeps.after (State.callOff_keeps ..)
    | with_reducible apply Keeps.after (State.modSlot_keeps ..)
    | with_reducible apply Keeps.after (State.raise_keeps ..)
    | split
    | dsimp +zetaDelta only

theorem State.calFinish_keeps (s : State) (w outcome reason : Nat) : Keeps s (s.calFinish w outcome reason) := by
  unfold State.calFinish
  repeat' first
    | with_reducible apply Keeps.refl
    | intro _
    | extract_lets
    | with_reducible apply Keeps.ite
    | with_reducible apply Keeps.after (State.modSlot_keeps ..)
    | with_reducible apply Keeps.after (State.bumpSeq_keeps ..)
    | with_reducible apply Keeps.after (State.raise_keeps ..)
    | split
    | dsimp +zetaDelta only

theorem State.calRefuse_keeps (s : State) (w reason : Nat) : Keeps s (s.calRefuse w reason) := by
  unfold State.calRefuse
  repeat' first
    | with_reducible apply Keeps.refl
    | intro _
    | extract_lets
    | with_reducible apply Keeps.ite
    | with_reducible apply Keeps.after (State.modSlot_keeps ..)
    | with_reducible apply Keeps.after (State.bumpSeq_keeps ..)
    | with_reducible apply Keeps.after (State.raise_keeps ..)
    | split
    | dsimp +zetaDelta only

theorem State.calStart_keeps (s : State) (w op : Nat) : Keeps s (s.calStart w op) := by
  unfold State.calStart
  repeat' first
    | with_reducible apply Keeps.refl
    | intro _
    | extract_lets
    | with_reducible apply Keeps.ite
    | with_reducible apply Keeps.after (State.calRefuse_keeps ..)
    | with_reducible apply Keeps.after (State.modSlot_keeps ..)
    | split
    | dsimp +zetaDelta only

theorem State.calRestore_keeps (s : State) (w : Nat) : Keeps s (s.calRestore w) := by
  unfold State.calRestore
  repeat' first
    | with_reducible apply Keeps.refl
    | intro _
    | extract_lets
    | with_reducible apply Keeps.ite
    | with_reducible apply Keeps.after (State.calRefuse_keeps ..)
    | with_reducible apply Keeps.after (State.loadSeed_keeps ..)
    | with_reducible apply Keeps.after (State.calFinish_keeps ..)
    | split
    | dsimp +zetaDelta only

theorem State.histWrite_keeps (s : State) (k : Nat) : Keeps s (s.histWrite k) := by
  unfold State.histWrite
  repeat' first
    | with_reducible apply Keeps.refl
    | intro _
    | extract_lets
    | with_reducible apply Keeps.ite
    | with_reducible apply Keeps.after (State.modSlot_keeps ..)
    | with_reducible apply Keeps.after (State.each_keeps _ _ _ ?_)
    | with_reducible apply Keeps.after (State.setStack_store_keeps ..)
    | split
    | dsimp +zetaDelta only

theorem State.calHistory_keeps (s : State) (k op : Nat) (terms : BitVec 60) (tj : Byte) : Keeps s (s.calHistory k op terms tj) := by
  unfold State.calHistory
  repeat' first
    | with_reducible apply Keeps.refl
    | intro _
    | extract_lets
    | with_reducible apply Keeps.ite
    | with_reducible apply Keeps.after (State.modSlot_keeps ..)
    | with_reducible apply Keeps.after (State.histWrite_keeps ..)
    | split
    | dsimp +zetaDelta only

theorem State.calEnd_keeps (s : State) (w : Nat) (terms : BitVec 60) (tj : Byte) (seen : Bool) : Keeps s (s.calEnd w terms tj seen) := by
  unfold State.calEnd
  repeat' first
    | with_reducible apply Keeps.refl
    | intro _
    | extract_lets
    | with_reducible apply Keeps.ite
    | with_reducible apply Keeps.after (State.calFinish_keeps ..)
    | with_reducible apply Keeps.after (State.modSlot_keeps ..)
    | with_reducible apply Keeps.after (State.calHistory_keeps ..)
    | with_reducible apply Keeps.after (State.callOff_keeps ..)
    | split
    | dsimp +zetaDelta only

theorem State.writeCalPath_keeps (s : State) (w v : Nat) : Keeps s (s.writeCalPath w v) := by
  unfold State.writeCalPath
  repeat' first
    | with_reducible apply Keeps.refl
    | intro _
    | extract_lets
    | with_reducible apply Keeps.ite
    | with_reducible apply Keeps.after (State.setReg_keeps ..)
    | with_reducible apply Keeps.after (State.modSlot_keeps ..)
    | split
    | dsimp +zetaDelta only

theorem State.driftHold_keeps (s : State) (k : Nat) : Keeps s (s.driftHold k) := by
  unfold State.driftHold
  exact (State.callOff_keeps ..).trans (State.modSlot_keeps ..)

theorem State.driftRead_keeps (s : State) (k : Nat) (reading : Int) : Keeps s (s.driftRead k reading) := by
  unfold State.driftRead
  repeat' first
    | with_reducible apply Keeps.refl
    | intro _
    | extract_lets
    | with_reducible apply Keeps.ite
    | with_reducible apply Keeps.after (State.modSlot_keeps ..)
    | with_reducible apply Keeps.after (State.driftHold_keeps ..)
    | with_reducible apply Keeps.after (State.raiseAt_keeps ..)
    | split
    | dsimp +zetaDelta only

theorem State.writeDrift_keeps (s : State) (w v : Nat) : Keeps s (s.writeDrift w v) := by
  unfold State.writeDrift
  repeat' first
    | with_reducible apply Keeps.refl
    | intro _
    | extract_lets
    | with_reducible apply Keeps.ite
    | with_reducible apply Keeps.after (State.setReg_keeps ..)
    | with_reducible apply Keeps.after (State.driftHold_keeps ..)
    | split
    | dsimp +zetaDelta only

theorem State.lvlPost_keeps (s : State) (w outcome reason : Nat) : Keeps s (s.lvlPost w outcome reason) := by
  unfold State.lvlPost
  repeat' first
    | with_reducible apply Keeps.refl
    | intro _
    | extract_lets
    | with_reducible apply Keeps.ite
    | with_reducible apply Keeps.after (State.modPm_keeps ..)
    | with_reducible apply Keeps.after (State.bumpSeq_keeps ..)
    | with_reducible apply Keeps.after (State.raiseCh_keeps ..)
    | split
    | dsimp +zetaDelta only

theorem State.lvlStore_keeps (s : State) (w off v : Nat) : Keeps s (s.lvlStore w off v) := by
  unfold State.lvlStore
  repeat' first
    | with_reducible apply Keeps.refl
    | intro _
    | extract_lets
    | with_reducible apply Keeps.ite
    | with_reducible apply Keeps.after (State.setReg_keeps ..)
    | with_reducible apply Keeps.after (State.modPm_keeps ..)
    | with_reducible apply Keeps.after (State.lvlPost_keeps ..)
    | split
    | dsimp +zetaDelta only

theorem State.writeLevel_keeps (s : State) (w : Nat) (r : LvlReg) (v : Nat) : Keeps s (s.writeLevel w r v) := by
  unfold State.writeLevel
  repeat' first
    | with_reducible apply Keeps.refl
    | intro _
    | extract_lets
    | with_reducible apply Keeps.ite
    | with_reducible apply Keeps.after (State.lvlPost_keeps ..)
    | with_reducible apply Keeps.after (State.lvlStore_keeps ..)
    | split
    | dsimp +zetaDelta only

theorem State.writeTerm_keeps (s : State) (w v : Nat) : Keeps s (s.writeTerm w v) := by
  unfold State.writeTerm
  repeat' first
    | with_reducible apply Keeps.refl
    | intro _
    | extract_lets
    | with_reducible apply Keeps.ite
    | with_reducible apply Keeps.after (State.lvlStore_keeps ..)
    | split
    | dsimp +zetaDelta only

theorem State.settleLevels_keeps (s : State) (w : Nat) : Keeps s (s.settleLevels w) := by
  unfold State.settleLevels
  repeat' first
    | with_reducible apply Keeps.refl
    | intro _
    | extract_lets
    | with_reducible apply Keeps.ite
    | with_reducible apply Keeps.after (State.modPm_keeps ..)
    | split
    | dsimp +zetaDelta only

theorem State.pmuRefuse_keeps (s : State) (w reason : Nat) : Keeps s (s.pmuRefuse w reason) := by
  unfold State.pmuRefuse
  repeat' first
    | with_reducible apply Keeps.refl
    | intro _
    | extract_lets
    | with_reducible apply Keeps.ite
    | with_reducible apply Keeps.after (State.modPm_keeps ..)
    | with_reducible apply Keeps.after (State.raiseCh_keeps ..)
    | split
    | dsimp +zetaDelta only

theorem State.pmuAccept_keeps (s : State) (w : Nat) : Keeps s (s.pmuAccept w) := by
  unfold State.pmuAccept
  repeat' first
    | with_reducible apply Keeps.refl
    | intro _
    | extract_lets
    | with_reducible apply Keeps.ite
    | with_reducible apply Keeps.after (State.modPm_keeps ..)
    | split
    | dsimp +zetaDelta only

theorem State.pmuChanged_keeps (s : State) (w : Nat) : Keeps s (s.pmuChanged w) := by
  unfold State.pmuChanged
  repeat' first
    | with_reducible apply Keeps.refl
    | intro _
    | extract_lets
    | with_reducible apply Keeps.ite
    | with_reducible apply Keeps.after (State.modPm_keeps ..)
    | split
    | dsimp +zetaDelta only

theorem State.driveWithPmu_keeps (s : State) (w : Nat) : Keeps s (s.driveWithPmu w) := by
  unfold State.driveWithPmu
  repeat' first
    | with_reducible apply Keeps.refl
    | intro _
    | extract_lets
    | with_reducible apply Keeps.ite
    | with_reducible apply Keeps.after (State.modSlot_keeps ..)
    | with_reducible apply Keeps.after (State.setStatic_keeps ..)
    | split
    | dsimp +zetaDelta only

theorem State.pmuSet_keeps (s : State) (w m range cause : Nat) : Keeps s (s.pmuSet w m range cause) := by
  unfold State.pmuSet
  repeat' first
    | with_reducible apply Keeps.refl
    | intro _
    | extract_lets
    | with_reducible apply Keeps.ite
    | with_reducible apply Keeps.after (State.redDisarmAt_keeps ..)
    | with_reducible apply Keeps.after (State.redCut_keeps ..)
    | with_reducible apply Keeps.after (State.setReg_keeps ..)
    | with_reducible apply Keeps.after (State.modPm_keeps ..)
    | with_reducible apply Keeps.after (State.pmuChanged_keeps ..)
    | with_reducible apply Keeps.after (State.driveWithPmu_keeps ..)
    | split
    | dsimp +zetaDelta only

theorem State.writePmuCfg_keeps (s : State) (w v : Nat) : Keeps s (s.writePmuCfg w v) := by
  unfold State.writePmuCfg
  repeat' first
    | with_reducible apply Keeps.refl
    | intro _
    | extract_lets
    | with_reducible apply Keeps.ite
    | with_reducible apply Keeps.after (State.modPm_keeps ..)
    | with_reducible apply Keeps.after (State.pmuRefuse_keeps ..)
    | with_reducible apply Keeps.after (State.pmuAccept_keeps ..)
    | with_reducible apply Keeps.after (State.pmuSet_keeps ..)
    | split
    | dsimp +zetaDelta only

theorem State.pmuEnd_keeps (s : State) (w cause : Nat) : Keeps s (s.pmuEnd w cause) := by
  unfold State.pmuEnd
  repeat' first
    | with_reducible apply Keeps.refl
    | intro _
    | extract_lets
    | with_reducible apply Keeps.ite
    | with_reducible apply Keeps.after (State.pmuSet_keeps ..)
    | with_reducible apply Keeps.after (State.modPm_keeps ..)
    | with_reducible apply Keeps.after (State.raiseCh_keeps ..)
    | split
    | dsimp +zetaDelta only

theorem State.writePmuForce_keeps (s : State) (w v : Nat) : Keeps s (s.writePmuForce w v) := by
  unfold State.writePmuForce
  repeat' first
    | with_reducible apply Keeps.refl
    | intro _
    | extract_lets
    | with_reducible apply Keeps.ite
    | with_reducible apply Keeps.after (State.pmuRefuse_keeps ..)
    | with_reducible apply Keeps.after (State.pmuAccept_keeps ..)
    | with_reducible apply Keeps.after (State.setReg_keeps ..)
    | with_reducible apply Keeps.after (State.pmuChanged_keeps ..)
    | split
    | dsimp +zetaDelta only

theorem State.writePmuClamp_keeps (s : State) (w v : Nat) : Keeps s (s.writePmuClamp w v) := by
  unfold State.writePmuClamp
  repeat' first
    | with_reducible apply Keeps.refl
    | intro _
    | extract_lets
    | with_reducible apply Keeps.ite
    | with_reducible apply Keeps.after (State.pmuRefuse_keeps ..)
    | with_reducible apply Keeps.after (State.pmuAccept_keeps ..)
    | with_reducible apply Keeps.after (State.setReg_keeps ..)
    | with_reducible apply Keeps.after (State.pmuChanged_keeps ..)
    | split
    | dsimp +zetaDelta only

theorem State.writePmuThresh_keeps (s : State) (w v : Nat) : Keeps s (s.writePmuThresh w v) := by
  unfold State.writePmuThresh
  repeat' first
    | with_reducible apply Keeps.refl
    | intro _
    | extract_lets
    | with_reducible apply Keeps.ite
    | with_reducible apply Keeps.after (State.pmuAccept_keeps ..)
    | with_reducible apply Keeps.after (State.setReg_keeps ..)
    | split
    | dsimp +zetaDelta only

theorem State.pmuSettledNow_keeps (s : State) (w : Nat) : Keeps s (s.pmuSettledNow w) := by
  unfold State.pmuSettledNow
  repeat' first
    | with_reducible apply Keeps.refl
    | intro _
    | extract_lets
    | with_reducible apply Keeps.ite
    | with_reducible apply Keeps.after (State.modPm_keeps ..)
    | split
    | dsimp +zetaDelta only

theorem State.pmuMeas_keeps (s : State) (w n : Nat) (wait : Bool) : Keeps s (s.pmuMeas w n wait) := by
  unfold State.pmuMeas
  repeat' first
    | with_reducible apply Keeps.refl
    | intro _
    | extract_lets
    | with_reducible apply Keeps.ite
    | with_reducible apply Keeps.after (State.modPm_keeps ..)
    | with_reducible apply Keeps.after (State.bumpSeq_keeps ..)
    | with_reducible apply Keeps.after (State.raiseCh_keeps ..)
    | split
    | dsimp +zetaDelta only

theorem State.sample_keeps (s : State) (w : Nat) (code : BitVec 16) (clamped : Bool) : Keeps s (s.sample w code clamped) := by
  unfold State.sample
  repeat' first
    | with_reducible apply Keeps.refl
    | intro _
    | extract_lets
    | with_reducible apply Keeps.ite
    | with_reducible apply Keeps.after (State.modPm_keeps ..)
    | with_reducible apply Keeps.after (State.raiseCh_keeps ..)
    | with_reducible apply Keeps.after (State.redSample_keeps ..)
    | split
    | dsimp +zetaDelta only

theorem State.pmuFinish_keeps (s : State) (w : Nat) : Keeps s (s.pmuFinish w) := by
  unfold State.pmuFinish
  repeat' first
    | with_reducible apply Keeps.refl
    | intro _
    | extract_lets
    | with_reducible apply Keeps.ite
    | with_reducible apply Keeps.after (State.modPm_keeps ..)
    | with_reducible apply Keeps.after (State.bumpSeq_keeps ..)
    | with_reducible apply Keeps.after (State.raiseCh_keeps ..)
    | split
    | dsimp +zetaDelta only

theorem State.setConn_keeps (s : State) (w : Nat) (b : Bool) : Keeps s (s.setConn w b) := by
  unfold State.setConn
  repeat' first
    | with_reducible apply Keeps.refl
    | intro _
    | extract_lets
    | with_reducible apply Keeps.ite
    | with_reducible apply Keeps.after (State.modClu_keeps ..)
    | split
    | dsimp +zetaDelta only

theorem State.storeCount_keeps (s : State) (c i : Nat) : Keeps s (s.storeCount c i) := by
  unfold State.storeCount
  repeat' first
    | with_reducible apply Keeps.refl
    | intro _
    | extract_lets
    | with_reducible apply Keeps.ite
    | with_reducible apply Keeps.after (State.modKeep_keeps _ _ (by first | rfl | simp))
    | split
    | dsimp +zetaDelta only

theorem State.countClose_keeps (s : State) (c i : Nat) : Keeps s (s.countClose c i) := by
  unfold State.countClose
  repeat' first
    | with_reducible apply Keeps.refl
    | intro _
    | extract_lets
    | with_reducible apply Keeps.ite
    | with_reducible apply Keeps.after (State.modClu_keeps ..)
    | with_reducible apply Keeps.after (State.storeCount_keeps ..)
    | with_reducible apply Keeps.after (State.raiseVal_keeps ..)
    | with_reducible apply Keeps.after (State.modKeep_keeps _ _ (by first | rfl | simp))
    | split
    | dsimp +zetaDelta only

theorem State.recordCheck_keeps (s : State) (w : Nat) (v : BitVec 16) : Keeps s (s.recordCheck w v) := by
  unfold State.recordCheck
  repeat' first
    | with_reducible apply Keeps.refl
    | intro _
    | extract_lets
    | with_reducible apply Keeps.ite
    | with_reducible apply Keeps.after (State.modSlot_keeps ..)
    | split
    | dsimp +zetaDelta only

theorem State.swPost_keeps (s : State) (w outcome reason : Nat) : Keeps s (s.swPost w outcome reason) := by
  unfold State.swPost
  repeat' first
    | with_reducible apply Keeps.refl
    | intro _
    | extract_lets
    | with_reducible apply Keeps.ite
    | with_reducible apply Keeps.after (State.modPm_keeps ..)
    | with_reducible apply Keeps.after (State.bumpSeq_keeps ..)
    | split
    | dsimp +zetaDelta only

theorem State.swRefuse_keeps (s : State) (w reason : Nat) : Keeps s (s.swRefuse w reason) := by
  unfold State.swRefuse
  repeat' first
    | with_reducible apply Keeps.refl
    | intro _
    | extract_lets
    | with_reducible apply Keeps.ite
    | with_reducible apply Keeps.after (State.modPm_keeps ..)
    | with_reducible apply Keeps.after (State.bumpSeq_keeps ..)
    | split
    | dsimp +zetaDelta only

theorem State.swCmd_keeps (s : State) (w op : Nat) (check : BitVec 16) : Keeps s (s.swCmd w op check) := by
  unfold State.swCmd
  repeat' first
    | with_reducible apply Keeps.refl
    | intro _
    | extract_lets
    | with_reducible apply Keeps.ite
    | with_reducible apply Keeps.after (State.swRefuse_keeps ..)
    | with_reducible apply Keeps.after (State.recordCheck_keeps ..)
    | with_reducible apply Keeps.after (State.modMd_keeps ..)
    | with_reducible apply Keeps.after (State.modPm_keeps ..)
    | split
    | dsimp +zetaDelta only

theorem State.setCal_keeps (s : State) (w : Nat) (b : Bool) : Keeps s (s.setCal w b) := by
  unfold State.setCal
  repeat' first
    | with_reducible apply Keeps.refl
    | intro _
    | extract_lets
    | with_reducible apply Keeps.ite
    | with_reducible apply Keeps.after (State.modSlot_keeps ..)
    | with_reducible apply Keeps.after (State.countClose_keeps ..)
    | split
    | dsimp +zetaDelta only

theorem State.swDone_keeps (s : State) (w : Nat) : Keeps s (s.swDone w) := by
  unfold State.swDone
  repeat' first
    | with_reducible apply Keeps.refl
    | intro _
    | extract_lets
    | with_reducible apply Keeps.ite
    | with_reducible apply Keeps.after (State.modMd_keeps ..)
    | with_reducible apply Keeps.after (State.swPost_keeps ..)
    | with_reducible apply Keeps.after (State.raiseCh_keeps ..)
    | with_reducible apply Keeps.after (State.setCal_keeps ..)
    | split
    | dsimp +zetaDelta only

theorem State.swFail_keeps (s : State) (w op : Nat) : Keeps s (s.swFail w op) := by
  unfold State.swFail
  repeat' first
    | with_reducible apply Keeps.refl
    | intro _
    | extract_lets
    | with_reducible apply Keeps.ite
    | with_reducible apply Keeps.after (State.modMd_keeps ..)
    | with_reducible apply Keeps.after (State.countClose_keeps ..)
    | with_reducible apply Keeps.after (State.swPost_keeps ..)
    | with_reducible apply Keeps.after (State.raiseCh_keeps ..)
    | split
    | dsimp +zetaDelta only

theorem State.swFlushStart_keeps (s : State) (c : Nat) : Keeps s (s.swFlushStart c) := by
  unfold State.swFlushStart
  repeat' first
    | with_reducible apply Keeps.refl
    | intro _
    | extract_lets
    | with_reducible apply Keeps.ite
    | with_reducible apply Keeps.after (State.modClu_keeps ..)
    | split
    | dsimp +zetaDelta only

theorem State.storeAll_keeps (s : State) (c : Nat) : Keeps s (s.storeAll c) := by
  unfold State.storeAll
  repeat' first
    | with_reducible apply Keeps.refl
    | intro _
    | extract_lets
    | with_reducible apply Keeps.ite
    | with_reducible apply Keeps.after (State.storeCount_keeps ..)
    | with_reducible apply Keeps.after (State.each_keeps _ _ _ ?_)
    | split
    | dsimp +zetaDelta only

theorem State.swFlushEnd_keeps (s : State) (c : Nat) : Keeps s (s.swFlushEnd c) := by
  unfold State.swFlushEnd
  repeat' first
    | with_reducible apply Keeps.refl
    | intro _
    | extract_lets
    | with_reducible apply Keeps.ite
    | with_reducible apply Keeps.after (State.storeAll_keeps ..)
    | with_reducible apply Keeps.after (State.modClu_keeps ..)
    | split
    | dsimp +zetaDelta only

theorem State.swapCmd_keeps (s : State) (c k : Nat) : Keeps s (s.swapCmd c k) := by
  unfold State.swapCmd
  repeat' first
    | with_reducible apply Keeps.refl
    | intro _
    | extract_lets
    | with_reducible apply Keeps.ite
    | with_reducible apply Keeps.after (State.modClu_keeps ..)
    | with_reducible apply Keeps.after (State.bumpSeq_keeps ..)
    | with_reducible apply Keeps.after (State.raiseClu_keeps ..)
    | split
    | dsimp +zetaDelta only

theorem State.afterExchange_keeps (s : State) (w : Nat) : Keeps s (s.afterExchange w) := by
  unfold State.afterExchange
  repeat' first
    | with_reducible apply Keeps.refl
    | intro _
    | extract_lets
    | with_reducible apply Keeps.ite
    | with_reducible apply Keeps.after (State.modSt_keeps ..)
    | with_reducible apply Keeps.after (State.redSettle_keeps ..)
    | with_reducible apply Keeps.after (State.redGrid_keeps ..)
    | with_reducible apply Keeps.after (State.modRd_keeps ..)
    | split
    | dsimp +zetaDelta only

theorem State.swapEnd_keeps (s : State) (c : Nat) : Keeps s (s.swapEnd c) := by
  unfold State.swapEnd
  repeat' first
    | with_reducible apply Keeps.refl
    | intro _
    | extract_lets
    | with_reducible apply Keeps.ite
    | with_reducible apply Keeps.after (State.modClu_keeps ..)
    | with_reducible apply Keeps.after (State.calLat_keeps ..)
    | with_reducible apply Keeps.after (State.afterExchange_keeps ..)
    | with_reducible apply Keeps.after (State.bumpSeq_keeps ..)
    | with_reducible apply Keeps.after (State.raiseClu_keeps ..)
    | split
    | dsimp +zetaDelta only

theorem State.sendEvent_keeps (s : State) (kind payload : Nat) : Keeps s (s.sendEvent kind payload) := by
  unfold State.sendEvent
  repeat' first
    | with_reducible apply Keeps.refl
    | intro _
    | extract_lets
    | with_reducible apply Keeps.ite
    | with_reducible apply Keeps.after (State.modSyn_keeps ..)
    | split
    | dsimp +zetaDelta only

theorem State.starPulse_keeps (s : State) (out g : Nat) : Keeps s (s.starPulse out g) := by
  unfold State.starPulse
  repeat' first
    | with_reducible apply Keeps.refl
    | intro _
    | extract_lets
    | with_reducible apply Keeps.ite
    | with_reducible apply Keeps.after (State.modSyn_keeps ..)
    | split
    | dsimp +zetaDelta only

theorem State.acceptStart_keeps (s : State) (g : Nat) (te : Option Nat) : Keeps s (s.acceptStart g te) := by
  unfold State.acceptStart
  repeat' first
    | with_reducible apply Keeps.refl
    | intro _
    | extract_lets
    | with_reducible apply Keeps.ite
    | with_reducible apply Keeps.after (State.modSyn_keeps ..)
    | with_reducible apply Keeps.after (State.latch_keeps ..)
    | with_reducible apply Keeps.after (State.starPulse_keeps ..)
    | with_reducible apply Keeps.after (State.sendEvent_keeps ..)
    | split
    | dsimp +zetaDelta only

theorem State.acceptStopEvent_keeps (s : State) (g : Nat) (te : Option Nat) : Keeps s (s.acceptStopEvent g te) := by
  unfold State.acceptStopEvent
  repeat' first
    | with_reducible apply Keeps.refl
    | intro _
    | extract_lets
    | with_reducible apply Keeps.ite
    | with_reducible apply Keeps.after (State.modSyn_keeps ..)
    | with_reducible apply Keeps.after (State.latch_keeps ..)
    | with_reducible apply Keeps.after (State.starPulse_keeps ..)
    | with_reducible apply Keeps.after (State.sendEvent_keeps ..)
    | split
    | dsimp +zetaDelta only

theorem State.jumpPins_keeps (s : State) (j slot t : Nat) : Keeps s (s.jumpPins j slot t) := by
  unfold State.jumpPins
  repeat' first
    | with_reducible apply Keeps.refl
    | intro _
    | extract_lets
    | with_reducible apply Keeps.ite
    | with_reducible apply Keeps.after (State.jumpRequest_keeps ..)
    | with_reducible apply Keeps.after (State.each_keeps _ _ _ ?_)
    | split
    | dsimp +zetaDelta only

theorem State.linkJump_keeps (s : State) (j slot g : Nat) : Keeps s (s.linkJump j slot g) := by
  unfold State.linkJump
  repeat' first
    | with_reducible apply Keeps.refl
    | intro _
    | extract_lets
    | with_reducible apply Keeps.ite
    | with_reducible apply Keeps.after (State.sendEvent_keeps ..)
    | with_reducible apply Keeps.after (State.modSyn_keeps ..)
    | with_reducible apply Keeps.after (State.jumpPins_keeps ..)
    | split
    | dsimp +zetaDelta only

theorem State.acceptEdge_keeps (s : State) (x : LinkEdge) : Keeps s (s.acceptEdge x) := by
  unfold State.acceptEdge
  repeat' first
    | with_reducible apply Keeps.refl
    | intro _
    | extract_lets
    | with_reducible apply Keeps.ite
    | with_reducible apply Keeps.after (State.acceptStart_keeps ..)
    | with_reducible apply Keeps.after (State.acceptStopEvent_keeps ..)
    | with_reducible apply Keeps.after (State.linkJump_keeps ..)
    | split
    | dsimp +zetaDelta only

theorem State.linkDue_keeps (s : State) : Keeps s (s.linkDue) := by
  unfold State.linkDue
  repeat' first
    | with_reducible apply Keeps.refl
    | intro _
    | extract_lets
    | with_reducible apply Keeps.ite
    | with_reducible apply Keeps.after (State.modSyn_keeps ..)
    | with_reducible apply Keeps.after (State.acceptEdge_keeps ..)
    | with_reducible apply Keeps.after (State.each_keeps _ _ _ ?_)
    | split
    | dsimp +zetaDelta only

theorem State.startItem_keeps (s : State) (x : NywItem) : Keeps s (s.startItem x) := by
  unfold State.startItem
  repeat' first
    | with_reducible apply Keeps.refl
    | intro _
    | extract_lets
    | with_reducible apply Keeps.ite
    | with_reducible apply Keeps.after (State.acceptStart_keeps ..)
    | split
    | dsimp +zetaDelta only

theorem State.startItems_keeps (s : State) : Keeps s (s.startItems) := by
  unfold State.startItems
  repeat' first
    | with_reducible apply Keeps.refl
    | intro _
    | extract_lets
    | with_reducible apply Keeps.ite
    | with_reducible apply Keeps.after (State.modSyn_keeps ..)
    | with_reducible apply Keeps.after (State.startItem_keeps ..)
    | with_reducible apply Keeps.after (State.each_keeps _ _ _ ?_)
    | split
    | dsimp +zetaDelta only

theorem State.modeStart_keeps (s : State) (w cmd : Nat) (tag : Byte) (target : Mode) (hot oversub : Bool) : Keeps s (s.modeStart w cmd tag target hot oversub) := by
  unfold State.modeStart
  repeat' first
    | with_reducible apply Keeps.refl
    | intro _
    | extract_lets
    | with_reducible apply Keeps.ite
    | with_reducible apply Keeps.after (State.modMd_keeps ..)
    | split
    | dsimp +zetaDelta only

theorem State.modeGate_keeps (s : State) (w cmd : Nat) (tag : Byte) (act : State → State) (hact : ∀ s, Keeps s (act s)) : Keeps s (s.modeGate w cmd tag act) := by
  unfold State.modeGate
  repeat' first
    | with_reducible apply Keeps.refl
    | intro _
    | extract_lets
    | with_reducible apply Keeps.ite
    | with_reducible exact hact ..
    | with_reducible apply Keeps.after (hact ..)
    | with_reducible apply Keeps.after (State.modeRefuse_keeps ..)
    | split
    | dsimp +zetaDelta only

theorem State.discardBurst_keeps (s : State) (w : Nat) : Keeps s (s.discardBurst w) := by
  unfold State.discardBurst
  repeat' first
    | with_reducible apply Keeps.refl
    | intro _
    | extract_lets
    | with_reducible apply Keeps.ite
    | with_reducible apply Keeps.after (State.jumpDue_keeps ..)
    | with_reducible apply Keeps.after (State.dropProgram_keeps ..)
    | with_reducible apply Keeps.after (State.flushStreams_keeps ..)
    | with_reducible apply Keeps.after (State.flushCapture_keeps ..)
    | split
    | dsimp +zetaDelta only

theorem State.quiet_keeps (s : State) (w : Nat) : Keeps s (s.quiet w) := by
  unfold State.quiet
  repeat' first
    | with_reducible apply Keeps.refl
    | intro _
    | extract_lets
    | with_reducible apply Keeps.ite
    | with_reducible apply Keeps.after (State.modSlot_keeps ..)
    | with_reducible apply Keeps.after (State.modPm_keeps ..)
    | split
    | dsimp +zetaDelta only

theorem State.recordCal_keeps (s : State) (w : Nat) (check : BitVec 16) : Keeps s (s.recordCal w check) := by
  unfold State.recordCal
  repeat' first
    | with_reducible apply Keeps.refl
    | intro _
    | extract_lets
    | with_reducible apply Keeps.ite
    | with_reducible apply Keeps.after (State.recordCheck_keeps ..)
    | split
    | dsimp +zetaDelta only

theorem State.cmdPowerOff_keeps (s : State) (w : Nat) (tag : Byte) (check : BitVec 16) : Keeps s (s.cmdPowerOff w tag check) := by
  unfold State.cmdPowerOff
  repeat' first
    | with_reducible apply Keeps.refl
    | intro _
    | extract_lets
    | with_reducible apply Keeps.ite
    | with_reducible apply Keeps.after (State.stampDisarmAt_keeps ..)
    | with_reducible apply Keeps.after (State.engStop_keeps ..)
    | with_reducible apply Keeps.after (State.redDisarmAt_keeps ..)
    | with_reducible apply Keeps.after (State.modeStart_keeps ..)
    | with_reducible apply Keeps.after (State.modeGate_keeps _ _ _ _ _ ?_)
    | with_reducible apply Keeps.after (State.modeDone_keeps ..)
    | with_reducible apply Keeps.after (State.recordCal_keeps ..)
    | with_reducible apply Keeps.after (State.modeRefuse_keeps ..)
    | split
    | dsimp +zetaDelta only

theorem State.cmdPark_keeps (s : State) (w : Nat) (tag : Byte) (check : BitVec 16) : Keeps s (s.cmdPark w tag check) := by
  unfold State.cmdPark
  repeat' first
    | with_reducible apply Keeps.refl
    | intro _
    | extract_lets
    | with_reducible apply Keeps.ite
    | with_reducible apply Keeps.after (State.modeGate_keeps _ _ _ _ _ ?_)
    | with_reducible apply Keeps.after (State.modeRefuse_keeps ..)
    | with_reducible apply Keeps.after (State.modeStart_keeps ..)
    | with_reducible apply Keeps.after (State.modeDone_keeps ..)
    | with_reducible apply Keeps.after (State.quiet_keeps ..)
    | with_reducible apply Keeps.after (State.recordCheck_keeps ..)
    | with_reducible apply Keeps.after (State.recordCal_keeps ..)
    | split
    | dsimp +zetaDelta only

theorem State.cmdConnect_keeps (s : State) (w : Nat) (tag : Byte) (check calCheck : BitVec 16) : Keeps s (s.cmdConnect w tag check calCheck) := by
  unfold State.cmdConnect
  repeat' first
    | with_reducible apply Keeps.refl
    | intro _
    | extract_lets
    | with_reducible apply Keeps.ite
    | with_reducible apply Keeps.after (State.modeRefuse_keeps ..)
    | with_reducible apply Keeps.after (State.recordCal_keeps ..)
    | with_reducible apply Keeps.after (State.recordCheck_keeps ..)
    | with_reducible apply Keeps.after (State.modeStart_keeps ..)
    | with_reducible apply Keeps.after (State.modeGate_keeps _ _ _ _ _ ?_)
    | with_reducible apply Keeps.after (State.modeDone_keeps ..)
    | split
    | dsimp +zetaDelta only

theorem State.cmdService_keeps (s : State) (w : Nat) (tag : Byte) (check : BitVec 16) : Keeps s (s.cmdService w tag check) := by
  unfold State.cmdService
  repeat' first
    | with_reducible apply Keeps.refl
    | intro _
    | extract_lets
    | with_reducible apply Keeps.ite
    | with_reducible apply Keeps.after (State.modeGate_keeps _ _ _ _ _ ?_)
    | with_reducible apply Keeps.after (State.modeStart_keeps ..)
    | with_reducible apply Keeps.after (State.modeDone_keeps ..)
    | with_reducible apply Keeps.after (State.quiet_keeps ..)
    | with_reducible apply Keeps.after (State.recordCheck_keeps ..)
    | with_reducible apply Keeps.after (State.modeRefuse_keeps ..)
    | split
    | dsimp +zetaDelta only

theorem State.holdErrors_keeps (s : State) (n : Nat) (bad fixed : List Nat) (addr : Nat → Nat) : Keeps s (s.holdErrors n bad fixed addr) := by
  unfold State.holdErrors
  repeat' first
    | with_reducible apply Keeps.refl
    | intro _
    | extract_lets
    | with_reducible apply Keeps.ite
    | with_reducible apply Keeps.after (State.eccStack_keeps ..)
    | with_reducible apply Keeps.after (State.each_keeps _ _ _ ?_)
    | split
    | dsimp +zetaDelta only

theorem State.copyNow_keeps (s : State) (w : Nat) (rd : ArmReads) : Keeps s (s.copyNow w rd) := by
  unfold State.copyNow
  extract_lets d n words lanes s1 s2 s3
  have h1 : Keeps s s1 := State.setWs_keeps _ _ fun h => Memory.wf_store _ _ (Memory.wf_store _ _ h)
  have h3 : Keeps s s3 := (h1.trans (State.modMem_keeps ..)).trans (State.holdErrors_keeps ..)
  exact h3.trans (Keeps.ite (State.holdErrors_keeps ..) (Keeps.refl _))

theorem State.copyHold_keeps (s : State) (w : Nat) (rd : ArmReads) : Keeps s (s.copyHold w rd) :=
  Keeps.ite (State.copyNow_keeps ..) (State.modSq_keeps ..)

theorem State.copyWaiting_keeps (s : State) (st : Nat) : Keeps s (s.copyWaiting st) :=
  State.each_keeps _ _ _ fun s w => by
    split
    · exact (State.modSq_keeps ..).trans (State.copyNow_keeps ..)
    · exact Keeps.refl s

theorem State.armAccept_keeps (s : State) (w : Nat) (tag : Byte) (rd : ArmReads) (chk : ArmCheck) : Keeps s (s.armAccept w tag rd chk) := by
  unfold State.armAccept
  extract_lets s1 s2 s3 s4 s5 oversub
  have h1 : Keeps s s1 := Keeps.ite ((State.jumpDue_keeps ..).trans (State.pmuEnd_keeps ..)) (State.jumpDue_keeps ..)
  have h2 : Keeps s1 s2 := (State.modMd_keeps ..).trans (State.modSq_keeps ..)
  have h3 : Keeps s2 s3 := State.modWin_keeps ..
  have h4 : Keeps s3 s4 := ((State.copyHold_keeps ..).trans (State.openCapture_keeps ..)).trans (State.loadHead_keeps ..)
  have h5 : Keeps s4 s5 := State.each_keeps _ _ _ fun _ _ => State.judgeSlot_keeps ..
  exact ((((h1.trans h2).trans h3).trans h4).trans h5).trans ((State.modeStart_keeps ..).trans (State.parse_keeps ..))

theorem State.cmdArm_keeps (s : State) (w : Nat) (tag : Byte) (rd : ArmReads) : Keeps s (s.cmdArm w tag rd) := by
  unfold State.cmdArm
  repeat' first
    | with_reducible apply Keeps.refl
    | intro _
    | extract_lets
    | with_reducible apply Keeps.ite
    | with_reducible apply Keeps.after (State.modeGate_keeps _ _ _ _ _ ?_)
    | with_reducible apply Keeps.after (State.modeRefuse_keeps ..)
    | with_reducible apply Keeps.after (State.eccStack_keeps ..)
    | with_reducible apply Keeps.after (State.perr_keeps ..)
    | with_reducible apply Keeps.after (State.armAccept_keeps ..)
    | with_reducible apply Keeps.after (State.each_keeps _ _ _ ?_)
    | split
    | dsimp +zetaDelta only

theorem State.emptySluice_keeps (s : State) (w : Nat) : Keeps s (s.emptySluice w) := by
  unfold State.emptySluice
  repeat' first
    | with_reducible apply Keeps.refl
    | intro _
    | extract_lets
    | with_reducible apply Keeps.ite
    | with_reducible apply Keeps.after (State.modSl_keeps ..)
    | with_reducible apply Keeps.after (Keeps.set_held ..)
    | split
    | dsimp +zetaDelta only

theorem State.cancelArm_keeps (s : State) (w : Nat) (armTag tag : Byte) : Keeps s (s.cancelArm w armTag tag) := by
  unfold State.cancelArm
  repeat' first
    | with_reducible apply Keeps.refl
    | intro _
    | extract_lets
    | with_reducible apply Keeps.ite
    | with_reducible apply Keeps.after (State.jumpDue_keeps ..)
    | with_reducible apply Keeps.after (State.dropProgram_keeps ..)
    | with_reducible apply Keeps.after (State.emptySluice_keeps ..)
    | with_reducible apply Keeps.after (State.flushCapture_keeps ..)
    | with_reducible apply Keeps.after (State.modMd_keeps ..)
    | with_reducible apply Keeps.after (State.modeDone_keeps ..)
    | split
    | dsimp +zetaDelta only

theorem State.stopInRun_keeps (s : State) (w cmd t : Nat) (tag : Byte) : Keeps s (s.stopInRun w cmd t tag) := by
  unfold State.stopInRun
  repeat' first
    | with_reducible apply Keeps.refl
    | intro _
    | extract_lets
    | with_reducible apply Keeps.ite
    | with_reducible apply Keeps.after (State.acceptStop_keeps ..)
    | with_reducible apply Keeps.after (State.modeDone_keeps ..)
    | with_reducible apply Keeps.after (State.modMd_keeps ..)
    | split
    | dsimp +zetaDelta only

theorem State.stopOrDisarm_keeps (s : State) (w cmd t : Nat) (tag : Byte) : Keeps s (s.stopOrDisarm w cmd t tag) := by
  unfold State.stopOrDisarm
  repeat' first
    | with_reducible apply Keeps.refl
    | intro _
    | extract_lets
    | with_reducible apply Keeps.ite
    | with_reducible apply Keeps.after (State.modeStart_keeps ..)
    | with_reducible apply Keeps.after (State.modMd_keeps ..)
    | with_reducible apply Keeps.after (State.stopInRun_keeps ..)
    | with_reducible apply Keeps.after (State.modeDone_keeps ..)
    | split
    | dsimp +zetaDelta only

theorem State.cmdDisarm_keeps (s : State) (w : Nat) (tag : Byte) : Keeps s (s.cmdDisarm w tag) := by
  unfold State.cmdDisarm
  repeat' first
    | with_reducible apply Keeps.refl
    | intro _
    | extract_lets
    | with_reducible apply Keeps.ite
    | with_reducible apply Keeps.after (State.cancelArm_keeps ..)
    | with_reducible apply Keeps.after (State.modeRefuse_keeps ..)
    | with_reducible apply Keeps.after (State.modeGate_keeps _ _ _ _ _ ?_)
    | with_reducible apply Keeps.after (State.stopOrDisarm_keeps ..)
    | split
    | dsimp +zetaDelta only

theorem State.cmdStop_keeps (s : State) (w t : Nat) (tag : Byte) : Keeps s (s.cmdStop w t tag) := by
  unfold State.cmdStop
  repeat' first
    | with_reducible apply Keeps.refl
    | intro _
    | extract_lets
    | with_reducible apply Keeps.ite
    | with_reducible apply Keeps.after (State.modeGate_keeps _ _ _ _ _ ?_)
    | with_reducible apply Keeps.after (State.stopOrDisarm_keeps ..)
    | split
    | dsimp +zetaDelta only

theorem State.cmdStart_keeps (s : State) (w : Nat) (tag : Byte) : Keeps s (s.cmdStart w tag) := by
  unfold State.cmdStart
  repeat' first
    | with_reducible apply Keeps.refl
    | intro _
    | extract_lets
    | with_reducible apply Keeps.ite
    | with_reducible apply Keeps.after (State.modeGate_keeps _ _ _ _ _ ?_)
    | with_reducible apply Keeps.after (State.modeRefuse_keeps ..)
    | with_reducible apply Keeps.after (State.modeDone_keeps ..)
    | with_reducible apply Keeps.after (State.startRun_keeps ..)
    | split
    | dsimp +zetaDelta only

theorem State.startEvent_keeps (s : State) (w te : Nat) : Keeps s (s.startEvent w te) := by
  unfold State.startEvent
  repeat' first
    | with_reducible apply Keeps.refl
    | intro _
    | extract_lets
    | with_reducible apply Keeps.ite
    | with_reducible apply Keeps.after (State.startRun_keeps ..)
    | with_reducible apply Keeps.after (State.modMd_keeps ..)
    | split
    | dsimp +zetaDelta only

theorem State.deliverStarts_keeps (s : State) : Keeps s (s.deliverStarts) := by
  unfold State.deliverStarts
  repeat' first
    | with_reducible apply Keeps.refl
    | intro _
    | extract_lets
    | with_reducible apply Keeps.ite
    | with_reducible apply Keeps.after (State.linkDue_keeps ..)
    | with_reducible apply Keeps.after (State.startItems_keeps ..)
    | with_reducible apply Keeps.after (State.modSyn_keeps ..)
    | with_reducible apply Keeps.after (State.startEvent_keeps ..)
    | with_reducible apply Keeps.after (State.each_keeps _ _ _ ?_)
    | split
    | dsimp +zetaDelta only

theorem State.arriveFirst_keeps (s : State) (w : Nat) : Keeps s (s.arriveFirst w) := by
  unfold State.arriveFirst
  repeat' first
    | with_reducible apply Keeps.refl
    | intro _
    | extract_lets
    | with_reducible apply Keeps.ite
    | with_reducible apply Keeps.after (State.deliverStarts_keeps ..)
    | with_reducible apply Keeps.after (State.landEnd_keeps ..)
    | split
    | dsimp +zetaDelta only

theorem State.modeArrive_keeps (s : State) (w cmd : Nat) (tag : Byte) (i : Instr) (act : State → State) (hact : ∀ s, Keeps s (act s)) : Keeps s (s.modeArrive w cmd tag i act) := by
  unfold State.modeArrive
  repeat' first
    | with_reducible apply Keeps.refl
    | intro _
    | extract_lets
    | with_reducible apply Keeps.ite
    | with_reducible exact hact ..
    | with_reducible apply Keeps.after (hact ..)
    | with_reducible apply Keeps.after (State.modeWrite_keeps ..)
    | with_reducible apply Keeps.after (State.arriveFirst_keeps ..)
    | split
    | dsimp +zetaDelta only

theorem State.cmdReserved_keeps (s : State) (w code : Nat) (tag : Byte) : Keeps s (s.cmdReserved w code tag) := by
  unfold State.cmdReserved
  repeat' first
    | with_reducible apply Keeps.refl
    | intro _
    | extract_lets
    | with_reducible apply Keeps.ite
    | with_reducible apply Keeps.after (State.modeGate_keeps _ _ _ _ _ ?_)
    | with_reducible apply Keeps.after (State.modeRefuse_keeps ..)
    | split
    | dsimp +zetaDelta only

theorem State.modeCmd_keeps (s : State) (w code : Nat) (tag : Byte) (check calCheck : BitVec 16) (rd : ArmReads) : Keeps s (s.modeCmd w code tag check calCheck rd) := by
  unfold State.modeCmd
  repeat' first
    | with_reducible apply Keeps.refl
    | intro _
    | extract_lets
    | with_reducible apply Keeps.ite
    | with_reducible apply Keeps.after (State.cmdPowerOff_keeps ..)
    | with_reducible apply Keeps.after (State.cmdPark_keeps ..)
    | with_reducible apply Keeps.after (State.cmdConnect_keeps ..)
    | with_reducible apply Keeps.after (State.cmdArm_keeps ..)
    | with_reducible apply Keeps.after (State.cmdDisarm_keeps ..)
    | with_reducible apply Keeps.after (State.cmdStart_keeps ..)
    | with_reducible apply Keeps.after (State.cmdStop_keeps ..)
    | with_reducible apply Keeps.after (State.cmdService_keeps ..)
    | with_reducible apply Keeps.after (State.cmdReserved_keeps ..)
    | split
    | dsimp +zetaDelta only

theorem State.broadcast_keeps (s : State) (c cmd : Nat) (tag : Byte) (mask : BitVec 17) (checks : List (BitVec 16 × BitVec 16 × ArmReads)) : Keeps s (s.broadcast c cmd tag mask checks) := by
  unfold State.broadcast
  repeat' first
    | with_reducible apply Keeps.refl
    | intro _
    | extract_lets
    | with_reducible apply Keeps.ite
    | with_reducible apply Keeps.after (State.earlyLost_keeps ..)
    | with_reducible apply Keeps.after (State.modDev_keeps ..)
    | with_reducible apply Keeps.after (State.modeArrive_keeps _ _ _ _ _ _ ?_)
    | with_reducible apply Keeps.after (State.modeCmd_keeps ..)
    | with_reducible apply Keeps.after (foldl_keeps _ _ _ ?_)
    | split
    | dsimp +zetaDelta only

theorem State.leftReady_keeps (s : State) (w : Nat) : Keeps s (s.leftReady w) := by
  unfold State.leftReady
  repeat' first
    | with_reducible apply Keeps.refl
    | intro _
    | extract_lets
    | with_reducible apply Keeps.ite
    | with_reducible apply Keeps.after (State.pmuEnd_keeps ..)
    | with_reducible apply Keeps.after (State.setConn_keeps ..)
    | with_reducible apply Keeps.after (State.setStatic_keeps ..)
    | split
    | dsimp +zetaDelta only

theorem State.powerDown_keeps (s : State) (w : Nat) : Keeps s (s.powerDown w) := by
  unfold State.powerDown
  repeat' first
    | with_reducible apply Keeps.refl
    | intro _
    | extract_lets
    | with_reducible apply Keeps.ite
    | with_reducible apply Keeps.after (State.engStop_keeps ..)
    | with_reducible apply Keeps.after (State.setCal_keeps ..)
    | with_reducible apply Keeps.after (State.pmuEnd_keeps ..)
    | with_reducible apply Keeps.after (State.modSlot_keeps ..)
    | with_reducible apply Keeps.after (State.modPm_keeps ..)
    | split
    | dsimp +zetaDelta only

theorem State.connected_keeps (s : State) (w : Nat) : Keeps s (s.connected w) := by
  unfold State.connected
  repeat' first
    | with_reducible apply Keeps.refl
    | intro _
    | extract_lets
    | with_reducible apply Keeps.ite
    | with_reducible apply Keeps.after (State.setCal_keeps ..)
    | with_reducible apply Keeps.after (State.setConn_keeps ..)
    | with_reducible apply Keeps.after (State.countClose_keeps ..)
    | with_reducible apply Keeps.after (State.modSlot_keeps ..)
    | with_reducible apply Keeps.after (State.setStatic_keeps ..)
    | split
    | dsimp +zetaDelta only

theorem State.readArmed_keeps (s : State) (w : Nat) : Keeps s (s.readArmed w) := by
  unfold State.readArmed
  repeat' first
    | with_reducible apply Keeps.refl
    | intro _
    | extract_lets
    | with_reducible apply Keeps.ite
    | with_reducible apply Keeps.after (State.readInto_keeps ..)
    | split
    | dsimp +zetaDelta only

theorem State.arrived_keeps (s : State) (w cmd : Nat) (from_ : Mode) : Keeps s (s.arrived w cmd from_) := by
  unfold State.arrived
  repeat' first
    | with_reducible apply Keeps.refl
    | intro _
    | extract_lets
    | with_reducible apply Keeps.ite
    | with_reducible apply Keeps.after (State.powerDown_keeps ..)
    | with_reducible apply Keeps.after (State.modSlot_keeps ..)
    | with_reducible apply Keeps.after (State.modPm_keeps ..)
    | with_reducible apply Keeps.after (State.leftReady_keeps ..)
    | with_reducible apply Keeps.after (State.setCal_keeps ..)
    | with_reducible apply Keeps.after (State.pmuEnd_keeps ..)
    | with_reducible apply Keeps.after (State.connected_keeps ..)
    | with_reducible apply Keeps.after (State.readArmed_keeps ..)
    | with_reducible apply Keeps.after (State.discardBurst_keeps ..)
    | split
    | dsimp +zetaDelta only

theorem State.hotRestore_keeps (s : State) (w : Nat) (x : Trans) : Keeps s (s.hotRestore w x) := by
  unfold State.hotRestore
  repeat' first
    | with_reducible apply Keeps.refl
    | intro _
    | extract_lets
    | with_reducible apply Keeps.ite
    | with_reducible apply Keeps.after (State.modMd_keeps ..)
    | with_reducible apply Keeps.after (State.modPm_keeps ..)
    | with_reducible apply Keeps.after (State.driveWithPmu_keeps ..)
    | with_reducible apply Keeps.after (State.modeRefuse_keeps ..)
    | with_reducible apply Keeps.after (State.raiseCh_keeps ..)
    | split
    | dsimp +zetaDelta only

theorem State.transitionDone_keeps (s : State) (w : Nat) : Keeps s (s.transitionDone w) := by
  unfold State.transitionDone
  repeat' first
    | with_reducible apply Keeps.refl
    | intro _
    | extract_lets
    | with_reducible apply Keeps.ite
    | with_reducible apply Keeps.after (State.hotRestore_keeps ..)
    | with_reducible apply Keeps.after (State.modMd_keeps ..)
    | with_reducible apply Keeps.after (State.arrived_keeps ..)
    | with_reducible apply Keeps.after (State.modeDone_keeps ..)
    | split
    | dsimp +zetaDelta only

theorem State.connectFails_keeps (s : State) (w : Nat) : Keeps s (s.connectFails w) := by
  unfold State.connectFails
  repeat' first
    | with_reducible apply Keeps.refl
    | intro _
    | extract_lets
    | with_reducible apply Keeps.ite
    | with_reducible apply Keeps.after (State.setCal_keeps ..)
    | with_reducible apply Keeps.after (State.countClose_keeps ..)
    | with_reducible apply Keeps.after (State.draw_keeps ..)
    | split
    | dsimp +zetaDelta only

theorem State.switchFails_keeps (s : State) (w : Nat) : Keeps s (s.switchFails w) := by
  unfold State.switchFails
  repeat' first
    | with_reducible apply Keeps.refl
    | intro _
    | extract_lets
    | with_reducible apply Keeps.ite
    | with_reducible apply Keeps.after (State.swFail_keeps ..)
    | with_reducible apply Keeps.after (State.modMd_keeps ..)
    | with_reducible apply Keeps.after (State.connectFails_keeps ..)
    | with_reducible apply Keeps.after (State.pmuEnd_keeps ..)
    | with_reducible apply Keeps.after (State.setStatic_keeps ..)
    | with_reducible apply Keeps.after (State.modeDone_keeps ..)
    | with_reducible apply Keeps.after (State.raiseCh_keeps ..)
    | split
    | dsimp +zetaDelta only

theorem State.writeReadyDrive_keeps (s : State) (w v : Nat) : Keeps s (s.writeReadyDrive w v) := by
  unfold State.writeReadyDrive
  repeat' first
    | with_reducible apply Keeps.refl
    | intro _
    | extract_lets
    | with_reducible apply Keeps.ite
    | with_reducible apply Keeps.after (State.setReg_keeps ..)
    | with_reducible apply Keeps.after (State.modMd_keeps ..)
    | with_reducible apply Keeps.after (State.setStatic_keeps ..)
    | split
    | dsimp +zetaDelta only

theorem State.afeReqOn_keeps (s : State) (c : Nat) : Keeps s (s.afeReqOn c) := by
  unfold State.afeReqOn
  repeat' first
    | with_reducible apply Keeps.refl
    | intro _
    | extract_lets
    | with_reducible apply Keeps.ite
    | with_reducible apply Keeps.after (State.modClu_keeps ..)
    | split
    | dsimp +zetaDelta only

theorem State.afeReqOff_keeps (s : State) (c : Nat) : Keeps s (s.afeReqOff c) := by
  unfold State.afeReqOff
  repeat' first
    | with_reducible apply Keeps.refl
    | intro _
    | extract_lets
    | with_reducible apply Keeps.ite
    | with_reducible apply Keeps.after (State.modClu_keeps ..)
    | split
    | dsimp +zetaDelta only

theorem State.afeUp_keeps (s : State) (c : Nat) : Keeps s (s.afeUp c) := by
  unfold State.afeUp
  repeat' first
    | with_reducible apply Keeps.refl
    | intro _
    | extract_lets
    | with_reducible apply Keeps.ite
    | with_reducible apply Keeps.after (State.modClu_keeps ..)
    | split
    | dsimp +zetaDelta only

theorem State.headroomLow_keeps (s : State) (c : Nat) (v : Int) : Keeps s (s.headroomLow c v) := by
  unfold State.headroomLow
  repeat' first
    | with_reducible apply Keeps.refl
    | intro _
    | extract_lets
    | with_reducible apply Keeps.ite
    | with_reducible apply Keeps.after (State.modClu_keeps ..)
    | with_reducible apply Keeps.after (State.raiseClu_keeps ..)
    | split
    | dsimp +zetaDelta only

theorem State.headroomPost_keeps (s : State) (c capacity : Nat) : Keeps s (s.headroomPost c capacity) := by
  unfold State.headroomPost
  repeat' first
    | with_reducible apply Keeps.refl
    | intro _
    | extract_lets
    | with_reducible apply Keeps.ite
    | with_reducible apply Keeps.after (State.modClu_keeps ..)
    | with_reducible apply Keeps.after (State.headroomLow_keeps ..)
    | with_reducible apply Keeps.after (State.raiseClu_keeps ..)
    | with_reducible apply Keeps.after (State.endCond_keeps ..)
    | split
    | dsimp +zetaDelta only

theorem State.writeHrCfg_keeps (s : State) (c v : Nat) : Keeps s (s.writeHrCfg c v) := by
  unfold State.writeHrCfg
  repeat' first
    | with_reducible apply Keeps.refl
    | intro _
    | extract_lets
    | with_reducible apply Keeps.ite
    | with_reducible apply Keeps.after (State.modClu_keeps ..)
    | with_reducible apply Keeps.after (State.setReg_keeps ..)
    | split
    | dsimp +zetaDelta only

theorem State.writeCapArea_keeps (s : State) (w v : Nat) : Keeps s (s.writeCapArea w v) := by
  unfold State.writeCapArea
  repeat' first
    | with_reducible apply Keeps.refl
    | intro _
    | extract_lets
    | with_reducible apply Keeps.ite
    | with_reducible apply Keeps.after (State.modCp_keeps ..)
    | with_reducible apply Keeps.after (State.raiseCh_keeps ..)
    | with_reducible apply Keeps.after (State.setReg_keeps ..)
    | split
    | dsimp +zetaDelta only

theorem State.writeStpCfg_keeps (s : State) (w v : Nat) : Keeps s (s.writeStpCfg w v) := by
  unfold State.writeStpCfg
  repeat' first
    | with_reducible apply Keeps.refl
    | intro _
    | extract_lets
    | with_reducible apply Keeps.ite
    | with_reducible apply Keeps.after (State.stpRefuse_keeps ..)
    | with_reducible apply Keeps.after (State.stpAccept_keeps ..)
    | with_reducible apply Keeps.after (State.setReg_keeps ..)
    | split
    | dsimp +zetaDelta only

theorem State.writeStpLimit_keeps (s : State) (w v : Nat) : Keeps s (s.writeStpLimit w v) := by
  unfold State.writeStpLimit
  repeat' first
    | with_reducible apply Keeps.refl
    | intro _
    | extract_lets
    | with_reducible apply Keeps.ite
    | with_reducible apply Keeps.after (State.stpRefuse_keeps ..)
    | with_reducible apply Keeps.after (State.stpAccept_keeps ..)
    | with_reducible apply Keeps.after (State.setReg_keeps ..)
    | split
    | dsimp +zetaDelta only

theorem State.writeStpWm_keeps (s : State) (w v : Nat) : Keeps s (s.writeStpWm w v) := by
  unfold State.writeStpWm
  repeat' first
    | with_reducible apply Keeps.refl
    | intro _
    | extract_lets
    | with_reducible apply Keeps.ite
    | with_reducible apply Keeps.after (State.stpRefuse_keeps ..)
    | with_reducible apply Keeps.after (State.stpAccept_keeps ..)
    | with_reducible apply Keeps.after (State.setReg_keeps ..)
    | with_reducible apply Keeps.after (State.fullish_keeps ..)
    | split
    | dsimp +zetaDelta only

theorem State.stpCmd_keeps (s : State) (w op : Nat) : Keeps s (s.stpCmd w op) := by
  unfold State.stpCmd
  repeat' first
    | with_reducible apply Keeps.refl
    | intro _
    | extract_lets
    | with_reducible apply Keeps.ite
    | with_reducible apply Keeps.after (State.stpAccept_keeps ..)
    | with_reducible apply Keeps.after (State.stampArmAt_keeps ..)
    | with_reducible apply Keeps.after (State.stampDisarmAt_keeps ..)
    | with_reducible apply Keeps.after (State.stpRefuse_keeps ..)
    | split
    | dsimp +zetaDelta only

theorem State.engCmd_keeps (s : State) (w op : Nat) : Keeps s (s.engCmd w op) := by
  unfold State.engCmd
  repeat' first
    | with_reducible apply Keeps.refl
    | intro _
    | extract_lets
    | with_reducible apply Keeps.ite
    | with_reducible apply Keeps.after (State.engStartCmd_keeps ..)
    | with_reducible apply Keeps.after (State.engAccept_keeps ..)
    | with_reducible apply Keeps.after (State.engStop_keeps ..)
    | with_reducible apply Keeps.after (State.engRefuse_keeps ..)
    | split
    | dsimp +zetaDelta only

theorem State.hostEvent_keeps (s : State) (w sel : Nat) : Keeps s (s.hostEvent w sel) := by
  unfold State.hostEvent
  repeat' first
    | with_reducible apply Keeps.refl
    | intro _
    | extract_lets
    | with_reducible apply Keeps.ite
    | with_reducible apply Keeps.after (State.engOccur_keeps ..)
    | split
    | dsimp +zetaDelta only

theorem State.redCmd_keeps (s : State) (w op : Nat) : Keeps s (s.redCmd w op) := by
  unfold State.redCmd
  repeat' first
    | with_reducible apply Keeps.refl
    | intro _
    | extract_lets
    | with_reducible apply Keeps.ite
    | with_reducible apply Keeps.after (State.redArmCmd_keeps ..)
    | with_reducible apply Keeps.after (State.modRd_keeps ..)
    | with_reducible apply Keeps.after (State.redDisarmAt_keeps ..)
    | with_reducible apply Keeps.after (State.redRefuse_keeps ..)
    | split
    | dsimp +zetaDelta only

theorem State.winCmd_keeps (s : State) (w op : Nat) : Keeps s (s.winCmd w op) := by
  unfold State.winCmd
  repeat' first
    | with_reducible apply Keeps.refl
    | intro _
    | extract_lets
    | with_reducible apply Keeps.ite
    | with_reducible apply Keeps.after (State.winArmCmd_keeps ..)
    | with_reducible apply Keeps.after (State.winAbandonCmd_keeps ..)
    | with_reducible apply Keeps.after (State.winRefuse_keeps ..)
    | split
    | dsimp +zetaDelta only

theorem State.writeEngReg_keeps (s : State) (w off v : Nat) : Keeps s (s.writeEngReg w off v) := by
  unfold State.writeEngReg
  repeat' first
    | with_reducible apply Keeps.refl
    | intro _
    | extract_lets
    | with_reducible apply Keeps.ite
    | with_reducible apply Keeps.after (State.engRefuse_keeps ..)
    | with_reducible apply Keeps.after (State.engAccept_keeps ..)
    | with_reducible apply Keeps.after (State.setReg_keeps ..)
    | split
    | dsimp +zetaDelta only

theorem State.writeRedCfg_keeps (s : State) (w v : Nat) : Keeps s (s.writeRedCfg w v) := by
  unfold State.writeRedCfg
  repeat' first
    | with_reducible apply Keeps.refl
    | intro _
    | extract_lets
    | with_reducible apply Keeps.ite
    | with_reducible apply Keeps.after (State.redRefuse_keeps ..)
    | with_reducible apply Keeps.after (State.modRd_keeps ..)
    | with_reducible apply Keeps.after (State.setReg_keeps ..)
    | split
    | dsimp +zetaDelta only

theorem State.writeWinCfg_keeps (s : State) (w v : Nat) : Keeps s (s.writeWinCfg w v) := by
  unfold State.writeWinCfg
  repeat' first
    | with_reducible apply Keeps.refl
    | intro _
    | extract_lets
    | with_reducible apply Keeps.ite
    | with_reducible apply Keeps.after (State.winRefuse_keeps ..)
    | with_reducible apply Keeps.after (State.modCw_keeps ..)
    | with_reducible apply Keeps.after (State.setReg_keeps ..)
    | split
    | dsimp +zetaDelta only

theorem State.pulseEnd_keeps (s : State) (line : Nat) : Keeps s (s.pulseEnd line) := by
  unfold State.pulseEnd
  repeat' first
    | with_reducible apply Keeps.refl
    | intro _
    | extract_lets
    | with_reducible apply Keeps.ite
    | with_reducible apply Keeps.after (State.modSyn_keeps ..)
    | split
    | dsimp +zetaDelta only

end Sys2Proof.Machine
end

