-- ==== Sys2Proof/Laws/KeepsMemory.lean ====
section
/-!
SUPPORT. Sys2Proof/Laws/KeepsMemory.lean: `Keeps` for Harvest, the Ledger, memory engines and security.
-/

set_option linter.unusedTactic false
set_option linter.unreachableTactic false

namespace Sys2Proof.Machine

theorem State.backlog_keeps (s : State) (c : Nat) : Keeps s (s.backlog c) := by
  unfold State.backlog
  repeat' first
    | with_reducible apply Keeps.refl
    | intro _
    | extract_lets
    | with_reducible apply Keeps.ite
    | with_reducible apply Keeps.after (State.modHv_keeps ..)
    | split
    | dsimp +zetaDelta only

theorem State.stagePut_keeps (s : State) (c : Nat) (r : Rec) : Keeps s (s.stagePut c r) := by
  unfold State.stagePut
  repeat' first
    | with_reducible apply Keeps.refl
    | intro _
    | extract_lets
    | with_reducible apply Keeps.ite
    | with_reducible apply Keeps.after (State.modHv_keeps ..)
    | with_reducible apply Keeps.after (State.backlog_keeps ..)
    | with_reducible apply Keeps.after (State.setStack_store_keeps ..)
    | with_reducible apply Keeps.after (State.setWs_store_keeps ..)
    | split
    | dsimp +zetaDelta only

theorem State.stageDrop_keeps (s : State) (c : Nat) (r : Rec) : Keeps s (s.stageDrop c r) := by
  unfold State.stageDrop
  repeat' first
    | with_reducible apply Keeps.refl
    | intro _
    | extract_lets
    | with_reducible apply Keeps.ite
    | with_reducible apply Keeps.after (State.modHv_keeps ..)
    | with_reducible apply Keeps.after (State.raiseClu_keeps ..)
    | split
    | dsimp +zetaDelta only

theorem State.stageGap_keeps (s : State) (c : Nat) : Keeps s (s.stageGap c) := by
  unfold State.stageGap
  repeat' first
    | with_reducible apply Keeps.refl
    | intro _
    | extract_lets
    | with_reducible apply Keeps.ite
    | with_reducible apply Keeps.after (State.stagePut_keeps ..)
    | with_reducible apply Keeps.after (State.modHv_keeps ..)
    | split
    | dsimp +zetaDelta only

theorem State.stagePush_keeps (s : State) (c : Nat) (r : Rec) : Keeps s (s.stagePush c r) := by
  unfold State.stagePush
  repeat' first
    | with_reducible apply Keeps.refl
    | intro _
    | extract_lets
    | with_reducible apply Keeps.ite
    | with_reducible apply Keeps.after (State.touchBank_keeps ..)
    | with_reducible apply Keeps.after (State.stageGap_keeps ..)
    | with_reducible apply Keeps.after (State.stageDrop_keeps ..)
    | with_reducible apply Keeps.after (State.stagePut_keeps ..)
    | split
    | dsimp +zetaDelta only

theorem State.inputPop_keeps (s : State) (c i : Nat) : Keeps s (s.inputPop c i) := by
  unfold State.inputPop
  repeat' first
    | with_reducible apply Keeps.refl
    | intro _
    | extract_lets
    | with_reducible apply Keeps.ite
    | with_reducible apply Keeps.after (State.modCp_keeps ..)
    | with_reducible apply Keeps.after (State.modSt_keeps ..)
    | with_reducible apply Keeps.after (State.fullish_keeps ..)
    | with_reducible apply Keeps.after (State.modHv_keeps ..)
    | with_reducible apply Keeps.after (State.modFlt_keeps ..)
    | split
    | dsimp +zetaDelta only

theorem State.harvest_keeps (s : State) (c : Nat) : Keeps s (s.harvest c) := by
  unfold State.harvest
  repeat' first
    | with_reducible apply Keeps.refl
    | intro _
    | extract_lets
    | with_reducible apply Keeps.ite
    | with_reducible apply Keeps.after (State.inputPop_keeps ..)
    | with_reducible apply Keeps.after (State.modHv_keeps ..)
    | with_reducible apply Keeps.after (State.winPush_keeps ..)
    | with_reducible apply Keeps.after (State.stagePush_keeps ..)
    | split
    | dsimp +zetaDelta only

theorem State.stageSpoil_keeps (s : State) (c : Nat) (r : Rec) (firstBad : Bool) : Keeps s (s.stageSpoil c r firstBad) := by
  unfold State.stageSpoil
  repeat' first
    | with_reducible apply Keeps.refl
    | intro _
    | extract_lets
    | with_reducible apply Keeps.ite
    | with_reducible apply Keeps.after (State.stageDrop_keeps ..)
    | with_reducible apply Keeps.after (State.backlog_keeps ..)
    | split
    | dsimp +zetaDelta only

theorem State.refill_keeps (s : State) (c : Nat) (ecc : Ecc) (firstBad : Bool) : Keeps s (s.refill c ecc firstBad) := by
  unfold State.refill
  repeat' first
    | with_reducible apply Keeps.refl
    | intro _
    | extract_lets
    | with_reducible apply Keeps.ite
    | with_reducible apply Keeps.after (State.eccStackSeen_keeps ..)
    | with_reducible apply Keeps.after (State.modHv_keeps ..)
    | with_reducible apply Keeps.after (State.stageSpoil_keeps ..)
    | with_reducible apply Keeps.after (State.setWs_store_keeps ..)
    | split
    | dsimp +zetaDelta only

theorem State.hvsFire_keeps (s : State) (c : Nat) : Keeps s (s.hvsFire c) := by
  unfold State.hvsFire
  repeat' first
    | with_reducible apply Keeps.refl
    | intro _
    | extract_lets
    | with_reducible apply Keeps.ite
    | with_reducible apply Keeps.after (State.latch_keeps ..)
    | with_reducible apply Keeps.after (State.signal_keeps ..)
    | split
    | dsimp +zetaDelta only

theorem State.hvsIndicate_keeps (s : State) (c : Nat) : Keeps s (s.hvsIndicate c) := by
  unfold State.hvsIndicate
  repeat' first
    | with_reducible apply Keeps.refl
    | intro _
    | extract_lets
    | with_reducible apply Keeps.ite
    | with_reducible apply Keeps.after (State.modHv_keeps ..)
    | with_reducible apply Keeps.after (State.hvsFire_keeps ..)
    | split
    | dsimp +zetaDelta only

theorem State.hvsPost_keeps (s : State) (c : Nat) : Keeps s (s.hvsPost c) := by
  unfold State.hvsPost
  repeat' first
    | with_reducible apply Keeps.refl
    | intro _
    | extract_lets
    | with_reducible apply Keeps.ite
    | with_reducible apply Keeps.after (State.modHv_keeps ..)
    | with_reducible apply Keeps.after (State.emit_keeps ..)
    | split
    | dsimp +zetaDelta only

theorem State.ringWrite_keeps (s : State) (c : Nat) (ecc : Ecc) (firstBad : Bool) : Keeps s (s.ringWrite c ecc firstBad) := by
  unfold State.ringWrite
  repeat' first
    | with_reducible apply Keeps.refl
    | intro _
    | extract_lets
    | with_reducible apply Keeps.ite
    | with_reducible apply Keeps.after (State.eccBankSeen_keeps ..)
    | with_reducible apply Keeps.after (State.modHv_keeps ..)
    | with_reducible apply Keeps.after (State.stageSpoil_keeps ..)
    | with_reducible apply Keeps.after (State.emit_keeps ..)
    | with_reducible apply Keeps.after (State.backlog_keeps ..)
    | with_reducible apply Keeps.after (State.hvsIndicate_keeps ..)
    | with_reducible apply Keeps.after (State.hvsPost_keeps ..)
    | split
    | dsimp +zetaDelta only

theorem State.hvsCoal_keeps (s : State) (c : Nat) : Keeps s (s.hvsCoal c) := by
  unfold State.hvsCoal
  repeat' first
    | with_reducible apply Keeps.refl
    | intro _
    | extract_lets
    | with_reducible apply Keeps.ite
    | with_reducible apply Keeps.after (State.modHv_keeps ..)
    | with_reducible apply Keeps.after (State.hvsFire_keeps ..)
    | split
    | dsimp +zetaDelta only

theorem State.writeCons_keeps (s : State) (c v : Nat) : Keeps s (s.writeCons c v) := by
  unfold State.writeCons
  repeat' first
    | with_reducible apply Keeps.refl
    | intro _
    | extract_lets
    | with_reducible apply Keeps.ite
    | with_reducible apply Keeps.after (State.modHv_keeps ..)
    | with_reducible apply Keeps.after (State.raiseClu_keeps ..)
    | with_reducible apply Keeps.after (State.hvsIndicate_keeps ..)
    | split
    | dsimp +zetaDelta only

theorem State.hvsRefuse_keeps (s : State) (c : Nat) : Keeps s (s.hvsRefuse c) := by
  unfold State.hvsRefuse
  repeat' first
    | with_reducible apply Keeps.refl
    | intro _
    | extract_lets
    | with_reducible apply Keeps.ite
    | with_reducible apply Keeps.after (State.modHv_keeps ..)
    | split
    | dsimp +zetaDelta only

theorem State.hvsAccept_keeps (s : State) (c : Nat) : Keeps s (s.hvsAccept c) := by
  unfold State.hvsAccept
  repeat' first
    | with_reducible apply Keeps.refl
    | intro _
    | extract_lets
    | with_reducible apply Keeps.ite
    | with_reducible apply Keeps.after (State.modHv_keeps ..)
    | split
    | dsimp +zetaDelta only

theorem State.writeHvsRing_keeps (s : State) (c v : Nat) : Keeps s (s.writeHvsRing c v) := by
  unfold State.writeHvsRing
  repeat' first
    | with_reducible apply Keeps.refl
    | intro _
    | extract_lets
    | with_reducible apply Keeps.ite
    | with_reducible apply Keeps.after (State.hvsRefuse_keeps ..)
    | with_reducible apply Keeps.after (State.setReg_keeps ..)
    | with_reducible apply Keeps.after (State.hvsAccept_keeps ..)
    | with_reducible apply Keeps.after (State.modHv_keeps ..)
    | split
    | dsimp +zetaDelta only

theorem State.writeHvsWm_keeps (s : State) (c v : Nat) : Keeps s (s.writeHvsWm c v) := by
  unfold State.writeHvsWm
  repeat' first
    | with_reducible apply Keeps.refl
    | intro _
    | extract_lets
    | with_reducible apply Keeps.ite
    | with_reducible apply Keeps.after (State.hvsRefuse_keeps ..)
    | with_reducible apply Keeps.after (State.setReg_keeps ..)
    | with_reducible apply Keeps.after (State.hvsAccept_keeps ..)
    | with_reducible apply Keeps.after (State.hvsIndicate_keeps ..)
    | split
    | dsimp +zetaDelta only

theorem State.writeHvsSwm_keeps (s : State) (c v : Nat) : Keeps s (s.writeHvsSwm c v) := by
  unfold State.writeHvsSwm
  repeat' first
    | with_reducible apply Keeps.refl
    | intro _
    | extract_lets
    | with_reducible apply Keeps.ite
    | with_reducible apply Keeps.after (State.hvsRefuse_keeps ..)
    | with_reducible apply Keeps.after (State.setReg_keeps ..)
    | with_reducible apply Keeps.after (State.hvsAccept_keeps ..)
    | with_reducible apply Keeps.after (State.backlog_keeps ..)
    | split
    | dsimp +zetaDelta only

theorem State.rwlPost_keeps (s : State) (kind outcome reason : Nat) : Keeps s (s.rwlPost kind outcome reason) := by
  unfold State.rwlPost
  repeat' first
    | with_reducible apply Keeps.refl
    | intro _
    | extract_lets
    | with_reducible apply Keeps.ite
    | with_reducible apply Keeps.after (State.bumpSeq_keeps ..)
    | with_reducible apply Keeps.after (State.modKeep_keeps _ _ (by first | rfl | simp))
    | split
    | dsimp +zetaDelta only

theorem State.repairPost_keeps (s : State) (outcome reason : Nat) : Keeps s (s.repairPost outcome reason) := by
  unfold State.repairPost
  repeat' first
    | with_reducible apply Keeps.refl
    | intro _
    | extract_lets
    | with_reducible apply Keeps.ite
    | with_reducible apply Keeps.after (State.modMem_keeps ..)
    | with_reducible apply Keeps.after (State.bumpSeq_keeps ..)
    | with_reducible apply Keeps.after (State.raiseDev_keeps ..)
    | split
    | dsimp +zetaDelta only

theorem State.retireRefuse_keeps (s : State) (c : Nat) : Keeps s (s.retireRefuse c) := by
  unfold State.retireRefuse
  repeat' first
    | with_reducible apply Keeps.refl
    | intro _
    | extract_lets
    | with_reducible apply Keeps.ite
    | with_reducible apply Keeps.after (State.modClu_keeps ..)
    | with_reducible apply Keeps.after (State.raiseClu_keeps ..)
    | split
    | dsimp +zetaDelta only

theorem State.budgetRefuse_keeps (s : State) (kind obj : Nat) : Keeps s (s.budgetRefuse kind obj) := by
  unfold State.budgetRefuse
  repeat' first
    | with_reducible apply Keeps.refl
    | intro _
    | extract_lets
    | with_reducible apply Keeps.ite
    | with_reducible apply Keeps.after (State.rwlPost_keeps ..)
    | with_reducible apply Keeps.after (State.raiseDev_keeps ..)
    | with_reducible apply Keeps.after (State.modMem_keeps ..)
    | with_reducible apply Keeps.after (State.repairPost_keeps ..)
    | with_reducible apply Keeps.after (State.retireRefuse_keeps ..)
    | split
    | dsimp +zetaDelta only

theorem State.setQueue_keeps (s : State) (r : List Append) : Keeps s (s.modKeep fun k => { k with queue := r }) := State.modKeep_keeps _ _ rfl

theorem State.startAppends_keeps (s : State) (n : Nat) : Keeps s (s.startAppends n) := by
  induction n generalizing s with
  | zero => exact Keeps.refl s
  | succ n ih =>
    unfold State.startAppends
    split
    · exact Keeps.refl s
    · rename_i a r _
      extract_lets pop
      have h : Keeps s pop := State.setQueue_keeps ..
      split
      · exact (h.trans (State.budgetRefuse_keeps ..)).trans (ih _)
      · split
        · exact ((h.trans (State.rwlPost_keeps ..)).trans (State.retireRefuse_keeps ..)).trans (ih _)
        · exact Keeps.refl s

theorem State.request_keeps (s : State) (kind obj val : Nat) : Keeps s (s.request kind obj val) := by
  unfold State.request
  repeat' first
    | with_reducible apply Keeps.refl
    | intro _
    | extract_lets
    | with_reducible apply Keeps.ite
    | with_reducible apply Keeps.after (State.startAppends_keeps ..)
    | with_reducible apply Keeps.after (State.modKeep_keeps _ _ rfl)
    | split
    | dsimp +zetaDelta only

theorem State.granted_keeps (s : State) (a : Append) : Keeps s (s.granted a) := by
  unfold State.granted
  repeat' first
    | with_reducible apply Keeps.refl
    | intro _
    | extract_lets
    | with_reducible apply Keeps.ite
    | with_reducible apply Keeps.after (State.modMem_keeps ..)
    | with_reducible apply Keeps.after (State.modClu_keeps ..)
    | with_reducible apply Keeps.after (State.modFlt_keeps ..)
    | with_reducible apply Keeps.after (State.modKeep_keeps _ _ (by first | rfl | simp))
    | split
    | dsimp +zetaDelta only

theorem State.ungranted_keeps (s : State) (a : Append) : Keeps s (s.ungranted a) := by
  unfold State.ungranted
  repeat' first
    | with_reducible apply Keeps.refl
    | intro _
    | extract_lets
    | with_reducible apply Keeps.ite
    | with_reducible apply Keeps.after (State.modMem_keeps ..)
    | with_reducible apply Keeps.after (State.repairPost_keeps ..)
    | split
    | dsimp +zetaDelta only

theorem OtpKept.set (t : Tab (BitVec 256)) (i : Nat) (e : BitVec 256) (h : Tab.get 0 t i &&& ~~~ e = 0) : OtpKept t (Tab.set 0 t i e) := fun j => by
  rw [Tab.get_set]
  split
  · subst_vars; exact h
  · simp

theorem State.nextBlank_blank {s : State} {i : Nat} (h : s.nextBlank = some i) : Tab.get 0 s.keep.ledger i = 0 := by
  simpa using List.find?_some h

/-- Programming an entry turns bits from 0 to 1 only: it goes to a blank index (R326, R328). -/
theorem State.program_keeps (s : State) (kind lc obj val : Nat) (verified : Bool) : Keeps s (s.program kind lc obj val verified).2 := by
  unfold State.program
  split
  · exact Keeps.refl s
  · rename_i i hi
    extract_lets e s1 s2
    have h1 : Keeps s s1 := State.modKeep_otp _ _ (OtpKept.set _ _ _ (by rw [State.nextBlank_blank hi]; exact BitVec.zero_and))
    have h2 : Keeps s1 s2 := by
      dsimp only [s2]
      split
      · exact Keeps.refl s1
      · exact State.raiseDev_keeps ..
    show Keeps s (if s2.blanks = 63 then s2.raiseDev 12 3 0 0 else s2)
    split
    · exact (h1.trans h2).trans (State.raiseDev_keeps ..)
    · exact h1.trans h2

theorem State.appendDone_keeps (s : State) (verified : Bool) : Keeps s (s.appendDone verified) := by
  unfold State.appendDone
  split
  · exact Keeps.refl s
  · extract_lets p s1 s2
    have h0 : Keeps p.2 s1 := State.setQueue_keeps ..
    have h1 : Keeps s s1 := (State.program_keeps ..).trans h0
    have h2 : Keeps s1 s2 := Keeps.ite ((State.rwlPost_keeps ..).trans (State.granted_keeps ..))
      ((State.rwlPost_keeps ..).trans (State.ungranted_keeps ..))
    exact (h1.trans h2).trans (State.startAppends_keeps ..)

theorem State.retire_keeps (s : State) (c : Nat) : Keeps s (s.retire c) := by
  unfold State.retire
  repeat' first
    | with_reducible apply Keeps.refl
    | intro _
    | extract_lets
    | with_reducible apply Keeps.ite
    | with_reducible apply Keeps.after (State.retireRefuse_keeps ..)
    | with_reducible apply Keeps.after (State.budgetRefuse_keeps ..)
    | with_reducible apply Keeps.after (State.modClu_keeps ..)
    | with_reducible apply Keeps.after (State.request_keeps ..)
    | split
    | dsimp +zetaDelta only

theorem State.writeSubsys_keeps (s : State) (v : Nat) : Keeps s (s.writeSubsys v) := by
  unfold State.writeSubsys
  repeat' first
    | with_reducible apply Keeps.refl
    | intro _
    | extract_lets
    | with_reducible apply Keeps.ite
    | with_reducible apply Keeps.after (State.rwlPost_keeps ..)
    | with_reducible apply Keeps.after (State.budgetRefuse_keeps ..)
    | with_reducible apply Keeps.after (State.request_keeps ..)
    | split
    | dsimp +zetaDelta only

theorem State.writePol_keeps (s : State) (pol : Bool) : Keeps s (s.writePol pol) := by
  unfold State.writePol
  repeat' first
    | with_reducible apply Keeps.refl
    | intro _
    | extract_lets
    | with_reducible apply Keeps.ite
    | with_reducible apply Keeps.after (State.budgetRefuse_keeps ..)
    | with_reducible apply Keeps.after (State.request_keeps ..)
    | split
    | dsimp +zetaDelta only

theorem State.scrubMove_keeps (s : State) (st : Nat) : Keeps s (s.scrubMove st) := by
  unfold State.scrubMove
  repeat' first
    | with_reducible apply Keeps.refl
    | intro _
    | extract_lets
    | with_reducible apply Keeps.ite
    | with_reducible apply Keeps.after (State.modMem_keeps ..)
    | with_reducible apply Keeps.after (State.raiseDev_keeps ..)
    | split
    | dsimp +zetaDelta only

theorem State.scrub_keeps (s : State) (target : Nat) (ecc : Ecc) : Keeps s (s.scrub target ecc) := by
  unfold State.scrub
  repeat' first
    | with_reducible apply Keeps.refl
    | intro _
    | extract_lets
    | with_reducible apply Keeps.ite
    | with_reducible apply Keeps.after (State.eccStackSeen_keeps ..)
    | with_reducible apply Keeps.after (State.scrubMove_keeps ..)
    | with_reducible apply Keeps.after (State.eccBankSeen_keeps ..)
    | with_reducible apply Keeps.after (State.modMem_keeps ..)
    | split
    | dsimp +zetaDelta only

theorem State.bankPost_keeps (s : State) (b outcome reason : Nat) : Keeps s (s.bankPost b outcome reason) := by
  unfold State.bankPost
  repeat' first
    | with_reducible apply Keeps.refl
    | intro _
    | extract_lets
    | with_reducible apply Keeps.ite
    | with_reducible apply Keeps.after (State.modMem_keeps ..)
    | with_reducible apply Keeps.after (State.bumpSeq_keeps ..)
    | with_reducible apply Keeps.after (State.raiseDev_keeps ..)
    | split
    | dsimp +zetaDelta only

theorem State.zeroBank_keeps (s : State) (b : Nat) : Keeps s (s.zeroBank b) := by
  unfold State.zeroBank
  repeat' first
    | with_reducible apply Keeps.refl
    | intro _
    | extract_lets
    | with_reducible apply Keeps.ite
    | with_reducible apply Keeps.after (State.setWs_zero_keeps ..)
    | split
    | dsimp +zetaDelta only

theorem State.dropSluices_keeps (s : State) (b : Nat) : Keeps s (s.dropSluices b) := by
  unfold State.dropSluices
  repeat' first
    | with_reducible apply Keeps.refl
    | intro _
    | extract_lets
    | with_reducible apply Keeps.ite
    | with_reducible apply Keeps.after (State.modSl_keeps ..)
    | with_reducible apply Keeps.after (State.fillIndicate_keeps ..)
    | with_reducible apply Keeps.after (State.each_keeps _ _ _ ?_)
    | split
    | dsimp +zetaDelta only

theorem State.bankCmd_keeps (s : State) (b st : Nat) : Keeps s (s.bankCmd b st) := by
  unfold State.bankCmd
  repeat' first
    | with_reducible apply Keeps.refl
    | intro _
    | extract_lets
    | with_reducible apply Keeps.ite
    | with_reducible apply Keeps.after (State.bankPost_keeps ..)
    | with_reducible apply Keeps.after (State.modMem_keeps ..)
    | with_reducible apply Keeps.after (State.dropSluices_keeps ..)
    | with_reducible apply Keeps.after (State.zeroBank_keeps ..)
    | split
    | dsimp +zetaDelta only

theorem State.bankDone_keeps (s : State) (b : Nat) : Keeps s (s.bankDone b) := by
  unfold State.bankDone
  repeat' first
    | with_reducible apply Keeps.refl
    | intro _
    | extract_lets
    | with_reducible apply Keeps.ite
    | with_reducible apply Keeps.after (State.modMem_keeps ..)
    | with_reducible apply Keeps.after (State.bankPost_keeps ..)
    | split
    | dsimp +zetaDelta only

theorem State.writeMarchCfg_keeps (s : State) (v : Nat) : Keeps s (s.writeMarchCfg v) := by
  unfold State.writeMarchCfg
  repeat' first
    | with_reducible apply Keeps.refl
    | intro _
    | extract_lets
    | with_reducible apply Keeps.ite
    | with_reducible apply Keeps.after (State.setReg_keeps ..)
    | split
    | dsimp +zetaDelta only

theorem State.marchPost_keeps (s : State) (outcome reason : Nat) : Keeps s (s.marchPost outcome reason) := by
  unfold State.marchPost
  repeat' first
    | with_reducible apply Keeps.refl
    | intro _
    | extract_lets
    | with_reducible apply Keeps.ite
    | with_reducible apply Keeps.after (State.modMem_keeps ..)
    | with_reducible apply Keeps.after (State.bumpSeq_keeps ..)
    | with_reducible apply Keeps.after (State.raiseDev_keeps ..)
    | split
    | dsimp +zetaDelta only

theorem State.marchStartCmd_keeps (s : State) : Keeps s (s.marchStartCmd) := by
  unfold State.marchStartCmd
  repeat' first
    | with_reducible apply Keeps.refl
    | intro _
    | extract_lets
    | with_reducible apply Keeps.ite
    | with_reducible apply Keeps.after (State.marchPost_keeps ..)
    | with_reducible apply Keeps.after (State.modMem_keeps ..)
    | with_reducible apply Keeps.after (State.dropSluices_keeps ..)
    | with_reducible apply Keeps.after (State.each_keeps _ _ _ ?_)
    | split
    | dsimp +zetaDelta only

theorem State.marchEnd_keeps (s : State) (outcome : Nat) : Keeps s (s.marchEnd outcome) := by
  unfold State.marchEnd
  repeat' first
    | with_reducible apply Keeps.refl
    | intro _
    | extract_lets
    | with_reducible apply Keeps.ite
    | with_reducible apply Keeps.after (State.modMem_keeps ..)
    | with_reducible apply Keeps.after (State.marchPost_keeps ..)
    | split
    | dsimp +zetaDelta only

theorem Tab.above_append {α : Type} (b m : Nat) : ∀ {k : Nat} {t u : Tab α}, Tab.above k t = true → (∀ e ∈ t, e.1 < m) → k ≤ m →
    Tab.above b u = true → m ≤ b → Tab.above k (t ++ u) = true
  | k, [], u, _, _, hk, hu, hb => Tab.above_mono (Nat.le_trans hk hb) hu
  | k, (j, v) :: t, u, h, hl, _, hu, hb => by
    simp only [Tab.above, Bool.and_eq_true, decide_eq_true_eq] at h
    simp only [List.cons_append, Tab.above, Bool.and_eq_true, decide_eq_true_eq]
    exact ⟨h.1, Tab.above_append b m h.2 (fun e he => hl e (List.mem_cons_of_mem _ he)) (hl (j, v) List.mem_cons_self) hu hb⟩

theorem Tab.above_from {α : Type} (m : Nat) : ∀ {k : Nat} {t : Tab α}, Tab.above k t = true → (∀ e ∈ t, m ≤ e.1) → Tab.above m t = true
  | _, [], _, _ => rfl
  | _, (j, v) :: t, h, hl => by
    simp only [Tab.above, Bool.and_eq_true, decide_eq_true_eq] at h ⊢
    exact ⟨hl (j, v) List.mem_cons_self, h.2⟩

theorem Tab.above_range {α : Type} (f : Nat → α) (n base : Nat) :
    Tab.above base ((List.range n).map fun i => (base + i, f (base + i))) = true := by
  suffices h : ∀ k, Tab.above k ((List.range' k n).map fun i => (i, f i)) = true by
    have e := h base
    rw [List.range'_eq_map_range, List.map_map] at e
    exact e
  induction n with
  | zero => intro k; rfl
  | succ n ih =>
    intro k
    simp only [List.range'_succ, List.map_cons, Tab.above, Nat.le_refl, decide_true, Bool.true_and]
    exact ih _

/-- A span of cells replaced by others in canonical form keeps the form. -/
theorem Memory.wf_splice {m : List Host.Cell} {lo hi : Nat} {new : List Host.Cell} (h : Memory.wf m = true) (hn : Memory.wf new = true)
    (hr : ∀ e ∈ new, lo ≤ e.1 ∧ e.1 < hi) (hlt : lo ≤ hi) : Memory.wf (Memory.splice m lo hi new) = true := by
  obtain ⟨ha, hz⟩ := (Tab.wf_iff 0 m).mp h
  obtain ⟨hna, hnz⟩ := (Tab.wf_iff 0 new).mp hn
  refine (Tab.wf_iff 0 _).mpr ⟨?_, ?_⟩
  · unfold Memory.splice
    rw [List.append_assoc]
    refine Tab.above_append lo lo (Tab.above_filter _ ha) (by simp) (Nat.zero_le _) ?_ (Nat.le_refl _)
    exact Tab.above_append hi hi (Tab.above_from lo hna fun e he => (hr e he).1) (fun e he => (hr e he).2) hlt
      (Tab.above_from hi (Tab.above_filter _ ha) (by simp)) (Nat.le_refl _)
  · intro e he
    simp only [Memory.splice, List.mem_append, List.mem_filter] at he
    rcases he with (he | he) | he
    · exact hz e he.1
    · exact hnz e he
    · exact hz e he.1

theorem abortCells_wf (n base : Nat) : Memory.wf (abortCells n base) = true ∧ ∀ e ∈ abortCells n base, base ≤ e.1 ∧ e.1 < base + 0x200000 := by
  constructor
  · refine (Tab.wf_iff 0 _).mpr ⟨Tab.above_filter _ ?_, ?_⟩
    · exact Tab.above_mono (Nat.zero_le base) (Tab.above_range (Config.abortByte n) _ base)
    · intro e he
      simpa using (List.mem_filter.mp he).2
  · intro e he
    obtain ⟨i, hi, rfl⟩ := List.mem_map.mp (List.mem_filter.mp he).1
    have := List.mem_range.mp hi
    exact ⟨Nat.le_add_right .., Nat.add_lt_add_left this _⟩

theorem State.undefineBanks_keeps (s : State) : Keeps s s.undefineBanks := by
  unfold State.undefineBanks
  refine State.each_keeps _ _ _ fun s b => (State.setWs_keeps _ _ fun h => ?_).trans (State.draw_keeps _)
  have e : bankBase (b + 1) = bankBase b + 0x200000 := by simp only [bankBase, Nat.add_mul, Nat.one_mul]
  obtain ⟨h1, h2⟩ := abortCells_wf s.freeN (bankBase b)
  rw [e]
  exact Memory.wf_splice h h1 h2 (Nat.le_add_right ..)

theorem State.marchAbortCmd_keeps (s : State) : Keeps s (s.marchAbortCmd) := by
  unfold State.marchAbortCmd
  repeat' first
    | with_reducible apply Keeps.refl
    | intro _
    | extract_lets
    | with_reducible apply Keeps.ite
    | with_reducible apply Keeps.after (State.undefineBanks_keeps ..)
    | with_reducible apply Keeps.after (State.marchEnd_keeps ..)
    | with_reducible apply Keeps.after (State.modMem_keeps ..)
    | split
    | dsimp +zetaDelta only

theorem State.borrowMove_keeps (s : State) (t row phase : Nat) : Keeps s (s.borrowMove t row phase) := by
  unfold State.borrowMove
  repeat' first
    | with_reducible apply Keeps.refl
    | intro _
    | extract_lets
    | with_reducible apply Keeps.ite
    | with_reducible apply Keeps.after (State.modMem_keeps ..)
    | split
    | dsimp +zetaDelta only

theorem State.marchFail_keeps (s : State) (t row col : Nat) : Keeps s (s.marchFail t row col) := by
  unfold State.marchFail
  repeat' first
    | with_reducible apply Keeps.refl
    | intro _
    | extract_lets
    | with_reducible apply Keeps.ite
    | with_reducible apply Keeps.after (State.modMem_keeps ..)
    | with_reducible apply Keeps.after (State.raiseDev_keeps ..)
    | split
    | dsimp +zetaDelta only

theorem Tab.above_shift {α : Type} (at_ src : Nat) : ∀ {k : Nat} {t : Tab α}, Tab.above k t = true → (∀ e ∈ t, src ≤ e.1) →
    Tab.above at_ (t.map fun c => (at_ + (c.1 - src), c.2)) = true
  | _, [], _, _ => rfl
  | k, (j, v) :: t, h, hl => by
    have shift : ∀ {k : Nat} {t : Tab α}, Tab.above k t = true → (∀ e ∈ t, src ≤ e.1) →
        Tab.above (at_ + (k - src)) (t.map fun c => (at_ + (c.1 - src), c.2)) = true := by
      intro k t
      induction t generalizing k with
      | nil => intros; rfl
      | cons e t ih =>
        intro h hl
        simp only [Tab.above, Bool.and_eq_true, decide_eq_true_eq, List.map_cons] at h ⊢
        have he := hl e List.mem_cons_self
        refine ⟨by omega, ?_⟩
        have := ih h.2 fun e he => hl e (List.mem_cons_of_mem _ he)
        rwa [show at_ + (e.1 + 1 - src) = at_ + (e.1 - src) + 1 by omega] at this
    exact Tab.above_mono (Nat.le_add_right ..) (shift h hl)

/-- The shadow row takes a span of a canonical memory. -/
theorem wf_shadow {m ws : List Host.Cell} (src at_ : Nat) (h : Memory.wf ws = true) (hm : Memory.wf m = true) :
    Memory.wf (Memory.splice ws at_ (at_ + 0x400)
      ((m.filter fun c => decide (src ≤ c.1) && decide (c.1 < src + 0x400)).map fun c => (at_ + (c.1 - src), c.2))) = true := by
  obtain ⟨ha, hz⟩ := (Tab.wf_iff 0 m).mp hm
  refine Memory.wf_splice h ((Tab.wf_iff 0 _).mpr ⟨?_, ?_⟩) ?_ (Nat.le_add_right ..)
  · refine Tab.above_mono (Nat.zero_le at_) (Tab.above_shift at_ src (Tab.above_filter _ ha) fun e he => ?_)
    have := (List.mem_filter.mp he).2
    simp only [Bool.and_eq_true, decide_eq_true_eq] at this
    exact this.1
  · intro e he
    obtain ⟨c, hc, rfl⟩ := List.mem_map.mp he
    exact hz c (List.mem_filter.mp hc).1
  · intro e he
    obtain ⟨c, hc, rfl⟩ := List.mem_map.mp he
    have := (List.mem_filter.mp hc).2
    simp only [Bool.and_eq_true, decide_eq_true_eq] at this
    exact ⟨Nat.le_add_right .., by dsimp only; omega⟩

theorem State.shadowRow_keeps (s : State) (t row : Nat) : Keeps s (s.shadowRow t row) := by
  unfold State.shadowRow
  extract_lets src cells at_
  refine ⟨rfl, rfl, Nat.le_refl _, OtpKept.refl _, fun hc => ?_⟩
  rw [canonical_iff] at hc ⊢
  refine ⟨hc.1, ?_, hc.2.2⟩
  show Memory.wf (Memory.splice _ _ _ _) = true
  dsimp only [cells]
  split
  · exact wf_shadow src at_ hc.2.1 hc.2.1
  · exact wf_shadow src at_ hc.2.1 hc.1

theorem State.rowErrors_keeps (s : State) (t at_ : Nat) (found : List (Nat × Ecc)) : Keeps s (s.rowErrors t at_ found) := by
  unfold State.rowErrors
  repeat' first
    | with_reducible apply Keeps.refl
    | intro _
    | extract_lets
    | with_reducible apply Keeps.ite
    | with_reducible apply Keeps.after (State.eccBankSeen_keeps ..)
    | with_reducible apply Keeps.after (State.eccStackSeen_keeps ..)
    | with_reducible apply Keeps.after (State.each_keeps _ _ _ ?_)
    | split
    | dsimp +zetaDelta only

theorem State.copiedIn_keeps (s : State) (r : RowReads) : Keeps s (s.copiedIn r) := by
  unfold State.copiedIn
  repeat' first
    | with_reducible apply Keeps.refl
    | intro _
    | extract_lets
    | with_reducible apply Keeps.ite
    | with_reducible apply Keeps.after (State.rowErrors_keeps ..)
    | with_reducible apply Keeps.after (State.shadowRow_keeps ..)
    | with_reducible apply Keeps.after (State.borrowMove_keeps ..)
    | split
    | dsimp +zetaDelta only

theorem State.rowTested_keeps (s : State) (stk : Bool) (failCol : Option Nat) : Keeps s (s.rowTested stk failCol) := by
  unfold State.rowTested
  repeat' first
    | with_reducible apply Keeps.refl
    | intro _
    | extract_lets
    | with_reducible apply Keeps.ite
    | with_reducible apply Keeps.after (State.marchFail_keeps ..)
    | with_reducible apply Keeps.after (State.borrowMove_keeps ..)
    | split
    | dsimp +zetaDelta only

theorem State.copiedBack_keeps (s : State) (r : RowReads) : Keeps s (s.copiedBack r) := by
  unfold State.copiedBack
  repeat' first
    | with_reducible apply Keeps.refl
    | intro _
    | extract_lets
    | with_reducible apply Keeps.ite
    | with_reducible apply Keeps.after (State.rowErrors_keeps ..)
    | with_reducible apply Keeps.after (State.shadowRow_keeps ..)
    | with_reducible apply Keeps.after (State.modMem_keeps ..)
    | with_reducible apply Keeps.after (State.marchEnd_keeps ..)
    | split
    | dsimp +zetaDelta only

theorem State.destructiveDone_keeps (s : State) (fails : List (Nat × Nat × Nat)) : Keeps s (s.destructiveDone fails) := by
  unfold State.destructiveDone
  repeat' first
    | with_reducible apply Keeps.refl
    | intro _
    | extract_lets
    | with_reducible apply Keeps.ite
    | with_reducible apply Keeps.after (State.zeroBank_keeps ..)
    | with_reducible apply Keeps.after (State.marchFail_keeps ..)
    | with_reducible apply Keeps.after (State.modMem_keeps ..)
    | with_reducible apply Keeps.after (State.marchEnd_keeps ..)
    | with_reducible apply Keeps.after (State.each_keeps _ _ _ ?_)
    | split
    | dsimp +zetaDelta only

theorem State.startupMarch_keeps (s : State) (fails : BitVec 16) : Keeps s (s.startupMarch fails) := by
  unfold State.startupMarch
  extract_lets s1
  have h1 : Keeps s s1 := (State.setWs_keeps s [] fun _ => rfl).trans (State.modMem_keeps ..)
  split
  · exact h1
  · exact h1.trans (State.raiseDev_keeps ..)

theorem State.repairStart_keeps (s : State) (b col : Nat) : Keeps s (s.repairStart b col) := by
  unfold State.repairStart
  repeat' first
    | with_reducible apply Keeps.refl
    | intro _
    | extract_lets
    | with_reducible apply Keeps.ite
    | with_reducible apply Keeps.after (State.rwlPost_keeps ..)
    | with_reducible apply Keeps.after (State.raiseDev_keeps ..)
    | with_reducible apply Keeps.after (State.repairPost_keeps ..)
    | with_reducible apply Keeps.after (State.modMem_keeps ..)
    | with_reducible apply Keeps.after (State.request_keeps ..)
    | split
    | dsimp +zetaDelta only

theorem State.repairReads_keeps (s : State) (b col : Nat) : Keeps s (s.repairReads b col) := by
  unfold State.repairReads
  repeat' first
    | with_reducible apply Keeps.refl
    | intro _
    | extract_lets
    | with_reducible apply Keeps.ite
    | with_reducible apply Keeps.after (State.eccBank_keeps ..)
    | with_reducible apply Keeps.after (State.each_keeps _ _ _ ?_)
    | with_reducible apply Keeps.after (State.draw_keeps ..)
    | split
    | dsimp +zetaDelta only

theorem State.repairDone_keeps (s : State) : Keeps s (s.repairDone) := by
  unfold State.repairDone
  repeat' first
    | with_reducible apply Keeps.refl
    | intro _
    | extract_lets
    | with_reducible apply Keeps.ite
    | with_reducible apply Keeps.after (State.repairReads_keeps ..)
    | with_reducible apply Keeps.after (State.modMem_keeps ..)
    | with_reducible apply Keeps.after (State.repairPost_keeps ..)
    | split
    | dsimp +zetaDelta only

theorem State.stackMiss_keeps (s : State) : Keeps s (s.stackMiss) := by
  unfold State.stackMiss
  repeat' first
    | with_reducible apply Keeps.refl
    | intro _
    | extract_lets
    | with_reducible apply Keeps.ite
    | with_reducible apply Keeps.after (State.modDev_keeps ..)
    | with_reducible apply Keeps.after (State.latch_keeps ..)
    | split
    | dsimp +zetaDelta only

theorem State.bar2Load_keeps (s : State) (off n : Nat) (ecc : Ecc) : Keeps s (s.bar2Load off n ecc) := by
  unfold State.bar2Load
  repeat' first
    | with_reducible apply Keeps.refl
    | intro _
    | extract_lets
    | with_reducible apply Keeps.ite
    | with_reducible apply Keeps.after (State.emit_keeps ..)
    | with_reducible apply Keeps.after (State.stackMiss_keeps ..)
    | with_reducible apply Keeps.after (State.eccStackSeen_keeps ..)
    | split
    | dsimp +zetaDelta only

theorem State.refreshRing_keeps (s : State) (w : Nat) : Keeps s (s.refreshRing w) := by
  unfold State.refreshRing
  repeat' first
    | with_reducible apply Keeps.refl
    | intro _
    | extract_lets
    | with_reducible apply Keeps.ite
    | with_reducible apply Keeps.after (State.modSl_keeps ..)
    | split
    | dsimp +zetaDelta only

theorem State.rmwStack_keeps (s : State) (l : List (Nat × Ecc)) : Keeps s (s.rmwStack l) := by
  unfold State.rmwStack
  repeat' first
    | with_reducible apply Keeps.refl
    | intro _
    | extract_lets
    | with_reducible apply Keeps.ite
    | with_reducible apply Keeps.after (State.eccStack_keeps ..)
    | with_reducible apply Keeps.after (State.each_keeps _ _ _ ?_)
    | split
    | dsimp +zetaDelta only

theorem State.rmwBank_keeps (s : State) (l : List (Nat × Ecc)) : Keeps s (s.rmwBank l) := by
  unfold State.rmwBank
  repeat' first
    | with_reducible apply Keeps.refl
    | intro _
    | extract_lets
    | with_reducible apply Keeps.ite
    | with_reducible apply Keeps.after (State.eccBank_keeps ..)
    | with_reducible apply Keeps.after (State.each_keeps _ _ _ ?_)
    | split
    | dsimp +zetaDelta only

theorem State.pinDrop_keeps (s : State) (w a n : Nat) : Keeps s (s.pinDrop w a n).2 := by
  unfold State.pinDrop
  extract_lets p
  have h : Keeps s p.2 := by
    dsimp only [p]
    split
    · exact (State.modPl_keeps ..).trans (State.raiseCh_keeps ..)
    · exact Keeps.refl s
  split
  · exact (h.trans (State.modCp_keeps ..)).trans (State.raiseCh_keeps ..)
  · exact h

theorem pinDrops_keeps (a n : Nat) (l : List Nat) (s : State) (b : Bool) :
    Keeps s (l.foldl (fun (p : Bool × State) w => let q := p.2.pinDrop w a n; (p.1 || q.1, q.2)) (b, s)).2 := by
  induction l generalizing s b with
  | nil => exact Keeps.refl s
  | cons w r ih => exact (State.pinDrop_keeps s w a n).trans (ih _ _)

theorem State.bar2Store_keeps (s : State) (base off : Nat) (data : List Byte) (ecc : PartReads) : Keeps s (s.bar2Store base off data ecc) := by
  unfold State.bar2Store
  extract_lets n a shut s1 p l
  split
  · exact State.stackMiss_keeps ..
  · have h1 : Keeps s s1 := by
      dsimp only [s1]
      split
      · exact State.raiseDev_keeps ..
      · exact Keeps.refl s
    have h2 : Keeps s p.2 := h1.trans (pinDrops_keeps ..)
    have h3 : Keeps s ((s.setStack (Memory.store s.stackMem a data)).each (pinsTouched a n) fun s w => s.refreshRing w) :=
      (State.setStack_store_keeps ..).trans (State.each_keeps _ _ _ fun _ _ => State.refreshRing_keeps ..)
    split
    · exact h2
    · exact Keeps.ite (State.rmwStack_keeps ..) (h3.trans (State.rmwStack_keeps ..))

theorem State.bar2Arrive_keeps (s : State) (off : Nat) (data : List Byte) (ecc : PartReads) : Keeps s (s.bar2Arrive off data ecc) :=
  Keeps.ite (Keeps.refl s) (State.hostHeldWrite_keeps _ _ _ _ (State.bar2Store_keeps ..))

theorem State.collide_keeps (s : State) (o : Nat) (wr lost : Bool) (m busy : Nat) : Keeps s (s.collide o wr lost m busy) :=
  (State.modMem_keeps ..).trans (State.raiseDev_keeps ..)

theorem State.bar4Load_keeps (s : State) (o n : Nat) (ecc : Ecc) (other : Option Meet) : Keeps s (s.bar4Load o n ecc other) := by
  unfold State.bar4Load
  repeat' first
    | with_reducible apply Keeps.refl
    | intro _
    | extract_lets
    | with_reducible apply Keeps.ite
    | with_reducible apply Keeps.after (State.emit_keeps ..)
    | with_reducible apply Keeps.after (State.touchBank_keeps ..)
    | with_reducible apply Keeps.after (State.collide_keeps ..)
    | with_reducible apply Keeps.after (State.eccBankSeen_keeps ..)
    | with_reducible apply Keeps.after (State.draw_keeps ..)
    | split
    | dsimp +zetaDelta only

theorem State.writeMeets_keeps (s : State) (o n : Nat) (other : Option Meet) : Keeps s (s.writeMeets o n other) := by
  unfold State.writeMeets
  repeat' first
    | with_reducible apply Keeps.refl
    | intro _
    | extract_lets
    | with_reducible apply Keeps.ite
    | with_reducible apply Keeps.after (State.collide_keeps ..)
    | with_reducible apply Keeps.after (State.setWs_store_keeps ..)
    | split
    | dsimp +zetaDelta only

theorem State.bar4Store_keeps (s : State) (o : Nat) (data : List Byte) (found : PortReads) : Keeps s (s.bar4Store o data found) := by
  unfold State.bar4Store
  repeat' first
    | with_reducible apply Keeps.refl
    | intro _
    | extract_lets
    | with_reducible apply Keeps.ite
    | with_reducible apply Keeps.after (State.touchBank_keeps ..)
    | with_reducible apply Keeps.after (State.raiseDev_keeps ..)
    | with_reducible apply Keeps.after (State.rmwBank_keeps ..)
    | with_reducible apply Keeps.after (State.writeMeets_keeps ..)
    | with_reducible apply Keeps.after (State.setWs_store_keeps ..)
    | split
    | dsimp +zetaDelta only

theorem State.writeScrubCfg_keeps (s : State) (v : Nat) : Keeps s (s.writeScrubCfg v) := by
  unfold State.writeScrubCfg
  repeat' first
    | with_reducible apply Keeps.refl
    | intro _
    | extract_lets
    | with_reducible apply Keeps.ite
    | with_reducible apply Keeps.after (State.setReg_keeps ..)
    | split
    | dsimp +zetaDelta only

theorem State.secSignal_keeps (s : State) (b : Nat) : Keeps s (s.secSignal b) := by
  unfold State.secSignal
  repeat' first
    | with_reducible apply Keeps.refl
    | intro _
    | extract_lets
    | with_reducible apply Keeps.ite
    | with_reducible apply Keeps.after (State.latch_keeps ..)
    | with_reducible apply Keeps.after (State.signal_keeps ..)
    | split
    | dsimp +zetaDelta only

theorem State.startWipe_keeps (s : State) : Keeps s (s.startWipe) := by
  unfold State.startWipe
  repeat' first
    | with_reducible apply Keeps.refl
    | intro _
    | extract_lets
    | with_reducible apply Keeps.ite
    | with_reducible apply Keeps.after (State.modSec_keeps ..)
    | with_reducible apply Keeps.after (State.parse_keeps ..)
    | with_reducible apply Keeps.after (State.each_keeps _ _ _ ?_)
    | with_reducible apply Keeps.after (State.setWs_zero_keeps ..)
    | split
    | dsimp +zetaDelta only

theorem State.endWipe_keeps (s : State) : Keeps s (s.endWipe) := by
  unfold State.endWipe
  repeat' first
    | with_reducible apply Keeps.refl
    | intro _
    | extract_lets
    | with_reducible apply Keeps.ite
    | with_reducible apply Keeps.after (State.modSec_keeps ..)
    | with_reducible apply Keeps.after (State.setWs_zero_keeps ..)
    | split
    | dsimp +zetaDelta only

theorem State.tamper_keeps (s : State) (i : Nat) : Keeps s (s.tamper i) := by
  unfold State.tamper
  repeat' first
    | with_reducible apply Keeps.refl
    | intro _
    | extract_lets
    | with_reducible apply Keeps.ite
    | with_reducible apply Keeps.after (State.raiseAt_keeps ..)
    | with_reducible apply Keeps.after (State.modSec_keeps ..)
    | with_reducible apply Keeps.after (State.startWipe_keeps ..)
    | with_reducible apply Keeps.after (State.modKeep_keeps _ _ (by first | rfl | simp))
    | split
    | dsimp +zetaDelta only

theorem State.eraseGranules_keeps (s : State) (pin : Option Nat) : Keeps s (s.eraseGranules pin) := by
  unfold State.eraseGranules
  repeat' first
    | with_reducible apply Keeps.refl
    | intro _
    | extract_lets
    | with_reducible apply Keeps.ite
    | with_reducible apply Keeps.after (State.modMem_keeps ..)
    | with_reducible apply Keeps.after (State.modSec_keeps ..)
    | with_reducible apply Keeps.after (State.each_keeps _ _ _ ?_)
    | with_reducible apply Keeps.after (State.setStack_zero_keeps ..)
    | split
    | dsimp +zetaDelta only

theorem State.erasePost_keeps (s : State) (outcome reason : Nat) : Keeps s (s.erasePost outcome reason) := by
  unfold State.erasePost
  repeat' first
    | with_reducible apply Keeps.refl
    | intro _
    | extract_lets
    | with_reducible apply Keeps.ite
    | with_reducible apply Keeps.after (State.modSec_keeps ..)
    | with_reducible apply Keeps.after (State.bumpSeq_keeps ..)
    | split
    | dsimp +zetaDelta only

theorem State.eraseBegin_keeps (s : State) (pin : Option Nat) : Keeps s (s.eraseBegin pin) := by
  unfold State.eraseBegin
  repeat' first
    | with_reducible apply Keeps.refl
    | intro _
    | extract_lets
    | with_reducible apply Keeps.ite
    | with_reducible apply Keeps.after (State.modSec_keeps ..)
    | split
    | dsimp +zetaDelta only

theorem State.eraseStart_keeps (s : State) (pin : Option Nat) : Keeps s (s.eraseStart pin) := by
  unfold State.eraseStart
  repeat' first
    | with_reducible apply Keeps.refl
    | intro _
    | extract_lets
    | with_reducible apply Keeps.ite
    | with_reducible apply Keeps.after (State.erasePost_keeps ..)
    | with_reducible apply Keeps.after (State.eraseBegin_keeps ..)
    | split
    | dsimp +zetaDelta only

theorem State.eraseEnd_keeps (s : State) : Keeps s (s.eraseEnd) := by
  unfold State.eraseEnd
  repeat' first
    | with_reducible apply Keeps.refl
    | intro _
    | extract_lets
    | with_reducible apply Keeps.ite
    | with_reducible apply Keeps.after (State.eraseGranules_keeps ..)
    | with_reducible apply Keeps.after (State.modSec_keeps ..)
    | with_reducible apply Keeps.after (State.erasePost_keeps ..)
    | with_reducible apply Keeps.after (State.secSignal_keeps ..)
    | split
    | dsimp +zetaDelta only

theorem State.lcPost_keeps (s : State) (outcome reason : Nat) : Keeps s (s.lcPost outcome reason) := by
  unfold State.lcPost
  repeat' first
    | with_reducible apply Keeps.refl
    | intro _
    | extract_lets
    | with_reducible apply Keeps.ite
    | with_reducible apply Keeps.after (State.modSec_keeps ..)
    | with_reducible apply Keeps.after (State.bumpSeq_keeps ..)
    | split
    | dsimp +zetaDelta only

theorem State.lcRequest_keeps (s : State) (target confirm : Nat) : Keeps s (s.lcRequest target confirm) := by
  unfold State.lcRequest
  repeat' first
    | with_reducible apply Keeps.refl
    | intro _
    | extract_lets
    | with_reducible apply Keeps.ite
    | with_reducible apply Keeps.after (State.rwlPost_keeps ..)
    | with_reducible apply Keeps.after (State.raiseDev_keeps ..)
    | with_reducible apply Keeps.after (State.lcPost_keeps ..)
    | with_reducible apply Keeps.after (State.modSec_keeps ..)
    | with_reducible apply Keeps.after (State.startWipe_keeps ..)
    | with_reducible apply Keeps.after (State.eraseBegin_keeps ..)
    | with_reducible apply Keeps.after (State.modKeep_keeps _ _ (by first | rfl | simp))
    | split
    | dsimp +zetaDelta only

theorem State.destroyKek_keeps (s : State) : Keeps s (s.destroyKek) := by
  unfold State.destroyKek
  repeat' first
    | with_reducible apply Keeps.refl
    | intro _
    | extract_lets
    | with_reducible apply Keeps.ite
    | with_reducible apply Keeps.after (State.modKeep_keeps _ _ (by first | rfl | simp))
    | split
    | dsimp +zetaDelta only

theorem State.emptySlots_keeps (s : State) : Keeps s (s.emptySlots) := by
  unfold State.emptySlots
  repeat' first
    | with_reducible apply Keeps.refl
    | intro _
    | extract_lets
    | with_reducible apply Keeps.ite
    | with_reducible apply Keeps.after (State.modSec_keeps ..)
    | with_reducible apply Keeps.after (State.setWs_zero_keeps ..)
    | split
    | dsimp +zetaDelta only

theorem State.lcDone_keeps (s : State) (appendOk : Bool) : Keeps s (s.lcDone appendOk) := by
  unfold State.lcDone
  split
  · exact Keeps.refl s
  · extract_lets s1 s2 p s3
    have h1 : Keeps s s1 := State.endWipe_keeps ..
    have h2 : Keeps s1 s2 := by
      dsimp only [s2]
      split
      · exact ((State.eraseEnd_keeps ..).trans (State.destroyKek_keeps ..)).trans (State.emptySlots_keeps ..)
      · exact Keeps.refl s1
    have h3 : Keeps s s3 := ((h1.trans h2).trans (State.program_keeps ..)).trans (State.modSec_keeps ..)
    split
    · exact Keeps.refl s
    · split
      · exact h3.trans ((((State.modSec_keeps ..).trans (State.lcPost_keeps ..)).trans (State.rwlPost_keeps ..)).trans (State.raiseDev_keeps ..))
      · exact h3.trans ((State.lcPost_keeps ..).trans (State.rwlPost_keeps ..))

theorem State.keyPost_keeps (s : State) (slot outcome reason : Nat) : Keeps s (s.keyPost slot outcome reason) := by
  unfold State.keyPost
  repeat' first
    | with_reducible apply Keeps.refl
    | intro _
    | extract_lets
    | with_reducible apply Keeps.ite
    | with_reducible apply Keeps.after (State.modSec_keeps ..)
    | with_reducible apply Keeps.after (State.bumpSeq_keeps ..)
    | with_reducible apply Keeps.after (State.secSignal_keeps ..)
    | split
    | dsimp +zetaDelta only

theorem State.keyCmd_keeps (s : State) (op slot : Nat) : Keeps s (s.keyCmd op slot) := by
  unfold State.keyCmd
  repeat' first
    | with_reducible apply Keeps.refl
    | intro _
    | extract_lets
    | with_reducible apply Keeps.ite
    | with_reducible apply Keeps.after (State.keyPost_keeps ..)
    | with_reducible apply Keeps.after (State.modSec_keeps ..)
    | split
    | dsimp +zetaDelta only

theorem State.putKey_keeps (s : State) (slot : Nat) (key : Option (BitVec 256)) : Keeps s (s.putKey slot key) := by
  unfold State.putKey
  repeat' first
    | with_reducible apply Keeps.refl
    | intro _
    | extract_lets
    | with_reducible apply Keeps.ite
    | with_reducible apply Keeps.after (State.modSec_keeps ..)
    | with_reducible apply Keeps.after (State.setWs_store_keeps ..)
    | split
    | dsimp +zetaDelta only

theorem State.keyEnd_keeps (s : State) : Keeps s (s.keyEnd) := by
  unfold State.keyEnd
  repeat' first
    | with_reducible apply Keeps.refl
    | intro _
    | extract_lets
    | with_reducible apply Keeps.ite
    | with_reducible apply Keeps.after (State.modSec_keeps ..)
    | with_reducible apply Keeps.after (State.keyPost_keeps ..)
    | with_reducible apply Keeps.after (State.putKey_keeps ..)
    | split
    | dsimp +zetaDelta only

theorem State.storeWord_keeps (s : State) (v : Word) : Keeps s (s.storeWord v) := by
  unfold State.storeWord
  repeat' first
    | with_reducible apply Keeps.refl
    | intro _
    | extract_lets
    | with_reducible apply Keeps.ite
    | with_reducible apply Keeps.after (State.setReg_keeps ..)
    | with_reducible apply Keeps.after (State.setWs_store_keeps ..)
    | split
    | dsimp +zetaDelta only

theorem State.writeKek_keeps (s : State) (w v : Nat) : Keeps s (s.writeKek w v) := by
  unfold State.writeKek
  repeat' first
    | with_reducible apply Keeps.refl
    | intro _
    | extract_lets
    | with_reducible apply Keeps.ite
    | with_reducible apply Keeps.after (State.modSec_keeps ..)
    | split
    | dsimp +zetaDelta only

theorem State.writeKeyData_keeps (s : State) (w v : Nat) : Keeps s (s.writeKeyData w v) := by
  unfold State.writeKeyData
  repeat' first
    | with_reducible apply Keeps.refl
    | intro _
    | extract_lets
    | with_reducible apply Keeps.ite
    | with_reducible apply Keeps.after (State.modSec_keeps ..)
    | split
    | dsimp +zetaDelta only

end Sys2Proof.Machine
end

