-- ==== Sys2Proof/Laws/KeepsHost.lean ====
section
/-!
SUPPORT. Sys2Proof/Laws/KeepsHost.lean: `Keeps` for the host port, the chassis and electrical events.
-/

set_option linter.unusedTactic false
set_option linter.unreachableTactic false

namespace Sys2Proof.Machine

theorem State.linkTrain_keeps (s : State) (gen width : Nat) (flit : Bool) (clocking : Clocking) : Keeps s (s.linkTrain gen width flit clocking) := by
  unfold State.linkTrain
  repeat' first
    | with_reducible apply Keeps.refl
    | intro _
    | extract_lets
    | with_reducible apply Keeps.ite
    | with_reducible apply Keeps.after (State.modHost_keeps ..)
    | with_reducible apply Keeps.after (State.endCond_keeps ..)
    | with_reducible apply Keeps.after (State.flushVecs_keeps ..)
    | with_reducible apply Keeps.after (State.raiseDev_keeps ..)
    | split
    | dsimp +zetaDelta only

theorem State.resetConfig_keeps (s : State) : Keeps s (s.resetConfig) := by
  unfold State.resetConfig
  repeat' first
    | with_reducible apply Keeps.refl
    | intro _
    | extract_lets
    | with_reducible apply Keeps.ite
    | with_reducible apply Keeps.after (State.modHost_keeps ..)
    | with_reducible apply Keeps.after (State.sinceAll_keeps ..)
    | split
    | dsimp +zetaDelta only

theorem State.linkLose_keeps (s : State) : Keeps s (s.linkLose) := by
  unfold State.linkLose
  repeat' first
    | with_reducible apply Keeps.refl
    | intro _
    | extract_lets
    | with_reducible apply Keeps.ite
    | with_reducible apply Keeps.after (State.resetConfig_keeps ..)
    | with_reducible apply Keeps.after (State.modHost_keeps ..)
    | with_reducible apply Keeps.after (State.endCond_keeps ..)
    | with_reducible apply Keeps.after (State.raiseDev_keeps ..)
    | split
    | dsimp +zetaDelta only

theorem State.linkRetrained_keeps (s : State) : Keeps s (s.linkRetrained) := by
  unfold State.linkRetrained
  repeat' first
    | with_reducible apply Keeps.refl
    | intro _
    | extract_lets
    | with_reducible apply Keeps.ite
    | with_reducible apply Keeps.after (State.modHost_keeps ..)
    | with_reducible apply Keeps.after (State.raiseDev_keeps ..)
    | split
    | dsimp +zetaDelta only

theorem State.d3_keeps (s : State) : Keeps s (s.d3) := by
  unfold State.d3
  repeat' first
    | with_reducible apply Keeps.refl
    | intro _
    | extract_lets
    | with_reducible apply Keeps.ite
    | with_reducible apply Keeps.after (State.modHost_keeps ..)
    | split
    | dsimp +zetaDelta only

theorem State.d0_keeps (s : State) : Keeps s (s.d0) := by
  unfold State.d0
  repeat' first
    | with_reducible apply Keeps.refl
    | intro _
    | extract_lets
    | with_reducible apply Keeps.ite
    | with_reducible apply Keeps.after (State.modHost_keeps ..)
    | with_reducible apply Keeps.after (State.flushVecs_keeps ..)
    | split
    | dsimp +zetaDelta only

theorem State.bar2Size_keeps (s : State) (k : Nat) : Keeps s (s.bar2Size k) := by
  unfold State.bar2Size
  repeat' first
    | with_reducible apply Keeps.refl
    | intro _
    | extract_lets
    | with_reducible apply Keeps.ite
    | with_reducible apply Keeps.after (State.modHost_keeps ..)
    | with_reducible apply Keeps.after (State.setReg_keeps ..)
    | split
    | dsimp +zetaDelta only

theorem State.configTakes_keeps (s : State) (reg : Nat) (v : BitVec 32) : Keeps s (s.configTakes reg v) := by
  unfold State.configTakes
  repeat' first
    | with_reducible apply Keeps.refl
    | intro _
    | extract_lets
    | with_reducible apply Keeps.ite
    | with_reducible apply Keeps.after (State.modHost_keeps ..)
    | with_reducible apply Keeps.after (State.d3_keeps ..)
    | with_reducible apply Keeps.after (State.d0_keeps ..)
    | with_reducible apply Keeps.after (State.bar2Size_keeps ..)
    | with_reducible apply Keeps.after (State.sinceAll_keeps ..)
    | with_reducible apply Keeps.after (State.flushVecs_keeps ..)
    | split
    | dsimp +zetaDelta only

theorem State.config_keeps (s : State) (wr : Bool) (reg : Nat) (v : BitVec 32) : Keeps s (s.config wr reg v) := by
  unfold State.config
  repeat' first
    | with_reducible apply Keeps.refl
    | intro _
    | extract_lets
    | with_reducible apply Keeps.ite
    | with_reducible apply Keeps.after (State.emit_keeps ..)
    | with_reducible apply Keeps.after (State.configTakes_keeps ..)
    | split
    | dsimp +zetaDelta only

theorem State.writeBar2Win_keeps (s : State) (v : Nat) : Keeps s (s.writeBar2Win v) := by
  unfold State.writeBar2Win
  repeat' first
    | with_reducible apply Keeps.refl
    | intro _
    | extract_lets
    | with_reducible apply Keeps.ite
    | with_reducible apply Keeps.after (State.bar2Size_keeps ..)
    | with_reducible apply Keeps.after (State.setReg_keeps ..)
    | with_reducible apply Keeps.after (State.modHost_keeps ..)
    | split
    | dsimp +zetaDelta only

theorem State.gapEnd_keeps (s : State) (v : Nat) : Keeps s (s.gapEnd v) := by
  unfold State.gapEnd
  repeat' first
    | with_reducible apply Keeps.refl
    | intro _
    | extract_lets
    | with_reducible apply Keeps.ite
    | with_reducible apply Keeps.after (State.modHost_keeps ..)
    | with_reducible apply Keeps.after (State.signalVec_keeps ..)
    | split
    | dsimp +zetaDelta only

theorem State.maskedPend_keeps (s : State) (v : Nat) : Keeps s (s.maskedPend v) := by
  unfold State.maskedPend
  repeat' first
    | with_reducible apply Keeps.refl
    | intro _
    | extract_lets
    | with_reducible apply Keeps.ite
    | with_reducible apply Keeps.after (State.modHost_keeps ..)
    | with_reducible apply Keeps.after (State.raiseDev_keeps ..)
    | split
    | dsimp +zetaDelta only

theorem State.writeTrapAddr_keeps (s : State) (v : Nat) : Keeps s (s.writeTrapAddr v) := by
  unfold State.writeTrapAddr
  repeat' first
    | with_reducible apply Keeps.refl
    | intro _
    | extract_lets
    | with_reducible apply Keeps.ite
    | with_reducible apply Keeps.after (State.modHost_keeps ..)
    | with_reducible apply Keeps.after (State.setReg_keeps ..)
    | split
    | dsimp +zetaDelta only

theorem State.writeMsix_keeps (s : State) (off : Nat) (v : BitVec 32) : Keeps s (s.writeMsix off v) := by
  unfold State.writeMsix
  repeat' first
    | with_reducible apply Keeps.refl
    | intro _
    | extract_lets
    | with_reducible apply Keeps.ite
    | with_reducible apply Keeps.after (State.modHost_keeps ..)
    | with_reducible apply Keeps.after (State.sinceVec_keeps ..)
    | with_reducible apply Keeps.after (State.unmaskVec_keeps ..)
    | split
    | dsimp +zetaDelta only

theorem State.easeContention_keeps (s : State) (line : Nat) : Keeps s (s.easeContention line) := by
  unfold State.easeContention
  repeat' first
    | with_reducible apply Keeps.refl
    | intro _
    | extract_lets
    | with_reducible apply Keeps.ite
    | with_reducible apply Keeps.after (State.modSyn_keeps ..)
    | split
    | dsimp +zetaDelta only

theorem State.contention_keeps (s : State) (line : Nat) : Keeps s (s.contention line) := by
  unfold State.contention
  repeat' first
    | with_reducible apply Keeps.refl
    | intro _
    | extract_lets
    | with_reducible apply Keeps.ite
    | with_reducible apply Keeps.after (State.modSyn_keeps ..)
    | with_reducible apply Keeps.after (State.raiseDev_keeps ..)
    | split
    | dsimp +zetaDelta only

theorem State.writeTrigCfg_keeps (s : State) (line v : Nat) : Keeps s (s.writeTrigCfg line v) := by
  unfold State.writeTrigCfg
  repeat' first
    | with_reducible apply Keeps.refl
    | intro _
    | extract_lets
    | with_reducible apply Keeps.ite
    | with_reducible apply Keeps.after (State.modSyn_keeps ..)
    | with_reducible apply Keeps.after (State.setReg_keeps ..)
    | with_reducible apply Keeps.after (State.easeContention_keeps ..)
    | split
    | dsimp +zetaDelta only

theorem State.hostPulse_keeps (s : State) (line width : Nat) : Keeps s (s.hostPulse line width) := by
  unfold State.hostPulse
  repeat' first
    | with_reducible apply Keeps.refl
    | intro _
    | extract_lets
    | with_reducible apply Keeps.ite
    | with_reducible apply Keeps.after (State.modSyn_keeps ..)
    | split
    | dsimp +zetaDelta only

theorem State.routedStop_keeps (s : State) (w te : Nat) : Keeps s (s.routedStop w te) := by
  unfold State.routedStop
  repeat' first
    | with_reducible apply Keeps.refl
    | intro _
    | extract_lets
    | with_reducible apply Keeps.ite
    | with_reducible apply Keeps.after (State.modeRefuse_keeps ..)
    | with_reducible apply Keeps.after (State.arriveFirst_keeps ..)
    | with_reducible apply Keeps.after (State.cmdStop_keeps ..)
    | split
    | dsimp +zetaDelta only

theorem State.deliverStops_keeps (s : State) : Keeps s (s.deliverStops) := by
  unfold State.deliverStops
  repeat' first
    | with_reducible apply Keeps.refl
    | intro _
    | extract_lets
    | with_reducible apply Keeps.ite
    | with_reducible apply Keeps.after (State.linkDue_keeps ..)
    | with_reducible apply Keeps.after (State.modSyn_keeps ..)
    | with_reducible apply Keeps.after (State.routedStop_keeps ..)
    | with_reducible apply Keeps.after (State.each_keeps _ _ _ ?_)
    | split
    | dsimp +zetaDelta only

theorem State.edgeTo_keeps (s : State) (src line : Nat) (rising : Bool) (g : Nat) : Keeps s (s.edgeTo src line rising g) := by
  unfold State.edgeTo
  repeat' first
    | with_reducible apply Keeps.refl
    | intro _
    | extract_lets
    | with_reducible apply Keeps.ite
    | with_reducible apply Keeps.after (State.modSyn_keeps ..)
    | with_reducible apply Keeps.after (State.linkDue_keeps ..)
    | with_reducible apply Keeps.after (foldl_keeps _ _ _ ?_)
    | split
    | dsimp +zetaDelta only

theorem State.trigEdge_keeps (s : State) (line : Nat) (rising accepted : Bool) : Keeps s (s.trigEdge line rising accepted) := by
  unfold State.trigEdge
  repeat' first
    | with_reducible apply Keeps.refl
    | intro _
    | extract_lets
    | with_reducible apply Keeps.ite
    | with_reducible apply Keeps.after (State.modSyn_keeps ..)
    | with_reducible apply Keeps.after (State.easeContention_keeps ..)
    | with_reducible apply Keeps.after (State.jumpRequest_keeps ..)
    | with_reducible apply Keeps.after (State.engOccur_keeps ..)
    | with_reducible apply Keeps.after (State.edgeTo_keeps ..)
    | with_reducible apply Keeps.after (State.each_keeps _ _ _ ?_)
    | split
    | dsimp +zetaDelta only

theorem State.starEdge_keeps (s : State) (rising : Bool) : Keeps s (s.starEdge rising) := by
  unfold State.starEdge
  repeat' first
    | with_reducible apply Keeps.refl
    | intro _
    | extract_lets
    | with_reducible apply Keeps.ite
    | with_reducible apply Keeps.after (State.modSyn_keeps ..)
    | with_reducible apply Keeps.after (State.edgeTo_keeps ..)
    | split
    | dsimp +zetaDelta only

theorem State.loseStar_keeps (s : State) : Keeps s (s.loseStar) := by
  unfold State.loseStar
  repeat' first
    | with_reducible apply Keeps.refl
    | intro _
    | extract_lets
    | with_reducible apply Keeps.ite
    | with_reducible apply Keeps.after (State.modSyn_keeps ..)
    | with_reducible apply Keeps.after (State.raiseDev_keeps ..)
    | split
    | dsimp +zetaDelta only

theorem State.endStarOut_keeps (s : State) : Keeps s (s.endStarOut) := by
  unfold State.endStarOut
  repeat' first
    | with_reducible apply Keeps.refl
    | intro _
    | extract_lets
    | with_reducible apply Keeps.ite
    | with_reducible apply Keeps.after (State.modSyn_keeps ..)
    | split
    | dsimp +zetaDelta only

theorem State.linkValue_keeps (s : State) (kind i : Nat) (v own : Bool) (at_ : Nat) : Keeps s (s.linkValue kind i v own at_) := by
  unfold State.linkValue
  repeat' first
    | with_reducible apply Keeps.refl
    | intro _
    | extract_lets
    | with_reducible apply Keeps.ite
    | with_reducible apply Keeps.after (State.modSyn_keeps ..)
    | split
    | dsimp +zetaDelta only

theorem State.sampleOwn_keeps (s : State) : Keeps s (s.sampleOwn) := by
  unfold State.sampleOwn
  repeat' first
    | with_reducible apply Keeps.refl
    | intro _
    | extract_lets
    | with_reducible apply Keeps.ite
    | with_reducible apply Keeps.after (State.linkValue_keeps ..)
    | with_reducible apply Keeps.after (State.each_keeps _ _ _ ?_)
    | split
    | dsimp +zetaDelta only

theorem State.takeFields_keeps (s : State) (rx : Nat) (f : BitVec 80) : Keeps s (s.takeFields rx f) := by
  unfold State.takeFields
  repeat' first
    | with_reducible apply Keeps.refl
    | intro _
    | extract_lets
    | with_reducible apply Keeps.ite
    | with_reducible apply Keeps.after (State.linkValue_keeps ..)
    | with_reducible apply Keeps.after (State.each_keeps _ _ _ ?_)
    | split
    | dsimp +zetaDelta only

theorem State.countFrame_keeps (s : State) (tx n : Nat) : Keeps s (s.countFrame tx n) := by
  unfold State.countFrame
  repeat' first
    | with_reducible apply Keeps.refl
    | intro _
    | extract_lets
    | with_reducible apply Keeps.ite
    | with_reducible apply Keeps.after (State.modSyn_keeps ..)
    | split
    | dsimp +zetaDelta only

theorem State.markSlot_keeps (s : State) (tx : Nat) : Keeps s (s.markSlot tx) := by
  unfold State.markSlot
  repeat' first
    | with_reducible apply Keeps.refl
    | intro _
    | extract_lets
    | with_reducible apply Keeps.ite
    | with_reducible apply Keeps.after (State.modSyn_keeps ..)
    | split
    | dsimp +zetaDelta only

theorem State.sendFrame_keeps (s : State) (tx : Nat) (f : BitVec 80) : Keeps s (s.sendFrame tx f) := by
  unfold State.sendFrame
  repeat' first
    | with_reducible apply Keeps.refl
    | intro _
    | extract_lets
    | with_reducible apply Keeps.ite
    | with_reducible apply Keeps.after (State.modSyn_keeps ..)
    | with_reducible apply Keeps.after (State.emit_keeps ..)
    | split
    | dsimp +zetaDelta only

theorem State.frameSlot_keeps (s : State) (tx : Nat) : Keeps s (s.frameSlot tx) := by
  unfold State.frameSlot
  repeat' first
    | with_reducible apply Keeps.refl
    | intro _
    | extract_lets
    | with_reducible apply Keeps.ite
    | with_reducible apply Keeps.after (State.linkDue_keeps ..)
    | with_reducible apply Keeps.after (State.markSlot_keeps ..)
    | with_reducible apply Keeps.after (State.sampleOwn_keeps ..)
    | with_reducible apply Keeps.after (State.countFrame_keeps ..)
    | with_reducible apply Keeps.after (State.sendFrame_keeps ..)
    | with_reducible apply Keeps.after (State.modSyn_keeps ..)
    | split
    | dsimp +zetaDelta only

theorem State.badFrame_keeps (s : State) : Keeps s (s.badFrame) := by
  unfold State.badFrame
  repeat' first
    | with_reducible apply Keeps.refl
    | intro _
    | extract_lets
    | with_reducible apply Keeps.ite
    | with_reducible apply Keeps.after (State.modSyn_keeps ..)
    | with_reducible apply Keeps.after (State.raiseDev_keeps ..)
    | split
    | dsimp +zetaDelta only

theorem State.forward_keeps (s : State) (rx : Nat) (f : BitVec 80) : Keeps s (s.forward rx f) := by
  unfold State.forward
  repeat' first
    | with_reducible apply Keeps.refl
    | intro _
    | extract_lets
    | with_reducible apply Keeps.ite
    | with_reducible apply Keeps.after (State.modSyn_keeps ..)
    | split
    | dsimp +zetaDelta only

theorem State.linkEvent_keeps (s : State) (kind idx val g : Nat) : Keeps s (s.linkEvent kind idx val g) := by
  unfold State.linkEvent
  repeat' first
    | with_reducible apply Keeps.refl
    | intro _
    | extract_lets
    | with_reducible apply Keeps.ite
    | with_reducible apply Keeps.after (State.modSyn_keeps ..)
    | split
    | dsimp +zetaDelta only

theorem State.compareTime_keeps (s : State) (rx t0 : Nat) (pair : Bool) : Keeps s (s.compareTime rx t0 pair) := by
  unfold State.compareTime
  repeat' first
    | with_reducible apply Keeps.refl
    | intro _
    | extract_lets
    | with_reducible apply Keeps.ite
    | with_reducible apply Keeps.after (State.modSyn_keeps ..)
    | split
    | dsimp +zetaDelta only

theorem State.noteFrame_keeps (s : State) (rx : Nat) (ok : Bool) : Keeps s (s.noteFrame rx ok) := by
  unfold State.noteFrame
  repeat' first
    | with_reducible apply Keeps.refl
    | intro _
    | extract_lets
    | with_reducible apply Keeps.ite
    | with_reducible apply Keeps.after (State.modSyn_keeps ..)
    | split
    | dsimp +zetaDelta only

theorem State.receive_keeps (s : State) (rx : Nat) (f : BitVec 80) : Keeps s (s.receive rx f) := by
  unfold State.receive
  repeat' first
    | with_reducible apply Keeps.refl
    | intro _
    | extract_lets
    | with_reducible apply Keeps.ite
    | with_reducible apply Keeps.after (State.linkDue_keeps ..)
    | with_reducible apply Keeps.after (State.noteFrame_keeps ..)
    | with_reducible apply Keeps.after (State.badFrame_keeps ..)
    | with_reducible apply Keeps.after (State.takeFields_keeps ..)
    | with_reducible apply Keeps.after (State.forward_keeps ..)
    | with_reducible apply Keeps.after (State.modSyn_keeps ..)
    | with_reducible apply Keeps.after (State.compareTime_keeps ..)
    | with_reducible apply Keeps.after (State.linkEvent_keeps ..)
    | split
    | dsimp +zetaDelta only

theorem State.deliver_keeps (s : State) (n : Nat) : Keeps s (s.deliver n) := by
  unfold State.deliver
  repeat' first
    | with_reducible apply Keeps.refl
    | intro _
    | extract_lets
    | with_reducible apply Keeps.ite
    | with_reducible apply Keeps.after (State.linkDue_keeps ..)
    | with_reducible apply Keeps.after (State.modSyn_keeps ..)
    | with_reducible apply Keeps.after (State.startItem_keeps ..)
    | with_reducible apply Keeps.after (State.acceptStopEvent_keeps ..)
    | with_reducible apply Keeps.after (State.jumpPins_keeps ..)
    | with_reducible apply Keeps.after (State.routesTake_keeps ..)
    | split
    | dsimp +zetaDelta only

theorem State.routesInit_keeps (s : State) : Keeps s (s.routesInit) := by
  unfold State.routesInit
  repeat' first
    | with_reducible apply Keeps.refl
    | intro _
    | extract_lets
    | with_reducible apply Keeps.ite
    | with_reducible apply Keeps.after (State.modFb_keeps ..)
    | with_reducible apply Keeps.after (State.each_keeps _ _ _ ?_)
    | split
    | dsimp +zetaDelta only

theorem State.linkDown_keeps (s : State) : Keeps s (s.linkDown) := by
  unfold State.linkDown
  repeat' first
    | with_reducible apply Keeps.refl
    | intro _
    | extract_lets
    | with_reducible apply Keeps.ite
    | with_reducible apply Keeps.after (State.modSyn_keeps ..)
    | with_reducible apply Keeps.after (State.routesInit_keeps ..)
    | split
    | dsimp +zetaDelta only

theorem State.linkLost_keeps (s : State) : Keeps s (s.linkLost) := by
  unfold State.linkLost
  repeat' first
    | with_reducible apply Keeps.refl
    | intro _
    | extract_lets
    | with_reducible apply Keeps.ite
    | with_reducible apply Keeps.after (State.raiseDev_keeps ..)
    | split
    | dsimp +zetaDelta only

theorem State.lockRx_keeps (s : State) (rx : Nat) : Keeps s (s.lockRx rx) := by
  unfold State.lockRx
  repeat' first
    | with_reducible apply Keeps.refl
    | intro _
    | extract_lets
    | with_reducible apply Keeps.ite
    | with_reducible apply Keeps.after (State.linkDue_keeps ..)
    | with_reducible apply Keeps.after (State.modSyn_keeps ..)
    | with_reducible apply Keeps.after (State.endCond_keeps ..)
    | with_reducible apply Keeps.after (State.bumpSeq_keeps ..)
    | split
    | dsimp +zetaDelta only

theorem State.dropRx_keeps (s : State) (rx : Nat) : Keeps s (s.dropRx rx) := by
  unfold State.dropRx
  repeat' first
    | with_reducible apply Keeps.refl
    | intro _
    | extract_lets
    | with_reducible apply Keeps.ite
    | with_reducible apply Keeps.after (State.modSyn_keeps ..)
    | with_reducible apply Keeps.after (State.raiseDev_keeps ..)
    | with_reducible apply Keeps.after (State.linkDown_keeps ..)
    | split
    | dsimp +zetaDelta only

theorem State.loseRx_keeps (s : State) (rx : Nat) : Keeps s (s.loseRx rx) := by
  unfold State.loseRx
  repeat' first
    | with_reducible apply Keeps.refl
    | intro _
    | extract_lets
    | with_reducible apply Keeps.ite
    | with_reducible apply Keeps.after (State.linkDue_keeps ..)
    | with_reducible apply Keeps.after (State.dropRx_keeps ..)
    | split
    | dsimp +zetaDelta only

theorem State.nywPost_keeps (s : State) (outcome reason : Nat) : Keeps s (s.nywPost outcome reason) := by
  unfold State.nywPost
  repeat' first
    | with_reducible apply Keeps.refl
    | intro _
    | extract_lets
    | with_reducible apply Keeps.ite
    | with_reducible apply Keeps.after (State.modSyn_keeps ..)
    | with_reducible apply Keeps.after (State.bumpSeq_keeps ..)
    | split
    | dsimp +zetaDelta only

theorem State.alignGt_keeps (s : State) (offset : Int) : Keeps s (s.alignGt offset) := by
  unfold State.alignGt
  extract_lets by_ t' s1
  have h1 : Keeps s s1 := (Keeps.set_t ..).trans (State.modRef_keeps ..)
  split
  · exact State.nywPost_keeps ..
  · split
    · exact State.nywPost_keeps ..
    · split
      · exact State.nywPost_keeps ..
      · exact (h1.trans (State.modSyn_keeps ..)).trans (State.nywPost_keeps ..)

theorem State.retrain_keeps (s : State) : Keeps s (s.retrain) := by
  unfold State.retrain
  repeat' first
    | with_reducible apply Keeps.refl
    | intro _
    | extract_lets
    | with_reducible apply Keeps.ite
    | with_reducible apply Keeps.after (State.dropRx_keeps ..)
    | with_reducible apply Keeps.after (State.nywPost_keeps ..)
    | with_reducible apply Keeps.after (State.modSyn_keeps ..)
    | split
    | dsimp +zetaDelta only

theorem State.misalign_keeps (s : State) (dev : BitVec 16) : Keeps s (s.misalign dev) := by
  unfold State.misalign
  repeat' first
    | with_reducible apply Keeps.refl
    | intro _
    | extract_lets
    | with_reducible apply Keeps.ite
    | with_reducible apply Keeps.after (State.linkDue_keeps ..)
    | with_reducible apply Keeps.after (State.modRef_keeps ..)
    | with_reducible apply Keeps.after (State.modSyn_keeps ..)
    | with_reducible apply Keeps.after (State.raiseDev_keeps ..)
    | split
    | dsimp +zetaDelta only

theorem State.linkOff_keeps (s : State) : Keeps s (s.linkOff) := by
  unfold State.linkOff
  repeat' first
    | with_reducible apply Keeps.refl
    | intro _
    | extract_lets
    | with_reducible apply Keeps.ite
    | with_reducible apply Keeps.after (State.modSyn_keeps ..)
    | with_reducible apply Keeps.after (State.nywPost_keeps ..)
    | with_reducible apply Keeps.after (State.modRef_keeps ..)
    | with_reducible apply Keeps.after (State.endCond_keeps ..)
    | with_reducible apply Keeps.after (State.linkDown_keeps ..)
    | split
    | dsimp +zetaDelta only

theorem State.writeNywCfg_keeps (s : State) (v : Nat) : Keeps s (s.writeNywCfg v) := by
  unfold State.writeNywCfg
  repeat' first
    | with_reducible apply Keeps.refl
    | intro _
    | extract_lets
    | with_reducible apply Keeps.ite
    | with_reducible apply Keeps.after (State.setReg_keeps ..)
    | with_reducible apply Keeps.after (State.linkOff_keeps ..)
    | with_reducible apply Keeps.after (State.linkLost_keeps ..)
    | split
    | dsimp +zetaDelta only

theorem State.raiseSlot_keeps (s : State) (k idx code native : Nat) : Keeps s (s.raiseSlot k idx code native) := by
  unfold State.raiseSlot
  repeat' first
    | with_reducible apply Keeps.refl
    | intro _
    | extract_lets
    | with_reducible apply Keeps.ite
    | with_reducible apply Keeps.after (State.raise_keeps ..)
    | split
    | dsimp +zetaDelta only

theorem State.supplyTrip_keeps (s : State) (c : Nat) : Keeps s (s.supplyTrip c) := by
  unfold State.supplyTrip
  repeat' first
    | with_reducible apply Keeps.refl
    | intro _
    | extract_lets
    | with_reducible apply Keeps.ite
    | with_reducible apply Keeps.after (State.modClu_keeps ..)
    | with_reducible apply Keeps.after (State.raiseClu_keeps ..)
    | split
    | dsimp +zetaDelta only

theorem State.causeEnds_keeps (s : State) (src code : Nat) : Keeps s (s.causeEnds src code) := by
  unfold State.causeEnds
  repeat' first
    | with_reducible apply Keeps.refl
    | intro _
    | extract_lets
    | with_reducible apply Keeps.ite
    | with_reducible apply Keeps.after (State.endCond_keeps ..)
    | with_reducible apply Keeps.after (State.modClu_keeps ..)
    | with_reducible apply Keeps.after (State.modSyn_keeps ..)
    | split
    | dsimp +zetaDelta only

theorem State.pePower_keeps (s : State) (out : Bool) : Keeps s (s.pePower out) := by
  unfold State.pePower
  repeat' first
    | with_reducible apply Keeps.refl
    | intro _
    | extract_lets
    | with_reducible apply Keeps.ite
    | with_reducible apply Keeps.after (State.modSyn_keeps ..)
    | with_reducible apply Keeps.after (State.contention_keeps ..)
    | with_reducible apply Keeps.after (State.modKeep_keeps _ _ (by first | rfl | simp))
    | split
    | dsimp +zetaDelta only

theorem State.railAssert_keeps (s : State) (r : Nat) (trip : Bool) : Keeps s (s.railAssert r trip) := by
  unfold State.railAssert
  repeat' first
    | with_reducible apply Keeps.refl
    | intro _
    | extract_lets
    | with_reducible apply Keeps.ite
    | with_reducible apply Keeps.after (State.pePower_keeps ..)
    | with_reducible apply Keeps.after (State.raiseDev_keeps ..)
    | with_reducible apply Keeps.after (State.modKeep_keeps _ _ (by first | rfl | simp))
    | split
    | dsimp +zetaDelta only

theorem State.railRelease_keeps (s : State) (r : Nat) (trip : Bool) : Keeps s (s.railRelease r trip) := by
  unfold State.railRelease
  repeat' first
    | with_reducible apply Keeps.refl
    | intro _
    | extract_lets
    | with_reducible apply Keeps.ite
    | with_reducible apply Keeps.after (State.pePower_keeps ..)
    | with_reducible apply Keeps.after (State.endCond_keeps ..)
    | with_reducible apply Keeps.after (State.modKeep_keeps _ _ (by first | rfl | simp))
    | split
    | dsimp +zetaDelta only

theorem State.railReads_keeps (s : State) (r : Nat) (mv : BitVec 16) : Keeps s (s.railReads r mv) := by
  unfold State.railReads
  repeat' first
    | with_reducible apply Keeps.refl
    | intro _
    | extract_lets
    | with_reducible apply Keeps.ite
    | with_reducible apply Keeps.after (State.pePower_keeps ..)
    | with_reducible apply Keeps.after (State.modKeep_keeps _ _ (by first | rfl | simp))
    | split
    | dsimp +zetaDelta only

theorem State.tjNow_keeps (s : State) (tj : Byte) : Keeps s (s.tjNow tj) := by
  unfold State.tjNow
  repeat' first
    | with_reducible apply Keeps.refl
    | intro _
    | extract_lets
    | with_reducible apply Keeps.ite
    | with_reducible apply Keeps.after (State.modKeep_keeps _ _ (by first | rfl | simp))
    | split
    | dsimp +zetaDelta only

theorem State.tjRise_keeps (s : State) (tj : Byte) (limit : Int) (idx native : Nat) : Keeps s (s.tjRise tj limit idx native) := by
  unfold State.tjRise
  repeat' first
    | with_reducible apply Keeps.refl
    | intro _
    | extract_lets
    | with_reducible apply Keeps.ite
    | with_reducible apply Keeps.after (State.tjNow_keeps ..)
    | with_reducible apply Keeps.after (State.raiseDev_keeps ..)
    | split
    | dsimp +zetaDelta only

theorem State.hour_keeps (s : State) (hot : Bool) : Keeps s (s.hour hot) := by
  unfold State.hour
  repeat' first
    | with_reducible apply Keeps.refl
    | intro _
    | extract_lets
    | with_reducible apply Keeps.ite
    | with_reducible apply Keeps.after (State.modKeep_keeps _ _ (by first | rfl | simp))
    | split
    | dsimp +zetaDelta only

theorem State.smbus_keeps (s : State) (addr code : Nat) (op : SmbusOp) : Keeps s (s.smbus addr code op) := by
  unfold State.smbus
  repeat' first
    | with_reducible apply Keeps.refl
    | intro _
    | extract_lets
    | with_reducible apply Keeps.ite
    | with_reducible apply Keeps.after (State.emit_keeps ..)
    | split
    | dsimp +zetaDelta only

end Sys2Proof.Machine
end

