-- ==== Sys2Proof/Laws/KeepsReset.lean ====
section
/-!
SUPPORT. Sys2Proof/Laws/KeepsReset.lean: `Keeps` for resets, the collectors, bring-up, snapshots and register writes.
-/

set_option linter.unusedTactic false
set_option linter.unreachableTactic false

namespace Sys2Proof.Machine

theorem State.resetBurst_keeps (s : State) (w : Nat) : Keeps s (s.resetBurst w) := by
  unfold State.resetBurst
  repeat' first
    | with_reducible apply Keeps.refl
    | intro _
    | extract_lets
    | with_reducible apply Keeps.ite
    | with_reducible apply Keeps.after (State.discardBurst_keeps ..)
    | with_reducible apply Keeps.after (State.modMd_keeps ..)
    | with_reducible apply Keeps.after (State.endBurst_keeps ..)
    | with_reducible apply Keeps.after (State.applyStage_keeps ..)
    | split
    | dsimp +zetaDelta only

theorem State.cancelArming_keeps (s : State) (w : Nat) : Keeps s (s.cancelArming w) := by
  unfold State.cancelArming
  repeat' first
    | with_reducible apply Keeps.refl
    | intro _
    | extract_lets
    | with_reducible apply Keeps.ite
    | with_reducible apply Keeps.after (State.discardBurst_keeps ..)
    | with_reducible apply Keeps.after (State.modMd_keeps ..)
    | split
    | dsimp +zetaDelta only

theorem State.dropEvts_keeps (s : State) (p : Nat → Bool) : Keeps s (s.dropEvts p) := Keeps.set_pgEvt_evtDue ..

theorem State.dropPages_keeps (s : State) (p : Nat → Bool) : Keeps s (s.dropPages p) :=
  Keeps.of_fields rfl rfl rfl rfl rfl rfl rfl rfl rfl rfl

theorem State.snapFinish_keeps (s : State) : Keeps s (s.snapFinish) := by
  unfold State.snapFinish
  repeat' first
    | with_reducible apply Keeps.refl
    | intro _
    | extract_lets
    | with_reducible apply Keeps.ite
    | with_reducible apply Keeps.after (State.modDev_keeps ..)
    | with_reducible apply Keeps.after (State.bumpSeq_keeps ..)
    | split
    | dsimp +zetaDelta only

theorem State.dropSnaps_keeps (s : State) (p : Nat → Bool) : Keeps s (s.dropSnaps p) := (Keeps.set_snaps ..).trans (State.snapFinish_keeps ..)

theorem State.noteAgain_keeps (s : State) (srcs : List Nat) : Keeps s (s.noteAgain srcs) := by
  unfold State.noteAgain
  repeat' first
    | with_reducible apply Keeps.refl
    | intro _
    | extract_lets
    | with_reducible apply Keeps.ite
    | with_reducible apply Keeps.after (State.modDev_keeps ..)
    | split
    | dsimp +zetaDelta only

theorem State.detectAgain_keeps (s : State) (src : Nat) : Keeps s (s.detectAgain src) := by
  unfold State.detectAgain
  repeat' first
    | with_reducible apply Keeps.refl
    | intro _
    | extract_lets
    | with_reducible apply Keeps.ite
    | with_reducible apply Keeps.after (State.raise_keeps ..)
    | with_reducible apply Keeps.after (State.modDev_keeps ..)
    | with_reducible apply Keeps.after (State.each_keeps _ _ _ ?_)
    | split
    | dsimp +zetaDelta only

theorem State.clearWindow_keeps (s : State) (w : Nat) : Keeps s (s.clearWindow w) := by
  unfold State.clearWindow
  repeat' first
    | with_reducible apply Keeps.refl
    | intro _
    | extract_lets
    | with_reducible apply Keeps.ite
    | with_reducible apply Keeps.after (State.modTm_keeps ..)
    | with_reducible apply Keeps.after (State.stampReset_keeps ..)
    | with_reducible apply Keeps.after (State.cancelArming_keeps ..)
    | with_reducible apply Keeps.after (State.resetBurst_keeps ..)
    | with_reducible apply Keeps.after (State.flushStreams_keeps ..)
    | with_reducible apply Keeps.after (State.modWin_keeps ..)
    | with_reducible apply Keeps.after (State.dropRegs_keeps ..)
    | with_reducible apply Keeps.after (State.dropPages_keeps ..)
    | with_reducible apply Keeps.after (State.dropSnaps_keeps ..)
    | with_reducible apply Keeps.after (State.modColl_keeps ..)
    | split
    | dsimp +zetaDelta only

theorem State.clearCluster_keeps (s : State) (c : Nat) : Keeps s (s.clearCluster c) := by
  unfold State.clearCluster
  extract_lets s1 s2 s3 s4 s5
  have h1 : Keeps s s1 := State.each_keeps _ _ _ fun _ _ => (State.clearWindow_keeps ..).trans (State.modFb_keeps ..)
  have h2 : Keeps s1 s2 := State.each_keeps _ _ _ fun _ _ => Keeps.ite (State.exportTakes_keeps ..) (Keeps.refl _)
  have h3 : Keeps s2 s3 := Keeps.ite (State.storeAll_keeps ..) (Keeps.refl _)
  have h4 : Keeps s3 s4 := State.modClu_keeps ..
  have h5 : Keeps s4 s5 := (State.dropRegs_keeps ..).trans (State.dropPages_keeps ..)
  exact ((((h1.trans h2).trans h3).trans h4).trans h5).trans (((Keeps.set_snapSt ..).trans (State.snapFinish_keeps ..)).trans (State.modColl_keeps ..))

theorem State.stopMarch_keeps (s : State) : Keeps s (s.stopMarch) := by
  unfold State.stopMarch
  repeat' first
    | with_reducible apply Keeps.refl
    | intro _
    | extract_lets
    | with_reducible apply Keeps.ite
    | with_reducible apply Keeps.after (State.undefineBanks_keeps ..)
    | with_reducible apply Keeps.after (State.marchEnd_keeps ..)
    | split
    | dsimp +zetaDelta only

theorem State.stopRepair_keeps (s : State) : Keeps s (s.stopRepair) := by
  unfold State.stopRepair
  repeat' first
    | with_reducible apply Keeps.refl
    | intro _
    | extract_lets
    | with_reducible apply Keeps.ite
    | with_reducible apply Keeps.after (State.modMem_keeps ..)
    | split
    | dsimp +zetaDelta only

theorem State.resetEffect_keeps (s : State) (p : Nat) : Keeps s (s.resetEffect p) := by
  unfold State.resetEffect
  extract_lets w q s1
  have h1 : Keeps s s1 := State.dropEvts_keeps ..
  split
  · split
    · exact State.clearWindow_keeps ..
    · split
      · exact h1.trans (State.resetBurst_keeps ..)
      · split
        · exact h1.trans (State.stampReset_keeps ..)
        · exact h1
  · split
    · exact State.clearCluster_keeps ..
    · split
      · exact h1.trans ((State.stopMarch_keeps ..).trans (State.stopRepair_keeps ..))
      · exact h1

theorem State.startReset_keeps (s : State) (p : Nat) : Keeps s (s.startReset p) := by
  unfold State.startReset
  extract_lets s1
  have h1 : Keeps s s1 := Keeps.ite (Keeps.set_conseqs ..) (Keeps.refl s)
  exact Keeps.ite (Keeps.refl s) (h1.trans (((State.noteAgain_keeps ..).trans (State.resetEffect_keeps ..)).trans (State.modDev_keeps ..)))

theorem State.conseqEnd_keeps (s : State) : Keeps s s.conseqEnd := Keeps.set_conseqs ..

theorem State.postCancelled_keeps (s : State) (w : Nat) : Keeps s (s.postCancelled w) := by
  unfold State.postCancelled
  repeat' first
    | with_reducible apply Keeps.refl
    | intro _
    | extract_lets
    | with_reducible apply Keeps.ite
    | with_reducible apply Keeps.after (State.modMd_keeps ..)
    | with_reducible apply Keeps.after (State.modeDone_keeps ..)
    | split
    | dsimp +zetaDelta only

theorem State.endReset_keeps (s : State) (p : Nat) : Keeps s (s.endReset p) := by
  unfold State.endReset
  repeat' first
    | with_reducible apply Keeps.refl
    | intro _
    | extract_lets
    | with_reducible apply Keeps.ite
    | with_reducible apply Keeps.after (State.modDev_keeps ..)
    | with_reducible apply Keeps.after (State.postCancelled_keeps ..)
    | with_reducible apply Keeps.after (State.detectAgain_keeps ..)
    | with_reducible apply Keeps.after (State.each_keeps _ _ _ ?_)
    | split
    | dsimp +zetaDelta only

theorem State.resetColls_keeps (s : State) : Keeps s s.resetColls := Keeps.of_fields rfl rfl rfl rfl rfl rfl rfl rfl rfl rfl

theorem State.reportClosed_keeps (s : State) (k : Nat) : Keeps s (s.reportClosed k) := by
  unfold State.reportClosed
  repeat' first
    | with_reducible apply Keeps.refl
    | intro _
    | extract_lets
    | with_reducible apply Keeps.ite
    | with_reducible apply Keeps.after (State.send_keeps ..)
    | split
    | dsimp +zetaDelta only

theorem State.resetPins_keeps (s : State) (checks : List (SlotId × BitVec 16)) : Keeps s (s.resetPins checks) := by
  unfold State.resetPins
  extract_lets left s1
  have h1 : Keeps s s1 := ⟨rfl, rfl, Nat.le_refl _, OtpKept.refl _, fun h => by
    rw [canonical_iff] at h ⊢
    exact ⟨h.1, h.2.1, h.2.2.1, rfl, Tab.wf_foldl_set _ _ _ rfl, Tab.wf_foldl_set _ _ _ rfl⟩⟩
  exact (h1.trans (State.each_keeps _ _ _ fun _ _ => State.reportClosed_keeps ..)).trans (State.each_keeps _ _ _ fun _ _ => State.loadSeed_keeps ..)

theorem State.resetDevicePages_keeps (s : State) : Keeps s s.resetDevicePages :=
  ⟨rfl, rfl, Nat.le_refl _, OtpKept.refl _, fun h => by
    rw [canonical_iff] at h ⊢
    exact ⟨h.1, h.2.1, rfl, h.2.2.2⟩⟩

theorem State.dropHeld_keeps (s : State) : Keeps s s.dropHeld := by
  unfold State.dropHeld
  refine Keeps.trans (State.each_keeps s s.held _ fun s h => ?_) (Keeps.set_held ..)
  split
  · exact Keeps.ite (State.modDev_keeps ..) (Keeps.refl s)
  · exact Keeps.refl s
  · exact State.modDev_keeps ..

theorem State.deviceReset_keeps (s : State) (cause src : Nat) (checks : List (SlotId × BitVec 16)) :
    Keeps s (s.deviceReset cause src checks) := by
  unfold State.deviceReset
  extract_lets d s0 s1 s2 s3
  have h0 : Keeps s s0 := Keeps.ite (State.undefineBanks_keeps s) (Keeps.refl s)
  have h1 : Keeps s0 s1 := (State.dropHeld_keeps ..).trans (State.each_keeps _ _ _ fun _ _ => State.storeAll_keeps ..)
  clear_value s1 d
  have h2 : Keeps s1 s2 := Keeps.of_fields rfl rfl rfl rfl rfl rfl rfl rfl rfl rfl
  clear_value s2
  split
  · exact Keeps.refl s
  · exact (((h0.trans h1).trans h2).trans (((State.resetColls_keeps ..).trans (State.modDev_keeps ..)).trans (State.resetDevicePages_keeps ..))).trans
      ((State.resetPins_keeps ..).trans (State.logIndicate_keeps ..))

theorem State.resetCmd_keeps (s : State) (confirm : Nat) (checks : List (SlotId × BitVec 16)) : Keeps s (s.resetCmd confirm checks) := by
  unfold State.resetCmd
  repeat' first
    | with_reducible apply Keeps.refl
    | intro _
    | extract_lets
    | with_reducible apply Keeps.ite
    | with_reducible apply Keeps.after (State.modDev_keeps ..)
    | with_reducible apply Keeps.after (State.deviceReset_keeps ..)
    | split
    | dsimp +zetaDelta only

theorem State.flr_keeps (s : State) (checks : List (SlotId × BitVec 16)) : Keeps s (s.flr checks) := by
  unfold State.flr
  repeat' first
    | with_reducible apply Keeps.refl
    | intro _
    | extract_lets
    | with_reducible apply Keeps.ite
    | with_reducible apply Keeps.after (State.deviceReset_keeps ..)
    | with_reducible apply Keeps.after (State.resetConfig_keeps ..)
    | split
    | dsimp +zetaDelta only

theorem State.blkRst_keeps (s : State) (dt : Nat) (page : PageId) : Keeps s (s.blkRst dt page) := by
  unfold State.blkRst
  repeat' first
    | with_reducible apply Keeps.refl
    | intro _
    | extract_lets
    | with_reducible apply Keeps.ite
    | with_reducible apply Keeps.after (State.hostWrite_keeps ..)
    | with_reducible apply Keeps.after (State.startReset_keeps ..)
    | split
    | dsimp +zetaDelta only

theorem State.react_keeps (s : State) (d : Det) (p : DetPart) (k : Classed) (r : Rec) (checks : List (SlotId × BitVec 16)) : Keeps s (s.react d p k r checks) := by
  unfold State.react
  repeat' first
    | with_reducible apply Keeps.refl
    | intro _
    | extract_lets
    | with_reducible apply Keeps.ite
    | with_reducible apply Keeps.after (State.aliveFreeze_keeps ..)
    | with_reducible apply Keeps.after (State.trap_keeps ..)
    | with_reducible apply Keeps.after (State.signalColl_keeps ..)
    | with_reducible apply Keeps.after (State.startReset_keeps ..)
    | with_reducible apply Keeps.after (State.deviceReset_keeps ..)
    | split
    | dsimp +zetaDelta only

theorem State.collectDet_keeps (s : State) (d : Det) (checks : List (SlotId × BitVec 16)) : Keeps s (s.collectDet d checks) := by
  unfold State.collectDet
  repeat' first
    | with_reducible apply Keeps.refl
    | intro _
    | extract_lets
    | with_reducible apply Keeps.ite
    | with_reducible apply Keeps.after (State.modSrc_keeps ..)
    | with_reducible apply Keeps.after (State.latchAll_keeps ..)
    | with_reducible apply Keeps.after (State.modFlt_keeps ..)
    | with_reducible apply Keeps.after (State.logPush_keeps ..)
    | with_reducible apply Keeps.after (State.harvestEvent_keeps ..)
    | with_reducible apply Keeps.after (State.react_keeps ..)
    | split
    | dsimp +zetaDelta only

theorem State.collectOnce_keeps (s : State) (d : Det) (checks : List (SlotId × BitVec 16)) : Keeps s (s.collectOnce d checks) := by
  unfold State.collectOnce
  repeat' first
    | with_reducible apply Keeps.refl
    | intro _
    | extract_lets
    | with_reducible apply Keeps.ite
    | with_reducible apply Keeps.after (State.sendMore_keeps ..)
    | with_reducible apply Keeps.after (State.collectDet_keeps ..)
    | split
    | dsimp +zetaDelta only

theorem State.detArrive_keeps (s : State) (n : Nat) (checks : List (SlotId × BitVec 16)) : Keeps s (s.detArrive n checks) := by
  unfold State.detArrive
  split
  · exact Keeps.refl s
  · split
    · split
      · exact (Keeps.set_flight ..).trans (State.collectOnce_keeps ..)
      · exact Keeps.refl s
    · exact Keeps.refl s

theorem State.decideFirst_keeps (s : State) (c : Collector) : Keeps s (s.decideFirst c) := by
  unfold State.decideFirst
  repeat' first
    | with_reducible apply Keeps.refl
    | intro _
    | extract_lets
    | with_reducible apply Keeps.ite
    | with_reducible apply Keeps.after (State.modColl_keeps ..)
    | split
    | dsimp +zetaDelta only

theorem State.emptyFirst_keeps (s : State) (c : Collector) : Keeps s (s.emptyFirst c) := by
  unfold State.emptyFirst
  repeat' first
    | with_reducible apply Keeps.refl
    | intro _
    | extract_lets
    | with_reducible apply Keeps.ite
    | with_reducible apply Keeps.after (State.modColl_keeps ..)
    | split
    | dsimp +zetaDelta only

theorem State.clearSrc_keeps (s : State) (src : Nat) (ack : BitVec 4) (seq : BitVec 16) : Keeps s (s.clearSrc src ack seq) := by
  unfold State.clearSrc
  repeat' first
    | with_reducible apply Keeps.refl
    | intro _
    | extract_lets
    | with_reducible apply Keeps.ite
    | with_reducible apply Keeps.after (State.modColl_keeps ..)
    | with_reducible apply Keeps.after (State.raiseDev_keeps ..)
    | with_reducible apply Keeps.after (State.modSrc_keeps ..)
    | split
    | dsimp +zetaDelta only

theorem State.cfgRefuse_keeps (s : State) (src : Nat) : Keeps s (s.cfgRefuse src) := by
  unfold State.cfgRefuse
  repeat' first
    | with_reducible apply Keeps.refl
    | intro _
    | extract_lets
    | with_reducible apply Keeps.ite
    | with_reducible apply Keeps.after (State.modColl_keeps ..)
    | split
    | dsimp +zetaDelta only

theorem State.cfgAccept_keeps (s : State) (src : Nat) : Keeps s (s.cfgAccept src) := by
  unfold State.cfgAccept
  repeat' first
    | with_reducible apply Keeps.refl
    | intro _
    | extract_lets
    | with_reducible apply Keeps.ite
    | with_reducible apply Keeps.after (State.modColl_keeps ..)
    | split
    | dsimp +zetaDelta only

theorem State.writeReact_keeps (s : State) (src v : Nat) : Keeps s (s.writeReact src v) := by
  unfold State.writeReact
  repeat' first
    | with_reducible apply Keeps.refl
    | intro _
    | extract_lets
    | with_reducible apply Keeps.ite
    | with_reducible apply Keeps.after (State.cfgRefuse_keeps ..)
    | with_reducible apply Keeps.after (State.setReg_keeps ..)
    | with_reducible apply Keeps.after (State.cfgAccept_keeps ..)
    | split
    | dsimp +zetaDelta only

theorem State.writeCompat_keeps (s : State) (src v : Nat) : Keeps s (s.writeCompat src v) := by
  unfold State.writeCompat
  repeat' first
    | with_reducible apply Keeps.refl
    | intro _
    | extract_lets
    | with_reducible apply Keeps.ite
    | with_reducible apply Keeps.after (State.cfgRefuse_keeps ..)
    | with_reducible apply Keeps.after (State.setReg_keeps ..)
    | with_reducible apply Keeps.after (State.modSrc_keeps ..)
    | with_reducible apply Keeps.after (State.cfgAccept_keeps ..)
    | split
    | dsimp +zetaDelta only

theorem State.srcWrite_keeps (s : State) (src : Nat) (i : Instr) (act : State → State) (hact : ∀ s, Keeps s (act s)) : Keeps s (s.srcWrite src i act) := by
  unfold State.srcWrite
  repeat' first
    | with_reducible apply Keeps.refl
    | intro _
    | extract_lets
    | with_reducible apply Keeps.ite
    | with_reducible exact hact ..
    | with_reducible apply Keeps.after (hact ..)
    | with_reducible apply Keeps.after (State.hostWrite_keeps ..)
    | split
    | dsimp +zetaDelta only

theorem State.writeDiv_keeps (s : State) (div : Nat) : Keeps s (s.writeDiv div) := by
  unfold State.writeDiv
  repeat' first
    | with_reducible apply Keeps.refl
    | intro _
    | extract_lets
    | with_reducible apply Keeps.ite
    | with_reducible apply Keeps.after (State.setReg_keeps ..)
    | split
    | dsimp +zetaDelta only

theorem State.aliveEdge_keeps (s : State) : Keeps s (s.aliveEdge) := by
  unfold State.aliveEdge
  repeat' first
    | with_reducible apply Keeps.refl
    | intro _
    | extract_lets
    | with_reducible apply Keeps.ite
    | with_reducible apply Keeps.after (State.modFlt_keeps ..)
    | split
    | dsimp +zetaDelta only

theorem State.loseHeartbeat_keeps (s : State) : Keeps s (s.loseHeartbeat) := by
  unfold State.loseHeartbeat
  repeat' first
    | with_reducible apply Keeps.refl
    | intro _
    | extract_lets
    | with_reducible apply Keeps.ite
    | with_reducible apply Keeps.after (State.modFlt_keeps ..)
    | with_reducible apply Keeps.after (State.aliveFreeze_keeps ..)
    | split
    | dsimp +zetaDelta only

theorem State.aliveResumeCmd_keeps (s : State) : Keeps s (s.aliveResumeCmd) := by
  unfold State.aliveResumeCmd
  repeat' first
    | with_reducible apply Keeps.refl
    | intro _
    | extract_lets
    | with_reducible apply Keeps.ite
    | with_reducible apply Keeps.after (State.modFlt_keeps ..)
    | split
    | dsimp +zetaDelta only

theorem State.writeLogCons_keeps (s : State) (v : Nat) : Keeps s (s.writeLogCons v) := by
  unfold State.writeLogCons
  repeat' first
    | with_reducible apply Keeps.refl
    | intro _
    | extract_lets
    | with_reducible apply Keeps.ite
    | with_reducible apply Keeps.after (State.modFlt_keeps ..)
    | with_reducible apply Keeps.after (State.logIndicate_keeps ..)
    | split
    | dsimp +zetaDelta only

theorem State.writeLogWm_keeps (s : State) (v : Nat) : Keeps s (s.writeLogWm v) := by
  unfold State.writeLogWm
  repeat' first
    | with_reducible apply Keeps.refl
    | intro _
    | extract_lets
    | with_reducible apply Keeps.ite
    | with_reducible apply Keeps.after (State.setReg_keeps ..)
    | with_reducible apply Keeps.after (State.logIndicate_keeps ..)
    | split
    | dsimp +zetaDelta only

theorem State.injStart_keeps (s : State) : Keeps s (s.injStart) := by
  unfold State.injStart
  repeat' first
    | with_reducible apply Keeps.refl
    | intro _
    | extract_lets
    | with_reducible apply Keeps.ite
    | with_reducible apply Keeps.after (State.modFlt_keeps ..)
    | with_reducible apply Keeps.after (State.bumpSeq_keeps ..)
    | split
    | dsimp +zetaDelta only

theorem State.injDeliver_keeps (s : State) : Keeps s (s.injDeliver) := by
  unfold State.injDeliver
  repeat' first
    | with_reducible apply Keeps.refl
    | intro _
    | extract_lets
    | with_reducible apply Keeps.ite
    | with_reducible apply Keeps.after (State.send_keeps ..)
    | with_reducible apply Keeps.after (State.modFlt_keeps ..)
    | with_reducible apply Keeps.after (State.bumpSeq_keeps ..)
    | with_reducible apply Keeps.after (State.raiseDev_keeps ..)
    | split
    | dsimp +zetaDelta only

/-- Losing power cuts an append short: its entry keeps the bits it already had and only gains some (R326, R328). -/
theorem State.cutAppend_otp (s : State) : OtpKept s.keep.ledger s.cutAppend := by
  unfold State.cutAppend
  split
  · rename_i i hi
    exact OtpKept.set _ _ _ (by rw [State.nextBlank_blank hi]; exact BitVec.zero_and)
  · exact OtpKept.refl _

theorem State.reset_canonical : State.reset.canonical = true := by decide

theorem State.porAssert_keeps (s : State) : Keeps s s.porAssert :=
  ⟨rfl, rfl, Nat.le_refl _, State.cutAppend_otp s, fun _ => State.reset_canonical⟩

theorem State.stepFails_keeps (s : State) (step : Nat) : Keeps s (s.stepFails step) := by
  unfold State.stepFails
  repeat' first
    | with_reducible apply Keeps.refl
    | intro _
    | extract_lets
    | with_reducible apply Keeps.ite
    | with_reducible apply Keeps.after (State.modDev_keeps ..)
    | with_reducible apply Keeps.after (State.raiseVal_keeps ..)
    | split
    | dsimp +zetaDelta only

theorem State.porRelease_keeps (s : State) (bad : List Nat) : Keeps s (s.porRelease bad) := by
  unfold State.porRelease
  repeat' first
    | with_reducible apply Keeps.refl
    | intro _
    | extract_lets
    | with_reducible apply Keeps.ite
    | with_reducible apply Keeps.after (State.modDev_keeps ..)
    | with_reducible apply Keeps.after (State.modClu_keeps ..)
    | with_reducible apply Keeps.after (State.loadSeed_keeps ..)
    | with_reducible apply Keeps.after (State.stepFails_keeps ..)
    | with_reducible apply Keeps.after (State.modKeep_keeps _ _ (by first | rfl | simp))
    | with_reducible apply Keeps.after (State.each_keeps _ _ _ ?_)
    | with_reducible apply Keeps.after (foldl_keeps _ _ _ ?_)
    | split
    | dsimp +zetaDelta only

theorem State.keeperEnd_keeps (s : State) (u : Unpowered) : Keeps s (s.keeperEnd u) := by
  unfold State.keeperEnd
  repeat' first
    | with_reducible apply Keeps.refl
    | intro _
    | extract_lets
    | with_reducible apply Keeps.ite
    | with_reducible apply Keeps.after (State.modSec_keeps ..)
    | with_reducible apply Keeps.after (State.modDev_keeps ..)
    | with_reducible apply Keeps.after (State.modKeep_keeps _ _ (by first | rfl | simp))
    | split
    | dsimp +zetaDelta only

theorem OtpKept.set_ones (t : Tab (BitVec 256)) (i : Nat) : OtpKept t (Tab.set 0 t i (BitVec.allOnes 256)) :=
  OtpKept.set t i _ (by rw [BitVec.not_allOnes]; exact BitVec.and_zero)

theorem State.voidTorn_keeps (s : State) : Keeps s s.voidTorn := by
  unfold State.voidTorn
  refine State.each_keeps _ _ _ fun s e => State.modKeep_otp _ _ ?_
  exact OtpKept.set_ones s.keep.ledger e.1

theorem State.applyLedger_keeps (s : State) : Keeps s (s.applyLedger) := by
  unfold State.applyLedger
  repeat' first
    | with_reducible apply Keeps.refl
    | intro _
    | extract_lets
    | with_reducible apply Keeps.ite
    | with_reducible apply Keeps.after (State.modSec_keeps ..)
    | with_reducible apply Keeps.after (State.modMem_keeps ..)
    | with_reducible apply Keeps.after (State.modClu_keeps ..)
    | with_reducible apply Keeps.after (State.modFlt_keeps ..)
    | with_reducible apply Keeps.after (State.modKeep_keeps _ _ (by first | rfl | simp))
    | with_reducible apply Keeps.after (State.each_keeps _ _ _ ?_)
    | with_reducible apply Keeps.after (foldl_keeps _ _ _ ?_)
    | split
    | dsimp +zetaDelta only

theorem State.fusesEnd_keeps (s : State) (bad0 bad1 : Bool) : Keeps s (s.fusesEnd bad0 bad1) := by
  unfold State.fusesEnd
  repeat' first
    | with_reducible apply Keeps.refl
    | intro _
    | extract_lets
    | with_reducible apply Keeps.ite
    | with_reducible apply Keeps.after (State.raiseDev_keeps ..)
    | with_reducible apply Keeps.after (State.voidTorn_keeps ..)
    | with_reducible apply Keeps.after (State.applyLedger_keeps ..)
    | with_reducible apply Keeps.after (State.stepFails_keeps ..)
    | with_reducible apply Keeps.after (State.modDev_keeps ..)
    | with_reducible apply Keeps.after (State.modFlt_keeps ..)
    | split
    | dsimp +zetaDelta only

theorem State.marchStep_keeps (s : State) (fails : BitVec 16) : Keeps s (s.marchStep fails) := by
  unfold State.marchStep
  repeat' first
    | with_reducible apply Keeps.refl
    | intro _
    | extract_lets
    | with_reducible apply Keeps.ite
    | with_reducible apply Keeps.after (State.startupMarch_keeps ..)
    | with_reducible apply Keeps.after (State.stepFails_keeps ..)
    | with_reducible apply Keeps.after (State.modDev_keeps ..)
    | split
    | dsimp +zetaDelta only

theorem State.reportUnpowered_keeps (s : State) : Keeps s (s.reportUnpowered) := by
  unfold State.reportUnpowered
  repeat' first
    | with_reducible apply Keeps.refl
    | intro _
    | extract_lets
    | with_reducible apply Keeps.ite
    | with_reducible apply Keeps.after (State.raiseAt_keeps ..)
    | with_reducible apply Keeps.after (State.modKeep_keeps _ _ (by first | rfl | simp))
    | with_reducible apply Keeps.after (State.each_keeps _ _ _ ?_)
    | split
    | dsimp +zetaDelta only

theorem State.firstLock_keeps (s : State) (replicaFail : Bool) : Keeps s (s.firstLock replicaFail) := by
  unfold State.firstLock
  extract_lets s1 s2 s3
  have h1 : Keeps s s1 := (Keeps.set_t_gtRun ..).trans (State.modRef_keeps ..)
  have h2 : Keeps s1 s2 := (State.each_keeps _ _ _ fun _ _ => State.calLat_keeps ..).trans (State.reportUnpowered_keeps ..)
  have h3 : Keeps s2 s3 := Keeps.ite ((State.raiseDev_keeps ..).trans (State.stepFails_keeps ..)) (Keeps.refl _)
  exact Keeps.ite (Keeps.refl s) (((h1.trans h2).trans h3).trans (State.modDev_keeps ..))

theorem State.stackServes_keeps (s : State) (st : Nat) : Keeps s (s.stackServes st) := by
  unfold State.stackServes
  repeat' first
    | with_reducible apply Keeps.refl
    | intro _
    | extract_lets
    | with_reducible apply Keeps.ite
    | with_reducible apply Keeps.after (State.histWrite_keeps ..)
    | with_reducible apply Keeps.after (State.each_keeps _ _ _ ?_)
    | split
    | dsimp +zetaDelta only

theorem State.stackUp_keeps (s : State) (st : Nat) (fail : Bool) : Keeps s (s.stackUp st fail) := by
  unfold State.stackUp
  repeat' first
    | with_reducible apply Keeps.refl
    | intro _
    | extract_lets
    | with_reducible apply Keeps.ite
    | with_reducible apply Keeps.after (State.raiseDev_keeps ..)
    | with_reducible apply Keeps.after (State.modDev_keeps ..)
    | with_reducible apply Keeps.after (State.stackServes_keeps ..)
    | with_reducible apply Keeps.after (State.setStack_zero_keeps ..)
    | split
    | dsimp +zetaDelta only

theorem State.detectAll_keeps (s : State) : Keeps s (s.detectAll) := by
  unfold State.detectAll
  repeat' first
    | with_reducible apply Keeps.refl
    | intro _
    | extract_lets
    | with_reducible apply Keeps.ite
    | with_reducible apply Keeps.after (State.detectAgain_keeps ..)
    | with_reducible apply Keeps.after (State.each_keeps _ _ _ ?_)
    | split
    | dsimp +zetaDelta only

theorem State.leftConnected_keeps (s : State) : Keeps s (s.leftConnected) := by
  unfold State.leftConnected
  repeat' first
    | with_reducible apply Keeps.refl
    | intro _
    | extract_lets
    | with_reducible apply Keeps.ite
    | with_reducible apply Keeps.after (State.modMd_keeps ..)
    | with_reducible apply Keeps.after (State.each_keeps _ _ _ ?_)
    | split
    | dsimp +zetaDelta only

theorem State.serve_keeps (s : State) : Keeps s s.serve := by
  unfold State.serve
  extract_lets s1 s2
  have h1 : Keeps s s1 := ((State.leftConnected_keeps s).trans (State.detectAll_keeps _)).trans (State.modDev_keeps ..)
  have h2 : Keeps s1 s2 := Keeps.ite (State.modFlt_keeps ..) ((State.modFlt_keeps ..).trans (State.raiseDev_keeps ..))
  exact (h1.trans h2).trans ((Keeps.set_flight_heldDet ..).trans (State.flushVecs_keeps ..))

theorem State.stacksStep_keeps (s : State) (fails : BitVec 2) : Keeps s (s.stacksStep fails) := by
  unfold State.stacksStep
  repeat' first
    | with_reducible apply Keeps.refl
    | intro _
    | extract_lets
    | with_reducible apply Keeps.ite
    | with_reducible apply Keeps.after (State.stackUp_keeps ..)
    | with_reducible apply Keeps.after (State.stepFails_keeps ..)
    | with_reducible apply Keeps.after (State.serve_keeps ..)
    | split
    | dsimp +zetaDelta only

theorem State.setStk_keeps (s : State) (st v : Nat) (dest : Option Nat) : Keeps s (s.setStk st v dest) := by
  unfold State.setStk
  repeat' first
    | with_reducible apply Keeps.refl
    | intro _
    | extract_lets
    | with_reducible apply Keeps.ite
    | with_reducible apply Keeps.after (State.modDev_keeps ..)
    | split
    | dsimp +zetaDelta only

theorem State.stkPost_keeps (s : State) (st outcome reason : Nat) : Keeps s (s.stkPost st outcome reason) := by
  unfold State.stkPost
  repeat' first
    | with_reducible apply Keeps.refl
    | intro _
    | extract_lets
    | with_reducible apply Keeps.ite
    | with_reducible apply Keeps.after (State.modDev_keeps ..)
    | with_reducible apply Keeps.after (State.bumpSeq_keeps ..)
    | with_reducible apply Keeps.after (State.latch_keeps ..)
    | split
    | dsimp +zetaDelta only

theorem State.stkCmd_keeps (s : State) (st dest : Nat) : Keeps s (s.stkCmd st dest) := by
  unfold State.stkCmd
  repeat' first
    | with_reducible apply Keeps.refl
    | intro _
    | extract_lets
    | with_reducible apply Keeps.ite
    | with_reducible apply Keeps.after (State.stkPost_keeps ..)
    | with_reducible apply Keeps.after (State.setStk_keeps ..)
    | with_reducible apply Keeps.after (State.modDev_keeps ..)
    | split
    | dsimp +zetaDelta only

theorem State.stkEnd_keeps (s : State) (st : Nat) : Keeps s (s.stkEnd st) := by
  unfold State.stkEnd
  split
  · extract_lets s1
    have h1 : Keeps s s1 := ((State.setStk_keeps ..).trans (State.stkPost_keeps ..)).trans (State.stackServes_keeps ..)
    exact Keeps.ite (h1.trans (State.copyWaiting_keeps ..)) h1
  · exact Keeps.refl s

theorem State.countWaits_keeps (s : State) : Keeps s (s.countWaits) := by
  unfold State.countWaits
  repeat' first
    | with_reducible apply Keeps.refl
    | intro _
    | extract_lets
    | with_reducible apply Keeps.ite
    | with_reducible apply Keeps.after (State.modMem_keeps ..)
    | with_reducible apply Keeps.after (foldl_keeps _ _ _ ?_)
    | with_reducible apply Keeps.after (State.draw_keeps ..)
    | split
    | dsimp +zetaDelta only

theorem State.settled_keeps (s : State) (p : Nat) : Keeps s (s.settled p) := by
  unfold State.settled
  repeat' first
    | with_reducible apply Keeps.refl
    | intro _
    | extract_lets
    | with_reducible apply Keeps.ite
    | with_reducible apply Keeps.after (State.jumpDue_keeps ..)
    | with_reducible apply Keeps.after (State.countWaits_keeps ..)
    | split
    | dsimp +zetaDelta only

theorem State.take_keeps (s : State) (p : Nat) : Keeps s (s.take p) := by
  unfold State.take
  extract_lets s1
  have h1 : Keeps s s1 := State.settled_keeps ..
  split
  · exact Keeps.refl s
  · split
    · exact h1
    · exact h1.trans (Keeps.set_snapSt ..)

theorem State.takeAll_keeps (s : State) : Keeps s (s.takeAll) := by
  unfold State.takeAll
  repeat' first
    | with_reducible apply Keeps.refl
    | intro _
    | extract_lets
    | with_reducible apply Keeps.ite
    | with_reducible apply Keeps.after (State.take_keeps ..)
    | with_reducible apply Keeps.after (State.modDev_keeps ..)
    | with_reducible apply Keeps.after (State.each_keeps _ _ _ ?_)
    | split
    | dsimp +zetaDelta only

theorem State.copied_keeps (s : State) (p : Nat) : Keeps s (s.copied p) := by
  unfold State.copied
  split
  · exact Keeps.refl s
  · exact ((Keeps.set_snaps ..).trans (State.bumpSeq_keeps ..)).trans (State.snapFinish_keeps ..)

theorem State.writePlain_keeps (s : State) (addr v : Nat) : Keeps s (s.writePlain addr v) := by
  unfold State.writePlain
  repeat' first
    | with_reducible apply Keeps.refl
    | intro _
    | extract_lets
    | with_reducible apply Keeps.ite
    | with_reducible apply Keeps.after (State.setReg_keeps ..)
    | split
    | dsimp +zetaDelta only

theorem State.writeSeqPage_keeps (s : State) (w off v : Nat) : Keeps s (s.writeSeqPage w off v) := by
  unfold State.writeSeqPage
  repeat' first
    | with_reducible apply Keeps.refl
    | intro _
    | extract_lets
    | with_reducible apply Keeps.ite
    | with_reducible apply Keeps.after (State.setHostFlags_keeps ..)
    | with_reducible apply Keeps.after (State.writeJumpTgt_keeps ..)
    | with_reducible apply Keeps.after (State.jumpRequest_keeps ..)
    | with_reducible apply Keeps.after (State.clearJumps_keeps ..)
    | with_reducible apply Keeps.after (State.take_keeps ..)
    | with_reducible apply Keeps.after (State.writePlain_keeps ..)
    | split
    | dsimp +zetaDelta only

theorem State.writeSluPage_keeps (s : State) (w off v : Nat) : Keeps s (s.writeSluPage w off v) := by
  unfold State.writeSluPage
  repeat' first
    | with_reducible apply Keeps.refl
    | intro _
    | extract_lets
    | with_reducible apply Keeps.ite
    | with_reducible apply Keeps.after (State.writeSluCfg_keeps ..)
    | with_reducible apply Keeps.after (State.writeStreamRing_keeps ..)
    | with_reducible apply Keeps.after (State.writeIntRing_keeps ..)
    | with_reducible apply Keeps.after (State.writeIntProd_keeps ..)
    | with_reducible apply Keeps.after (State.take_keeps ..)
    | with_reducible apply Keeps.after (State.writePlain_keeps ..)
    | split
    | dsimp +zetaDelta only

theorem State.writeTimPage_keeps (s : State) (w off v : Nat) : Keeps s (s.writeTimPage w off v) := by
  unfold State.writeTimPage
  repeat' first
    | with_reducible apply Keeps.refl
    | intro _
    | extract_lets
    | with_reducible apply Keeps.ite
    | with_reducible apply Keeps.after (State.stage_keeps ..)
    | with_reducible apply Keeps.after (State.calRefuse_keeps ..)
    | with_reducible apply Keeps.after (State.calRestore_keeps ..)
    | with_reducible apply Keeps.after (State.calStart_keeps ..)
    | with_reducible apply Keeps.after (State.writeCalPath_keeps ..)
    | with_reducible apply Keeps.after (State.writeDrift_keeps ..)
    | with_reducible apply Keeps.after (State.take_keeps ..)
    | with_reducible apply Keeps.after (State.writePlain_keeps ..)
    | split
    | dsimp +zetaDelta only

theorem State.drawCheck_keeps (s : State) : Keeps s s.drawCheck.2 := State.draw_keeps s

theorem State.drawChecks_keeps (s : State) (n : Nat) : Keeps s (s.drawChecks n).2 := by
  induction n generalizing s with
  | zero => exact Keeps.refl s
  | succ n ih => exact ((State.drawCheck_keeps s).trans (State.drawCheck_keeps _)).trans (ih _)

theorem State.writeAfePage_keeps (s : State) (w off v : Nat) : Keeps s (s.writeAfePage w off v) := by
  unfold State.writeAfePage
  split
  · exact State.writeLevel_keeps ..
  · exact State.writeLevel_keeps ..
  · exact State.writeTerm_keeps ..
  · exact State.writeLevel_keeps ..
  · exact Keeps.ite ((State.drawCheck_keeps s).trans (State.swCmd_keeps ..)) (Keeps.refl s)
  · exact State.writePlain_keeps ..

theorem State.writePmuPage_keeps (s : State) (w off v : Nat) : Keeps s (s.writePmuPage w off v) := by
  unfold State.writePmuPage
  repeat' first
    | with_reducible apply Keeps.refl
    | intro _
    | extract_lets
    | with_reducible apply Keeps.ite
    | with_reducible apply Keeps.after (State.writePmuCfg_keeps ..)
    | with_reducible apply Keeps.after (State.writePmuForce_keeps ..)
    | with_reducible apply Keeps.after (State.writePmuClamp_keeps ..)
    | with_reducible apply Keeps.after (State.writePmuThresh_keeps ..)
    | with_reducible apply Keeps.after (State.pmuMeas_keeps ..)
    | with_reducible apply Keeps.after (State.writePlain_keeps ..)
    | split
    | dsimp +zetaDelta only

theorem State.writeStpPage_keeps (s : State) (w off v : Nat) : Keeps s (s.writeStpPage w off v) := by
  unfold State.writeStpPage
  repeat' first
    | with_reducible apply Keeps.refl
    | intro _
    | extract_lets
    | with_reducible apply Keeps.ite
    | with_reducible apply Keeps.after (State.writeStpCfg_keeps ..)
    | with_reducible apply Keeps.after (State.writeStpLimit_keeps ..)
    | with_reducible apply Keeps.after (State.stpCmd_keeps ..)
    | with_reducible apply Keeps.after (State.writeStpWm_keeps ..)
    | with_reducible apply Keeps.after (State.take_keeps ..)
    | with_reducible apply Keeps.after (State.writePlain_keeps ..)
    | split
    | dsimp +zetaDelta only

theorem State.writeAcqPage_keeps (s : State) (w off v : Nat) : Keeps s (s.writeAcqPage w off v) := by
  unfold State.writeAcqPage
  repeat' first
    | with_reducible apply Keeps.refl
    | intro _
    | extract_lets
    | with_reducible apply Keeps.ite
    | with_reducible apply Keeps.after (State.engCmd_keeps ..)
    | with_reducible apply Keeps.after (State.hostEvent_keeps ..)
    | with_reducible apply Keeps.after (State.writeRedCfg_keeps ..)
    | with_reducible apply Keeps.after (State.redCmd_keeps ..)
    | with_reducible apply Keeps.after (State.writeWinCfg_keeps ..)
    | with_reducible apply Keeps.after (State.winCmd_keeps ..)
    | with_reducible apply Keeps.after (State.take_keeps ..)
    | with_reducible apply Keeps.after (State.writeEngReg_keeps ..)
    | with_reducible apply Keeps.after (State.writePlain_keeps ..)
    | split
    | dsimp +zetaDelta only

theorem State.writeFltRegs_keeps (s : State) (col : Collector) (src : Nat → Nat) (first clr react compat n off v : Nat) : Keeps s (s.writeFltRegs col src first clr react compat n off v) := by
  unfold State.writeFltRegs
  repeat' first
    | with_reducible apply Keeps.refl
    | intro _
    | extract_lets
    | with_reducible apply Keeps.ite
    | with_reducible apply Keeps.after (State.emptyFirst_keeps ..)
    | with_reducible apply Keeps.after (State.clearSrc_keeps ..)
    | with_reducible apply Keeps.after (State.writeReact_keeps ..)
    | with_reducible apply Keeps.after (State.writeCompat_keeps ..)
    | split
    | dsimp +zetaDelta only

theorem State.writeWindow_keeps (s : State) (w : WinId) (q off v : Nat) : Keeps s (s.writeWindow w q off v) := by
  unfold State.writeWindow
  repeat' first
    | with_reducible apply Keeps.refl
    | intro _
    | extract_lets
    | with_reducible apply Keeps.ite
    | with_reducible apply Keeps.after (State.writeReadyDrive_keeps ..)
    | with_reducible apply Keeps.after (State.writeSeqPage_keeps ..)
    | with_reducible apply Keeps.after (State.writeSluPage_keeps ..)
    | with_reducible apply Keeps.after (State.writeTimPage_keeps ..)
    | with_reducible apply Keeps.after (State.writePlain_keeps ..)
    | with_reducible apply Keeps.after (State.writeAfePage_keeps ..)
    | with_reducible apply Keeps.after (State.writePmuPage_keeps ..)
    | with_reducible apply Keeps.after (State.writeCapArea_keeps ..)
    | with_reducible apply Keeps.after (State.writeStpPage_keeps ..)
    | with_reducible apply Keeps.after (State.writeAcqPage_keeps ..)
    | with_reducible apply Keeps.after (State.writeFltRegs_keeps ..)
    | with_reducible apply Keeps.after (State.take_keeps ..)
    | split
    | dsimp +zetaDelta only

theorem State.writeCluster_keeps (s : State) (c : CluId) (off v : Nat) : Keeps s (s.writeCluster c off v) := by
  unfold State.writeCluster
  repeat' first
    | with_reducible apply Keeps.refl
    | intro _
    | extract_lets
    | with_reducible apply Keeps.ite
    | with_reducible apply Keeps.after (State.afeReqOn_keeps ..)
    | with_reducible apply Keeps.after (State.afeReqOff_keeps ..)
    | with_reducible apply Keeps.after (State.swapCmd_keeps ..)
    | with_reducible apply Keeps.after (State.retire_keeps ..)
    | with_reducible apply Keeps.after (State.swFlushStart_keeps ..)
    | with_reducible apply Keeps.after (State.take_keeps ..)
    | with_reducible apply Keeps.after (State.writeRoute_keeps ..)
    | with_reducible apply Keeps.after (State.writeExport_keeps ..)
    | with_reducible apply Keeps.after (State.writeFltRegs_keeps ..)
    | with_reducible apply Keeps.after (State.writePlain_keeps ..)
    | split
    | dsimp +zetaDelta only

theorem State.commitArrive_keeps (s : State) : Keeps s s.commitArrive := Keeps.set_held ..

theorem State.writeDevPage_keeps (s : State) (off v : Nat) : Keeps s (s.writeDevPage off v) := by
  unfold State.writeDevPage
  repeat' first
    | with_reducible apply Keeps.refl
    | intro _
    | extract_lets
    | with_reducible apply Keeps.ite
    | with_reducible apply Keeps.after (State.commitArrive_keeps ..)
    | with_reducible apply Keeps.after (State.resetCmd_keeps ..)
    | with_reducible apply Keeps.after (State.takeAll_keeps ..)
    | split
    | dsimp +zetaDelta only

theorem State.writePwrPage_keeps (s : State) (off v : Nat) : Keeps s (s.writePwrPage off v) := by
  unfold State.writePwrPage
  repeat' first
    | with_reducible apply Keeps.refl
    | intro _
    | extract_lets
    | with_reducible apply Keeps.ite
    | with_reducible apply Keeps.after (State.stkCmd_keeps ..)
    | with_reducible apply Keeps.after (State.writeHrCfg_keeps ..)
    | split
    | dsimp +zetaDelta only

theorem State.alignDrawn_keeps (s : State) : Keeps s s.alignDrawn := (State.draw_keeps s).trans (State.alignGt_keeps ..)

theorem State.writeSynPage_keeps (s : State) (off v : Nat) : Keeps s (s.writeSynPage off v) := by
  unfold State.writeSynPage
  repeat' first
    | with_reducible apply Keeps.refl
    | intro _
    | extract_lets
    | with_reducible apply Keeps.ite
    | with_reducible apply Keeps.after (State.linkDue_keeps ..)
    | with_reducible apply Keeps.after (State.hostPulse_keeps ..)
    | with_reducible apply Keeps.after (State.acceptStart_keeps ..)
    | with_reducible apply Keeps.after (State.acceptStopEvent_keeps ..)
    | with_reducible apply Keeps.after (State.writeNywCfg_keeps ..)
    | with_reducible apply Keeps.after (State.alignDrawn_keeps ..)
    | with_reducible apply Keeps.after (State.retrain_keeps ..)
    | with_reducible apply Keeps.after (State.nywPost_keeps ..)
    | with_reducible apply Keeps.after (State.linkJump_keeps ..)
    | with_reducible apply Keeps.after (State.writeTrigCfg_keeps ..)
    | with_reducible apply Keeps.after (State.writePlain_keeps ..)
    | split
    | dsimp +zetaDelta only

theorem State.writeHstPage_keeps (s : State) (off v : Nat) : Keeps s (s.writeHstPage off v) := by
  unfold State.writeHstPage
  repeat' first
    | with_reducible apply Keeps.refl
    | intro _
    | extract_lets
    | with_reducible apply Keeps.ite
    | with_reducible apply Keeps.after (State.writeBar2Win_keeps ..)
    | with_reducible apply Keeps.after (State.writeHvsRing_keeps ..)
    | with_reducible apply Keeps.after (State.writeCons_keeps ..)
    | with_reducible apply Keeps.after (State.writeHvsWm_keeps ..)
    | with_reducible apply Keeps.after (State.writeHvsSwm_keeps ..)
    | with_reducible apply Keeps.after (State.writePlain_keeps ..)
    | split
    | dsimp +zetaDelta only

theorem State.writeFltPage_keeps (s : State) (off v : Nat) : Keeps s (s.writeFltPage off v) := by
  unfold State.writeFltPage
  repeat' first
    | with_reducible apply Keeps.refl
    | intro _
    | extract_lets
    | with_reducible apply Keeps.ite
    | with_reducible apply Keeps.after (State.writeDiv_keeps ..)
    | with_reducible apply Keeps.after (State.writePol_keeps ..)
    | with_reducible apply Keeps.after (State.aliveResumeCmd_keeps ..)
    | with_reducible apply Keeps.after (State.modFlt_keeps ..)
    | with_reducible apply Keeps.after (State.writeLogCons_keeps ..)
    | with_reducible apply Keeps.after (State.writeLogWm_keeps ..)
    | with_reducible apply Keeps.after (State.writeFltRegs_keeps ..)
    | split
    | dsimp +zetaDelta only

theorem State.writeMchPage_keeps (s : State) (off v : Nat) : Keeps s (s.writeMchPage off v) := by
  unfold State.writeMchPage
  repeat' first
    | with_reducible apply Keeps.refl
    | intro _
    | extract_lets
    | with_reducible apply Keeps.ite
    | with_reducible apply Keeps.after (State.writeMarchCfg_keeps ..)
    | with_reducible apply Keeps.after (State.marchStartCmd_keeps ..)
    | with_reducible apply Keeps.after (State.marchAbortCmd_keeps ..)
    | with_reducible apply Keeps.after (State.repairStart_keeps ..)
    | split
    | dsimp +zetaDelta only

theorem State.writeSecPage_keeps (s : State) (off v : Nat) : Keeps s (s.writeSecPage off v) := by
  unfold State.writeSecPage
  repeat' first
    | with_reducible apply Keeps.refl
    | intro _
    | extract_lets
    | with_reducible apply Keeps.ite
    | with_reducible apply Keeps.after (State.lcRequest_keeps ..)
    | with_reducible apply Keeps.after (State.writeKek_keeps ..)
    | with_reducible apply Keeps.after (State.keyCmd_keeps ..)
    | with_reducible apply Keeps.after (State.writeKeyData_keeps ..)
    | with_reducible apply Keeps.after (State.storeWord_keeps ..)
    | with_reducible apply Keeps.after (State.eraseStart_keeps ..)
    | with_reducible apply Keeps.after (State.writePlain_keeps ..)
    | split
    | dsimp +zetaDelta only

theorem State.writeDevice_keeps (s : State) (p off v : Nat) : Keeps s (s.writeDevice p off v) := by
  unfold State.writeDevice
  repeat' first
    | with_reducible apply Keeps.refl
    | intro _
    | extract_lets
    | with_reducible apply Keeps.ite
    | with_reducible apply Keeps.after (State.writeDevPage_keeps ..)
    | with_reducible apply Keeps.after (State.writePwrPage_keeps ..)
    | with_reducible apply Keeps.after (State.take_keeps ..)
    | with_reducible apply Keeps.after (State.writeSynPage_keeps ..)
    | with_reducible apply Keeps.after (State.writeHstPage_keeps ..)
    | with_reducible apply Keeps.after (State.writeTrapAddr_keeps ..)
    | with_reducible apply Keeps.after (State.writePlain_keeps ..)
    | with_reducible apply Keeps.after (State.writeFltPage_keeps ..)
    | with_reducible apply Keeps.after (State.writeScrubCfg_keeps ..)
    | with_reducible apply Keeps.after (State.bankCmd_keeps ..)
    | with_reducible apply Keeps.after (State.writeMchPage_keeps ..)
    | with_reducible apply Keeps.after (State.writeSecPage_keeps ..)
    | with_reducible apply Keeps.after (State.writeSubsys_keeps ..)
    | with_reducible apply Keeps.after (State.injStart_keeps ..)
    | split
    | dsimp +zetaDelta only

theorem State.writeHeader_keeps (s : State) (p off v : Nat) : Keeps s (s.writeHeader p off v) := by
  unfold State.writeHeader
  repeat' first
    | with_reducible apply Keeps.refl
    | intro _
    | extract_lets
    | with_reducible apply Keeps.ite
    | with_reducible apply Keeps.after (State.setReg_keeps ..)
    | with_reducible apply Keeps.after (State.startReset_keeps ..)
    | with_reducible apply Keeps.after (State.clearEvt_keeps ..)
    | with_reducible apply Keeps.after (State.writePlain_keeps ..)
    | split
    | dsimp +zetaDelta only

theorem State.regAct_keeps (s : State) (addr v : Nat) : Keeps s (s.regAct addr v) := by
  unfold State.regAct
  repeat' first
    | with_reducible apply Keeps.refl
    | intro _
    | extract_lets
    | with_reducible apply Keeps.ite
    | with_reducible apply Keeps.after (State.writeHeader_keeps ..)
    | with_reducible apply Keeps.after (State.writeWindow_keeps ..)
    | with_reducible apply Keeps.after (State.writeCluster_keeps ..)
    | with_reducible apply Keeps.after (State.writeDevice_keeps ..)
    | split
    | dsimp +zetaDelta only

theorem State.bar0Lost_keeps (s : State) : Keeps s (s.bar0Lost) := by
  unfold State.bar0Lost
  repeat' first
    | with_reducible apply Keeps.refl
    | intro _
    | extract_lets
    | with_reducible apply Keeps.ite
    | with_reducible apply Keeps.after (State.modHost_keeps ..)
    | split
    | dsimp +zetaDelta only

theorem State.bar0Write_keeps (s : State) (addr size : Nat) (v : Word) : Keeps s (s.bar0Write addr size v) := by
  unfold State.bar0Write
  repeat' first
    | with_reducible apply Keeps.refl
    | intro _
    | extract_lets
    | with_reducible apply Keeps.ite
    | with_reducible apply Keeps.after (State.writeMsix_keeps ..)
    | with_reducible apply Keeps.after (State.regAct_keeps ..)
    | with_reducible apply Keeps.after (State.bar0Lost_keeps ..)
    | split
    | dsimp +zetaDelta only

theorem State.modeRegWrite_keeps (s : State) (w : WinId) (v : Nat) : Keeps s (s.modeRegWrite w v) := by
  unfold State.modeRegWrite
  extract_lets code tag d e
  exact Keeps.ite (State.earlyLost_keeps s) (((State.drawCheck_keeps s).trans (State.drawCheck_keeps _)).trans
    (State.modeArrive_keeps _ _ _ _ _ _ fun _ => State.modeCmd_keeps ..))

theorem State.bcastRegWrite_keeps (s : State) (c : CluId) (v : Nat) : Keeps s (s.bcastRegWrite c v) :=
  (State.drawChecks_keeps s 17).trans (State.broadcast_keeps ..)

theorem State.regWriteAt_keeps (s : State) (addr : BitVec 25) (size : Nat) (v : Word) : Keeps s (s.regWriteAt addr size v) := by
  unfold State.regWriteAt
  repeat' first
    | with_reducible apply Keeps.refl
    | intro _
    | extract_lets
    | with_reducible apply Keeps.ite
    | with_reducible apply Keeps.after (State.modeRegWrite_keeps ..)
    | with_reducible apply Keeps.after (State.bcastRegWrite_keeps ..)
    | with_reducible apply Keeps.after (State.hostWrite_keeps ..)
    | with_reducible apply Keeps.after (State.bar0Write_keeps ..)
    | split
    | dsimp +zetaDelta only

theorem State.jtagAccess_keeps (s : State) (op : JtagOp) : Keeps s (s.jtagAccess op) := by
  unfold State.jtagAccess
  repeat' first
    | with_reducible apply Keeps.refl
    | intro _
    | extract_lets
    | with_reducible apply Keeps.ite
    | with_reducible apply Keeps.after (State.sample_keeps ..)
    | with_reducible apply Keeps.after (State.emit_keeps ..)
    | with_reducible apply Keeps.after (State.raiseDev_keeps ..)
    | with_reducible apply Keeps.after (State.modKeep_keeps _ _ (by first | rfl | simp))
    | split
    | dsimp +zetaDelta only

end Sys2Proof.Machine
end

