-- ==== Sys2Proof/Laws/KeepsExec.lean ====
section
/-!
SUPPORT. Sys2Proof/Laws/KeepsExec.lean: every command answers a next state, moves the model's clock by the time it states and otherwise
does only what `Keeps` allows.
-/

namespace Sys2Proof.Machine

/-- A command that took `dt` answers a next state which differs from `s` by the clock and by what `Keeps` allows. -/
def Advances (s : State) (dt : Nat) (o : Host.Outcome State Fault Refusal) : Prop :=
  ∃ t, o = .next t ∧ Keeps { s with now := s.now + dt } t

theorem execStrobeClose_advances (dt : Nat) (w : WinId) (levels : List (BitVec 2)) (final : BitVec 2) (drained : Nat) (s : State) : Advances s dt (execStrobeClose dt w levels final drained s) :=
  ⟨_, rfl, (State.advance_keeps s dt).trans (State.closeStrobe_keeps ..)⟩

theorem execVerdictGapWrite_advances (dt : Nat) (w : WinId) (s : State) : Advances s dt (execVerdictGapWrite dt w s) :=
  ⟨_, rfl, (State.advance_keeps s dt).trans (State.verdictGap_keeps ..)⟩

theorem execQueueDropGap_advances (dt : Nat) (w : WinId) (s : State) : Advances s dt (execQueueDropGap dt w s) :=
  ⟨_, rfl, (State.advance_keeps s dt).trans (State.queueGap_keeps ..)⟩

theorem execCaptureFlushed_advances (dt : Nat) (w : WinId) (s : State) : Advances s dt (execCaptureFlushed dt w s) :=
  ⟨_, rfl, (State.advance_keeps s dt).trans (State.flushCapture_keeps ..)⟩

theorem execLogBufferDrain_advances (dt : Nat) (w : WinId) (s : State) : Advances s dt (execLogBufferDrain dt w s) :=
  ⟨_, rfl, (State.advance_keeps s dt).trans (State.drainLog_keeps ..)⟩

theorem execBurstStart_advances (dt : Nat) (w : WinId) (s : State) : Advances s dt (execBurstStart dt w s) :=
  ⟨_, rfl, (State.advance_keeps s dt).trans (State.burstBegin_keeps ..)⟩

theorem execLandingEnd_advances (dt : Nat) (w : WinId) (s : State) : Advances s dt (execLandingEnd dt w s) :=
  ⟨_, rfl, (State.advance_keeps s dt).trans (State.landEnd_keeps ..)⟩

theorem execDescriptorFetch_advances (dt : Nat) (w : WinId) (role : Role) (ecc : EntryReads) (s : State) : Advances s dt (execDescriptorFetch dt w role ecc s) :=
  ⟨_, rfl, ((State.advance_keeps s dt).trans (State.cacheRead_keeps ..)).trans (State.fetchRole_keeps ..)⟩

theorem execStackReadDone_advances (dt : Nat) (w : WinId) (role : Role) (n : Nat) (bad laneBad : Word) (corrected : Bool) (s : State) : Advances s dt (execStackReadDone dt w role n bad laneBad corrected s) :=
  ⟨_, rfl, (State.advance_keeps s dt).trans (State.readDone_keeps ..)⟩

theorem execDecisionPoint_advances (dt : Nat) (w : WinId) (s : State) : Advances s dt (execDecisionPoint dt w s) :=
  ⟨_, rfl, (State.advance_keeps s dt).trans (State.decide__keeps ..)⟩

theorem execPlayBoundary_advances (dt : Nat) (w : WinId) (s : State) : Advances s dt (execPlayBoundary dt w s) :=
  ⟨_, rfl, (State.advance_keeps s dt).trans (State.boundary_keeps ..)⟩

theorem execVectorStart_advances (dt : Nat) (w : WinId) (ecc : WordReads) (s : State) : Advances s dt (execVectorStart dt w ecc s) :=
  ⟨_, rfl, (State.advance_keeps s dt).trans (State.startVector_keeps ..)⟩

theorem execHoldingResumePoint_advances (dt : Nat) (w : WinId) (s : State) : Advances s dt (execHoldingResumePoint dt w s) :=
  ⟨_, rfl, (State.advance_keeps s dt).trans (State.resumePoint_keeps ..)⟩

theorem execHoldingPassEnd_advances (dt : Nat) (w : WinId) (s : State) : Advances s dt (execHoldingPassEnd dt w s) :=
  ⟨_, rfl, (State.advance_keeps s dt).trans (State.passEnd_keeps ..)⟩

theorem execStageApply_advances (dt : Nat) (w : WinId) (s : State) : Advances s dt (execStageApply dt w s) :=
  ⟨_, rfl, (State.advance_keeps s dt).trans (State.stageNow_keeps ..)⟩

theorem execJumpReq_advances (dt : Nat) (w : WinId) (slot : BitVec 2) (s : State) : Advances s dt (execJumpReq dt w slot s) :=
  ⟨_, rfl, (State.advance_keeps s dt).trans (State.hostWrite_keeps _ _ _ _ (State.jumpRequest_keeps ..))⟩

theorem execJumpClr_advances (dt : Nat) (w : WinId) (s : State) : Advances s dt (execJumpClr dt w s) :=
  ⟨_, rfl, (State.advance_keeps s dt).trans (State.hostWrite_keeps _ _ _ _ (State.clearJumps_keeps ..))⟩

theorem execJumpTgtWrite_advances (dt : Nat) (w : WinId) (k : BitVec 2) (val : BitVec 32) (s : State) : Advances s dt (execJumpTgtWrite dt w k val s) :=
  ⟨_, rfl, (State.advance_keeps s dt).trans (State.hostWrite_keeps _ _ _ _ (State.writeJumpTgt_keeps ..))⟩

theorem execJumpHeadReady_advances (dt : Nat) (w : WinId) (k : BitVec 2) (reads : JumpReads) (s : State) : Advances s dt (execJumpHeadReady dt w k reads s) :=
  ⟨_, rfl, (State.advance_keeps s dt).trans (State.jumpHead_keeps ..)⟩

theorem execHostFlagWrite_advances (dt : Nat) (w : WinId) (val : Byte) (s : State) : Advances s dt (execHostFlagWrite dt w val s) :=
  ⟨_, rfl, (State.advance_keeps s dt).trans (State.hostWrite_keeps _ _ _ _ (State.setHostFlags_keeps ..))⟩

theorem execHostFlagSet_advances (dt : Nat) (w : WinId) (val : Byte) (s : State) : Advances s dt (execHostFlagSet dt w val s) :=
  ⟨_, rfl, (State.advance_keeps s dt).trans (State.hostWrite_keeps _ _ _ _ (State.setHostFlags_keeps ..))⟩

theorem execHostFlagClr_advances (dt : Nat) (w : WinId) (val : Byte) (s : State) : Advances s dt (execHostFlagClr dt w val s) :=
  ⟨_, rfl, (State.advance_keeps s dt).trans (State.hostWrite_keeps _ _ _ _ (State.setHostFlags_keeps ..))⟩

theorem execFabRouteWrite_advances (dt : Nat) (c : CluId) (i : Byte) (val : BitVec 32) (s : State) : Advances s dt (execFabRouteWrite dt c i val s) :=
  ⟨_, rfl, (State.advance_keeps s dt).trans (State.hostWrite_keeps _ _ _ _ (State.writeRoute_keeps ..))⟩

theorem execFabExportWrite_advances (dt : Nat) (c : CluId) (e : BitVec 3) (val : BitVec 32) (s : State) : Advances s dt (execFabExportWrite dt c e val s) :=
  ⟨_, rfl, (State.advance_keeps s dt).trans (State.hostWrite_keeps _ _ _ _ (State.writeExport_keeps ..))⟩

theorem execFabricInputChange_advances (dt : Nat) (w : WinId) (i : BitVec 4) (s : State) : Advances s dt (execFabricInputChange dt w i s) :=
  ⟨_, rfl, (State.advance_keeps s dt).trans (State.modFb_keeps ..)⟩

theorem execIntProdWrite_advances (dt : Nat) (w : WinId) (val : BitVec 32) (s : State) : Advances s dt (execIntProdWrite dt w val s) :=
  ⟨_, rfl, (State.advance_keeps s dt).trans (State.hostWrite_keeps _ _ _ _ (State.writeIntProd_keeps ..))⟩

theorem execIntakeReadRequest_advances (dt : Nat) (s : State) : Advances s dt (execIntakeReadRequest dt s) :=
  ⟨_, rfl, (State.advance_keeps s dt).trans (State.intakeIssue_keeps ..)⟩

theorem execReadCompletion_advances (dt : Nat) (tag : Nat) (data : List Byte) (status : CplStatus) (reads : IntakeReads) (s : State) : Advances s dt (execReadCompletion dt tag data status reads s) :=
  ⟨_, rfl, (State.advance_keeps s dt).trans (State.completion_keeps ..)⟩

theorem execConsIndexPost_advances (dt : Nat) (w : WinId) (s : State) : Advances s dt (execConsIndexPost dt w s) :=
  ⟨_, rfl, (State.advance_keeps s dt).trans (State.postCons_keeps ..)⟩

theorem execCplTimeout_advances (dt : Nat) (tag : Nat) (s : State) : Advances s dt (execCplTimeout dt tag s) :=
  ⟨_, rfl, (State.advance_keeps s dt).trans (State.timeout_keeps ..)⟩

theorem execIntRingWrite_advances (dt : Nat) (w : WinId) (val : Word) (s : State) : Advances s dt (execIntRingWrite dt w val s) :=
  ⟨_, rfl, (State.advance_keeps s dt).trans (State.hostWrite_keeps _ _ _ _ (State.writeIntRing_keeps ..))⟩

theorem execSluCfgWrite_advances (dt : Nat) (w : WinId) (val : BitVec 32) (s : State) : Advances s dt (execSluCfgWrite dt w val s) :=
  ⟨_, rfl, (State.advance_keeps s dt).trans (State.hostWrite_keeps _ _ _ _ (State.writeSluCfg_keeps ..))⟩

theorem execLossOfLock_advances (dt : Nat) (refMissing : Bool) (s : State) : Advances s dt (execLossOfLock dt refMissing s) :=
  ⟨_, rfl, (State.advance_keeps s dt).trans (State.loseLock_keeps ..)⟩

theorem execReferenceReturn_advances (dt : Nat) (phase : BitVec 40) (s : State) : Advances s dt (execReferenceReturn dt phase s) :=
  ⟨_, rfl, (State.advance_keeps s dt).trans (State.refReturn_keeps ..)⟩

theorem execRelockDone_advances (dt : Nat) (s : State) : Advances s dt (execRelockDone dt s) :=
  ⟨_, rfl, (State.advance_keeps s dt).trans (State.relock_keeps ..)⟩


theorem execStageCmd_advances (dt : Nat) (w : WinId) (point : BitVec 2) (s : State) : Advances s dt (execStageCmd dt w point s) :=
  ⟨_, rfl, (State.advance_keeps s dt).trans (State.hostWrite_keeps _ _ _ _ (State.stage_keeps ..))⟩

theorem execCalMeasure_advances (dt : Nat) (w : WinId) (s : State) : Advances s dt (execCalMeasure dt w s) :=
  ⟨_, rfl, (State.advance_keeps s dt).trans (State.hostWrite_keeps _ _ _ _ (State.calStart_keeps ..))⟩

theorem execCalMeasureApply_advances (dt : Nat) (w : WinId) (s : State) : Advances s dt (execCalMeasureApply dt w s) :=
  ⟨_, rfl, (State.advance_keeps s dt).trans (State.hostWrite_keeps _ _ _ _ (State.calStart_keeps ..))⟩

theorem execRestoreSeed_advances (dt : Nat) (w : WinId) (s : State) : Advances s dt (execRestoreSeed dt w s) :=
  ⟨_, rfl, (State.advance_keeps s dt).trans (State.hostWrite_keeps _ _ _ _ (State.calRestore_keeps ..))⟩

theorem execCalDone_advances (dt : Nat) (w : WinId) (terms : BitVec 60) (tj : Byte) (seen : Bool) (s : State) : Advances s dt (execCalDone dt w terms tj seen s) :=
  ⟨_, rfl, (State.advance_keeps s dt).trans (State.calEnd_keeps ..)⟩

theorem execCalPathWrite_advances (dt : Nat) (w : WinId) (val : BitVec 32) (s : State) : Advances s dt (execCalPathWrite dt w val s) :=
  ⟨_, rfl, (State.advance_keeps s dt).trans (State.hostWrite_keeps _ _ _ _ (State.writeCalPath_keeps ..))⟩

theorem execDriftMeasure_advances (dt : Nat) (slot : SlotId) (reading : Int) (s : State) : Advances s dt (execDriftMeasure dt slot reading s) :=
  ⟨_, rfl, (State.advance_keeps s dt).trans (State.driftRead_keeps ..)⟩

theorem execLevelWrite_advances (dt : Nat) (w : WinId) (reg : LvlReg) (val : Word) (s : State) : Advances s dt (execLevelWrite dt w reg val s) :=
  ⟨_, rfl, (State.advance_keeps s dt).trans (State.hostWrite_keeps _ _ _ _ (State.writeLevel_keeps ..))⟩

theorem execLevelSettled_advances (dt : Nat) (w : WinId) (s : State) : Advances s dt (execLevelSettled dt w s) :=
  ⟨_, rfl, (State.advance_keeps s dt).trans (State.settleLevels_keeps ..)⟩

theorem execTermWrite_advances (dt : Nat) (w : WinId) (val : BitVec 32) (s : State) : Advances s dt (execTermWrite dt w val s) :=
  ⟨_, rfl, (State.advance_keeps s dt).trans (State.hostWrite_keeps _ _ _ _ (State.writeTerm_keeps ..))⟩

theorem execPmuCfgWrite_advances (dt : Nat) (w : WinId) (val : BitVec 32) (s : State) : Advances s dt (execPmuCfgWrite dt w val s) :=
  ⟨_, rfl, (State.advance_keeps s dt).trans (State.hostWrite_keeps _ _ _ _ (State.writePmuCfg_keeps ..))⟩

theorem execPmuSettled_advances (dt : Nat) (w : WinId) (s : State) : Advances s dt (execPmuSettled dt w s) :=
  ⟨_, rfl, (State.advance_keeps s dt).trans (State.pmuSettledNow_keeps ..)⟩

theorem execPmuMeasCmd_advances (dt : Nat) (w : WinId) (n : BitVec 16) (wait : Bool) (s : State) : Advances s dt (execPmuMeasCmd dt w n wait s) :=
  ⟨_, rfl, (State.advance_keeps s dt).trans (State.hostWrite_keeps _ _ _ _ (State.pmuMeas_keeps ..))⟩

theorem execPmuMeasDone_advances (dt : Nat) (w : WinId) (s : State) : Advances s dt (execPmuMeasDone dt w s) :=
  ⟨_, rfl, (State.advance_keeps s dt).trans (State.pmuFinish_keeps ..)⟩

theorem execPpmuSample_advances (dt : Nat) (w : WinId) (code : BitVec 16) (clamped : Bool) (s : State) : Advances s dt (execPpmuSample dt w code clamped s) :=
  ⟨_, rfl, (State.advance_keeps s dt).trans (State.sample_keeps ..)⟩

theorem execCloseCal_advances (dt : Nat) (w : WinId) (check : BitVec 16) (s : State) : Advances s dt (execCloseCal dt w check s) :=
  ⟨_, rfl, (State.advance_keeps s dt).trans (State.hostWrite_keeps _ _ _ _ (State.swCmd_keeps ..))⟩

theorem execOpenCal_advances (dt : Nat) (w : WinId) (check : BitVec 16) (s : State) : Advances s dt (execOpenCal dt w check s) :=
  ⟨_, rfl, (State.advance_keeps s dt).trans (State.hostWrite_keeps _ _ _ _ (State.swCmd_keeps ..))⟩

theorem execSwOpDone_advances (dt : Nat) (w : WinId) (s : State) : Advances s dt (execSwOpDone dt w s) :=
  ⟨_, rfl, (State.advance_keeps s dt).trans (State.swDone_keeps ..)⟩

theorem execSwFlush_advances (dt : Nat) (c : CluId) (s : State) : Advances s dt (execSwFlush dt c s) :=
  ⟨_, rfl, (State.advance_keeps s dt).trans (State.hostWrite_keeps _ _ _ _ (State.swFlushStart_keeps ..))⟩

theorem execSwFlushDone_advances (dt : Nat) (c : CluId) (s : State) : Advances s dt (execSwFlushDone dt c s) :=
  ⟨_, rfl, (State.advance_keeps s dt).trans (State.swFlushEnd_keeps ..)⟩

theorem execSwap_advances (dt : Nat) (c : CluId) (pos : BitVec 4) (s : State) : Advances s dt (execSwap dt c pos s) :=
  ⟨_, rfl, (State.advance_keeps s dt).trans (State.hostWrite_keeps _ _ _ _ (State.swapCmd_keeps ..))⟩

theorem execSwapDone_advances (dt : Nat) (c : CluId) (s : State) : Advances s dt (execSwapDone dt c s) :=
  ⟨_, rfl, (State.advance_keeps s dt).trans (State.swapEnd_keeps ..)⟩

theorem execPowerOff_advances (dt : Nat) (w : WinId) (tag : Byte) (check : BitVec 16) (s : State) : Advances s dt (execPowerOff dt w tag check s) :=
  ⟨_, rfl, (State.advance_keeps s dt).trans (State.modeArrive_keeps _ _ _ _ _ _ (fun _ => State.cmdPowerOff_keeps ..))⟩

theorem execPark_advances (dt : Nat) (w : WinId) (tag : Byte) (check : BitVec 16) (s : State) : Advances s dt (execPark dt w tag check s) :=
  ⟨_, rfl, (State.advance_keeps s dt).trans (State.modeArrive_keeps _ _ _ _ _ _ (fun _ => State.cmdPark_keeps ..))⟩

theorem execConnect_advances (dt : Nat) (w : WinId) (tag : Byte) (check calCheck : BitVec 16) (s : State) : Advances s dt (execConnect dt w tag check calCheck s) :=
  ⟨_, rfl, (State.advance_keeps s dt).trans (State.modeArrive_keeps _ _ _ _ _ _ (fun _ => State.cmdConnect_keeps ..))⟩

theorem execArm_advances (dt : Nat) (w : WinId) (tag : Byte) (reads : ArmReads) (s : State) : Advances s dt (execArm dt w tag reads s) :=
  ⟨_, rfl, (State.advance_keeps s dt).trans (State.modeArrive_keeps _ _ _ _ _ _ (fun _ => State.cmdArm_keeps ..))⟩

theorem execDisarm_advances (dt : Nat) (w : WinId) (tag : Byte) (s : State) : Advances s dt (execDisarm dt w tag s) :=
  ⟨_, rfl, (State.advance_keeps s dt).trans (State.modeArrive_keeps _ _ _ _ _ _ (fun _ => State.cmdDisarm_keeps ..))⟩

theorem execStart_advances (dt : Nat) (w : WinId) (tag : Byte) (s : State) : Advances s dt (execStart dt w tag s) :=
  ⟨_, rfl, (State.advance_keeps s dt).trans (State.modeArrive_keeps _ _ _ _ _ _ (fun _ => State.cmdStart_keeps ..))⟩

theorem execStop_advances (dt : Nat) (w : WinId) (tag : Byte) (s : State) : Advances s dt (execStop dt w tag s) :=
  ⟨_, rfl, (State.advance_keeps s dt).trans (State.modeArrive_keeps _ _ _ _ _ _ (fun _ => State.cmdStop_keeps ..))⟩

theorem execService_advances (dt : Nat) (w : WinId) (tag : Byte) (check : BitVec 16) (s : State) : Advances s dt (execService dt w tag check s) :=
  ⟨_, rfl, (State.advance_keeps s dt).trans (State.modeArrive_keeps _ _ _ _ _ _ (fun _ => State.cmdService_keeps ..))⟩

theorem execModeCmdReserved_advances (dt : Nat) (w : WinId) (code : BitVec 4) (tag : Byte) (s : State) : Advances s dt (execModeCmdReserved dt w code tag s) :=
  ⟨_, rfl, (State.advance_keeps s dt).trans (State.modeArrive_keeps _ _ _ _ _ _ (fun _ => State.modeCmd_keeps ..))⟩

theorem execModeBcast_advances (dt : Nat) (c : CluId) (cmd : BitVec 4) (tag : Byte) (mask : BitVec 17) (checks : List (BitVec 16 × BitVec 16 × ArmReads)) (s : State) : Advances s dt (execModeBcast dt c cmd tag mask checks s) :=
  ⟨_, rfl, (State.advance_keeps s dt).trans (State.broadcast_keeps ..)⟩

theorem execModeTransitionDone_advances (dt : Nat) (w : WinId) (s : State) : Advances s dt (execModeTransitionDone dt w s) :=
  ⟨_, rfl, (State.advance_keeps s dt).trans (State.transitionDone_keeps ..)⟩

theorem execSwitchTimeout_advances (dt : Nat) (w : WinId) (s : State) : Advances s dt (execSwitchTimeout dt w s) :=
  ⟨_, rfl, (State.advance_keeps s dt).trans (State.switchFails_keeps ..)⟩

theorem execReadyDriveWrite_advances (dt : Nat) (w : WinId) (val : BitVec 32) (s : State) : Advances s dt (execReadyDriveWrite dt w val s) :=
  ⟨_, rfl, (State.advance_keeps s dt).trans (State.hostWrite_keeps _ _ _ _ (State.writeReadyDrive_keeps ..))⟩

theorem execAfePwrReqOn_advances (dt : Nat) (c : CluId) (s : State) : Advances s dt (execAfePwrReqOn dt c s) :=
  ⟨_, rfl, (State.advance_keeps s dt).trans (State.hostWrite_keeps _ _ _ _ (State.afeReqOn_keeps ..))⟩

theorem execAfePwrReqOff_advances (dt : Nat) (c : CluId) (s : State) : Advances s dt (execAfePwrReqOff dt c s) :=
  ⟨_, rfl, (State.advance_keeps s dt).trans (State.hostWrite_keeps _ _ _ _ (State.afeReqOff_keeps ..))⟩

theorem execAfePowerUpDone_advances (dt : Nat) (c : CluId) (s : State) : Advances s dt (execAfePowerUpDone dt c s) :=
  ⟨_, rfl, (State.advance_keeps s dt).trans (State.afeUp_keeps ..)⟩

theorem execHeadroomUpdate_advances (dt : Nat) (c : CluId) (capacity : BitVec 12) (s : State) : Advances s dt (execHeadroomUpdate dt c capacity s) :=
  ⟨_, rfl, (State.advance_keeps s dt).trans (State.headroomPost_keeps ..)⟩

theorem execCapAreaWrite_advances (dt : Nat) (w : WinId) (val : BitVec 32) (s : State) : Advances s dt (execCapAreaWrite dt w val s) :=
  ⟨_, rfl, (State.advance_keeps s dt).trans (State.hostWrite_keeps _ _ _ _ (State.writeCapArea_keeps ..))⟩

theorem execComparatorEdge_advances (dt : Nat) (w : WinId) (rising counted : Bool) (s : State) : Advances s dt (execComparatorEdge dt w rising counted s) :=
  ⟨_, rfl, (State.advance_keeps s dt).trans (State.edgeAt_keeps ..)⟩

theorem execStampTransfer_advances (dt : Nat) (w : WinId) (s : State) : Advances s dt (execStampTransfer dt w s) :=
  ⟨_, rfl, (State.advance_keeps s dt).trans (State.transfer_keeps ..)⟩

theorem execStampLostGap_advances (dt : Nat) (w : WinId) (s : State) : Advances s dt (execStampLostGap dt w s) :=
  ⟨_, rfl, (State.advance_keeps s dt).trans (State.lostGapNow_keeps ..)⟩

theorem execStampArm_advances (dt : Nat) (w : WinId) (s : State) : Advances s dt (execStampArm dt w s) :=
  ⟨_, rfl, (State.advance_keeps s dt).trans (State.hostWrite_keeps _ _ _ _ (State.stpCmd_keeps ..))⟩

theorem execStampDisarm_advances (dt : Nat) (w : WinId) (s : State) : Advances s dt (execStampDisarm dt w s) :=
  ⟨_, rfl, (State.advance_keeps s dt).trans (State.hostWrite_keeps _ _ _ _ (State.stpCmd_keeps ..))⟩

theorem execEngineSample_advances (dt : Nat) (w : WinId) (s : State) : Advances s dt (execEngineSample dt w s) :=
  ⟨_, rfl, (State.advance_keeps s dt).trans (State.engSample_keeps ..)⟩

theorem execAcqTimerExpiry_advances (dt : Nat) (w : WinId) (k : BitVec 2) (s : State) : Advances s dt (execAcqTimerExpiry dt w k s) :=
  ⟨_, rfl, (State.advance_keeps s dt).trans (State.expireTimer_keeps ..)⟩

theorem execEngineStart_advances (dt : Nat) (w : WinId) (s : State) : Advances s dt (execEngineStart dt w s) :=
  ⟨_, rfl, (State.advance_keeps s dt).trans (State.hostWrite_keeps _ _ _ _ (State.engCmd_keeps ..))⟩

theorem execEngineStop_advances (dt : Nat) (w : WinId) (s : State) : Advances s dt (execEngineStop dt w s) :=
  ⟨_, rfl, (State.advance_keeps s dt).trans (State.hostWrite_keeps _ _ _ _ (State.engCmd_keeps ..))⟩

theorem execHostEvt_advances (dt : Nat) (w : WinId) (sel : BitVec 3) (s : State) : Advances s dt (execHostEvt dt w sel s) :=
  ⟨_, rfl, (State.advance_keeps s dt).trans (State.hostWrite_keeps _ _ _ _ (State.hostEvent_keeps ..))⟩

theorem execEngineActionEffect_advances (dt : Nat) (w : WinId) (s : State) : Advances s dt (execEngineActionEffect dt w s) :=
  ⟨_, rfl, (State.advance_keeps s dt).trans (State.engEffect_keeps ..)⟩

theorem execTrigPulseEnd_advances (dt : Nat) (line : BitVec 3) (s : State) : Advances s dt (execTrigPulseEnd dt line s) :=
  ⟨_, rfl, (State.advance_keeps s dt).trans (State.pulseEnd_keeps ..)⟩

theorem execRedArm_advances (dt : Nat) (w : WinId) (s : State) : Advances s dt (execRedArm dt w s) :=
  ⟨_, rfl, (State.advance_keeps s dt).trans (State.hostWrite_keeps _ _ _ _ (State.redCmd_keeps ..))⟩

theorem execRedDisarm_advances (dt : Nat) (w : WinId) (s : State) : Advances s dt (execRedDisarm dt w s) :=
  ⟨_, rfl, (State.advance_keeps s dt).trans (State.hostWrite_keeps _ _ _ _ (State.redCmd_keeps ..))⟩

theorem execWinArm_advances (dt : Nat) (w : WinId) (s : State) : Advances s dt (execWinArm dt w s) :=
  ⟨_, rfl, (State.advance_keeps s dt).trans (State.hostWrite_keeps _ _ _ _ (State.winCmd_keeps ..))⟩

theorem execWinAbandon_advances (dt : Nat) (w : WinId) (s : State) : Advances s dt (execWinAbandon dt w s) :=
  ⟨_, rfl, (State.advance_keeps s dt).trans (State.hostWrite_keeps _ _ _ _ (State.winCmd_keeps ..))⟩

theorem execHarvestTake_advances (dt : Nat) (c : CluId) (s : State) : Advances s dt (execHarvestTake dt c s) :=
  ⟨_, rfl, (State.advance_keeps s dt).trans (State.harvest_keeps ..)⟩

theorem execStagingDropGap_advances (dt : Nat) (c : CluId) (s : State) : Advances s dt (execStagingDropGap dt c s) :=
  ⟨_, rfl, (State.advance_keeps s dt).trans (State.stageGap_keeps ..)⟩

theorem execStagingRefill_advances (dt : Nat) (c : CluId) (ecc : Ecc) (firstBad : Bool) (s : State) : Advances s dt (execStagingRefill dt c ecc firstBad s) :=
  ⟨_, rfl, (State.advance_keeps s dt).trans (State.refill_keeps ..)⟩

theorem execHarvestRingWrite_advances (dt : Nat) (c : CluId) (ecc : Ecc) (firstBad : Bool) (s : State) : Advances s dt (execHarvestRingWrite dt c ecc firstBad s) :=
  ⟨_, rfl, (State.advance_keeps s dt).trans (State.ringWrite_keeps ..)⟩

theorem execHvsReadyCoal_advances (dt : Nat) (c : CluId) (s : State) : Advances s dt (execHvsReadyCoal dt c s) :=
  ⟨_, rfl, (State.advance_keeps s dt).trans (State.hvsCoal_keeps ..)⟩

theorem execProdIndexPost_advances (dt : Nat) (c : CluId) (s : State) : Advances s dt (execProdIndexPost dt c s) :=
  ⟨_, rfl, (State.advance_keeps s dt).trans (State.hvsPost_keeps ..)⟩

theorem execHvsConsWrite_advances (dt : Nat) (c : CluId) (val : BitVec 32) (s : State) : Advances s dt (execHvsConsWrite dt c val s) :=
  ⟨_, rfl, (State.advance_keeps s dt).trans (State.hostWrite_keeps _ _ _ _ (State.writeCons_keeps ..))⟩

theorem execHvsRingWrite_advances (dt : Nat) (c : CluId) (val : Word) (s : State) : Advances s dt (execHvsRingWrite dt c val s) :=
  ⟨_, rfl, (State.advance_keeps s dt).trans (State.hostWrite_keeps _ _ _ _ (State.writeHvsRing_keeps ..))⟩

theorem execRetire_advances (dt : Nat) (c : CluId) (s : State) : Advances s dt (execRetire dt c s) :=
  ⟨_, rfl, (State.advance_keeps s dt).trans (State.hostWrite_keeps _ _ _ _ (State.retire_keeps ..))⟩

theorem execLedgerAppendDone_advances (dt : Nat) (verified : Bool) (s : State) : Advances s dt (execLedgerAppendDone dt verified s) :=
  ⟨_, rfl, (State.advance_keeps s dt).trans (State.appendDone_keeps ..)⟩

theorem execSubsysWrite_advances (dt : Nat) (val : BitVec 32) (s : State) : Advances s dt (execSubsysWrite dt val s) :=
  ⟨_, rfl, (State.advance_keeps s dt).trans (State.hostWrite_keeps _ _ _ _ (State.writeSubsys_keeps ..))⟩

theorem execAlivePolWrite_advances (dt : Nat) (pol : Bool) (s : State) : Advances s dt (execAlivePolWrite dt pol s) :=
  ⟨_, rfl, (State.advance_keeps s dt).trans (State.hostWrite_keeps _ _ _ _ (State.writePol_keeps ..))⟩

theorem execScrubStep_advances (dt : Nat) (target : BitVec 5) (ecc : Ecc) (_written : Bool) (s : State) : Advances s dt (execScrubStep dt target ecc _written s) :=
  ⟨_, rfl, (State.advance_keeps s dt).trans (State.scrub_keeps ..)⟩

theorem execBankOn_advances (dt : Nat) (b : BitVec 4) (s : State) : Advances s dt (execBankOn dt b s) :=
  ⟨_, rfl, (State.advance_keeps s dt).trans (State.hostWrite_keeps _ _ _ _ (State.bankCmd_keeps ..))⟩

theorem execBankRetention_advances (dt : Nat) (b : BitVec 4) (s : State) : Advances s dt (execBankRetention dt b s) :=
  ⟨_, rfl, (State.advance_keeps s dt).trans (State.hostWrite_keeps _ _ _ _ (State.bankCmd_keeps ..))⟩

theorem execBankOff_advances (dt : Nat) (b : BitVec 4) (s : State) : Advances s dt (execBankOff dt b s) :=
  ⟨_, rfl, (State.advance_keeps s dt).trans (State.hostWrite_keeps _ _ _ _ (State.bankCmd_keeps ..))⟩

theorem execBankChangeDone_advances (dt : Nat) (b : BitVec 4) (s : State) : Advances s dt (execBankChangeDone dt b s) :=
  ⟨_, rfl, (State.advance_keeps s dt).trans (State.bankDone_keeps ..)⟩

theorem execMarchStart_advances (dt : Nat) (s : State) : Advances s dt (execMarchStart dt s) :=
  ⟨_, rfl, (State.advance_keeps s dt).trans (State.hostWrite_keeps _ _ _ _ (State.marchStartCmd_keeps ..))⟩

theorem execMarchAbort_advances (dt : Nat) (s : State) : Advances s dt (execMarchAbort dt s) :=
  ⟨_, rfl, (State.advance_keeps s dt).trans (State.hostWrite_keeps _ _ _ _ (State.marchAbortCmd_keeps ..))⟩

theorem execMarchCopyInDone_advances (dt : Nat) (row : RowReads) (s : State) : Advances s dt (execMarchCopyInDone dt row s) :=
  ⟨_, rfl, (State.advance_keeps s dt).trans (State.copiedIn_keeps ..)⟩

theorem execMarchRowTestDone_advances (dt : Nat) (stk : Bool) (failCol : Option Nat) (s : State) : Advances s dt (execMarchRowTestDone dt stk failCol s) :=
  ⟨_, rfl, (State.advance_keeps s dt).trans (State.rowTested_keeps ..)⟩

theorem execMarchCopyBackDone_advances (dt : Nat) (row : RowReads) (s : State) : Advances s dt (execMarchCopyBackDone dt row s) :=
  ⟨_, rfl, (State.advance_keeps s dt).trans (State.copiedBack_keeps ..)⟩

theorem execDestructiveMarchDone_advances (dt : Nat) (fails : List (Nat × Nat × Nat)) (s : State) : Advances s dt (execDestructiveMarchDone dt fails s) :=
  ⟨_, rfl, (State.advance_keeps s dt).trans (State.destructiveDone_keeps ..)⟩

theorem execRepairCmd_advances (dt : Nat) (b : BitVec 4) (col : BitVec 14) (s : State) : Advances s dt (execRepairCmd dt b col s) :=
  ⟨_, rfl, (State.advance_keeps s dt).trans (State.hostWrite_keeps _ _ _ _ (State.repairStart_keeps ..))⟩

theorem execRepairSwitch_advances (dt : Nat) (s : State) : Advances s dt (execRepairSwitch dt s) :=
  ⟨_, rfl, (State.advance_keeps s dt).trans (State.repairDone_keeps ..)⟩

theorem execBar2Read_advances (dt : Nat) (off : BitVec 36) (len : Nat) (ecc : Ecc) (s : State) : Advances s dt (execBar2Read dt off len ecc s) :=
  ⟨_, rfl, (State.advance_keeps s dt).trans (State.bar2Load_keeps ..)⟩

theorem execBar2Write_advances (dt : Nat) (off : BitVec 36) (data : List Byte) (ecc : PartReads) (s : State) : Advances s dt (execBar2Write dt off data ecc s) :=
  ⟨_, rfl, (State.advance_keeps s dt).trans (State.bar2Arrive_keeps ..)⟩

theorem execBar4Read_advances (dt : Nat) (off : BitVec 25) (len : Nat) (ecc : Ecc) (collide : Option Meet) (s : State) : Advances s dt (execBar4Read dt off len ecc collide s) :=
  ⟨_, rfl, (State.advance_keeps s dt).trans (State.bar4Load_keeps ..)⟩

theorem execBar4Write_advances (dt : Nat) (off : BitVec 25) (data : List Byte) (found : PortReads) (s : State) : Advances s dt (execBar4Write dt off data found s) :=
  ⟨_, rfl, (State.advance_keeps s dt).trans (State.hostWrite_keeps _ _ _ _ (State.bar4Store_keeps ..))⟩

theorem execLcCmd_advances (dt : Nat) (target : BitVec 3) (confirm : BitVec 16) (s : State) : Advances s dt (execLcCmd dt target confirm s) :=
  ⟨_, rfl, (State.advance_keeps s dt).trans (State.hostWrite_keeps _ _ _ _ (State.lcRequest_keeps ..))⟩

theorem execLcTransitionDone_advances (dt : Nat) (appendOk : Bool) (s : State) : Advances s dt (execLcTransitionDone dt appendOk s) :=
  ⟨_, rfl, (State.advance_keeps s dt).trans (State.lcDone_keeps ..)⟩

theorem execTamperMesh_advances (dt : Nat) (s : State) : Advances s dt (execTamperMesh dt s) :=
  ⟨_, rfl, (State.advance_keeps s dt).trans (State.tamper_keeps ..)⟩

theorem execTamperVoltage_advances (dt : Nat) (s : State) : Advances s dt (execTamperVoltage dt s) :=
  ⟨_, rfl, (State.advance_keeps s dt).trans (State.tamper_keeps ..)⟩

theorem execTamperClock_advances (dt : Nat) (s : State) : Advances s dt (execTamperClock dt s) :=
  ⟨_, rfl, (State.advance_keeps s dt).trans (State.tamper_keeps ..)⟩

theorem execVbatLoss_advances (dt : Nat) (s : State) : Advances s dt (execVbatLoss dt s) :=
  ⟨_, rfl, (State.advance_keeps s dt).trans (State.tamper_keeps ..)⟩

theorem execTamperCleared_advances (dt : Nat) (input : BitVec 2) (s : State) : Advances s dt (execTamperCleared dt input s) :=
  ⟨_, rfl, (State.advance_keeps s dt).trans (State.modSec_keeps ..)⟩

theorem execWipeDone_advances (dt : Nat) (s : State) : Advances s dt (execWipeDone dt s) :=
  ⟨_, rfl, (State.advance_keeps s dt).trans (State.endWipe_keeps ..)⟩

theorem execLoadPlain_advances (dt : Nat) (slot : BitVec 6) (s : State) : Advances s dt (execLoadPlain dt slot s) :=
  ⟨_, rfl, (State.advance_keeps s dt).trans (State.hostWrite_keeps _ _ _ _ (State.keyCmd_keeps ..))⟩

theorem execLoadWrapped_advances (dt : Nat) (slot : BitVec 6) (s : State) : Advances s dt (execLoadWrapped dt slot s) :=
  ⟨_, rfl, (State.advance_keeps s dt).trans (State.hostWrite_keeps _ _ _ _ (State.keyCmd_keeps ..))⟩

theorem execKeyClear_advances (dt : Nat) (slot : BitVec 6) (s : State) : Advances s dt (execKeyClear dt slot s) :=
  ⟨_, rfl, (State.advance_keeps s dt).trans (State.hostWrite_keeps _ _ _ _ (State.keyCmd_keeps ..))⟩

theorem execKeyCmdDone_advances (dt : Nat) (s : State) : Advances s dt (execKeyCmdDone dt s) :=
  ⟨_, rfl, (State.advance_keeps s dt).trans (State.keyEnd_keeps ..)⟩

theorem execStoreWrite_advances (dt : Nat) (val : Word) (s : State) : Advances s dt (execStoreWrite dt val s) :=
  ⟨_, rfl, (State.advance_keeps s dt).trans (State.hostWrite_keeps _ _ _ _ (State.storeWord_keeps ..))⟩

theorem execEraseCmd_advances (dt : Nat) (pin : BitVec 7) (all : Bool) (s : State) : Advances s dt (execEraseCmd dt pin all s) :=
  ⟨_, rfl, (State.advance_keeps s dt).trans (State.hostWrite_keeps _ _ _ _ (State.eraseStart_keeps ..))⟩

theorem execEraseDone_advances (dt : Nat) (s : State) : Advances s dt (execEraseDone dt s) :=
  ⟨_, rfl, (State.advance_keeps s dt).trans (State.eraseEnd_keeps ..)⟩

theorem execLinkUp_advances (dt : Nat) (gen : BitVec 3) (width : BitVec 5) (flit : Bool) (clocking : Clocking) (s : State) : Advances s dt (execLinkUp dt gen width flit clocking s) :=
  ⟨_, rfl, (State.advance_keeps s dt).trans (State.linkTrain_keeps ..)⟩

theorem execLinkDown_advances (dt : Nat) (s : State) : Advances s dt (execLinkDown dt s) :=
  ⟨_, rfl, (State.advance_keeps s dt).trans (State.linkLose_keeps ..)⟩

theorem execPcieReset_advances (dt : Nat) (s : State) : Advances s dt (execPcieReset dt s) :=
  ⟨_, rfl, (State.advance_keeps s dt).trans (State.resetConfig_keeps ..)⟩

theorem execLinkRetrain_advances (dt : Nat) (s : State) : Advances s dt (execLinkRetrain dt s) :=
  ⟨_, rfl, (State.advance_keeps s dt).trans (State.linkRetrained_keeps ..)⟩

theorem execAerCorr_advances (dt : Nat) (s : State) : Advances s dt (execAerCorr dt s) :=
  ⟨_, rfl, (State.advance_keeps s dt).trans (State.raiseDev_keeps ..)⟩

theorem execAerUncorr_advances (dt : Nat) (s : State) : Advances s dt (execAerUncorr dt s) :=
  ⟨_, rfl, (State.advance_keeps s dt).trans (State.raiseDev_keeps ..)⟩

theorem execD3hotEntry_advances (dt : Nat) (s : State) : Advances s dt (execD3hotEntry dt s) :=
  ⟨_, rfl, (State.advance_keeps s dt).trans (State.d3_keeps ..)⟩

theorem execD0Entry_advances (dt : Nat) (s : State) : Advances s dt (execD0Entry dt s) :=
  ⟨_, rfl, (State.advance_keeps s dt).trans (State.d0_keeps ..)⟩

theorem execConfigRequest_advances (dt : Nat) (write : Bool) (reg : BitVec 12) (val : BitVec 32) (s : State) : Advances s dt (execConfigRequest dt write reg val s) :=
  ⟨_, rfl, (State.advance_keeps s dt).trans (State.config_keeps ..)⟩

theorem execBar2Resize_advances (dt : Nat) (log2gib : BitVec 3) (s : State) : Advances s dt (execBar2Resize dt log2gib s) :=
  ⟨_, rfl, (State.advance_keeps s dt).trans (State.bar2Size_keeps ..)⟩

theorem execBar2WinWrite_advances (dt : Nat) (val : Word) (s : State) : Advances s dt (execBar2WinWrite dt val s) :=
  ⟨_, rfl, (State.advance_keeps s dt).trans (State.hostWrite_keeps _ _ _ _ (State.writeBar2Win_keeps ..))⟩

theorem execMsixUnmask_advances (dt : Nat) (vec : Byte) (s : State) : Advances s dt (execMsixUnmask dt vec s) :=
  ⟨_, rfl, (State.advance_keeps s dt).trans (State.hostWrite_keeps _ _ _ _ (State.unmaskVec_keeps ..))⟩

theorem execMsixGapEnd_advances (dt : Nat) (vec : Byte) (s : State) : Advances s dt (execMsixGapEnd dt vec s) :=
  ⟨_, rfl, (State.advance_keeps s dt).trans (State.gapEnd_keeps ..)⟩

theorem execMsixMaskedPend_advances (dt : Nat) (vec : Byte) (s : State) : Advances s dt (execMsixMaskedPend dt vec s) :=
  ⟨_, rfl, (State.advance_keeps s dt).trans (State.maskedPend_keeps ..)⟩

theorem execTrigEdge_advances (dt : Nat) (line : BitVec 3) (rising accepted : Bool) (s : State) : Advances s dt (execTrigEdge dt line rising accepted s) :=
  ⟨_, rfl, (State.advance_keeps s dt).trans (State.trigEdge_keeps ..)⟩

theorem execTrigCmd_advances (dt : Nat) (line : BitVec 3) (width : BitVec 16) (s : State) : Advances s dt (execTrigCmd dt line width s) :=
  ⟨_, rfl, (State.advance_keeps s dt).trans (State.hostWrite_keeps _ _ _ _ (State.hostPulse_keeps ..))⟩

theorem execTrigContention_advances (dt : Nat) (line : BitVec 3) (s : State) : Advances s dt (execTrigContention dt line s) :=
  ⟨_, rfl, (State.advance_keeps s dt).trans (State.contention_keeps ..)⟩

theorem execStarInEdge_advances (dt : Nat) (rising : Bool) (s : State) : Advances s dt (execStarInEdge dt rising s) :=
  ⟨_, rfl, (State.advance_keeps s dt).trans (State.starEdge_keeps ..)⟩

theorem execStarLoss_advances (dt : Nat) (s : State) : Advances s dt (execStarLoss dt s) :=
  ⟨_, rfl, (State.advance_keeps s dt).trans (State.loseStar_keeps ..)⟩

theorem execStarOutPulseEnd_advances (dt : Nat) (s : State) : Advances s dt (execStarOutPulseEnd dt s) :=
  ⟨_, rfl, (State.advance_keeps s dt).trans (State.endStarOut_keeps ..)⟩

theorem execEvtStart_advances (dt : Nat) (s : State) : Advances s dt (execEvtStart dt s) :=
  ⟨_, rfl, (State.advance_keeps s dt).trans (State.hostWrite_keeps _ _ _ _ ((State.linkDue_keeps ..).trans (State.acceptStart_keeps ..)))⟩

theorem execEvtStop_advances (dt : Nat) (s : State) : Advances s dt (execEvtStop dt s) :=
  ⟨_, rfl, (State.advance_keeps s dt).trans (State.hostWrite_keeps _ _ _ _ ((State.linkDue_keeps ..).trans (State.acceptStopEvent_keeps ..)))⟩

theorem execStartDelivery_advances (dt : Nat) (s : State) : Advances s dt (execStartDelivery dt s) :=
  ⟨_, rfl, (State.advance_keeps s dt).trans (State.deliverStarts_keeps ..)⟩

theorem execStopDelivery_advances (dt : Nat) (s : State) : Advances s dt (execStopDelivery dt s) :=
  ⟨_, rfl, (State.advance_keeps s dt).trans (State.deliverStops_keeps ..)⟩

theorem execNywenFrameSlot_advances (dt : Nat) (tx : Fin 2) (s : State) : Advances s dt (execNywenFrameSlot dt tx s) :=
  ⟨_, rfl, (State.advance_keeps s dt).trans (State.frameSlot_keeps ..)⟩

theorem execFrameIdle_advances (dt : Nat) (rx : Fin 2) (f : BitVec 80) (s : State) : Advances s dt (execFrameIdle dt rx f s) :=
  ⟨_, rfl, (State.advance_keeps s dt).trans (State.receive_keeps ..)⟩

theorem execFrameTimeLo_advances (dt : Nat) (rx : Fin 2) (f : BitVec 80) (s : State) : Advances s dt (execFrameTimeLo dt rx f s) :=
  ⟨_, rfl, (State.advance_keeps s dt).trans (State.receive_keeps ..)⟩

theorem execFrameTimeHi_advances (dt : Nat) (rx : Fin 2) (f : BitVec 80) (s : State) : Advances s dt (execFrameTimeHi dt rx f s) :=
  ⟨_, rfl, (State.advance_keeps s dt).trans (State.receive_keeps ..)⟩

theorem execFrameStart_advances (dt : Nat) (rx : Fin 2) (f : BitVec 80) (s : State) : Advances s dt (execFrameStart dt rx f s) :=
  ⟨_, rfl, (State.advance_keeps s dt).trans (State.receive_keeps ..)⟩

theorem execFrameStop_advances (dt : Nat) (rx : Fin 2) (f : BitVec 80) (s : State) : Advances s dt (execFrameStop dt rx f s) :=
  ⟨_, rfl, (State.advance_keeps s dt).trans (State.receive_keeps ..)⟩

theorem execFrameJump_advances (dt : Nat) (rx : Fin 2) (f : BitVec 80) (s : State) : Advances s dt (execFrameJump dt rx f s) :=
  ⟨_, rfl, (State.advance_keeps s dt).trans (State.receive_keeps ..)⟩

theorem execNywenDelivery_advances (dt : Nat) (n : Nat) (s : State) : Advances s dt (execNywenDelivery dt n s) :=
  ⟨_, rfl, (State.advance_keeps s dt).trans (State.deliver_keeps ..)⟩

theorem execNywenLock_advances (dt : Nat) (rx : Fin 2) (s : State) : Advances s dt (execNywenLock dt rx s) :=
  ⟨_, rfl, (State.advance_keeps s dt).trans (State.lockRx_keeps ..)⟩

theorem execNywenLoss_advances (dt : Nat) (rx : Fin 2) (s : State) : Advances s dt (execNywenLoss dt rx s) :=
  ⟨_, rfl, (State.advance_keeps s dt).trans (State.loseRx_keeps ..)⟩

theorem execAlign_advances (dt : Nat) (offset : Int) (s : State) : Advances s dt (execAlign dt offset s) :=
  ⟨_, rfl, (State.advance_keeps s dt).trans (State.hostWrite_keeps _ _ _ _ ((State.linkDue_keeps ..).trans (State.alignGt_keeps ..)))⟩

theorem execNywRetrain_advances (dt : Nat) (s : State) : Advances s dt (execNywRetrain dt s) :=
  ⟨_, rfl, (State.advance_keeps s dt).trans (State.hostWrite_keeps _ _ _ _ ((State.linkDue_keeps ..).trans (State.retrain_keeps ..)))⟩

theorem execNywenAlign_advances (dt : Nat) (dev : BitVec 16) (s : State) : Advances s dt (execNywenAlign dt dev s) :=
  ⟨_, rfl, (State.advance_keeps s dt).trans (State.misalign_keeps ..)⟩

theorem execNywJumpCmd_advances (dt : Nat) (ch slot : BitVec 2) (s : State) : Advances s dt (execNywJumpCmd dt ch slot s) :=
  ⟨_, rfl, (State.advance_keeps s dt).trans (State.hostWrite_keeps _ _ _ _ ((State.linkDue_keeps ..).trans (State.linkJump_keeps ..)))⟩

theorem execDriverLimit_advances (dt : Nat) (slot : SlotId) (s : State) : Advances s dt (execDriverLimit dt slot s) :=
  ⟨_, rfl, (State.advance_keeps s dt).trans (State.raiseSlot_keeps ..)⟩

theorem execDacReadback_advances (dt : Nat) (slot : SlotId) (s : State) : Advances s dt (execDacReadback dt slot s) :=
  ⟨_, rfl, (State.advance_keeps s dt).trans (State.raiseSlot_keeps ..)⟩

theorem execChannelSupply_advances (dt : Nat) (slot : SlotId) (s : State) : Advances s dt (execChannelSupply dt slot s) :=
  ⟨_, rfl, (State.advance_keeps s dt).trans (State.raiseSlot_keeps ..)⟩

theorem execPgenParity_advances (dt : Nat) (slot : SlotId) (s : State) : Advances s dt (execPgenParity dt slot s) :=
  ⟨_, rfl, (State.advance_keeps s dt).trans (State.raiseSlot_keeps ..)⟩

theorem execFineDelay_advances (dt : Nat) (slot : SlotId) (s : State) : Advances s dt (execFineDelay dt slot s) :=
  ⟨_, rfl, (State.advance_keeps s dt).trans (State.raiseSlot_keeps ..)⟩

theorem execCrossingParity_advances (dt : Nat) (slot : SlotId) (s : State) : Advances s dt (execCrossingParity dt slot s) :=
  ⟨_, rfl, (State.advance_keeps s dt).trans (State.raiseSlot_keeps ..)⟩

theorem execCtrlCorrected_advances (dt : Nat) (slot : SlotId) (s : State) : Advances s dt (execCtrlCorrected dt slot s) :=
  ⟨_, rfl, (State.advance_keeps s dt).trans (State.raiseSlot_keeps ..)⟩

theorem execCtrlUncorrected_advances (dt : Nat) (slot : SlotId) (s : State) : Advances s dt (execCtrlUncorrected dt slot s) :=
  ⟨_, rfl, (State.advance_keeps s dt).trans (State.raiseSlot_keeps ..)⟩

theorem execLaneDead_advances (dt : Nat) (slot : SlotId) (s : State) : Advances s dt (execLaneDead dt slot s) :=
  ⟨_, rfl, (State.advance_keeps s dt).trans (State.raiseSlot_keeps ..)⟩

theorem execSupplyTrip_advances (dt : Nat) (c : CluId) (s : State) : Advances s dt (execSupplyTrip dt c s) :=
  ⟨_, rfl, (State.advance_keeps s dt).trans (State.supplyTrip_keeps ..)⟩

theorem execAfeHot_advances (dt : Nat) (c : CluId) (s : State) : Advances s dt (execAfeHot dt c s) :=
  ⟨_, rfl, (State.advance_keeps s dt).trans (State.raiseClu_keeps ..)⟩

theorem execAfeCritical_advances (dt : Nat) (c : CluId) (s : State) : Advances s dt (execAfeCritical dt c s) :=
  ⟨_, rfl, (State.advance_keeps s dt).trans (State.raiseClu_keeps ..)⟩

theorem execPositionMismatch_advances (dt : Nat) (c : CluId) (s : State) : Advances s dt (execPositionMismatch dt c s) :=
  ⟨_, rfl, (State.advance_keeps s dt).trans (State.raiseClu_keeps ..)⟩

theorem execActuatorSupply_advances (dt : Nat) (c : CluId) (s : State) : Advances s dt (execActuatorSupply dt c s) :=
  ⟨_, rfl, (State.advance_keeps s dt).trans (State.raiseClu_keeps ..)⟩

theorem execRefFault_advances (dt : Nat) (c : CluId) (s : State) : Advances s dt (execRefFault dt c s) :=
  ⟨_, rfl, (State.advance_keeps s dt).trans (State.raiseClu_keeps ..)⟩

theorem execRouteParity_advances (dt : Nat) (c : CluId) (s : State) : Advances s dt (execRouteParity dt c s) :=
  ⟨_, rfl, (State.advance_keeps s dt).trans (State.raiseClu_keeps ..)⟩

theorem execLatCalFail_advances (dt : Nat) (c : CluId) (s : State) : Advances s dt (execLatCalFail dt c s) :=
  ⟨_, rfl, (State.advance_keeps s dt).trans (State.raiseClu_keeps ..)⟩

theorem execStatusParity_advances (dt : Nat) (c : CluId) (s : State) : Advances s dt (execStatusParity dt c s) :=
  ⟨_, rfl, (State.advance_keeps s dt).trans (State.raiseClu_keeps ..)⟩

theorem execGtReplicaDeviation_advances (dt : Nat) (c : CluId) (s : State) : Advances s dt (execGtReplicaDeviation dt c s) :=
  ⟨_, rfl, (State.advance_keeps s dt).trans (State.raiseClu_keeps ..)⟩

theorem execRailWarn_advances (dt : Nat) (r : RailId) (s : State) : Advances s dt (execRailWarn dt r s) :=
  ⟨_, rfl, (State.advance_keeps s dt).trans (State.railAssert_keeps ..)⟩

theorem execRailTrip_advances (dt : Nat) (r : RailId) (s : State) : Advances s dt (execRailTrip dt r s) :=
  ⟨_, rfl, (State.advance_keeps s dt).trans (State.railAssert_keeps ..)⟩

theorem execRailRelease_advances (dt : Nat) (r : RailId) (trip : Bool) (s : State) : Advances s dt (execRailRelease dt r trip s) :=
  ⟨_, rfl, (State.advance_keeps s dt).trans (State.railRelease_keeps ..)⟩

theorem execRailSample_advances (dt : Nat) (r : RailId) (mv : BitVec 16) (s : State) : Advances s dt (execRailSample dt r mv s) :=
  ⟨_, rfl, (State.advance_keeps s dt).trans (State.railReads_keeps ..)⟩

theorem execTjHigh_advances (dt : Nat) (tj : Byte) (s : State) : Advances s dt (execTjHigh dt tj s) :=
  ⟨_, rfl, (State.advance_keeps s dt).trans (State.tjRise_keeps ..)⟩

theorem execTjCrit_advances (dt : Nat) (tj : Byte) (s : State) : Advances s dt (execTjCrit dt tj s) :=
  ⟨_, rfl, (State.advance_keeps s dt).trans (State.tjRise_keeps ..)⟩

theorem execKeeperLink_advances (dt : Nat) (s : State) : Advances s dt (execKeeperLink dt s) :=
  ⟨_, rfl, (State.advance_keeps s dt).trans (State.raiseDev_keeps ..)⟩

theorem execCollectorParity_advances (dt : Nat) (s : State) : Advances s dt (execCollectorParity dt s) :=
  ⟨_, rfl, (State.advance_keeps s dt).trans (State.raiseDev_keeps ..)⟩

theorem execConditionCauseEnds_advances (dt : Nat) (src : BitVec 16) (code : Byte) (s : State) : Advances s dt (execConditionCauseEnds dt src code s) :=
  ⟨_, rfl, (State.advance_keeps s dt).trans (State.causeEnds_keeps ..)⟩

theorem execThermHour_advances (dt : Nat) (hot : Bool) (s : State) : Advances s dt (execThermHour dt hot s) :=
  ⟨_, rfl, (State.advance_keeps s dt).trans (State.hour_keeps ..)⟩

theorem execSmbusTransaction_advances (dt : Nat) (addr : BitVec 7) (code : Byte) (op : SmbusOp) (s : State) : Advances s dt (execSmbusTransaction dt addr code op s) :=
  ⟨_, rfl, (State.advance_keeps s dt).trans (State.smbus_keeps ..)⟩

theorem execSmbusClockLowTimeout_advances (dt : Nat) (s : State) : Advances s dt (execSmbusClockLowTimeout dt s) :=
  ⟨_, rfl, State.advance_keeps s dt⟩

theorem execBlkRst_advances (dt : Nat) (page : PageId) (s : State) : Advances s dt (execBlkRst dt page s) :=
  ⟨_, rfl, (State.advance_keeps s dt).trans (State.blkRst_keeps ..)⟩

theorem execResetCmd_advances (dt : Nat) (confirm : BitVec 16) (checks : List (SlotId × BitVec 16)) (s : State) : Advances s dt (execResetCmd dt confirm checks s) :=
  ⟨_, rfl, (State.advance_keeps s dt).trans (State.hostWrite_keeps _ _ _ _ (State.resetCmd_keeps ..))⟩

theorem execFunctionLevelReset_advances (dt : Nat) (checks : List (SlotId × BitVec 16)) (s : State) : Advances s dt (execFunctionLevelReset dt checks s) :=
  ⟨_, rfl, (State.advance_keeps s dt).trans (State.flr_keeps ..)⟩

theorem execConseqWindowEnd_advances (dt : Nat) (s : State) : Advances s dt (execConseqWindowEnd dt s) :=
  ⟨_, rfl, (State.advance_keeps s dt).trans (State.conseqEnd_keeps ..)⟩

theorem execDetectionArrival_advances (dt : Nat) (n : Nat) (checks : List (SlotId × BitVec 16)) (s : State) : Advances s dt (execDetectionArrival dt n checks s) :=
  ⟨_, rfl, (State.advance_keeps s dt).trans (State.detArrive_keeps ..)⟩

theorem execFirstFaultDecided_advances (dt : Nat) (col : Collector) (s : State) : Advances s dt (execFirstFaultDecided dt col s) :=
  ⟨_, rfl, (State.advance_keeps s dt).trans (State.decideFirst_keeps ..)⟩

theorem execSrcClr_advances (dt : Nat) (src : BitVec 16) (ack : BitVec 4) (seq : BitVec 16) (s : State) : Advances s dt (execSrcClr dt src ack seq s) :=
  ⟨_, rfl, (State.advance_keeps s dt).trans (State.srcWrite_keeps _ _ _ _ (fun _ => State.clearSrc_keeps ..))⟩

theorem execReactWrite_advances (dt : Nat) (src : BitVec 16) (val : BitVec 32) (s : State) : Advances s dt (execReactWrite dt src val s) :=
  ⟨_, rfl, (State.advance_keeps s dt).trans (State.srcWrite_keeps _ _ _ _ (fun _ => State.writeReact_keeps ..))⟩

theorem execCompatWrite_advances (dt : Nat) (src : BitVec 16) (val : BitVec 32) (s : State) : Advances s dt (execCompatWrite dt src val s) :=
  ⟨_, rfl, (State.advance_keeps s dt).trans (State.srcWrite_keeps _ _ _ _ (fun _ => State.writeCompat_keeps ..))⟩

theorem execFirstLatchClear_advances (dt : Nat) (col : Collector) (s : State) : Advances s dt (execFirstLatchClear dt col s) :=
  ⟨_, rfl, (State.advance_keeps s dt).trans (State.srcWrite_keeps _ _ _ _ (fun _ => State.emptyFirst_keeps ..))⟩

theorem execAliveToggle_advances (dt : Nat) (s : State) : Advances s dt (execAliveToggle dt s) :=
  ⟨_, rfl, (State.advance_keeps s dt).trans (State.aliveEdge_keeps ..)⟩

theorem execHeartbeatLoss_advances (dt : Nat) (s : State) : Advances s dt (execHeartbeatLoss dt s) :=
  ⟨_, rfl, (State.advance_keeps s dt).trans (State.loseHeartbeat_keeps ..)⟩

theorem execHeartbeatReturn_advances (dt : Nat) (s : State) : Advances s dt (execHeartbeatReturn dt s) :=
  ⟨_, rfl, (State.advance_keeps s dt).trans (State.modFlt_keeps ..)⟩

theorem execAliveResume_advances (dt : Nat) (s : State) : Advances s dt (execAliveResume dt s) :=
  ⟨_, rfl, (State.advance_keeps s dt).trans (State.hostWrite_keeps _ _ _ _ (State.aliveResumeCmd_keeps ..))⟩

theorem execTrapAck_advances (dt : Nat) (s : State) : Advances s dt (execTrapAck dt s) :=
  ⟨_, rfl, (State.advance_keeps s dt).trans (State.hostWrite_keeps _ _ _ _ (State.modFlt_keeps ..))⟩

theorem execLogConsWrite_advances (dt : Nat) (val : BitVec 32) (s : State) : Advances s dt (execLogConsWrite dt val s) :=
  ⟨_, rfl, (State.advance_keeps s dt).trans (State.hostWrite_keeps _ _ _ _ (State.writeLogCons_keeps ..))⟩

theorem execInjCmd_advances (dt : Nat) (s : State) : Advances s dt (execInjCmd dt s) :=
  ⟨_, rfl, (State.advance_keeps s dt).trans (State.hostWrite_keeps _ _ _ _ (State.injStart_keeps ..))⟩

theorem execInjectionDelivery_advances (dt : Nat) (s : State) : Advances s dt (execInjectionDelivery dt s) :=
  ⟨_, rfl, (State.advance_keeps s dt).trans (State.injDeliver_keeps ..)⟩

theorem execPorAssert_advances (dt : Nat) (s : State) : Advances s dt (execPorAssert dt s) :=
  ⟨_, rfl, (State.advance_keeps s dt).trans (State.porAssert_keeps ..)⟩

theorem execPorRelease_advances (dt : Nat) (badRecords : List Nat) (s : State) : Advances s dt (execPorRelease dt badRecords s) :=
  ⟨_, rfl, (State.advance_keeps s dt).trans (State.porRelease_keeps ..)⟩

theorem execKeeperDone_advances (dt : Nat) (unpowered : Unpowered) (s : State) : Advances s dt (execKeeperDone dt unpowered s) :=
  ⟨_, rfl, (State.advance_keeps s dt).trans (State.keeperEnd_keeps ..)⟩

theorem execFusesLedgerDone_advances (dt : Nat) (badCopy0 badCopy1 : Bool) (s : State) : Advances s dt (execFusesLedgerDone dt badCopy0 badCopy1 s) :=
  ⟨_, rfl, (State.advance_keeps s dt).trans (State.fusesEnd_keeps ..)⟩

theorem execStartupMarchDone_advances (dt : Nat) (fails : BitVec 16) (s : State) : Advances s dt (execStartupMarchDone dt fails s) :=
  ⟨_, rfl, (State.advance_keeps s dt).trans (State.marchStep_keeps ..)⟩

theorem execTimebaseLock_advances (dt : Nat) (replicaFail : Bool) (s : State) : Advances s dt (execTimebaseLock dt replicaFail s) :=
  ⟨_, rfl, (State.advance_keeps s dt).trans (State.firstLock_keeps ..)⟩

theorem execStacksDone_advances (dt : Nat) (fails : BitVec 2) (s : State) : Advances s dt (execStacksDone dt fails s) :=
  ⟨_, rfl, (State.advance_keeps s dt).trans (State.stacksStep_keeps ..)⟩

theorem execPerstRelease_advances (dt : Nat) (s : State) : Advances s dt (execPerstRelease dt s) :=
  ⟨_, rfl, (State.advance_keeps s dt).trans (State.modHost_keeps ..)⟩

theorem execStkActive_advances (dt : Nat) (stk : Bool) (s : State) : Advances s dt (execStkActive dt stk s) :=
  ⟨_, rfl, (State.advance_keeps s dt).trans (State.hostWrite_keeps _ _ _ _ (State.stkCmd_keeps ..))⟩

theorem execStkSelfRefresh_advances (dt : Nat) (stk : Bool) (s : State) : Advances s dt (execStkSelfRefresh dt stk s) :=
  ⟨_, rfl, (State.advance_keeps s dt).trans (State.hostWrite_keeps _ _ _ _ (State.stkCmd_keeps ..))⟩

theorem execStkChangeDone_advances (dt : Nat) (stk : Bool) (s : State) : Advances s dt (execStkChangeDone dt stk s) :=
  ⟨_, rfl, (State.advance_keeps s dt).trans (State.stkEnd_keeps ..)⟩

theorem execSnapTake_advances (dt : Nat) (page : PageId) (s : State) : Advances s dt (execSnapTake dt page s) :=
  ⟨_, rfl, (State.advance_keeps s dt).trans (State.hostWrite_keeps _ _ _ _ (State.take_keeps ..))⟩

theorem execSnapDone_advances (dt : Nat) (page : PageId) (s : State) : Advances s dt (execSnapDone dt page s) :=
  ⟨_, rfl, (State.advance_keeps s dt).trans (State.copied_keeps ..)⟩

theorem execSnapAll_advances (dt : Nat) (s : State) : Advances s dt (execSnapAll dt s) :=
  ⟨_, rfl, (State.advance_keeps s dt).trans (State.hostWrite_keeps _ _ _ _ (State.takeAll_keeps ..))⟩

theorem execRegWrite_advances (dt : Nat) (addr : BitVec 25) (size : Nat) (data : Word) (s : State) : Advances s dt (execRegWrite dt addr size data s) :=
  ⟨_, rfl, (State.advance_keeps s dt).trans (State.regWriteAt_keeps ..)⟩

theorem execPgEvtClear_advances (dt : Nat) (page : PageId) (mask : BitVec 32) (s : State) : Advances s dt (execPgEvtClear dt page mask s) :=
  ⟨_, rfl, (State.advance_keeps s dt).trans (State.hostWrite_keeps _ _ _ _ (Keeps.ite (State.clearEvt_keeps ..) (Keeps.refl _)))⟩

theorem execCommit_advances (dt : Nat) (s : State) : Advances s dt (execCommit dt s) :=
  ⟨_, rfl, (State.advance_keeps s dt).trans (State.hostWrite_keeps _ _ _ _ (State.commitArrive_keeps ..))⟩

theorem execJtagAccess_advances (dt : Nat) (op : JtagOp) (s : State) : Advances s dt (execJtagAccess dt op s) :=
  ⟨_, rfl, (State.advance_keeps s dt).trans (State.jtagAccess_keeps ..)⟩

theorem landed_keeps {s : State} {o : Host.Outcome State Fault Refusal} (h : Advances s 0 o) : Keeps s (landed s o) := by
  obtain ⟨t, rfl, h⟩ := h
  exact h

/-- A held write runs as it would have run on arrival, in no time. -/
theorem runHeld_keeps (i : Instr) (s : State) : Keeps s (runHeld i s) := by
  unfold runHeld
  split
  · exact landed_keeps (execPowerOff_advances ..)
  · exact landed_keeps (execPark_advances ..)
  · exact landed_keeps (execConnect_advances ..)
  · exact landed_keeps (execArm_advances ..)
  · exact landed_keeps (execDisarm_advances ..)
  · exact landed_keeps (execStart_advances ..)
  · exact landed_keeps (execStop_advances ..)
  · exact landed_keeps (execService_advances ..)
  · exact landed_keeps (execModeCmdReserved_advances ..)
  · exact landed_keeps (execReadyDriveWrite_advances ..)
  · exact landed_keeps (execAfePwrReqOn_advances ..)
  · exact landed_keeps (execAfePwrReqOff_advances ..)
  · exact landed_keeps (execJumpReq_advances ..)
  · exact landed_keeps (execJumpClr_advances ..)
  · exact landed_keeps (execJumpTgtWrite_advances ..)
  · exact landed_keeps (execHostFlagWrite_advances ..)
  · exact landed_keeps (execHostFlagSet_advances ..)
  · exact landed_keeps (execHostFlagClr_advances ..)
  · exact landed_keeps (execFabRouteWrite_advances ..)
  · exact landed_keeps (execFabExportWrite_advances ..)
  · exact landed_keeps (execIntProdWrite_advances ..)
  · exact landed_keeps (execIntRingWrite_advances ..)
  · exact landed_keeps (execSluCfgWrite_advances ..)
  · exact landed_keeps (execStageCmd_advances ..)
  · exact landed_keeps (execCalMeasure_advances ..)
  · exact landed_keeps (execCalMeasureApply_advances ..)
  · exact landed_keeps (execRestoreSeed_advances ..)
  · exact landed_keeps (execCalPathWrite_advances ..)
  · exact landed_keeps (execLevelWrite_advances ..)
  · exact landed_keeps (execTermWrite_advances ..)
  · exact landed_keeps (execPmuCfgWrite_advances ..)
  · exact landed_keeps (execPmuMeasCmd_advances ..)
  · exact landed_keeps (execCloseCal_advances ..)
  · exact landed_keeps (execOpenCal_advances ..)
  · exact landed_keeps (execSwFlush_advances ..)
  · exact landed_keeps (execSwap_advances ..)
  · exact landed_keeps (execRetire_advances ..)
  · exact landed_keeps (execHvsConsWrite_advances ..)
  · exact landed_keeps (execHvsRingWrite_advances ..)
  · exact landed_keeps (execCapAreaWrite_advances ..)
  · exact landed_keeps (execStampArm_advances ..)
  · exact landed_keeps (execStampDisarm_advances ..)
  · exact landed_keeps (execEngineStart_advances ..)
  · exact landed_keeps (execEngineStop_advances ..)
  · exact landed_keeps (execHostEvt_advances ..)
  · exact landed_keeps (execRedArm_advances ..)
  · exact landed_keeps (execRedDisarm_advances ..)
  · exact landed_keeps (execWinArm_advances ..)
  · exact landed_keeps (execWinAbandon_advances ..)
  · exact landed_keeps (execBankOn_advances ..)
  · exact landed_keeps (execBankRetention_advances ..)
  · exact landed_keeps (execBankOff_advances ..)
  · exact landed_keeps (execMarchStart_advances ..)
  · exact landed_keeps (execMarchAbort_advances ..)
  · exact landed_keeps (execRepairCmd_advances ..)
  · exact landed_keeps (execBar4Write_advances ..)
  · exact landed_keeps (execRegWrite_advances ..)
  · exact landed_keeps (execPgEvtClear_advances ..)
  · exact landed_keeps (execSrcClr_advances ..)
  · exact landed_keeps (execReactWrite_advances ..)
  · exact landed_keeps (execCompatWrite_advances ..)
  · exact landed_keeps (execFirstLatchClear_advances ..)
  · exact landed_keeps (execAliveResume_advances ..)
  · exact landed_keeps (execTrapAck_advances ..)
  · exact landed_keeps (execLogConsWrite_advances ..)
  · exact landed_keeps (execInjCmd_advances ..)
  · exact landed_keeps (execMsixUnmask_advances ..)
  · exact landed_keeps (execLcCmd_advances ..)
  · exact landed_keeps (execLoadPlain_advances ..)
  · exact landed_keeps (execLoadWrapped_advances ..)
  · exact landed_keeps (execKeyClear_advances ..)
  · exact landed_keeps (execStoreWrite_advances ..)
  · exact landed_keeps (execEraseCmd_advances ..)
  · exact landed_keeps (execSubsysWrite_advances ..)
  · exact landed_keeps (execAlivePolWrite_advances ..)
  · exact landed_keeps (execBar2WinWrite_advances ..)
  · exact landed_keeps (execCommit_advances ..)
  · exact landed_keeps (execSnapTake_advances ..)
  · exact landed_keeps (execSnapAll_advances ..)
  · exact landed_keeps (execTrigCmd_advances ..)
  · exact landed_keeps (execEvtStart_advances ..)
  · exact landed_keeps (execEvtStop_advances ..)
  · exact landed_keeps (execAlign_advances ..)
  · exact landed_keeps (execNywRetrain_advances ..)
  · exact landed_keeps (execNywJumpCmd_advances ..)
  · exact landed_keeps (execBlkRst_advances ..)
  · exact landed_keeps (execResetCmd_advances ..)
  · exact landed_keeps (execStkActive_advances ..)
  · exact landed_keeps (execStkSelfRefresh_advances ..)
  · exact Keeps.refl s

theorem replay_keeps (l : List Held) (s : State) : Keeps s (replay l s) := by
  induction l generalizing s with
  | nil => exact Keeps.refl s
  | cons h r ih =>
    cases h with
    | write p i => exact (runHeld_keeps i s).trans (ih _)
    | bar2 base off data ecc => exact (State.hostHeldWrite_keeps _ _ _ _ (State.bar2Store_keeps ..)).trans (ih _)
    | commit => exact Keeps.set_held ..

theorem State.release_keeps (s : State) : Keeps s s.release := (Keeps.set_held s []).trans (replay_keeps ..)

theorem State.commitNow_keeps (s : State) : Keeps s s.commitNow := by
  unfold State.commitNow
  split
  · exact ((Keeps.set_held ..).trans (State.modDev_keeps ..)).trans (State.release_keeps _)
  · exact Keeps.refl s

theorem State.resetOver_keeps (s : State) (p : Nat) : Keeps s (s.resetOver p) := by
  unfold State.resetOver
  split
  · exact State.modDev_keeps ..
  · exact Keeps.ite ((State.endReset_keeps ..).trans (State.release_keeps _)) (Keeps.refl s)

theorem execCommitDone_advances (dt : Nat) (s : State) : Advances s dt (execCommitDone dt s) :=
  ⟨_, rfl, (State.advance_keeps s dt).trans (State.commitNow_keeps ..)⟩

theorem execResetDone_advances (dt : Nat) (page : PageId) (s : State) : Advances s dt (execResetDone dt page s) :=
  ⟨_, rfl, (State.advance_keeps s dt).trans (State.resetOver_keeps ..)⟩

theorem execEpochWrap_advances (s : State) :
    Advances s (if s.gtRun then 2 ^ 64 - gtOf s.t else 0) (execEpochWrap s) := by
  unfold execEpochWrap
  split
  · exact ⟨_, rfl, State.advance_keeps ..⟩
  · exact ⟨_, rfl, Keeps.refl _⟩

/-- How long a command takes in a state: the wrap of global time comes when it comes (R142), every other command states its time. -/
def took (s : State) : Instr → Nat
  | .epochWrap => if s.gtRun then 2 ^ 64 - gtOf s.t else 0
  | i => i.elapsed

theorem exec_advances (i : Instr) (s : State) : Advances s (took s i) (exec i s) := by
  cases i with
  | powerOff => exact execPowerOff_advances ..
  | park => exact execPark_advances ..
  | connect => exact execConnect_advances ..
  | arm => exact execArm_advances ..
  | disarm => exact execDisarm_advances ..
  | start => exact execStart_advances ..
  | stop => exact execStop_advances ..
  | service => exact execService_advances ..
  | modeCmdReserved => exact execModeCmdReserved_advances ..
  | modeBcast => exact execModeBcast_advances ..
  | modeTransitionDone => exact execModeTransitionDone_advances ..
  | switchTimeout => exact execSwitchTimeout_advances ..
  | burstStart => exact execBurstStart_advances ..
  | landingEnd => exact execLandingEnd_advances ..
  | readyDriveWrite => exact execReadyDriveWrite_advances ..
  | afePwrReqOn => exact execAfePwrReqOn_advances ..
  | afePwrReqOff => exact execAfePwrReqOff_advances ..
  | afePowerUpDone => exact execAfePowerUpDone_advances ..
  | descriptorFetch => exact execDescriptorFetch_advances ..
  | stackReadDone => exact execStackReadDone_advances ..
  | decisionPoint => exact execDecisionPoint_advances ..
  | playBoundary => exact execPlayBoundary_advances ..
  | vectorStart => exact execVectorStart_advances ..
  | strobeClose => exact execStrobeClose_advances ..
  | verdictGapWrite => exact execVerdictGapWrite_advances ..
  | queueDropGap => exact execQueueDropGap_advances ..
  | captureFlushed => exact execCaptureFlushed_advances ..
  | jumpReq => exact execJumpReq_advances ..
  | jumpClr => exact execJumpClr_advances ..
  | jumpTgtWrite => exact execJumpTgtWrite_advances ..
  | jumpHeadReady => exact execJumpHeadReady_advances ..
  | hostFlagWrite => exact execHostFlagWrite_advances ..
  | hostFlagSet => exact execHostFlagSet_advances ..
  | hostFlagClr => exact execHostFlagClr_advances ..
  | fabRouteWrite => exact execFabRouteWrite_advances ..
  | fabExportWrite => exact execFabExportWrite_advances ..
  | fabricInputChange => exact execFabricInputChange_advances ..
  | holdingResumePoint => exact execHoldingResumePoint_advances ..
  | holdingPassEnd => exact execHoldingPassEnd_advances ..
  | headroomUpdate => exact execHeadroomUpdate_advances ..
  | intProdWrite => exact execIntProdWrite_advances ..
  | intakeReadRequest => exact execIntakeReadRequest_advances ..
  | readCompletion => exact execReadCompletion_advances ..
  | consIndexPost => exact execConsIndexPost_advances ..
  | cplTimeout => exact execCplTimeout_advances ..
  | intRingWrite => exact execIntRingWrite_advances ..
  | sluCfgWrite => exact execSluCfgWrite_advances ..
  | timebaseLock => exact execTimebaseLock_advances ..
  | lossOfLock => exact execLossOfLock_advances ..
  | referenceReturn => exact execReferenceReturn_advances ..
  | relockDone => exact execRelockDone_advances ..
  | epochWrap => exact execEpochWrap_advances ..
  | stageCmd => exact execStageCmd_advances ..
  | stageApply => exact execStageApply_advances ..
  | calMeasure => exact execCalMeasure_advances ..
  | calMeasureApply => exact execCalMeasureApply_advances ..
  | restoreSeed => exact execRestoreSeed_advances ..
  | calDone => exact execCalDone_advances ..
  | calPathWrite => exact execCalPathWrite_advances ..
  | driftMeasure => exact execDriftMeasure_advances ..
  | levelWrite => exact execLevelWrite_advances ..
  | levelSettled => exact execLevelSettled_advances ..
  | termWrite => exact execTermWrite_advances ..
  | pmuCfgWrite => exact execPmuCfgWrite_advances ..
  | pmuSettled => exact execPmuSettled_advances ..
  | pmuMeasCmd => exact execPmuMeasCmd_advances ..
  | pmuMeasDone => exact execPmuMeasDone_advances ..
  | ppmuSample => exact execPpmuSample_advances ..
  | closeCal => exact execCloseCal_advances ..
  | openCal => exact execOpenCal_advances ..
  | swOpDone => exact execSwOpDone_advances ..
  | swFlush => exact execSwFlush_advances ..
  | swFlushDone => exact execSwFlushDone_advances ..
  | swap => exact execSwap_advances ..
  | swapDone => exact execSwapDone_advances ..
  | retire => exact execRetire_advances ..
  | harvestTake => exact execHarvestTake_advances ..
  | stagingDropGap => exact execStagingDropGap_advances ..
  | stagingRefill => exact execStagingRefill_advances ..
  | harvestRingWrite => exact execHarvestRingWrite_advances ..
  | hvsReadyCoal => exact execHvsReadyCoal_advances ..
  | prodIndexPost => exact execProdIndexPost_advances ..
  | hvsConsWrite => exact execHvsConsWrite_advances ..
  | hvsRingWrite => exact execHvsRingWrite_advances ..
  | capAreaWrite => exact execCapAreaWrite_advances ..
  | comparatorEdge => exact execComparatorEdge_advances ..
  | stampTransfer => exact execStampTransfer_advances ..
  | stampLostGap => exact execStampLostGap_advances ..
  | stampArm => exact execStampArm_advances ..
  | stampDisarm => exact execStampDisarm_advances ..
  | engineSample => exact execEngineSample_advances ..
  | acqTimerExpiry => exact execAcqTimerExpiry_advances ..
  | engineStart => exact execEngineStart_advances ..
  | engineStop => exact execEngineStop_advances ..
  | hostEvt => exact execHostEvt_advances ..
  | engineActionEffect => exact execEngineActionEffect_advances ..
  | trigPulseEnd => exact execTrigPulseEnd_advances ..
  | redArm => exact execRedArm_advances ..
  | redDisarm => exact execRedDisarm_advances ..
  | winArm => exact execWinArm_advances ..
  | winAbandon => exact execWinAbandon_advances ..
  | scrubStep dt target ecc written => exact execScrubStep_advances dt target ecc written s
  | bankOn => exact execBankOn_advances ..
  | bankRetention => exact execBankRetention_advances ..
  | bankOff => exact execBankOff_advances ..
  | bankChangeDone => exact execBankChangeDone_advances ..
  | marchStart => exact execMarchStart_advances ..
  | marchAbort => exact execMarchAbort_advances ..
  | marchCopyInDone => exact execMarchCopyInDone_advances ..
  | marchRowTestDone => exact execMarchRowTestDone_advances ..
  | marchCopyBackDone => exact execMarchCopyBackDone_advances ..
  | destructiveMarchDone => exact execDestructiveMarchDone_advances ..
  | repairCmd => exact execRepairCmd_advances ..
  | repairSwitch => exact execRepairSwitch_advances ..
  | bar2Read => exact execBar2Read_advances ..
  | bar2Write => exact execBar2Write_advances ..
  | bar4Read => exact execBar4Read_advances ..
  | bar4Write => exact execBar4Write_advances ..
  | regWrite => exact execRegWrite_advances ..
  | pgEvtClear => exact execPgEvtClear_advances ..
  | detectionArrival => exact execDetectionArrival_advances ..
  | firstFaultDecided => exact execFirstFaultDecided_advances ..
  | conseqWindowEnd => exact execConseqWindowEnd_advances ..
  | srcClr => exact execSrcClr_advances ..
  | reactWrite => exact execReactWrite_advances ..
  | compatWrite => exact execCompatWrite_advances ..
  | firstLatchClear => exact execFirstLatchClear_advances ..
  | aliveToggle => exact execAliveToggle_advances ..
  | heartbeatLoss => exact execHeartbeatLoss_advances ..
  | aliveResume => exact execAliveResume_advances ..
  | trapAck => exact execTrapAck_advances ..
  | logConsWrite => exact execLogConsWrite_advances ..
  | injCmd => exact execInjCmd_advances ..
  | injectionDelivery => exact execInjectionDelivery_advances ..
  | msixUnmask => exact execMsixUnmask_advances ..
  | msixGapEnd => exact execMsixGapEnd_advances ..
  | msixMaskedPend => exact execMsixMaskedPend_advances ..
  | driverLimit => exact execDriverLimit_advances ..
  | dacReadback => exact execDacReadback_advances ..
  | channelSupply => exact execChannelSupply_advances ..
  | pgenParity => exact execPgenParity_advances ..
  | fineDelay => exact execFineDelay_advances ..
  | crossingParity => exact execCrossingParity_advances ..
  | ctrlCorrected => exact execCtrlCorrected_advances ..
  | ctrlUncorrected => exact execCtrlUncorrected_advances ..
  | laneDead => exact execLaneDead_advances ..
  | supplyTrip => exact execSupplyTrip_advances ..
  | afeHot => exact execAfeHot_advances ..
  | afeCritical => exact execAfeCritical_advances ..
  | positionMismatch => exact execPositionMismatch_advances ..
  | actuatorSupply => exact execActuatorSupply_advances ..
  | refFault => exact execRefFault_advances ..
  | routeParity => exact execRouteParity_advances ..
  | latCalFail => exact execLatCalFail_advances ..
  | statusParity => exact execStatusParity_advances ..
  | gtReplicaDeviation => exact execGtReplicaDeviation_advances ..
  | railWarn => exact execRailWarn_advances ..
  | railTrip => exact execRailTrip_advances ..
  | railRelease => exact execRailRelease_advances ..
  | railSample => exact execRailSample_advances ..
  | tjHigh => exact execTjHigh_advances ..
  | tjCrit => exact execTjCrit_advances ..
  | keeperLink => exact execKeeperLink_advances ..
  | collectorParity => exact execCollectorParity_advances ..
  | linkRetrain => exact execLinkRetrain_advances ..
  | aerCorr => exact execAerCorr_advances ..
  | aerUncorr => exact execAerUncorr_advances ..
  | lcCmd => exact execLcCmd_advances ..
  | lcTransitionDone => exact execLcTransitionDone_advances ..
  | tamperMesh => exact execTamperMesh_advances ..
  | tamperVoltage => exact execTamperVoltage_advances ..
  | tamperClock => exact execTamperClock_advances ..
  | vbatLoss => exact execVbatLoss_advances ..
  | tamperCleared => exact execTamperCleared_advances ..
  | wipeDone => exact execWipeDone_advances ..
  | loadPlain => exact execLoadPlain_advances ..
  | loadWrapped => exact execLoadWrapped_advances ..
  | keyClear => exact execKeyClear_advances ..
  | keyCmdDone => exact execKeyCmdDone_advances ..
  | storeWrite => exact execStoreWrite_advances ..
  | eraseCmd => exact execEraseCmd_advances ..
  | eraseDone => exact execEraseDone_advances ..
  | ledgerAppendDone => exact execLedgerAppendDone_advances ..
  | subsysWrite => exact execSubsysWrite_advances ..
  | alivePolWrite => exact execAlivePolWrite_advances ..
  | linkUp => exact execLinkUp_advances ..
  | linkDown => exact execLinkDown_advances ..
  | pcieReset => exact execPcieReset_advances ..
  | functionLevelReset => exact execFunctionLevelReset_advances ..
  | d3hotEntry => exact execD3hotEntry_advances ..
  | d0Entry => exact execD0Entry_advances ..
  | configRequest => exact execConfigRequest_advances ..
  | bar2Resize => exact execBar2Resize_advances ..
  | bar2WinWrite => exact execBar2WinWrite_advances ..
  | commit => exact execCommit_advances ..
  | commitDone => exact execCommitDone_advances ..
  | snapTake => exact execSnapTake_advances ..
  | snapDone => exact execSnapDone_advances ..
  | snapAll => exact execSnapAll_advances ..
  | trigEdge => exact execTrigEdge_advances ..
  | trigCmd => exact execTrigCmd_advances ..
  | trigContention => exact execTrigContention_advances ..
  | starInEdge => exact execStarInEdge_advances ..
  | starLoss => exact execStarLoss_advances ..
  | starOutPulseEnd => exact execStarOutPulseEnd_advances ..
  | evtStart => exact execEvtStart_advances ..
  | evtStop => exact execEvtStop_advances ..
  | startDelivery => exact execStartDelivery_advances ..
  | stopDelivery => exact execStopDelivery_advances ..
  | nywenFrameSlot => exact execNywenFrameSlot_advances ..
  | frameIdle => exact execFrameIdle_advances ..
  | frameTimeLo => exact execFrameTimeLo_advances ..
  | frameTimeHi => exact execFrameTimeHi_advances ..
  | frameStart => exact execFrameStart_advances ..
  | frameStop => exact execFrameStop_advances ..
  | frameJump => exact execFrameJump_advances ..
  | nywenDelivery => exact execNywenDelivery_advances ..
  | nywenLock => exact execNywenLock_advances ..
  | nywenLoss => exact execNywenLoss_advances ..
  | align => exact execAlign_advances ..
  | nywRetrain => exact execNywRetrain_advances ..
  | nywenAlign => exact execNywenAlign_advances ..
  | nywJumpCmd => exact execNywJumpCmd_advances ..
  | blkRst => exact execBlkRst_advances ..
  | resetDone => exact execResetDone_advances ..
  | resetCmd => exact execResetCmd_advances ..
  | porAssert => exact execPorAssert_advances ..
  | porRelease => exact execPorRelease_advances ..
  | keeperDone => exact execKeeperDone_advances ..
  | fusesLedgerDone => exact execFusesLedgerDone_advances ..
  | startupMarchDone => exact execStartupMarchDone_advances ..
  | stacksDone => exact execStacksDone_advances ..
  | perstRelease => exact execPerstRelease_advances ..
  | stkActive => exact execStkActive_advances ..
  | stkSelfRefresh => exact execStkSelfRefresh_advances ..
  | stkChangeDone => exact execStkChangeDone_advances ..
  | thermHour => exact execThermHour_advances ..
  | conditionCauseEnds => exact execConditionCauseEnds_advances ..
  | heartbeatReturn => exact execHeartbeatReturn_advances ..
  | logBufferDrain => exact execLogBufferDrain_advances ..
  | smbusTransaction => exact execSmbusTransaction_advances ..
  | smbusClockLowTimeout => exact execSmbusClockLowTimeout_advances ..
  | jtagAccess => exact execJtagAccess_advances ..

end Sys2Proof.Machine
end

