-- ==== Sys2Proof/Machine/Readback.lean ====
section
/-!
DEFINITION. Sys2Proof/Machine/Readback.lean: what BAR 0 reads return (R339, R341, R342, R360 to R364, R368, R371, R382): every register of
every page, as the state holds it. The opcode table has no row for a host read; `State.bar0Serve` is the read itself (log 14).
-/

namespace Sys2Proof.Machine

/-! The page header (R364). -/

/-- PG_ID: INSTANCE, LEVEL and TYPE of a page (R361, R362). -/
def pgId (p : Nat) : Nat :=
  if 0x1000 ≤ p then pack [(0, 16, (p - 0x1000) / 16), (24, 8, 0x20 + p % 16)]
  else if 0x10 ≤ p then pack [(0, 16, p - 0x10), (16, 8, 1), (24, 8, 0x50)]
  else pack [(0, 16, p), (16, 8, 2), (24, 8, 0x40 + p)]

/-- PG_CAP.EVENTS: the PG_EVT bits of a page, from its event table. -/
def pgEvents (p : Nat) : Nat :=
  if 0x1000 ≤ p then [2, 6, 6, 8, 0, 4, 4, 8, 6, 7].getD (p % 16) 0
  else if 0x10 ≤ p then 3
  else [3, 17, 5, 7, 32, 2, 4, 0, 5, 7, 6, 8, 4, 1, 1].getD p 0

/-- The page has a TAKE field: those of R342, and DEV.SNAP_ALL. -/
def hasTake (p : Nat) : Bool :=
  if 0x1000 ≤ p then [1, 2, 3, 8, 9, 11].contains (p % 16) else 0x10 ≤ p || [0, 2, 8, 9].contains p

/-- PG_CAP. -/
def pgCap (p : Nat) : Nat :=
  let ch := decide (0x1000 ≤ p)
  pack [(0, 6, pgEvents p), (8, 1, b2n (resettable p)), (9, 1, b2n (p = 14)), (10, 1, b2n (hasTake p)),
    (11, 1, b2n (ch && (p % 16 = 3 || p % 16 = 4))), (12, 1, b2n ch)]

/-- A command of the page is in progress: its result reads VALID = 0 (PG_STAT.BUSY). -/
def State.pgCommand (s : State) (p : Nat) : Bool :=
  if 0x1000 ≤ p then
    let w := (p - 0x1000) / 16
    match p % 16 with
    | 0 => (s.md w).trans.any fun x => decide (x.swOp = 0)
    | 3 => (s.tm w).pend.isSome || (s.slot (s.slotOf w)).calOp.isSome
    | 5 => (s.md w).trans.any fun x => decide (x.swOp ≠ 0)
    | 6 => (s.pm w).meas.isSome
    | _ => false
  else if 0x10 ≤ p then (s.clu (p - 0x10)).swapping.isSome
  else match p with
    | 1 => s.dev.stkTo.1.isSome || s.dev.stkTo.2.isSome
    | 3 => s.syn.retraining
    | 9 => s.mem.bankTo.any fun e => e.2.isSome
    | 10 => decide (s.mem.march ≠ 0) || s.mem.repair.isSome
    | 11 => s.sec.trans.isSome || s.sec.keyOp.isSome || s.sec.erase.isSome
    | 12 => !s.keep.queue.isEmpty || s.sec.trans.isSome
    | 13 => s.flt.injPend.isSome
    | _ => false

/-- PG_STAT.LOCKED: a guarded register of the page refuses writes (R373), or the life cycle closes LDG.SUBSYS (R315). DEDUCED (log 117): which
registers the word takes in. -/
def State.pgLocked (s : State) (p : Nat) : Bool :=
  if 0x1000 ≤ p then
    let w := (p - 0x1000) / 16
    match p % 16 with
    | 2 => s.armedRun w
    | 3 => s.armedRun w
    | 7 => s.armedRun w || (s.cw w).open_
    | 8 => (s.st w).isArmed s.t
    | 9 => (s.en w).running || (s.rd w).armed || (s.cw w).open_
    | _ => false
  else match p with
    | 3 => (List.range 136).any fun w => s.armedRun w
    | 10 => decide (s.mem.march ≠ 0)
    | 12 => decide (2 ≤ s.sec.lc)
    | _ => false

/-- PG_STAT.READY: out of reset, and on the AFE and PMU pages with the channel powered. -/
def State.pgReady (s : State) (p : Nat) : Bool :=
  !s.pgInReset p && (if 0x1000 ≤ p && (p % 16 = 5 || p % 16 = 6) then (s.slot (s.slotOf ((p - 0x1000) / 16))).afeOn else true)

/-- Registers of the page header. -/
def State.readHeader (s : State) (p off : Nat) : Nat :=
  match off with
  | 0x000 => pgId p
  | 0x008 => pgCap p
  | 0x00C => pack [(0, 1, b2n (s.pgInReset p || s.pgCommand p)), (1, 1, b2n (s.pgReady p)), (2, 1, b2n (s.pgFault p)),
      (3, 1, b2n (s.pgLocked p)), (4, 3, s.pgMode p)]
  | 0x014 => (s.evtBits p).toNat
  | 0x01C => (Tab.get 0 s.pgSeq p).toNat
  | _ => s.reg (pageAddr p off)

/-! Shared forms. -/

/-- OUTCOME at `o`, REASON at `r`, SEQ at `q` in `n` bits, and VALID at `v` of a result register (R372). -/
def Res.fields (x : Res) (o r q n v : Nat) : List (Nat × Nat × Nat) :=
  [(o, 2, x.outcome), (r, 4, x.reason), (q, n, x.seq), (v, 1, b2n x.valid)]

/-- A snapshot register as last copied (R342). -/
def State.readSnap (s : State) (p off : Nat) : Nat := (Tab.get (snapReset (pageAddr p off)) s.snaps (pageAddr p off)).toNat

/-- A SNAP_SEQ register of a page: SEQ [15:0] and VALID [31]. -/
def State.readSnapSeq (s : State) (p : Nat) : Nat := pack [(0, 16, (s.snapOf p).seq), (31, 1, b2n (s.snapOf p).valid)]

/-- A collector's STAT register (FLT.STAT). -/
def Coll.stat (c : Coll) : Nat := pack [(0, 1, b2n c.clrRefused), (1, 2, c.reason), (3, 1, b2n c.cfgRefused)]

/-- A first-fault latch (FLT.FIRST). -/
def Coll.firstWord (c : Coll) : Nat :=
  match c.first with
  | none => 0
  | some f => pack [(0, 16, f.src), (16, 2, f.cls), (18, 1, b2n f.esc), (19, 1, b2n f.inj), (20, 1, b2n f.real), (21, 1, b2n f.ovf),
      (32, 16, epochOf f.at_), (63, 1, 1)]

/-- The GT of a first-fault latch (FLT.FIRST_GT). -/
def Coll.firstGt (c : Coll) : Nat := match c.first with | none => 0 | some f => gtOf f.at_

/-! Pages of a channel window. -/

/-- CTL page. -/
def State.readCtl (s : State) (w off : Nat) : Nat :=
  let m := s.md w
  match off with
  | 0x044 => pack [(0, 8, m.res.seq), (8, 8, m.tag.toNat), (16, 4, m.cmd), (20, 1, b2n m.oversub), (21, 1, b2n m.late), (22, 1, b2n m.cancelled),
      (24, 4, m.res.reason), (28, 3, m.res.outcome), (31, 1, b2n m.res.valid)]
  | 0x048 => pack [(0, 3, modeCode m.mode), (3, 1, b2n m.trans.isSome), (4, 3, match m.trans with | some x => modeCode x.target | none => 0),
      (7, 1, b2n (s.running w && (s.sq w).stop.isSome)), (8, 2, s.conn w), (10, 1, b2n (s.slot (s.slotOf w)).afeOn), (11, 1, b2n m.startMissed),
      (12, 3, m.endCause), (16, 2, match m.static with | .d0 => 0 | .d1 => 1 | .dz => 2)]
  | _ => s.wreg w 0 off

/-- SEQ page. -/
def State.readSeq (s : State) (w off : Nat) : Nat :=
  let p := winPage w 1
  let pl := s.pl w
  if 0x060 ≤ off && off < 0x070 then
    let k := (off - 0x060) / 4
    s.wreg w 1 off + pack [(25, 1, b2n ((s.sq w).jready.getLsbD k)), (26, 1, b2n ((s.sq w).jrej.getLsbD k))]
  else if 0x0C0 ≤ off && off < 0x0E0 then s.readSnap p off
  else match off with
    | 0x07C =>
      let q := ((s.jumpDue w).sq w).reqs
      pack [(0, 3, q.length), (8, 2, match q with | r :: _ => r.slot.toNat | [] => 0)]
    | 0x088 => s.readSnap p off + pack [(31, 1, b2n (s.snapOf p).valid)]
    | 0x090 => s.readSnap p off + pack [(32, 16, (s.snapOf p).seq)]
    | 0x098 => s.readSnap p off
    | 0x0A0 => s.readSnap p off
    | 0x0A8 => s.readSnap p off
    | 0x0E0 => gtOf pl.gtFirst
    | 0x0E8 => pack [(0, 16, epochOf pl.gtFirst), (16, 15, pl.bursts), (31, 1, b2n pl.burstValid)]
    | 0x0F0 => pack [(0, 8, pl.perrCode), (8, 8, pl.perrCount), (16, 20, pl.perrShelf.toNat), (48, 16, pl.perrSeq)]
    | 0x0F8 => pack [(0, 36, pl.dropAddr), (36, 4, pl.dropReason), (48, 16, pl.dropCount)]
    | _ => s.wreg w 1 off

/-- SLU page. DESIGN CHOICE (log 118): STREAM_LEVEL of a full ring reads 255. -/
def State.readSlu (s : State) (w off : Nat) : Nat :=
  let p := winPage w 2
  let x := s.sl w
  let k := s.ik w
  match off with
  | 0x044 => pack [(0, 13, s.sluLevel w), (13, 1, b2n x.filled), (14, 1, b2n (s.ho w).on), (15, 1, b2n (decide (k.broken ≠ 0))), (16, 3, k.broken),
      (19, 1, b2n x.stocked), (20, 3, min 7 (s.headCount w)), (23, 1, b2n x.cfgRefused), (24, 8, min 255 (x.ringBytes * 256 / s.streamSize w))]
  | 0x04C => pack [(0, 4, s.headCount w), (8, 13, s.headBytes w)]
  | 0x064 => pack [(0, 17, k.cons), (17, 1, b2n k.skipping)]
  | 0x068 => pack [(0, 20, x.demand), (31, 1, b2n x.held)]
  | 0x070 => pack [(0, 3, k.errCause), (8, 20, k.errShelf.toNat), (32, 32, k.errSeq)]
  | 0x078 => pack [(0, 2, (s.ho w).cause), (2, 2, (s.ho w).policy), (4, 1, b2n (s.ho w).landed)]
  | 0x088 => s.readSnap p off
  | 0x090 => s.readSnap p off
  | 0x098 => s.readSnapSeq p
  | _ => s.wreg w 2 off

/-- TIM page; calibration and drift are the slot's. -/
def State.readTim (s : State) (w off : Nat) : Nat :=
  let p := winPage w 3
  let k := s.slotOf w
  let x := s.slot k
  let m := s.tm w
  let pl := s.pl w
  match off with
  | 0x044 => pack ([(0, 1, b2n m.pend.isSome), (8, 6, m.tset)] ++ m.res.fields 1 4 16 15 31)
  | 0x048 => gtOf m.applyT
  | 0x050 => epochOf m.applyT
  | 0x058 =>
    let T := s.activeView w
    pack [(0, 41, pl.period), (41, 6, pl.entry),
      (47, 1, b2n (pl.begun && decide (perStep T pl.entry ≠ 0) && decide (pl.period ≠ perEnd T pl.entry)))]
  | 0x064 => pack ([(0, 1, b2n x.measured), (1, 1, b2n x.calSeed), (2, 1, b2n x.seedBad), (3, 1, b2n x.calOp.isSome), (12, 8, x.calTj.toNat)] ++
      x.cal.fields 4 8 20 11 31)
  | 0x068 => x.chTerm.toNat
  | 0x070 => x.meas.toNat
  | 0x078 => x.pathTerm.toNat
  | 0x080 => gtOf x.calT
  | 0x088 => s.sreg k 3 off
  | 0x090 => s.sreg k 3 off + pack [(16, 12, (BitVec.ofInt 12 (x.driftAt s.now)).toNat)]
  | 0x0A0 => s.readSnap p off + pack [(48, 15, (s.snapOf p).seq), (63, 1, b2n (s.snapOf p).valid)]
  | _ => s.wreg w 3 off

/-- AFE page. Status of an unpowered channel reads its reset value (R371). -/
def State.readAfe (s : State) (w off : Nat) : Nat :=
  let k := s.slotOf w
  let p := s.pm w
  let on := (s.slot k).afeOn
  match off with
  | 0x058 => pack [(0, 1, b2n (on && p.lvlSettled)), (1, 2, p.lvl.outcome), (4, 4, p.lvl.reason), (8, 16, p.lvl.seq), (31, 1, b2n p.lvl.valid)]
  | 0x064 => pack (p.sw.fields 0 4 8 16 31)
  | 0x068 => pack [(0, 1, b2n (decide (k % 17 ≠ 16) && (s.clu (cluOf w)).kdut.getLsbD (k % 17))),
      (1, 1, b2n (decide (k % 17 = 16) && decide ((s.clu (cluOf w)).kspare ≠ 0))), (2, 1, b2n (s.slot k).kcal), (4, 5, k % 17),
      (16, 16, (s.slot k).checkV.toNat)]
  | _ => s.wreg w 5 off

/-- PMU page. Status of an unpowered channel reads its reset value (R371). -/
def State.readPmu (s : State) (w off : Nat) : Nat :=
  let p := s.pm w
  let on := (s.slot (s.slotOf w)).afeOn
  match off with
  | 0x058 => pack [(0, 2, if on then p.active else 0), (2, 1, b2n (on && p.settled)), (3, 1, b2n (on && p.clamped)), (4, 1, b2n (on && p.above)),
      (5, 1, b2n (on && p.below)), (6, 1, b2n p.forceEnded), (7, 1, b2n p.refused), (8, 4, p.reason)]
  | 0x068 => pack ([(0, 16, p.value.toNat), (16, 1, b2n p.flags.1), (17, 3, p.flags.2.1), (20, 1, b2n p.flags.2.2.1), (21, 1, b2n p.flags.2.2.2)] ++
      p.res.fields 24 26 32 16 63)
  | 0x070 => gtOf p.resT
  | 0x078 => epochOf p.resT
  | _ => s.wreg w 6 off

/-- CAP page. -/
def State.readCap (s : State) (w off : Nat) : Nat :=
  let c := s.cp w
  match off with
  | 0x048 => pack [(0, 1, b2n c.bitmapFull), (1, 1, b2n c.logFull), (2, 1, b2n c.logLost), (3, 1, b2n c.flushed), (4, 1, b2n c.areaRefused),
      (8, 7, s.acqMib w)]
  | 0x050 => pack [(0, 32, c.logEnt), (32, 32, c.words)]
  | 0x058 => pack [(0, 36, c.dropAddr), (48, 16, c.dropCount)]
  | _ => s.wreg w 7 off

/-- STP page. -/
def State.readStp (s : State) (w off : Nat) : Nat :=
  let p := winPage w 8
  let x := s.st w
  match off with
  | 0x04C => pack [(0, 1, b2n (x.isArmed s.t)), (1, 2, x.armCause), (3, 3, x.disarmCause), (8, 13, x.buf.length), (21, 1, b2n x.fullish),
      (22, 1, b2n x.lossPending), (23, 1, b2n x.refused), (24, 4, x.reason)]
  | 0x050 => gtOf x.armT
  | 0x058 => gtOf x.disarmT
  | 0x060 => pack [(0, 16, epochOf x.armT), (16, 16, epochOf x.disarmT)]
  | 0x074 => s.readSnapSeq p
  | 0x078 => s.readSnap p off
  | 0x080 => s.readSnap p off
  | _ => s.wreg w 8 off

/-- ACQ page. -/
def State.readAcq (s : State) (w off : Nat) : Nat :=
  let p := winPage w 9
  let e := s.en w
  let r := s.rd w
  let c := s.cw w
  if 0x0C0 ≤ off && off < 0x100 then s.readSnap p off
  else match off with
    | 0x048 => pack [(0, 1, b2n e.running), (1, 4, e.state), (5, 4, e.flags.toNat), (9, 1, b2n e.refused), (10, 3, e.reason), (16, 16, e.pulseDrop),
        (32, 32, e.transitions)]
    | 0x068 => pack [(0, 1, b2n r.armed), (1, 2, r.armCause), (3, 3, r.disarmCause), (6, 1, b2n r.refused), (7, 3, r.reason), (32, 32, r.interval)]
    | 0x070 => gtOf r.armT
    | 0x078 => epochOf r.armT
    | 0x090 => pack [(0, 2, c.phase), (2, 1, b2n c.clipped), (3, 1, b2n c.preShort), (4, 1, b2n c.refused), (5, 3, c.reason),
        (8, 22, c.rd % max c.cap 1), (32, 22, c.preHeld), (56, 8, c.ignored)]
    | 0x098 => pack [(0, 22, c.postEff), (32, 22, c.postHeld)]
    | 0x0A0 => gtOf c.trigT
    | 0x0A8 => epochOf c.trigT
    | 0x0B4 => s.readSnapSeq p
    | _ => s.wreg w 9 off

/-- A page's collector: its word, STAT, latch, SRC_STAT, REACT and COMPAT registers, `n` sources from `src` at the given offsets; `none` for a
register of another kind. -/
def State.readColl (s : State) (c : Coll) (src : Nat → Nat) (stat first srcs react compat n off : Nat) : Option Nat :=
  if off = stat then some c.stat
  else if off = first then some c.firstWord
  else if off = first + 8 then some c.firstGt
  else if srcs ≤ off && off < srcs + 8 * n then some (s.srcStat (src ((off - srcs) / 8)))
  else if react ≤ off && off < react + 4 * n then some (s.reg (reactKey (src ((off - react) / 4))))
  else if compat ≤ off && off < compat + 4 * n then some (s.reg (compatKey (src ((off - compat) / 4))))
  else none

/-- FLT page of a window: the collector of the slot it addresses (R291). -/
def State.readFltCh (s : State) (w off : Nat) : Nat :=
  let k := s.slotOf w
  if off = 0x040 then s.chWord k
  else (s.readColl (s.coll (chSrc k 0)) (chSrc k) 0x044 0x048 0x080 0x110 0x140 12 off).getD 0

/-- A register of page `q` of window `w` (R362). -/
def State.readWindow (s : State) (w q off : Nat) : Nat :=
  match q with
  | 0 => s.readCtl w off
  | 1 => s.readSeq w off
  | 2 => s.readSlu w off
  | 3 => s.readTim w off
  | 5 => s.readAfe w off
  | 6 => s.readPmu w off
  | 7 => s.readCap w off
  | 8 => s.readStp w off
  | 9 => s.readAcq w off
  | 10 => s.readFltCh w off
  | 11 => if off = 0x044 then s.readSnapSeq (winPage w 11) else if 0x048 ≤ off then s.readSnap (winPage w 11) off else 0
  | _ => s.wreg w q off

/-! Cluster pages. -/

/-- CLU_c. -/
def State.readClu (s : State) (c off : Nat) : Nat :=
  let p := cluPage c
  let x := s.clu c
  if 0x400 ≤ off && off < 0x800 then s.creg c off + pack [(20, 12, s.latRead c ((off - 0x400) / 4))]
  else if off = 0xA00 then s.cluWord c
  else if 0xA00 < off && off < 0xC00 then (s.readColl (s.coll (cluSrc c 0)) (cluSrc c) 0xA04 0xA08 0xA40 0xAD0 0xB00 12 off).getD 0
  else if 0xC00 ≤ off then s.readSnap p off
  else match off with
    | 0x040 => pack [(0, 1, b2n x.afeReq), (4, 2, x.afeState), (8, 1, b2n x.afeRefused)]
    | 0x904 => pack [(0, 1, b2n x.swapped.isSome), (1, 4, match x.swapped with | some k => k.toNat | none => 0)]
    | 0x90C => pack (x.swap.fields 0 4 8 16 31)
    | 0x910 => pack [(0, 17, x.retired.toNat), (30, 1, b2n x.retRefused)]
    | 0x914 => pack [(1, 1, b2n (!x.flushing))]
    | 0x920 => s.readSnapSeq p
    | _ => s.creg c off

/-! Device pages. -/

/-- A register that SMBus reads too, by its command code (R407). -/
def State.smbWord (s : State) (code : Nat) : Nat := ((s.smbValue code).getD (0, 0)).1

/-- DEV page. -/
def State.readDev (s : State) (off : Nat) : Nat :=
  let d := s.dev
  match off with
  | 0x040 => s.smbWord 0x00
  | 0x044 => s.smbWord 0x01
  | 0x048 => s.smbWord 0x02
  | 0x050 => pack [(0, 8, 128), (8, 8, 136), (16, 4, 8), (20, 2, 2), (24, 8, 32), (32, 5, 16), (37, 3, 4), (40, 8, 64), (48, 8, 64), (56, 8, 64)]
  | 0x058 => s.smbWord 0x03
  | 0x064 => d.commitSeq.toNat
  | 0x068 => s.smbWord 0x04
  | 0x078 => pack [(0, 3, d.cause), (4, 1, b2n d.refused), (16, 16, d.count), (32, 16, d.src), (48, 16, d.dropped)]
  | 0x090 => gtOf d.snapT
  | 0x098 => pack [(0, 16, epochOf d.snapT), (32, 16, d.snapSeq), (63, 1, b2n d.snapValid)]
  | _ => 0

/-- PWR page. -/
def State.readPwr (s : State) (off : Nat) : Nat :=
  let d := s.dev
  if 0x080 ≤ off && off < 0x0C0 then
    let x := s.clu ((off - 0x080) / 8)
    pack [(0, 11, (BitVec.ofInt 11 x.headroom).toNat), (11, 1, b2n x.noDemand), (16, 12, x.capacity), (32, 12, x.demand), (48, 15, x.hrSeq),
      (63, 1, b2n x.hrValid)]
  else if 0x0C0 ≤ off && off < 0x0E0 then s.dreg 1 off + pack [(16, 1, b2n (s.clu ((off - 0x0C0) / 4)).hrRefused)]
  else if 0x100 ≤ off && off < 0x130 then s.smbWord (0x20 + (off - 0x100) / 4)
  else match off with
    | 0x040 => pack [(0, 1, b2n (decide (d.bringup = 3) && !s.ref.present)), (1, 7, s.heldN), (8, 8, d.heldLost), (16, 16, d.buDropped)]
    | 0x04C => pack ([(8, 1, d.stkWhich)] ++ d.stkRes.fields 0 4 12 16 31)
    | 0x050 => pack [(0, 2, d.stk.1), (2, 2, d.stk.2), (16, 16, d.stkDrop)]
    | 0x058 => s.smbWord 0x10
    | 0x060 => s.smbWord 0x11
    | _ => 0

/-- REF page. -/
def State.readRef (s : State) (off : Nat) : Nat :=
  let r := s.ref
  match off with
  | 0x040 => pack [(0, 1, b2n r.locked), (1, 1, b2n r.holdover), (2, 1, b2n r.present), (3, 1, b2n r.slewing), (4, 1, b2n s.nywAligned), (16, 16, r.losses)]
  | 0x048 => gtOf s.t
  | 0x050 => epochOf s.t
  | 0x060 => s.readSnap 2 off
  | 0x068 => s.readSnap 2 off + pack [(32, 16, (s.snapOf 2).seq), (63, 1, b2n (s.snapOf 2).valid)]
  | 0x070 => r.lossT % 2 ^ 64
  | 0x078 => r.relockT % 2 ^ 64
  | 0x080 => pack [(0, 40, r.phase.toNat), (40, 1, b2n r.phaseNyw)]
  | 0x088 => r.alignT % 2 ^ 64
  | 0x090 => r.alignStep.toNat
  | _ => 0

/-- SYN page. -/
def State.readSyn (s : State) (off : Nat) : Nat :=
  let y := s.syn
  match off with
  | 0x064 => pack [(0, 8, y.trig.toNat), (8, 8, y.contention.toNat), (16, 1, b2n y.cfgRefused)]
  | 0x0A8 => y.startT % 2 ^ 64
  | 0x0B0 => y.stopT % 2 ^ 64
  | 0x0B8 => pack [(0, 16, y.startSeq.toNat), (16, 16, y.stopSeq.toNat)]
  | 0x108 => pack [(0, 2, y.lock.toNat), (2, 1, b2n s.nywAligned), (16, 16, y.dev.toNat), (32, 16, y.late), (48, 16, y.crcErr)]
  | 0x110 => pack (y.nyw.fields 0 4 8 16 31)
  | _ => s.dreg 3 off

/-- HVS registers of ring `c`, by their offset in its block. -/
def State.readHvs (s : State) (c o : Nat) : Nat :=
  let h := s.hv c
  match o with
  | 0x10 => pack [(0, 23, h.wr)]
  | 0x14 => pack [(0, 23, h.rd)]
  | 0x1C => pack [(0, 25, h.staged), (25, 1, b2n h.drops.first.isSome), (26, 1, b2n h.consRefused), (27, 1, b2n h.cfgRefused), (28, 1, b2n h.ready),
      (29, 1, b2n h.backlog)]
  | 0x20 => pack [(0, 48, h.dropAll), (48, 16, h.gaps)]
  | _ => s.hvsReg c o

/-- HST page. -/
def State.readHst (s : State) (off : Nat) : Nat :=
  let h := s.host
  if 0x400 ≤ off && off < 0x600 then s.readHvs ((off - 0x400) / 0x40) ((off - 0x400) % 0x40)
  else match off with
    | 0x040 => pack [(0, 3, if h.up then h.gen else 0), (3, 5, h.width), (8, 1, b2n h.up), (9, 1, b2n h.flit),
        (10, 2, if h.tag14 && h.flit then 2 else if h.tag10 then 1 else 0), (12, 1, b2n h.l1), (16, 16, h.retrains)]
    | 0x048 => pack [(0, 15, h.tags.length), (16, 15, h.poolSize), (32, 20, s.heldDemand), (52, 7, h.budget / 100),
        (63, 1, b2n (decide (h.budget < s.heldDemand)))]
    | 0x058 => pack [(0, 3, h.bar2Size), (3, 1, b2n h.winRefused), (16, 16, h.bar0Drop)]
    | _ => s.dreg 4 off

/-- FLT page. -/
def State.readFlt (s : State) (off : Nat) : Nat :=
  let f := s.flt
  match off with
  | 0x040 => s.devWord
  | 0x060 => s.dreg 6 off + pack [(16, 1, b2n f.pol)]
  | 0x068 => s.smbWord 0x08
  | 0x074 => s.smbWord 0x09
  | 0x080 => pack [(0, 12, f.logWr)]
  | 0x084 => pack [(0, 12, f.logRd)]
  | 0x08C => pack [(0, 12, f.logLevel), (12, 1, b2n f.logReady), (16, 16, f.logLost)]
  | _ => match s.readColl s.colDev devOfJ 0x048 0x050 0x400 0x760 0x880 72 off with
    | some v => v
    | none => s.dreg 6 off

/-- MEM page. -/
def State.readMem (s : State) (off : Nat) : Nat :=
  match off with
  | 0x048 => pack [(0, 36, s.mem.scrub.1), (40, 24, s.mem.passes.1)]
  | 0x050 => pack [(0, 36, s.mem.scrub.2), (40, 24, s.mem.passes.2)]
  | 0x05C => s.readSnapSeq 8
  | 0x060 => s.readSnap 8 off
  | 0x068 => s.readSnap 8 off
  | 0x070 => (Tab.get 0 s.mem.last 0).toNat
  | 0x078 => (Tab.get 0 s.mem.last 1).toNat
  | _ => s.dreg 8 off

/-- WST page. -/
def State.readWst (s : State) (off : Nat) : Nat :=
  if 0x400 ≤ off then s.readSnap 9 off
  else match off with
    | 0x044 => pack ((List.range 16).map fun b => (2 * b, 2, s.bankState b))
    | 0x048 => pack ([(8, 4, s.mem.bankWhich)] ++ s.mem.bankRes.fields 0 4 12 16 31)
    | 0x050 => s.mem.collide.toNat
    | 0x058 => (Tab.get 0 s.mem.last 2).toNat
    | 0x064 => s.readSnapSeq 9
    | _ => 0

/-- MCH page. -/
def State.readMch (s : State) (off : Nat) : Nat :=
  let m := s.mem
  if 0x080 ≤ off && off < 0x0C0 then
    let b := (off - 0x080) / 4
    let used := min 16 (Config.factorySpares b)
    pack [(0, 5, used), (8, 5, s.fieldShots b), (16, 6, 32 - used - s.fieldShots b)]
  else match off with
    | 0x050 => pack ([(0, 2, m.march), (8, 28, m.rows), (36, 16, m.fails)] ++ m.marchRes.fields 2 4 52 11 63)
    | 0x058 => match m.failLoc with
      | some (t, row, col) => pack [(0, 5, t), (5, 26, row), (32, 14, col), (63, 1, 1)]
      | none => 0
    | 0x060 => pack [(0, 16, m.startup.toNat), (31, 1, b2n m.startupDone)]
    | 0x06C => pack (m.repairRes.fields 0 4 8 16 31)
    | _ => s.dreg 10 off

/-- SEC page. -/
def State.readSec (s : State) (off : Nat) : Nat :=
  let x := s.sec
  match off with
  | 0x040 => pack [(0, 3, x.lc), (3, 1, b2n x.trans.isSome), (4, 1, b2n s.keep.kek.isSome), (5, 1, b2n (decide (x.staged = 0xFF)))]
  | 0x048 => pack (x.res.fields 0 4 8 16 31)
  | 0x0C8 => pack ([(8, 6, x.keySlot)] ++ x.keyRes.fields 0 4 14 16 31)
  | 0x0D0 => x.keyMap.toNat
  | 0x0E8 => s.storeRead
  | 0x108 => pack [(0, 1, b2n x.erase.isSome), (1, 2, x.eraseRes.outcome), (3, 3, x.eraseRes.reason), (16, 16, x.eraseRes.seq), (32, 20, x.granules),
      (63, 1, b2n x.eraseRes.valid)]
  | 0x110 => pack [(0, 4, x.active.toNat), (16, 16, x.wipes)]
  | 0x118 => x.tamperT % 2 ^ 64
  | 0x0E0 => s.dreg 11 off
  | _ => 0

/-- LDG page. -/
def State.readLdg (s : State) (off : Nat) : Nat :=
  let k := s.keep
  let count := fun (c : EClass) => (k.ledger.filter fun e => decide (entryClass e.2 = c)).length
  let used := fun (kind : Nat) => s.ledgerUsed kind fun _ => true
  if 0x080 ≤ off && off < 0x0A0 then bits (Tab.get 0 k.ledger (s.dreg 12 0x060)).toNat (8 * (off - 0x080)) 64
  else match off with
    | 0x040 => pack [(0, 11, s.nextBlank.getD 1024), (16, 10, count .void + count .torn), (26, 10, count .bad), (63, 1, b2n k.verified)]
    | 0x048 => pack [(0, 3, used 2), (8, 4, used 4), (16, 3, used 5), (20, 2, used 6)]
    | 0x050 => k.subsys.toNat
    | 0x058 => pack ([(8, 4, k.rwlKind)] ++ k.rwl.fields 0 4 12 16 31)
    | _ => s.dreg 12 off

/-- A register of device page `p` (R361). -/
def State.readDevice (s : State) (p off : Nat) : Nat :=
  match p with
  | 0 => s.readDev off
  | 1 => s.readPwr off
  | 2 => s.readRef off
  | 3 => s.readSyn off
  | 4 => s.readHst off
  | 5 =>
    if off = 0x048 then pack [(0, 1, b2n s.host.bme), (1, 1, b2n s.host.msixEn), (2, 1, b2n s.host.funcMask), (3, 1, b2n s.host.addrRefused),
      (16, 16, s.host.skipped)]
    else s.dreg 5 off
  | 6 => s.readFlt off
  | 8 => s.readMem off
  | 9 => s.readWst off
  | 10 => s.readMch off
  | 11 => s.readSec off
  | 12 => s.readLdg off
  | 13 =>
    if off = 0x04C then pack [(0, 2, s.flt.inj.outcome), (4, 4, s.flt.inj.reason), (8, 1, b2n s.flt.coincided), (16, 15, s.flt.inj.seq),
      (31, 1, b2n s.flt.inj.valid)]
    else if off = 0x050 then s.flt.injT % 2 ^ 64 else s.dreg 13 off
  | 14 => if off = 0x040 then pack [(0, 1, b2n s.internalLocked), (1, 1, b2n s.keep.tap), (16, 16, s.keep.jtag)] else s.dreg 14 off
  | _ => 0

/-! All of BAR 0. -/

/-- What the register at a BAR 0 address reads (R360 to R364). -/
def State.regRead (s : State) (a : Nat) : Nat :=
  let p := a / 0x1000
  let off := a % 0x1000
  if off < 0x40 then s.readHeader p off
  else if 0x1000 ≤ p then s.readWindow ((p - 0x1000) / 16) (p % 16) off
  else if 0x10 ≤ p then s.readClu (p - 0x10) off
  else s.readDevice p off

/-- A dword of the MSI-X table, or of its pending-bit array (R338, R343). -/
def State.msixRead (s : State) (a : Nat) : Nat :=
  if a < 0x81000 then (Tab.get (if a % 16 = 12 then 1 else 0) s.host.msixTab (a - 0x80000)).toNat
  else flagWord ((List.range 32).map fun i => Tab.get false s.host.msixPend (8 * (a - 0x81000) + i))

/-- The byte at a BAR 0 address: of the register that holds it; zero where none does (R339). -/
def State.bar0Byte (s : State) (a : Nat) : Byte :=
  let b4 := a / 4 * 4
  let b8 := a / 8 * 8
  if 0x80000 ≤ a && a < 0x81020 then BitVec.ofNat 8 (bits (s.msixRead b4) (8 * (a % 4)) 8)
  else match regAt b4 with
    | some _ => BitVec.ofNat 8 (bits (s.regRead b4) (8 * (a - b4)) 8)
    | none => match regAt b8 with
      | some r => if r.size = 8 then BitVec.ofNat 8 (bits (s.regRead b8) (8 * (a - b8)) 8) else 0
      | none => 0

/-- A BAR 0 read of `n` bytes, up to 64 (R339): all at one instant (R342); zeros before SERVICEABLE outside the DEV and PWR pages (R382). It
changes nothing (R371). -/
def State.bar0Read (s : State) (a n : Nat) : List Byte :=
  let s := s.linkDue
  (List.range n).map fun i => if s.dev.bringup ≠ 5 && 1 < (a + i) / 0x1000 then 0 else s.bar0Byte (a + i)

/-- The answer to a BAR 0 read that arrives now; none while it waits for a commit that arrived before it (R341, R374). -/
def State.bar0Serve (s : State) (a n : Nat) : Option (List Byte) := if s.committing then none else some (s.bar0Read a n)

end Sys2Proof.Machine
end

