-- ==== Sys2Proof/Tests/Slice0.lean ====
section
/-!
SUPPORT. Sys2Proof/Tests/Slice0.lean: for every obligation with hypotheses a state and operands that meet them, a term that each
well-formedness check refuses, and single steps and values worked out from the manual.
-/

set_option Elab.async false

namespace Sys2Proof.Tests
open Sys2Proof.Machine

/-! States for the witnesses. -/

/-- A serviceable part: bring-up over, GT running, timebase locked, host link up. -/
def up : State :=
  { State.reset with
    gtRun := true, t := 10000000, now := 20000000
    dev := { porLow := false, bringup := 5, stk := (0, 0) }
    ref := { locked := true, present := true }
    host := { up := true, bme := true, perst := true } }

/-- Window `w` of `s` changed by `f`. -/
def win (s : State) (w : Nat) (f : Win → Win) : State := s.modWin w f
/-- Window `w` of `s` in a mode. -/
def inMode (s : State) (w : Nat) (m : Mode) : State := s.modMd w fun x => { x with mode := m }
/-- The AFE die of cluster `c` is on. -/
def afeOn (s : State) (c : Nat) : State := s.modClu c fun x => { x with afeReq := true, afeState := 2 }

/-- A HOLD, a LAND and a PLAY descriptor of 64 vectors each, with their checks. -/
def holdD : RawDesc := 0xd7cde39a00000000000000000000000000008000000000000000000000000000000fffff000fffff000000000000000000000040000000000000000000000009
def landD : RawDesc := 0xfad52dd400000000000000000000000000000000000000000000000000000000000fffff000fffff000000010000000000000040000000080000000100000008
def playD : RawDesc := 0x370e25a400000000000000000000000000000000000000000000000000000000000fffff00000001000000020000000000000040000000100000000200000001

/-- Window 3 in READY with a sound program of three descriptors, entered at entry 2. -/
def programmed : State :=
  let m := Memory.store (Memory.store (Memory.store [] (catStore 3) (bytesOf holdD.toNat 64)) (catStore 3 + 64) (bytesOf landD.toNat 64))
    (catStore 3 + 128) (bytesOf playD.toNat 64)
  ((inMode (afeOn up 0) 3 .ready).setStack m).setReg (pageAddr (winPage 3 1) 0x040) 2

/-- A transition of window `w` in progress. -/
def moving (s : State) (w cmd : Nat) (target : Mode) : State := s.modMd w fun m => { m with
  trans := some { cmd := cmd, tag := 7, target := target, at_ := 5, swOp := 0, oversub := false, cancelled := false, hot := false } }
/-- A start and a stop are due at window 3. -/
def eventDue (s : State) : State :=
  ({ s with syn := { s.syn with starts := [20], stops := [20] } }.setReg (pageAddr 3 0x080) 8).setReg (pageAddr 3 0x090) 8

/-! Witnesses: states and operands that meet the hypotheses of the statements. -/

def armed : State := inMode programmed 3 .armed
def arming : State := (moving programmed 3 4 .armed).modMd 3 fun m => { m with startMissed := true }

theorem witness_StepTakesTheFront : ({ up with pending := [.aliveToggle 0] } : State).pending = .aliveToggle 0 :: [] ∧ up.pending = [] := by decide +kernel

theorem witness_StepKeepsCanonical : programmed.canonical = true := by decide +kernel

theorem witness_StartEventsOutsideArmed :
    let a := (eventDue programmed).advance 0
    let b := (eventDue arming).advance 0
    (a.noEdgeDue = true ∧ a.syn.starts = [20] ∧ 20 ≤ a.t ∧ 3 ∈ a.maskPins 0x080 ∧ a.mode 3 ≠ .armed ∧ (a.md 3).trans = none) ∧
    (b.syn.starts = [20] ∧ 20 ≤ b.t ∧ 3 ∈ b.maskPins 0x080 ∧ (b.md 3).trans.any fun x => x.cmd = 4 ∧ x.swOp = 0 ∧ x.target = .armed ∧
      ¬ x.cancelled ∧ ¬ x.hot) ∧ ((b.md 3).startMissed = true ∧ (b.sl 3).streamFirst = false) ∧
    (let c := programmed.advance 0
     c.takesMode 3 = true ∧ c.modeFree 3 = true ∧ c.noneFirst 3 = true ∧ c.mode 3 = .ready ∧ c.sec.lc ≠ 4 ∧ c.sec.trans = none ∧
       (c.armCheck 3 []).fault = none ∧ (c.armCheck 3 []).keys = [] ∧ c.ref.locked = true) := by decide +kernel

/-- Ring 0 holds 3 records of 64 slots, its read pointer at the last place of the pointer's range. -/
def ring0 : State := (up.setReg (pageAddr 4 (hvsOff 0 0)) 13).modHv 0 fun h => { h with wr := 2, rd := 127 }

theorem witness_HostAdvancesItsRing :
    let a := ring0.advance 0
    let m := 2 ^ (a.hvsBits 0 + 1)
    a.takes 4 = true ∧ ((2 < m ∧ (2 + m - (a.hv 0).rd % m) % m ≤ a.hvsLevel 0) ∧ (0 < m ∧ (0 + m - (a.hv 0).rd % m) % m ≤ a.hvsLevel 0)) ∧
    ¬ (3 < m ∧ (3 + m - (a.hv 0).rd % m) % m ≤ a.hvsLevel 0) ∧ ¬ 128 < m := by decide +kernel

/-- BAR 2 of 1 GiB, its window at 1 GiB. -/
def bar2 : State := (up.modHost fun h => { h with bar2Size := 0 }).setReg (pageAddr 4 0x050) (2 ^ 30)

theorem witness_Bar2Window :
    let a := bar2.advance 0
    (2 ^ 30 - 8 + 8 ≤ 2 ^ (30 + a.host.bar2Size) ∧ a.dev.bringup = 5 ∧ a.stackOn ((bits (a.dreg 4 0x050) 0 36 + (2 ^ 30 - 8)) / 0x800000000) = true) ∧
    (let x := bits (a.dreg 4 0x050) 0 36 + (2 ^ 30 - 8)
     x / 0x800000000 = (x + 8 - 1) / 0x800000000 ∧ (0x7FFFFFFFC / 0x800000000 ≠ (0x7FFFFFFFC + 8 - 1) / 0x800000000)) ∧
    a.takes 4 = true ∧ bits (2 ^ 30) 30 6 * 2 ^ 30 % 2 ^ (30 + a.host.bar2Size) = 0 ∧
    bits (2 ^ 30) 30 6 * 2 ^ 30 % 2 ^ (30 + (bar2.modHost fun h => { h with bar2Size := 6 }).host.bar2Size) ≠ 0 := by decide +kernel

/-- The spare window of cluster 0 serves pin 3, while another window of its bus has its K_SPARE closed. -/
def busTaken : State := (inMode (afeOn up 0) 3 .parked).modClu 0 fun x => { x with swapped := some 3, kspare := 1 }
/-- Window 3 in RUN with its next vector to come, a stop scheduled or not. -/
def runningOn (stopped : Bool) : State := ((inMode programmed 3 .run).modPl 3 fun p => { p with begun := true, nextT := 10000900, period := 1024 }).modSq 3
  fun q => { q with loaded := true, cur := playD, stop := if stopped then some (1, 5) else none }
def inReset : State := { up with dev := { up.dev with bringup := 2 } }
/-- A page of `s` is under reset. -/
def pageReset (s : State) (p : Nat) : State := s.modDev fun d => { d with resets := [p] }
/-- The program's PLAY asks for key slot 5, which is empty. -/
def keyed : State := programmed.setStack (Memory.store programmed.stackMem (catStore 3 + 128) (bytesOf
  0x10fee44200000000000000000000000000000006000000000000000000000000000fffff00000001000000020000000000000040000000100000000200000001 64))

theorem witness_ModeCommandsBegin :
    let a := (inMode (afeOn up 0) 3 .parked).advance 0
    let b := (afeOn up 0).advance 0
    let c := (inMode (afeOn up 0) 3 .service).advance 0
    (a.takesMode 3 = true ∧ a.modeFree 3 = true ∧ a.noneFirst 3 = true ∧ a.mode 3 = .parked ∧ a.sec.lc ≠ 4 ∧ a.sec.trans = none ∧
      a.spareTaken 3 = false ∧ a.calHot 3 0 = false ∧ a.contactHot 3 (a.closeDrop 3 0) = false) ∧
    (c.takesMode 3 = true ∧ c.modeFree 3 = true ∧ c.noneFirst 3 = true ∧ c.mode 3 = .service ∧ c.calHot 3 0 = false) ∧
    (b.takesMode 3 = true ∧ b.modeFree 3 = true ∧ b.noneFirst 3 = true ∧ b.mode 3 = .off ∧ (b.clu (cluOf 3)).afeState = 2) ∧
    (armed.takesMode 3 = true ∧ armed.modeFree 3 = true ∧ armed.noneFirst 3 = true ∧ armed.mode 3 = .armed) ∧
    (programmed.takesMode 3 = true ∧ programmed.modeFree 3 = true ∧ programmed.noneFirst 3 = true ∧ programmed.mode 3 = .ready ∧
      (48 : BitVec 16).toInt.natAbs ≤ 48) := by decide +kernel

theorem witness_ModeCommandsRefused :
    let a := (inMode (afeOn up 0) 3 .parked).advance 0
    (inReset.dev.regPhase = false ∧ inReset.dev.bringup ≠ 5) ∧
    (let r := (pageReset up 0x1031).advance 0
     r.dev.regPhase = false ∧ r.dev.bringup = 5 ∧ r.committing = false ∧ r.modeHeld 3 = true) ∧
    (let m := (moving (inMode up 3 .parked) 3 3 .ready).advance 0
     m.takesMode 3 = true ∧ m.noneFirst 3 = true ∧ m.modeFree 3 = false ∧ (m.md 3).trans.any fun x => x.cmd ≠ 4) ∧
    (a.takesMode 128 = true ∧ a.noneFirst 128 = true ∧ a.modeFree 128 = true ∧ a.mode 128 = .off ∧ a.armedRun 3 = false ∧ a.lcBars = false ∧
      armed.armedRun 3 = true ∧ (up.clu (cluOf 3)).afeState ≠ 2 ∧ (up.modSec fun x => { x with lc := 4 }).lcBars = true) ∧
    (busTaken.mode 3 = .parked ∧ busTaken.spareTaken 3 = true ∧ busTaken.takesMode 3 = true ∧ busTaken.noneFirst 3 = true ∧ busTaken.modeFree 3 = true) ∧
    ((inMode up 3 .ready).armCheck 3 []).fault.isSome = true ∧ ((keyed.armCheck 3 []).fault = none ∧ 6 ∈ (keyed.armCheck 3 []).keys ∧ keyed.keyOf 6 = none) ∧
    (programmed.modRef fun r => { r with locked := false }).ref.locked = false := by decide +kernel

theorem witness_StopsAndCancels :
    (let r := (runningOn false).advance 0
     r.takesMode 3 = true ∧ r.noneFirst 3 = true ∧ r.modeFree 3 = true ∧ r.mode 3 = .run ∧ r.noJumpDue 3 = true ∧ (r.sq 3).stop = none ∧
       (r.sq 3).landing = 0 ∧ r.landChosen 3 = false ∧ ((runningOn true).sq 3).stop.isSome = true) ∧
    (let g := (moving programmed 3 4 .armed).advance 0
     g.takesMode 3 = true ∧ g.noneFirst 3 = true ∧ g.mode 3 = .ready ∧ (g.md 3).trans.any fun x => x.cmd = 4 ∧ x.swOp = 0) := by decide +kernel

/-- Window 3 has begun its burst, or its first vector is due, or its landing's last vector has played. -/
def running : State := (inMode programmed 3 .run).modPl 3 fun p => { p with begun := true, nextT := 9999000, period := 1024 }
def startingRun : State := running.modPl 3 fun p => { p with begun := false }
def landed3 : State := running.modSq 3 fun q => { q with loaded := true, cur := landD, landing := 2, ofs := 64, decided := some .finish }

theorem witness_BurstsAreLoadedAndPlayed :
    let a := programmed.advance 0
    let b := armed.advance 0
    let c := startingRun.advance 0
    let d := landed3.advance 0
    (a.takesMode 3 = true ∧ a.modeFree 3 = true ∧ a.noneFirst 3 = true ∧ a.mode 3 = .ready ∧ a.sec.lc ≠ 4 ∧ a.sec.trans = none ∧
      (a.armCheck 3 []).fault = none ∧ (a.armCheck 3 []).keys = [] ∧ a.ref.locked = true) ∧
    (b.takesMode 3 = true ∧ b.modeFree 3 = true ∧ b.noneFirst 3 = true ∧ b.mode 3 = .armed) ∧
    (c.mode 3 = .run ∧ (c.pl 3).begun = false ∧ (c.pl 3).nextT ≤ c.t) ∧
    (d.mode 3 = .run ∧ (d.pl 3).begun = true ∧ (d.ho 3).on = false ∧ (d.sq 3).ofs = (d.sq 3).playEnd ∧ (d.sq 3).decided = some .finish ∧
      (d.pl 3).nextT ≤ d.t) := by decide +kernel

theorem witness_ModeCommandsFinish :
    let a := (moving (inMode up 3 .parked) 3 1 .off).advance 0
    let b := (moving (inMode up 3 .parked) 3 3 .ready).advance 0
    (up.takesMode 3 = true ∧ up.modeFree 3 = true ∧ up.noneFirst 3 = true ∧ 9 ≤ (9 : BitVec 4).toNat ∧ 9 ≤ (15 : BitVec 4).toNat) ∧
    (cluWins 0)[0]? = some 0 ∧ (cluWins 0)[16]? = some 128 ∧ up.takesMode 0 = true ∧ up.takesMode 128 = true ∧
    ((a.md 3).trans.any fun x => x.cmd = 1 ∧ x.swOp = 0 ∧ ¬ x.cancelled ∧ ¬ x.hot) ∧
    ((b.md 3).trans.any fun x => x.swOp = 0 ∧ b.movesSwitch 3 x) ∧
    (((moving (inMode up 3 .parked) 3 3 .ready).modMd 3 fun m => { m with trans := m.trans.map fun x => { x with hot := true } }).md 3).trans.any fun x =>
      x.swOp = 0 ∧ x.hot ∧ ¬ x.cancelled := by decide +kernel

theorem witness_ReadyDriveAndClusterPower :
    let a := up.advance 0
    (a.takes (winPage 3 0) = true ∧ a.mode 3 = .off) ∧ (armed.mode 3 = .armed ∧ (armed.md 3).trans = none ∧ forces (armed.pm 3).active = false) ∧
    a.takes (cluPage 0) = true ∧ (∀ w ∈ cluWins 0, a.mode w = .off ∧ (a.md w).trans = none) := by decide +kernel

/-- Window 3 with its burst loaded: a PLAY of 64 vectors played twice, entry 1 its NEXT; jump slot 0 names entry 2. -/
def loaded3 : State := (programmed.modSq 3 fun q => { q with
    loaded := true, hold0 := holdD, land1 := landD, cur := playD, play := 1, ents := [0, 1, 2], trace := [0] }).setReg
  (pageAddr (winPage 3 1) 0x060) (2 + 2 ^ 24)
def queued (n : Nat) : State := loaded3.modSq 3 fun q => { q with reqs := List.replicate n { slot := 0, at_ := 7 } }
def stopping : State := loaded3.modSq 3 fun q => { q with stop := some (5, 1) }

theorem witness_FlagsTargetsAndJumpRequests :
    let a := loaded3.advance 0
    (a.takes (winPage 3 1) = true ∧ a.noJumpDue 3 = true) ∧ ((up.sq 3).loaded = false ∧ (up.sq 3).decided = none ∧ up.noJumpDue 3 = true) ∧
    ((a.sq 3).loaded = true ∧ (a.sq 3).stop = none ∧ a.jumpEn 3 0 = true ∧ (a.sq 3).jrej.getLsbD 0 = false ∧ (a.sq 3).reqs.length < 4) ∧
    ((queued 3).sq 3).reqs.length < 4 ∧ 4 ≤ ((queued 4).sq 3).reqs.length ∧ (stopping.sq 3).stop ≠ none ∧
    a.slotOpen 3 0 = true ∧ a.slotOpen 3 1 = false ∧
    (let r := loaded3.setReg (pageAddr (winPage 3 1) 0x060) (2 ^ 24)
     r.roleShelf 3 (.jump 0) = some 0 ∧ r.slotRejected 3 0 = true ∧ roleGet (.jump 0) (r.sq 3).fetched = none ∧ r.stackOn (3 / 64 % 2) = true) := by
  decide +kernel

/-- A reaction input of window 3 has a decision on its way, and its signals are true. -/
def reacting : State := (afeOn up 0).modFb 3 fun f => { f with sigs := 0x1F, due := [(9999000, 2, true), (10000700, 1, true)] }

theorem witness_FabricRoutesAndExports : (reacting.advance 0).takes (cluPage 0) = true ∧ (reacting.advance 0).takes (cluPage 7) = true := by
  decide +kernel

/-- Window 3 in RUN in its PLAY, with `n` vectors of the play's 64 played. -/
def playing (n : Nat) : State := ((inMode loaded3 3 .run).modSq 3 fun q => { q with ofs := n, decided := if n = 0 then none else some .again }).modPl 3 fun p => { p with
  begun := true, nextT := 9999000, decT := 9998000, lastT := 9998000, period := 1024, n := n, vectors := n }
def deciding : State := (playing 63).modSq 3 fun q => { q with play := 2, decided := none }
def atBoundary (c : Choice) : State := (playing 64).modSq 3 fun q => { q with
  decided := some c, fetched := [(.next, .good landD), (.alt, .good playD), (.ret, .good playD)], stack := [2] }

/-- A slice of 16 vectors that hold their code. -/
def slice3 : Slice := { codes := 0x3333333333333333, lane := 0, altCodes := 0, altLane := 0 }

theorem witness_FetchesAndReads :
    let a := loaded3.advance 0
    (a.roleShelf 3 .next = some 1 ∧ roleGet .next (a.sq 3).fetched = none ∧ a.stackOn (3 / 64 % 2) = true) ∧ a.roleShelf 3 .alt = none ∧
    (a.roleShelf 3 (.jump 0) = some 2 ∧ roleGet (.jump 0) (a.sq 3).fetched = none ∧ a.slotRejected 3 2 = false) ∧
    (up.modDev fun d => { d with stk := (1, 0) }).stackOn (3 / 64 % 2) = false ∧
    ((a.sq 3).loaded = true ∧ a.stackOn (3 / 64 % 2) = true ∧ a.bankOn (cluOf 3) = true ∧ (a.sq 3).segOf .path ≠ none ∧ a.nextWhole 3 .path = false) ∧
    (let b := (atBoundary .next).modSl 3 fun x => { x with bufs := [(.next, { lo := 0, slices := List.replicate 4 slice3 })] }
     (b.sq 3).loaded = true ∧ b.stackOn (3 / 64 % 2) = true ∧ b.bankOn (cluOf 3) = true ∧ (b.sq 3).segOf .next ≠ none ∧ b.nextWhole 3 .next = true) := by
  decide +kernel

theorem witness_DecisionsAndBoundaries :
    let a := deciding.advance 0
    let b := (atBoundary .next).advance 0
    (playing 3).advance 0 = playing 3 ∧ ((playing 3).sq 3).owesDecision = false ∧
    (a.mode 3 = .run ∧ (a.pl 3).begun = true ∧ (a.ho 3).on = false ∧ (a.sq 3).owesDecision = true ∧ a.noJumpDue 3 = true) ∧
    a.programChoice 3 (a.pl 3).decT = .next ∧ (a.sq 3).stopDue true (a.pl 3).decT = false ∧
    ((deciding.modSq 3 fun q => { q with stop := some (5, 1) }).sq 3).stopDue true (a.pl 3).decT = true ∧
    readyReq 1 (a.pl 3).decT ((queued 1).sq 3).reqs ≠ none ∧ readyReq 0 (a.pl 3).decT ((queued 1).sq 3).reqs = none ∧
    ((deciding.modSq 3 fun q => { q with cur := landD }).programChoice 3 (a.pl 3).decT) = .finish ∧
    (b.mode 3 = .run ∧ (b.pl 3).begun = true ∧ (b.ho 3).on = false ∧ (b.sq 3).ofs = (b.sq 3).playEnd ∧ (b.pl 3).nextT ≤ b.t ∧
      b.stageDue 3 = false ∧ roleGet .next (b.sq 3).fetched = some (.good landD)) := by decide +kernel

/-- The Sluice of window 3 holds the slices of its PLAY. -/
def supplied3 (n : Nat) : State := (playing n).modSl 3 fun x => { x with
  bufs := [(.path, { lo := 0, slices := List.replicate 4 slice3 })] }

theorem witness_VectorsPlayOrUnderrun :
    let a := (supplied3 3).advance 0
    (a.mode 3 = .run ∧ (a.pl 3).begun = true ∧ (a.ho 3).on = false ∧ (a.pl 3).nextT ≤ a.t ∧ (a.sq 3).ofs < (a.sq 3).playEnd ∧
      (a.sq 3).owesDecision = false ∧ a.stageDue 3 = false ∧ a.slicePresent 3 ≠ none) ∧
    (playing 3).slicePresent 3 = none ∧ (deciding.sq 3).owesDecision = true := by decide +kernel

/-- Window 3 in its holding pattern, `n` vectors of the pass played. -/
def holding (n : Nat) (last : Bool) : State := (playing 20).modHo 3 fun h => { h with
  on := true, at_ := 9990000, nextT := 9999000, ofs := n, pass := 1, last := last }

theorem witness_HoldingPasses :
    let a := (holding 1 false).advance 0
    let b := (holding 64 true).advance 0
    ((a.ho 3).on = true ∧ (a.ho 3).ofs + 63 = (a.sq 3).holdLen ∧ (a.ho 3).resumeAt = none) ∧ ((playing 3).ho 3).on = false ∧
    ((b.ho 3).on = true ∧ (b.ho 3).ofs = (b.sq 3).holdLen ∧ (b.ho 3).nextT ≤ b.t ∧ (b.ho 3).last = true) ∧
    (b.ho 3).resumeAt = none ∧ (b.sq 3).policyNow = 0 ∧
    (∀ p ∈ [1, 2], ((b.modSq 3 fun q => { q with cur := q.cur ||| BitVec.ofNat 512 (512 * p) }).sq 3).policyNow = p) ∧
    (b.stopInHold 3 ((b.ho 3).nextT - 1) = false ∧ (((holding 64 false).advance 0).ho 3).last = false) ∧
    (((holding 5 false).ho 3).on = true ∧ ((holding 5 false).ho 3).ofs < ((holding 5 false).sq 3).holdLen ∧
      ((holding 5 false).ho 3).ofs + 63 ≠ ((holding 5 false).sq 3).holdLen) ∧
    (let c := (((holding 64 true).modSq 3 fun q => { q with stop := some (5, 9995000) }).modHo 3 fun h => { h with resumeAt := some 9998000 }).advance 0
     (c.ho 3).resumeAt = some 9998000 ∧ c.stopInHold 3 9998000 = true) := by decide +kernel

/-- Window 3's intake ring is on, with three descriptors posted, and `bufs` read. -/
def intake (bufs : List (Nat × Nat × Nat × Bool)) : State :=
  ((up.setReg (pageAddr (winPage 3 2) 0x050) (0x1010)).setReg (pageAddr (winPage 3 2) 0x060) 31).modHost (fun h => { h with
    bme := true, tags := [(0, 5)] }) |>.modIk 3 fun k => { k with cons := 16, fetch := 17, bufs := bufs }
def posting : State := ((intake []).setReg (pageAddr (winPage 3 2) 0x058) 0x9001).modIk 3 fun k => { k with
  postDue := true, postAt := some 18976000 }

theorem witness_IntakeRegistersAndTraffic :
    let a := (intake []).advance 0
    let b := posting.advance 0
    a.takes (winPage 3 2) = true ∧ ((0 : BitVec 32).toNat < 32 ∧ (0 + 32 - (a.ik 3).cons) % 32 ≤ 16 ∧ (a.ringBits 3 = 4)) ∧
    (16 < (1 + 32 - (a.ik 3).cons) % 32 ∧ ¬ 32 < 2 ^ (a.ringBits 3 + 1)) ∧ a.armedRun 3 = false ∧ armed.armedRun 3 = true ∧
    (bits (0x102000 : BitVec 32).toNat 0 3 ≤ 5 ∧ bits (0x102000 : BitVec 32).toNat 20 12 < bits (0x102000 : BitVec 32).toNat 8 12 ∧
      64 * bits (0x102000 : BitVec 32).toNat 8 12 ≤ 8192 - 6144 ∧ a.otherSluices 3 + 8192 ≤ 2 * 0x100000 ∧ bits (0x102006 : BitVec 32).toNat 0 3 > 5) ∧
    (a.canIssue = true ∧ ((List.range 136).map fun i => (a.host.lastWin + 1 + i) % 136).find? (fun w => (a.issuable w).isSome) = some 3 ∧
      freeTag (a.host.tags.map (·.1)) a.host.poolSize 0 = some 1 ∧ a.issuable 3 = some (0x1020, 32, true)) ∧
    ((b.ik 3).postDue = true ∧ (b.ik 3).postAt = some 18976000 ∧ 18976000 + us ≤ b.now ∧ bit (b.wreg 3 2 0x058) 0 = true ∧
      b.canIssue = true) := by decide +kernel

/-- A descriptor read of window 3 is in flight. -/
def reading : State := (intake []).modHost (fun h => { h with tags := [(7, 3)] }) |>.modIk 3 fun k => { k with
  reqs := [{ tag := 7, size := 32, got := [1, 2], taken := 2, desc := true, dead := false }] }

theorem witness_CompletionsArrive :
    let a := reading.advance 0
    a.host.tags.find? (fun x => x.1 = 7) = some (7, 3) ∧ ((a.ik 3).reqs.find? (fun q => q.out 7)).any (fun q => !q.dead && decide ((a.ik 3).reqs = [q]) &&
      decide (q.got.length + 29 < q.size)) ∧ (a.ik 3).bytes.length < 32 ∧ CplStatus.abort ≠ .ok := by decide +kernel

theorem witness_FramesWriteOnlyTheirVectorArea :
    let a := reading.advance 0
    a.host.tags.find? (fun x => x.1 = 7) = some (7, 3) ∧ bits (a.wreg 3 2 0x048) 0 9 + 2 ^ bits (a.wreg 3 2 0x048) 12 3 ≤ 384 := by decide +kernel

def unlocked : State := { up with ref := { up.ref with locked := false, slewing := true } }

theorem witness_LockAndEpoch : (up.advance 0).ref.locked = true ∧ ((unlocked.advance 0).ref.locked = false ∧ (unlocked.advance 0).gtRun = true) ∧
    (unlocked.advance 0).ref.slewing = true ∧ up.gtRun = true := by decide +kernel

def staged (point : Nat) : State := programmed.modTm 3 fun x => { x with pend := some ([(0x3400, 5)], point, 9) }

/-- TIM and TS registers of window 3 of `s`: page, offset and value. -/
def timed (l : List (Nat × Nat × Nat)) (s : State) : State := l.foldl (fun s x => s.setReg (pageAddr (winPage 3 x.1) x.2.1) x.2.2) s
/-- Window 3 in ARMED with period entry 0, which its burst uses, set to `v`. -/
def period0 (v : Nat) : State := timed [(3, 0x400, v)] (inMode loaded3 3 .armed)

/-- The refusals' clauses: a time-set's format at the last set, an edge pair, an entry's range at the last entry, the limit, an entry in use. -/
theorem witness_StagedRefusals :
    let T := fun (s : State) => pendView (s.shadows 3)
    let first := fun (bad : Nat → Bool) => (List.range 64).find? bad
    let f := timed [(4, 0x040 + 0x38 * 63, 5)] programmed
    let p := timed [(4, 0x050 + 0x38 * 2, 7)] programmed
    let r := timed [(3, 0x400 + 0x20 * 63, 2 ^ 63 + 127)] programmed
    (first (badFormat (T f)) = some 63 ∧ first (badFormat (T p)) = none ∧ first (badPair (T p)) = some 2) ∧
    (first (badFormat (T r)) = none ∧ first (badPair (T r)) = none ∧ first (badRange (T r)) = some 63) ∧
    (let l := period0 0
     first (badFormat (T l)) = none ∧ first (badPair (T l)) = none ∧ first (badRange (T l)) = none ∧ l.armedRun 3 = true ∧
       lowestPeriod (l.burstFaults 3 (T l) (l.wreg 3 5 0x040)) = some 0) ∧
    (let u := period0 1024
     first (badFormat (T u)) = none ∧ first (badPair (T u)) = none ∧ first (badRange (T u)) = none ∧
       lowestPeriod (u.burstFaults 3 (T u) (u.wreg 3 5 0x040)) = none ∧
       first (fun e => (u.usedEntries 3).contains e && !perEn (T u) e) = some 0) := by decide +kernel

theorem witness_StagedTiming :
    let a := programmed.advance 0
    a.takes (winPage 3 3) = true ∧ (a.tm 3).pend = none ∧ a.stageFault 3 (a.shadows 3) = none ∧ ((staged 3).tm 3).pend ≠ none ∧
    (((staged 3).advance 0).tm 3).pend = some ([(0x3400, 5)], 3, 9) ∧ (staged 3).mode 3 ≠ .run ∧
    (let b := (((playing 64).modTm 3 fun x => { x with pend := some ([(0x3400, 5)], 1, 9) }).modPl 3 fun p => { p with decT := 9998000 }).advance 0
     b.mode 3 = .run ∧ b.stageDue 3 = true ∧ (b.pl 3).nextT ≤ b.t ∧ (b.tm 3).pend = some ([(0x3400, 5)], 1, 9)) := by decide +kernel

/-- Window 3 in SERVICE with K_CAL closed; with `op`, a measurement runs. -/
def service (op : Option Nat) : State :=
  ((inMode (afeOn up 0) 3 .service).modSlot 3 fun x => { x with kcal := true, calOp := op, afeOn := true, driftRef := some 500, drift := 12 }).setReg
    (slotAddr 3 3 0x090) 1

theorem witness_Calibration :
    let a := (service none).advance 0
    let b := (service (some 2)).advance 0
    (a.takes (winPage 3 3) = true ∧ a.mode 3 = .service ∧ (a.slot (a.slotOf 3)).kcal = true ∧ (a.clu (a.slotOf 3 / 17)).afeState = 2 ∧
      a.ref.locked = true ∧ a.calBusy (a.slotOf 3 / 17) = false ∧ a.armedRun 3 = false ∧
      (a.slot (a.slotOf 3)).calOp = none) ∧ up.mode 3 ≠ .service ∧
    (a.slotOf 3 % 17 < 16 ∧ bits (16 : BitVec 32).toNat 0 5 = 16) ∧ (b.slot (b.slotOf 3)).calOp = some 2 ∧
    ((a.slot 3).afeOn = true ∧ bit (a.sreg 3 3 0x090) 0 = true ∧ (a.slot 3).driftRef = some 500) ∧
    ((((service none).modSlot 3 fun x => { x with driftRef := none }).slot 3).driftRef = none) := by decide +kernel

/-- Window 3 in READY with its levels written and the parametric unit measuring a voltage, `k` of 2 samples summed. -/
def measuring (k : Nat) (bad : Bool) : State := ((inMode (afeOn up 0) 3 .ready).setReg (pageAddr (winPage 3 6) 0x040) 0x32).modPm 3 fun p => { p with
  active := 2, changed := 10, meas := some (2, k, -3, false), mBad := bad, lvlWritten := true }

theorem witness_LevelsAreStoredWhole :
    let a := up.advance 0
    let b := (measuring 2 false).advance 0
    a.takes (winPage 3 5) = true ∧ a.drvFault 3 0xE66626672666 = 1 ∧ a.drvFault 3 0xE66626672667 = 0 ∧ a.drvFault 3 0x800080008001 = 0 ∧
    a.drvFault 3 0x800080018000 = 2 ∧ a.drvFault 3 0x80002667A668 = 3 ∧ cmpFault 0x199AF333 = 0 ∧ cmpFault 0x1999F333 = 1 ∧
    cmpFault 0x20002000 = 0 ∧ cmpFault 0x20012000 = 2 ∧ cmpCode (bits (0x199A : Word).toNat 0 16) = true ∧ cmpCode (bits (0x1999 : Word).toNat 0 16) = false ∧
    a.mode 3 = .off ∧ (b.mode 3 ≠ .off ∧ (b.pm 3).lvlWritten = true) := by decide +kernel

/-- The same at a GT at which the converter samples. -/
def sampling : State := { measuring 1 false with t := 10240000 }

theorem witness_ParametricUnit :
    let a := (inMode (afeOn up 0) 3 .ready).advance 0
    let b := (measuring 2 false).advance 0
    let c := sampling.advance 0
    (a.takes (winPage 3 6) = true ∧ pmuAllowed 1 (a.mode 3) = true ∧ bits (0x41 : BitVec 32).toNat 4 3 ≤ 4 ∧ forceOk 1 (a.pmuForce 3) = true ∧
      1 ≠ a.pmuMode 3 ∧ a.mode 3 = .ready ∧ forces 1 = true) ∧
    (pmuAllowed 1 (up.mode 3) = false ∧ pmuAllowed 0 (up.mode 3) = true ∧ 4 < bits (0x50 : BitVec 32).toNat 4 3) ∧
    ((a.pm 3).changed + pmuSettle (a.pm 3).active (a.pmuRange 3) ≤ a.now ∧ b.now < (b.pm 3).changed + pmuSettle (b.pm 3).active (b.pmuRange 3)) ∧
    ((b.pm 3).meas = some (2, 2, -3, false) ∧ (b.pm 3).mBad = false ∧ (((measuring 2 true).advance 0).pm 3).mBad = true ∧ (a.pm 3).meas = none ∧
      a.pmuMode 3 = 0 ∧ b.pmuMode 3 ≠ 0) ∧ ((a.pm 3).active = 0 ∧ (c.pm 3).active ≠ 0 ∧ c.exchanging 3 = false ∧
      gtOf c.t % 256000 = 0 ∧ (c.pm 3).sampT ≠ some c.t ∧ (c.pm 3).meas = some (2, 1, -3, false) ∧ gtOf b.t % 256000 ≠ 0) := by decide +kernel

/-- Window 3 in SERVICE with a switch command in progress. -/
def switching (op : Nat) (hot : Bool) : State := ((inMode (afeOn up 0) 3 .service).modSlot 3 fun x => { x with kcal := decide (op = 2) }).modMd 3 fun m => { m with
  trans := some { cmd := 0, tag := 0, target := .service, at_ := 5, swOp := op, oversub := false, cancelled := false, hot := hot } }
/-- Window 3 and its cluster's spare window in SERVICE, the spare tuned to the path of position 3; an exchange in progress or done. -/
def swapping (busy done : Bool) : State := ((inMode (inMode (afeOn up 0) 3 .service) 128 .service).setReg (slotAddr 16 3 0x088) 3).modClu 0 fun x => { x with
  swapping := if busy then some 3 else none, swapped := if done then some 3 else none, flushing := true, life := [(1, 70000), (48, 3)] }

theorem witness_SwitchesAndSwaps :
    let a := (inMode (afeOn up 0) 3 .service).advance 0
    let b := (service none).advance 0
    let d := (swapping false false).advance 0
    (a.takes (winPage 3 5) = true ∧ a.modeFree 3 = true ∧ a.mode 3 = .service ∧ a.calExcluded 3 = false ∧
      (a.slot (a.slotOf 3)).kcal = false ∧ a.contactHot 3 48 = false ∧ a.contactHot 3 49 = true) ∧
    ((b.slot (b.slotOf 3)).kcal = true ∧ b.mode 3 = .service ∧ b.contactHot 3 (-48) = false) ∧ up.mode 3 ≠ .service ∧
    ((a.modSlot 4 fun x => { x with kcal := true }).modMd 4 fun m => { m with mode := .service }).calExcluded 3 = true ∧
    ((((switching 1 false).advance 0).md 3).trans.any fun x => x.swOp = 1 ∧ ¬ x.hot ∧ ¬ x.cancelled ∧
      ((switching 1 false).slot ((switching 1 false).slotOf 3)).kcal = false) ∧ ((((switching 2 true).advance 0).md 3).trans.any fun x => x.hot) ∧
    (d.takes (cluPage 0) = true ∧ (d.clu 0).flushing = true ∧ d.swapFault 0 3 = 0 ∧ d.swapFault 0 2 ≠ 0) ∧
    (((swapping true false).advance 0).clu 0).swapping = some 3 ∧ (((swapping true true).advance 0).clu 0).swapped = some 3 := by decide +kernel

/-- A strobe of window 3 that has closed, of a vector with code `code`. -/
def strobed (code : BitVec 4) (xing : Nat) : State := (playing 20).modCp 3 fun c => { c with
  xing := xing, strobes := [{ close := 9990000, code := code, tv := 9980000, vec := 7, shelf := 2, ofs := 7, alt := false, redact := false, playId := 0, counts := true, edge := false }] }

/-- The same, before it a strobe of an earlier vector that closes later. -/
def later : State := (strobed 4 0).modCp 3 fun c => { c with strobes := c.strobes.flatMap fun b => [{ b with close := 9999000, vec := 6, ofs := 6 }, b] }

theorem witness_StrobesGiveVerdicts :
    let a := (strobed 4 511).advance 0
    (∃ b, (a.cp 3).strobes = b :: [] ∧ b.close ≤ a.t ∧ isVerdict b.code.toNat = true ∧ b.code = 4) ∧ (a.cp 3).xing - 0 < 512 ∧
    (let b := (a.cp 3).strobes
     b.any (fun x => x.code = 4) ∧ b.length = 1 ∧ firstClose b = b.head? ∧ b.head?.any fun x => x.close ≤ a.t ∧ (b.tail.all fun y => y.done.isNone && !y.same x)) ∧
    (let c := (later.cp 3).strobes
     c.head?.any fun x => x.done = none ∧ x.code ≠ 0xD ∧ (firstClose c).any fun y => !x.same y && decide (y.close ≤ later.t) && isVerdict y.code.toNat) ∧
    512 ≤ (((strobed 4 512).advance 0).cp 3).xing - 0 ∧ (∃ b, (((strobed 9 0).advance 0).cp 3).strobes = b :: [] ∧ b.code = 9) ∧
    isVerdict 1 = false := by
  refine ⟨⟨_, rfl, by decide +kernel⟩, by decide +kernel, by decide +kernel, by decide +kernel, by decide +kernel, ⟨_, rfl, by decide +kernel⟩,
    by decide +kernel⟩

/-- Window 3 with verdicts lost, records dropped, or log entries waiting. -/
def lossy : State := up.modCp 3 fun c => { c with lost := some (3, 99, 2), recQ := List.replicate 254 0 }
def dropped : State := up.modCp 3 fun c => { c with qDrops := { cnt := [(1, 2)], first := some 99 } }
def logging : State := (up.setReg (pageAddr (winPage 3 7) 0x044) 0x0120).modCp 3 fun c => { c with
  logBuf := [0x1234, 5], logEnt := 65533, lost := none }

/-- Both stacks are in self-refresh. -/
def asleep (s : State) : State := s.modDev fun d => { d with stk := (1, 1) }

theorem witness_CaptureQueuesAndLogs :
    let a := lossy.advance 0
    let c := logging.advance 0
    ((a.cp 3).lost = some (3, 99, 2) ∧ (a.cp 3).qDrops.first = none ∧ (a.cp 3).recQ.length < 255) ∧
    (((dropped.advance 0).cp 3).qDrops.first = some 99 ∧ ((dropped.advance 0).cp 3).recQ.length < 255) ∧
    ((up.sq 3).loaded = false ∧ (up.cp 3).strobes = [] ∧ (up.cp 3).logBuf = [] ∧ (up.cp 3).bits % 64 = 0 ∧ (up.cp 3).logFullCnt = none ∧
      (up.cp 3).logLoss = 0 ∧ up.stackOn (3 / 64 % 2) = true ∧ (asleep up).stackOn (3 / 64 % 2) = false) ∧
    (a.takes (winPage 3 7) = true ∧ bits (0x2020 : BitVec 32).toNat 0 7 + bits (0x2020 : BitVec 32).toNat 8 7 ≤ 64 ∧ a.armedRun 3 = false ∧
      (a.cw 3).open_ = false ∧ 64 < bits (0x2021 : BitVec 32).toNat 0 7 + bits (0x2021 : BitVec 32).toNat 8 7) ∧
    ((c.cp 3).logBuf = 0x1234 :: [5] ∧ (c.cp 3).logFull = false ∧ (c.cp 3).logEnt + 2 < c.logCap 3) := by decide +kernel

/-- Window 3 in READY with a stamper for both edges, armed or not, its latest edge `d` tq ago. -/
def stamper (armed : Bool) (d : Nat) : State := ((inMode (afeOn up 0) 3 .ready).setReg (pageAddr (winPage 3 8) 0x040) 3).modSt 3 fun x => { x with
  armed := armed, armT := 5, num := 9, lastT := if d = 0 then none else some (10000000 - d), rawT := if d = 0 then none else some (10000000 - d), stage := [0xABC2],
  moveT := some (10000000 - 1024), armCause := 1 }
def stampLoss : State := (stamper false 0).modSt 3 fun x => { x with stage := [], loss := some (2, 77), buf := [1, 2] }

/-- Armed at this very GT, or with a GAP record at the head of the stage. -/
def stampNow : State := (stamper true 0).modSt 3 fun x => { x with armT := 10000000 }
def gapStaged : State := (stamper false 0).modSt 3 fun x => { x with stage := [0x5] }

theorem witness_StampersArmAndStamp :
    let a := (stamper false 410).advance 0
    let b := (stamper true 410).advance 0
    let c := (stamper true 409).advance 0
    (a.takes (winPage 3 8) = true ∧ (a.st 3).isArmed a.t = false ∧ (a.st 3).offT ≠ some a.t ∧ a.mode 3 ≠ .off ∧ a.stpEdge 3 ≠ 0) ∧
    (up.mode 3 = .off ∧ (((inMode up 3 .ready).setReg (pageAddr (winPage 3 8) 0x040) 0).stpEdge 3 = 0)) ∧
    ((b.st 3).isArmed b.t = true ∧ ¬ ((b.st 3).armed = true ∧ (b.st 3).armT = b.t) ∧ (stampNow.st 3).armed = true ∧
      (stampNow.st 3).armT = stampNow.t) ∧
    (b.exchanging 3 = false ∧ bit (b.stpEdge 3) 0 = true ∧ b.stpTs 3 = false ∧ b.stpP 3 = 0 ∧ (b.st 3).takes (b.stampTime 3 true) true = true ∧
      b.wreg 3 8 0x044 = 0 ∧ (b.st 3).dead (b.stampTime 3 true) = false) ∧
    ((c.st 3).takes (c.stampTime 3 true) true = true ∧ (c.st 3).dead (c.stampTime 3 true) = true ∧ (a.st 3).takes (a.stampTime 3 true) true = false) ∧
    (recType (((b.st 3).stage).headD 0) ≠ 5 ∧ recType ((gapStaged.st 3).stage.headD 0) = 5 ∧ (gapStaged.st 3).buf.length < 4097) ∧
    ((b.st 3).stage = 0xABC2 :: [] ∧ (b.st 3).moveT = some 9998976 ∧ 9998976 + 1024 ≤ b.t ∧ (b.st 3).buf.length < 4096 ∧ (b.st 3).loss = none) ∧
    (((stampLoss.advance 0).st 3).isArmed (stampLoss.advance 0).t = false ∧ ((stampLoss.advance 0).st 3).stage = [] ∧ ((stampLoss.advance 0).st 3).loss = some (2, 77) ∧
      ((stampLoss.advance 0).st 3).buf.length < 4097) := by decide +kernel

/-- Window 3 with its engine running at a sample instant: arcs 2 and 5 leave state 0, on condition 1, for states 4 and 6. -/
def engine : State := (((inMode { up with t := 10000128 } 3 .ready).setReg (pageAddr (winPage 3 9) 0x420) 0x0000000001140001).setReg
  (pageAddr (winPage 3 9) 0x450) 0x0000000001160001).modEn 3 fun e => { e with running := true }
def engineTimed : State := engine.modEn 3 fun e => { e with tmr := [(1, some 10000128)] }
def engineActs : State := (engine.modEn 3 fun e => { e with acts := [{ at_ := 10000128, act := 0xF3100000, tr := 9996032 }] }).modCw 3 fun c => { c with
  phase := 1, wr := 5, rd := 2, pre := 4, cap := 32768, postEff := 3 }

theorem witness_EngineCommands :
    let a := engine.advance 0
    (a.takes (winPage 3 9) = true ∧ a.mode 3 ≠ .off ∧ (a.en 3).running = true) ∧ (up.mode 3 = .off ∧ (up.en 3).running = false) ∧
    (engine.advance 1).t % 256 ≠ 0 ∧ (Tab.get none ((engineTimed.advance 0).en 3).tmr 1 = some 10000128 ∧ 10000128 ≤ (engineTimed.advance 0).t) := by
  decide +kernel

theorem witness_EngineSamplesAndActs :
    let a := engine.advance 0
    let b := engineActs.advance 0
    ((a.en 3).running = true ∧ a.t % 256 = 0 ∧ (a.en 3).sampT ≠ some a.t ∧ (a.en 3).ins = [] ∧ (a.en 3).tmr = [] ∧
      (∀ j < 4, bit (a.wreg 3 9 (0x100 + 0x10 * j)) (16 + (a.en 3).state) = false) ∧
      ((List.range 16).filter fun i => bit (a.wreg 3 9 (0x400 + 0x10 * i)) 20 && bit (a.wreg 3 9 (0x400 + 0x10 * i)) (a.en 3).state &&
        a.condTrue 3 (a.en 3).cnt [] (a.arcCond 3 i) a.t) = [2, 5]) ∧
    ((b.en 3).acts = { at_ := 10000128, act := 0xF3100000, tr := 9996032 } :: [] ∧ 10000128 ≤ b.t ∧ bits (0xF3100000 : Word).toNat 16 2 = 0 ∧
      bits (0xF3100000 : Word).toNat 18 2 = 0 ∧ bit (0xF3100000 : Word).toNat 20 = true ∧ (b.cw 3).phase = 1) := by decide +kernel

/-- Window 3 with the parametric unit on and a windowed capture configured; the reduction armed or not. -/
def reducing (armed : Bool) : State := ((measuring 0 false).setReg (pageAddr (winPage 3 9) 0x080) 0x3FFFFF00000301).modRd 3 fun r => { r with armed := armed }

theorem witness_ReductionAndWindow :
    let a := (reducing false).advance 0
    let b := (reducing true).advance 0
    (a.takes (winPage 3 9) = true ∧ up.pmuMode 3 = 0 ∧ a.pmuMode 3 ≠ 0 ∧ (a.rd 3).armed = false ∧ (a.rd 3).disarmT ≠ some a.t) ∧
    ((b.rd 3).armed = true ∧ (b.rd 3).armT ≠ b.t) ∧ bit (up.wreg 3 9 0x080) 0 = false ∧
    (bit (a.wreg 3 9 0x080) 0 = true ∧ a.acqMib 3 * 32768 ≠ 0 ∧ bits (a.wreg 3 9 0x080) 8 22 ≤ a.acqMib 3 * 32768 ∧ (a.cw 3).open_ = false) := by
  decide +kernel

/-- Cluster 0's Harvest: window 3's queue holds records, staging holds some, its host ring of 64 slots is enabled with `n` records in it. -/
def harvesting (n : Nat) : State := (((up.modCp 3 fun c => { c with recQ := [0x21, 0x31] }).setReg (pageAddr 4 (hvsOff 0 0)) 0x700D).setReg
  (pageAddr 4 (hvsOff 0 0x08)) 0x9001).modHv 0 fun h => { h with bank := [0x11, 0x12], stack := [0x15], wr := n, rd := 0, unposted := 63, turn := 20 }
def gapped : State := (harvesting 3).modHv 0 fun h => { h with drops := { cnt := [(1, 5)], first := some 77 } }

/-- Capture to window 3's ring is in its phase `p`. -/
def ringing (p : Nat) : State := ((harvesting 3).setReg (pageAddr (winPage 3 9) 0x080) 1).modCw 3 fun c => { c with
  cap := 32768, phase := p, wr := 5, rd := 2, pre := 4, postEff := 3 }

theorem witness_HarvestReachesTheHost :
    let a := (harvesting 63).advance 0
    let g := gapped.advance 0
    (((List.range 36).map fun k => ((a.hv 0).turn + k) % 36).find? (fun k => (a.inputHead 0 k).isSome) = some 3 ∧ a.inputHead 0 3 = some 0x21 ∧
      a.toWindow 0 3 0x21 = false ∧ (a.hv 0).drops.first = none ∧ 1 < a.stagingFree 0) ∧ (∀ i < 36, up.inputHead 0 i = none) ∧
    (a.destOpen 0 3 0x21 = true ∧ (asleep a).destOpen 0 3 0x21 = false ∧ ((List.range 2).all fun p => let r := ringing (p + 1)
      r.inputHead 0 3 = some 0x21 && r.destOpen 0 3 0x21 && r.toWindow 0 3 0x21 && decide ((r.cw 3).phase = p + 1)) ∧
      (asleep (ringing 1)).destOpen 0 3 0x21 = false) ∧
    ((g.hv 0).drops.first = some 77 ∧ 2 ≤ g.stagingFree 0 ∧ g.stageOpen 0 1 = true) ∧
    ((a.hv 0).stack = 0x15 :: [] ∧ (a.hv 0).bank.length < 16384 ∧ a.bankOn (stageBank 0) = true ∧ a.stackOn (0 / 4) = true) ∧
    ((a.hv 0).bank = 0x11 :: [0x12] ∧ bit (a.hvsReg 0 0) 0 = true ∧ a.canIssue = true ∧ a.hvsLevel 0 < 2 ^ a.hvsBits 0) := by decide +kernel

/-- Ring 0's level has stayed above zero since 0, COAL 10 µs. -/
def coalescing (done : Bool) : State := ((harvesting 3).setReg (pageAddr 4 (hvsOff 0 0x18)) 0x000A1020).modHv 0 fun h => { h with
  since := some (20000000 - 10 * us), coal := done }

theorem witness_HostRingRegisters :
    let a := (harvesting 3).advance 0
    let b := (coalescing false).advance 0
    (bit (a.hvsReg 0 0x08) 0 = true ∧ a.canIssue = true ∧ (a.hv 0).unposted ≠ 0) ∧ a.takes 4 = true ∧ bits (0x100B : Word).toNat 1 5 < 6 ∧
    (6 ≤ bits (0x102D : Word).toNat 1 5 ∧ bits (0x102D : Word).toNat 1 5 ≤ 22 ∧ bit (0x102D : Word).toNat 0 = true ∧ bit (up.hvsReg 0 0) 0 = false) ∧
    ((b.hv 0).since = some (20000000 - 10 * us) ∧ bits (b.hvsReg 0 0x18) 16 16 = 10 ∧ (b.hv 0).coal = false ∧
      20000000 - 10 * us + 10 * us ≤ b.now) ∧ (((coalescing true).advance 0).hv 0).coal = true := by decide +kernel

/-- Scrub of M0 stands at its last word. -/
def scrubbing : State := (up.setReg (pageAddr 8 0x040) 0x1000001).modMem fun m => { m with scrub := (0x800000000 - 8, 0) }

/-- A march job over banks 1 and 15, destructive or not, with the row borrowed. -/
def marching (destructive : Bool) (st : Nat) (borrow : List (Nat × Nat × Nat)) : State :=
  { (up.setReg (pageAddr 10 0x040) (if destructive then 0x100208002 else 0x100008002)).modMem fun m => { m with march := st, borrow := borrow } with
    wsMem := [(bankBase 1 - 1, 5), (bankBase 1, 6), (bankBase 2 - 1, 7), (bankBase 2, 8)] }
def repairing (st : Nat) : State := up.modMem fun m => { m with repair := some (1, 9215, st) }

theorem witness_ScrubAndBanks :
    let a := scrubbing.advance 0
    (bit (a.dreg 8 0x040) 0 = true ∧ a.stackOn 0 = true ∧ a.marchingStack 0 = false) ∧ a.takes 9 = true ∧
    (let m := (marching false 1 []).advance 0
     m.marchingBank 1 = true ∧ m.takes 9 = true ∧ pinned 1 = false ∧ m.mayLeave 1 = true) ∧ a.dev.bringup = 5 ∧
    (up.modMem fun m => { m with bank := [(9, 1)] }).bankState 9 = 1 ∧
    (a.bankOn 15 = true ∧ a.bankState 0 = 0) ∧
    (pinned 9 = false ∧ a.mayLeave 9 = true ∧ a.marchingBank 9 = false ∧ (a.mem.repair.any fun r => decide (r.1 = 9)) = false ∧
      a.bankState 9 = 0) ∧ pinned 10 = true ∧ pinned 13 = true ∧ armed.mayLeave 0 = false ∧
    Tab.get none ((up.modMem fun m => { m with bankTo := [(9, some 2)] }).advance 0).mem.bankTo 9 = some 2 := by decide +kernel

theorem witness_MarchAndRepair :
    let a := (marching false 0 []).advance 0
    let b := (marching false 1 [(1, 2046, 3)]).advance 0
    (a.takes 10 = true ∧ a.marchFault = 0 ∧ a.marchDestructive = false ∧ up.marchFault ≠ 0 ∧ a.mem.march = 0) ∧
    (b.mem.march ≠ 0 ∧ b.marchDestructive = false ∧ b.mem.borrow ≠ []) ∧ b.mem.borrow = [(1, 2046, 3)] ∧
    (((marching false 1 [(1, 0, 1)]).advance 0).mem.borrow = [(1, 0, 1)] ∧ ((marching false 1 [(1, 0, 1)]).advance 0).targetOn 1 = true ∧ 0 < rowsOf 1) ∧
    (((marching false 1 [(16, 0, 1)]).advance 0).targetOn 16 = true ∧ 2 ^ 25 - 1 < rowsOf 16 ∧ 2046 + 1 < rowsOf 1) ∧
    ((marching false 1 [(1, 0, 2)]).advance 0).mem.borrow = [(1, 0, 2)] ∧ ((marching false 2 [(1, 2047, 3)]).advance 0).mem.march = 2 ∧
    ((marching true 1 []).advance 0).marchDestructive = true ∧ (a.repairFault 1 9215 = 0 ∧ a.repairFault 1 9216 ≠ 0) ∧
    ((repairing 2).advance 0).mem.repair = some (1, 9215, 2) := by decide +kernel

/-- What a march job has borrowed, one row of a bank or one of each stack, is found by its target alone. -/
theorem witness_MarchBorrows :
    let b := (marching false 1 [(1, 2046, 3)]).advance 0
    (b.borrowOf true = some (1, 2046, 3) ∧ ∀ x ∈ b.mem.borrow, x.1 = 1 → x = (1, 2046, 3)) ∧
    (let c := (marching false 1 [(16, 5, 1), (17, 2 ^ 25 - 1, 3)]).advance 0
     c.borrowOf true = some (17, 2 ^ 25 - 1, 3) ∧ c.borrowOf false = some (16, 5, 1) ∧ (∀ x ∈ c.mem.borrow, x.1 = 17 → x = (17, 2 ^ 25 - 1, 3))) := by
  decide +kernel

theorem witness_Bar2Writes :
    let a := bar2.advance 0
    let x := a.bar2Addr (2 ^ 30 - 8)
    (a.takes bar2Stream = true ∧ 2 ^ 30 - 8 + 8 ≤ a.bar2Bytes ∧ a.stackOn (x / 0x800000000) = true ∧ x % 8 = 0 ∧
      noWrite (regionOf x) = false ∧ noWrite (regionOf (x + 8 - 1)) = false ∧ a.tagged x = false ∧ a.tagged (x + 8 - 1) = false ∧
      (∀ w ∈ pinsTouched x 8, a.activeReason w x 8 = none ∧ a.guarded w x 8 = false)) ∧
    (a.stacksOn x 8 = true ∧ (asleep a).stacksOn x 8 = false) ∧ (rmwBad (rmwReads x 8 {}) = false ∧ rmwBad (rmwReads (x + 1) 3 { first := .bad }) = true) ∧
    noWrite (regionOf (((up.setReg (pageAddr 4 0x050) 0x700000000).advance 0).bar2Addr 0x4000000)) = true := by decide +kernel

theorem witness_Bar4ReadsAndWrites :
    let a := up.advance 0
    a.dev.bringup = 5 ∧ a.bankOn ((0x1FFFFF8 : BitVec 25).toNat / 0x200000) = true ∧ a.takes bar4Stream = true ∧
    0x1FFFFF8 + 8 ≤ 0x2000000 ∧ bankBase 15 + 0x800 ≤ 0x1FFFFF8 ∧ a.bankOn 15 = true ∧ 0x1E007F8 < bankBase 15 + 0x800 ∧
    (0x1FFFFF8 % 0x200000 + 8 ≤ 0x200000 ∧ 0x200000 < 0x1FFFFC % 0x200000 + 8) ∧ rmwBad (rmwReads 0x1FFFFF8 8 {}) = false ∧ Tab.get 0 a.mem.bank 3 = 0 := by decide +kernel

/-- The keeper has one append of a subsystem ID in progress. -/
def appending : State := up.modKeep fun k => { k with queue := [{ kind := 5, obj := 0, val := 0xABCD1234 }] }
/-- Slot 16 of cluster 0 is retired. -/
def retiredSlot : State := up.modClu 0 fun x => { x with retired := 0x10000 }

/-- The Ledger's budgets of retirements, identities and polarities are used up. -/
def spent : State := up.modKeep fun k => { k with ledger := (List.range 14).map fun i =>
  (i, mkEntry i (if i < 8 then 4 else if i < 12 then 5 else 6) 0 i 0 5) }

theorem witness_LedgerWrites :
    let a := up.advance 0
    (a.takes (cluPage 0) = true ∧ a.retired (a.slotOf (128 + 0)) = false ∧ a.budgetSpent 4 0 = false) ∧
    (retiredSlot.advance 0).retired ((retiredSlot.advance 0).slotOf (128 + 0)) = true ∧
    (a.takes 12 = true ∧ (0x71281F6A : BitVec 32) = a.keep.subsys ∧ (5 : BitVec 32) ≠ a.keep.subsys ∧ a.sec.lc < 2 ∧ a.budgetSpent 5 0 = false) ∧
    2 ≤ ((up.modSec fun x => { x with lc := 2 }).advance 0).sec.lc ∧ (a.takes 6 = true ∧ false = a.flt.pol ∧ true ≠ a.flt.pol ∧ a.budgetSpent 6 0 = false) ∧
    (let q := (spent.advance 0)
     q.budgetSpent 4 0 = true ∧ q.budgetSpent 5 0 = true ∧ q.budgetSpent 6 0 = true ∧ q.keep.queue = []) ∧
    ((appending.advance 0).keep.queue = [{ kind := 5, obj := 0, val := 0xABCD1234 }] ∧ (appending.advance 0).nextBlank = some 1) := by decide +kernel

/-- Life cycle `lc` with a transition to `target` in progress and its wipe running. -/
def lcMoving (lc : Nat) (target : Option Nat) : State := up.modSec fun x => { x with lc := lc, trans := target, wiping := target.isSome, staged := 0xFF }

theorem witness_LifeCycle :
    let a := (lcMoving 0 none).advance 0
    let b := (lcMoving 0 (some 1)).advance 0
    (a.takes 11 = true ∧ a.lcFault 1 0x7128 = 0 ∧ a.lcFault 2 0x7128 ≠ 0 ∧ a.lcFault 1 0x7129 ≠ 0) ∧
    (b.sec.trans = some 1 ∧ b.keep.queue = [] ∧ b.nextBlank ≠ none) ∧
    (((lcMoving 2 (some 3)).advance 0).sec.trans = some 3 ∧ ((lcMoving 2 (some 3)).advance 0).eraseServed none = true) := by decide +kernel

/-- Key slots 0 and 63 hold bytes at their ends; a wipe runs or not. -/
def secured (wiping : Bool) : State := { up.modSec fun x => { x with wiping := wiping, keyMap := 1 } with
  wsMem := [(bankBase 11, 1), (keyAddr 0 - 1, 2), (keyAddr 0, 3), (keyAddr 63 + 31, 4), (keyAddr 64, 5)] }

theorem witness_TamperWipes : (((secured false).advance 0).dev.porLow = false ∧ ((secured false).advance 0).keep.railBits.getLsbD 11 = false ∧
      ∀ w < 128, (((secured false).advance 0).ik w).bytes.length < 32) ∧ (State.reset.advance 0).dev.porLow = true ∧
    ((secured true).advance 0).sec.wiping = true ∧ ((secured false).advance 0).sec.wiping = false := by decide +kernel

def keying (op slot : Nat) : State := (secured false).modSec fun x => { x with keyOp := some (op, slot), keyIn := 0x1122334455667788 }
/-- Window 3 in ARMED, its key slot 0 in use; a granule of pin 3 tagged, an erase of pin 3 in progress. -/
def erasing : State := { (armed.modMem fun m => { m with tags := [(3 * 6144 + 2, true), (4 * 6144, true)] }).modSec fun x => { x with erase := some (some 3) } with
  stackMem := [(vecArea 3 + 2 * 65536 - 1, 1), (vecArea 3 + 2 * 65536, 2), (vecArea 3 + 3 * 65536 - 1, 3), (vecArea 3 + 3 * 65536, 4), (vecArea 4, 5)] }

theorem witness_KeysStoreAndErase :
    let a := (secured false).advance 0
    let b := ((secured false).modSec fun x => { x with lc := 1 }).advance 0
    let e := erasing.advance 0
    (a.takes 11 = true ∧ a.keyFault 2 63 = 0 ∧ a.keyFault 1 0 ≠ 0 ∧ a.keyFault 3 0 = 0 ∧ b.keyFault 1 63 = 0 ∧ b.keyFault 2 0 ≠ 0 ∧
      ((keying 2 63).advance 0).keyFault 3 0 ≠ 0) ∧
    (((keying 2 63).advance 0).sec.keyOp = some (2, 63) ∧ ((keying 3 0).advance 0).sec.keyOp = some (3, 0) ∧
      ((keying 1 0).advance 0).sec.keyOp = some (1, 0) ∧ ((keying 1 0).advance 0).keep.kek = none) ∧
    (a.sec.lc ≤ 2 ∧ a.sec.active = 0 ∧ a.sec.wiping = false) ∧
    (a.armedRun 127 = false ∧ a.sec.erase = none ∧ a.sec.trans = none ∧ e.armedRun 3 = true) ∧
    (e.sec.erase = some (some 3) ∧ e.eraseServed (some 3) = true) ∧ ((keying 0 5).advance 0).sec.keyOp = some (0, 5) := by decide +kernel

theorem witness_RegisterWritesAndSnapshots :
    let a := up.advance 0
    let x := (0x1034498 : BitVec 25).toNat
    (a.takes (x / 0x1000) = true ∧ x / 0x1000 = winPage 3 4 ∧ 0x40 ≤ x % 0x1000 ∧ ((regAt x).any fun r => r.mask ≠ 0 ∧ r.size = 8) ∧ x % 8 = 0) ∧
    (a.takes 5 = true ∧ ((regAt (0x504C : BitVec 25).toNat).any fun r => r.mask ≠ 0 ∧ r.size = 4)) ∧
    (regAt 0x5044 = none ∧ a.takes (0x5044 / 0x1000) = true) ∧ (a.takes 0x103B = true ∧ pageExists 0x103B = true) ∧
    (((a.settled 0x103B).snapWords 0x103B).isSome = true ∧ (∀ w < 136, a.noJumpDue w = true) ∧ (a.snapOf 0x103B).copy = none) ∧
    (((a.take 0x103B).snapOf 0x103B).copy.any fun ws => decide ((ws.map Prod.fst).Nodup)) ∧ a.dev.snapBusy = false ∧ a.takes 0 = true ∧
    ((a.take 2).copying = true) := by decide +kernel

/-- Writes are held: a commit stands first or alone, or page 1 of window 3 is under reset. -/
def commits (l : List Held) : State := { up with held := .commit :: l }
def resetting (p : Nat) : State := up.modDev fun d => { d with resets := [p] }

theorem witness_CommitsOrderWrites :
    let a := (resetting 0x1031).advance 0
    let b := (commits [.write (winPage 3 1) (.hostFlagWrite 0 3 0xA5)]).advance 0
    ({ up with dev := { up.dev with regPhase := true } }.dev.regPhase = true) ∧ (State.reset.dev.regPhase = false ∧ State.reset.dev.bringup ≠ 5) ∧
    (a.dev.regPhase = false ∧ a.dev.bringup = 5 ∧ (a.committing || a.pageHeld 0x1031) = true) ∧ (up.advance 0).takes 0 = true ∧
    (up.advance 0).held = [] ∧ (commits []).held = [.commit] ∧
    (b.held = [.commit, .write (winPage 3 1) (.hostFlagWrite 0 3 0xA5)] ∧ b.pageHeld (winPage 3 1) = false ∧ b.dev.bringup = 5 ∧
      b.dev.regPhase = false) := by decide +kernel

theorem witness_BlockResets :
    let a := (playing 20).advance 0
    ([0x1032, 0x1033, 0x1035, 0x1036, 0x1037, 0x1038, 0x1039, 3, 4, 10, 0x1030, cluPage 7].all fun p =>
      a.takes p && resettable p && decide (p ∉ a.dev.resets)) = true ∧
    (marching true 1 []).marchDestructive = true ∧ isClassC 7 (pageAddr (cluPage 7) 0x400) = true ∧ isClassH (pageAddr (winPage 3 1) 0x040) = true ∧
    (a.takes 0x1035 = true ∧ resettable 0 = false ∧ resettable 0x103A = false ∧ a.takes 0 = true) ∧
    (0x1031 = winPage 3 1 ∧ 0x1034 = winPage 3 4 ∧ a.takes 0x1031 = true ∧ a.takes 0x1034 = true ∧ a.mode 3 = .run) ∧ armed.mode 3 = .armed ∧
    (0x1031 ∈ (resetting 0x1031).dev.resets ∧ 0x1000 ≤ 0x1031 ∧ 0x1031 % 16 ≠ 0 ∧ (resetting 0x1031).held = [] ∧ 0x1030 ∉ (resetting 0x1031).dev.resets) := by
  decide +kernel

/-- Bring-up of a part at STATE `n`, after power-on or a device reset. -/
def bringing (n : Nat) (rerun : Bool) : State := { up with dev := { porLow := false, bringup := n, rerun := rerun }, gtRun := decide (3 < n) }

theorem witness_DeviceResets :
    let a := (playing 20).advance 0
    (a.takes 0 = true ∧ (0x7128 : BitVec 16) ≠ 0x7129 ∧ a.dev.porLow = false) ∧ (a.host.up = true ∧ a.resetting = false) ∧
    (State.reset.host.up = false ∧ (bringing 3 true).resetting = true) := by decide +kernel

theorem witness_PowerOnAndBringUp :
    (State.reset.advance 0).dev.porLow = true ∧ up.dev.porLow = false ∧ ((bringing 0 false).dev.porLow = false ∧ (bringing 0 false).dev.bringup = 0) ∧
    (bringing 1 true).dev.bringup = 1 ∧ (bringing 2 false).dev.bringup = 2 ∧ ((bringing 3 true).dev.bringup = 3 ∧ ((bringing 3 true).src (devSrc 2 1)).causes = []) ∧
    ((bringing 4 false).dev.bringup = 4 ∧ (bringing 4 false).dev.rerun = false ∧ (bringing 4 true).dev.rerun = true ∧
      (bringing 4 false).flt.heartbeat = true) := by decide +kernel

/-- Stack M1 is in self-refresh, or on its way to ACTIVE. -/
def stackDown (dest : Option Nat) : State := up.modDev fun d => { d with stk := (0, if dest.isSome then 2 else 1), stkTo := (none, dest) }

theorem witness_StackPowerStates :
    let a := (stackDown none).advance 0
    (a.takes 1 = true ∧ a.stkFault 1 0 = 0 ∧ a.stkFault 1 1 ≠ 0 ∧ a.stkFault 0 1 = 0 ∧ a.stkFault 0 0 ≠ 0) ∧ a.stkTarget 1 = none ∧
    (((stackDown (some 0)).advance 0).stkTarget 1 = some 0 ∧ (0 : Nat) ≠ 1 ∧ ∀ w < 128, w / 64 = 1 → (((stackDown (some 0)).advance 0).sq w).copyDue = none) := by
  decide +kernel

/-- A detection of channel source 3.1, code 2 and native class `cls`, is on its way; its class is already pending or not. -/
def detected (cls : Nat) (again : Bool) : State := { up with
  flight := [{ src := 97, pin := some 3, at_ := 9999000, more := 0, parts := [{ code := 2, native := cls, shelf := 5, value := 1, conseq := false, inj := false, dry := false }] }]
  colCh := if again then [(3, { srcs := [(1, { pend := BitVec.ofNat 4 (2 ^ cls), base := BitVec.ofNat 4 (2 ^ cls), seq := 4, count := 1 })] })] else [] }

theorem witness_DetectionsReachTheirCollector :
    let a := (detected 3 true).advance 0
    let b := (detected 2 false).advance 0
    let c := ({ detected 2 false with regs := [(compatKey 97, 0x111)] } : State).advance 0
    let d := ({ detected 2 true with colCh := [(3, { srcs := [(1, { seq := 4, times := [9999000, 7], win := [5, 6] })] })] } : State).advance 0
    ((a.flight[0]?).any fun x => decide (x.src = 97) && (takeSrc 97 a.flight).any fun y => decide (y.2 = []) && decide (y.1.parts.length = 1) &&
      decide (y.1.at_ < a.t)) ∧ (a.flight[1]?).isNone = true ∧ (9999000 ∉ (a.src 97).times ∧ 9999000 ∈ (d.src 97).times) ∧
    (97 ≠ devSrc 6 0 ∧ bit (a.reg (compatKey 97)) 0 = false ∧ a.flt.logLevel + movedNow a.flt.logPop a.now < 2048 ∧
      (a.src 97).base.getLsbD 3 = true ∧ a.reactField 97 (min 3 (3 + 1)) = 0) ∧ ((b.src 97).base.getLsbD 2 = false ∧ b.reactField 97 2 = 0) ∧
    (bit (c.reg (compatKey 97)) 0 = true ∧ bits (c.reg (compatKey 97)) 4 4 = 1 ∧ c.reactField 97 1 = 0 ∧ c.reactField 97 3 = 0) := by decide +kernel

/-- Slot 3's collector holds a first fault, its choice open until `e`; source 3.1 has a cause that persists and SEQ 4. -/
def firstFault (e : Option Nat) : First :=
  { src := 97, cls := 2, esc := false, inj := false, real := true, at_ := 9999000, ovf := false, openUntil := e }
def faulted (e : Option Nat) : State := { up with
  colCh := [(3, { srcs := [(11, { pend := 4, base := 4, seq := 4, causes := [2], win := [7] })], first := some (firstFault e) })] }

theorem witness_LatchesAndAcknowledging :
    let a := (faulted (some 10000000)).advance 0
    let k := (107 : BitVec 16).toNat
    ((a.coll (colSrc (.slot 3))).first.any fun f => f.openUntil = some 10000000 ∧ 10000000 ≤ a.t) ∧ (up.coll (colSrc (.clu 7))).first = none ∧
    (a.takes (a.colPage (colSrc (.slot 3))) = true ∧ a.takes (a.colPage (colSrc .dev)) = true) ∧ srcExists 12 = false ∧
    (srcExists k = true ∧ a.takes (a.colPage k) = true ∧ (a.src k).seq = 4 ∧ (a.src k).causes ≠ [] ∧ (4 : BitVec 4).getLsbD 2 = true ∧
      (a.src 97).causes = []) ∧
    ((a.blockTarget 96).isNone = true ∧ bit (0x4000000 : BitVec 32).toNat 26 = true ∧ (a.blockTarget 97).isNone = false) ∧
    (bit (1 : BitVec 32).toNat 0 = true ∧ bits (1 : BitVec 32).toNat 8 24 = 0 ∧ bits (0x101 : BitVec 32).toNat 8 24 ≠ 0) := by decide +kernel

/-- ALIVE runs, or a fatal fault is pending; the log holds `n` records from read position 4095 on. -/
def alive (running : Bool) (n : Nat) : State := up.modFlt fun f => { f with alive := some true, running := running, logRd := 4095, logWr := 4095 + n }
def fatal : State := { up with colDev := { srcs := [(0, { pend := 8 })] } }

theorem witness_AliveTrapAndLog :
    let a := (alive true 2048).advance 0
    a.flt.running = true ∧ up.flt.running = false ∧ a.takes 6 = true ∧ fatal.anyFatal = true ∧ (up.anyFatal = false ∧ up.flt.heartbeat = true) ∧
    (a.flt.logLevel < ((2048 : BitVec 32).toNat + 4096 - a.flt.logRd % 4096) % 4096) ∧
    ((2047 : BitVec 32).toNat < 4096 ∧ ((2047 : BitVec 32).toNat + 4096 - a.flt.logRd % 4096) % 4096 ≤ a.flt.logLevel) := by decide +kernel

/-- INJ.TARGET names source `src`; an injection is on its way or not. -/
def injecting (src : Nat) (busy : Bool) : State := (up.setReg (pageAddr 13 0x040) (src + 0x230000)).modFlt fun f => { f with
  injPend := if busy then some 0x00000012_00230061 else none }

theorem witness_Injections :
    let a := (injecting 97 false).advance 0
    let b := (injecting 97 true).advance 0
    a.takes 13 = true ∧ srcExists (bits (((injecting 12 false).advance 0).dreg 13 0x040) 0 16) = false ∧
    (srcExists (bits (a.dreg 13 0x040) 0 16) = true ∧ a.flt.injPend = none) ∧ b.flt.injPend = some 0x1200230061 ∧
    (b.gtRun = true ∧ b.dev.bringup = 5) := by decide +kernel

theorem witness_FaultSources :
    (up.advance 0).host.up = true ∧ (State.reset.advance 0).host.up = false ∧ (0x4064 : Nat) = devSrc 3 4 ∧ (106 : BitVec 8).toInt > 105 ∧ (105 : BitVec 8).toInt ≤ 105 ∧
    (116 : BitVec 8).toInt > 115 ∧ (0xFF : BitVec 8).toInt ≤ 115 ∧ endsHere (0x2000 : BitVec 16).toNat (0 : BitVec 8).toNat = true ∧
    endsHere (97 : BitVec 16).toNat (0 : BitVec 8).toNat = false ∧ (0x20E0 : BitVec 16).toNat = cluSrc 7 0 ∧ up.gtRun = true ∧ up.dev.bringup = 5 := by
  decide +kernel

/-- PERST_N released, the link down. -/
def linkless : State := (bringing 1 false).modHost fun h => { h with perst := true, up := false }

theorem witness_LinkAndConfiguration :
    let a := linkless.advance 0
    (linkBudget (3 : BitVec 3).toNat (4 : BitVec 5).toNat = some 300 ∧ linkBudget (6 : BitVec 3).toNat (16 : BitVec 5).toNat = some 10000 ∧
      a.host.up = false ∧ a.host.perst = true ∧ Clocking.common ≠ .spread) ∧ linkBudget 6 2 = none ∧ up.host.up = true ∧
    ((up.modHost fun h => { h with l1 := true }).host.l1 = true) ∧ up.host.l1 = false ∧
    ((bringing 1 false).host.up = true ∧ (bringing 1 false).dev.bringup < 2) ∧ 2 ≤ (bringing 2 false).dev.bringup := by decide +kernel

/-- Vector 255 is unmasked or not, with a message pending since the start and its gap over. -/
def vectored (masked : Bool) : State := (up.setReg (pageAddr 5 0x04C) 5).modHost fun h => { h with
  msixEn := true, msixPend := [(255, true)], msixSince := [(255, some 0)], msixGap := [(255, true)], msixLast := [(255, some (20000000 - 5 * us))],
  msixTab := if masked then [] else [(16 * 255 + 12, 0)] }
def longPending : State := { vectored true with now := 1000000 * us }

theorem witness_InterruptVectors :
    let a := (vectored false).advance 0
    let b := longPending.advance 0
    (a.takes 0x80 = true ∧ Tab.get false up.host.msixPend 255 = false) ∧
    (Tab.get false a.host.msixPend 255 = true ∧ a.host.msixEn = true ∧ a.host.funcMask = false ∧ a.canIssue = true ∧ a.gapOpen 255 = false) ∧
    (Tab.get false a.host.msixGap 255 = true ∧ a.vecMasked 255 = false) ∧ Tab.get none up.host.msixSince 255 = none ∧
    (Tab.get none b.host.msixSince 255 = some 0 ∧ 0 + 1000000 * us ≤ b.now ∧ Tab.get false b.host.msixPend 255 = true ∧ b.vecMasked 255 = true ∧
      a.now < 0 + 1000000 * us) := by decide +kernel

theorem witness_SidebandBuses :
    (∃ addr : BitVec 7, addr.toNat = 0x58 + Config.smbAddr.toNat) ∧ (∃ addr : BitVec 7, addr.toNat ≠ 0x58 + Config.smbAddr.toNat) ∧
    (up.dev.porLow = false ∧ up.dev.bringup ≠ 0) ∧ ((SmbusOp.mk true false).write = true ∧ (SmbusOp.mk false true).pec = true) ∧ State.reset.dev.porLow = true ∧ (up.setReg (pageAddr 14 0x010) 0).internalLocked = true ∧
    up.internalLocked = false := by
  have h := Config.smbAddr.isLt
  refine ⟨⟨BitVec.ofNat 7 (0x58 + Config.smbAddr.toNat), ?_⟩, ⟨0, ?_⟩, by decide +kernel⟩
  · simp only [BitVec.toNat_ofNat]; omega
  · simp; omega


/-- SYN registers of `s`: offset and value. -/
def syn (s : State) (l : List (Nat × Nat)) : State := l.foldl (fun s x => s.setReg (pageAddr 3 x.1) x.2) s
/-- Trigger line 7 is DRIVEN and its ball reads asserted; the start router takes its falling edges, STAR_IN is selected by link jump 3. -/
def triggered : State := (syn up [(0x05C, 2), (0x070, 0x71), (0x16C, 2)]).modSyn fun y => { y with trig := 0x80, starOut := [(9990000, 10000000), (9999000, 10003096)] }
/-- An edge at a ball has come to its acceptance by the start router. -/
def edged : State := up.modSyn fun y => { y with coming := [{ at_ := 9999999, dest := 0, slot := 0 }] }
/-- Start and stop routers send on the link; window 3 is selected by both masks, and events are due at 20. -/
def routed (aligned : Bool) : State := (syn up [(0x100, 3 + 8), (0x070, 0x100), (0x074, 0x100)]).modRef fun r => { r with aligned := aligned }

/-- The link is locked and a START frame's event is due; the start router takes frames. -/
def started : State := (syn (routed true) [(0x070, 3)]).modSyn fun y => { y with
  lock := 1, items := [{ at_ := 9999999, own := false, kind := 3, idx := 0, val := 0, org := 5 }] }

theorem witness_TriggersAndRouters :
    let a := triggered.advance 0
    let b := (eventDue armed).advance 0
    (a.takes 3 = true ∧ a.trigDrive 7 = 2 ∧ a.trigDrive 0 = 0 ∧ a.contends 7 = true ∧ a.contends 0 = false ∧ a.trigPowered = true) ∧
    (bits (a.dreg 3 0x070) 0 2 = 1 ∧ bits (a.dreg 3 0x070) 4 3 = 7 ∧ bit (a.dreg 3 0x070) 7 = false ∧
      a.starSelected = true ∧ up.starSelected = false) ∧
    (∃ x : LinkEdge, (edged.advance 0).syn.coming = [x] ∧ x.at_ ≤ (edged.advance 0).t ∧ x.dest = 0 ∧ edged.syn.starts = [] ∧ edged.syn.items = [] ∧
      edged.syn.startCyc = none ∧ bit (edged.dreg 3 0x070) 8 = false) ∧ a.noEdgeDue = true ∧
    ((routed true).nywAligned = true ∧ (routed false).nywAligned = false ∧ (routed true).takes 3 = true ∧ (routed true).syn.startCyc = none) ∧
    (b.syn.starts = [20] ∧ b.syn.stops = [20] ∧ 20 ≤ b.t ∧ 3 ∈ b.maskPins 0x080 ∧ 3 ∈ b.maskPins 0x090 ∧ 4 ∉ b.maskPins 0x080 ∧
      b.mode 3 = .armed ∧ (b.md 3).trans = none ∧ b.modeHeld 3 = false) ∧
    ((({ eventDue armed with syn := { (eventDue armed).syn with starts := [] } } : State).advance 0).noneFirst 3 = true ∧ b.syn.items = []) ∧
    (let r := (({ eventDue (runningOn false) with syn := { (eventDue armed).syn with starts := [] } } : State)).advance 0
     3 ∈ r.maskPins 0x090 ∧ r.syn.stops = [20] ∧ r.mode 3 = .run ∧ (r.md 3).trans = none ∧ r.modeHeld 3 = false ∧ r.noneFirst 3 = true ∧
       r.noJumpDue 3 = true ∧ (r.sq 3).landing = 0 ∧ (r.sq 3).stop = none) ∧
    (∃ x : NywItem, (started.advance 0).syn.items = [x] ∧ x.kind = 3 ∧ x.at_ ≤ (started.advance 0).t ∧ (started.advance 0).syn.starts = [] ∧
      (started.advance 0).nywLocked = true ∧ bits ((started.advance 0).dreg 3 0x070) 0 2 = 3 ∧ (started.advance 0).syn.startCyc = none) := by
  refine ⟨by decide +kernel, by decide +kernel, ⟨_, rfl, by decide +kernel⟩, by decide +kernel, by decide +kernel, by decide +kernel,
    by decide +kernel, by decide +kernel, ⟨_, rfl, by decide +kernel⟩⟩

/-- Part 1 of two on the link: both receivers locked, aligned, `n` frames since the latest time pair. -/
def linked (n : Nat) : State := (routed true).modSyn fun y => { y with lock := 3, good := (64, 64), bad := (0xFFFF, 0xFFFF), sinceTime := (n, n), lanes := 0x5A, flags := 0x3C }
/-- A frame of position 0 with one hop left, sealed as its sender seals it. -/
def sent (kind payload : Nat) : BitVec 80 := (linked 0).sealFrame (mkFrame 0 1 kind payload)

theorem witness_NywenFrames :
    let a := (linked 62).advance 0
    (a.noEdgeDue = true ∧ a.slotDue 0 = true ∧ takeFrame 0 a.syn.fwd = none ∧ takeFrame 0 a.syn.own = none ∧ a.syn.sinceTime.1 = 62 ∧
      (linked 63).syn.sinceTime.1 = 63) ∧ up.nywEn = false ∧
    (takeFrame 1 [(0, sent 0 0), (1, sent 3 7)] = some (sent 3 7, [(0, sent 0 0)])) ∧
    (a.syn.lock.getLsbD 1 = true ∧ frameOk (sent 1 5) = true ∧ fKind (sent 1 5) = 1 ∧ fHops (sent 1 5) = 1 ∧ fOrigin (sent 1 5) = 0 ∧
      frameOk (sent 5 (9999999 + 13 * 2 ^ 40)) = true ∧ fKind (sent 5 9999999) = 5 ∧ frameOk 0 = false ∧ 6 ≤ fKind (sent 7 0) ∧
      (routed true).syn.lock.getLsbD 1 = false ∧ (routed true).nywEn = true) ∧ (linked 61).syn.sinceTime.1 < 62 ∧
    (a.nywAligned = true ∧ gtOf a.t % 3200 = 0 ∧ gtOf ((linked 62).advance 1).t % 3200 ≠ 0) := by decide +kernel

/-- Items wait for delivery: one of each kind, due, and one that is not. The routers take frames. -/
def waitItem (k at_ : Nat) : NywItem := { at_ := at_, own := false, kind := k, idx := 1, val := 1, org := 5 }
def waiting : State := (syn (linked 0) [(0x070, 3), (0x074, 3)]).modSyn fun y => { y with
  items := ([3, 4, 5, 9, 10].map fun k => waitItem k 10000000) ++ [{ waitItem 3 10000001 with idx := 2 }] }

theorem witness_NywenDelivery :
    let a := waiting.advance 0
    let b := (linked 0).advance 0
    a.noEdgeDue = true ∧ b.noEdgeDue = true ∧ (takeItem a.syn.items 6 = none ∧ ((takeItem a.syn.items 5).any fun x => a.t < x.1.at_) ∧
      ([3, 4, 5, 9, 10].map some = (List.range 5).map fun n => ((takeItem a.syn.items n).filter fun x => x.1.at_ ≤ a.t).map fun x => x.1.kind) ∧
      bits (a.dreg 3 0x070) 0 2 = 3 ∧ bits (a.dreg 3 0x074) 0 2 = 3 ∧ bits (b.dreg 3 0x070) 0 2 ≠ 3 ∧ a.syn.startCyc = none ∧ a.syn.stopCyc = none) ∧
    (up.nywEn = false ∧ b.nywEn = true ∧ b.nywParts ≠ 1 ∧ b.syn.lock.getLsbD 1 = true ∧ (routed true).syn.lock.getLsbD 1 = false ∧
      putBit (routed true).syn.lock 0 true ≠ 3) ∧ a.nywLocked = true ∧ up.nywLocked = false ∧
    (64 ≤ b.syn.good.2 ∧ up.syn.good.1 < 64 ∧ 16 ≤ ((List.range 64).filter fun i => b.syn.bad.2.getLsbD i).length ∧
      ((List.range 64).filter fun i => up.syn.bad.2.getLsbD i).length < 16 ∧ putBit b.syn.lock 1 false ≠ 0 ∧ putBit (1 : BitVec 2) 0 false = 0) ∧
    (b.syn.devAll = none ∧ 256 < ((257 : BitVec 16).toInt).natAbs ∧ ((-256 : Int)).natAbs ≤ 256) ∧
    (b.takes 3 = true ∧ b.nywPos ≠ 0 ∧ b.syn.lock.getLsbD (b.nearRx 0) = true ∧ b.anyActive = false ∧ b.gtRun = true ∧ b.nywAligned = true ∧
      up.nywPos = 0 ∧ up.nywAligned = false) := by decide +kernel

theorem witness_LedgerBitsOnlySet : (Tab.get 0 appending.keep.ledger 0).getLsbD 0 = true := by decide +kernel

theorem witness_EventsTakeEffect :
    let a := loaded3.advance 0
    let b := (supplied3 3).advance 0
    let c := (service none).advance 0
    (a.roleShelf 3 .next = some 1 ∧ roleGet .next (a.sq 3).fetched = none ∧ a.fetchOk 3 1 = true ∧ dStream (a.desc 3 (entryOf 1)) = false ∧
      a.slotRejected 3 2 = false ∧ a.roleShelf 3 (.jump 0) = some 2 ∧ a.fetchOk 3 2 = true) ∧
    ((a.sq 3).loaded = true ∧ a.stackOn (3 / 64 % 2) = true ∧ a.bankOn (cluOf 3) = true ∧ (a.sq 3).segOf .path ≠ none ∧ a.nextWhole 3 .path = false) ∧
    (b.mode 3 = .run ∧ (b.pl 3).begun = true ∧ (b.ho 3).on = false ∧ (b.pl 3).nextT ≤ b.t ∧ (b.sq 3).ofs < (b.sq 3).playEnd ∧
      (b.sq 3).owesDecision = false ∧ b.stageDue 3 = false ∧ b.slicePresent 3 ≠ none) ∧
    (c.takes (winPage 3 3) = true ∧ c.mode 3 = .service ∧ (c.slot (c.slotOf 3)).kcal = true ∧ (c.clu (c.slotOf 3 / 17)).afeState = 2 ∧
      c.ref.locked = true ∧ c.calBusy (c.slotOf 3 / 17) = false ∧ c.armedRun 3 = false ∧ (c.slot (c.slotOf 3)).calOp = none ∧
      c.slotOf 3 % 17 ≠ 16 ∧ bits (16 : BitVec 32).toNat 0 5 = 16) ∧
    (((service (some 2)).advance 0).slot (((service (some 2)).advance 0).slotOf 3)).calOp = some 2 ∧
    (let d := (service none).modSlot 3 fun x => { x with driftRef := none }
     (d.slot 3).afeOn = true ∧ bit (d.sreg 3 3 0x090) 0 = true ∧ (d.slot 3).driftRef = none) ∧
    (State.reset.dev.porLow = true ∧ ((bringing 0 false).dev.porLow = false ∧ (bringing 0 false).dev.bringup = 0) ∧
      ((bringing 1 false).dev.bringup = 1 ∧ (bringing 1 false).mem.startupDone = false) ∧ (bringing 2 false).dev.bringup = 2 ∧
      ((bringing 3 false).dev.bringup = 3 ∧ ((bringing 3 false).src (devSrc 2 1)).causes = []) ∧ (bringing 4 false).dev.bringup = 4) ∧
    ((stackDown none).takes 1 = true ∧ (stackDown none).stkFault 1 0 = 0 ∧ (stackDown none).stkFault 0 1 = 0) ∧
    (up.gtRun = true ∧ up.dev.bringup = 5) := by decide +kernel

/-! Well-formedness: each check refuses an ill-formed term. -/

theorem test_wf_arm_reads : (Instr.arm 0 3 7 { words := [1024] }).wellFormed = false ∧ (Instr.arm 0 3 7 { words := [1023] }).wellFormed = true ∧
    (Instr.arm 0 3 7 { lanes := [1024] }).wellFormed = false ∧ (Instr.arm 0 3 7 { entries := [16384] }).wellFormed = false ∧
    (Instr.arm 0 3 7 { entries := [16383] }).wellFormed = true := by decide
theorem test_wf_reserved_code : (Instr.modeCmdReserved 0 3 8 0).wellFormed = false ∧ (Instr.modeCmdReserved 0 3 9 0).wellFormed = true := by decide
theorem test_wf_broadcast_checks : (Instr.modeBcast 0 0 1 0 0 (List.replicate 18 (0, 0, {}))).wellFormed = false ∧
    (Instr.modeBcast 0 0 1 0 0 [(0, 0, { lanes := [1024] })]).wellFormed = false := by decide
theorem test_wf_stack_read : (Instr.stackReadDone 0 3 .path 65 0 0 false).wellFormed = false := by decide
theorem test_wf_strobe_drained : (Instr.strobeClose 0 3 [] 0 2).wellFormed = false := by decide
theorem test_wf_completion_tag : (Instr.readCompletion 0 16384 [] .ok {}).wellFormed = false := by decide
theorem test_wf_completion_length : (Instr.readCompletion 0 0 (List.replicate 4097 0) .ok {}).wellFormed = false := by decide +kernel
theorem test_wf_timeout_tag : (Instr.cplTimeout 0 16384).wellFormed = false := by decide
theorem test_wf_level_drive : (Instr.levelWrite 0 3 .drv (BitVec.ofNat 64 (2 ^ 48))).wellFormed = false := by decide
theorem test_wf_level_compare : (Instr.levelWrite 0 3 .cmp (BitVec.ofNat 64 (2 ^ 32))).wellFormed = false := by decide
theorem test_wf_level_bleed : (Instr.levelWrite 0 3 .bleed 0x10000).wellFormed = false := by decide
theorem test_wf_scrub_target : (Instr.scrubStep 0 18 .clean false).wellFormed = false := by decide
theorem test_wf_march_column : (Instr.marchRowTestDone 0 false (some 9216)).wellFormed = false := by decide
theorem test_wf_march_fails : (Instr.destructiveMarchDone 0 [(16, 0, 0)]).wellFormed = false ∧
    (Instr.destructiveMarchDone 0 [(0, 2048, 0)]).wellFormed = false ∧ (Instr.destructiveMarchDone 0 [(0, 0, 9216)]).wellFormed = false := by decide
theorem test_wf_bar2_read : (Instr.bar2Read 0 0 0 .clean).wellFormed = false ∧ (Instr.bar2Read 0 0 4097 .clean).wellFormed = false := by decide
theorem test_wf_bar2_write : (Instr.bar2Write 0 0 [] {}).wellFormed = false := by decide
theorem test_wf_bar2_write_long : (Instr.bar2Write 0 0 (List.replicate 4097 0) {}).wellFormed = false := by decide +kernel
theorem test_wf_bar4_read : (Instr.bar4Read 0 0 0 .clean none).wellFormed = false ∧ (Instr.bar4Read 0 0 4097 .clean none).wellFormed = false := by decide
theorem test_wf_bar4_write : (Instr.bar4Write 0 0 [] {}).wellFormed = false := by decide
theorem test_wf_bar4_write_long : (Instr.bar4Write 0 0 (List.replicate 4097 0) {}).wellFormed = false := by decide +kernel
theorem test_wf_meeting_word : (Instr.bar4Read 0 0 8 .clean (some ⟨1, 2, none, true⟩)).wellFormed = false ∧
    (Instr.bar4Read 0 0 8 .clean (some ⟨1, 1, none, true⟩)).wellFormed = true ∧
    (Instr.bar4Write 0 0 [0] { meet := some ⟨1, 1, none, true⟩ }).wellFormed = false := by decide
theorem test_wf_register_size : (Instr.regWrite 0 0 0 0).wellFormed = false ∧ (Instr.regWrite 0 0 4097 0).wellFormed = false := by decide
theorem test_wf_link_generation : (Instr.linkUp 0 2 16 false .common).wellFormed = false ∧ (Instr.linkUp 0 7 16 false .common).wellFormed = false := by decide
theorem test_wf_link_width : (Instr.linkUp 0 5 2 false .common).wellFormed = false := by decide
theorem test_wf_link_flit : (Instr.linkUp 0 6 16 false .common).wellFormed = false ∧ (Instr.linkUp 0 5 16 true .common).wellFormed = false := by decide
theorem test_wf_config_dword : (Instr.configRequest 0 false 5 0).wellFormed = false := by decide
theorem test_wf_bar2_resize : (Instr.bar2Resize 0 7).wellFormed = false := by decide
theorem test_wf_frame_kinds : (Instr.frameIdle 0 0 0x40).wellFormed = false ∧ (Instr.frameTimeLo 0 0 0).wellFormed = false ∧
    (Instr.frameTimeHi 0 0 0x40).wellFormed = false ∧ (Instr.frameStart 0 0 0x80).wellFormed = false ∧
    (Instr.frameStop 0 0 0xC0).wellFormed = false ∧ (Instr.frameJump 0 0 0x100).wellFormed = false := by decide
theorem test_wf_bad_records : (Instr.porRelease 0 [145]).wellFormed = false := by decide

/-! Single steps and values worked out from the manual. -/

/-- CRC-32C of the string 123456789 is 0xE306_9283, the check value of the polynomial that R68 names. -/
theorem test_crc32c_check_value : crc32c [0x31, 0x32, 0x33, 0x34, 0x35, 0x36, 0x37, 0x38, 0x39] = 0xE3069283 := by decide +kernel
/-- The example vector of AES-256 in FIPS 197, the block cipher that R125 and R321 name. -/
theorem test_aes_256_block : ofBig (aesEncrypt (roundKeys (List.range 32)) ((List.range 16).map (17 * ·))) = 0x8EA2B7CA516745BFEAFC49904B496089 := by
  decide +kernel
/-- An all-zero catalogue entry never passes its check (R68). -/
theorem test_zero_entry_fails_its_check : dCheckOk 0 = false := by decide +kernel
/-- The three descriptors of these tests pass their checks, and none does with one bit flipped. -/
theorem test_descriptor_checks : dCheckOk holdD = true ∧ dCheckOk landD = true ∧ dCheckOk playD = true ∧ dCheckOk (playD ^^^ 2) = false := by
  decide +kernel
/-- The intake budgets of R135, in units of 10 MB/s: 3.0 x4 has 3 GB/s and 6.0 x16 has 100 GB/s; x1 is no entry. -/
theorem test_link_budgets : linkBudget 3 4 = some 300 ∧ linkBudget 4 8 = some 1200 ∧ linkBudget 6 16 = some 10000 ∧ linkBudget 5 1 = none := by
  decide
/-- No row of the table gives bits. -/
theorem test_no_word_spells_a_command : decodeTableWord 32 5 = none ∧ (up.withFetchWord 32 5) = up := by decide +kernel
/-- An empty queue idles. -/
theorem test_empty_queue_idles : step up = .next up := by rfl
/-- Before bring-up ends a mode command changes no window, and a page's write is counted as dropped (R382). -/
theorem test_reset_part_drops_a_trap_ack : (match exec (.trapAck 0) State.reset with | .next t => t.dev.buDropped | _ => 7) = 1 := by decide +kernel
/-- TRIG_CMD of width 5 pulses a driven line for 5 timebase cycles of 256 tq, and not an INPUT (R346). -/
theorem test_trigger_pulse : (match exec (.trigCmd 0 7 5) triggered with | .next t => t.syn.pulses | _ => []) = [(7, 136, 10000000 + 1280)] ∧
    (match exec (.trigCmd 0 0 5) triggered with | .next t => t.syn.pulses | _ => [(9, 9, 9)]) = [] := by decide +kernel
/-- Over an aligned link a start is due 20,480 tq after it is accepted (R354). -/
theorem test_linked_start_is_delayed : (match exec (.evtStart 0) (routed true) with | .next t => t.syn.starts | _ => []) = [10020480] ∧
    (match exec (.evtStart 0) (routed false) with | .next t => t.syn.starts | _ => []) = [10000000] := by decide +kernel
/-- The frame after 62 frames carries the low 47 bits of GT (R353). -/
theorem test_time_frame : (match exec (.nywenFrameSlot 0 0) (linked 62) with
    | .next t => t.out.map fun | .frame tx f => (tx, fKind f, fPayload f) | _ => (9, 9, 9)
    | _ => []) = [(0, 1, 10000000)] := by decide +kernel
/-- A frame with one bit flipped is discarded and counted (R352). -/
theorem test_bad_frame_is_counted : (match exec (.frameStart 0 1 (sent 3 9 ^^^ 0x1000000)) (linked 0) with
    | .next t => (t.syn.crcErr, t.syn.items) | _ => (9, [])) = (1, []) := by decide +kernel
/-- A lost heartbeat freezes ALIVE at its polarity level with cause 2 (R305). -/
theorem test_heartbeat_loss_freezes_alive : (match exec (.heartbeatLoss 0) (alive true 0) with
    | .next t => (t.flt.alive, t.flt.running, t.flt.cause) | _ => (none, true, 9)) = (some false, false, 2) := by decide +kernel
/-- RESUME is refused while a fatal fault is pending (R305). -/
theorem test_resume_refused_under_a_fatal_fault : (match exec (.aliveResume 0) fatal with
    | .next t => (t.flt.running, t.flt.resumeRefused) | _ => (true, false)) = (false, true) := by decide +kernel
/-- Acknowledging with the current SEQ clears PEND; with an older one it does not, and says STALE (R304). -/
theorem test_acknowledge : (match exec (.srcClr 0 97 4 0) (detected 2 true) with | .next t => (t.src 97).pend | _ => 9) = 4 ∧
    (match exec (.srcClr 0 97 4 4) (detected 2 true) with | .next t => (t.src 97).pend | _ => 9) = 0 := by decide +kernel
/-- A configuration read before FUSES_LEDGER has ended gets retry status (R383). -/
theorem test_config_retry : (match exec (.configRequest 0 false 0 0) ((bringing 1 false).modHost fun h => { h with up := true }) with
    | .next t => t.out | _ => []) = [.config none] := by decide +kernel
/-- A PLAY that repeats starts its first vector again, and the burst stays in RUN (R91). -/
theorem test_play_runs_on : (match exec (.playBoundary 0 3) (playing 64) with | .next t => (t.mode 3, (t.sq 3).ofs) | _ => (.off, 9)) = (.run, 0) := by
  decide +kernel
/-- A command that bears on no due event moves time alone (R13). -/
theorem test_time_advances : (match exec (.aliveToggle 77) up with | .next t => (t.t, t.now) | _ => (0, 0)) = (10000077, 20000077) := by decide +kernel

end Sys2Proof.Tests
end

namespace Sys2Proof.Machine

/-! ### What taking in a record leaves alone -/

/-- Taking in a record leaves the records on their way, the windows, the registers, the stacks and the DEV and PWR pages. -/
structure OnlyCollects (s t : State) : Prop where
  flight : t.flight = s.flight
  wins : t.wins = s.wins
  regs : t.regs = s.regs
  stackMem : t.stackMem = s.stackMem
  dev : t.dev = s.dev

theorem OnlyCollects.refl (s : State) : OnlyCollects s s := ⟨rfl, rfl, rfl, rfl, rfl⟩

theorem OnlyCollects.trans {s t u : State} (h1 : OnlyCollects s t) (h2 : OnlyCollects t u) : OnlyCollects s u :=
  ⟨h2.flight.trans h1.flight, h2.wins.trans h1.wins, h2.regs.trans h1.regs, h2.stackMem.trans h1.stackMem, h2.dev.trans h1.dev⟩

theorem State.modColl_onlyCollects (s : State) (src : Nat) (f : Coll → Coll) : OnlyCollects s (s.modColl src f) := by
  unfold State.modColl
  split <;> exact ⟨rfl, rfl, rfl, rfl, rfl⟩

theorem State.modSrc_onlyCollects (s : State) (src : Nat) (f : SrcSt → SrcSt) : OnlyCollects s (s.modSrc src f) := s.modColl_onlyCollects ..

theorem State.modFlt_onlyCollects (s : State) (f : FltSt → FltSt) : OnlyCollects s (s.modFlt f) := ⟨rfl, rfl, rfl, rfl, rfl⟩
theorem State.setWs_onlyCollects (s : State) (m : List Host.Cell) : OnlyCollects s (s.setWs m) := ⟨rfl, rfl, rfl, rfl, rfl⟩

theorem State.logIndicate_onlyCollects (s : State) : OnlyCollects s s.logIndicate := ⟨rfl, rfl, rfl, rfl, rfl⟩

theorem State.latchAll_onlyCollects (s : State) (d : First) : OnlyCollects s (s.latchAll d) := by
  unfold State.latchAll
  extract_lets c s1 s2
  have h1 : OnlyCollects s s1 := by
    dsimp only [s1]
    split
    · exact s.modColl_onlyCollects ..
    · exact .refl s
  have h2 : OnlyCollects s1 s2 := by
    dsimp only [s2]
    split
    · exact s1.modColl_onlyCollects ..
    · exact .refl s1
  exact (h1.trans h2).trans ⟨rfl, rfl, rfl, rfl, rfl⟩

theorem State.harvestEvent_onlyCollects (s : State) (src : Nat) (r : Rec) : OnlyCollects s (s.harvestEvent src r) := by
  unfold State.harvestEvent
  split <;> exact ⟨rfl, rfl, rfl, rfl, rfl⟩

@[simp] theorem State.calm_latchAll (s : State) (d : First) : (s.latchAll d).calm = s.calm := by
  unfold State.latchAll
  extract_lets c s1 s2
  have h1 : s1.calm = s.calm := by dsimp only [s1]; split <;> simp
  have h2 : s2.calm = s1.calm := by dsimp only [s2]; split <;> simp
  exact h2.trans h1

/-! ### The status of a source under these updates -/

/-- Collectors with the same sources give every source the same status. -/
theorem State.src_of_srcs {s t : State} (h : ∀ b, (t.coll b).srcs = (s.coll b).srcs) (b : Nat) : t.src b = s.src b := by
  unfold State.src
  rw [h b]

/-- An update of one collector that leaves its sources leaves those of every collector. -/
theorem State.srcs_modColl (s : State) (a b : Nat) (f : Coll → Coll) (hf : ∀ c, (f c).srcs = c.srcs) :
    ((s.modColl a f).coll b).srcs = (s.coll b).srcs := by
  unfold State.modColl
  split
  · next ha =>
    unfold State.coll
    split
    · simp only [Tab.get_set, ha]
      split
      · next e => rw [hf, e]
      · rfl
    · rfl
    · rfl
  · next ha =>
    unfold State.coll
    split
    · rfl
    · simp only [Tab.get_set, ha]
      split
      · next e => rw [hf, e]
      · rfl
    · rfl
  · unfold State.coll
    split
    · rfl
    · rfl
    · exact hf _

theorem State.src_latchAll (s : State) (d : First) (b : Nat) : (s.latchAll d).src b = s.src b := by
  refine State.src_of_srcs (fun b => ?_) b
  unfold State.latchAll
  extract_lets c s1 s2
  have h1 : (s1.coll b).srcs = (s.coll b).srcs := by
    dsimp only [s1]
    split
    · exact s.srcs_modColl _ _ _ fun _ => rfl
    · rfl
  have h2 : (s2.coll b).srcs = (s1.coll b).srcs := by
    dsimp only [s2]
    split
    · exact s1.srcs_modColl _ _ _ fun _ => rfl
    · rfl
  rw [← h1, ← h2]
  unfold State.coll
  split <;> rfl

@[simp] theorem State.src_modSrc_self (s : State) (k : Nat) (f : SrcSt → SrcSt) : (s.modSrc k f).src k = f (s.src k) := by
  unfold State.modSrc State.modColl State.src
  split <;> simp [State.coll, *]

theorem State.src_harvestEvent (s : State) (src : Nat) (r : Rec) (b : Nat) : (s.harvestEvent src r).src b = s.src b := by
  unfold State.harvestEvent
  split <;> rfl

theorem State.logWr_harvestEvent (s : State) (src : Nat) (r : Rec) : (s.harvestEvent src r).flt.logWr = s.flt.logWr := by
  unfold State.harvestEvent
  split <;> rfl

/-! ### The event log with room -/

/-- The event log takes a record of any source but its own overflow source while it has room (R113, R307). -/
def State.LogTakes (s : State) (src : Nat) : Prop := src ≠ devSrc 6 0 ∧ s.flt.logLevel + movedNow s.flt.logPop s.now < 2048

theorem State.logTakes_of_calm {s t : State} {src : Nat} (h : t.calm = s.calm) : t.LogTakes src ↔ s.LogTakes src := by
  unfold State.LogTakes
  rw [State.flt_of_calm h, State.now_of_calm h]

/-- A log with room takes the record and nothing else changes but its bank and its indication. -/
theorem State.logPush_takes {s : State} {src : Nat} (h : s.LogTakes src) (r : Rec) :
    OnlyCollects s (s.logPush src r) ∧ (s.logPush src r).flt.logWr = s.flt.logWr + 1 ∧ ∀ b, (s.logPush src r).src b = s.src b := by
  unfold State.logPush
  rw [if_neg h.1, if_pos h.2]
  extract_lets a r'
  generalize Memory.store s.wsMem a (recBytes r') = m
  exact ⟨((s.setWs_onlyCollects m).trans (State.modFlt_onlyCollects ..)).trans (State.logIndicate_onlyCollects _), rfl, fun _ => rfl⟩

/-! ### A record of one real detection -/

/-- The record `d` is of the one detection `p`, real, outside any consequential window and not confined to records. -/
structure Det.IsReal (d : Det) (p : DetPart) : Prop where
  parts : d.parts = [p]
  inj : p.inj = false
  dry : p.dry = false
  conseq : p.conseq = false

theorem Det.IsReal.effective {d : Det} {p : DetPart} (h : d.IsReal p) : d.effective = [p] := by
  simp [Det.effective, h.parts, h.inj]

/-- What one real detection leaves in its source's status, by its class (R297 to R299). -/
theorem SrcSt.take_real {d : Det} {p : DetPart} (h : d.IsReal p) (st : SrcSt) (c : Nat) :
    st.take c d p = { st with
      pend := st.pend ||| BitVec.ofNat 4 (2 ^ (classify st c d.at_ p).cls)
      base := st.base ||| BitVec.ofNat 4 (2 ^ (classify st c d.at_ p).cls)
      mf := st.mf || (classify st c d.at_ p).mf
      conseq := false, inj := false, seq := st.seq + 1
      count := satAdd (2 ^ 32 - 1) st.count (1 + d.more)
      times := if d.past then st.times else d.at_ :: st.times
      win := st.win ++ [d.at_] } := by
  simp [SrcSt.take, h.effective, h.parts, h.inj, h.dry, h.conseq]

/-- A class field that asks for nothing starts no reaction (R301). -/
theorem State.react_none {s : State} {d : Det} {k : Classed} (h : s.reactField d.src k.cls = 0) (p : DetPart) (r : Rec)
    (checks : List (SlotId × BitVec 16)) : s.react d p k r checks = s := by
  simp [State.react, h, bit, bits]

theorem State.reactField_of_regs {s t : State} (h : t.regs = s.regs) (src cls : Nat) : t.reactField src cls = s.reactField src cls := by
  simp only [State.reactField, State.reg_eq, h]

/-- A record of one real detection enters its source's status and, unless its class is N, the log (R297 to R299, R307). -/
theorem State.collectDet_real {s : State} {d : Det} {p : DetPart} {k : Classed} (hp : d.IsReal p) (hl : s.LogTakes d.src)
    (hk : classify (s.src d.src) (s.reg (compatKey d.src)) d.at_ p = k) (hr : s.reactField d.src k.cls = 0)
    (checks : List (SlotId × BitVec 16)) :
    OnlyCollects s (s.collectDet d checks) ∧ (s.collectDet d checks).flt.logWr = s.flt.logWr + (if k.cls = 0 then 0 else 1) ∧
      (s.collectDet d checks).src d.src = (s.src d.src).take (s.reg (compatKey d.src)) d p := by
  unfold State.collectDet
  simp only [hp.effective, hp.parts, hp.inj, hp.dry, hp.conseq, pickPart, hk, List.filter_cons, List.filter_nil, List.any_cons, List.any_nil,
    List.isEmpty_cons, Bool.not_false, Bool.or_false, Bool.and_true, Bool.false_eq_true, ↓reduceIte, decide_eq_true_eq]
  generalize eventRec d p k _ = r
  set s1 := s.modSrc d.src fun st => st.take (s.reg (compatKey d.src)) d p with hs1
  have h1 : OnlyCollects s s1 := s.modSrc_onlyCollects ..
  have c1 : s1.calm = s.calm := s.calm_modSrc ..
  have e1 : s1.src d.src = (s.src d.src).take (s.reg (compatKey d.src)) d p := s.src_modSrc_self ..
  by_cases h0 : k.cls = 0
  · simp only [h0, ne_eq, not_true_eq_false, ↓reduceIte, Nat.add_zero]
    have h4 := h1.trans (s1.harvestEvent_onlyCollects d.src r)
    rw [State.react_none (State.reactField_of_regs h4.regs .. ▸ hr)]
    exact ⟨h4, by rw [State.logWr_harvestEvent, State.flt_of_calm c1], by rw [State.src_harvestEvent, e1]⟩
  · simp only [h0, ne_eq, not_false_eq_true, ↓reduceIte]
    generalize First.mk .. = f
    have h2 := h1.trans (s1.latchAll_onlyCollects f)
    have c2 : (s1.latchAll f).calm = s.calm := by rw [State.calm_latchAll, c1]
    obtain ⟨h3, w3, e3⟩ := State.logPush_takes ((State.logTakes_of_calm c2).mpr hl) r
    have h4 := (h2.trans h3).trans (((s1.latchAll f).logPush d.src r).harvestEvent_onlyCollects d.src r)
    rw [State.react_none (State.reactField_of_regs h4.regs .. ▸ hr)]
    exact ⟨h4, by rw [State.logWr_harvestEvent, w3, State.flt_of_calm c2], by rw [State.src_harvestEvent, e3, State.src_latchAll, e1]⟩

/-! ### Classes (R297, R298) -/

/-- Without an unacknowledged detection of its class a detection keeps its native class. -/
theorem classify_native {st : SrcSt} {c : Nat} {p : DetPart} (hm : bit c 0 = false) (h : st.base.getLsbD p.native = false ∨ p.native = 0)
    (at_ : Nat) : classify st c at_ p = { cls := p.native, esc := false, mf := false, severe := false } := by
  unfold classify
  rw [if_neg (by simp [hm]), if_neg (by rcases h with h | h <;> simp [h])]

/-- With one it takes the next higher class; a second F is F, marked. -/
theorem classify_escalated {st : SrcSt} {c : Nat} {d : Det} {p : DetPart} (hp : d.IsReal p) (hm : bit c 0 = false)
    (h : st.base.getLsbD p.native = true) (h1 : 1 ≤ p.native) (at_ : Nat) :
    classify st c at_ p = { cls := min 3 (p.native + 1), esc := true, mf := decide (p.native = 3), severe := false } := by
  unfold classify
  rw [if_neg (by simp [hm]), if_pos (by simp [h, hp.conseq, hp.dry, show p.native ≠ 0 by omega])]

/-- How many detections lie in the counting window of one at `at_`, by the source's COMPAT register (R298). -/
def SrcSt.earlier (st : SrcSt) (c at_ : Nat) : Nat :=
  (st.win.filter fun u => decide (u ≤ at_) && decide (at_ - u < bits c 8 24 * 1024000000)).length

/-- In COUNT mode a detection is F when N − 1 earlier ones lie in its window. -/
theorem classify_count_fatal {st : SrcSt} {c at_ : Nat} {d : Det} {p : DetPart} (hp : d.IsReal p) (hm : bit c 0 = true)
    (h : bits c 4 4 ≤ st.earlier c at_) : classify st c at_ p = { cls := 3, esc := false, mf := false, severe := true } := by
  unfold SrcSt.earlier at h
  simp [classify, hm, hp.conseq, h]

/-- It is C while fewer do. -/
theorem classify_count_low {st : SrcSt} {c at_ : Nat} {d : Det} {p : DetPart} (hp : d.IsReal p) (hm : bit c 0 = true)
    (h : st.earlier c at_ < bits c 4 4) : classify st c at_ p = { cls := 1, esc := false, mf := false, severe := false } := by
  unfold SrcSt.earlier at h
  simp [classify, hm, hp.conseq, Nat.not_le.mpr h]

/-! ### Arrival (R15, R25, R302) -/

/-- The oldest record of the source whose record is named arrives once the tq of its stamp is over. -/
theorem State.detArrive_takes {s : State} {n : Nat} {x d : Det} {rest : List Det} (hx : s.flight[n]? = some x)
    (ht : takeSrc x.src s.flight = some (d, rest)) (h : d.past = true ∨ d.at_ < s.t) (checks : List (SlotId × BitVec 16)) :
    s.detArrive n checks = { s with flight := rest }.collectOnce d checks := by
  simp only [State.detArrive, hx, ht]
  rw [if_pos (by simpa using h)]

theorem State.detArrive_waits {s : State} {n : Nat} {x d : Det} {rest : List Det} (hx : s.flight[n]? = some x)
    (ht : takeSrc x.src s.flight = some (d, rest)) (hp : d.past = false) (h : s.t ≤ d.at_) (checks : List (SlotId × BitVec 16)) :
    s.detArrive n checks = s := by
  simp only [State.detArrive, hx, ht]
  rw [if_neg (by simp [hp, h])]

theorem State.detArrive_none {s : State} {n : Nat} (h : s.flight[n]? = none) (checks : List (SlotId × BitVec 16)) : s.detArrive n checks = s := by
  simp only [State.detArrive, h]

/-- A record with a new stamp is collected; so is every one from before a device reset. -/
theorem State.collectOnce_new {s : State} {d : Det} (h : d.past = true ∨ d.at_ ∉ (s.src d.src).times) (checks : List (SlotId × BitVec 16)) :
    s.collectOnce d checks = s.collectDet d checks := by
  unfold State.collectOnce
  rw [if_neg (by rcases h with h | h <;> simp [h])]

/-- A record with the stamp of an earlier one of its source counts there. -/
theorem State.collectOnce_seen {s : State} {d : Det} (hp : d.past = false) (h : d.at_ ∈ (s.src d.src).times) (checks : List (SlotId × BitVec 16)) :
    s.collectOnce d checks = s.sendMore d.src d.at_ (d.parts.length + d.more) := by
  unfold State.collectOnce
  rw [if_pos (by simp [hp, h])]

/-- Occurrences of a record that is at its collector count in the source's COUNT (R15, R60). -/
theorem State.sendMore_collected {s : State} {src at_ : Nat} (h : (s.flight.any fun e => decide (e.src = src) && decide (e.at_ = at_)) = false)
    (k : Nat) :
    OnlyCollects s (s.sendMore src at_ k) ∧ (s.sendMore src at_ k).flt.logWr = s.flt.logWr ∧
      (s.sendMore src at_ k).src src = { s.src src with count := satAdd (2 ^ 32 - 1) (s.src src).count k } := by
  unfold State.sendMore
  rw [if_neg (by simp [h])]
  set s1 := s.modSrc src fun st => { st with count := satAdd (2 ^ 32 - 1) st.count k }
  have h1 : OnlyCollects s s1 := s.modSrc_onlyCollects ..
  have w1 : s1.flt.logWr = s.flt.logWr := by rw [State.flt_of_calm (s.calm_modSrc ..)]
  have e1 : s1.src src = { s.src src with count := satAdd (2 ^ 32 - 1) (s.src src).count k } := s.src_modSrc_self ..
  dsimp only
  split <;> exact ⟨h1.trans ⟨rfl, rfl, rfl, rfl, rfl⟩, w1, e1⟩

/-- A record of one real detection with a new stamp arrives and leaves what its class says. -/
theorem State.detArrive_real {s : State} {n : Nat} {x d : Det} {rest : List Det} {p : DetPart} {k : Classed} (hx : s.flight[n]? = some x)
    (ht : takeSrc x.src s.flight = some (d, rest)) (hnew : d.past = true ∨ d.at_ < s.t ∧ d.at_ ∉ (s.src d.src).times) (hp : d.IsReal p)
    (hl : s.LogTakes d.src) (hk : classify (s.src d.src) (s.reg (compatKey d.src)) d.at_ p = k) (hr : s.reactField d.src k.cls = 0)
    (checks : List (SlotId × BitVec 16)) :
    OnlyCollects { s with flight := rest } (s.detArrive n checks) ∧
      (s.detArrive n checks).flt.logWr = s.flt.logWr + (if k.cls = 0 then 0 else 1) ∧
      (s.detArrive n checks).src d.src = (s.src d.src).take (s.reg (compatKey d.src)) d p := by
  rw [State.detArrive_takes hx ht (hnew.imp_right And.left),
    State.collectOnce_new (s := { s with flight := rest }) (hnew.imp_right And.right)]
  exact State.collectDet_real (s := { s with flight := rest }) hp hl hk hr checks

/-- Settles O49: a record waits for the end of its tq, then counts in the one of its stamp or enters its source's status by its class. -/
theorem detectionsReachTheirCollector : Obligations.DetectionsReachTheirCollector := by
  unfold Obligations.DetectionsReachTheirCollector
  constructor
  · intro s dt n checks x d rest a st hx ht
    refine ⟨fun hp hw => ?_, fun hp hd hm hr => ?_, ?_⟩
    · exact congrArg Host.Outcome.next (State.detArrive_waits hx ht hp hw checks)
    · have hat : (rest.any fun e => decide (e.src = d.src) && decide (e.at_ = d.at_)) = false := by
        simpa [imp_iff_not_or] using hr
      have hseen := State.collectOnce_seen (s := { a with flight := rest }) hp hm checks
      obtain ⟨ho, hw, he⟩ := State.sendMore_collected (s := { a with flight := rest }) hat (d.parts.length + d.more)
      exact ⟨_, congrArg Host.Outcome.next ((State.detArrive_takes hx ht (.inr hd) checks).trans hseen),
        ho.flight, he, hw, ho.wins, ho.regs, ho.stackMem, ho.dev⟩
    · intro p hnew hparts hinj hdry hconseq hsrc hroom c earlier landed
      have hp : d.IsReal p := ⟨hparts, hinj, hdry, hconseq⟩
      have lands : ∀ k : Classed, classify st c d.at_ p = k → a.reactField d.src k.cls = 0 → landed k.cls k.mf := by
        intro k hk hr
        obtain ⟨ho, hw, he⟩ := State.detArrive_real hx ht hnew hp ⟨hsrc, hroom⟩ hk hr checks
        rw [SrcSt.take_real hp, hk] at he
        exact ⟨_, rfl, ho.flight, congrArg SrcSt.pend he, congrArg SrcSt.mf he, congrArg SrcSt.seq he, congrArg SrcSt.count he,
          (congrArg SrcSt.causes he :), hw, ho.wins, ho.regs, ho.stackMem, ho.dev⟩
      refine ⟨fun hm hb hr => ?_, fun hm hb h1 _ hr => ?_, fun hm hn hr => ?_, fun hm hn hr => ?_⟩
      · exact lands _ (classify_native hm hb d.at_) hr
      · exact lands _ (classify_escalated hp hm hb h1 d.at_) hr
      · exact lands _ (classify_count_fatal hp hm hn) hr
      · exact lands _ (classify_count_low hp hm hn) hr
  · intro s dt n checks a hn
    exact congrArg Host.Outcome.next (State.detArrive_none hn checks)

end Sys2Proof.Machine

namespace Sys2Proof

/-! ### Tables filtered and built by their keys -/

theorem Tab.get_filter_key {α : Type} (d : α) (p : Nat → Bool) (t : Tab α) (k : Nat) :
    Tab.get d (t.filter fun e => p e.1) k = if p k = true then Tab.get d t k else d := by
  induction t with
  | nil => simp [Tab.get]
  | cons e r ih =>
    obtain ⟨k', v⟩ := e
    by_cases hk : k' = k
    · subst hk
      by_cases hp : p k' = true <;> simp [Tab.get, hp, ih]
    · by_cases hp : p k' = true <;> simp [Tab.get, hp, hk, ih]

theorem Tab.get_foldl_set_range {α : Type} [DecidableEq α] (d : α) (v : Nat → α) (t : Tab α) {i n : Nat} (h : i < n) :
    Tab.get d ((List.range n).foldl (fun t i => Tab.set d t i (v i)) t) i = v i := by
  induction n with
  | zero => omega
  | succ n ih =>
    rw [List.range_succ, List.foldl_append, List.foldl_cons, List.foldl_nil, Tab.get_set]
    by_cases e : n = i
    · rw [if_pos e, e]
    · rw [if_neg e, ih (by omega)]

namespace Machine

theorem Memory.read_zero (m : List Host.Cell) (lo hi x : Nat) :
    Memory.read (Memory.zero m lo hi) x = if lo ≤ x ∧ x < hi then 0 else Memory.read m x := by
  refine (Tab.get_filter_key 0 (fun i => decide (i < lo) || decide (hi ≤ i)) m x).trans ?_
  by_cases h : lo ≤ x ∧ x < hi
  · rw [if_pos h, if_neg (by simp; omega)]
  · rw [if_neg h, if_pos (by simp; omega)]
    rfl

/-! ### What the passes of bring-up leave alone -/

/-- A projection that every visit of a pass keeps is kept by the pass. -/
theorem State.each_proj {α β : Type} (g : State → β) (s : State) (l : List α) {f : State → α → State} (hf : ∀ s a, g (f s a) = g s) :
    g (s.each l f) = g s := by
  unfold State.each
  induction l generalizing s with
  | nil => rfl
  | cons a r ih => exact (ih (f s a)).trans (hf s a)

theorem State.each_range_succ (s : State) (n : Nat) (f : State → Nat → State) :
    s.each (List.range (n + 1)) f = f (s.each (List.range n) f) n := by
  simp [State.each, List.range_succ]

/-- The state without the traces of detections and without what bring-up's passes over windows, slots, clusters, stacks and vectors touch:
the windows, the slots, the clusters, the host port and its traffic, the stacks' power states. -/
def State.still (s : State) : State :=
  { s.calm with wins := [], slots := [], clus := [], host := {}, out := [], dev := { s.calm.dev with stk := (3, 3) } }

theorem State.still_of_calm {s t : State} (h : s.calm = t.calm) : s.still = t.still :=
  congrArg (fun c : State => { c with wins := [], slots := [], clus := [], host := {}, out := [], dev := { c.dev with stk := (3, 3) } }) h

theorem State.stepFail_of_still {s t : State} (h : s.still = t.still) : s.dev.stepFail = t.dev.stepFail := congrArg (·.dev.stepFail) h

@[simp] theorem State.still_raise (s : State) (src code native : Nat) : (s.raise src code native).still = s.still :=
  State.still_of_calm (State.calm_raise ..)
@[simp] theorem State.still_raiseDev (s : State) (p i code native : Nat) : (s.raiseDev p i code native).still = s.still :=
  State.still_of_calm (State.calm_raiseDev ..)

@[simp] theorem State.still_modKeep (s : State) (f : KeepSt → KeepSt) : (s.modKeep f).still = s.still.modKeep f := rfl

/-- A failed check of a step sets its STEP_FAIL bit, and nothing else but the traces of a detection (R380). -/
theorem State.calm_stepFails (s : State) (n : Nat) :
    (s.stepFails n).calm = (s.modDev fun d => { d with stepFail := putBit d.stepFail n true }).calm := State.calm_raiseVal ..

theorem State.still_stepFails (s : State) (n : Nat) :
    (s.stepFails n).still = s.still.modDev fun d => { d with stepFail := putBit d.stepFail n true } :=
  (State.still_of_calm (s.calm_stepFails n)).trans rfl

/-- The end of a step sets its STEP_FAIL bit when its check failed. -/
theorem State.calm_checked (s : State) (n : Nat) {c : Prop} [Decidable c] : (if c then s.stepFails n else s).calm =
    (s.modDev fun d => { d with stepFail := if c then putBit d.stepFail n true else d.stepFail }).calm := by
  split
  · exact s.calm_stepFails n
  · rfl

theorem State.still_checked (s : State) (n : Nat) {c : Prop} [Decidable c] : (if c then s.stepFails n else s).still =
    s.still.modDev fun d => { d with stepFail := if c then putBit d.stepFail n true else d.stepFail } :=
  (State.still_of_calm (s.calm_checked n)).trans rfl

/-! ### Power-on reset and the KEEPER step -/

/-- Loading a seed changes the slot and traces detections alone. -/
theorem State.loadSeed_frame (s : State) (k : Nat) :
    (s.loadSeed k).still = s.still ∧ (s.loadSeed k).wins = s.wins ∧ (s.loadSeed k).clus = s.clus := by
  unfold State.loadSeed
  extract_lets bad s1
  split
  · exact ⟨s1.still_raise .., (State.wins_of_calm (s1.calm_raise ..)).trans rfl, (State.clus_of_calm (s1.calm_raise ..)).trans rfl⟩
  · exact ⟨rfl, rfl, rfl⟩

/-- The switch counts of cluster `c` as the keeper has them stored (R192). -/
def KeepSt.counts (k : KeepSt) (c : Nat) : Tab Nat := (List.range 49).foldl (fun t i => Tab.set 0 t i (Tab.get 0 k.stored (lifeKey c i))) []

/-- With only the records left that are not in `bad`, the counts of a cluster are the stored ones, or 0 when its record is bad. -/
theorem KeepSt.get_counts_sound {k : KeepSt} {stored : Tab Nat} {bad : List Nat}
    (h : k.stored = stored.filter fun e => !bad.contains (136 + e.1 / 64)) (c : Nat) {i : Nat} (hi : i < 49) :
    Tab.get 0 (k.counts c) i = if bad.contains (136 + c) then 0 else Tab.get 0 stored (lifeKey c i) := by
  have hd : lifeKey c i / 64 = c := by unfold lifeKey; omega
  rw [KeepSt.counts, Tab.get_foldl_set_range 0 _ _ hi, h, Tab.get_filter_key 0 (fun x => !bad.contains (136 + x / 64)), hd]
  cases bad.contains (136 + c) <;> rfl

/-- The live switch counts after a pass over the clusters that takes them from the keeper's store (R192). -/
theorem State.life_each_clu (f : KeepSt → Nat → Tab Nat) (s : State) {c n : Nat} (h : c < n) :
    ((s.each (List.range n) fun s c => s.modClu c fun x => { x with life := f s.keep c }).clu c).life = f s.keep c := by
  induction n with
  | zero => omega
  | succ n ih =>
    rw [State.each_range_succ, State.clu_modClu]
    by_cases e : n = c
    · rw [if_pos e, e, State.each_proj State.keep s _ (by intros; rfl)]
    · rw [if_neg e, ih (by omega)]

/-- POR_N's release reads the keeper's store: the live switch counts start from the stored ones whose record is sound (R192, R379, R380). -/
theorem State.porRelease_low {s : State} (h : s.dev.porLow = true) (bad : List Nat) :
    let t := s.porRelease bad
    t.dev.porLow = false ∧ t.dev.bringup = 0 ∧ t.dev.stepFail = (if bad = [] then s.dev.stepFail else putBit s.dev.stepFail 0 true) ∧
      t.keep.ledger = s.keep.ledger ∧ t.keep.kek = s.keep.kek ∧ t.wins = s.wins ∧ t.stackMem = s.stackMem ∧
      ∀ c < 8, ∀ i < 49, Tab.get 0 (t.clu c).life i = if bad.contains (136 + c) then 0 else Tab.get 0 s.keep.stored (lifeKey c i) := by
  unfold State.porRelease
  rw [if_neg (by simp [h])]
  extract_lets s1 s2 s3 t
  have f2 : s2.still = s1.still := State.each_proj State.still s1 _ (by intros; rfl)
  have f3 : s3.still = s2.still := State.each_proj State.still s2 _ fun s k => (s.loadSeed_frame k).1
  have w2 : s2.wins = s1.wins := State.each_proj State.wins s1 _ (by intros; rfl)
  have w3 : s3.wins = s2.wins := State.each_proj State.wins s2 _ fun s k => (s.loadSeed_frame k).2.1
  have c3 : s3.clus = s2.clus := State.each_proj State.clus s2 _ fun s k => (s.loadSeed_frame k).2.2
  have ht : t = if ¬ bad = [] then s3.stepFails 0 else s3 := by
    rw [ite_not]
    simp only [t, List.isEmpty_iff]
  have ct := ht ▸ s3.calm_checked 0 (c := ¬ bad = [])
  have ft := ht ▸ s3.still_checked 0 (c := ¬ bad = [])
  have hl : ∀ c < 8, (s2.clu c).life = s1.keep.counts c := fun c hc => State.life_each_clu KeepSt.counts s1 hc
  clear_value t s3 s2
  rw [f3, f2] at ft
  refine ⟨(congrArg (·.dev.porLow) ft :), (congrArg (·.dev.bringup) ft :), (congrArg (·.dev.stepFail) ft).trans (ite_not ..),
    (congrArg (·.keep.ledger) ft :), (congrArg (·.keep.kek) ft :), (State.wins_of_calm ct).trans (w3.trans w2),
    (congrArg State.stackMem ft :), fun c hc i hi => ?_⟩
  have hc3 : t.clu c = s2.clu c := (State.clu_at_of_calm ct c).trans (congrArg (Tab.get ({} : Clu) · c) c3 :)
  rw [hc3, hl c hc]
  exact KeepSt.get_counts_sound (k := s1.keep) rfl c hi

theorem getLsbD_putBit {n i : Nat} (v : BitVec n) (j : Nat) (b : Bool) (hi : i < n) :
    (putBit v i b).getLsbD j = if i = j then b else v.getLsbD j := by
  unfold putBit
  have h2 : (BitVec.ofNat n (2 ^ i)).getLsbD j = decide (i = j) := by
    rw [BitVec.getLsbD_ofNat, Nat.testBit_two_pow]
    by_cases h : i = j
    · simp [← h, hi]
    · simp [h]
  by_cases h : i = j
  · subst h
    cases b <;> simp only [Bool.false_eq_true, ↓reduceIte, BitVec.getLsbD_and, BitVec.getLsbD_not, BitVec.getLsbD_or, h2] <;> simp
  · cases b <;> simp only [Bool.false_eq_true, ↓reduceIte, BitVec.getLsbD_and, BitVec.getLsbD_not, BitVec.getLsbD_or, h2]
    · simpa [h] using BitVec.lt_of_getLsbD
    · simp [h]

/-- The KEEPER step takes up what the VBAT domain holds of the mesh and the sentinel (R318, R320). -/
theorem State.keeperEnd_waiting {s : State} (hp : s.dev.porLow = false) (hb : s.dev.bringup = 0) (u : Unpowered) :
    let t := s.keeperEnd u
    t.dev.bringup = 1 ∧ t.keep.unpowered.getLsbD 0 = (s.keep.unpowered.getLsbD 0 || u.mesh || u.meshOpen) ∧
      t.keep.unpowered.getLsbD 3 = u.sentinel ∧ t.sec.active.getLsbD 0 = u.meshOpen ∧
      t = { s with dev := { s.dev with bringup := 1 }, keep := { s.keep with unpowered := t.keep.unpowered }, sec := { s.sec with active := t.sec.active } } := by
  unfold State.keeperEnd
  rw [if_neg (by simp [hp, hb])]
  refine ⟨rfl, ?_, ?_, ?_, rfl⟩
  · exact (getLsbD_putBit _ 0 _ (by omega)).trans (getLsbD_putBit _ 0 _ (by omega))
  · exact getLsbD_putBit _ 3 _ (by omega)
  · exact getLsbD_putBit _ 0 _ (by omega)

/-! ### Fuses and Ledger -/

theorem State.ledgerBad_of_keep {s t : State} (h : t.keep = s.keep) : t.ledgerBad = s.ledgerBad := by
  unfold State.ledgerBad State.ledgerRead State.nextBlank
  rw [h]

theorem State.ledgerValid_nil {s : State} (h : s.keep.ledger = []) (kind : Nat) : s.ledgerValid kind = [] := by
  simp [State.ledgerValid, h]

theorem State.voidTorn_nil {s : State} (h : s.keep.ledger = []) : s.voidTorn = s := by
  simp [State.voidTorn, State.ledgerRead, h, State.each]

/-- The state without what applying the Ledger sets. -/
def State.unapplied (s : State) : State := { s with sec := {}, mem := {}, clus := [], keep := {}, flt := {} }

theorem State.dev_of_unapplied {s t : State} (h : s.unapplied = t.unapplied) : s.dev = t.dev := congrArg (·.dev) h
theorem State.wins_of_unapplied {s t : State} (h : s.unapplied = t.unapplied) : s.wins = t.wins := congrArg (·.wins) h
theorem State.stackMem_of_unapplied {s t : State} (h : s.unapplied = t.unapplied) : s.stackMem = t.stackMem := congrArg (·.stackMem) h
theorem State.wsMem_of_unapplied {s t : State} (h : s.unapplied = t.unapplied) : s.wsMem = t.wsMem := congrArg (·.wsMem) h

theorem State.unapplied_modSec (s : State) (f : SecSt → SecSt) : (s.modSec f).unapplied = s.unapplied := rfl
theorem State.unapplied_modMem (s : State) (f : MemSt → MemSt) : (s.modMem f).unapplied = s.unapplied := rfl
theorem State.unapplied_modClu (s : State) (c : Nat) (f : Clu → Clu) : (s.modClu c f).unapplied = s.unapplied := rfl
theorem State.unapplied_modKeep (s : State) (f : KeepSt → KeepSt) : (s.modKeep f).unapplied = s.unapplied := rfl
theorem State.unapplied_modFlt (s : State) (f : FltSt → FltSt) : (s.modFlt f).unapplied = s.unapplied := rfl

theorem State.unapplied_eachClu (s : State) (n : Nat) (f : State → Nat → Clu → Clu) :
    (s.each (List.range n) fun s c => s.modClu c (f s c)).unapplied = s.unapplied :=
  State.each_proj State.unapplied s _ fun s c => s.unapplied_modClu c _

/-- Voiding torn entries and applying the others reaches the SEC, MEM and FLT pages, the clusters and the keeper alone (R329). -/
theorem State.applyLedger_frame (s : State) : s.voidTorn.applyLedger.unapplied = s.unapplied := by
  have hv : s.voidTorn.unapplied = s.unapplied := State.each_proj State.unapplied s _ fun s _ => s.unapplied_modKeep _
  rw [← hv]
  generalize s.voidTorn = v
  unfold State.applyLedger
  extract_lets s1 s2 s3 s4
  have h2 : s2.unapplied = v.unapplied := (s1.unapplied_modMem _).trans (v.unapplied_modSec _)
  have h3 : s3.unapplied = s2.unapplied := s2.unapplied_eachClu 8 _
  have h4 : s4.unapplied = s3.unapplied := s3.unapplied_modKeep _
  exact (s4.unapplied_modFlt _).trans (h4.trans (h3.trans h2))

theorem State.applyLedger_verified (s : State) : s.applyLedger.keep.verified = true := rfl

/-- A Ledger without entries leaves the part new: Open, no spare in use, the identity values, polarity low (R330). -/
theorem State.applyLedger_nil {s : State} (h : s.keep.ledger = []) : let t := s.voidTorn.applyLedger
    t.keep.ledger = [] ∧ t.sec.lc = 0 ∧ t.keep.subsys = 0x71281F6A ∧ t.flt.pol = false ∧ t.mem.spare = [] := by
  rw [State.voidTorn_nil h]
  unfold State.applyLedger
  extract_lets s1 s2 s3 s4 t
  have k3 : s3.keep = s.keep := State.each_proj State.keep s2 _ (by intros; rfl)
  have c3 : s3.sec = s2.sec := State.each_proj State.sec s2 _ (by intros; rfl)
  have m3 : s3.mem = s2.mem := State.each_proj State.mem s2 _ (by intros; rfl)
  clear_value s3
  refine ⟨(congrArg KeepSt.ledger k3).trans h, ?_, ?_, ?_, ?_⟩
  · simp only [t, s4, State.modFlt_sec, State.modKeep_sec, c3, s2, s1, State.modMem_sec, State.modSec_sec, State.ledgerValid_nil h,
      List.getLast?_nil]
  · simp only [t, s4, State.modFlt_keep, State.modKeep_keep, State.ledgerValid_nil h, List.getLast?_nil]
  · simp only [t, State.modFlt_flt, State.ledgerValid_nil h, List.getLast?_nil]
  · simp only [t, s4, State.modFlt_mem, State.modKeep_mem, m3, s2, State.modMem_mem, State.ledgerValid_nil h, List.foldl_nil]

/-- FUSES_LEDGER ends in its own STATE: fuses and Ledger apply, two bad copies or a fused grade of 1 give grade 1, a bad copy or entry sets
STEP_FAIL (R5, R287, R305, R329, R380). -/
theorem State.fusesEnd_due {s : State} (hp : s.dev.porLow = false) (hb : s.dev.bringup = 1) (bad0 bad1 : Bool) :
    let t := s.fusesEnd bad0 bad1
    t.dev.bringup = (if s.mem.startupDone then 3 else 2) ∧ t.dev.grade = (if (bad0 && bad1) || Config.slowGrade then 1 else 0) ∧
      t.keep.verified = true ∧
      t.dev.stepFail = (if bad0 = true ∨ bad1 = true ∨ s.ledgerBad = true then putBit s.dev.stepFail 1 true else s.dev.stepFail) ∧
      t.flt.alive = some t.flt.pol ∧ t.wins = s.wins ∧ t.stackMem = s.stackMem ∧ t.wsMem = s.wsMem ∧
      (s.keep.ledger = [] → t.keep.ledger = [] ∧ t.sec.lc = 0 ∧ t.keep.subsys = 0x71281F6A ∧ t.flt.pol = false ∧ t.mem.spare = []) := by
  unfold State.fusesEnd
  rw [if_neg (by simp [hp, hb])]
  extract_lets s1 bad s2 s3 s3' s4 slow t
  have c1 : s1.calm = s.calm := by dsimp only [s1]; split <;> simp
  have hbad : bad = s.ledgerBad := State.ledgerBad_of_keep (State.keep_of_calm c1)
  have c2 : s2.calm = s.calm := by dsimp only [s2]; split <;> simp [c1]
  have f3 : s3.unapplied = s2.unapplied := s2.applyLedger_frame
  have v3 : s3.keep.verified = true := State.applyLedger_verified _
  have n3 : s2.keep.ledger = [] → s3.keep.ledger = [] ∧ s3.sec.lc = 0 ∧ s3.keep.subsys = 0x71281F6A ∧ s3.flt.pol = false ∧ s3.mem.spare = [] :=
    fun h => s2.applyLedger_nil h
  have c3 : s3'.calm = s3.calm := by dsimp only [s3']; split <;> simp
  have c4 : s4.calm = _ := s3'.calm_checked 1 (c := (bad0 || bad1 || bad) = true)
  clear_value s4 s3' s3 s2
  have d3 : s3.dev.stepFail = s.dev.stepFail := by
    rw [State.dev_of_unapplied f3, State.stepFail_of_still (State.still_of_calm c2)]
  have k4 : s4.keep = s3.keep := (State.keep_of_calm c4).trans (State.keep_of_calm c3 :)
  refine ⟨rfl, rfl, ?_, ?_, rfl, ?_, ?_, ?_, fun h => ?_⟩
  · exact (congrArg KeepSt.verified k4).trans v3
  · show s4.dev.stepFail = _
    rw [State.stepFail_of_still (State.still_of_calm c4), State.modDev_dev, State.stepFail_of_still (State.still_of_calm c3), d3, hbad]
    simp only [Bool.or_eq_true, or_assoc]
  · show s4.wins = s.wins
    rw [State.wins_of_calm c4, State.modDev_wins, State.wins_of_calm c3, State.wins_of_unapplied f3, State.wins_of_calm c2]
  · show s4.stackMem = s.stackMem
    rw [State.stackMem_of_calm c4, State.modDev_stackMem, State.stackMem_of_calm c3, State.stackMem_of_unapplied f3, State.stackMem_of_calm c2]
  · show s4.wsMem = s.wsMem
    rw [State.wsMem_of_calm c4, State.modDev_wsMem, State.wsMem_of_calm c3, State.wsMem_of_unapplied f3, State.wsMem_of_calm c2]
  · obtain ⟨hl, hlc, hs, hpol, hm⟩ := n3 ((congrArg KeepSt.ledger (State.keep_of_calm c2)).trans h)
    refine ⟨(congrArg KeepSt.ledger k4).trans hl, ?_, (congrArg KeepSt.subsys k4).trans hs, ?_, ?_⟩
    · show s4.sec.lc = 0
      rw [State.sec_of_calm c4, State.modDev_sec, State.sec_of_calm c3, hlc]
    · show s4.flt.pol = false
      rw [State.flt_of_calm c4, State.modDev_flt, State.flt_of_calm c3, hpol]
    · show s4.mem.spare = []
      rw [State.mem_of_calm c4, State.modDev_mem, State.mem_of_calm c3, hm]

/-! ### March, timebase and stacks -/

/-- The start-up march ends in its own STATE with the working store zeroed (R287, R380). -/
theorem State.marchStep_due {s : State} (hb : s.dev.bringup = 2) (fails : BitVec 16) :
    let t := s.marchStep fails
    t.dev.bringup = 3 ∧ t.mem.startup = fails ∧ t.wsMem = [] ∧
      t.dev.stepFail = (if fails = 0 then s.dev.stepFail else putBit s.dev.stepFail 2 true) ∧ t.stackMem = s.stackMem ∧ t.regs = s.regs := by
  unfold State.marchStep
  rw [if_neg (by simp [hb])]
  extract_lets s1 t
  have c1 : s1.calm = ((s.setWs []).modMem fun m => { m with startup := fails, startupDone := true }).calm := by
    dsimp only [s1, State.startupMarch]
    split <;> simp
  have f1 := State.still_of_calm c1
  have ft := s1.still_checked 2 (c := ¬ fails = 0)
  rw [ite_not, f1] at ft
  dsimp only [t]
  generalize (if fails = 0 then s1 else s1.stepFails 2) = s2 at ft
  exact ⟨rfl, (congrArg (·.mem.startup) ft :), (congrArg State.wsMem ft :), (congrArg (·.dev.stepFail) ft).trans (ite_not ..),
    (congrArg State.stackMem ft :), (congrArg State.regs ft :)⟩

/-- Reporting what the VBAT domain has held empties it there and traces detections alone (R318). -/
theorem State.calm_reportUnpowered (s : State) : s.reportUnpowered.calm = (s.modKeep fun k => { k with unpowered := 0 }).calm := by
  unfold State.reportUnpowered
  rw [State.calm_modKeep, State.each_proj State.calm s _ fun s i => State.calm_raiseAt .., State.calm_modKeep]

/-- The first lock comes in its own STATE while no loss of the reference is known: GT runs from 0 (R13, R380). -/
theorem State.firstLock_due {s : State} (hb : s.dev.bringup = 3) (hc : (s.src (devSrc 2 1)).causes = []) (replicaFail : Bool) :
    let t := s.firstLock replicaFail
    t.dev.bringup = 4 ∧ t.t = 0 ∧ t.gtRun = true ∧ t.ref.locked = true ∧
      t.dev.stepFail = (if replicaFail then putBit s.dev.stepFail 3 true else s.dev.stepFail) ∧ t.regs = s.regs ∧
      t.stackMem = s.stackMem ∧ t.keep.unpowered = 0 := by
  unfold State.firstLock
  rw [if_neg (by simp [hb, hc])]
  extract_lets s1 s2 s3 t
  have f2 : s2.still = (s1.modKeep fun k => { k with unpowered := 0 }).still := by
    dsimp only [s2]
    rw [State.still_of_calm (State.calm_reportUnpowered _), State.still_modKeep, State.still_modKeep,
      State.each_proj State.still s1 _ (by intros; rfl)]
  have f3 : s3.still = s2.still.modDev fun d => { d with stepFail := if replicaFail then putBit d.stepFail 3 true else d.stepFail } := by
    dsimp only [s3]
    cases replicaFail
    · rfl
    · exact (State.still_stepFails ..).trans (by rw [State.still_raiseDev]; rfl)
  rw [f2] at f3
  clear_value s3 s2
  exact ⟨rfl, (congrArg State.t f3 :), (congrArg State.gtRun f3 :), (congrArg (·.ref.locked) f3 :), (congrArg (·.dev.stepFail) f3 :),
    (congrArg State.regs f3 :), (congrArg State.stackMem f3 :), (congrArg (·.keep.unpowered) f3 :)⟩

/-- Without history records that wait, a stack that serves again writes nothing (R268). -/
theorem State.stackServes_idle {s : State} (h : ∀ k, (s.slot k).histDue = []) (st : Nat) : s.stackServes st = s := by
  have hw : ∀ k, s.histWrite k = s := fun k => by simp [State.histWrite, h k]
  unfold State.stackServes State.each
  exact List.foldl_fixed' hw _

/-- A stack that serves again takes its waiting history records; nothing else changes but the slots they wait at. -/
theorem State.stackServes_frame (s : State) (st : Nat) : (s.stackServes st).still.setStack [] = s.still.setStack [] := by
  refine State.each_proj (fun s : State => s.still.setStack []) s _ fun s k => ?_
  unfold State.histWrite
  split
  · rfl
  · extract_lets at0 due s1
    exact State.each_proj (fun s : State => s.still.setStack []) s _ (by intros; rfl)

/-- What a stack that comes up changes: its power state, its content, the history records that waited for it. -/
theorem State.stackUp_frame (s : State) (st : Nat) (fail : Bool) : (s.stackUp st fail).still.setStack [] = s.still.setStack [] := by
  unfold State.stackUp
  cases fail
  · refine (State.stackServes_frame ..).trans ?_
    cases s.dev.rerun <;> rfl
  · exact congrArg (·.setStack []) (s.still_raiseDev 8 (5 + st) 0 3)

/-- The content of a stack that comes up with no history records waiting: zeros after power-on, what it held otherwise (R379, R385). -/
theorem State.stackUp_stackMem {s : State} (h : ∀ k, (s.slot k).histDue = []) (st : Nat) (fail : Bool) :
    (s.stackUp st fail).stackMem =
      (if fail = true ∨ s.dev.rerun = true then s.stackMem else Memory.zero s.stackMem (stackBase st) (stackBase (st + 1))) ∧
    ∀ k, ((s.stackUp st fail).slot k).histDue = [] := by
  unfold State.stackUp
  cases fail
  · extract_lets s1
    cases hr : s.dev.rerun
    · simp only [Bool.false_eq_true, ↓reduceIte, or_self]
      rw [State.stackServes_idle (s := s1.setStack _) h]
      exact ⟨rfl, h⟩
    · simp only [Bool.false_eq_true, ↓reduceIte, or_true]
      rw [State.stackServes_idle (s := s1) h]
      exact ⟨rfl, h⟩
  · refine ⟨(State.stackMem_of_calm (s.calm_raiseDev ..)).trans (by simp), fun k => ?_⟩
    exact (congrArg Slot.histDue (State.slot_at_of_calm (s.calm_raiseDev ..) k)).trans (h k)

/-- Detecting the persisting causes again traces detections alone (R310). -/
theorem State.calm_detectAll (s : State) : s.detectAll.calm = s.calm := by
  refine State.each_proj State.calm s _ fun s src => ?_
  show (s.each _ _).calm = s.calm
  exact State.each_proj State.calm s _ fun s x => State.calm_raise ..

/-- Sending the vectors that have waited reaches the host port and its traffic alone. -/
theorem State.flushVecs_frame (s : State) : s.flushVecs.still = s.still ∧ s.flushVecs.heldDet = s.heldDet := by
  constructor
  · refine State.each_proj State.still s _ fun s v => ?_
    split
    · split <;> rfl
    · rfl
  · refine State.each_proj State.heldDet s _ fun s v => ?_
    split
    · split <;> rfl
    · rfl

/-- The part becomes SERVICEABLE: ALIVE runs while the heartbeat is there, and no detection is held any more (R305, R381, R384). -/
theorem State.serve_spec (s : State) :
    let t := s.serve
    t.dev.bringup = 5 ∧ t.dev.rerun = false ∧ t.heldDet = [] ∧ t.dev.stepFail = s.dev.stepFail ∧ t.regs = s.regs ∧ t.wsMem = s.wsMem ∧
      (s.flt.heartbeat = true → t.flt.running = true ∧ t.flt.cause = 0) ∧ t.stackMem = s.stackMem := by
  unfold State.serve
  extract_lets s1 s2 t
  have f0 : s.leftConnected.detectAll.still = s.still :=
    (State.still_of_calm (State.calm_detectAll _)).trans (State.each_proj State.still s _ (by intros; rfl))
  have f1 : s1.still = s.still.modDev fun d => { d with bringup := 5, rerun := false } := by
    rw [← f0]
    rfl
  have f2 : ∃ f : FltSt, s2.still = s1.still.modFlt (fun _ => f) ∧ (s1.flt.heartbeat = true → f.running = true ∧ f.cause = 0) := by
    dsimp only [s2]
    split
    · exact ⟨{ s1.flt with running := true, cause := 0 }, rfl, fun _ => ⟨rfl, rfl⟩⟩
    · next h => exact ⟨{ s1.flt with cause := 2 }, (State.still_raiseDev ..).trans rfl, fun h' => absurd h' h⟩
  obtain ⟨f, f2, hf⟩ := f2
  obtain ⟨ft, ht⟩ := State.flushVecs_frame { s2 with flight := s2.flight ++ s2.heldDet, heldDet := [] }
  replace ft : t.still = s2.still := ft
  replace ht : t.heldDet = [] := ht
  have hb : s1.flt.heartbeat = s.flt.heartbeat := (congrArg (·.flt.heartbeat) f1 :)
  clear_value t s2 s1
  rw [f2, f1] at ft
  refine ⟨(congrArg (·.dev.bringup) ft :), (congrArg (·.dev.rerun) ft :), ht, (congrArg (·.dev.stepFail) ft :), (congrArg State.regs ft :),
    (congrArg State.wsMem ft :), fun h => ?_, (congrArg State.stackMem ft :)⟩
  have hft : t.flt = f := (congrArg State.flt ft :)
  rw [hft]
  exact hf (hb.trans h)

/-- What both stacks hold when they come up with no history records waiting: after a device reset what they held, after power-on zeros in each
that has not failed (R379, R385). -/
theorem State.stacksUp_stackMem {s : State} (h : ∀ k, (s.slot k).histDue = []) (fail0 fail1 : Bool) :
    let m := ((s.stackUp 0 fail0).stackUp 1 fail1).stackMem
    (s.dev.rerun = true → m = s.stackMem) ∧
      (s.dev.rerun = false → ∀ x, (fail0 = false → stackBase 0 ≤ x → x < stackBase 1 → Memory.read m x = 0) ∧
        (fail1 = false → stackBase 1 ≤ x → x < stackBase 2 → Memory.read m x = 0)) := by
  obtain ⟨m0, h0⟩ := State.stackUp_stackMem h 0 fail0
  obtain ⟨m1, -⟩ := State.stackUp_stackMem h0 1 fail1
  have hr : (s.stackUp 0 fail0).dev.rerun = s.dev.rerun := (congrArg (·.dev.rerun) (s.stackUp_frame 0 fail0) :)
  rw [m0, hr] at m1
  dsimp only
  rw [m1]
  refine ⟨fun e => by simp [e], fun e x => ⟨fun hf hlo hhi => ?_, fun hf hlo hhi => ?_⟩⟩
  · cases fail1 <;> simp [e, hf, Memory.read_zero, hlo, hhi]
  · simp [e, hf, Memory.read_zero, hlo, hhi]

/-- The STACKS step ends in its own STATE: each stack is zeroed after power-on or failed, and the part serves (R379 to R385). -/
theorem State.stacksStep_due {s : State} (hb : s.dev.bringup = 4) (fails : BitVec 2) :
    let t := s.stacksStep fails
    t.dev.bringup = 5 ∧ t.dev.rerun = false ∧ t.heldDet = [] ∧
      t.dev.stepFail = (if fails = 0 then s.dev.stepFail else putBit s.dev.stepFail 4 true) ∧ t.regs = s.regs ∧ t.wsMem = s.wsMem ∧
      (s.flt.heartbeat = true → t.flt.running = true ∧ t.flt.cause = 0) ∧
      t.stackMem = ((s.stackUp 0 (fails.getLsbD 0)).stackUp 1 (fails.getLsbD 1)).stackMem := by
  unfold State.stacksStep
  rw [if_neg (by simp [hb])]
  extract_lets s1 t
  have f1 : s1.still.setStack [] = s.still.setStack [] := (State.stackUp_frame ..).trans (s.stackUp_frame ..)
  have m1 : s1.stackMem = ((s.stackUp 0 (fails.getLsbD 0)).stackUp 1 (fails.getLsbD 1)).stackMem := rfl
  have f2 := s1.still_checked 4 (c := ¬ fails = 0)
  rw [ite_not] at f2
  clear_value s1
  dsimp only [t]
  generalize (if fails = 0 then s1 else s1.stepFails 4) = s2 at f2
  have f3 : s2.still.setStack [] =
      (s.still.setStack []).modDev fun d => { d with stepFail := if ¬ fails = 0 then putBit d.stepFail 4 true else d.stepFail } := by
    rw [f2, ← f1]
    rfl
  obtain ⟨hbu, hre, hhd, hsf, hrg, hws, hhb, hsm⟩ := s2.serve_spec
  refine ⟨hbu, hre, hhd, ?_, ?_, ?_, fun h => hhb ?_, ?_⟩
  · exact hsf.trans ((congrArg (·.dev.stepFail) f3 :).trans (ite_not ..))
  · exact hrg.trans (congrArg State.regs f3 :)
  · exact hws.trans (congrArg State.wsMem f3 :)
  · exact (congrArg (·.flt.heartbeat) f3 :).trans h
  · exact hsm.trans ((congrArg State.stackMem f2 :).trans m1)

/-- Settles O47: each step of bring-up acts in its own STATE alone, sets STEP_FAIL by its check and leaves what the step does not concern. -/
theorem powerOnAndBringUp : Obligations.PowerOnAndBringUp := by
  unfold Obligations.PowerOnAndBringUp
  constructor
  · intro s dt a
    refine ⟨?_, fun bad => ⟨fun h => ?_, fun h => ⟨_, rfl, State.porRelease_low h bad⟩⟩, rfl, fun u => ⟨fun h => ?_, fun hp hb =>
      ⟨_, rfl, State.keeperEnd_waiting hp hb u⟩⟩⟩
    · refine ⟨_, rfl, rfl, rfl, rfl, rfl, rfl, rfl, rfl, rfl, rfl, rfl, rfl, rfl, rfl, rfl, rfl, rfl, rfl, rfl, rfl, rfl, rfl, rfl, fun h => ?_⟩
      show a.cutAppend = a.keep.ledger
      simp only [State.cutAppend, h]
    · exact congrArg Host.Outcome.next (if_pos (by simpa using h))
    · exact congrArg Host.Outcome.next (if_pos (by simpa using h))
  · intro s dt a
    refine ⟨fun bad0 bad1 => ⟨fun h => ?_, fun hp hb => ⟨_, rfl, State.fusesEnd_due hp hb bad0 bad1⟩⟩,
      fun fails => ⟨fun h => ?_, fun hb => ⟨_, rfl, State.marchStep_due hb fails⟩⟩,
      fun replicaFail => ⟨fun h => ?_, fun hb hc => ⟨_, rfl, State.firstLock_due hb hc replicaFail⟩⟩,
      fun fails => ⟨fun h => ?_, fun hb => ?_⟩⟩
    · exact congrArg Host.Outcome.next (if_pos (by simpa using h))
    · exact congrArg Host.Outcome.next (if_pos (by simpa using h))
    · exact congrArg Host.Outcome.next (if_pos (by simpa using h))
    · exact congrArg Host.Outcome.next (if_pos (by simpa using h))
    · obtain ⟨hbu, hre, hhd, hsf, hrg, hws, hhb, hsm⟩ := State.stacksStep_due hb fails
      refine ⟨_, rfl, hbu, hre, hhd, hsf, hrg, hws, hhb, fun hr hi => ?_, fun hr hi k hk hf x hlo hhi => ?_⟩
      · exact hsm.trans ((State.stacksUp_stackMem hi _ _).1 hr)
      · obtain ⟨hz0, hz1⟩ := (State.stacksUp_stackMem hi (fails.getLsbD 0) (fails.getLsbD 1)).2 hr x
        refine (congrArg (Memory.read · x) hsm).trans ?_
        interval_cases k
        · exact hz0 hf hlo hhi
        · exact hz1 hf hlo hhi

end Machine
end Sys2Proof

namespace Sys2Proof.Machine

/-! ### Fields of words -/

theorem testBit_bits (v l w i : Nat) : (bits v l w).testBit i = (decide (i < w) && v.testBit (l + i)) := by
  rw [bits, Nat.testBit_mod_two_pow, Nat.testBit_div_two_pow, Nat.add_comm]

/-- A field below bit `n` of a word does not see where the word is cut. -/
theorem bits_mod_two_pow {l w n : Nat} (h : l + w ≤ n) (v : Nat) : bits (v % 2 ^ n) l w = bits v l w := by
  refine Nat.eq_of_testBit_eq fun i => ?_
  rw [testBit_bits, testBit_bits, Nat.testBit_mod_two_pow]
  by_cases hi : i < w
  · simp [show l + i < n by omega]
  · simp [hi]

/-- A field above bit `m` does not see what lies below. -/
theorem bits_add_of_dvd {x p l m : Nat} (hx : x < 2 ^ m) (hp : 2 ^ m ∣ p) (h : m ≤ l) (w : Nat) : bits (x + p) l w = bits p l w := by
  obtain ⟨q, rfl⟩ := hp
  obtain ⟨k, rfl⟩ := Nat.exists_eq_add_of_le h
  have hd : (x + 2 ^ m * q) / 2 ^ m = q := by rw [Nat.add_mul_div_left _ _ (by positivity), Nat.div_eq_of_lt hx, Nat.zero_add]
  rw [bits, bits, Nat.pow_add, ← Nat.div_div_eq_div_mul, ← Nat.div_div_eq_div_mul, hd, Nat.mul_div_cancel_left _ (by positivity)]

theorem two_pow_dvd_pack {m : Nat} {fs : List (Nat × Nat × Nat)} (h : ∀ f ∈ fs, m ≤ f.1) : 2 ^ m ∣ pack fs := by
  induction fs with
  | nil => exact dvd_zero _
  | cons f r ih =>
    obtain ⟨hf, hr⟩ := List.forall_mem_cons.mp h
    exact dvd_add (dvd_mul_of_dvd_right (pow_dvd_pow 2 hf) _) (ih hr)

/-- A field of a word whose fields lie in rising order reads back what was packed. -/
theorem bits_pack {fs : List (Nat × Nat × Nat)} (h : fs.Pairwise fun f g => f.1 + f.2.1 ≤ g.1) {l w v : Nat} (hm : (l, w, v) ∈ fs) :
    bits (pack fs) l w = v % 2 ^ w := by
  induction fs with
  | nil => exact absurd hm List.not_mem_nil
  | cons f r ih =>
    obtain ⟨hf, hr⟩ := List.pairwise_cons.mp h
    have hd := two_pow_dvd_pack hf
    rcases List.mem_cons.mp hm with rfl | hm
    · obtain ⟨q, hq⟩ := hd
      dsimp only at hq
      rw [pack, hq, bits, Nat.pow_add, Nat.mul_assoc, Nat.mul_comm (v % 2 ^ w), ← Nat.mul_add, Nat.mul_div_cancel_left _ (by positivity)]
      simp
    · have hx : f.2.2 % 2 ^ f.2.1 * 2 ^ f.1 < 2 ^ (f.1 + f.2.1) := by
        rw [Nat.pow_add, Nat.mul_comm]
        exact Nat.mul_lt_mul_of_pos_left (Nat.mod_lt _ (by positivity)) (by positivity)
      exact (bits_add_of_dvd hx hd (hf _ hm) w).trans (ih hr hm)

theorem bits_mod_width (v l w : Nat) : bits v l w % 2 ^ w = bits v l w := Nat.mod_mod ..

/-! ### Collectors -/

/-- Nothing but the collectors has changed. -/
def SameButColls (s t : State) : Prop := t = { s with colCh := t.colCh, colClu := t.colClu, colDev := t.colDev }

theorem SameButColls.trans {s t u : State} (h1 : SameButColls s t) (h2 : SameButColls t u) : SameButColls s u :=
  Eq.trans h2 (congrArg (fun x : State => { x with colCh := u.colCh, colClu := u.colClu, colDev := u.colDev }) h1)

theorem State.modColl_sameButColls (s : State) (k : Nat) (f : Coll → Coll) : SameButColls s (s.modColl k f) := by
  unfold State.modColl
  split <;> rfl

theorem State.modSrc_sameButColls (s : State) (k : Nat) (f : SrcSt → SrcSt) : SameButColls s (s.modSrc k f) := s.modColl_sameButColls ..

@[simp] theorem State.coll_modColl_self (s : State) (k : Nat) (f : Coll → Coll) : (s.modColl k f).coll k = f (s.coll k) := by
  unfold State.modColl
  split <;> simp [State.coll, *]

theorem State.coll_modSrc_self (s : State) (k : Nat) (f : SrcSt → SrcSt) :
    (s.modSrc k f).coll k = { s.coll k with srcs := Tab.set {} (s.coll k).srcs (srcKey k) (f (s.src k)) } := State.coll_modColl_self ..

/-- An update of a collector that leaves its sources leaves their status. -/
theorem State.src_modColl (s : State) (a b : Nat) {f : Coll → Coll} (hf : ∀ c, (f c).srcs = c.srcs) : (s.modColl a f).src b = s.src b :=
  State.src_of_srcs (fun b => s.srcs_modColl a b f hf) b

@[simp] theorem State.coll_setReg (s : State) (x v k : Nat) : (s.setReg x v).coll k = s.coll k := rfl
@[simp] theorem State.src_setReg (s : State) (x v k : Nat) : (s.setReg x v).src k = s.src k := rfl

theorem State.coll_latchAt (s : State) (p b t k : Nat) : (s.latchAt p b t).coll k = s.coll k := by
  unfold State.latchAt
  split <;> rfl

theorem State.coll_send (s : State) (d : Det) (k : Nat) : (s.send d).coll k = s.coll k := by
  unfold State.send
  split
  · split <;> rfl
  · split <;> rfl

/-- A detection that marks no persisting cause reaches no collector while it is on its way (R294, R299). -/
theorem State.coll_raiseAt (s : State) {src code : Nat} (h : isCond src code = false) (native : Nat) (sh : Shelf) (v : BitVec 28) (t k : Nat) :
    (s.raiseAt src code native sh v t).coll k = s.coll k := by
  unfold State.raiseAt
  rw [h]
  extract_lets s1 enabled s2
  have h1 : s1.coll k = s.coll k := by
    dsimp only [s1]
    split
    · exact s.coll_latchAt ..
    · rfl
  split
  · exact (State.coll_send ..).trans h1
  · exact h1

/-! ### First-fault latches (R37, R300) -/

/-- Every collector has a source that exists. -/
theorem srcExists_colSrc (col : Collector) : srcExists (colSrc col) = true := by
  cases col with
  | slot k =>
    have hl : srcLevel (k.val * 32 + 0) = 0 := by unfold srcLevel; omega
    have hi : srcInst (k.val * 32 + 0) < 136 := by unfold srcInst; omega
    have hx : srcIdx (k.val * 32 + 0) < 12 := by unfold srcIdx; omega
    simp only [colSrc, chSrc, srcExists, hl, hi, hx, decide_true, Bool.and_self]
  | clu c =>
    have hl : srcLevel (0x2000 + c.val * 32 + 0) = 1 := by unfold srcLevel; omega
    have hi : srcInst (0x2000 + c.val * 32 + 0) < 8 := by unfold srcInst; omega
    have hx : srcIdx (0x2000 + c.val * 32 + 0) < 12 := by unfold srcIdx; omega
    simp only [colSrc, cluSrc, srcExists, hl, hi, hx, decide_true, Bool.and_self]
  | dev => rfl

/-- The choice of a latch after its decision: final once its time has come. -/
def First.decided (f : First) (now : Nat) : First :=
  match f.openUntil with
  | some e => if e ≤ now then { f with openUntil := none } else f
  | none => f

theorem First.decided_open {f : First} {e : Nat} (h : f.openUntil = some e) (now : Nat) :
    f.decided now = if e ≤ now then { f with openUntil := none } else f := by
  simp only [First.decided, h]

theorem State.coll_decideFirst (s : State) (col : Collector) :
    (s.decideFirst col).coll (colSrc col) = { s.coll (colSrc col) with first := (s.coll (colSrc col)).first.map (·.decided s.t) } :=
  State.coll_modColl_self ..

theorem State.coll_emptyFirst (s : State) (col : Collector) :
    (s.emptyFirst col).coll (colSrc col) = { s.coll (colSrc col) with first := none } := State.coll_modColl_self ..

/-! ### Acknowledging a source (R304) -/

/-- An ID without a source names no register. -/
theorem State.srcWrite_absent {s : State} {src : Nat} (h : srcExists src = false) (i : Instr) (act : State → State) : s.srcWrite src i act = s :=
  if_neg (by simp [h])

/-- A CLR that is refused says why, and is reported. -/
def State.clrRefuse (s : State) (src reason : Nat) : State :=
  (s.modColl src fun c => { c with clrRefused := true, reason := reason }).raiseDev 6 1 0 0

/-- A cause persists behind a C, U or F that `ack` names. -/
def SrcSt.Persists (st : SrcSt) (ack : BitVec 4) : Prop := st.causes ≠ [] ∧ (ack.getLsbD 1 || ack.getLsbD 2 || ack.getLsbD 3) = true

theorem State.clearSrc_stale {s : State} {src : Nat} {seq : BitVec 16} (h : (s.src src).seq ≠ seq) (ack : BitVec 4) :
    s.clearSrc src ack seq = s.clrRefuse src 1 := if_pos h

theorem State.clearSrc_persists {s : State} {src : Nat} {seq : BitVec 16} {ack : BitVec 4} (h : (s.src src).seq = seq)
    (hp : (s.src src).Persists ack) : s.clearSrc src ack seq = s.clrRefuse src 2 :=
  (if_neg (not_not_intro h)).trans (if_pos (by simpa [SrcSt.Persists] using hp))

/-- The status of a source with the named PEND bits cleared. -/
def SrcSt.cleared (st : SrcSt) (ack : BitVec 4) : SrcSt :=
  { st with pend := st.pend &&& ~~~ ack, base := st.base &&& ~~~ ack, mf := st.mf && !ack.getLsbD 3, win := [] }

theorem State.clearSrc_current {s : State} {src : Nat} {seq : BitVec 16} {ack : BitVec 4} (h : (s.src src).seq = seq)
    (hp : ¬ (s.src src).Persists ack) :
    s.clearSrc src ack seq = (s.modSrc src (·.cleared ack)).modColl src fun c => { c with clrRefused := false } :=
  (if_neg (not_not_intro h)).trans (if_neg (by simpa [SrcSt.Persists] using hp))

/-- A refused CLR leaves every status. -/
theorem State.clrRefuse_spec (s : State) (src reason : Nat) : let t := s.clrRefuse src reason
    t.src src = s.src src ∧ (t.coll src).clrRefused = true ∧ (t.coll src).reason = reason := by
  have hc (k : Nat) : (s.clrRefuse src reason).coll k = _ := State.coll_raiseAt _ (by decide) ..
  refine ⟨(State.src_of_srcs (fun k => congrArg Coll.srcs (hc k)) src).trans (s.src_modColl src src fun _ => rfl), ?_, ?_⟩
  · rw [hc, State.coll_modColl_self]
  · rw [hc, State.coll_modColl_self]

/-- An accepted CLR clears what it names and changes nothing but the collectors. -/
theorem State.clearSrc_accepted {s : State} {src : Nat} {seq : BitVec 16} {ack : BitVec 4} (h : (s.src src).seq = seq)
    (hp : ¬ (s.src src).Persists ack) : let t := s.clearSrc src ack seq
    (t.coll src).clrRefused = false ∧ t.src src = (s.src src).cleared ack ∧ (t.coll src).first = (s.coll src).first ∧ SameButColls s t := by
  rw [State.clearSrc_current h hp]
  refine ⟨?_, ?_, ?_, (s.modSrc_sameButColls ..).trans (State.modColl_sameButColls ..)⟩
  · rw [State.coll_modColl_self]
  · refine (State.src_modColl _ _ _ ?_).trans (s.src_modSrc_self ..)
    exact fun _ => rfl
  · rw [State.coll_modColl_self, State.coll_modSrc_self]

/-! ### REACT and COMPAT (R298, R301) -/

@[simp] theorem State.reg_cfgAccept (s : State) (src x : Nat) : (s.cfgAccept src).reg x = s.reg x := State.reg_at_of_calm (s.calm_modColl ..) x
@[simp] theorem State.coll_cfgAccept_cfgRefused (s : State) (src : Nat) : ((s.cfgAccept src).coll src).cfgRefused = false := by
  rw [State.cfgAccept, State.coll_modColl_self]
theorem State.src_cfgAccept (s : State) (src k : Nat) : (s.cfgAccept src).src k = s.src k := s.src_modColl _ _ fun _ => rfl

/-- A refused REACT or COMPAT write stores nothing and says CFG (R304). -/
theorem State.cfgRefuse_spec (s : State) (src : Nat) : let t := s.cfgRefuse src
    t.regs = s.regs ∧ (t.coll src).cfgRefused = true ∧ (t.coll src).reason = 3 ∧ t.src src = s.src src := by
  refine ⟨State.regs_of_calm (s.calm_modColl ..), ?_, ?_, s.src_modColl _ _ fun _ => rfl⟩
  · rw [State.cfgRefuse, State.coll_modColl_self]
  · rw [State.cfgRefuse, State.coll_modColl_self]

/-- A register of fields below bit 64 reads each back. -/
theorem State.bits_reg_setReg_pack (s : State) (x : Nat) {fs : List (Nat × Nat × Nat)} (h : fs.Pairwise fun f g => f.1 + f.2.1 ≤ g.1)
    {l w v : Nat} (hm : (l, w, v) ∈ fs) (hw : l + w ≤ 64) : bits ((s.setReg x (pack fs)).reg x) l w = v % 2 ^ w := by
  rw [State.reg_setReg, if_pos rfl, bits_mod_two_pow hw, bits_pack h hm]

/-- REACT asks for a block reset that its source has none of (R301). -/
def State.BadReact (s : State) (src v : Nat) : Prop :=
  ((s.blockTarget src).isNone && (bit v 2 || bit v 10 || bit v 18 || bit v 26)) = true

theorem State.writeReact_bad {s : State} {src v : Nat} (h : s.BadReact src v) : s.writeReact src v = s.cfgRefuse src :=
  if_pos (by simpa [State.BadReact, or_assoc] using h)

/-- REACT as it is stored. -/
def reactWord (v : Nat) : List (Nat × Nat × Nat) := [(0, 5, bits v 0 5), (8, 5, bits v 8 5), (16, 5, bits v 16 5), (24, 5, bits v 24 5)]

theorem State.writeReact_good {s : State} {src v : Nat} (h : ¬ s.BadReact src v) :
    s.writeReact src v = (s.setReg (reactKey src) (pack (reactWord v))).cfgAccept src :=
  if_neg (by simpa [State.BadReact, and_assoc] using h)

theorem mem_reactWord (v : Nat) {cls : Nat} (h : cls < 4) : (8 * cls, 5, bits v (8 * cls) 5) ∈ reactWord v := by
  interval_cases cls <;> simp [reactWord]

/-- A REACT write that is accepted stores its four fields and no other register. -/
theorem State.writeReact_accepted {s : State} {src v : Nat} (h : ¬ s.BadReact src v) : let t := s.writeReact src v
    (t.coll src).cfgRefused = false ∧ (∀ cls < 4, t.reactField src cls = bits v (8 * cls) 5) ∧
      (∀ x, x ≠ reactKey src → t.reg x = s.reg x) ∧ t.src src = s.src src := by
  rw [State.writeReact_good h]
  refine ⟨State.coll_cfgAccept_cfgRefused .., fun cls hc => ?_, fun x hx => ?_, (State.src_cfgAccept ..).trans (State.src_setReg ..)⟩
  · rw [State.reactField, State.reg_cfgAccept, s.bits_reg_setReg_pack _ (by simp [reactWord]) (mem_reactWord v hc) (by omega), bits_mod_width]
  · rw [State.reg_cfgAccept, State.reg_setReg, if_neg (Ne.symm hx)]

theorem State.writeCompat_bad {s : State} {src v : Nat} (hm : bit v 0 = true) (hw : bits v 8 24 = 0) : s.writeCompat src v = s.cfgRefuse src :=
  if_pos (by simp [hm, hw])

/-- COMPAT as it is stored. -/
def compatWord (v : Nat) : List (Nat × Nat × Nat) := [(0, 1, bits v 0 1), (4, 4, bits v 4 4), (8, 24, bits v 8 24)]

theorem State.writeCompat_good {s : State} {src v : Nat} (h : bit v 0 = false ∨ bits v 8 24 ≠ 0) :
    s.writeCompat src v = ((s.setReg (compatKey src) (pack (compatWord v))).modSrc src fun x => { x with win := [] }).cfgAccept src :=
  if_neg (by rcases h with h | h <;> simp [h])

/-- A COMPAT write that is accepted stores its three fields and no other register, and empties the counting window. -/
theorem State.writeCompat_accepted {s : State} {src v : Nat} (h : bit v 0 = false ∨ bits v 8 24 ≠ 0) : let t := s.writeCompat src v
    (t.coll src).cfgRefused = false ∧ (∀ l w, (l, w, bits v l w) ∈ compatWord v → bits (t.reg (compatKey src)) l w = bits v l w) ∧
      (∀ x, x ≠ compatKey src → t.reg x = s.reg x) ∧ t.src src = { s.src src with win := [] } := by
  rw [State.writeCompat_good h]
  set s1 := s.setReg (compatKey src) (pack (compatWord v))
  have hr (x : Nat) : ((s1.modSrc src fun x => { x with win := [] }).cfgAccept src).reg x = s1.reg x := by
    rw [State.reg_cfgAccept, State.reg_at_of_calm (s1.calm_modSrc ..)]
  refine ⟨State.coll_cfgAccept_cfgRefused .., fun l w hm => ?_, fun x hx => ?_, ?_⟩
  · have hw : l + w ≤ 64 := by
      simp only [compatWord, List.mem_cons, Prod.mk.injEq, List.not_mem_nil, or_false] at hm
      omega
    rw [hr, s.bits_reg_setReg_pack _ (by simp [compatWord]) hm hw, bits_mod_width]
  · rw [hr, State.reg_setReg, if_neg (Ne.symm hx)]
  · rw [State.src_cfgAccept, State.src_modSrc_self, State.src_setReg]

/-- Settles O50: a latch changes by its own decision or its clearing alone; CLR, REACT and COMPAT are refused or take effect by their own tests. -/
theorem latchesAndAcknowledging : Obligations.LatchesAndAcknowledging := by
  unfold Obligations.LatchesAndAcknowledging
  constructor
  · intro s dt col a c
    refine ⟨⟨_, rfl, ?_, State.modColl_sameButColls .., fun f e hf he => ?_, fun hf => ?_⟩,
      fun h => ⟨a.emptyFirst col, ?_, ?_, ?_, State.modColl_sameButColls ..⟩⟩
    · exact (congrArg Coll.srcs (a.coll_decideFirst col) :)
    · refine (congrArg Coll.first (a.coll_decideFirst col)).trans ?_
      rw [hf, Option.map_some, First.decided_open he]
    · exact (congrArg Coll.first (a.coll_decideFirst col)).trans (congrArg (Option.map _) hf)
    · exact congrArg Host.Outcome.next (State.srcWrite_takes (srcExists_colSrc col) h ..)
    · exact (congrArg Coll.first (a.coll_emptyFirst col) :)
    · exact (congrArg Coll.srcs (a.coll_emptyFirst col) :)
  · intro s dt src a k
    refine ⟨fun he ack seq val => ⟨?_, ?_, ?_⟩, fun he ht => ?_⟩
    · exact congrArg Host.Outcome.next (State.srcWrite_absent he ..)
    · exact congrArg Host.Outcome.next (State.srcWrite_absent he ..)
    · exact congrArg Host.Outcome.next (State.srcWrite_absent he ..)
    have lands (i : Instr) (act : State → State) : Host.Outcome.next (φ := Fault) (ρ := Refusal) (a.srcWrite k i act) = .next (act a) :=
      congrArg _ (State.srcWrite_takes he ht i act)
    refine ⟨fun ack seq => ?_, fun val => ?_, fun val => ?_⟩
    · intro st persists
      refine ⟨fun hq => ?_, fun hq hp => ?_, fun hq hp => ?_⟩
      · exact ⟨_, lands .., State.clearSrc_stale hq ack ▸ a.clrRefuse_spec k 1⟩
      · exact ⟨_, lands .., State.clearSrc_persists hq hp ▸ a.clrRefuse_spec k 2⟩
      · exact ⟨_, lands .., State.clearSrc_accepted hq hp⟩
    · intro v bad
      refine ⟨fun hb => ?_, fun hb => ?_⟩
      · obtain ⟨hr, hc, hn, -⟩ := a.cfgRefuse_spec k
        exact ⟨_, (lands ..).trans (congrArg _ (State.writeReact_bad hb)), hr, hc, hn⟩
      · exact ⟨_, lands .., State.writeReact_accepted (ne_true_of_eq_false hb)⟩
    · intro v
      refine ⟨fun hm hw => ?_, fun h => ?_⟩
      · exact ⟨_, (lands ..).trans (congrArg _ (State.writeCompat_bad hm hw)), a.cfgRefuse_spec k⟩
      · obtain ⟨hc, hf, hx, hs⟩ := State.writeCompat_accepted (s := a) (src := k) h
        refine ⟨_, lands .., hc, ?_, hf 4 4 (by simp [compatWord]), hf 8 24 (by simp [compatWord]), hx, hs⟩
        rw [bit, hf 0 1 (by simp [compatWord]), ← bit]

/-! ### Records (R218) -/

theorem bits_ofNat_pack {n : Nat} {fs : List (Nat × Nat × Nat)} (h : fs.Pairwise fun f g => f.1 + f.2.1 ≤ g.1) {l w v : Nat}
    (hm : (l, w, v) ∈ fs) (hw : l + w ≤ n) : bits (BitVec.ofNat n (pack fs)).toNat l w = v % 2 ^ w := by
  rw [BitVec.toNat_ofNat, bits_mod_two_pow hw, bits_pack h hm]

theorem recType_mkRec (ty sub : Nat) (pin : Option Nat) (src t p : Nat) : recType (mkRec ty sub pin src t p) = ty % 2 ^ 4 :=
  bits_ofNat_pack (by simp) (by simp) (by omega)

theorem recTime_mkRec (ty sub : Nat) (pin : Option Nat) (src t p : Nat) : recTime (mkRec ty sub pin src t p) = t % 2 ^ 80 := by
  have he : bits (mkRec ty sub pin src t p).toNat 32 16 = epochOf t % 2 ^ 16 := bits_ofNat_pack (by simp) (by simp) (by omega)
  have hg : bits (mkRec ty sub pin src t p).toNat 64 64 = gtOf t % 2 ^ 64 := bits_ofNat_pack (by simp) (by simp) (by omega)
  rw [recTime, he, hg, epochOf, gtOf]
  omega

/-! ### One window alone -/

theorem OnlyWin.trans {s t u : State} {w : Nat} (h1 : OnlyWin s t w) (h2 : OnlyWin t u w) : OnlyWin s u w := by
  obtain ⟨e1, f1⟩ := h1
  obtain ⟨e2, f2⟩ := h2
  exact ⟨e2.trans (congrArg (fun x : State => { x with wins := u.wins }) e1), fun v hv => (f2 v hv).trans (f1 v hv)⟩

theorem State.modWin_onlyWin (s : State) (w : Nat) (f : Win → Win) : OnlyWin s (s.modWin w f) w :=
  ⟨rfl, fun _ hv => (s.win_modWin ..).trans (if_neg (Ne.symm hv))⟩

theorem State.modCp_onlyWin (s : State) (w : Nat) (f : CapSt → CapSt) : OnlyWin s (s.modCp w f) w := s.modWin_onlyWin ..

@[simp] theorem State.cp_modCp_self (s : State) (w : Nat) (f : CapSt → CapSt) : (s.modCp w f).cp w = f (s.cp w) := by
  rw [State.modCp_eq, State.cp_modWin, if_pos rfl]
  rfl

@[simp] theorem State.mn_modCp (s : State) (w v : Nat) (f : CapSt → CapSt) : (s.modCp w f).mn v = s.mn v := by
  rw [State.modCp_eq, State.mn_modWin]
  split
  · next h => rw [← h]; rfl
  · rfl

@[simp] theorem State.sq_modCp (s : State) (w v : Nat) (f : CapSt → CapSt) : (s.modCp w f).sq v = s.sq v := by
  rw [State.modCp_eq, State.sq_modWin]
  split
  · next h => rw [← h]; rfl
  · rfl

@[simp] theorem State.cp_setReg (s : State) (x v w : Nat) : (s.setReg x v).cp w = s.cp w := rfl
@[simp] theorem State.cp_setStack (s : State) (m : List Host.Cell) (w : Nat) : (s.setStack m).cp w = s.cp w := rfl
@[simp] theorem State.mn_setStack (s : State) (m : List Host.Cell) (w : Nat) : (s.setStack m).mn w = s.mn w := rfl
@[simp] theorem State.sq_setStack (s : State) (m : List Host.Cell) (w : Nat) : (s.setStack m).sq w = s.sq w := rfl
@[simp] theorem State.win_storeEntry (s : State) (w i : Nat) (e : BitVec 128) (v : Nat) : (s.storeEntry w i e).win v = s.win v := rfl
@[simp] theorem State.cp_storeEntry (s : State) (w i : Nat) (e : BitVec 128) (v : Nat) : (s.storeEntry w i e).cp v = s.cp v := rfl
@[simp] theorem State.mn_storeEntry (s : State) (w i : Nat) (e : BitVec 128) (v : Nat) : (s.storeEntry w i e).mn v = s.mn v := rfl
@[simp] theorem State.sq_storeEntry (s : State) (w i : Nat) (e : BitVec 128) (v : Nat) : (s.storeEntry w i e).sq v = s.sq v := rfl

/-! ### The GAP records of the pin record queue (R26, R211) -/

/-- The GAP record of the records that the queue has dropped since `t`. -/
def State.dropGap (s : State) (w t : Nat) : Rec := s.winRec w 5 3 0x1B t (s.cp w).qDrops.payload

/-- The GAP record of `n` verdicts lost, the first at `t` in vector `v`. -/
def State.verdictLossGap (s : State) (w n t v : Nat) : Rec := s.winRec w 5 2 0x1A t (pack [(0, 32, min (2 ^ 32 - 1) n), (32, 48, v)])

theorem State.queueGap_none {s : State} {w : Nat} (h : (s.cp w).qDrops.first = none) : s.queueGap w = s := by
  simp only [State.queueGap, h]

theorem State.queueGap_room {s : State} {w t : Nat} (h : (s.cp w).qDrops.first = some t) (hr : (s.cp w).recQ.length < 255) :
    s.queueGap w = s.modCp w fun c => { c with recQ := c.recQ ++ [s.dropGap w t], qDrops := {} } := by
  simp only [State.queueGap, h, hr, ↓reduceIte, State.dropGap]

theorem State.queueRec_room {s : State} {w : Nat} (h : (s.cp w).qDrops.first = none) (hr : (s.cp w).recQ.length < 255) (r : Rec) :
    s.queueRec w r = s.modCp w fun c => { c with recQ := c.recQ ++ [r] } := by
  simp only [State.queueRec, State.queueGap_none h, hr, ↓reduceIte]

/-- Verdicts lost become one GAP record where the queue has room and owes no GAP of its own. -/
theorem State.verdictGap_room {s : State} {w n t v : Nat} (hl : (s.cp w).lost = some (n, t, v)) (h : (s.cp w).qDrops.first = none)
    (hr : (s.cp w).recQ.length < 255) : let u := s.verdictGap w
    u.cp w = { s.cp w with recQ := (s.cp w).recQ ++ [s.verdictLossGap w n t v], lost := none, xing := min (s.cp w).xing 511 } ∧ OnlyWin s u w := by
  have hu : s.verdictGap w = ((s.modCp w fun c => { c with recQ := c.recQ ++ [s.verdictLossGap w n t v] }).modCp w fun c => { c with lost := none }).modCp w
      fun c => { c with xing := min c.xing 511 } := by
    simp only [State.verdictGap, hl, Option.isNone_some, Bool.false_eq_true, ↓reduceIte, State.lossRecord, State.queueRec_room h hr, State.verdictLossGap]
  rw [hu]
  refine ⟨?_, ((s.modCp_onlyWin ..).trans (State.modCp_onlyWin ..)).trans (State.modCp_onlyWin ..)⟩
  rw [State.cp_modCp_self, State.cp_modCp_self, State.cp_modCp_self]

/-! ### The capture's end (R204, R207 to R209) -/

/-- With no partial word and no losses to write, the capture's end writes nothing. -/
theorem State.finishCapture_nothing {s : State} {w : Nat} (hb : (s.cp w).bits % 64 = 0) (hf : (s.cp w).logFullCnt = none)
    (hl : (s.cp w).logLoss = 0) : s.finishCapture w = s := by
  simp [State.finishCapture, hb, hf, hl]

/-- The state with the last partial word of the bitmap written, where there is one. -/
def State.partialWord (s : State) (w : Nat) : State :=
  if (s.cp w).bits % 64 ≠ 0 && !(s.cp w).bitmapFull then
    (s.setStack (Memory.store s.stackMem (failArea w + 8 * ((s.cp w).bits / 64)) (bytesOf (s.cp w).word.toNat 8))).modCp w fun c =>
      { c with word := 0, words := c.words + 1, bits := (c.bits / 64 + 1) * 64 }
  else s

/-- With no losses to enter, the capture's end writes the partial word and the LOST entry of a full log region at most. -/
theorem State.finishCapture_cases {s : State} {w : Nat} (hl : (s.cp w).logLoss = 0) :
    s.finishCapture w = s ∨ s.finishCapture w = s.partialWord w ∨ ∃ i e, s.finishCapture w = (s.partialWord w).storeEntry w i e := by
  by_cases h : ((s.sq w).loaded || !(s.cp w).strobes.isEmpty || (s.cp w).flushed) = true
  · exact .inl (if_pos h)
  have hs : s.finishCapture w = _ := if_neg h
  rw [hs]
  cases (s.cp w).logFullCnt with
  | none => exact .inr (.inl (if_pos hl))
  | some n =>
    by_cases hc : 0 < s.logCap w
    · exact .inr (.inr ⟨_, _, if_pos hc⟩)
    · exact .inr (.inl (if_neg hc))

/-- Between the two states the window's sequencer, counters, strobes and log buffer stand. -/
structure CaptureStands (s t : State) (w : Nat) : Prop where
  sq : t.sq w = s.sq w
  mn : t.mn w = s.mn w
  strobes : (t.cp w).strobes = (s.cp w).strobes
  logBuf : (t.cp w).logBuf = (s.cp w).logBuf

theorem State.partialWord_stands (s : State) (w : Nat) : CaptureStands s (s.partialWord w) w := by
  unfold State.partialWord
  split
  · constructor <;> simp
  · exact ⟨rfl, rfl, rfl, rfl⟩

theorem State.finishCapture_stands {s : State} {w : Nat} (hl : (s.cp w).logLoss = 0) : CaptureStands s (s.finishCapture w) w := by
  obtain ⟨hq, hm, hs, hb⟩ := s.partialWord_stands w
  obtain h | h | ⟨i, e, h⟩ := State.finishCapture_cases hl
  · rw [h]
    exact ⟨rfl, rfl, rfl, rfl⟩
  · rw [h]
    exact ⟨hq, hm, hs, hb⟩
  · rw [h]
    exact ⟨(State.sq_storeEntry ..).trans hq, (State.mn_storeEntry ..).trans hm, (congrArg CapSt.strobes (State.cp_storeEntry ..)).trans hs,
      (congrArg CapSt.logBuf (State.cp_storeEntry ..)).trans hb⟩

/-- Nothing of the burst waits in the window. -/
def State.Drained (s : State) (w : Nat) : Prop := (s.sq w).loaded = false ∧ (s.cp w).strobes = [] ∧ (s.cp w).logBuf = []

theorem State.finishCapture_drained {s : State} {w : Nat} (h : s.Drained w) (hl : (s.cp w).logLoss = 0) : (s.finishCapture w).Drained w := by
  obtain ⟨hq, hs, hb⟩ := h
  have hf := State.finishCapture_stands hl
  exact ⟨hf.sq ▸ hq, hf.strobes.trans hs, hf.logBuf.trans hb⟩

/-- A capture with nothing left is FLUSHED while its stack is ACTIVE. -/
theorem State.flushCapture_drained {s : State} {w : Nat} (h : (s.finishCapture w).Drained w) (ho : s.stackOn (w / 64 % 2) = true) :
    s.flushCapture w = (s.finishCapture w).modCp w fun c => { c with flushed := true } := by
  obtain ⟨hq, hs, hb⟩ := h
  simp [State.flushCapture, hq, hs, hb, ho]

theorem State.flushCapture_off {s : State} {w : Nat} (ho : s.stackOn (w / 64 % 2) = false) : s.flushCapture w = s.finishCapture w := by
  simp [State.flushCapture, ho]

/-! ### CAP.AREA (R203, R265) -/

/-- The areas that a CAP.AREA write asks for do not fit, or the window is in use. -/
def State.BadArea (s : State) (w v : Nat) : Prop := 64 < bits v 0 7 + bits v 8 7 ∨ s.armedRun w = true ∨ (s.cw w).open_ = true

theorem State.badArea_iff {s : State} {w v : Nat} :
    (decide (64 < bits v 0 7 + bits v 8 7) || s.armedRun w || (s.cw w).open_) = true ↔ s.BadArea w v := by
  simp only [State.BadArea, Bool.or_eq_true, decide_eq_true_eq, or_assoc]

theorem State.writeCapArea_good {s : State} {w v : Nat} (h : ¬ s.BadArea w v) : s.writeCapArea w v =
    (s.modCp w fun c => { c with areaRefused := false }).setReg (pageAddr (winPage w 7) 0x044) (bits v 0 7 + bits v 8 7 * 256) := by
  have hb := eq_false_of_ne_true (mt State.badArea_iff.mp h)
  simp only [State.writeCapArea, hb, Bool.false_eq_true, ↓reduceIte]

theorem State.writeCapArea_bad {s : State} {w v : Nat} (h : s.BadArea w v) :
    s.writeCapArea w v = (s.modCp w fun c => { c with areaRefused := true }).raiseCh w 6 7 0 := by
  have hb := State.badArea_iff.mpr h
  simp only [State.writeCapArea, hb, ↓reduceIte]

/-- An accepted CAP.AREA write stores the two sizes and changes no other register and no window but its own. -/
theorem State.writeCapArea_accepted {s : State} {w v : Nat} (h : ¬ s.BadArea w v) : let t := s.writeCapArea w v
    t.wreg w 7 0x044 = bits v 0 7 + bits v 8 7 * 256 ∧ t.cp w = { s.cp w with areaRefused := false } ∧
      t = { s with regs := t.regs, wins := t.wins } := by
  rw [State.writeCapArea_good h]
  have hlt : bits v 0 7 + bits v 8 7 * 256 < 2 ^ 64 := by
    unfold bits
    omega
  refine ⟨?_, ?_, rfl⟩
  · rw [State.wreg, State.reg_setReg, if_pos rfl, Nat.mod_eq_of_lt hlt]
  · rw [State.cp_setReg, State.cp_modCp_self]

/-- A refused CAP.AREA write says so and traces a detection. -/
theorem State.writeCapArea_refused {s : State} {w v : Nat} (h : s.BadArea w v) : let t := s.writeCapArea w v
    t.cp w = { s.cp w with areaRefused := true } ∧ CalmWin s t w := by
  rw [State.writeCapArea_bad h]
  set s1 := s.modCp w fun c => { c with areaRefused := true }
  have hc : (s1.raiseCh w 6 7 0).calm = s1.calm := s1.calm_raiseCh ..
  have hw (v : Nat) : (s1.raiseCh w 6 7 0).win v = s1.win v := State.win_at_of_calm hc v
  refine ⟨(congrArg Win.cp (hw w)).trans (s.cp_modCp_self ..), ?_, fun v hv => (hw v).trans ((s.modCp_onlyWin ..).2 v hv)⟩
  rw [hc, State.wins_of_calm hc]
  rfl

/-! ### The log buffer (R207, R208, R388) -/

theorem length_bytesOf (n v : Nat) : (bytesOf v n).length = n := by
  induction n generalizing v with
  | zero => rfl
  | succ n ih => rw [bytesOf, List.length_cons, ih]

theorem State.logFill_room {s : State} {w : Nat} (h : (s.cp w).logEnt + 1 < s.logCap w) : s.logFill w = s := by
  simp [State.logFill, h]

theorem State.drainLog_off {s : State} {w : Nat} (h : s.stackOn (w / 64 % 2) = false) : s.drainLog w = s := by
  simp [State.drainLog, h]

/-- The oldest entry goes to the next place of a log region that has two more. -/
theorem State.drainLog_room {s : State} {w : Nat} {e : BitVec 128} {rest : List (BitVec 128)} (ho : s.stackOn (w / 64 % 2) = true)
    (hb : (s.cp w).logBuf = e :: rest) (hf : (s.cp w).logFull = false) (hc : (s.cp w).logEnt + 2 < s.logCap w) :
    s.drainLog w = ((s.modCp w fun c => { c with logBuf := rest }).storeEntry w (s.cp w).logEnt e).modCp w
      fun c => { c with logEnt := c.logEnt + 1 } := by
  unfold State.drainLog
  rw [if_pos ho, hb]
  dsimp only
  set s1 := s.modCp w fun c => { c with logBuf := rest } with hs1
  have h1 : s1.cp w = { s.cp w with logBuf := rest } := s.cp_modCp_self ..
  have hc1 : s1.logCap w = s.logCap w := rfl
  have f1 : s1.logFill w = s1 := State.logFill_room (by rw [h1, hc1]; dsimp only; omega)
  rw [f1, h1, hf, if_neg Bool.false_ne_true]
  refine State.logFill_room ?_
  rw [State.cp_modCp_self, State.cp_storeEntry, h1]
  exact hc

/-- That entry reads back there, every other byte of the stacks reads as before, and nothing else changes but the window's counts. -/
theorem State.drainLog_spec {s : State} {w : Nat} {e : BitVec 128} {rest : List (BitVec 128)} (ho : s.stackOn (w / 64 % 2) = true)
    (hb : (s.cp w).logBuf = e :: rest) (hf : (s.cp w).logFull = false) (hc : (s.cp w).logEnt + 2 < s.logCap w) :
    let t := s.drainLog w
    let at_ := s.logBase w + 16 * (s.cp w).logEnt
    t.cp w = { s.cp w with logBuf := rest, logEnt := (s.cp w).logEnt + 1 } ∧ Memory.load t.stackMem at_ 16 = bytesOf e.toNat 16 ∧
      (∀ x, (x < at_ ∨ at_ + 16 ≤ x) → Memory.read t.stackMem x = Memory.read s.stackMem x) ∧
      t = { s with wins := t.wins, stackMem := t.stackMem } ∧ ∀ v, v ≠ w → t.win v = s.win v := by
  rw [State.drainLog_room ho hb hf hc]
  intro t at_
  have hm : t.stackMem = Memory.store s.stackMem at_ (bytesOf e.toNat 16) := rfl
  have hl : (bytesOf e.toNat 16).length = 16 := length_bytesOf ..
  refine ⟨?_, ?_, fun x hx => ?_, rfl, fun v hv => ?_⟩
  · dsimp only [t]
    rw [State.cp_modCp_self, State.cp_storeEntry, State.cp_modCp_self]
  · have h := Memory.load_store s.stackMem at_ (bytesOf e.toNat 16)
    rwa [hl, ← hm] at h
  · rw [hm]
    rcases hx with hx | hx
    · exact Memory.read_store_below _ _ _ _ hx
    · exact Memory.read_store_above _ _ _ _ (hl ▸ hx)
  · exact ((State.modCp_onlyWin ..).2 v hv).trans ((State.win_storeEntry ..).trans ((s.modCp_onlyWin ..).2 v hv))

/-- Settles O27: GAP records, the capture's flush, CAP.AREA and the log buffer's drain each act by their own conditions on one window. -/
theorem captureQueuesAndLogs : Obligations.CaptureQueuesAndLogs := by
  unfold Obligations.CaptureQueuesAndLogs
  constructor
  · intro s dt w a
    refine ⟨fun n t0 v hl hd hr => ?_, fun t0 hd hr => ?_, fun hq hs hb h64 hf hl => ⟨fun ho => ?_, fun ho => ?_⟩, fun hq hs hb hl ho => ?_,
      fun val ht => ⟨fun hfit har hop => ?_, fun hbad => ?_⟩⟩
    · obtain ⟨hc, ho⟩ := State.verdictGap_room hl hd hr
      exact ⟨_, a.verdictLossGap w n t0 v, rfl, congrArg CapSt.recQ hc, congrArg CapSt.lost hc, recType_mkRec .., recTime_mkRec .., ho⟩
    · have hc := a.cp_modCp_self w fun c => { c with recQ := c.recQ ++ [a.dropGap w t0], qDrops := {} }
      exact ⟨_, a.dropGap w t0, congrArg Host.Outcome.next (State.queueGap_room hd hr), congrArg CapSt.recQ hc, congrArg CapSt.qDrops hc,
        recType_mkRec .., recTime_mkRec .., a.modCp_onlyWin ..⟩
    · have hn : a.finishCapture w = a := State.finishCapture_nothing h64 hf hl
      have hd : (a.finishCapture w).Drained w := hn.symm ▸ ⟨hq, hs, hb⟩
      have he := State.flushCapture_drained hd ho
      rw [hn] at he
      exact ⟨_, congrArg Host.Outcome.next he, a.cp_modCp_self .., a.modCp_onlyWin ..⟩
    · exact congrArg Host.Outcome.next ((State.flushCapture_off ho).trans (State.finishCapture_nothing h64 hf hl))
    · have hf := State.finishCapture_stands hl
      refine ⟨_, congrArg Host.Outcome.next (State.flushCapture_drained (State.finishCapture_drained ⟨hq, hs, hb⟩ hl) ho), ?_,
        (State.mn_modCp ..).trans hf.mn, (State.sq_modCp ..).trans hf.sq⟩
      rw [State.cp_modCp_self]
    · have hg : ¬ a.BadArea w val.toNat := by simp [State.BadArea, Nat.not_lt.mpr hfit, har, hop]
      exact ⟨_, congrArg Host.Outcome.next (State.hostWrite_takes ht ..), State.writeCapArea_accepted hg⟩
    · exact ⟨_, congrArg Host.Outcome.next (State.hostWrite_takes ht ..), State.writeCapArea_refused hbad⟩
  · intro s dt w e rest a hb hf hc
    exact ⟨fun ho => congrArg Host.Outcome.next (State.drainLog_off ho), fun ho => ⟨_, rfl, State.drainLog_spec ho hb hf hc⟩⟩

end Sys2Proof.Machine

namespace Sys2Proof.Machine

/-! ### READY_DRIVE, AFE power and headroom (O10) -/

theorem State.modClu_onlyClu (s : State) (c : Nat) (f : Clu → Clu) : OnlyClu s (s.modClu c f) c :=
  ⟨rfl, fun d hd => by rw [State.clu_modClu, if_neg (Ne.symm hd)]⟩

theorem State.md_setStatic (s : State) (w : Nat) (d : Drv) : (s.setStatic w d).md w = { s.md w with static := d } := by
  simp [State.setStatic, State.modMd, State.md]

theorem State.slot_setStatic (s : State) (w : Nat) (d : Drv) : ((s.setStatic w d).slot (s.slotOf w)).drvEn = decide (d ≠ .dz) := by
  cases d <;> simp [State.setStatic, State.modMd]

theorem drvOf_ne_dz (n : Nat) : (drvOf n ≠ .dz) ↔ n < 2 := by
  unfold drvOf
  split <;> [skip; split] <;> simp <;> omega

/-- Outside READY and ARMED the write stores its value and drives nothing. -/
theorem State.writeReadyDrive_stored {s : State} {w : Nat} (h1 : s.mode w ≠ .ready) (h2 : s.mode w ≠ .armed) (v : Nat) :
    s.writeReadyDrive w v = s.setReg (pageAddr (winPage w 0) 0x04C) (v % 4) := by
  simp [State.writeReadyDrive, h1, h2]

/-- In READY or ARMED, out of a transition and with no parametric unit forcing, the static drive follows. -/
theorem State.writeReadyDrive_driven {s : State} {w : Nat} (h : s.mode w = .ready ∨ s.mode w = .armed) (ht : (s.md w).trans = none)
    (hp : forces (s.pm w).active = false) (v : Nat) :
    s.writeReadyDrive w v = (s.setReg (pageAddr (winPage w 0) 0x04C) (v % 4)).setStatic w (drvOf (v % 4)) := by
  simp [State.writeReadyDrive, h, ht, hp]

@[simp] theorem State.reg_setStatic (s : State) (w x : Nat) (d : Drv) : (s.setStatic w d).reg x = s.reg x := rfl

/-- Between `s` and `t` clusters and the traces of detections alone have changed, and of cluster `c` no more than its low-headroom event's arming. -/
def HeadroomKept (s t : State) (c : Nat) : Prop :=
  t.calm = { s.calm with clus := t.clus } ∧ t.clu c = { s.clu c with hrArmed := (t.clu c).hrArmed }

theorem HeadroomKept.of_calm {s t u : State} {c : Nat} (h : HeadroomKept s t c) (hu : u.calm = t.calm) : HeadroomKept s u c := by
  have hc : u.clus = t.clus := State.clus_of_calm hu
  have hk : u.clu c = t.clu c := State.clu_at_of_calm hu c
  exact ⟨by rw [hu, hc]; exact h.1, by rw [hk]; exact h.2⟩

theorem HeadroomKept.refl (s : State) (c : Nat) : HeadroomKept s s c := ⟨rfl, rfl⟩

theorem State.arm_headroomKept (s : State) (c : Nat) (b : Bool) : HeadroomKept s (s.modClu c fun x => { x with hrArmed := b }) c :=
  ⟨rfl, by simp⟩

theorem State.headroomLow_kept (s : State) (c : Nat) (v : Int) : HeadroomKept s (s.headroomLow c v) c := by
  unfold State.headroomLow
  extract_lets thr
  split
  · exact .refl s c
  · split
    · exact (s.arm_headroomKept c false).of_calm (State.calm_raiseClu ..)
    · split
      · exact s.arm_headroomKept c true
      · exact .refl s c

/-- One update of the monitor writes the cluster's headroom, demand, capacity and count, and touches nothing else beside the events. -/
theorem State.headroomPost_spec (s : State) (c capacity : Nat) : let t := s.headroomPost c capacity
    (t.clu c).hrValid = true ∧ (t.clu c).hrSeq = (s.clu c).hrSeq + 1 ∧ (t.clu c).capacity = capacity ∧
      (t.clu c).noDemand = (s.clusterPeriod c).isNone ∧
      (t.clu c).headroom = (match s.clusterPeriod c with | some p => headroomOf capacity p | none => 1000) ∧
      t.calm = { s.calm with clus := t.clus } := by
  unfold State.headroomPost
  extract_lets p v was s1 s2 t
  have h2 : HeadroomKept s1 s2 c := s1.headroomLow_kept c v
  have h : HeadroomKept s1 t c := by
    dsimp only [t]
    split
    · exact h2.of_calm (State.calm_raiseClu ..)
    · split
      · exact h2.of_calm (State.calm_endCond ..)
      · exact h2
  obtain ⟨hcalm, hclu⟩ := h
  have h1 : s1.clu c = _ := (State.clu_modClu ..).trans (if_pos rfl)
  rw [hclu, hcalm, h1]
  exact ⟨rfl, rfl, rfl, rfl, rfl, rfl⟩

/-- Settles O10: what each write stores, by the cases of the mode; one update of a cluster for the AFE commands; and the monitor's update, which
all but the events of the cluster's headroom follow. -/
theorem readyDriveAndClusterPower : Obligations.ReadyDriveAndClusterPower := by
  unfold Obligations.ReadyDriveAndClusterPower
  refine ⟨?_, ?_, ?_, ?_⟩
  · intro s dt w v a hp
    refine ⟨fun h1 h2 => ?_, fun h ht hf => ?_⟩
    · exact congrArg Host.Outcome.next ((State.hostWrite_takes hp ..).trans (State.writeReadyDrive_stored h1 h2 v.toNat))
    · have hd := State.writeReadyDrive_driven h ht hf v.toNat
      refine ⟨_, congrArg Host.Outcome.next ((State.hostWrite_takes hp ..).trans hd), ?_, ?_, ?_, ?_⟩
      · rw [State.wreg, State.reg_setStatic, State.reg_setReg, if_pos rfl]
        omega
      · rw [State.md_setStatic]
      · refine (State.slot_setStatic ..).trans ?_
        simp only [drvOf_ne_dz]
      · rw [State.mode, State.md_setStatic]
        rfl
  · intro s dt c a hp
    refine ⟨?_, fun h => ?_⟩
    · refine ⟨_, congrArg Host.Outcome.next (State.hostWrite_takes hp ..), ?_, ?_, ?_, State.modClu_onlyClu ..⟩ <;> simp [State.afeReqOn]
    · have hall : ((cluWins c).all fun w => a.mode w = .off && (a.md w).trans.isNone) = true := by
        simpa [List.all_eq_true] using h
      refine ⟨_, congrArg Host.Outcome.next ((State.hostWrite_takes hp ..).trans (if_pos hall)), ?_, ?_, State.modClu_onlyClu ..⟩ <;> simp
  · intro s dt c a
    refine ⟨_, rfl, ?_, State.modClu_onlyClu ..⟩
    simp only [State.afeUp, State.clu_modClu, ↓reduceIte]
    split <;> rfl
  · intro s dt c capacity a
    exact ⟨_, rfl, a.headroomPost_spec c capacity.toNat⟩

end Sys2Proof.Machine

namespace Sys2Proof.Machine

/-! ### The device reset and Function Level Reset (O46) -/

/-- What holds of a state, and each step of a pass keeps, holds after the pass. -/
theorem State.each_inv {α : Type} {P : State → Prop} {f : State → α → State} (hf : ∀ s a, P s → P (f s a)) (s : State) (l : List α) (h : P s) :
    P (s.each l f) := by
  unfold State.each
  induction l generalizing s with
  | nil => exact h
  | cons a r ih => exact ih (f s a) (hf s a h)

/-- The state without what the first steps of a device reset touch: the held writes and their count, the stored switch counts, the working store
and the free values drawn for it. -/
def State.unclosed (s : State) : State :=
  { s with held := [], dev := { s.dev with dropped := 0 }, keep := { s.keep with stored := [] }, wsMem := [], freeN := 0 }

theorem State.unclosed_undefineBanks (s : State) : s.undefineBanks.unclosed = s.unclosed :=
  State.each_proj State.unclosed s _ fun _ _ => rfl

theorem State.unclosed_dropHeld (s : State) : s.dropHeld.unclosed = s.unclosed := by
  refine State.each_proj State.unclosed s s.held fun s h => ?_
  split
  · split <;> rfl
  · rfl
  · rfl

theorem State.unclosed_storeAll (s : State) (c : Nat) : (s.storeAll c).unclosed = s.unclosed :=
  State.each_proj State.unclosed s _ fun _ _ => rfl

theorem State.wsMem_dropHeld (s : State) : s.dropHeld.wsMem = s.wsMem := by
  refine State.each_proj State.wsMem s s.held fun s h => ?_
  split
  · split <;> rfl
  · rfl
  · rfl

theorem State.held_storeAll (s : State) (c : Nat) : (s.storeAll c).held = s.held := State.each_proj State.held s _ fun _ _ => rfl
theorem State.wsMem_storeAll (s : State) (c : Nat) : (s.storeAll c).wsMem = s.wsMem := State.each_proj State.wsMem s _ fun _ _ => rfl

/-! Detections while GT stands still: they are held, and none is on its way. -/

/-- GT stands still and no detection is on its way. -/
def State.Stopped (s : State) : Prop := s.gtRun = false ∧ s.flight = []

theorem State.stopped_latchAt {s : State} (h : s.Stopped) (p b t : Nat) : (s.latchAt p b t).Stopped := by
  unfold State.latchAt
  split <;> exact h

theorem State.stopped_modSrc {s : State} (h : s.Stopped) (src : Nat) (f : SrcSt → SrcSt) : (s.modSrc src f).Stopped :=
  ⟨(State.gtRun_of_calm (s.calm_modColl ..)).trans h.1, (s.modSrc_onlyCollects src f).flight.trans h.2⟩

theorem State.stopped_send {s : State} (h : s.Stopped) (d : Det) : (s.send d).Stopped := by
  unfold State.send
  rw [if_pos (by simp [h.1])]
  split <;> exact h

theorem State.stopped_raise {s : State} (h : s.Stopped) (src code native : Nat) : (s.raise src code native).Stopped := by
  unfold State.raise State.raiseAt
  extract_lets s1 enabled s2
  have h1 : s1.Stopped := by
    dsimp only [s1]
    split
    · exact State.stopped_latchAt h ..
    · exact h
  have h2 : s2.Stopped := by
    dsimp only [s2]
    split
    · exact State.stopped_modSrc h1 ..
    · exact h1
  split
  · exact State.stopped_send h2 _
  · exact h2

theorem State.stopped_loadSeed {s : State} (h : s.Stopped) (k : Nat) : (s.loadSeed k).Stopped := by
  unfold State.loadSeed
  extract_lets bad s1
  have h1 : s1.Stopped := ⟨h.1, by simp [s1, State.modSlot, State.callOff, h.2]⟩
  split
  · exact State.stopped_raise h1 ..
  · exact h1

theorem State.host_loadSeed (s : State) (k : Nat) : (s.loadSeed k).host = s.host := by
  unfold State.loadSeed
  extract_lets bad s1
  split
  · exact (State.host_of_calm (s1.calm_raise ..)).trans rfl
  · rfl

/-- A stopped state whose windows are all OFF, with the host port and all that the passes over the pins leave alone as in `s`. -/
structure PinsReset (s t : State) : Prop where
  stopped : t.Stopped
  still : t.still = s.still
  wins : t.wins = []
  host : t.host = s.host

theorem State.pinsReset_reportClosed {s t : State} (h : PinsReset s t) (k : Nat) : PinsReset s (t.reportClosed k) := by
  have hc : (t.reportClosed k).calm = t.calm := State.calm_send ..
  exact ⟨State.stopped_send h.stopped _, (State.still_of_calm hc).trans h.still, (State.wins_of_calm hc).trans h.wins,
    (State.host_of_calm hc).trans h.host⟩

theorem State.pinsReset_loadSeed {s t : State} (h : PinsReset s t) (k : Nat) : PinsReset s (t.loadSeed k) := by
  obtain ⟨hs, hw, -⟩ := t.loadSeed_frame k
  exact ⟨State.stopped_loadSeed h.stopped k, hs.trans h.still, hw.trans h.wins, (t.host_loadSeed k).trans h.host⟩

theorem State.Stopped.pinsReset {s : State} (h : s.Stopped) (slots : Tab Slot) (clus : Tab Clu) :
    PinsReset s { s with wins := [], slots := slots, clus := clus } := ⟨h, rfl, rfl, rfl⟩

theorem State.resetPins_pinsReset {s : State} (h : s.Stopped) (checks : List (SlotId × BitVec 16)) : PinsReset s (s.resetPins checks) := by
  unfold State.resetPins
  extract_lets left s1
  have h1 : PinsReset s s1 := h.pinsReset ..
  exact State.each_inv (P := PinsReset s) (fun _ k ht => State.pinsReset_loadSeed ht k) _ _
    (State.each_inv (P := PinsReset s) (fun _ k ht => State.pinsReset_reportClosed ht k) _ _ h1)

/-! The reset itself. -/

/-- What a device reset leaves, of a part that was in state `a` (R57, R370, R385; R310, R369). -/
def DeviceIsReset (a t : State) (cause : Nat) : Prop :=
  t.dev.bringup = 1 ∧ t.dev.regPhase = true ∧ t.dev.cause = cause ∧ t.dev.count = satInc 65535 a.dev.count ∧ t.gtRun = false ∧ t.t = 0 ∧
  t.held = [] ∧ t.regs = [] ∧ t.pgSeq = [] ∧ t.conseqs = [] ∧ t.flight = [] ∧ t.now = a.now ∧
  (∀ w, t.mode w = .off) ∧ t.stackMem = a.stackMem ∧ t.keep.ledger = a.keep.ledger ∧
  t.sec.keyMap = a.sec.keyMap ∧ t.sec.lc = a.sec.lc ∧ t.flt.logWr = a.flt.logWr ∧ t.flt.logRd = a.flt.logRd ∧ t.flt.trap = a.flt.trap ∧
  (a.mem.march = 0 → t.wsMem = a.wsMem)

/-- The configuration space, with the two enables that R337 names, stays. -/
def ConfigKept (a t : State) : Prop := t.host.cfgSpace = a.host.cfgSpace ∧ t.host.bme = a.host.bme

/-- The state in which a device reset stops GT: held writes dropped, switch counts stored, a destructive march's banks undefined. -/
def State.closed (s : State) : State :=
  ((if s.mem.march ≠ 0 && s.marchDestructive then s.undefineBanks else s).dropHeld).each (List.range 8) State.storeAll

theorem State.unclosed_closed (s : State) : s.closed.unclosed = s.unclosed := by
  refine (State.each_proj State.unclosed _ _ State.unclosed_storeAll).trans ((State.unclosed_dropHeld _).trans ?_)
  split
  · exact s.unclosed_undefineBanks
  · rfl

theorem State.held_closed (s : State) : s.closed.held = [] := State.each_proj State.held _ _ State.held_storeAll

theorem State.wsMem_closed {s : State} (h : s.mem.march = 0) : s.closed.wsMem = s.wsMem := by
  refine (State.each_proj State.wsMem _ _ State.wsMem_storeAll).trans ((State.wsMem_dropHeld _).trans ?_)
  rw [if_neg (by simp [h])]

/-- A device reset that acts leaves the part as R385 says. -/
theorem State.deviceReset_spec {s : State} (h : s.resetting = false) (cause src : Nat) (checks : List (SlotId × BitVec 16)) :
    DeviceIsReset s (s.deviceReset cause src checks) cause ∧ ConfigKept s (s.deviceReset cause src checks) := by
  unfold State.deviceReset
  rw [if_neg (by simp [h])]
  extract_lets d s0 s1 s2 s3
  have hu : s1.unclosed = s.unclosed := s.unclosed_closed
  have hheld : s1.held = [] := s.held_closed
  have hws : s.mem.march = 0 → s1.wsMem = s.wsMem := State.wsMem_closed
  clear_value s1
  have hp := State.resetPins_pinsReset (s := (s3.modDev fun d => { d with again := s3.persisting }).resetDevicePages) ⟨rfl, rfl⟩ checks
  revert hp
  generalize ((s3.modDev fun d => { d with again := s3.persisting }).resetDevicePages).resetPins checks = v
  intro hp
  have hs := hp.still
  refine ⟨⟨congrArg (·.dev.bringup) hs, congrArg (·.dev.regPhase) hs, congrArg (·.dev.cause) hs, congrArg (·.dev.count) hs, hp.stopped.1,
    congrArg (·.t) hs, (congrArg (·.held) hs).trans hheld, congrArg (·.regs) hs, congrArg (·.pgSeq) hs, congrArg (·.conseqs) hs, hp.stopped.2,
    (congrArg (·.now) hs).trans (congrArg (·.now) hu), fun w => ?_, (congrArg (·.stackMem) hs).trans (congrArg (·.stackMem) hu),
    (congrArg (·.keep.ledger) hs).trans (congrArg (·.keep.ledger) hu), (congrArg (·.sec.keyMap) hs).trans (congrArg (·.sec.keyMap) hu),
    (congrArg (·.sec.lc) hs).trans (congrArg (·.sec.lc) hu), (congrArg (·.flt.logWr) hs).trans (congrArg (·.flt.logWr) hu),
    (congrArg (·.flt.logRd) hs).trans (congrArg (·.flt.logRd) hu), (congrArg (·.flt.trap) hs).trans (congrArg (·.flt.trap) hu),
    fun hm => (congrArg (·.wsMem) hs).trans (hws hm)⟩,
    (congrArg (·.cfgSpace) hp.host).trans (congrArg (·.host.cfgSpace) hu), (congrArg (·.bme) hp.host).trans (congrArg (·.host.bme) hu)⟩
  show (Tab.get {} v.wins w).md.mode = .off
  rw [hp.wins]
  rfl

/-- The state without its host port. -/
def State.hostless (s : State) : State := { s with host := {} }

/-- Returning the configuration space to reset leaves everything but the host port, and the Command and MSI-X enables are off (R337). -/
theorem State.resetConfig_spec (s : State) : s.resetConfig.hostless = s.hostless ∧
    s.resetConfig.host.cfgSpace = [] ∧ s.resetConfig.host.bme = false ∧ s.resetConfig.host.msixEn = false :=
  ⟨State.each_proj State.hostless _ _ fun _ _ => rfl, State.each_proj (·.host.cfgSpace) _ _ fun _ _ => rfl,
    State.each_proj (·.host.bme) _ _ fun _ _ => rfl, State.each_proj (·.host.msixEn) _ _ fun _ _ => rfl⟩

/-- What a device reset leaves does not speak of the host port. -/
theorem DeviceIsReset.of_host {a t u : State} {cause : Nat} (h : DeviceIsReset a t cause) (hu : u.hostless = t.hostless) :
    DeviceIsReset a u cause := by
  have h' : DeviceIsReset a t.hostless cause := h
  rw [← hu] at h'
  exact h'

theorem State.resetting_of_takes {s : State} (ht : s.takes 0 = true) (hp : s.dev.porLow = false) : s.resetting = false := by
  have hb : s.dev.bringup = 5 := by
    simp only [State.takes, Bool.and_eq_true, decide_eq_true_eq] at ht
    exact ht.1.1.1
  simp [State.resetting, hb, hp]

/-- Settles O46: the reset's first steps keep all but held writes, stored counts and the banks of a destructive march; the passes over the pins
keep all that the statement names, and send their detections to the held ones because GT has stopped. -/
theorem deviceResets : Obligations.DeviceResets := by
  unfold Obligations.DeviceResets
  intro run
  constructor
  · intro s dt confirm checks a ht
    refine ⟨fun hc => ?_, fun hc hp => ?_⟩
    · exact congrArg Host.Outcome.next ((State.hostWrite_takes ht ..).trans (if_pos fun hn => hc (BitVec.eq_of_toNat_eq hn)))
    · subst hc
      exact ⟨_, congrArg Host.Outcome.next ((State.hostWrite_takes ht ..).trans (if_neg (by decide))),
        State.deviceReset_spec (State.resetting_of_takes ht hp) 1 0 checks⟩
  · intro s dt checks a
    refine ⟨fun h => ?_, fun hu hr => ?_⟩
    · exact congrArg Host.Outcome.next (if_pos (by simpa using h))
    · have hacts : ¬ (!a.host.up || a.resetting) = true := by simp [hu, hr]
      obtain ⟨hrest, hcfg, hbme, hmsix⟩ := (a.deviceReset 3 0 checks).resetConfig_spec
      exact ⟨_, congrArg Host.Outcome.next (if_neg hacts),
        (State.deviceReset_spec hr 3 0 checks).1.of_host hrest, hcfg, hbme, hmsix⟩

end Sys2Proof.Machine

namespace Sys2Proof.Machine

/-! ### A cluster reset withdraws exports after it has cleared the pins' inputs (O45) -/

/-- A serviceable part whose cluster 0 presents its export 0 at 1, to input 0 of its own window 0 by a BRIDGE route (R106, R107). -/
def bridgeToItself : State :=
  { State.reset with
    gtRun := true, dev := { porLow := false, bringup := 5 }
    regs := [(pageAddr (cluPage 0) 0x400, 2)], clus := [(0, { expo := 1 })] }

/-- The CLU page of cluster 0. -/
def cluPage0 : PageId := ⟨cluPage 0, by decide⟩

/-- The reset of cluster 0 leaves the change of its export on its way to window 0. -/
theorem bridgeToItself_due : exec (.blkRst 0 cluPage0) bridgeToItself = .next ((bridgeToItself.advance 0).blkRst 0 cluPage0) ∧
    (((bridgeToItself.advance 0).blkRst 0 cluPage0).fb 0).due = [(0, 0, false)] := ⟨rfl, by decide +kernel⟩

/-- Refutes O45: a cluster reset clears the reaction inputs of its windows first and its exports next, so that a route of TYPE BRIDGE that names the
cluster's own export puts the export's fall on its way to an input already cleared; the statement has the fabric signals of every window of the
cluster back at reset. -/
theorem not_blockResets : ¬ Obligations.BlockResets := by
  unfold Obligations.BlockResets
  intro h
  obtain ⟨-, h, -, -⟩ := h
  obtain ⟨-, -, -, -, -, -, h⟩ := h bridgeToItself 0 cluPage0 (by decide +kernel) (by decide) (by decide +kernel)
  obtain ⟨t, he, -, hw, -⟩ := h 0 rfl
  obtain ⟨hexec, hdue⟩ := bridgeToItself_due
  have ht : t = (bridgeToItself.advance 0).blkRst 0 cluPage0 := Host.Outcome.next.inj (he.symm.trans hexec)
  obtain ⟨-, hfb⟩ := hw 0 (by decide)
  rw [ht] at hfb
  rw [hfb] at hdue
  exact absurd hdue (by decide)

end Sys2Proof.Machine

namespace Sys2Proof.Machine

/-! ### What a mode command's result shows: the view of a window

`State.view s w` is what the statements about modes read of a state: the mode and its result, the page's result count, the time, the traffic sent and
held, and of the sequencer the burst that is loaded. Most operations leave it alone; one lemma for each says so. -/

/-- The mode and result of a window, its CTL page's count, the time, traffic sent and writes held, the burst loaded, and the slot that serves it. -/
structure View where
  md : ModeSt
  seqNo : BitVec 16
  t : Nat
  out : List Out
  held : List Held
  loaded : Bool
  cur : RawDesc
  hold0 : RawDesc
  land1 : RawDesc
  slot : Nat

/-- The view of window `w`. -/
def State.view (s : State) (w : Nat) : View where
  md := s.md w
  seqNo := Tab.get 0 s.pgSeq (winPage w 0)
  t := s.t
  out := s.out
  held := s.held
  loaded := (s.sq w).loaded
  cur := (s.sq w).cur
  hold0 := (s.sq w).hold0
  land1 := (s.sq w).land1
  slot := s.slotOf w

/-- The view without the static drive and the burst loaded. -/
def View.bare (v : View) : View := { v with md := { v.md with static := .dz }, loaded := false, cur := 0, hold0 := 0, land1 := 0 }

theorem winPage_ne_zero (u v : Nat) {q : Nat} (h : q < 16) (h0 : q ≠ 0) : winPage u q ≠ winPage v 0 := by
  unfold winPage
  omega

/-! The updates. -/

theorem State.view_of_calm {s t : State} (h : s.calm = t.calm) (v : Nat) : s.view v = t.view v := congrArg (·.view v) h

@[simp] theorem State.view_latch (s : State) (p b v : Nat) : (s.latch p b).view v = s.view v := rfl
@[simp] theorem State.view_unlatch (s : State) (p : Nat) (m : BitVec 32) (v : Nat) : (s.unlatch p m).view v = s.view v := rfl
@[simp] theorem State.view_withdraw (s : State) (src code t v : Nat) : (s.withdraw src code t).view v = s.view v := rfl
@[simp] theorem State.view_raiseAt (s : State) (src code native : Nat) (sh : Shelf) (x : BitVec 28) (t v : Nat) :
    (s.raiseAt src code native sh x t).view v = s.view v := State.view_of_calm (s.calm_raiseAt ..) v
@[simp] theorem State.view_raiseCh (s : State) (w i code native v : Nat) : (s.raiseCh w i code native).view v = s.view v := s.view_raiseAt ..
@[simp] theorem State.view_raiseSeg (s : State) (w i code native : Nat) (sh : Shelf) (t v : Nat) :
    (s.raiseSeg w i code native sh t).view v = s.view v := s.view_raiseAt ..
@[simp] theorem State.view_raiseSeq (s : State) (w code t v : Nat) : (s.raiseSeq w code t).view v = s.view v := s.view_raiseAt ..
@[simp] theorem State.view_raiseDev (s : State) (p i code native v : Nat) : (s.raiseDev p i code native).view v = s.view v := s.view_raiseAt ..
@[simp] theorem State.view_raiseVal (s : State) (src code native x v : Nat) : (s.raiseVal src code native x).view v = s.view v := s.view_raiseAt ..

@[simp] theorem State.view_modSlot (s : State) (k : Nat) (f : Slot → Slot) (v : Nat) : (s.modSlot k f).view v = s.view v := rfl
@[simp] theorem State.view_modMem (s : State) (f : MemSt → MemSt) (v : Nat) : (s.modMem f).view v = s.view v := rfl
@[simp] theorem State.view_modKeep (s : State) (f : KeepSt → KeepSt) (v : Nat) : (s.modKeep f).view v = s.view v := rfl
@[simp] theorem State.view_modSyn (s : State) (f : SynSt → SynSt) (v : Nat) : (s.modSyn f).view v = s.view v := rfl
@[simp] theorem State.view_setStack (s : State) (m : List Host.Cell) (v : Nat) : (s.setStack m).view v = s.view v := rfl
@[simp] theorem State.view_setWs (s : State) (m : List Host.Cell) (v : Nat) : (s.setWs m).view v = s.view v := rfl
@[simp] theorem State.view_setReg (s : State) (x y v : Nat) : (s.setReg x y).view v = s.view v := rfl
@[simp] theorem State.view_draw (s : State) (v : Nat) : s.draw.2.view v = s.view v := rfl

/-- An update of a cluster that leaves its swap leaves every view. -/
theorem State.view_modClu (s : State) (c : Nat) {f : Clu → Clu} (h : ∀ x, (f x).swapped = x.swapped) (v : Nat) :
    (s.modClu c f).view v = s.view v := by
  have hs : ((s.modClu c f).clu (cluOf v)).swapped = (s.clu (cluOf v)).swapped := by
    rw [State.clu_modClu]
    split
    · next e => rw [h, e]
    · rfl
  have hslot : (s.modClu c f).slotOf v = s.slotOf v := by
    simp only [State.slotOf, hs]
  unfold State.view
  rw [hslot]
  rfl

/-- An update of a window that leaves its mode and the burst loaded leaves every view. -/
theorem State.view_modWin (s : State) (w : Nat) {f : Win → Win} (hm : (f (s.win w)).md = s.md w) (hl : (f (s.win w)).sq.loaded = (s.sq w).loaded)
    (hc : (f (s.win w)).sq.cur = (s.sq w).cur) (hh : (f (s.win w)).sq.hold0 = (s.sq w).hold0) (h1 : (f (s.win w)).sq.land1 = (s.sq w).land1)
    (v : Nat) : (s.modWin w f).view v = s.view v := by
  unfold State.view
  simp only [State.md_modWin, State.sq_modWin, State.slotOf_modWin]
  split
  · next h => subst h; simp only [hm, hl, hc, hh, h1]; rfl
  · rfl

@[simp] theorem State.view_modPl (s : State) (w : Nat) (f : PlaySt → PlaySt) (v : Nat) : (s.modPl w f).view v = s.view v :=
  s.view_modWin w rfl rfl rfl rfl rfl v
@[simp] theorem State.view_modSl (s : State) (w : Nat) (f : SluSt → SluSt) (v : Nat) : (s.modSl w f).view v = s.view v :=
  s.view_modWin w rfl rfl rfl rfl rfl v
@[simp] theorem State.view_modHo (s : State) (w : Nat) (f : HoldSt → HoldSt) (v : Nat) : (s.modHo w f).view v = s.view v :=
  s.view_modWin w rfl rfl rfl rfl rfl v
@[simp] theorem State.view_modIk (s : State) (w : Nat) (f : IntakeSt → IntakeSt) (v : Nat) : (s.modIk w f).view v = s.view v :=
  s.view_modWin w rfl rfl rfl rfl rfl v
@[simp] theorem State.view_modTm (s : State) (w : Nat) (f : TimSt → TimSt) (v : Nat) : (s.modTm w f).view v = s.view v :=
  s.view_modWin w rfl rfl rfl rfl rfl v
@[simp] theorem State.view_modPm (s : State) (w : Nat) (f : PmuSt → PmuSt) (v : Nat) : (s.modPm w f).view v = s.view v :=
  s.view_modWin w rfl rfl rfl rfl rfl v
@[simp] theorem State.view_modCp (s : State) (w : Nat) (f : CapSt → CapSt) (v : Nat) : (s.modCp w f).view v = s.view v :=
  s.view_modWin w rfl rfl rfl rfl rfl v
@[simp] theorem State.view_modMn (s : State) (w : Nat) (f : MonSt → MonSt) (v : Nat) : (s.modMn w f).view v = s.view v :=
  s.view_modWin w rfl rfl rfl rfl rfl v
@[simp] theorem State.view_modSt (s : State) (w : Nat) (f : StpSt → StpSt) (v : Nat) : (s.modSt w f).view v = s.view v :=
  s.view_modWin w rfl rfl rfl rfl rfl v
@[simp] theorem State.view_modEn (s : State) (w : Nat) (f : EngSt → EngSt) (v : Nat) : (s.modEn w f).view v = s.view v :=
  s.view_modWin w rfl rfl rfl rfl rfl v
@[simp] theorem State.view_modRd (s : State) (w : Nat) (f : RedSt → RedSt) (v : Nat) : (s.modRd w f).view v = s.view v :=
  s.view_modWin w rfl rfl rfl rfl rfl v

/-- An update of the sequencer that leaves the burst loaded leaves every view. -/
theorem State.view_modSq (s : State) (w : Nat) {f : SeqSt → SeqSt}
    (h : ∀ q, (f q).loaded = q.loaded ∧ (f q).cur = q.cur ∧ (f q).hold0 = q.hold0 ∧ (f q).land1 = q.land1) (v : Nat) :
    (s.modSq w f).view v = s.view v := by
  obtain ⟨hl, hc, hh, h1⟩ := h (s.sq w)
  exact s.view_modWin w rfl hl hc hh h1 v

@[simp] theorem State.view_bumpSeq (s : State) (u : Nat) {q : Nat} (h : q < 16) (h0 : q ≠ 0) (v : Nat) :
    (s.bumpSeq (winPage u q)).view v = s.view v := by
  unfold State.view
  rw [State.bumpSeq_pgSeq, Tab.get_set_other _ _ _ (winPage_ne_zero u v h h0)]
  rfl

/-- The update of a mode is the update of its own view. -/
@[simp] theorem State.view_modMd (s : State) (w : Nat) (f : ModeSt → ModeSt) : (s.modMd w f).view w = { s.view w with md := f (s.view w).md } := by
  unfold State.view
  simp only [State.modMd, State.md_modWin, State.sq_modWin, ↓reduceIte]
  rfl

/-- A step of a pass that leaves a view leaves it over the pass. -/
theorem State.view_each {α : Type} (s : State) (l : List α) {f : State → α → State} {v : Nat} (h : ∀ s a, (f s a).view v = s.view v) :
    (s.each l f).view v = s.view v := State.each_proj (·.view v) s l h

/-! Results of mode commands. -/

/-- The mode part as a finished command leaves it (R53, R372). -/
def ModeSt.finished (m : ModeSt) (cmd : Nat) (tag : Byte) (outcome reason : Nat) : ModeSt :=
  { m with
    tag := tag, cmd := cmd, oversub := false, late := false, cancelled := false,
    res := { m.res.done outcome reason with valid := m.trans.all fun x => decide (x.swOp ≠ 0) } }

theorem State.view_modeDone (s : State) (w cmd : Nat) (tag : Byte) (outcome reason : Nat) :
    (s.modeDone w cmd tag outcome reason).view w =
      { s.view w with md := (s.view w).md.finished cmd tag outcome reason, seqNo := (s.view w).seqNo + 1 } := by
  unfold State.modeDone State.view
  simp only [State.modMd, State.bumpSeq_pgSeq, Tab.get_set_self]
  simp only [State.md, State.sq, State.win_bumpSeq, State.win_modWin, ↓reduceIte]
  rfl

theorem State.view_modeRefuse (s : State) (w cmd : Nat) (tag : Byte) (reason : Nat) :
    (s.modeRefuse w cmd tag reason).view w =
      { s.view w with md := (s.view w).md.finished cmd tag 2 reason, seqNo := (s.view w).seqNo + 1 } := by
  rw [State.modeRefuse, State.view_raiseCh, State.view_modeDone]

/-- The transition that an accepted mode command begins. -/
def startedTrans (cmd : Nat) (tag : Byte) (target : Mode) (hot oversub : Bool) (at_ : Nat) : Trans :=
  { cmd := cmd, tag := tag, target := target, at_ := at_, swOp := 0, oversub := oversub, cancelled := false, hot := hot }

theorem State.view_modeStart (s : State) (w cmd : Nat) (tag : Byte) (target : Mode) (hot oversub : Bool) :
    (s.modeStart w cmd tag target hot oversub).view w =
      { s.view w with md := { (s.view w).md with
          trans := some (startedTrans cmd tag target hot oversub (s.view w).t), res := (s.view w).md.res.busy } } := by
  unfold State.modeStart
  rw [State.view_modMd]
  rfl

/-! Capture, stamper, engine, reduction. -/

@[simp] theorem State.view_queueGap (s : State) (w v : Nat) : (s.queueGap w).view v = s.view v := by
  unfold State.queueGap
  extract_lets c
  split
  · rfl
  · split
    · exact s.view_modCp ..
    · rfl

@[simp] theorem State.view_queueRec (s : State) (w : Nat) (r : Rec) (v : Nat) : (s.queueRec w r).view v = s.view v := by
  unfold State.queueRec
  extract_lets s1 s2 s3
  split <;> simp [s1, s2, s3]

@[simp] theorem State.view_stpRefuse (s : State) (w reason v : Nat) : (s.stpRefuse w reason).view v = s.view v := by
  simp [State.stpRefuse]

@[simp] theorem State.view_stampUnarm (s : State) (w t v : Nat) : (s.stampUnarm w t).view v = s.view v := by
  unfold State.stampUnarm
  extract_lets u s1
  split <;> simp [s1]

@[simp] theorem State.view_stampDisarmAt (s : State) (w t cause v : Nat) : (s.stampDisarmAt w t cause).view v = s.view v := by
  unfold State.stampDisarmAt
  extract_lets x src s1 s2
  have h2 : s2.view v = s.view v := by
    dsimp only [s2]
    split <;> simp [s1]
  repeat' split
  all_goals simp [h2]

@[simp] theorem State.view_engOccur (s : State) (w src sel code t bound v : Nat) : (s.engOccur w src sel code t bound).view v = s.view v :=
  s.view_modEn ..

@[simp] theorem State.view_engStop (s : State) (w v : Nat) : (s.engStop w).view v = s.view v := by
  unfold State.engStop
  split <;> simp

@[simp] theorem State.view_redWrite (s : State) (w v : Nat) : (s.redWrite w).view v = s.view v := by
  unfold State.redWrite
  extract_lets r code full x
  split <;> simp

@[simp] theorem State.view_redTake (s : State) (w : Nat) (x : RedIn) (v : Nat) : (s.redTake w x).view v = s.view v := by
  unfold State.redTake State.redGrid
  extract_lets n
  split <;> simp

@[simp] theorem State.view_redSettle (s : State) (w t v : Nat) : (s.redSettle w t).view v = s.view v := by
  unfold State.redSettle
  split
  · rfl
  · split
    · rfl
    · extract_lets s1 s2
      have h2 : s2.view v = s.view v := by
        dsimp only [s2]
        split <;> simp [s1]
      split <;> simp [h2]

@[simp] theorem State.view_redDisarmAt (s : State) (w t cause v : Nat) : (s.redDisarmAt w t cause).view v = s.view v := by
  unfold State.redDisarmAt
  extract_lets s1 r
  repeat' split
  all_goals simp [s1]

@[simp] theorem State.view_storeEntry (s : State) (w i : Nat) (e : BitVec 128) (v : Nat) : (s.storeEntry w i e).view v = s.view v :=
  s.view_setStack ..

@[simp] theorem State.view_logFill (s : State) (w v : Nat) : (s.logFill w).view v = s.view v := by
  unfold State.logFill
  extract_lets c s1
  split
  · rfl
  · dsimp only [s1]
    split <;> simp

@[simp] theorem State.view_openCapture (s : State) (w v : Nat) : (s.openCapture w).view v = s.view v := by
  unfold State.openCapture
  extract_lets s1
  have h1 : s1.view v = s.view v := s.view_modWin w rfl rfl rfl rfl rfl v
  split <;> simp [h1]

@[simp] theorem State.view_finishCapture (s : State) (w v : Nat) : (s.finishCapture w).view v = s.view v := by
  unfold State.finishCapture
  extract_lets c s1
  have h1 : s1.view v = s.view v := by
    dsimp only [s1]
    split <;> simp
  repeat' split
  all_goals simp [h1]

@[simp] theorem State.view_flushCapture (s : State) (w v : Nat) : (s.flushCapture w).view v = s.view v := by
  unfold State.flushCapture
  extract_lets s1 c
  split <;> simp [s1]

/-! Memory and the Sluice. -/

@[simp] theorem State.view_eccStack (s : State) (addr kind m v : Nat) : (s.eccStack addr kind m).view v = s.view v := by
  unfold State.eccStack
  extract_lets st key s1 s2
  have h2 : s2.view v = s.view v := by
    dsimp only [s2]
    split <;> simp [s1]
  simp [h2]

@[simp] theorem State.view_eccBankSeen (s : State) (e : Ecc) (off m v : Nat) : (s.eccBankSeen e off m).view v = s.view v := by
  unfold State.eccBankSeen
  split <;> simp [State.eccBank]

@[simp] theorem State.view_touchBank (s : State) (b v : Nat) : (s.touchBank b).view v = s.view v := by
  unfold State.touchBank
  split <;> simp

@[simp] theorem State.view_pushSlices (s : State) (w : Nat) (r : Role) (n : Nat) (bad laneBad : Word) (v : Nat) :
    (s.pushSlices w r n bad laneBad).view v = s.view v := by
  unfold State.pushSlices
  split
  · simp
  · extract_lets b at_ want k note ahead here got new new'
    split <;> simp

@[simp] theorem State.view_badWords (s : State) (base step k : Nat) (bad : Word) (v : Nat) : (s.badWords base step k bad).view v = s.view v := by
  refine s.view_each _ fun s i => ?_
  split <;> simp

@[simp] theorem State.view_readErrors (s : State) (w : Nat) (d : RawDesc) (at_ first k : Nat) (bad laneBad : Word) (c : Bool) (v : Nat) :
    (s.readErrors w d at_ first k bad laneBad c).view v = s.view v := by
  unfold State.readErrors
  extract_lets s1
  split <;> simp [s1]

@[simp] theorem State.view_fillIndicate (s : State) (w v : Nat) : (s.fillIndicate w).view v = s.view v := s.view_modSl ..
@[simp] theorem State.view_stockIndicate (s : State) (w v : Nat) : (s.stockIndicate w).view v = s.view v := s.view_modSl ..

@[simp] theorem State.view_readInto (s : State) (w : Nat) (r : Role) (n : Nat) (bad laneBad : Word) (c : Bool) (v : Nat) :
    (s.readInto w r n bad laneBad c).view v = s.view v := by
  unfold State.readInto
  extract_lets b first s1 b1 k d at_
  rw [State.view_stockIndicate, State.view_fillIndicate, State.view_readErrors, State.view_pushSlices]

@[simp] theorem State.view_loadHead (s : State) (w : Nat) (r : Role) (rd : HeadReads) (v : Nat) : (s.loadHead w r rd).view v = s.view v :=
  s.view_readInto ..

@[simp] theorem State.view_readArmed (s : State) (w v : Nat) : (s.readArmed w).view v = s.view v := s.view_readInto ..

@[simp] theorem State.view_flushStreams (s : State) (w v : Nat) : (s.flushStreams w).view v = s.view v := by
  simp [State.flushStreams, State.flushIntake]

@[simp] theorem State.view_emptySluice (s : State) (w v : Nat) : (s.emptySluice w).view v = s.view v := s.view_modSl ..

/-! The program. -/

@[simp] theorem State.view_perr (s : State) (w code : Nat) (sh : Shelf) (t v : Nat) : (s.perr w code sh t).view v = s.view v := by
  simp [State.perr]

@[simp] theorem State.view_jumpDrop (s : State) (w t v : Nat) : (s.jumpDrop w t).view v = s.view v := by simp [State.jumpDrop]

@[simp] theorem State.view_jumpArrive (s : State) (w k t v : Nat) : (s.jumpArrive w k t).view v = s.view v := by
  unfold State.jumpArrive
  extract_lets q
  repeat' split
  all_goals simp [State.view_modSq]

@[simp] theorem State.view_jumpDue (s : State) (w v : Nat) : (s.jumpDue w).view v = s.view v := by
  unfold State.jumpDue
  extract_lets due
  split
  · rfl
  · rw [State.view_each _ _ fun s r => s.view_jumpArrive ..]
    simp [State.view_modSq]

@[simp] theorem State.view_judgeSlot (s : State) (w k v : Nat) : (s.judgeSlot w k).view v = s.view v := by
  unfold State.judgeSlot
  extract_lets rej s1 s2
  split <;> simp [s1, s2, State.view_modSq]

theorem State.view_dropProgram (s : State) (w : Nat) : (s.dropProgram w).view w = { s.view w with loaded := false, cur := 0 } := by
  unfold State.dropProgram State.view
  simp only [State.modSq, State.md_modWin, State.sq_modWin, ↓reduceIte]
  rfl

@[simp] theorem State.view_applyStage (s : State) (w t v : Nat) : (s.applyStage w t).view v = s.view v := by
  unfold State.applyStage
  split
  · rfl
  · extract_lets e fresh s1 s2
    have h2 : s2.view v = s.view v := by
      dsimp only [s2]
      split <;> simp [s1, State.applyEntry]
    simp [h2]

@[simp] theorem State.view_settle (s : State) (w h v : Nat) : (s.settle w h).view v = s.view v := by
  unfold State.settle
  extract_lets k x en lv cut src s1
  have h1 : s1.view v = s.view v := s.view_modSlot ..
  split
  · exact h1
  · exact (State.view_each _ cut fun s t => s.view_raiseAt ..).trans ((s1.view_modTm ..).trans h1)

/-! The holding pattern's copy. -/

@[simp] theorem State.view_holdErrors (s : State) (n : Nat) (bad fixed : List Nat) (addr : Nat → Nat) (v : Nat) :
    (s.holdErrors n bad fixed addr).view v = s.view v := by
  unfold State.holdErrors
  extract_lets s1
  have h1 : s1.view v = s.view v := s.view_each _ fun s i => s.view_eccStack ..
  rw [State.view_each _ _ fun s i => s.view_eccStack .., h1]

@[simp] theorem State.view_copyHold (s : State) (w : Nat) (rd : ArmReads) (v : Nat) : (s.copyHold w rd).view v = s.view v := by
  unfold State.copyHold
  split
  · unfold State.copyNow
    extract_lets d n words lanes s1 s2 s3
    split <;> simp [s1, s2, s3]
  · simp [State.view_modSq]

/-! The intake. -/

@[simp] theorem State.view_breakStream (s : State) (w cause : Nat) (sh : Shelf) (v : Nat) : (s.breakStream w cause sh).view v = s.view v := by
  simp [State.breakStream]

@[simp] theorem State.view_tagGranules (s : State) (w lo hi v : Nat) : (s.tagGranules w lo hi).view v = s.view v := by
  unfold State.tagGranules
  split <;> simp

@[simp] theorem State.view_storeRing (base size : Nat) (l : List Byte) (v : Nat) : ∀ (s : State) (pos : Nat), (s.storeRing base size pos l).view v = s.view v := by
  induction l with
  | nil => exact fun s pos => rfl
  | cons b r ih => exact fun s pos => (ih _ _).trans (s.view_setStack ..)

@[simp] theorem State.view_rmwRing (s : State) (base size pos n : Nat) (part : PartReads) (v : Nat) :
    (s.rmwRing base size pos n part).view v = s.view v := by
  unfold State.rmwRing
  extract_lets see
  have hs : ∀ s e i, (see s e i).view v = s.view v := by
    intro s e i
    dsimp only [see]
    split
    · rfl
    · split <;> simp
  rw [hs, hs]

@[simp] theorem State.view_commitFrame (s : State) (w : Nat) (d : RawDesc) (last secret : Bool) (payload : List Byte) (part : PartReads) (v : Nat) :
    (s.commitFrame w d last secret payload part).view v = s.view v := by
  unfold State.commitFrame
  extract_lets n base size pos bs s0 new s1 s2 s3
  have h2 : s2.view v = s.view v := by
    dsimp only [s2]
    repeat' split
    all_goals simp [s0, s1]
  simp [s3, h2]

/-- What the intake does at the front of a byte stream leaves a view. -/
def Parsed.KeepsView (s : State) (v : Nat) : Parsed → Prop
  | .wait => True
  | .next t => t.view v = s.view v

theorem State.view_keyRead (s : State) (e : Ecc) (id v : Nat) : (s.keyRead e id).view v = s.view v := s.view_eccBankSeen ..

theorem State.view_streamFrame (s : State) (w h : Nat) (bs : List Byte) (total : Nat) (rd : IntakeReads) (v : Nat) :
    (s.streamFrame w h bs total rd).KeepsView s v := by
  unfold State.streamFrame
  extract_lets k sealed_ id last sh len s1 body s2 p
  have h1 : s1.view v = s.view v := s.view_modIk ..
  have h2 : s2.view v = s.view v := (s1.view_keyRead ..).trans h1
  split
  · exact s.view_breakStream ..
  · extract_lets n sum
    split
    · exact s.view_breakStream ..
    · split
      · exact s.view_breakStream ..
      · split
        · split
          · trivial
          · show (if p.2 = 0 then _ else _ : State).view v = _
            split <;> simp [h2]
        · split
          · trivial
          · exact (s1.view_commitFrame ..).trans h1

theorem State.view_loadFrame (s : State) (w h : Nat) (bs : List Byte) (total : Nat) (rd : IntakeReads) (v : Nat) :
    (s.loadFrame w h bs total rd).KeepsView s v := by
  unfold State.loadFrame
  extract_lets id len dest s1 p s2 out s3
  have h1 : s1.view v = s.view v := (State.view_keyRead ..).trans (s.view_modIk ..)
  have h3 : s3.view v = s.view v := (s2.view_setStack ..).trans ((s1.view_tagGranules ..).trans h1)
  split
  · exact s.view_breakStream ..
  · split
    · exact s.view_breakStream ..
    · split
      · trivial
      · split
        · exact (s1.view_breakStream ..).trans h1
        · show (if p.2 = 0 then _ else _ : State).view v = _
          split <;> simp [h3]

theorem State.view_parseFrame (s : State) (w : Nat) (rd : IntakeReads) (v : Nat) : (s.parseFrame w rd).KeepsView s v := by
  unfold State.parseFrame
  extract_lets k bs h ty body total
  split
  · trivial
  · split
    · exact s.view_breakStream ..
    · split
      · split
        · trivial
        · exact s.view_modIk ..
      · split
        · split
          · exact s.view_breakStream ..
          · exact s.view_loadFrame ..
        · split
          · exact s.view_streamFrame ..
          · trivial

@[simp] theorem State.view_parse (s : State) (w : Nat) (rd : IntakeReads) (v : Nat) : (s.parse w rd).view v = s.view v := by
  unfold State.parse
  generalize (s.ik w).bytes.length / 32 + 1 = fuel
  induction fuel generalizing s with
  | zero => rfl
  | succ n ih =>
    have hf := s.view_parseFrame w rd v
    unfold State.parseAll
    split
    · rfl
    · next s1 he =>
      rw [he] at hf
      exact (ih s1).trans hf

/-! The front end: what touches no static drive. -/

@[simp] theorem State.view_countClose (s : State) (c i v : Nat) : (s.countClose c i).view v = s.view v := by
  unfold State.countClose
  extract_lets n s1 s2
  have h2 : s2.view v = s.view v := by
    dsimp only [s2]
    split <;> simp [s1, State.storeCount, State.view_modClu]
  split <;> simp [h2]

@[simp] theorem State.view_setCal (s : State) (w : Nat) (b : Bool) (v : Nat) : (s.setCal w b).view v = s.view v := by
  unfold State.setCal
  extract_lets k s1
  split
  · rfl
  · split <;> simp [s1]

@[simp] theorem State.view_setConn (s : State) (w : Nat) (b : Bool) (v : Nat) : (s.setConn w b).view v = s.view v :=
  s.view_modClu _ (fun x => by split <;> rfl) v

@[simp] theorem State.view_quiet (s : State) (w v : Nat) : (s.quiet w).view v = s.view v := by simp [State.quiet]

@[simp] theorem State.view_recordCheck (s : State) (w : Nat) (x : BitVec 16) (v : Nat) : (s.recordCheck w x).view v = s.view v := s.view_modSlot ..

@[simp] theorem State.view_recordCal (s : State) (w : Nat) (x : BitVec 16) (v : Nat) : (s.recordCal w x).view v = s.view v := by
  unfold State.recordCal
  split <;> simp

@[simp] theorem State.view_connectFails (s : State) (w v : Nat) : (s.connectFails w).view v = s.view v := by
  unfold State.connectFails
  extract_lets x
  split
  · split <;> simp [x]
  · simp

/-! What may touch the static drive, and nothing else of a view. -/

theorem State.view_setStatic (s : State) (w : Nat) (d : Drv) :
    (s.setStatic w d).view w = { s.view w with md := { (s.view w).md with static := d } } := by
  unfold State.setStatic
  rw [State.view_modSlot, State.view_modMd]

theorem State.bare_setStatic (s : State) (w : Nat) (d : Drv) : ((s.setStatic w d).view w).bare = (s.view w).bare := by
  rw [State.view_setStatic]
  rfl

theorem State.bare_driveWithPmu (s : State) (w : Nat) : ((s.driveWithPmu w).view w).bare = (s.view w).bare := by
  unfold State.driveWithPmu
  split
  · rfl
  · split
    · rfl
    · exact s.bare_setStatic ..

@[simp] theorem State.view_redCut (s : State) (w v : Nat) : (s.redCut w).view v = s.view v := by
  unfold State.redCut
  extract_lets s1
  split
  · simp
  · split <;> simp [s1]

/-- A change of PMU.CFG leaves all of a view but the static drive, which it applies again. -/
theorem State.bare_pmuSet (s : State) (w m range cause : Nat) : ((s.pmuSet w m range cause).view w).bare = (s.view w).bare := by
  unfold State.pmuSet
  extract_lets old changed quantity s0 s1 s2
  have h0 : s0.view w = s.view w := by
    dsimp only [s0]
    split
    · simp
    · split <;> simp
  have h2 : s2.view w = s.view w := by
    dsimp only [s2]
    split <;> simp [s1, h0, State.pmuChanged]
  split
  · rw [h2]
  · rw [State.bare_driveWithPmu, h2]

theorem State.bare_pmuEnd (s : State) (w cause : Nat) : ((s.pmuEnd w cause).view w).bare = (s.view w).bare := by
  unfold State.pmuEnd
  extract_lets forced s1
  have h1 := s.bare_pmuSet w 0 (s.pmuRange w) cause
  split
  · rw [State.view_raiseCh, State.view_modPm]
    exact h1
  · exact h1

theorem State.bare_leftReady (s : State) (w : Nat) : ((s.leftReady w).view w).bare = (s.view w).bare := by
  rw [State.leftReady, State.bare_setStatic, State.view_setConn, State.bare_pmuEnd]

theorem State.bare_powerDown (s : State) (w : Nat) : ((s.powerDown w).view w).bare = (s.view w).bare := by
  rw [State.powerDown, State.view_modPm, State.view_modSlot, State.bare_pmuEnd, State.view_setCal, State.view_engStop]

theorem State.bare_connected (s : State) (w : Nat) : ((s.connected w).view w).bare = (s.view w).bare := by
  unfold State.connected
  extract_lets s1
  rw [State.bare_setStatic, State.view_modSlot]
  simp [s1]

theorem State.bare_dropProgram (s : State) (w : Nat) : ((s.dropProgram w).view w).bare = (s.view w).bare := by
  rw [State.view_dropProgram]
  rfl

theorem State.bare_discardBurst (s : State) (w : Nat) : ((s.discardBurst w).view w).bare = (s.view w).bare := by
  rw [State.discardBurst, State.view_flushCapture, State.view_flushStreams, State.bare_dropProgram, State.view_jumpDue]

/-- What a transition does on arrival, whatever its command, leaves the mode's result, its count, the time and the traffic. -/
theorem State.bare_arrived (s : State) (w cmd : Nat) (from_ : Mode) : ((s.arrived w cmd from_).view w).bare = (s.view w).bare := by
  unfold State.arrived
  split
  · exact s.bare_powerDown w
  · split
    · rw [State.view_modPm, State.view_modSlot]
    · exact s.bare_leftReady w
    · rw [State.view_modSlot, State.bare_pmuEnd, State.view_setCal]
  · exact s.bare_connected w
  · split
    · rw [State.view_readArmed]
    · rfl
  · split
    · exact s.bare_leftReady w
    · rfl
  · exact s.bare_discardBurst w

end Sys2Proof.Machine

namespace Sys2Proof.Machine

/-! ### Mode commands: arrival, results, refusals -/

/-- Nothing changed of the result of window `w` or its count. -/
def SameResult (a t : State) (w : Nat) : Prop :=
  (t.md w).res.seq = (a.md w).res.seq ∧ Tab.get 0 t.pgSeq (winPage w 0) = Tab.get 0 a.pgSeq (winPage w 0)

theorem SameResult.refl (a : State) (w : Nat) : SameResult a a w := ⟨rfl, rfl⟩

theorem SameResult.of_bare {a t : State} {w : Nat} {m : ModeSt} (h : (t.view w).bare = View.bare { a.view w with md := m })
    (hm : m.res.seq = (a.md w).res.seq) : SameResult a t w := ⟨(congrArg (·.md.res.seq) h).trans hm, congrArg (·.seqNo) h⟩

/-- A finished command's result, from a state in which the result is as it was. -/
theorem State.modeDone_finished {a s : State} {w : Nat} (h : SameResult a s w) (cmd : Nat) (tag : Byte) (outcome reason : Nat) :
    Finished a (s.modeDone w cmd tag outcome reason) w cmd tag outcome reason := by
  have hv := s.view_modeDone w cmd tag outcome reason
  obtain ⟨hr, hn⟩ := h
  exact ⟨congrArg (·.md.cmd) hv, congrArg (·.md.tag) hv, congrArg (·.md.res.outcome) hv, congrArg (·.md.res.reason) hv,
    (congrArg (·.md.res.seq) hv).trans (congrArg (· + 1) hr), (congrArg (·.seqNo) hv).trans (congrArg (· + 1) hn)⟩

/-- A finished result stands while its fields and the count do. -/
theorem Finished.of_view {a t u : State} {w cmd : Nat} {tag : Byte} {outcome reason : Nat} (h : Finished a t w cmd tag outcome reason)
    {m : ModeSt} (hv : u.view w = { t.view w with md := m }) (hm : m.cmd = (t.md w).cmd ∧ m.tag = (t.md w).tag ∧ m.res = (t.md w).res) :
    Finished a u w cmd tag outcome reason := by
  obtain ⟨hcmd, htag, hout, hreason, hseq, hn⟩ := h
  obtain ⟨hc, hg, hr⟩ := hm
  have hres : (u.md w).res = (t.md w).res := (congrArg (·.md.res) hv).trans hr
  exact ⟨(congrArg (·.md.cmd) hv).trans (hc.trans hcmd), (congrArg (·.md.tag) hv).trans (hg.trans htag), (congrArg Res.outcome hres).trans hout,
    (congrArg Res.reason hres).trans hreason, (congrArg Res.seq hres).trans hseq, (congrArg (·.seqNo) hv).trans hn⟩

/-! Windows and slots. -/

/-- A slot lies in the cluster of the window that it serves. -/
theorem State.slotOf_div (s : State) (w : Nat) : s.slotOf w / 17 = cluOf w := by
  unfold State.slotOf
  extract_lets c
  split
  · split <;> omega
  · next p _ =>
    have hp := p.isLt
    repeat' split
    all_goals omega

/-- A slot serves the window that it was taken from. -/
theorem State.winOf_slotOf (s : State) {w : Nat} (h : w < 136) : s.winOf (s.slotOf w) = w := by
  have hc : cluOf w = if w < 128 then w / 16 else w - 128 := rfl
  have hd := s.slotOf_div w
  cases hs : (s.clu (cluOf w)).swapped with
  | none =>
    have hk : s.slotOf w = if w < 128 then 17 * cluOf w + w % 16 else 17 * cluOf w + 16 := by simp only [State.slotOf, hs]
    simp only [State.winOf, hd, hs]
    split at hc <;> split at hk <;> split <;> omega
  | some p =>
    have hp := p.isLt
    have hk : s.slotOf w = if w < 128 then (if w % 16 = p.toNat then 17 * cluOf w + 16 else 17 * cluOf w + w % 16) else
        17 * cluOf w + p.toNat := by simp only [State.slotOf, hs]
    simp only [State.winOf, hd, hs]
    split at hc <;> (repeat' split at hk) <;> (repeat' split) <;> omega

theorem State.slotOf_lt (s : State) {w : Nat} (h : w < 136) : s.slotOf w < 136 := by
  have hd := s.slotOf_div w
  unfold cluOf at hd
  split at hd <;> omega

theorem srcLevel_chSrc {k i : Nat} (hk : k < 136) (hi : i < 32) : srcLevel (chSrc k i) = 0 := by
  unfold srcLevel chSrc
  omega

theorem srcInst_chSrc {k i : Nat} (hk : k < 136) (hi : i < 32) : srcInst (chSrc k i) = k := by
  unfold srcInst chSrc
  omega

theorem srcIdx_chSrc (k : Nat) {i : Nat} (hi : i < 32) : srcIdx (chSrc k i) = i := by
  unfold srcIdx chSrc
  omega

/-! Refusals. -/

theorem State.pgEvt_send (s : State) (d : Det) : (s.send d).pgEvt = s.pgEvt := by
  unfold State.send
  repeat' split
  all_goals rfl

theorem State.pgEvt_modColl (s : State) (src : Nat) (f : Coll → Coll) : (s.modColl src f).pgEvt = s.pgEvt := by
  unfold State.modColl
  split <;> rfl

/-- A detection now of a code that its source latches in a PG_EVT bit sets the bit (R366). -/
theorem State.pgEvt_raise {s : State} {src code p b : Nat} (h : s.latchOf src code = some (p, b)) (native : Nat) :
    (s.raise src code native).pgEvt = (s.latch p b).pgEvt := by
  unfold State.raise State.raiseAt
  rw [h]
  extract_lets s1 enabled s2
  have h1 : s1.pgEvt = (s.latch p b).pgEvt := by simp only [s1, State.latchAt, if_pos (Nat.le_refl s.t)]
  have h2 : s2.pgEvt = s1.pgEvt := by
    dsimp only [s2]
    split
    · exact s1.pgEvt_modColl ..
    · rfl
  split
  · rw [State.pgEvt_send, h2, h1]
  · rw [h2, h1]

/-- The event of a refused mode command is bit 0 of the window's CTL page. -/
theorem State.latchOf_cmd (s : State) {w : Nat} (h : w < 136) : s.latchOf (chSrc (s.slotOf w) 0) 0 = some (winPage w 0, 0) := by
  have hk := s.slotOf_lt h
  simp only [State.latchOf, srcLevel_chSrc hk (show 0 < 32 by decide), srcInst_chSrc hk (show 0 < 32 by decide), srcIdx_chSrc _ (show 0 < 32 by decide),
    s.winOf_slotOf h, chPage, Nat.zero_le, ↓reduceIte]

/-- A refusal is all that a refused mode command does (R8, R53). -/
theorem State.modeRefuse_refused (s : State) {w : Nat} (hw : w < 136) (cmd : Nat) (tag : Byte) (reason : Nat) :
    Refused s (s.modeRefuse w cmd tag reason) w cmd tag reason := by
  have hf : Finished s (s.modeRefuse w cmd tag reason) w cmd tag 2 reason :=
    (State.modeDone_finished (.refl s w) cmd tag 2 reason).of_view (m := ((s.modeDone w cmd tag 2 reason).view w).md)
      (State.view_raiseCh ..) ⟨rfl, rfl, rfl⟩
  have hc : (s.modeRefuse w cmd tag reason).calm = (s.modeDone w cmd tag 2 reason).calm := State.calm_raiseCh ..
  have hres : ((s.modeRefuse w cmd tag reason).md w).res = ((s.md w).finished cmd tag 2 reason).res :=
    congrArg (·.md.res) (s.view_modeRefuse w cmd tag reason)
  have hwin : ∀ v, (s.modeRefuse w cmd tag reason).win v = if w = v then { s.win w with md := (s.md w).finished cmd tag 2 reason } else s.win v :=
    fun v => (State.win_at_of_calm hc v).trans ((State.win_bumpSeq ..).trans (s.win_modWin ..))
  refine ⟨hf, ?_, hc.trans ?_, fun v hv => (hwin v).trans (if_neg (Ne.symm hv)), ?_, fun p hp => ?_⟩
  · have he : (s.modeRefuse w cmd tag reason).pgEvt = _ := State.pgEvt_raise ((s.modeDone w cmd tag 2 reason).latchOf_cmd hw) 0
    rw [he]
    simp [State.latch]
  · rw [State.wins_of_calm hc, State.pgSeq_of_calm hc]
    rfl
  · rw [hwin, if_pos rfl, hres]
    rfl
  · rw [State.pgSeq_of_calm hc]
    exact Tab.get_set_other _ _ _ (Ne.symm hp)

/-! Arrival. -/

theorem State.linkDue_none {s : State} (h : s.noEdgeDue = true) : s.linkDue = s := by
  have hd : (s.syn.coming.filter fun x => decide (x.at_ ≤ s.t)) = [] := by
    simpa [State.noEdgeDue, List.filter_eq_nil_iff] using h
  simp [State.linkDue, hd]

theorem State.startItems_none {s : State} (h : (s.syn.items.all fun x => decide (x.kind ≠ 3) || decide (s.t < x.at_)) = true) : s.startItems = s := by
  have hd : (s.syn.items.filter fun x => decide (x.kind = 3) && decide (x.at_ ≤ s.t)) = [] := by
    refine List.filter_eq_nil_iff.mpr fun x hx => ?_
    have hx' := List.all_eq_true.mp h x hx
    simp only [Bool.or_eq_true, Bool.and_eq_true, decide_eq_true_eq] at hx' ⊢
    omega
  simp [State.startItems, hd]

theorem State.deliverStarts_none {s : State} (he : s.noEdgeDue = true) (hs : (s.syn.starts.all fun x => decide (s.t < x)) = true)
    (hi : (s.syn.items.all fun x => decide (x.kind ≠ 3) || decide (s.t < x.at_)) = true) : s.deliverStarts = s := by
  have hdue : (s.syn.starts.filter fun t => decide (t ≤ s.t)) = [] := by
    simpa [List.filter_eq_nil_iff] using hs
  have hall : (s.syn.starts.filter fun t => decide (s.t < t)) = s.syn.starts :=
    List.filter_eq_self.mpr (List.all_eq_true.mp hs)
  have hset : (s.modSyn fun y => { y with starts := y.starts.filter fun t => decide (s.t < t) }) = s := by rw [State.modSyn, hall]
  unfold State.deliverStarts
  rw [State.linkDue_none he, State.startItems_none hi]
  dsimp only
  rw [hdue]
  exact hset

/-- Where nothing stands before a mode command in its arbiter's cycle, it finds the state as it is (R47). -/
theorem State.arriveFirst_none {s : State} {w : Nat} (h : s.noneFirst w = true) : s.arriveFirst w = s := by
  simp only [State.noneFirst, Bool.and_eq_true] at h
  obtain ⟨⟨⟨he, hs⟩, hi⟩, hl⟩ := h
  rw [State.arriveFirst, State.deliverStarts_none he hs hi, State.landEnd]
  refine if_pos ?_
  simp only [Bool.or_eq_true, decide_eq_true_eq] at hl ⊢
  rcases hl with hm | ht
  · simp [State.running, hm]
  · simp [ht]

/-- A mode command that is judged now, with nothing before it, is its action. -/
theorem State.modeArrive_now {s : State} {w : Nat} (h : s.takesMode w = true) (hn : s.noneFirst w = true) (cmd : Nat) (tag : Byte) (i : Instr)
    (act : State → State) : s.modeArrive w cmd tag i act = act s := by
  rw [State.modeArrive, State.modeWrite_takes h, State.arriveFirst_none hn]

/-! Commands of a broadcast. -/

/-- Codes from 9 on are reserved. -/
theorem State.modeCmd_reserved (s : State) (w : Nat) {code : Nat} (h : 9 ≤ code) (tag : Byte) (check calCheck : BitVec 16) (rd : ArmReads) :
    s.modeCmd w code tag check calCheck rd = s.cmdReserved w code tag := by
  obtain ⟨n, rfl⟩ := Nat.exists_eq_add_of_le' h
  rfl

theorem modeInstr_reserved (dt : Nat) (w : WinId) {code : Nat} (h : 9 ≤ code) (tag : Byte) (check calCheck : BitVec 16) (rd : ArmReads) :
    modeInstr dt w code tag check calCheck rd = .modeCmdReserved dt w (BitVec.ofNat 4 code) tag := by
  obtain ⟨n, rfl⟩ := Nat.exists_eq_add_of_le' h
  rfl

/-- A command that is judged now acts as the code it was written with names it (R45, R53). -/
theorem exec_modeInstr {s : State} {dt : Nat} {w : WinId} (h : (s.advance dt).takesMode w = true) {code : Nat} (h0 : code ≠ 0) (h16 : code < 16)
    (tag : Byte) (check calCheck : BitVec 16) (rd : ArmReads) :
    exec (modeInstr dt w code tag check calCheck rd) s = .next (((s.advance dt).arriveFirst w).modeCmd w code tag check calCheck rd) := by
  by_cases h9 : 9 ≤ code
  · have hn : (BitVec.ofNat 4 code).toNat = code := by
      rw [BitVec.toNat_ofNat]
      omega
    rw [modeInstr_reserved dt w h9, State.modeCmd_reserved _ _ h9]
    have he := State.modeWrite_takes h code tag (.modeCmdReserved dt w (BitVec.ofNat 4 code) tag) fun s =>
      (s.arriveFirst w).modeCmd w code tag 0 0 {}
    rw [State.modeCmd_reserved _ _ h9] at he
    refine Eq.trans ?_ (congrArg Host.Outcome.next he)
    show Host.Outcome.next (State.modeArrive _ w (BitVec.ofNat 4 code).toNat tag _ fun s => s.modeCmd w (BitVec.ofNat 4 code).toNat tag 0 0 {}) = _
    rw [hn]
    rfl
  · have h8 : code ≤ 8 := by omega
    clear h9 h16
    interval_cases code
    · exact absurd rfl h0
    all_goals exact congrArg Host.Outcome.next (State.modeWrite_takes h ..)

/-- The element of a numbered list that carries a given number. -/
theorem filter_zipIdx_eq {α : Type} (l : List α) (n i : Nat) :
    (l.zipIdx n).filter (fun x => decide (x.2 = n + i)) = (l[i]?).toList.map (·, n + i) := by
  induction l generalizing n i with
  | nil => rfl
  | cons a r ih =>
    rw [List.zipIdx_cons]
    cases i with
    | zero =>
      have hr : (r.zipIdx (n + 1)).filter (fun x => decide (x.2 = n + 0)) = [] := by
        refine List.filter_eq_nil_iff.mpr fun x hx => ?_
        have := List.le_snd_of_mem_zipIdx hx
        simp only [decide_eq_true_eq]
        omega
      rw [List.filter_cons_of_pos (by simp), hr]
      rfl
    | succ k =>
      rw [List.filter_cons_of_neg (by simp), show n + (k + 1) = n + 1 + k by omega, ih]
      rfl

theorem getLsbD_two_pow (i : Fin 17) (j : Nat) : (BitVec.ofNat 17 (2 ^ i.val)).getLsbD j = decide (j = 0 + i.val) := by
  have hi := i.isLt
  rw [BitVec.getLsbD_ofNat, Nat.testBit_two_pow, Bool.eq_iff_iff]
  simp only [Bool.and_eq_true, decide_eq_true_eq]
  omega

/-- A broadcast to one window is that window's own command (R47, R53). -/
theorem State.broadcast_one {s : State} {c i cmd : Nat} {mask : BitVec 17} {w : WinId} (hm : ∀ j, mask.getLsbD j = decide (j = 0 + i))
    (hw : (cluWins c)[i]? = some w.val) (h : s.takesMode w = true) (hc : cmd ≠ 0) (tag : Byte)
    (checks : List (BitVec 16 × BitVec 16 × ArmReads)) :
    s.broadcast c cmd tag mask checks = (s.arriveFirst w).modeCmd w cmd tag (checks.getD i (0, 0, {})).1 (checks.getD i (0, 0, {})).2.1
      (checks.getD i (0, 0, {})).2.2 := by
  have hp : s.dev.regPhase = false := by
    simp only [State.takesMode, Bool.and_eq_true, Bool.not_eq_true'] at h
    exact h.1.1.2
  have h0 : mask ≠ 0 := by
    rintro rfl
    simpa using hm i
  unfold State.broadcast
  rw [if_neg (by simpa [hc] using h0), if_neg (by simp [hp])]
  simp only [hm]
  rw [← List.foldl_filter, filter_zipIdx_eq, hw]
  simp only [Option.toList_some, List.map_cons, List.map_nil, List.foldl_cons, List.foldl_nil, w.isLt, Nat.zero_add, ↓reduceDIte]
  exact State.modeWrite_takes h ..

/-! Transitions end (R48, R53, R119). -/

theorem State.transitionDone_arrives {s : State} {w : Nat} {x : Trans} (ht : (s.md w).trans = some x) (h0 : x.swOp = 0) (hc : x.cancelled = false)
    (hh : x.hot = false) (ha : x.cmd ≠ 4 ∨ (s.sl w).streamFirst = false ∨ s.supplied w = true) : let t := s.transitionDone w
    t.mode w = x.target ∧ (t.md w).trans = none ∧ Finished s t w x.cmd x.tag 1 0 ∧ (t.md w).oversub = x.oversub ∧
      (t.md w).startMissed = (s.md w).startMissed := by
  have hstream : ¬ (x.cmd = 4 && (s.sl w).streamFirst && !s.supplied w) = true := by
    rcases ha with h | h | h <;> simp [h]
  unfold State.transitionDone
  rw [ht]
  dsimp only
  rw [if_neg (by simp [h0, hc]), if_neg (by simp [hh]), if_neg hstream]
  generalize hm : s.modMd w (fun m => { m with mode := x.target, trans := none }) = s0
  have hv0 : s0.view w = { s.view w with md := { s.md w with mode := x.target, trans := none } } := hm ▸ s.view_modMd w _
  have hb : ((s0.arrived w x.cmd (s.mode w)).view w).bare = View.bare { s.view w with md := { s.md w with mode := x.target, trans := none } } :=
    (s0.bare_arrived ..).trans (congrArg View.bare hv0)
  generalize s0.arrived w x.cmd (s.mode w) = s1 at hb
  have hd := s1.view_modeDone w x.cmd x.tag 1 0
  have hv := (s1.modeDone w x.cmd x.tag 1 0).view_modMd w fun m => { m with oversub := x.oversub }
  refine ⟨?_, ?_, ?_, congrArg (·.md.oversub) hv, ?_⟩
  · exact (congrArg (·.md.mode) hv).trans ((congrArg (·.md.mode) hd).trans (congrArg (·.md.mode) hb))
  · exact (congrArg (·.md.trans) hv).trans ((congrArg (·.md.trans) hd).trans (congrArg (·.md.trans) hb))
  · exact (State.modeDone_finished (.of_bare hb rfl) ..).of_view hv ⟨rfl, rfl, rfl⟩
  · exact (congrArg (·.md.startMissed) hv).trans ((congrArg (·.md.startMissed) hd).trans (congrArg (·.md.startMissed) hb))

theorem State.transitionDone_hot {s : State} {w : Nat} {x : Trans} (ht : (s.md w).trans = some x) (h0 : x.swOp = 0) (hc : x.cancelled = false)
    (hh : x.hot = true) : let t := s.transitionDone w
    t.mode w = s.mode w ∧ (t.md w).trans = none ∧ Finished s t w x.cmd x.tag 2 5 := by
  unfold State.transitionDone
  rw [ht]
  dsimp only
  rw [if_neg (by simp [h0, hc]), if_pos hh]
  unfold State.hotRestore
  extract_lets s1
  have hv1 : s1.view w = { s.view w with md := { s.md w with trans := none } } := (State.view_modPm ..).trans (s.view_modMd ..)
  have hb : ((s1.driveWithPmu w).view w).bare = View.bare { s.view w with md := { s.md w with trans := none } } :=
    (s1.bare_driveWithPmu w).trans (congrArg View.bare hv1)
  generalize s1.driveWithPmu w = s2 at hb
  have hv : (((s2.modeRefuse w x.cmd x.tag 5).raiseCh w 4 1 0).view w) = _ := (State.view_raiseCh ..).trans (s2.view_modeRefuse w x.cmd x.tag 5)
  refine ⟨(congrArg (·.md.mode) hv).trans (congrArg (·.md.mode) hb), (congrArg (·.md.trans) hv).trans (congrArg (·.md.trans) hb), ?_⟩
  exact ((State.modeDone_finished (.of_bare hb rfl) x.cmd x.tag 2 5).of_view (m := ((s2.modeDone w x.cmd x.tag 2 5).md w))
    (hv.trans (s2.view_modeDone ..).symm) ⟨rfl, rfl, rfl⟩)

/-- A switch that misses its time ends its command with FAILED, in the window's mode and with the driver off (R53, R189). -/
theorem State.switchFails_failed {s : State} {w : Nat} {x : Trans} (ht : (s.md w).trans = some x) (h0 : x.swOp = 0) (hc : x.cancelled = false)
    (hh : x.hot = false) (hm : s.movesSwitch w x = true) : let t := s.switchFails w
    t.mode w = s.mode w ∧ (t.md w).trans = none ∧ Finished s t w x.cmd x.tag 3 13 ∧ (t.md w).static = .dz ∧ (t.slot (s.slotOf w)).drvEn = false := by
  unfold State.switchFails
  rw [ht]
  dsimp only
  rw [if_neg (by simp [hh, hc]), if_neg (by simp [h0]), if_neg (by simp [hm])]
  generalize hs1 : s.modMd w (fun m => { m with trans := none }) = s1
  have hv1 : s1.view w = { s.view w with md := { s.md w with trans := none } } := hs1 ▸ s.view_modMd w _
  generalize hs2 : (if x.cmd = 3 then s1.connectFails w else s1) = s2
  have hv2 : s2.view w = s1.view w := by
    rw [← hs2]
    split <;> simp
  generalize hs3 : (if s.mode w = .ready then s2.pmuEnd w 3 else s2) = s3
  have hb3 : (s3.view w).bare = View.bare { s.view w with md := { s.md w with trans := none } } := by
    rw [← hv1, ← hv2, ← hs3]
    split
    · exact s2.bare_pmuEnd w 3
    · rfl
  have hv4 : (s3.setStatic w .dz).view w = _ := s3.view_setStatic w .dz
  have hb4 : ((s3.setStatic w .dz).view w).bare = View.bare { s.view w with md := { s.md w with trans := none } } :=
    (s3.bare_setStatic w .dz).trans hb3
  have hdrv : ((s3.setStatic w .dz).slot (s.slotOf w)).drvEn = false := by
    have hk : s.slotOf w = s3.slotOf w := (congrArg (·.slot) hb3).symm
    rw [hk, State.slot_setStatic]
    rfl
  have hstat : ((s3.setStatic w .dz).md w).static = .dz := congrArg (·.md.static) hv4
  generalize s3.setStatic w .dz = s4 at hb4 hdrv hstat
  have hv5 : (((s4.modeDone w x.cmd x.tag 3 13).raiseCh w 0 1 2).raiseCh w 4 2 2).view w = (s4.modeDone w x.cmd x.tag 3 13).view w :=
    (State.view_raiseCh ..).trans (State.view_raiseCh ..)
  have hv := hv5.trans (s4.view_modeDone w x.cmd x.tag 3 13)
  refine ⟨(congrArg (·.md.mode) hv).trans (congrArg (·.md.mode) hb4), (congrArg (·.md.trans) hv).trans (congrArg (·.md.trans) hb4),
    (State.modeDone_finished (.of_bare hb4 rfl) ..).of_view (m := ((s4.modeDone w x.cmd x.tag 3 13).view w).md) hv5 ⟨rfl, rfl, rfl⟩,
    (congrArg (·.md.static) hv).trans hstat, ?_⟩
  refine (congrArg Slot.drvEn (State.slot_at_of_calm ((State.calm_raiseCh ..).trans (State.calm_raiseCh ..)) _)).trans hdrv

/-- Settles O9: a refusal's effect is one lemma; a broadcast to one window is that window's command, and either is judged as its code names it;
what a transition does on arrival leaves the result and its count, whichever command it belongs to. -/
theorem modeCommandsFinish : Obligations.ModeCommandsFinish := by
  unfold Obligations.ModeCommandsFinish
  refine ⟨⟨?_, ?_⟩, ?_⟩
  · intro s dt w code tag a ht hf hn h9
    refine ⟨_, congrArg Host.Outcome.next ((State.modeArrive_now ht hn ..).trans ?_), a.modeRefuse_refused w.isLt code.toNat tag 11⟩
    exact (State.modeCmd_reserved _ _ h9 ..).trans (State.modeGate_idle hf ..)
  · intro s dt c i cmd tag checks w a v hw ht hc
    have h0 : cmd.toNat ≠ 0 := fun e => hc (BitVec.eq_of_toNat_eq e)
    exact ⟨_, congrArg Host.Outcome.next (State.broadcast_one (getLsbD_two_pow i) hw ht h0 tag checks), exec_modeInstr ht h0 cmd.isLt ..⟩
  · intro s dt w x a ht h0 hc
    refine ⟨fun hh ha => ?_, fun hh => ⟨_, rfl, State.transitionDone_hot ht h0 hc hh⟩, fun hh hm => ⟨_, rfl, State.switchFails_failed ht h0 hc hh hm⟩⟩
    obtain ⟨hmode, htrans, hfin, hover, -⟩ := State.transitionDone_arrives ht h0 hc hh ha
    exact ⟨_, rfl, hmode, htrans, hfin, hover⟩

end Sys2Proof.Machine

namespace Sys2Proof.Machine

/-! ### ARM -/

/-- The state without the traces of detections and what error correction has counted. -/
def State.unread (s : State) : State := { s.calm with mem := {} }

theorem State.unread_eccStack (s : State) (addr kind m : Nat) : (s.eccStack addr kind m).unread = s.unread := by
  unfold State.eccStack
  extract_lets st key s1 s2
  have h2 : s2.calm = s1.calm := by
    dsimp only [s2]
    split <;> simp
  exact congrArg (fun c : State => { c with mem := {} }) ((State.calm_raiseDev ..).trans h2)

/-- What error correction found in the Catalogue entries that an ARM's check examined is reported (R82, R271). -/
def State.armRead (s : State) (w : Nat) (rd : ArmReads) : State :=
  let chk := s.armCheck w rd.entries
  let s1 := s.each (rd.entries.filter fun e => chk.ents.contains e) fun s e => s.eccStack (catStore w + 64 * e) 2 0
  s1.each (rd.entriesFixed.filter fun e => !rd.entries.contains e && chk.ents.contains e) fun s e => s.eccStack (catStore w + 64 * e) 1 0

theorem State.unread_armRead (s : State) (w : Nat) (rd : ArmReads) : (s.armRead w rd).unread = s.unread :=
  (State.each_proj State.unread _ _ fun s _ => s.unread_eccStack ..).trans (State.each_proj State.unread _ _ fun s _ => s.unread_eccStack ..)

theorem State.view_of_unread {s t : State} (h : s.unread = t.unread) (v : Nat) : s.view v = t.view v := congrArg (·.view v) h

theorem State.keyOf_of_unread {s t : State} (h : s.unread = t.unread) (k : Nat) : s.keyOf k = t.keyOf k := congrArg (·.keyOf k) h

/-- An ARM in READY is what its check and what it needs let it be (R50, R53). -/
theorem State.cmdArm_ready {s : State} {w : Nat} (hf : s.modeFree w = true) (hw : w < 128) (hl : s.lcBars = false) (hm : s.mode w = .ready)
    (tag : Byte) (rd : ArmReads) : s.cmdArm w tag rd = (match (s.armCheck w rd.entries).fault with
      | some (code, sh) => ((s.armRead w rd).perr w code sh (s.armRead w rd).t).modeRefuse w 4 tag 8
      | none =>
        if (s.armCheck w rd.entries).keys.any fun k => ((s.armRead w rd).keyOf k).isNone then (s.armRead w rd).modeRefuse w 4 tag 12
        else if !(s.armRead w rd).ref.locked then (s.armRead w rd).modeRefuse w 4 tag 9
        else (s.armRead w rd).armAccept w tag rd (s.armCheck w rd.entries)) := by
  unfold State.cmdArm
  rw [State.modeGate_idle hf, if_neg (by omega), if_neg (by simp [hl]), if_neg (by simp [hm])]
  rfl

/-- An ARM whose check finds no fault, with every key there and GT locked, is accepted (R48, R50, R58). -/
theorem State.cmdArm_accepts {s : State} {w : Nat} (hf : s.modeFree w = true) (hw : w < 128) (hl : s.lcBars = false) (hm : s.mode w = .ready)
    {rd : ArmReads} (hc : (s.armCheck w rd.entries).fault = none) (hk : ∀ k ∈ (s.armCheck w rd.entries).keys, (s.keyOf k).isSome = true)
    (hr : s.ref.locked = true) (tag : Byte) :
    s.cmdArm w tag rd = (s.armRead w rd).armAccept w tag rd (s.armCheck w rd.entries) := by
  have hu := s.unread_armRead w rd
  have hkeys : ¬ ((s.armCheck w rd.entries).keys.any fun k => ((s.armRead w rd).keyOf k).isNone) = true := by
    simp only [List.any_eq_true, not_exists, not_and, State.keyOf_of_unread hu]
    exact fun k hmem => by rw [Option.isNone_eq_false_iff.mpr (hk k hmem)]; exact Bool.false_ne_true
  have href : (s.armRead w rd).ref.locked = true := (congrArg (·.ref.locked) hu).trans hr
  rw [State.cmdArm_ready hf hw hl hm, hc]
  dsimp only
  rw [if_neg hkeys, if_neg (by simp [href])]

theorem State.lcBars_of {s : State} (h1 : s.sec.lc ≠ 4) (h2 : s.sec.trans = none) : s.lcBars = false := by
  simp [State.lcBars, h1, h2]

/-- The update of a sequencer is the update of its own view. -/
theorem State.view_modSq_self (s : State) (w : Nat) (f : SeqSt → SeqSt) : (s.modSq w f).view w =
    { s.view w with loaded := (f (s.sq w)).loaded, cur := (f (s.sq w)).cur, hold0 := (f (s.sq w)).hold0, land1 := (f (s.sq w)).land1 } := by
  unfold State.view
  simp only [State.modSq, State.md_modWin, State.sq_modWin, ↓reduceIte]
  rfl

/-- Two views that are the same without the static drive and the burst loaded. -/
theorem View.eq_of_bare {u v : View} (h : u.bare = v.bare) : ∃ static loaded cur hold0 land1, u = { v with
    md := { v.md with static := static }, loaded := loaded, cur := cur, hold0 := hold0, land1 := land1 } := by
  refine ⟨u.md.static, u.loaded, u.cur, u.hold0, u.land1, ?_⟩
  obtain ⟨⟨⟩, _⟩ := u
  obtain ⟨⟨⟩, _⟩ := v
  simp only [View.bare, View.mk.injEq, ModeSt.mk.injEq] at h ⊢
  simp_all

/-- An accepted ARM loads the burst of the Catalogue and SEQ.ENTRY, begins its transition, clears START_MISSED, and sends and holds nothing
(R48, R50, R52, R80). -/
theorem State.armAccept_view (s : State) (w : Nat) (tag : Byte) (rd : ArmReads) (chk : ArmCheck) : ∃ oversub, ∃ static,
    (s.armAccept w tag rd chk).view w = { s.view w with
      md := { s.md w with
        static := static, startMissed := false, trans := some (startedTrans 4 tag .armed false oversub s.t), res := (s.md w).res.busy }
      loaded := true, cur := s.desc w (s.wreg w 1 0x040 % 16384), hold0 := s.desc w 0, land1 := s.desc w 1 } := by
  unfold State.armAccept
  extract_lets s1 s2 s3 s4 s5 oversub
  have h1 : (s1.view w).bare = (s.view w).bare := by
    dsimp only [s1]
    split
    · rw [State.bare_pmuEnd, State.view_jumpDue]
    · rw [State.view_jumpDue]
  clear_value s1
  have h2 : s2.view w = { s1.view w with
      md := { (s1.view w).md with startMissed := false }
      loaded := true, cur := s.desc w (s.wreg w 1 0x040 % 16384), hold0 := s.desc w 0, land1 := s.desc w 1 } := by
    dsimp only [s2]
    rw [State.view_modSq_self, State.view_modMd]
  clear_value s2
  have h3 : s3.view w = s2.view w := s2.view_modWin w rfl rfl rfl rfl rfl w
  clear_value s3
  have h5 : s5.view w = s3.view w := by
    refine (State.view_each _ _ fun s k => s.view_judgeSlot w k w).trans ?_
    simp [s4]
  clear_value s5 oversub
  obtain ⟨static, _, _, _, _, hb⟩ := View.eq_of_bare h1
  refine ⟨oversub, static, ?_⟩
  rw [State.view_parse, State.view_modeStart, h5, h3, h2, hb]
  rfl

end Sys2Proof.Machine

namespace Sys2Proof.Machine

/-! ### Start events (O4) -/

/-- Of a pass, a step at one element of the list turns what each step keeps into what each step keeps from then on. -/
theorem State.each_reaches {α : Type} {P Q : State → Prop} {f : State → α → State} {l : List α} {a : α} (ha : a ∈ l)
    (hp : ∀ s b, P s → P (f s b)) (hq : ∀ s b, Q s → Q (f s b)) (hpq : ∀ s, P s → Q (f s a)) {s : State} (h : P s) : Q (s.each l f) := by
  obtain ⟨l1, l2, rfl⟩ := List.append_of_mem ha
  have hsplit : s.each (l1 ++ a :: l2) f = (f (s.each l1 f) a).each l2 f := by simp [State.each]
  rw [hsplit]
  exact State.each_inv hq _ _ (hpq _ (State.each_inv hp _ _ h))

/-- Start event `te` waits, with the windows, the slots, the registers and the time as in `a`. -/
structure StartWaits (a : State) (te : Nat) (s : State) : Prop where
  wins : s.wins = a.wins
  slots : s.slots = a.slots
  regs : s.regs = a.regs
  t : s.t = a.t
  starts : te ∈ s.syn.starts

theorem mem_insertTime {x t : Nat} {l : List Nat} (h : x ∈ l) : x ∈ insertTime t l := by
  induction l with
  | nil => exact absurd h List.not_mem_nil
  | cons y r ih =>
    unfold insertTime
    split
    · exact List.mem_cons_of_mem _ h
    · rcases List.mem_cons.mp h with rfl | h
      · exact List.mem_cons_self
      · exact List.mem_cons_of_mem _ (ih h)

/-- The start router takes a START frame's event among those that wait. -/
theorem StartWaits.startItem {a s : State} {te : Nat} (h : StartWaits a te s) (x : NywItem) : StartWaits a te (s.startItem x) := by
  obtain ⟨hw, hs, hr, ht, hm⟩ := h
  unfold State.startItem State.acceptStart
  split
  · split
    · exact ⟨hw, hs, hr, ht, hm⟩
    · extract_lets link at_ s1 s2
      have h2 : StartWaits a te s2 := by
        dsimp only [s2, State.starPulse]
        split <;> exact ⟨hw, hs, hr, ht, mem_insertTime hm⟩
      split
      · exact ⟨h2.wins, h2.slots, h2.regs, h2.t, h2.starts⟩
      · exact h2
  · exact ⟨hw, hs, hr, ht, hm⟩

theorem StartWaits.startItems {a s : State} {te : Nat} (h : StartWaits a te s) : StartWaits a te s.startItems := by
  unfold State.startItems
  extract_lets due
  split
  · exact h
  · exact State.each_inv (fun _ x hs => hs.startItem x) _ _ ⟨h.wins, h.slots, h.regs, h.t, h.starts⟩

/-- Window `w` reads one of `xs`, and the slots and registers are those of `a`. -/
structure WinReads (a : State) (w : Nat) (xs : List Win) (s : State) : Prop where
  win : s.win w ∈ xs
  slots : s.slots = a.slots
  regs : s.regs = a.regs

theorem State.win_of_wins {s t : State} (h : s.wins = t.wins) (w : Nat) : s.win w = t.win w := by
  unfold State.win
  rw [h]

theorem State.maskPins_of_regs {s t : State} (h : s.regs = t.regs) (off : Nat) : s.maskPins off = t.maskPins off := by
  unfold State.maskPins State.dreg State.reg
  rw [h]

theorem State.startRun_onlyWin (s : State) (w te : Nat) : OnlyWin s (s.startRun w te) w := by
  unfold State.startRun
  exact (s.modWin_onlyWin w _).trans (State.modWin_onlyWin _ w _)

/-- A start event changes its own window alone. -/
theorem State.startEvent_onlyWin (s : State) (w te : Nat) : OnlyWin s (s.startEvent w te) w := by
  unfold State.startEvent
  split
  · split
    · exact s.startRun_onlyWin ..
    · exact ⟨rfl, fun _ _ => rfl⟩
  · split
    · exact s.modWin_onlyWin ..
    · exact ⟨rfl, fun _ _ => rfl⟩

theorem WinReads.startEvent {a s : State} {w v te : Nat} {xs ys : List Win} (h : WinReads a w xs s) (hv : v = w → (s.startEvent w te).win w ∈ ys)
    (hs : v ≠ w → xs ⊆ ys) : WinReads a w ys (s.startEvent v te) := by
  have ho := s.startEvent_onlyWin v te
  refine ⟨?_, (congrArg State.slots ho.1).trans h.slots, (congrArg State.regs ho.1).trans h.regs⟩
  by_cases e : v = w
  · exact e ▸ hv e
  · rw [ho.2 w (Ne.symm e)]
    exact hs e h.win

/-- What a window in no ARM's transition and not in ARMED does with a start event: nothing (R52). -/
theorem State.startEvent_none {s : State} {w : Nat} (hm : s.mode w ≠ .armed) (ht : ∀ x, (s.md w).trans = some x → ¬ (x.cmd = 4 ∧ x.swOp = 0))
    (te : Nat) : s.startEvent w te = s := by
  unfold State.startEvent
  split
  · exact if_neg hm
  · next x hx => exact if_neg (by simpa using ht x hx)

/-- What an ARM in transition does with a start event (R52). -/
theorem State.startEvent_missed {s : State} {w : Nat} {x : Trans} (ht : (s.md w).trans = some x) (hc : x.cmd = 4) (h0 : x.swOp = 0) (te : Nat) :
    (s.startEvent w te).win w = { s.win w with md := { s.md w with startMissed := true } } := by
  unfold State.startEvent
  rw [ht]
  dsimp only
  rw [if_pos (by simp [hc, h0]), State.modMd, State.win_modWin, if_pos rfl]
  rfl

/-- A waiting start event is delivered to a window of START_MASK: the window is left as one event leaves it, when a further event leaves it so. -/
theorem State.deliverStarts_win {a : State} {te w : Nat} {y : Win} (he : a.noEdgeDue = true) (hs : a.syn.starts = [te]) (ht : te ≤ a.t)
    (hw : w ∈ a.maskPins 0x080) (hy : ∀ (s : State) t, s.win w ∈ [a.win w, y] → (s.startEvent w t).win w = y) :
    a.deliverStarts.win w = y ∧ a.deliverStarts.slots = a.slots := by
  have hwait : StartWaits a te a.startItems := StartWaits.startItems ⟨rfl, rfl, rfl, rfl, hs ▸ List.mem_singleton_self te⟩
  have hkeep : ∀ s v t, WinReads a w [a.win w, y] s → WinReads a w [a.win w, y] (s.startEvent v t) := fun s v t h =>
    h.startEvent (fun _ => by rw [hy s t h.win]; simp) fun _ => List.Subset.refl _
  have hstay : ∀ s v t, WinReads a w [y] s → WinReads a w [y] (s.startEvent v t) := fun s v t h =>
    h.startEvent (fun _ => by rw [hy s t (List.mem_cons_of_mem _ h.win)]; simp) fun _ => List.Subset.refl _
  have hhit : ∀ s t, WinReads a w [a.win w, y] s → WinReads a w [y] (s.startEvent w t) := fun s t h =>
    h.startEvent (fun _ => by rw [hy s t h.win]; simp) fun hn => absurd rfl hn
  have hend : WinReads a w [y] a.deliverStarts := by
    unfold State.deliverStarts
    rw [State.linkDue_none he]
    extract_lets s0 due s1
    have hdue : te ∈ due := List.mem_filter.mpr ⟨hwait.starts, decide_eq_true (hwait.t ▸ ht)⟩
    have h1 : WinReads a w [a.win w, y] s1 := ⟨List.mem_cons.mpr (.inl (State.win_of_wins hwait.wins w)), hwait.slots, hwait.regs⟩
    refine State.each_reaches (P := WinReads a w [a.win w, y]) hdue (fun s t h => ?_) (fun s t h => ?_) (fun s h => ?_) h1
    · exact State.each_inv (fun s v hs => hkeep s v t hs) _ _ ⟨h.win, h.slots, h.regs⟩
    · exact State.each_inv (fun s v hs => hstay s v t hs) _ _ ⟨h.win, h.slots, h.regs⟩
    · have hmask : w ∈ (s.modSyn fun y => { y with startT := gtOf te }).maskPins 0x080 := by
        have hm := State.maskPins_of_regs h.regs 0x080
        exact hm ▸ hw
      exact State.each_reaches (P := WinReads a w [a.win w, y]) hmask (fun s v hs => hkeep s v te hs) (fun s v hs => hstay s v te hs)
        (fun s hs => hhit s te hs) ⟨h.win, h.slots, h.regs⟩
  exact ⟨List.mem_singleton.mp hend.win, hend.slots⟩

/-- Settles O4: each event acts on its own window alone, and on one that is not ARMED it does nothing or sets START_MISSED, whatever came before
it; the end of a transition keeps START_MISSED, and an accepted ARM clears it. -/
theorem startEventsOutsideArmed : Obligations.StartEventsOutsideArmed := by
  unfold Obligations.StartEventsOutsideArmed
  refine ⟨?_, ?_, ?_⟩
  · intro s dt te w a he hs ht hw
    refine ⟨fun hm htr => ⟨_, rfl, State.deliverStarts_win he hs ht hw fun s t h => ?_⟩,
      fun x htr hc h0 => ⟨_, rfl, State.deliverStarts_win he hs ht hw fun s t h => ?_⟩⟩
    · have hwin : s.win w = a.win w := (List.mem_cons.mp h).elim id List.mem_singleton.mp
      have hmd : s.md w = a.md w := congrArg Win.md hwin
      rw [State.startEvent_none (by rw [State.mode, hmd]; exact hm) (by rw [hmd]; exact htr), hwin]
    · rcases List.mem_cons.mp h with hwin | hwin
      · have hmd : s.md w = a.md w := congrArg Win.md hwin
        rw [State.startEvent_missed (x := x) (by rw [hmd]; exact htr) hc h0, hwin, hmd]
      · rw [List.mem_singleton] at hwin
        have hmd : s.md w = { a.md w with startMissed := true } := congrArg Win.md hwin
        rw [State.startEvent_missed (x := x) (by rw [hmd]; exact htr) hc h0, hwin, hmd]
  · intro s dt w x a htr hsm hc htgt h0 hcan hh hsup
    obtain ⟨hmode, -, -, -, hmissed⟩ := State.transitionDone_arrives htr h0 hcan hh (.inr hsup)
    exact ⟨_, rfl, hmode.trans htgt, hmissed.trans hsm⟩
  · intro s dt w tag reads a ht hf hn hw hm hlc htr hchk hk hr
    obtain ⟨oversub, static, hv⟩ := (a.armRead w reads).armAccept_view w tag reads (a.armCheck w reads.entries)
    have he := State.cmdArm_accepts hf hw (State.lcBars_of hlc htr) hm hchk hk hr tag
    exact ⟨_, congrArg Host.Outcome.next ((State.modeArrive_now ht hn ..).trans he), congrArg (·.md.startMissed) hv⟩

end Sys2Proof.Machine

namespace Sys2Proof.Machine

/-! ### Bursts: load, start, begin, end (O8) -/

theorem State.pl_startRun (s : State) (w te : Nat) : (s.startRun w te).pl w = { s.pl w with
    begun := false, nextT := (te + 255) / 256 * 256 + 65536 + 256 * bits (s.wreg w 1 0x044) 8 16 } := by
  simp only [State.startRun, State.modPl, State.pl_modWin, State.modMd, State.win_modWin, ↓reduceIte]
  rfl

theorem State.view_startRun (s : State) (w te : Nat) :
    (s.startRun w te).view w = { s.view w with md := { s.md w with mode := .run, startAt := some te } } := by
  unfold State.startRun
  rw [State.view_modPl, State.view_modMd]
  rfl

/-- START takes an ARMED window to RUN, its first vector at GT_first (R48, R101). -/
theorem State.cmdStart_runs {s : State} {w : Nat} (hf : s.modeFree w = true) (hw : w < 128) (hm : s.mode w = .armed) (tag : Byte) :
    let t := s.cmdStart w tag
    t.mode w = .run ∧ Finished s t w 6 tag 1 0 ∧
      (t.pl w).nextT = (s.t + 255) / 256 * 256 + 65536 + 256 * bits (s.wreg w 1 0x044) 8 16 ∧ (t.pl w).begun = false ∧
      ∀ v, v ≠ w → t.win v = s.win v := by
  have he : s.cmdStart w tag = (s.modeDone w 6 tag 1 0).startRun w s.t := by
    unfold State.cmdStart
    rw [State.modeGate_idle hf, if_neg (by omega), if_neg (by simp [hm])]
  rw [he]
  have hv := (s.modeDone w 6 tag 1 0).view_startRun w s.t
  have hpl := (s.modeDone w 6 tag 1 0).pl_startRun w s.t
  refine ⟨congrArg (·.md.mode) hv, (State.modeDone_finished (.refl s w) 6 tag 1 0).of_view hv ⟨rfl, rfl, rfl⟩, congrArg (·.nextT) hpl,
    congrArg (·.begun) hpl, fun v hne => ?_⟩
  rw [((s.modeDone w 6 tag 1 0).startRun_onlyWin w s.t).2 v hne, State.modeDone, State.win_bumpSeq, State.modMd, State.win_modWin,
    if_neg (Ne.symm hne)]

/-! The burst begins. -/

/-- Of the windows, window `w` alone has changed since `s`, and not in its mode, its sequencer or its play. -/
structure KeepsPlay (s t : State) (w : Nat) : Prop where
  md : t.md w = s.md w
  sq : t.sq w = s.sq w
  pl : t.pl w = s.pl w
  others : ∀ v, v ≠ w → t.win v = s.win v

theorem KeepsPlay.refl (s : State) (w : Nat) : KeepsPlay s s w := ⟨rfl, rfl, rfl, fun _ _ => rfl⟩

theorem KeepsPlay.trans {s t u : State} {w : Nat} (h1 : KeepsPlay s t w) (h2 : KeepsPlay t u w) : KeepsPlay s u w :=
  ⟨h2.md.trans h1.md, h2.sq.trans h1.sq, h2.pl.trans h1.pl, fun v hv => (h2.others v hv).trans (h1.others v hv)⟩

theorem KeepsPlay.of_calm {s t : State} (h : t.calm = s.calm) (w : Nat) : KeepsPlay s t w :=
  ⟨congrArg (·.md w) h, congrArg (·.sq w) h, congrArg (·.pl w) h, fun v _ => State.win_at_of_calm h v⟩

theorem State.modSt_keepsPlay (s : State) (w : Nat) (f : StpSt → StpSt) : KeepsPlay s (s.modSt w f) w := by
  refine ⟨?_, ?_, ?_, fun v hv => (s.win_modWin ..).trans (if_neg (Ne.symm hv))⟩ <;>
    simp only [State.modSt, State.md_modWin, State.sq_modWin, State.pl_modWin, ↓reduceIte] <;> rfl

theorem State.modEn_keepsPlay (s : State) (w : Nat) (f : EngSt → EngSt) : KeepsPlay s (s.modEn w f) w := by
  refine ⟨?_, ?_, ?_, fun v hv => (s.win_modWin ..).trans (if_neg (Ne.symm hv))⟩ <;>
    simp only [State.modEn, State.md_modWin, State.sq_modWin, State.pl_modWin, ↓reduceIte] <;> rfl

theorem State.stampArmAt_keepsPlay (s : State) (w t cause : Nat) : KeepsPlay s (s.stampArmAt w t cause) w := by
  unfold State.stampArmAt
  extract_lets x src
  split
  · exact .refl s w
  · split
    · exact (s.modSt_keepsPlay w _).trans (.of_calm (State.calm_raiseCh ..) w)
    · split
      · exact (s.modSt_keepsPlay w _).trans (.of_calm (State.calm_raiseCh ..) w)
      · exact (s.modSt_keepsPlay w _).trans (.of_calm (State.calm_raiseAt ..) w)

theorem State.engHit_keepsPlay (s : State) (w state t : Nat) : KeepsPlay s (s.engHit w state t) w := by
  unfold State.engHit
  extract_lets cfg src
  split
  · exact .of_calm (State.calm_raiseAt ..) w
  · exact .refl s w

theorem State.engStart_keepsPlay (s : State) (w t : Nat) : KeepsPlay s (s.engStart w t) w := by
  unfold State.engStart
  extract_lets init src
  have h1 := s.modEn_keepsPlay w fun e => { e with
    running := true, state := init, cnt := [], flags := 0, tmr := s.autoTimer w init (nextSample t) [], ins := insFrom t e.ins, transitions := 0 }
  generalize s.modEn w _ = s1 at h1 ⊢
  exact (h1.trans (.of_calm (State.calm_raiseAt ..) w)).trans (State.engHit_keepsPlay ..)

/-- The burst begins when its first vector is due: it counts, takes GT_first, and plays from the start of its first segment (R101). -/
theorem State.burstBegin_due {s : State} {w : Nat} (hm : s.mode w = .run) (hb : (s.pl w).begun = false) (ht : (s.pl w).nextT ≤ s.t) :
    ((s.burstBegin w).pl w).begun = true ∧ ((s.burstBegin w).pl w).gtFirst = (s.pl w).nextT ∧
      ((s.burstBegin w).pl w).bursts = (s.pl w).bursts + 1 ∧ ((s.burstBegin w).pl w).vectors = 0 ∧
      ((s.burstBegin w).sq w).play = 1 ∧ ((s.burstBegin w).sq w).ofs = 0 ∧ (s.burstBegin w).mode w = .run ∧
      ∀ v, v ≠ w → (s.burstBegin w).win v = s.win v := by
  unfold State.burstBegin
  extract_lets p d e t s1 s2 s3 s4 s5
  rw [if_neg (by simp [State.running, hm, p, hb, ht])]
  have h3 : KeepsPlay s2 s3 w := .of_calm (State.calm_raiseAt ..) w
  have h4 : KeepsPlay s3 s4 w := by
    dsimp only [s4]
    split
    · exact s3.stampArmAt_keepsPlay ..
    · exact .refl s3 w
  have h5 : KeepsPlay s4 s5 w := by
    dsimp only [s5]
    split
    · exact s4.engStart_keepsPlay ..
    · exact .refl s4 w
  have h6 : KeepsPlay s5 (s5.engOccur w 0xD 0 0 t 2048) w := s5.modEn_keepsPlay w _
  obtain ⟨hmd, hsq, hpl, hother⟩ := ((h3.trans h4).trans h5).trans h6
  have hmd2 : s2.md w = s.md w := by
    simp only [s2, s1, State.modSq, State.modPl, State.md_modWin, State.win_modWin, ↓reduceIte]
    rfl
  have hpl2 : s2.pl w = s1.pl w := by
    simp only [s2, State.modSq, State.pl_modWin, ↓reduceIte]
    rfl
  have hpl1 : s1.pl w = { s.pl w with
      begun := true, lastT := t, decT := t, t64 := t, entry := e, n := 0, entry0 := e, n0 := 0, period := (periodOf (s.activeView w) e 0),
      vectors := 0, remembered := (s.md w).static, etRef := 0, gtFirst := t, bursts := (s.pl w).bursts + 1, burstValid := true } := by
    simp only [s1, State.modPl, State.pl_modWin, ↓reduceIte]
    rfl
  have hsq2 : s2.sq w = { s1.sq w with
      play := 1, ofs := 0, playId := (s1.sq w).playId + 1, playFail := false, stack := [], markDue := 1,
      decided := none, stopMark := none, invalid := none, landing := if dKind d = 8 then 1 else 0 } := by
    simp only [s2, State.modSq, State.sq_modWin, ↓reduceIte]
    rfl
  have hp := (hpl.trans hpl2).trans hpl1
  have hq := hsq.trans hsq2
  refine ⟨congrArg (·.begun) hp, congrArg (·.gtFirst) hp, congrArg (·.bursts) hp, congrArg (·.vectors) hp, congrArg (·.play) hq,
    congrArg (·.ofs) hq, (congrArg (·.mode) (hmd.trans hmd2)).trans hm, fun v hv => (hother v hv).trans ?_⟩
  simp only [s2, s1, State.modSq, State.modPl, State.win_modWin, if_neg (Ne.symm hv)]

/-! The burst ends. -/

/-- A burst outside a hold, once begun, ends in READY with its cause and its last drive state, its program dropped (R44, R48, R103). -/
theorem State.view_endBurst {s : State} {w : Nat} (hh : (s.ho w).on = false) (hb : (s.pl w).begun = true) (t cause : Nat) :
    (s.endBurst w t cause).view w = { s.view w with
      md := { s.md w with static := (s.pl w).remembered, mode := .ready, startAt := none, endCause := cause }, loaded := false, cur := 0 } := by
  unfold State.endBurst
  extract_lets h s0 s0' s1 s2 s3 s4
  have h1 : s1.view w = { s.view w with md := { s.md w with static := (s.pl w).remembered } } := by
    dsimp only [s1, s0', s0, h]
    rw [if_pos hb, hh, if_neg Bool.false_ne_true, State.view_setStatic, State.view_settle, State.view_jumpDue]
    rfl
  clear_value s1
  have h4 : s4.view w = s3.view w := by
    dsimp only [s4]
    rw [State.view_engOccur]
    split
    · exact s3.view_stampDisarmAt ..
    · rfl
  clear_value s4
  rw [State.view_finishCapture, State.view_flushStreams, h4]
  dsimp only [s3, s2]
  rw [State.view_modPl, State.view_dropProgram, State.view_modMd, h1]

/-- The landing's last vector ends the burst (R48, R49, R103). -/
theorem State.view_landEnd {s : State} {w : Nat} (hm : s.mode w = .run) (hb : (s.pl w).begun = true) (hh : (s.ho w).on = false)
    (hofs : (s.sq w).ofs = (s.sq w).playEnd) (hd : (s.sq w).decided = some .finish) (ht : (s.pl w).nextT ≤ s.t) :
    (s.landEnd w).view w = { s.view w with
      md := { s.md w with
        static := (s.pl w).remembered, mode := .ready, startAt := none, endCause := if (s.sq w).landing = 2 then 2 else 1 }
      loaded := false, cur := 0 } := by
  unfold State.landEnd
  extract_lets q t s1
  rw [if_neg (by simp [State.running, hm, hb, hh, q, hofs, hd, t, ht]), State.view_raiseAt]
  exact (State.view_applyStage ..).trans (State.view_endBurst hh hb ..)

/-! The obligation. -/

/-- Settles O8: the burst an accepted ARM loads is read off its state, START and the first vector write the play, and the burst's end is that of its
last vector. -/
theorem burstsAreLoadedAndPlayed : Obligations.BurstsAreLoadedAndPlayed := by
  refine ⟨?_, ?_, ?_, ?_⟩
  · intro s dt w tag rd a htk hf hn hw hm hlc hst hc hk hr
    have hu := a.unread_armRead w rd
    have he := State.cmdArm_accepts hf hw (State.lcBars_of hlc hst) hm hc hk hr tag
    obtain ⟨oversub, static, hv⟩ := (a.armRead w rd).armAccept_view w tag rd (a.armCheck w rd.entries)
    have hview := State.view_of_unread hu w
    have hdesc : ∀ e, (a.armRead w rd).desc w e = a.desc w e := fun e => congrArg (·.desc w e) hu
    have hwreg : (a.armRead w rd).wreg w 1 0x040 = a.wreg w 1 0x040 := congrArg (·.wreg w 1 0x040) hu
    have hmd : (a.armRead w rd).md w = a.md w := congrArg (·.md w) hu
    rw [hdesc, hdesc, hdesc, hwreg, hmd, hview] at hv
    refine ⟨_, _, congrArg Host.Outcome.next ((State.modeArrive_now htk hn ..).trans he), congrArg (·.md.trans) hv, rfl, rfl, rfl, ?_,
      (congrArg (·.md.mode) hv).trans hm, congrArg (·.loaded) hv, congrArg (·.cur) hv, congrArg (·.hold0) hv, congrArg (·.land1) hv,
      congrArg (·.out) hv, congrArg (·.held) hv⟩
    exact congrArg (·.t) hu
  · intro s dt w tag a htk hf hn hw hm
    exact ⟨_, congrArg Host.Outcome.next (State.modeArrive_now htk hn ..), State.cmdStart_runs hf hw hm tag⟩
  · intro s dt w a hm hb ht
    exact ⟨_, rfl, State.burstBegin_due hm hb ht⟩
  · intro s dt w a hm hb hh hofs hd ht
    have hv := State.view_landEnd hm hb hh hofs hd ht
    exact ⟨_, rfl, congrArg (·.md.mode) hv, congrArg (·.md.endCause) hv, congrArg (·.loaded) hv, congrArg (·.md.static) hv⟩

end Sys2Proof.Machine

namespace Sys2Proof.Machine

/-! ### Mode commands begin, are refused, stop and cancel (O7) -/

/-- A mode command that is judged now, with nothing before it, acts as its code names it. -/
theorem exec_modeInstr_now {s : State} {dt : Nat} {w : WinId} (h : (s.advance dt).takesMode w = true) (hn : (s.advance dt).noneFirst w = true)
    {code : Nat} (h0 : code ≠ 0) (h16 : code < 16) (tag : Byte) (check cal : BitVec 16) (rd : ArmReads) :
    exec (modeInstr dt w code tag check cal rd) s = .next ((s.advance dt).modeCmd w code tag check cal rd) := by
  rw [exec_modeInstr h h0 h16, State.arriveFirst_none hn]

/-- Every mode command goes through its window's arbiter. -/
theorem exec_modeInstr_arrives (s : State) (dt : Nat) (w : WinId) {code : Nat} (h0 : 0 < code) (h9 : code < 9) (tag : Byte) (check cal : BitVec 16)
    (rd : ArmReads) : ∃ i act, exec (modeInstr dt w code tag check cal rd) s = .next ((s.advance dt).modeArrive w code tag i act) := by
  interval_cases code <;> exact ⟨_, _, rfl⟩

theorem State.modeArrive_notServiceable {s : State} (hp : s.dev.regPhase = false) (hb : s.dev.bringup ≠ 5) (w cmd : Nat) (tag : Byte) (i : Instr)
    (act : State → State) : s.modeArrive w cmd tag i act = s.modeRefuse w cmd tag 3 := by
  unfold State.modeArrive State.modeWrite
  rw [if_neg (by simp [hp]), if_pos hb]

theorem State.modeArrive_held {s : State} {w : Nat} (hp : s.dev.regPhase = false) (hb : s.dev.bringup = 5) (hc : s.committing = false)
    (hh : s.modeHeld w = true) (cmd : Nat) (tag : Byte) (i : Instr) (act : State → State) :
    s.modeArrive w cmd tag i act = s.modeRefuse w cmd tag 2 := by
  unfold State.modeArrive State.modeWrite
  rw [if_neg (by simp [hp]), if_neg (by simp [hb]), if_neg (by simp [hc]), if_pos hh]

theorem State.modeGate_busy {s : State} {w : Nat} (h : s.modeFree w = false) (cmd : Nat) (tag : Byte) (act : State → State) :
    s.modeGate w cmd tag act = s.modeRefuse w cmd tag 2 := by
  unfold State.modeGate
  refine if_pos ?_
  cases ht : (s.md w).trans with
  | some x => rfl
  | none => simpa [State.modeFree, ht] using h

theorem State.trans_of_modeFree {s : State} {w : Nat} (h : s.modeFree w = true) : (s.md w).trans = none := by
  simp only [State.modeFree, Bool.and_eq_true, Option.isNone_iff_eq_none] at h
  exact h.1

theorem State.mode_of_armedRun {s : State} {w : Nat} (h : s.armedRun w = true) : s.mode w = .armed ∨ s.mode w = .run := by
  simpa [State.armedRun] using h

/-! Transitions begin. -/

/-- A transition begins, whatever its preparation has done to the drive. -/
theorem State.modeStart_began {a s : State} {w : Nat} (h : (s.view w).bare = (a.view w).bare) (cmd : Nat) (tag : Byte) (target : Mode) :
    Began a (s.modeStart w cmd tag target false false) w cmd tag target := by
  have hv := s.view_modeStart w cmd tag target false false
  have ht : s.t = a.t := congrArg (·.t) h
  refine ⟨(congrArg (·.md.trans) hv).trans ?_, (congrArg (·.md.mode) hv).trans (congrArg (·.md.mode) h), congrArg (·.md.res.valid) hv,
    (congrArg (·.md.res.seq) hv).trans (congrArg (·.md.res.seq) h)⟩
  rw [← ht]
  rfl

theorem State.contactHot_quiet (s : State) (w : Nat) {check : BitVec 16} (h : check.toInt.natAbs ≤ 48) :
    ((s.quiet w).recordCheck w check).contactHot w check = false := by
  have hd : (((s.quiet w).recordCheck w check).slot (s.slotOf w)).drvEn = false := by
    simp [State.quiet, State.recordCheck, State.modPm]
  have hp : (((s.quiet w).recordCheck w check).pm w).active = 0 := by
    show ((s.quiet w).pm w).active = 0
    simp [State.quiet, State.modPm]
  have hk : ((s.quiet w).recordCheck w check).slotOf w = s.slotOf w := rfl
  unfold State.contactHot
  rw [hk, hd, hp]
  simpa using h

theorem State.cmdPowerOff_begins {s : State} {w : Nat} (hf : s.modeFree w = true) {check : BitVec 16}
    (h : s.mode w = .parked ∨ s.mode w = .service ∧ s.calHot w check = false) (tag : Byte) : Began s (s.cmdPowerOff w tag check) w 1 tag .off := by
  unfold State.cmdPowerOff
  rw [State.modeGate_idle hf]
  rcases h with hm | ⟨hm, hc⟩ <;> rw [hm]
  · exact State.modeStart_began (by simp) ..
  · dsimp only
    rw [hc]
    exact State.modeStart_began (by simp) ..

theorem State.cmdPark_begins {s : State} {w : Nat} (hf : s.modeFree w = true) {check : BitVec 16}
    (h : s.mode w = .off ∧ (s.clu (cluOf w)).afeState = 2 ∨ s.mode w = .ready ∧ check.toInt.natAbs ≤ 48 ∨
      s.mode w = .service ∧ s.calHot w check = false) (tag : Byte) : Began s (s.cmdPark w tag check) w 2 tag .parked := by
  unfold State.cmdPark
  rw [State.modeGate_idle hf]
  rcases h with ⟨hm, ha⟩ | ⟨hm, hc⟩ | ⟨hm, hc⟩ <;> rw [hm] <;> dsimp only
  · rw [if_neg (by simp [ha])]
    exact State.modeStart_began rfl ..
  · rw [s.contactHot_quiet w hc]
    exact State.modeStart_began (by simp) ..
  · rw [hc]
    exact State.modeStart_began (by simp) ..

theorem State.cmdConnect_begins {s : State} {w : Nat} (hf : s.modeFree w = true) (hw : w < 128) (hl : s.lcBars = false)
    (hm : s.mode w = .parked ∨ s.mode w = .service) (hs : s.spareTaken w = false) {check cal : BitVec 16} (hcal : s.calHot w cal = false)
    (hcon : s.contactHot w (s.closeDrop w check) = false) (tag : Byte) : Began s (s.cmdConnect w tag check cal) w 3 tag .ready := by
  unfold State.cmdConnect
  rw [State.modeGate_idle hf, if_neg (by omega), if_neg (by simp [hl])]
  rcases hm with hm | hm
  all_goals
    rw [hm]
    dsimp only
    rw [if_neg (by simp [hs]), hcal, hcon]
    exact State.modeStart_began (by simp) ..

theorem State.cmdService_begins {s : State} {w : Nat} (hf : s.modeFree w = true) {check : BitVec 16}
    (h : s.mode w = .parked ∨ s.mode w = .ready ∧ check.toInt.natAbs ≤ 48) (tag : Byte) : Began s (s.cmdService w tag check) w 8 tag .service := by
  unfold State.cmdService
  rw [State.modeGate_idle hf]
  rcases h with hm | ⟨hm, hc⟩ <;> rw [hm] <;> dsimp only
  · exact State.modeStart_began rfl ..
  · rw [s.contactHot_quiet w hc]
    exact State.modeStart_began (by simp) ..

theorem State.cmdDisarm_idle {s : State} {w : Nat} (hf : s.modeFree w = true) (tag : Byte) : s.cmdDisarm w tag = s.stopOrDisarm w 5 s.t tag := by
  unfold State.cmdDisarm
  rw [State.trans_of_modeFree hf]
  exact State.modeGate_idle hf ..

theorem State.cmdStop_idle {s : State} {w : Nat} (hf : s.modeFree w = true) (t : Nat) (tag : Byte) :
    s.cmdStop w t tag = s.stopOrDisarm w 7 t tag := State.modeGate_idle hf ..

theorem State.stopOrDisarm_armed {s : State} {w : Nat} (hm : s.mode w = .armed) (cmd : Nat) (tag : Byte) :
    Began s (s.stopOrDisarm w cmd s.t tag) w cmd tag .ready := by
  have h := State.modeStart_began (a := s) (s := s) (w := w) rfl cmd tag .ready
  have hv := (s.modeStart w cmd tag .ready false false).view_modMd w fun m => { m with trans := m.trans.map fun x => { x with at_ := s.t } }
  obtain ⟨htrans, hmode, hvalid, hseq⟩ := h
  unfold State.stopOrDisarm
  rw [hm]
  refine ⟨(congrArg (·.md.trans) hv).trans ?_, (congrArg (·.md.mode) hv).trans hmode, (congrArg (·.md.res.valid) hv).trans hvalid,
    (congrArg (·.md.res.seq) hv).trans hseq⟩
  exact congrArg (Option.map fun x => { x with at_ := s.t }) htrans

theorem State.stopOrDisarm_ready {s : State} {w : Nat} (hm : s.mode w = .ready) (cmd t : Nat) (tag : Byte) :
    Finished s (s.stopOrDisarm w cmd t tag) w cmd tag 1 0 ∧ (s.stopOrDisarm w cmd t tag).mode w = .ready := by
  unfold State.stopOrDisarm
  rw [hm]
  exact ⟨State.modeDone_finished (.refl s w) .., (congrArg (·.md.mode) (s.view_modeDone ..)).trans hm⟩

/-! Refusals. -/

section
variable {s : State} {w : Nat} (hf : s.modeFree w = true)
include hf

theorem State.cmdPowerOff_refuses (hm : s.mode w = .ready ∨ s.armedRun w = true) (tag : Byte) (check : BitVec 16) :
    s.cmdPowerOff w tag check = s.modeRefuse w 1 tag 1 := by
  unfold State.cmdPowerOff
  rw [State.modeGate_idle hf]
  rcases hm with hm | hm
  · rw [hm]
  · rcases State.mode_of_armedRun hm with hm | hm <;> rw [hm]

theorem State.cmdPark_refuses (hm : s.armedRun w = true) (tag : Byte) (check : BitVec 16) : s.cmdPark w tag check = s.modeRefuse w 2 tag 1 := by
  unfold State.cmdPark
  rw [State.modeGate_idle hf]
  rcases State.mode_of_armedRun hm with hm | hm <;> rw [hm]

theorem State.cmdPark_afeOff (hm : s.mode w = .off) (ha : (s.clu (cluOf w)).afeState ≠ 2) (tag : Byte) (check : BitVec 16) :
    s.cmdPark w tag check = s.modeRefuse w 2 tag 4 := by
  unfold State.cmdPark
  rw [State.modeGate_idle hf, hm]
  exact if_pos ha

theorem State.cmdService_refuses (hm : s.mode w = .off ∨ s.armedRun w = true) (tag : Byte) (check : BitVec 16) :
    s.cmdService w tag check = s.modeRefuse w 8 tag 1 := by
  unfold State.cmdService
  rw [State.modeGate_idle hf]
  rcases hm with hm | hm
  · rw [hm]
  · rcases State.mode_of_armedRun hm with hm | hm <;> rw [hm]

theorem State.cmdConnect_spare (hw : 128 ≤ w) (tag : Byte) (check cal : BitVec 16) : s.cmdConnect w tag check cal = s.modeRefuse w 3 tag 10 := by
  unfold State.cmdConnect
  rw [State.modeGate_idle hf, if_pos hw]

theorem State.cmdConnect_lifeCycle (hw : w < 128) (hl : s.lcBars = true) (tag : Byte) (check cal : BitVec 16) :
    s.cmdConnect w tag check cal = s.modeRefuse w 3 tag 7 := by
  unfold State.cmdConnect
  rw [State.modeGate_idle hf, if_neg (by omega), if_pos hl]

theorem State.cmdConnect_refuses (hw : w < 128) (hl : s.lcBars = false) (hm : s.mode w = .off ∨ s.armedRun w = true) (tag : Byte)
    (check cal : BitVec 16) : s.cmdConnect w tag check cal = s.modeRefuse w 3 tag 1 := by
  unfold State.cmdConnect
  rw [State.modeGate_idle hf, if_neg (by omega), if_neg (by simp [hl])]
  rcases hm with hm | hm
  · rw [hm]
  · rcases State.mode_of_armedRun hm with hm | hm <;> rw [hm]

theorem State.cmdConnect_spareTaken (hw : w < 128) (hl : s.lcBars = false) (hm : s.mode w = .parked ∨ s.mode w = .service)
    (hs : s.spareTaken w = true) (tag : Byte) (check cal : BitVec 16) : s.cmdConnect w tag check cal = s.modeRefuse w 3 tag 6 := by
  unfold State.cmdConnect
  rw [State.modeGate_idle hf, if_neg (by omega), if_neg (by simp [hl])]
  rcases hm with hm | hm <;> rw [hm] <;> exact if_pos hs

theorem State.cmdArm_spare (hw : 128 ≤ w) (tag : Byte) (rd : ArmReads) : s.cmdArm w tag rd = s.modeRefuse w 4 tag 10 := by
  unfold State.cmdArm
  rw [State.modeGate_idle hf, if_pos hw]

theorem State.cmdArm_lifeCycle (hw : w < 128) (hl : s.lcBars = true) (tag : Byte) (rd : ArmReads) : s.cmdArm w tag rd = s.modeRefuse w 4 tag 7 := by
  unfold State.cmdArm
  rw [State.modeGate_idle hf, if_neg (by omega), if_pos hl]

theorem State.cmdArm_illegal (hw : w < 128) (hl : s.lcBars = false) (hm : s.mode w ≠ .ready) (tag : Byte) (rd : ArmReads) :
    s.cmdArm w tag rd = s.modeRefuse w 4 tag 1 := by
  unfold State.cmdArm
  rw [State.modeGate_idle hf, if_neg (by omega), if_neg (by simp [hl]), if_pos hm]

theorem State.cmdStart_spare (hw : 128 ≤ w) (tag : Byte) : s.cmdStart w tag = s.modeRefuse w 6 tag 10 := by
  unfold State.cmdStart
  rw [State.modeGate_idle hf, if_pos hw]

theorem State.cmdStart_illegal (hw : w < 128) (hm : s.mode w ≠ .armed) (tag : Byte) : s.cmdStart w tag = s.modeRefuse w 6 tag 1 := by
  unfold State.cmdStart
  rw [State.modeGate_idle hf, if_neg (by omega), if_pos hm]

end

theorem State.cmdDisarm_busy {s : State} {w : Nat} (hf : s.modeFree w = false)
    (hx : ∀ x, (s.md w).trans = some x → x.cmd = 4 → x.swOp ≠ 0) (tag : Byte) : s.cmdDisarm w tag = s.modeRefuse w 5 tag 2 := by
  unfold State.cmdDisarm
  split
  · next x ht => exact if_neg (by simpa using hx x ht)
  · exact State.modeGate_busy hf ..

/-! An ARM that its check, a key or the reference refuses. -/

theorem State.sq_of_calm {s t : State} (h : t.calm = s.calm) (v : Nat) : t.sq v = s.sq v := congrArg (·.sq v) h

theorem State.sq_modPl (s : State) (w : Nat) (f : PlaySt → PlaySt) (v : Nat) : (s.modPl w f).sq v = s.sq v := by
  simp only [State.modPl, State.sq_modWin]
  split <;> simp_all [State.sq]

theorem State.sq_modMd (s : State) (w : Nat) (f : ModeSt → ModeSt) (v : Nat) : (s.modMd w f).sq v = s.sq v := by
  simp only [State.modMd, State.sq_modWin]
  split <;> simp_all [State.sq]

theorem State.sq_modeDone (s : State) (w cmd : Nat) (tag : Byte) (outcome reason v : Nat) : (s.modeDone w cmd tag outcome reason).sq v = s.sq v :=
  (congrArg Win.sq (State.win_bumpSeq ..)).trans (s.sq_modMd ..)

/-- A refusal of window `w` since `a`, whose view and sequencer have stayed. -/
theorem State.modeRefuse_since {a s : State} {w : Nat} (hv : s.view w = a.view w) (hq : s.sq w = a.sq w) (cmd : Nat) (tag : Byte) (reason : Nat) :
    let t := s.modeRefuse w cmd tag reason
    t.mode w = a.mode w ∧ (t.md w).trans = (a.md w).trans ∧ t.sq w = a.sq w ∧ Finished a t w cmd tag 2 reason := by
  have h := s.view_modeRefuse w cmd tag reason
  have hd : (s.modeRefuse w cmd tag reason).view w = (s.modeDone w cmd tag 2 reason).view w := State.view_raiseCh ..
  have hres : SameResult a s w := ⟨congrArg (·.md.res.seq) hv, congrArg (·.seqNo) hv⟩
  refine ⟨(congrArg (·.md.mode) h).trans (congrArg (·.md.mode) hv), (congrArg (·.md.trans) h).trans (congrArg (·.md.trans) hv), Eq.trans ?_ hq,
    (State.modeDone_finished hres cmd tag 2 reason).of_view (m := ((s.modeDone w cmd tag 2 reason).view w).md) hd ⟨rfl, rfl, rfl⟩⟩
  exact (State.sq_of_calm (State.calm_raiseCh ..) w).trans (s.sq_modeDone ..)

theorem State.sq_perr (s : State) (w code : Nat) (sh : Shelf) (t v : Nat) : (s.perr w code sh t).sq v = s.sq v :=
  (State.sq_of_calm (State.calm_raiseSeg ..) v).trans ((congrArg Win.sq (State.win_bumpSeq ..)).trans (s.sq_modPl ..))

/-- The reason of a refused ARM in READY (R50, R53). -/
theorem State.cmdArm_refused {s : State} {w : Nat} (hf : s.modeFree w = true) (hw : w < 128) (hl : s.lcBars = false) (hm : s.mode w = .ready)
    {rd : ArmReads} (h : (s.armCheck w rd.entries).fault.isSome = true ∨ (∃ k ∈ (s.armCheck w rd.entries).keys, s.keyOf k = none) ∨
      s.ref.locked = false) (tag : Byte) : ∃ u : State, u.view w = s.view w ∧ u.sq w = s.sq w ∧ s.cmdArm w tag rd = u.modeRefuse w 4 tag
        (if (s.armCheck w rd.entries).fault.isSome then 8 else if ∃ k ∈ (s.armCheck w rd.entries).keys, s.keyOf k = none then 12 else 9) := by
  have hu := s.unread_armRead w rd
  have hv := State.view_of_unread hu w
  have hq : (s.armRead w rd).sq w = s.sq w := congrArg (·.sq w) hu
  have hr : (s.armRead w rd).ref = s.ref := congrArg (·.ref) hu
  have hkeys : ((s.armCheck w rd.entries).keys.any fun k => ((s.armRead w rd).keyOf k).isNone) = true ↔
      ∃ k ∈ (s.armCheck w rd.entries).keys, s.keyOf k = none := by
    simp [State.keyOf_of_unread hu]
  rw [State.cmdArm_ready hf hw hl hm]
  cases hc : (s.armCheck w rd.entries).fault with
  | some c =>
    obtain ⟨code, sh⟩ := c
    exact ⟨_, ((s.armRead w rd).view_perr ..).trans hv, ((s.armRead w rd).sq_perr ..).trans hq, rfl⟩
  | none =>
    refine ⟨s.armRead w rd, hv, hq, ?_⟩
    dsimp only
    by_cases hk : ∃ k ∈ (s.armCheck w rd.entries).keys, s.keyOf k = none
    · rw [if_pos (hkeys.mpr hk), if_neg (by simp), if_pos hk]
    · have hlock : s.ref.locked = false := by simpa [hc, hk] using h
      rw [if_neg (mt hkeys.mp hk), if_pos (by simp [hr, hlock]), if_neg (by simp), if_neg hk]

/-! Stops in RUN (R49). -/

theorem State.jumpDue_none {s : State} {w : Nat} (h : s.noJumpDue w = true) : s.jumpDue w = s := by
  unfold State.jumpDue
  refine if_pos (List.isEmpty_iff.mpr ?_)
  simpa [State.noJumpDue, List.filter_eq_nil_iff] using h

theorem SeqSt.markStop_eq (q : SeqSt) (o t : Nat) : ∃ mark decided, q.markStop o t = { q with stopMark := mark, decided := decided } := by
  unfold SeqSt.markStop
  repeat' split
  all_goals exact ⟨_, _, rfl⟩

theorem State.view_acceptStop (s : State) (w t : Nat) : (s.acceptStop w t).view w = s.view w := by
  unfold State.acceptStop
  extract_lets s0 q sel policy s1
  have h0 : s0.view w = s.view w := s.view_jumpDue ..
  have h1 : s1.view w = s0.view w := State.view_each _ _ fun s _ => s.view_jumpDrop ..
  split
  · exact h0
  · rw [State.view_fillIndicate, State.view_modSq, h1, h0]
    intro q
    dsimp only
    split
    · obtain ⟨mark, decided, h⟩ := SeqSt.markStop_eq { q with reqs := [], stop := some (policy, t) } (q.ofs - 1) t
      rw [h]
      exact ⟨rfl, rfl, rfl, rfl⟩
    · exact ⟨rfl, rfl, rfl, rfl⟩

theorem State.acceptStop_pending {s : State} {w : Nat} (hn : s.noJumpDue w = true) (h : (s.sq w).stop.isSome = true ∨ (s.sq w).landing ≠ 0) (t : Nat) :
    s.acceptStop w t = s := by
  unfold State.acceptStop
  rw [State.jumpDue_none hn]
  exact if_pos (by simpa using h)

theorem State.sq_modSl (s : State) (w : Nat) (f : SluSt → SluSt) (v : Nat) : (s.modSl w f).sq v = s.sq v := by
  simp only [State.modSl, State.sq_modWin]
  split <;> simp_all [State.sq]

/-- The first stop of a burst drops its pending requests and takes its policy (R49, R99). -/
theorem State.acceptStop_first {s : State} {w : Nat} (hn : s.noJumpDue w = true) (hs : (s.sq w).stop = none) (hl : (s.sq w).landing = 0) (t : Nat) :
    ((s.acceptStop w t).sq w).reqs = [] ∧ ∃ p, ((s.acceptStop w t).sq w).stop = some (p, t) ∧ (s.landChosen w = false →
      p = if bits (s.wreg w 1 0x044) 0 2 = 3 then 1 else bits (s.wreg w 1 0x044) 0 2) := by
  unfold State.acceptStop
  rw [State.jumpDue_none hn]
  extract_lets s0 q sel policy s1
  rw [if_neg (by simp [q, s0, hs, hl]), State.fillIndicate, State.sq_modSl, State.modSq, State.sq_modWin, if_pos rfl]
  have hp : s.landChosen w = false → policy = if sel = 3 then 1 else sel := fun h => if_neg (by simp [s0, h])
  dsimp only
  split
  · obtain ⟨mark, decided, h⟩ := SeqSt.markStop_eq { (s1.win w).sq with reqs := [], stop := some (policy, t) } ((s1.win w).sq.ofs - 1) t
    rw [h]
    exact ⟨rfl, policy, rfl, hp⟩
  · exact ⟨rfl, policy, rfl, hp⟩

theorem State.stopOrDisarm_run {s : State} {w : Nat} (hm : s.mode w = .run) (cmd t : Nat) (tag : Byte) :
    s.stopOrDisarm w cmd t tag = s.stopInRun w cmd t tag := by
  unfold State.stopOrDisarm
  rw [hm]

theorem State.sq_stopInRun (s : State) (w cmd t : Nat) (tag : Byte) (v : Nat) : (s.stopInRun w cmd t tag).sq v = (s.acceptStop w t).sq v :=
  (State.sq_modMd ..).trans (State.sq_modeDone ..)

/-- A stop in RUN finishes at once, with the window still in RUN (R49). -/
theorem State.stopInRun_finishes {s : State} {w : Nat} (hm : s.mode w = .run) (ht : (s.md w).trans = none) (cmd t : Nat) (tag : Byte) :
    let u := s.stopInRun w cmd t tag
    Finished s u w cmd tag 1 0 ∧ u.mode w = .run ∧ (u.md w).trans = none ∧ (u.md w).late = decide (cmd = 5) := by
  have hv := s.view_acceptStop w t
  generalize hs1 : s.acceptStop w t = s1 at hv
  have hd := s1.view_modeDone w cmd tag 1 0
  have hu : (s.stopInRun w cmd t tag).view w = { (s1.modeDone w cmd tag 1 0).view w with
      md := { (s1.modeDone w cmd tag 1 0).md w with late := decide (cmd = 5) } } := by
    rw [State.stopInRun, hs1, State.view_modMd]
    rfl
  refine ⟨(State.modeDone_finished ⟨congrArg (·.md.res.seq) hv, congrArg (·.seqNo) hv⟩ cmd tag 1 0).of_view hu ⟨rfl, rfl, rfl⟩, ?_, ?_,
    congrArg (·.md.late) hu⟩
  · exact (congrArg (·.md.mode) hu).trans ((congrArg (·.md.mode) hd).trans ((congrArg (·.md.mode) hv).trans hm))
  · exact (congrArg (·.md.trans) hu).trans ((congrArg (·.md.trans) hd).trans ((congrArg (·.md.trans) hv).trans ht))

/-! A DISARM cancels the ARM in transition (R46). -/

/-- The Sluice and the intake ring of window `w`. -/
def State.feed (s : State) (w : Nat) : SluSt × IntakeSt := (s.sl w, s.ik w)

theorem State.feed_of_calm {s t : State} (h : t.calm = s.calm) (v : Nat) : t.feed v = s.feed v := congrArg (·.feed v) h

theorem State.feed_modWin (s : State) (w : Nat) {f : Win → Win} (h : ((f (s.win w)).sl, (f (s.win w)).ik) = s.feed w) (v : Nat) :
    (s.modWin w f).feed v = s.feed v := by
  by_cases hv : w = v
  · subst hv
    simpa [State.feed] using h
  · simp [State.feed, hv]

@[simp] theorem State.feed_bumpSeq (s : State) (p v : Nat) : (s.bumpSeq p).feed v = s.feed v := rfl
@[simp] theorem State.feed_setStack (s : State) (m : List Host.Cell) (v : Nat) : (s.setStack m).feed v = s.feed v := rfl
@[simp] theorem State.feed_storeEntry (s : State) (w i : Nat) (e : BitVec 128) (v : Nat) : (s.storeEntry w i e).feed v = s.feed v :=
  s.feed_setStack ..
@[simp] theorem State.feed_modPl (s : State) (w : Nat) (f : PlaySt → PlaySt) (v : Nat) : (s.modPl w f).feed v = s.feed v := s.feed_modWin w rfl v
@[simp] theorem State.feed_modSq (s : State) (w : Nat) (f : SeqSt → SeqSt) (v : Nat) : (s.modSq w f).feed v = s.feed v := s.feed_modWin w rfl v
@[simp] theorem State.feed_modCp (s : State) (w : Nat) (f : CapSt → CapSt) (v : Nat) : (s.modCp w f).feed v = s.feed v := s.feed_modWin w rfl v
@[simp] theorem State.feed_modMd (s : State) (w : Nat) (f : ModeSt → ModeSt) (v : Nat) : (s.modMd w f).feed v = s.feed v := s.feed_modWin w rfl v

@[simp] theorem State.feed_modeDone (s : State) (w cmd : Nat) (tag : Byte) (outcome reason v : Nat) :
    (s.modeDone w cmd tag outcome reason).feed v = s.feed v := by
  rw [State.modeDone, State.feed_bumpSeq, State.feed_modMd]

theorem State.feed_finishCapture (s : State) (w v : Nat) : (s.finishCapture w).feed v = s.feed v := by
  unfold State.finishCapture
  extract_lets c s1
  have h1 : s1.feed v = s.feed v := by
    dsimp only [s1]
    split <;> simp
  repeat' split
  all_goals simp [h1]

theorem State.feed_flushCapture (s : State) (w v : Nat) : (s.flushCapture w).feed v = s.feed v := by
  unfold State.flushCapture
  extract_lets s1 c
  split <;> simp [s1, State.feed_finishCapture]

theorem State.feed_jumpDrop (s : State) (w t v : Nat) : (s.jumpDrop w t).feed v = s.feed v :=
  (State.feed_of_calm (State.calm_raiseAt ..) v).trans (s.feed_modPl ..)

theorem State.feed_perr (s : State) (w code : Nat) (sh : Shelf) (t v : Nat) : (s.perr w code sh t).feed v = s.feed v := by
  refine (State.feed_of_calm (State.calm_raiseSeg ..) v).trans ?_
  simp

theorem State.feed_jumpArrive (s : State) (w k t v : Nat) : (s.jumpArrive w k t).feed v = s.feed v := by
  unfold State.jumpArrive
  extract_lets q
  split
  · rfl
  · split
    · exact s.feed_jumpDrop ..
    · split
      · exact (State.feed_of_calm (State.calm_raiseAt ..) v).trans (s.feed_perr ..)
      · split
        · exact s.feed_jumpDrop ..
        · exact s.feed_modSq ..

theorem State.feed_jumpDue (s : State) (w v : Nat) : (s.jumpDue w).feed v = s.feed v := by
  unfold State.jumpDue
  extract_lets due
  split
  · rfl
  · exact (State.each_proj (·.feed v) _ _ fun s r => s.feed_jumpArrive ..).trans (s.feed_modSq ..)

/-- A Sluice that has been emptied: its rings stay. -/
def SluSt.emptied (x : SluSt) : SluSt :=
  { x with bufs := [], chain := [], more := [], filled := false, held := false, streamFirst := false }

theorem State.feed_emptySluice (s : State) (w : Nat) : (s.emptySluice w).feed w = ((s.feed w).1.emptied, (s.feed w).2) := by
  simp only [State.feed, State.emptySluice, State.modSl, State.sl_modWin, State.ik_modWin, ↓reduceIte]
  rfl

/-- The burst of a cancelled ARM is gone, its Sluice empty, its ring kept (R46, R133). -/
theorem State.feed_cancelArm (s : State) (w : Nat) (armTag tag : Byte) : (s.cancelArm w armTag tag).feed w = ((s.sl w).emptied, s.ik w) := by
  have h : ((s.jumpDue w).dropProgram w).feed w = s.feed w := (State.feed_modSq ..).trans (s.feed_jumpDue w w)
  unfold State.cancelArm
  extract_lets s1
  rw [State.feed_modMd, State.feed_modeDone]
  dsimp only [s1]
  rw [State.feed_modeDone, State.feed_modMd, State.feed_flushCapture, State.feed_emptySluice, h]
  rfl

theorem State.view_cancelArm (s : State) (w : Nat) (armTag tag : Byte) : (s.cancelArm w armTag tag).view w = { s.view w with
    md := { (({ s.md w with trans := none } : ModeSt).finished 4 armTag 4 0).finished 5 tag 1 0 with cancelled := true }
    seqNo := Tab.get 0 s.pgSeq (winPage w 0) + 1 + 1, loaded := false, cur := 0 } := by
  unfold State.cancelArm
  extract_lets s1
  have h1 : s1.view w = { s.view w with
      md := ({ s.md w with trans := none } : ModeSt).finished 4 armTag 4 0, seqNo := Tab.get 0 s.pgSeq (winPage w 0) + 1, loaded := false, cur := 0 } := by
    dsimp only [s1]
    rw [State.view_modeDone, State.view_modMd, State.view_flushCapture, State.view_emptySluice, State.view_dropProgram, State.view_jumpDue]
    rfl
  clear_value s1
  rw [State.view_modMd, State.view_modeDone, h1]

theorem State.cmdDisarm_cancels {s : State} {w : Nat} {x : Trans} (ht : (s.md w).trans = some x) (hx : x.cmd = 4) (h0 : x.swOp = 0) (tag : Byte) :
    s.cmdDisarm w tag = s.cancelArm w x.tag tag := by
  unfold State.cmdDisarm
  rw [ht]
  exact if_pos (by simp [hx, h0])

/-- A cancelled ARM leaves the window in READY, with two results posted and nothing of its burst (R46). -/
theorem State.cancelArm_cancels {s : State} {w : Nat} (hm : s.mode w = .ready) (armTag tag : Byte) : let t := s.cancelArm w armTag tag
    t.mode w = .ready ∧ (t.md w).trans = none ∧ (t.md w).static = (s.md w).static ∧ (t.md w).cmd = 5 ∧ (t.md w).tag = tag ∧
      (t.md w).res.outcome = 1 ∧ (t.md w).res.reason = 0 ∧ (t.md w).cancelled = true ∧ (t.md w).oversub = false ∧
      (t.md w).res.seq = (s.md w).res.seq + 2 ∧ Tab.get 0 t.pgSeq (winPage w 0) = Tab.get 0 s.pgSeq (winPage w 0) + 2 ∧
      (t.sq w).loaded = false ∧ (t.sl w).bufs = [] ∧ (t.sl w).held = false ∧ t.ik w = s.ik w := by
  have hv := s.view_cancelArm w armTag tag
  have hfeed := s.feed_cancelArm w armTag tag
  generalize s.cancelArm w armTag tag = t at hv hfeed
  refine ⟨(congrArg (·.md.mode) hv).trans hm, congrArg (·.md.trans) hv, congrArg (·.md.static) hv, congrArg (·.md.cmd) hv,
    congrArg (·.md.tag) hv, congrArg (·.md.res.outcome) hv, congrArg (·.md.res.reason) hv, congrArg (·.md.cancelled) hv,
    congrArg (·.md.oversub) hv, congrArg (·.md.res.seq) hv,
    (congrArg (·.seqNo) hv).trans (BitVec.add_assoc (Tab.get 0 s.pgSeq (winPage w 0)) 1 1), congrArg (·.loaded) hv,
    congrArg (·.1.bufs) hfeed, congrArg (·.1.held) hfeed, congrArg (·.2) hfeed⟩

/-! The obligation. -/

section
variable {s : State} {dt : Nat} {w : WinId} {l : List Nat} {tag : Byte} {check cal : BitVec 16} {rd : ArmReads} {reason : Nat}

/-- Commands that are refused with one reason. -/
theorem refused_of_exec (h : ∀ c ∈ l, exec (modeInstr dt w c tag check cal rd) s = .next ((s.advance dt).modeRefuse w c tag reason)) :
    ∀ e ∈ l.map fun c => (modeInstr dt w c tag check cal rd, c), ∃ t, exec e.1 s = .next t ∧ Refused (s.advance dt) t w e.2 tag reason :=
  List.forall_mem_map.mpr fun c hc => ⟨_, h c hc, State.modeRefuse_refused _ w.isLt ..⟩

/-- Commands that their arbiter refuses with one reason. -/
theorem refused_of_arrive (hl : ∀ c ∈ l, 0 < c ∧ c < 9)
    (h : ∀ c i act, (s.advance dt).modeArrive w c tag i act = (s.advance dt).modeRefuse w c tag reason) :
    ∀ e ∈ l.map fun c => (modeInstr dt w c tag check cal rd, c), ∃ t, exec e.1 s = .next t ∧ Refused (s.advance dt) t w e.2 tag reason := by
  refine refused_of_exec fun c hc => ?_
  obtain ⟨i, act, he⟩ := exec_modeInstr_arrives s dt w (hl c hc).1 (hl c hc).2 tag check cal rd
  exact he.trans (congrArg _ (h c i act))

/-- Commands that are judged and refused with one reason. -/
theorem refused_of_modeCmd (ht : (s.advance dt).takesMode w = true) (hn : (s.advance dt).noneFirst w = true) (hl : ∀ c ∈ l, 0 < c ∧ c < 9)
    (h : ∀ c ∈ l, (s.advance dt).modeCmd w c tag check cal rd = (s.advance dt).modeRefuse w c tag reason) :
    ∀ e ∈ l.map fun c => (modeInstr dt w c tag check cal rd, c), ∃ t, exec e.1 s = .next t ∧ Refused (s.advance dt) t w e.2 tag reason :=
  refused_of_exec fun c hc => by
    obtain ⟨h0, h9⟩ := hl c hc
    rw [exec_modeInstr_now ht hn (by omega) (by omega), h c hc]

end

/-- Every command but DISARM is refused with BUSY in a transition or an exchange (R45). -/
theorem State.modeCmd_busy {s : State} {w : Nat} (hf : s.modeFree w = false) (tag : Byte) (check cal : BitVec 16) (rd : ArmReads) :
    ∀ c ∈ [1, 2, 3, 4, 6, 7, 8], s.modeCmd w c tag check cal rd = s.modeRefuse w c tag 2 := by
  simp only [List.forall_mem_cons, List.not_mem_nil, IsEmpty.forall_iff, implies_true, and_self, State.modeCmd, State.cmdPowerOff, State.cmdPark,
    State.cmdConnect, State.cmdArm, State.cmdStart, State.cmdStop, State.cmdService, State.modeGate_busy hf]

/-- Settles O7: what a command does to the drive before its transition is invisible to the view that names its result, a refusal's effect is one
lemma, and the Sluice, the ring and the sequencer of a stop or a cancel are followed apart. -/
theorem modeCommandsBegin : Obligations.ModeCommandsBegin := by
  refine ⟨?_, ?_, ?_⟩
  · intro s dt w tag check cal a htk hf hn
    have he := fun (code : Nat) (h0 : code ≠ 0) (h16 : code < 16) => exec_modeInstr_now htk hn h0 h16 tag check cal {}
    refine ⟨fun h => ⟨_, he 1 (by decide) (by decide), State.cmdPowerOff_begins hf h tag⟩,
      fun h => ⟨_, he 2 (by decide) (by decide), State.cmdPark_begins hf h tag⟩,
      fun h hw hlc hst hs hcal hcon => ⟨_, he 3 (by decide) (by decide), State.cmdConnect_begins hf hw (State.lcBars_of hlc hst) h hs hcal hcon tag⟩,
      fun h => ⟨_, he 8 (by decide) (by decide), State.cmdService_begins hf h tag⟩, fun h => ?_, fun h => ?_⟩
    · have hb := fun cmd => State.stopOrDisarm_armed h cmd tag
      exact ⟨⟨_, (he 5 (by decide) (by decide)).trans (congrArg _ (State.cmdDisarm_idle hf tag)), hb 5⟩,
        ⟨_, (he 7 (by decide) (by decide)).trans (congrArg _ (State.cmdStop_idle hf a.t tag)), hb 7⟩⟩
    · have hb := fun cmd => State.stopOrDisarm_ready h cmd a.t tag
      exact ⟨⟨_, (he 5 (by decide) (by decide)).trans (congrArg _ (State.cmdDisarm_idle hf tag)), hb 5⟩,
        ⟨_, (he 7 (by decide) (by decide)).trans (congrArg _ (State.cmdStop_idle hf a.t tag)), hb 7⟩⟩
  · intro s dt w tag check cal rd a off park connect arm disarm start stop service refused
    refine ⟨fun hp hb => ?_, fun hp hb hc hh => ?_, fun htk hn hf => ⟨?_, fun hx => ?_⟩, fun htk hn hf => ?_⟩
    · exact refused_of_arrive (l := [1, 2, 3, 4, 5, 6, 7, 8]) (by decide) fun c => State.modeArrive_notServiceable hp hb w c tag
    · exact refused_of_arrive (l := [1, 2, 3, 4, 5, 6, 7, 8]) (by decide) fun c => State.modeArrive_held hp hb hc hh c tag
    · exact refused_of_modeCmd htk hn (by decide) (State.modeCmd_busy hf tag check cal rd)
    · exact refused_of_modeCmd (check := check) (cal := cal) (rd := rd) htk hn (l := [5]) (by decide) (List.forall_mem_singleton.mpr (State.cmdDisarm_busy hf hx tag))
    have one : ∀ {c reason}, 0 < c ∧ c < 9 → a.modeCmd w c tag check cal rd = a.modeRefuse w c tag reason →
        refused [(modeInstr dt w c tag check cal rd, c)] reason := fun hc h =>
      refused_of_modeCmd htk hn (List.forall_mem_singleton.mpr hc) (List.forall_mem_singleton.mpr h)
    have cons : ∀ {e l reason}, refused [e] reason → refused l reason → refused (e :: l) reason := fun he hl =>
      List.forall_mem_cons.mpr ⟨he _ (List.mem_singleton_self _), hl⟩
    refine ⟨fun hm => one (c := 8) (by decide) (State.cmdService_refuses hf (.inl hm) ..),
      fun hm => one (c := 1) (by decide) (State.cmdPowerOff_refuses hf (.inl hm) ..),
      fun hm => cons (one (c := 1) (by decide) (State.cmdPowerOff_refuses hf (.inr hm) ..))
        (cons (one (c := 2) (by decide) (State.cmdPark_refuses hf hm ..)) (one (c := 8) (by decide) (State.cmdService_refuses hf (.inr hm) ..))),
      fun hm ha => one (c := 2) (by decide) (State.cmdPark_afeOff hf hm ha ..),
      fun hw => cons (one (c := 3) (by decide) (State.cmdConnect_spare hf hw ..))
        (cons (one (c := 4) (by decide) (State.cmdArm_spare hf hw ..)) (one (c := 6) (by decide) (State.cmdStart_spare hf hw ..))),
      fun hw hm => one (c := 6) (by decide) (State.cmdStart_illegal hf hw hm ..),
      fun hw hl => cons (one (c := 3) (by decide) (State.cmdConnect_lifeCycle hf hw hl ..))
        (one (c := 4) (by decide) (State.cmdArm_lifeCycle hf hw hl ..)), fun hw hl => ?_⟩
    refine ⟨fun hm => one (c := 3) (by decide) (State.cmdConnect_refuses hf hw hl hm ..),
      fun hm => one (c := 4) (by decide) (State.cmdArm_illegal hf hw hl hm ..),
      fun hm hs => one (c := 3) (by decide) (State.cmdConnect_spareTaken hf hw hl hm hs ..), fun hm => ?_⟩
    intro chk h
    obtain ⟨u, hv, hq, he⟩ := State.cmdArm_refused hf hw hl hm h tag
    obtain ⟨hmode, htrans, hsq, hfin⟩ := State.modeRefuse_since hv hq 4 tag _
    exact ⟨_, (exec_modeInstr_now (code := 4) htk hn (by decide) (by decide) tag check cal rd).trans (congrArg _ he), hmode.trans hm,
      htrans.trans (State.trans_of_modeFree hf), hsq, hfin⟩
  · intro s dt w tag a policy htk hn
    have he := fun (code : Nat) (h0 : code ≠ 0) (h16 : code < 16) => exec_modeInstr_now htk hn h0 h16 tag 0 0 {}
    refine ⟨fun hf hm => ?_, fun x ht hx h0 hm => ?_⟩
    · have stops : ∀ cmd, let u := a.stopOrDisarm w cmd a.t tag
          Finished a u w cmd tag 1 0 ∧ u.mode w = .run ∧ (u.md w).trans = none ∧ (u.md w).late = decide (cmd = 5) ∧
          (a.noJumpDue w = true → (a.sq w).stop.isSome = true ∨ (a.sq w).landing ≠ 0 → u.sq w = a.sq w) ∧
          (a.noJumpDue w = true → (a.sq w).stop = none → (a.sq w).landing = 0 → (u.sq w).reqs = [] ∧
            ∃ p, (u.sq w).stop = some (p, a.t) ∧ (a.landChosen w = false → p = if policy = 3 then 1 else policy)) := fun cmd => by
        rw [State.stopOrDisarm_run hm]
        obtain ⟨hfin, hmode, htrans, hlate⟩ := State.stopInRun_finishes hm (State.trans_of_modeFree hf) cmd a.t tag
        have hsq := a.sq_stopInRun w cmd a.t tag w
        refine ⟨hfin, hmode, htrans, hlate, fun hj hp => ?_, fun hj hs hl => ?_⟩
        · rw [hsq, State.acceptStop_pending hj hp]
        · rw [hsq]
          exact State.acceptStop_first hj hs hl a.t
      refine List.forall_mem_cons.mpr ⟨?_, List.forall_mem_singleton.mpr ?_⟩
      · exact ⟨_, (he 7 (by decide) (by decide)).trans (congrArg _ (State.cmdStop_idle hf a.t tag)), stops 7⟩
      · exact ⟨_, (he 5 (by decide) (by decide)).trans (congrArg _ (State.cmdDisarm_idle hf tag)), stops 5⟩
    · exact ⟨_, (he 5 (by decide) (by decide)).trans (congrArg _ (State.cmdDisarm_cancels ht hx h0 tag)), State.cancelArm_cancels hm x.tag tag⟩

end Sys2Proof.Machine

namespace Sys2Proof.Machine

/-! ### BAR 2 writes (O36) -/

/-- A host write of any kind that takes effect now is its action. -/
theorem State.hostHeldWrite_takes {s : State} {p : Nat} (h : s.takes p = true) (x : Held) (act : State → State) :
    s.hostHeldWrite p x act = act s := by
  simp only [State.takes, Bool.and_eq_true, Bool.not_eq_true', decide_eq_true_eq] at h
  obtain ⟨⟨⟨h1, h2⟩, h3⟩, h4⟩ := h
  simp [State.hostHeldWrite, h1, h2, h3, h4]

/-- What the part has stored and sent: the stacks, the working store and the traffic. -/
structure Stored where
  stackMem : List Host.Cell
  wsMem : List Host.Cell
  out : List Out

def State.stored (s : State) : Stored where
  stackMem := s.stackMem
  wsMem := s.wsMem
  out := s.out

theorem State.stored_of_calm {s t : State} (h : s.calm = t.calm) : s.stored = t.stored := congrArg (·.stored) h
theorem State.stored_of_unread {s t : State} (h : s.unread = t.unread) : s.stored = t.stored := congrArg (·.stored) h

@[simp] theorem State.stored_modPl (s : State) (w : Nat) (f : PlaySt → PlaySt) : (s.modPl w f).stored = s.stored := rfl
@[simp] theorem State.stored_modCp (s : State) (w : Nat) (f : CapSt → CapSt) : (s.modCp w f).stored = s.stored := rfl
@[simp] theorem State.stored_raiseCh (s : State) (w i code native : Nat) : (s.raiseCh w i code native).stored = s.stored :=
  State.stored_of_calm (State.calm_raiseCh ..)
@[simp] theorem State.stored_raiseDev (s : State) (p i code native : Nat) : (s.raiseDev p i code native).stored = s.stored :=
  State.stored_of_calm (State.calm_raiseDev ..)

theorem State.stored_refreshRing (s : State) (w : Nat) : (s.refreshRing w).stored = s.stored := rfl

theorem State.stored_rmwStack (s : State) (l : List (Nat × Ecc)) : (s.rmwStack l).stored = s.stored :=
  State.each_proj State.stored _ _ fun s _ => State.stored_of_unread (s.unread_eccStack ..)

/-! What a write does at the pins that it touches (R111, R209, R265). -/

theorem State.stored_pinDrop (s : State) (w a n : Nat) : (s.pinDrop w a n).2.stored = s.stored := by
  unfold State.pinDrop
  extract_lets p
  have hp : p.2.stored = s.stored := by
    dsimp only [p]
    split <;> simp
  split
  · simp [hp]
  · exact hp

/-- No active segment and no guarded region of the pin: the write goes through there, and nothing is reported. -/
theorem State.pinDrop_none {s : State} {w a n : Nat} (hr : s.activeReason w a n = none) (hg : s.guarded w a n = false) :
    s.pinDrop w a n = (false, s) := by
  simp [State.pinDrop, hr, hg]

/-- One more pin of those that a write touches is asked whether it drops the write. -/
def dropAlso (a n : Nat) (p : Bool × State) (w : Nat) : Bool × State :=
  let q := p.2.pinDrop w a n
  (p.1 || q.1, q.2)

/-- A write that is dropped already stays dropped, and asking the pins stores and sends nothing. -/
theorem foldl_dropAlso (a n : Nat) (l : List Nat) (p : Bool × State) :
    (l.foldl (dropAlso a n) p).2.stored = p.2.stored ∧ (p.1 = true → (l.foldl (dropAlso a n) p).1 = true) := by
  induction l generalizing p with
  | nil => exact ⟨rfl, id⟩
  | cons w l ih =>
    obtain ⟨hs, hd⟩ := ih (dropAlso a n p w)
    exact ⟨hs.trans (p.2.stored_pinDrop ..), fun h => hd (by simp [dropAlso, h])⟩

theorem foldl_dropAlso_none {s : State} {a n : Nat} {l : List Nat} (h : ∀ w ∈ l, s.activeReason w a n = none ∧ s.guarded w a n = false) :
    l.foldl (dropAlso a n) (false, s) = (false, s) := by
  induction l with
  | nil => rfl
  | cons w l ih =>
    obtain ⟨⟨hr, hg⟩, hl⟩ := List.forall_mem_cons.mp h
    rw [List.foldl_cons, dropAlso, State.pinDrop_none hr hg]
    exact ih hl

/-! The write itself. -/

/-- The region where a write begins or ends is closed to BAR 2, or a granule there is tagged (R77, R267). -/
def State.bar2Shut (s : State) (a n : Nat) : Bool :=
  noWrite (regionOf a) || noWrite (regionOf (a + n - 1)) || s.tagged a || s.tagged (a + n - 1)

/-- Whether a write's regions and pins drop it, with what is reported. -/
def State.bar2Drop (s : State) (a n : Nat) : Bool × State :=
  (pinsTouched a n).foldl (dropAlso a n) (s.bar2Shut a n, if s.bar2Shut a n then s.raiseDev 8 3 3 0 else s)

theorem State.stored_bar2Drop (s : State) (a n : Nat) : (s.bar2Drop a n).2.stored = s.stored := by
  refine (foldl_dropAlso ..).1.trans ?_
  dsimp only
  split <;> simp

/-- A write to stacks that are ACTIVE, by whether a region or a pin drops it and whether a partial word does. -/
theorem State.bar2Store_on {s : State} {base off : Nat} {data : List Byte} (h : s.stacksOn (base + off) data.length = true) (ecc : PartReads) :
    s.bar2Store base off data ecc =
      if (s.bar2Drop (base + off) data.length).1 then (s.bar2Drop (base + off) data.length).2
      else if rmwBad (rmwReads (base + off) data.length ecc) then s.rmwStack (rmwReads (base + off) data.length ecc)
      else ((s.setStack (Memory.store s.stackMem (base + off) data)).each (pinsTouched (base + off) data.length) fun s w =>
        s.refreshRing w).rmwStack (rmwReads (base + off) data.length ecc) := by
  unfold State.bar2Store
  extract_lets n a
  rw [if_neg (by simp [a, n, h])]
  rfl

/-- A shut region and a partial word that cannot be corrected each drop the write whole (R77, R267, R271). -/
theorem State.bar2Store_drops {s : State} {base off : Nat} {data : List Byte} {ecc : PartReads}
    (hon : s.stacksOn (base + off) data.length = true)
    (h : rmwBad (rmwReads (base + off) data.length ecc) = true ∨ s.bar2Shut (base + off) data.length = true) :
    (s.bar2Store base off data ecc).stored = s.stored := by
  rw [State.bar2Store_on hon]
  split
  · exact s.stored_bar2Drop ..
  · next hp =>
    have hbad := h.resolve_right fun hshut => hp ((foldl_dropAlso ..).2 hshut)
    rw [if_pos hbad]
    exact s.stored_rmwStack _

/-- A write that nothing drops lands whole. -/
theorem State.bar2Store_lands {s : State} {base off : Nat} {data : List Byte} {ecc : PartReads}
    (hon : s.stacksOn (base + off) data.length = true) (hbad : rmwBad (rmwReads (base + off) data.length ecc) = false)
    (hshut : s.bar2Shut (base + off) data.length = false)
    (hpins : ∀ w ∈ pinsTouched (base + off) data.length,
      s.activeReason w (base + off) data.length = none ∧ s.guarded w (base + off) data.length = false) :
    (s.bar2Store base off data ecc).stored = { s.stored with stackMem := Memory.store s.stackMem (base + off) data } := by
  have hp : s.bar2Drop (base + off) data.length = (false, s) := by
    rw [State.bar2Drop, hshut]
    exact foldl_dropAlso_none hpins
  rw [State.bar2Store_on hon, hp, if_neg Bool.false_ne_true, if_neg (ne_true_of_eq_false hbad), State.stored_rmwStack]
  exact State.each_proj State.stored _ _ fun s w => s.stored_refreshRing w

/-- A write that lies in BAR 2 goes through the window as it stands (R340). -/
theorem State.bar2Arrive_takes {s : State} {off : Nat} {data : List Byte} (ht : s.takes bar2Stream = true) (h0 : 0 < data.length)
    (hi : off + data.length ≤ s.bar2Bytes) (ecc : PartReads) : s.bar2Arrive off data ecc = s.bar2Store (s.bar2Addr 0) off data ecc := by
  unfold State.bar2Arrive
  extract_lets base
  rw [if_neg (by simp [State.inBar2, h0, hi]), State.hostHeldWrite_takes ht]

theorem State.bar2Addr_add (s : State) (off : Nat) : s.bar2Addr 0 + off = s.bar2Addr off := by
  simp only [State.bar2Addr, Nat.add_zero]

/-- Settles O36: a stack that does not serve is a miss; a shut region and a bad partial word drop the write; else it is one store of its bytes. -/
theorem bar2Writes : Obligations.Bar2Writes := by
  unfold Obligations.Bar2Writes
  intro s dt off data rd a x n ht h0 hi
  have harr := State.bar2Arrive_takes ht h0 hi rd
  have hx : a.bar2Addr 0 + off.toNat = x := a.bar2Addr_add off.toNat
  refine ⟨fun hoff => ?_, fun hon hbad hnw hnw' htag htag' hpins => ?_, fun hon h => ?_⟩
  · have hmiss : a.bar2Store (a.bar2Addr 0) off.toNat data rd = a.stackMiss := if_pos (by rw [hx]; simp [n, hoff])
    exact ⟨a.stackMiss, congrArg Host.Outcome.next (harr.trans hmiss), rfl, rfl⟩
  · have hshut : a.bar2Shut x n = false := by simp [State.bar2Shut, hnw, hnw', htag, htag']
    have hland := State.bar2Store_lands (hx ▸ hon) (hx ▸ hbad) (hx ▸ hshut) (hx ▸ hpins)
    rw [hx] at hland
    have hstk := congrArg Stored.stackMem hland
    refine ⟨_, congrArg Host.Outcome.next harr, ?_, fun y hy => ?_, congrArg Stored.wsMem hland, congrArg Stored.out hland⟩
    · exact (congrArg (Memory.load · x n) hstk).trans (Memory.load_store ..)
    · refine (congrArg (Memory.read · y) hstk).trans ?_
      rcases hy with hy | hy
      · exact Memory.read_store_below _ _ _ _ hy
      · exact Memory.read_store_above _ _ _ _ hy
  · have hdrop : rmwBad (rmwReads x n rd) = true ∨ a.bar2Shut x n = true :=
      h.imp_right fun h => by rcases h with h | h <;> simp [State.bar2Shut, h]
    have hst := State.bar2Store_drops (hx ▸ hon) (hx ▸ hdrop)
    exact ⟨_, congrArg Host.Outcome.next harr, congrArg Stored.stackMem hst, congrArg Stored.wsMem hst, congrArg Stored.out hst⟩

end Sys2Proof.Machine

namespace Sys2Proof.Machine

/-! ### What the sequencer's reads touch (R83, R95, R96) -/

/-! Tables keyed by role. -/

@[simp] theorem roleGet_roleSet_self {α : Type} (r : Role) (a : α) (l : List (Role × α)) : roleGet r (roleSet r a l) = some a := if_pos rfl

theorem roleGet_roleDel_other {α : Type} {r k : Role} (h : k ≠ r) (l : List (Role × α)) : roleGet r (roleDel k l) = roleGet r l := by
  unfold roleDel
  induction l with
  | nil => rfl
  | cons x l ih =>
    by_cases hx : x.1 = k
    · rw [List.filter_cons_of_neg (by simp [hx]), ih]
      exact (if_neg (hx ▸ h)).symm
    · rw [List.filter_cons_of_pos (by simp [hx])]
      simp only [roleGet, ih]

theorem roleGet_roleSet_other {α : Type} {r k : Role} (h : k ≠ r) (a : α) (l : List (Role × α)) : roleGet r (roleSet k a l) = roleGet r l :=
  (if_neg h).trans (roleGet_roleDel_other h l)

/-! Updates of a window's parts. -/

theorem State.modSq_onlyWin (s : State) (w : Nat) (f : SeqSt → SeqSt) : OnlyWin s (s.modSq w f) w := s.modWin_onlyWin ..

theorem State.win_modSq_self (s : State) (w : Nat) (f : SeqSt → SeqSt) : (s.modSq w f).win w = { s.win w with sq := f (s.sq w) } :=
  (s.win_modWin ..).trans (if_pos rfl)

theorem State.win_modSl_self (s : State) (w : Nat) (f : SluSt → SluSt) : (s.modSl w f).win w = { s.win w with sl := f (s.sl w) } :=
  (s.win_modWin ..).trans (if_pos rfl)

theorem State.win_modPl_self (s : State) (w : Nat) (f : PlaySt → PlaySt) : (s.modPl w f).win w = { s.win w with pl := f (s.pl w) } :=
  (s.win_modWin ..).trans (if_pos rfl)

theorem State.sq_modSq_self (s : State) (w : Nat) (f : SeqSt → SeqSt) : (s.modSq w f).sq w = f (s.sq w) := congrArg Win.sq (s.win_modSq_self w f)
theorem State.sl_modSl_self (s : State) (w : Nat) (f : SluSt → SluSt) : (s.modSl w f).sl w = f (s.sl w) := congrArg Win.sl (s.win_modSl_self w f)
theorem State.pl_modPl_self (s : State) (w : Nat) (f : PlaySt → PlaySt) : (s.modPl w f).pl w = f (s.pl w) := congrArg Win.pl (s.win_modPl_self w f)

/-! Error correction that finds a word: no window sees it (R271). -/

theorem State.win_of_unread {s t : State} (h : s.unread = t.unread) (v : Nat) : s.win v = t.win v := congrArg (·.win v) h

theorem State.unread_of_calm {s t : State} (h : s.calm = t.calm) : s.unread = t.unread := congrArg (fun c : State => { c with mem := {} }) h

theorem State.unread_eccStackSeen (s : State) (e : Ecc) (x m : Nat) : (s.eccStackSeen e x m).unread = s.unread := by
  cases e with
  | clean => rfl
  | corrected => exact s.unread_eccStack ..
  | bad => exact s.unread_eccStack ..

theorem State.unread_badWords (s : State) (base step k : Nat) (bad : Word) : (s.badWords base step k bad).unread = s.unread := by
  refine State.each_proj State.unread _ _ fun s i => ?_
  split
  · exact s.unread_eccStack ..
  · rfl

theorem State.unread_readErrors (s : State) (w : Nat) (d : RawDesc) (x first k : Nat) (bad laneBad : Word) (c : Bool) :
    (s.readErrors w d x first k bad laneBad c).unread = s.unread := by
  unfold State.readErrors
  extract_lets s1
  have h1 : s1.unread = s.unread := (State.unread_badWords ..).trans (State.unread_badWords ..)
  split
  · exact (s1.unread_eccStack ..).trans h1
  · exact h1

theorem State.unread_touchBank (s : State) (b : Nat) : (s.touchBank b).unread = s.unread := by
  unfold State.touchBank
  split
  · rfl
  · exact (State.unread_of_calm (State.calm_raiseDev ..)).trans rfl

/-! Reads into the Sluice. -/

/-- Of the windows only the Sluice of window `w` has changed. -/
structure SluiceOnly (s t : State) (w : Nat) : Prop where
  win : { t.win w with sl := s.sl w } = s.win w
  others : ∀ v, v ≠ w → t.win v = s.win v

theorem SluiceOnly.refl (s : State) (w : Nat) : SluiceOnly s s w := ⟨rfl, fun _ _ => rfl⟩

theorem SluiceOnly.trans {s t u : State} {w : Nat} (h1 : SluiceOnly s t w) (h2 : SluiceOnly t u w) : SluiceOnly s u w :=
  ⟨(congrArg (fun x : Win => { x with sl := s.sl w }) h2.win).trans h1.win, fun v hv => (h2.others v hv).trans (h1.others v hv)⟩

theorem SluiceOnly.of_unread {s t : State} (h : t.unread = s.unread) (w : Nat) : SluiceOnly s t w :=
  ⟨congrArg (fun x : Win => { x with sl := s.sl w }) (State.win_of_unread h w), fun v _ => State.win_of_unread h v⟩

theorem State.modSl_sluiceOnly (s : State) (w : Nat) (f : SluSt → SluSt) : SluiceOnly s (s.modSl w f) w :=
  ⟨congrArg (fun x : Win => { x with sl := s.sl w }) (s.win_modSl_self w f), (s.modWin_onlyWin ..).2⟩

theorem SluiceOnly.sq {s t : State} {w : Nat} (h : SluiceOnly s t w) : t.sq w = s.sq w := (congrArg Win.sq h.win :)
theorem SluiceOnly.md {s t : State} {w : Nat} (h : SluiceOnly s t w) : t.md w = s.md w := (congrArg Win.md h.win :)

theorem State.pushSlices_sluiceOnly (s : State) (w : Nat) (r : Role) (n : Nat) (bad laneBad : Word) :
    SluiceOnly s (s.pushSlices w r n bad laneBad) w := by
  unfold State.pushSlices
  split
  · exact .of_unread (s.unread_touchBank _) w
  · extract_lets b at_ want k note ahead here got new new'
    split <;> exact s.modSl_sluiceOnly ..

theorem State.fillIndicate_sluiceOnly (s : State) (w : Nat) : SluiceOnly s (s.fillIndicate w) w := by
  unfold State.fillIndicate
  exact s.modSl_sluiceOnly ..
theorem State.stockIndicate_sluiceOnly (s : State) (w : Nat) : SluiceOnly s (s.stockIndicate w) w := by
  unfold State.stockIndicate
  exact s.modSl_sluiceOnly ..

theorem State.readInto_sluiceOnly (s : State) (w : Nat) (r : Role) (n : Nat) (bad laneBad : Word) (c : Bool) :
    SluiceOnly s (s.readInto w r n bad laneBad c) w := by
  unfold State.readInto
  extract_lets b first s1 b1 k d at_
  have h1 : SluiceOnly s s1 w := s.pushSlices_sluiceOnly ..
  have h2 : SluiceOnly s1 (s1.readErrors w d at_ first k bad laneBad c) w := .of_unread (State.unread_readErrors ..) w
  exact ((h1.trans h2).trans (State.fillIndicate_sluiceOnly ..)).trans (State.stockIndicate_sluiceOnly ..)

/-! The fetch of a role's descriptor, by what stands in its way. -/

section
variable {s : State} {w : Nat} {r : Role} {sh : Shelf}

theorem State.fetchRole_waits (h : s.stackOn (w / 64 % 2) = false ∨ s.roleShelf w r = none) (e : Ecc) : s.fetchRole w r e = s := by
  unfold State.fetchRole
  rcases h with h | h <;> simp [h]

theorem State.fetchRole_held (hon : s.stackOn (w / 64 % 2) = true) (hr : s.roleShelf w r = some sh)
    (hf : (roleGet r (s.sq w).fetched).isSome = true) (e : Ecc) :
    s.fetchRole w r e = if r = linkRole (s.sq w).cur then s.fetchChain w e else s := by
  unfold State.fetchRole
  rw [if_pos hon, hr]
  exact if_pos hf

theorem State.fetchRole_rejects {k : BitVec 2} (hon : s.stackOn (w / 64 % 2) = true) (hr : s.roleShelf w (.jump k) = some sh)
    (hf : roleGet (.jump k) (s.sq w).fetched = none) (hrej : s.slotRejected w sh = true) (e : Ecc) :
    s.fetchRole w (.jump k) e = s.rejectNow w k := by
  unfold State.fetchRole
  rw [if_pos hon, hr]
  dsimp only
  rw [if_neg (by simp [hf]), if_pos hrej]
  rfl

theorem State.fetchRole_fetches (hon : s.stackOn (w / 64 % 2) = true) (hr : s.roleShelf w r = some sh)
    (hf : roleGet r (s.sq w).fetched = none) (hrej : (∃ k, r = .jump k) → s.slotRejected w sh = false) (e : Ecc) :
    s.fetchRole w r e = (s.eccStackSeen e (catStore w + 64 * entryOf sh) 0).modSq w fun q =>
      { q with fetched := roleSet r (s.fetchDesc w sh (e ≠ .bad) (q.nextOfPlay r)) q.fetched } := by
  have hslot : (if s.slotRejected w sh then jumpSlot r else none) = none := by
    split
    · next hs =>
      cases r with
      | jump k => exact absurd hs (by simp [hrej ⟨k, rfl⟩])
      | _ => rfl
    · rfl
  unfold State.fetchRole
  rw [if_pos hon, hr]
  dsimp only
  rw [if_neg (by simp [hf]), hslot]

end

theorem State.win_rejectNow (s : State) (w : Nat) (k : BitVec 2) (v : Nat) :
    (s.rejectNow w k).win v = (s.modSq w fun q => { q with jrej := putBit q.jrej k.toNat true }).win v :=
  State.win_at_of_calm (State.calm_raiseCh ..) v

end Sys2Proof.Machine

namespace Sys2Proof.Machine

/-! ### Host flags, jump targets and jump requests (O11) -/

/-! Registers written alone. -/

theorem State.setReg_onlyReg (s : State) (x v : Nat) : OnlyReg s (s.setReg x v) x :=
  ⟨rfl, fun y hy => (s.reg_setReg x y v).trans (if_neg (Ne.symm hy))⟩

theorem State.reg_setReg_self (s : State) (x : Nat) {v : Nat} (hv : v < 2 ^ 64) : (s.setReg x v).reg x = v :=
  ((s.reg_setReg x x v).trans (if_pos rfl)).trans (Nat.mod_eq_of_lt hv)

theorem State.setHostFlags_stores (s : State) (w v : Nat) :
    (s.setHostFlags w v).reg (pageAddr (winPage w 1) 0x048) = v % 256 ∧ OnlyReg s (s.setHostFlags w v) (pageAddr (winPage w 1) 0x048) :=
  ⟨s.reg_setReg_self _ (by omega), s.setReg_onlyReg ..⟩

/-! SEQ.JUMP_TGT outside a burst (R98). -/

/-- SEQ.JUMP_TGT as it stores a written value: the shelfmark and EN. -/
def jumpWord (v : Nat) : Nat := bits v 0 20 + bits v 24 1 * 2 ^ 24

theorem jumpWord_lt (v : Nat) : jumpWord v < 2 ^ 64 := by
  unfold jumpWord bits
  omega

/-- The shelfmark of a stored jump target is the one written. -/
theorem ofNat_jumpWord (v : Nat) : BitVec.ofNat 20 (jumpWord v) = BitVec.ofNat 20 v := by
  refine BitVec.eq_of_toNat_eq ?_
  rw [BitVec.toNat_ofNat, BitVec.toNat_ofNat, jumpWord, bits]
  omega

/-- EN of a stored jump target is the one written. -/
theorem bit_jumpWord (v : Nat) : bit (jumpWord v) 24 = bit v 24 := by
  have h : bits (jumpWord v) 24 1 = bits v 24 1 := by
    simp only [bits, jumpWord]
    omega
  rw [bit, h, bit]

/-- With no choice taken there is nothing to keep (R89). -/
theorem State.keepChosen_undecided {s : State} {w : Nat} (h : (s.sq w).decided = none) (k : BitVec 2) (sh : Shelf) : s.keepChosen w k sh = s := by
  unfold State.keepChosen
  rw [h, if_neg (by simp)]

theorem State.writeJumpTgt_unloaded {s : State} {w : Nat} (hl : (s.sq w).loaded = false) (hd : (s.sq w).decided = none)
    (hn : s.noJumpDue w = true) (k v : Nat) : s.writeJumpTgt w k v = s.setReg (pageAddr (winPage w 1) (0x060 + 4 * k)) (jumpWord v) := by
  unfold State.writeJumpTgt
  rw [State.jumpDue_none hn, State.keepChosen_undecided hd]
  exact if_neg (by simp [hl])

/-! Requests (R97, R99). -/

theorem length_insertReq (r : JumpReq) (l : List JumpReq) : (insertReq r l).length = l.length + 1 := by
  induction l with
  | nil => rfl
  | cons x l ih =>
    unfold insertReq
    split <;> simp [ih]

theorem State.calm_raiseSeq (s : State) (w code t : Nat) : (s.raiseSeq w code t).calm = s.calm := State.calm_raiseSeg ..

/-- A dropped request is counted and reported, and nothing else (R99). -/
theorem State.jumpDrop_counts (s : State) (w t : Nat) : (s.jumpDrop w t).sq w = s.sq w ∧
    ((s.jumpDrop w t).pl w).jumpOvf = satInc 65535 (s.pl w).jumpOvf ∧ CalmWin s (s.jumpDrop w t) w := by
  unfold State.jumpDrop
  set s1 := s.modPl w fun p => { p with jumpOvf := satInc 65535 p.jumpOvf }
  have hc := s1.calm_raiseSeq w 4 t
  have hw (v : Nat) : (s1.raiseSeq w 4 t).win v = s1.win v := State.win_at_of_calm hc v
  refine ⟨(congrArg Win.sq (hw w)).trans (s.sq_modPl ..),
    (congrArg (·.pl.jumpOvf) (hw w)).trans (congrArg PlaySt.jumpOvf (s.pl_modPl_self ..)), ?_,
    fun v hv => (hw v).trans ((s.modWin_onlyWin ..).2 v hv)⟩
  rw [hc, State.wins_of_calm hc]
  rfl

/-- What SEQ.PERR holds of a program error that is reported (SEQ.PERR). -/
theorem State.perr_recorded (s : State) (w code : Nat) (sh : Shelf) (t : Nat) :
    ((s.perr w code sh t).pl w).perrCode = code ∧ ((s.perr w code sh t).pl w).perrShelf = sh := by
  unfold State.perr
  set s1 := s.modPl w fun p => { p with perrCode := code, perrCount := satInc 255 p.perrCount, perrShelf := sh, perrSeq := p.perrSeq + 1 } with hs1
  have hpl : (((s1.bumpSeq (winPage w 1)).raiseSeg w 1 2 2 sh t).pl w) = s1.pl w := congrArg (·.pl w) (State.calm_raiseSeg ..)
  rw [hpl, hs1, State.pl_modPl_self]
  exact ⟨rfl, rfl⟩

section
variable {s : State} {w : Nat}

theorem State.jumpRequest_now (h : s.noJumpDue w = true) (k : Nat) : s.jumpRequest w k s.t = s.jumpArrive w k s.t := by
  rw [State.jumpRequest, if_pos (Nat.le_refl _), State.jumpDue_none h]

theorem State.jumpArrive_unloaded (hl : (s.sq w).loaded = false) (k t : Nat) : s.jumpArrive w k t = s := if_pos (by simp [hl])

variable (hl : (s.sq w).loaded = true)
include hl

theorem State.jumpArrive_joins {k : Nat} (hs : (s.sq w).stop = none) (he : s.jumpEn w k = true) (hr : (s.sq w).jrej.getLsbD k = false)
    (hq : (s.sq w).reqs.length < 4) (t : Nat) :
    s.jumpArrive w k t = s.modSq w fun q => { q with reqs := insertReq { slot := BitVec.ofNat 2 k, at_ := t } q.reqs } := by
  simp [State.jumpArrive, hl, hs, he, hr, hq]

theorem State.jumpArrive_drops {k : Nat} (h : (s.sq w).stop ≠ none ∨ (s.jumpEn w k = true ∧ (s.sq w).jrej.getLsbD k = false ∧ 4 ≤ (s.sq w).reqs.length))
    (t : Nat) : s.jumpArrive w k t = s.jumpDrop w t := by
  by_cases hs : (s.sq w).stop = none
  · obtain ⟨he, hr, hq⟩ := h.resolve_left (not_not_intro hs)
    simp [State.jumpArrive, hl, hs, he, hr, hq]
  · simp [State.jumpArrive, hl, Option.isSome_iff_ne_none.mpr hs]

theorem State.jumpArrive_errs {k : Nat} (hs : (s.sq w).stop = none) (h : s.jumpEn w k = false ∨ (s.sq w).jrej.getLsbD k = true) (t : Nat) :
    s.jumpArrive w k t = (s.perr w 7 (s.jumpShelf w k) t).raiseSeq w 5 t := by
  rcases h with h | h <;> simp [State.jumpArrive, hl, hs, h]

end

/-! A slot's head (R98). -/

/-- Of window `w`, the mode, the requests that wait and the segment in play have stayed. -/
def SamePlay (s t : State) (w : Nat) : Prop := t.md w = s.md w ∧ (t.sq w).reqs = (s.sq w).reqs ∧ (t.sq w).cur = (s.sq w).cur

theorem SamePlay.refl (s : State) (w : Nat) : SamePlay s s w := ⟨rfl, rfl, rfl⟩

theorem SamePlay.trans {s t u : State} {w : Nat} (h1 : SamePlay s t w) (h2 : SamePlay t u w) : SamePlay s u w :=
  ⟨h2.1.trans h1.1, h2.2.1.trans h1.2.1, h2.2.2.trans h1.2.2⟩

theorem SamePlay.of_win {s t : State} {w : Nat} (h : t.win w = s.win w) : SamePlay s t w :=
  ⟨congrArg Win.md h, congrArg (·.sq.reqs) h, congrArg (·.sq.cur) h⟩

theorem SamePlay.of_sluiceOnly {s t : State} {w : Nat} (h : SluiceOnly s t w) : SamePlay s t w :=
  ⟨h.md, congrArg SeqSt.reqs h.sq, congrArg SeqSt.cur h.sq⟩

theorem State.modSq_samePlay (s : State) (w : Nat) {f : SeqSt → SeqSt} (hr : (f (s.sq w)).reqs = (s.sq w).reqs) (hc : (f (s.sq w)).cur = (s.sq w).cur) :
    SamePlay s (s.modSq w f) w := by
  have h := s.win_modSq_self w f
  exact ⟨(congrArg Win.md h :), (congrArg (·.sq.reqs) h).trans hr, (congrArg (·.sq.cur) h).trans hc⟩

/-- The fetch of a jump target's descriptor leaves the play as it is. -/
theorem State.fetchRole_samePlay (s : State) (w : Nat) (k : BitVec 2) (e : Ecc) : SamePlay s (s.fetchRole w (.jump k) e) w := by
  by_cases hon : s.stackOn (w / 64 % 2) = true
  · cases hr : s.roleShelf w (.jump k) with
    | none =>
      rw [State.fetchRole_waits (.inr hr)]
      exact .refl s w
    | some sh =>
      by_cases hf : (roleGet (.jump k) (s.sq w).fetched).isSome = true
      · have hlink : (Role.jump k) ≠ linkRole (s.sq w).cur := by
          unfold linkRole
          split <;> simp
        rw [State.fetchRole_held hon hr hf, if_neg hlink]
        exact .refl s w
      · have hf := Option.not_isSome_iff_eq_none.mp hf
        by_cases hrej : s.slotRejected w sh = true
        · rw [State.fetchRole_rejects hon hr hf hrej]
          exact (s.modSq_samePlay w rfl rfl).trans (.of_win (s.win_rejectNow ..))
        · rw [State.fetchRole_fetches hon hr hf fun _ => eq_false_of_ne_true hrej]
          exact SamePlay.trans (.of_win (State.win_of_unread (s.unread_eccStackSeen ..) w)) (State.modSq_samePlay _ w rfl rfl)
  · rw [State.fetchRole_waits (.inl (eq_false_of_ne_true hon))]
    exact .refl s w

theorem State.jumpHead_closed {s : State} {w : Nat} {k : BitVec 2} (h : s.slotOpen w k = false) (rd : JumpReads) : s.jumpHead w k rd = s :=
  if_neg (ne_true_of_eq_false h)

/-- The head of a jump target as it has arrived, READY not judged yet. -/
def State.jumpHeadRead (s : State) (w : Nat) (k : BitVec 2) (rd : JumpReads) : State := (s.fetchRole w (.jump k) rd.entry).loadHead w (.jump k) rd.head

theorem State.jumpHead_open {s : State} {w : Nat} {k : BitVec 2} (h : s.slotOpen w k = true) (rd : JumpReads) : s.jumpHead w k rd =
    (s.jumpHeadRead w k rd).modSq w fun q => { q with jready := putBit q.jready k.toNat ((s.jumpHeadRead w k rd).slotLoaded w k) } := if_pos h

theorem State.sq_jumpHeadRead (s : State) (w : Nat) (k : BitVec 2) (rd : JumpReads) :
    (s.jumpHeadRead w k rd).sq w = (s.fetchRole w (.jump k) rd.entry).sq w := (State.readInto_sluiceOnly ..).sq

/-- What a slot holds does not depend on READY. -/
theorem State.slotLoaded_modSq (s : State) (w : Nat) (k : BitVec 2) (b : BitVec 4) :
    (s.modSq w fun q => { q with jready := b }).slotLoaded w k = s.slotLoaded w k := by
  unfold State.slotLoaded
  simp only [State.modSq, State.sq_modWin, State.sl_modWin, ↓reduceIte]
  rfl

/-- READY of a slot that is looked for says whether its head is whole; the program in play goes on as it was (R98). -/
theorem State.jumpHead_open_keeps {s : State} {w : Nat} {k : BitVec 2} (h : s.slotOpen w k = true) (rd : JumpReads) : let t := s.jumpHead w k rd
    (t.sq w).jready.getLsbD k.toNat = t.slotLoaded w k ∧ (t.sq w).reqs = (s.sq w).reqs ∧ (t.sq w).cur = (s.sq w).cur ∧ t.mode w = s.mode w := by
  have hread : SamePlay s (s.jumpHeadRead w k rd) w := (s.fetchRole_samePlay w k rd.entry).trans (.of_sluiceOnly (State.readInto_sluiceOnly ..))
  rw [State.jumpHead_open h]
  generalize s.jumpHeadRead w k rd = s1 at hread
  obtain ⟨hmd, hreqs, hcur⟩ := hread.trans (s1.modSq_samePlay w (f := fun q => { q with jready := putBit q.jready k.toNat (s1.slotLoaded w k) }) rfl rfl)
  refine ⟨?_, hreqs, hcur, congrArg ModeSt.mode hmd⟩
  refine Eq.trans ?_ (s1.slotLoaded_modSq w k _).symm
  rw [State.sq_modSq_self]
  exact (getLsbD_putBit _ _ _ k.isLt).trans (if_pos rfl)

/-- A slot whose descriptor cannot be jumped to reads REJ, and nothing of it is READY (R98). -/
theorem State.jumpHead_rejects {s : State} {w : Nat} {k : BitVec 2} {sh : Shelf} (hr : s.roleShelf w (.jump k) = some sh)
    (hf : roleGet (.jump k) (s.sq w).fetched = none) (hrej : s.slotRejected w sh = true) (hon : s.stackOn (w / 64 % 2) = true) (rd : JumpReads) :
    ((s.jumpHead w k rd).sq w).jrej.getLsbD k.toNat = true ∧ ((s.jumpHead w k rd).sq w).jready.getLsbD k.toNat = false := by
  have hopen : s.slotOpen w k = true := by
    by_contra h
    simp [State.roleShelf, h] at hr
  have hq : (s.jumpHeadRead w k rd).sq w = { s.sq w with jrej := putBit (s.sq w).jrej k.toNat true } :=
    by
    rw [State.sq_jumpHeadRead, State.fetchRole_rejects hon hr hf hrej, State.sq_eq, State.win_rejectNow]
    exact s.sq_modSq_self ..
  rw [(State.jumpHead_open_keeps hopen rd).1]
  rw [State.jumpHead_open hopen, State.sq_modSq_self]
  constructor
  · exact (congrArg (·.jrej.getLsbD k.toNat) hq).trans ((getLsbD_putBit _ _ _ k.isLt).trans (if_pos rfl))
  · rw [State.slotLoaded, State.sq_modSq_self, hq]
    dsimp only
    rw [hf]

/-- Settles O11: each write is one register or one queue operation, and a slot's head is a fetch followed by a read that touches the Sluice alone. -/
theorem flagsTargetsAndJumpRequests : Obligations.FlagsTargetsAndJumpRequests := by
  unfold Obligations.FlagsTargetsAndJumpRequests
  refine ⟨fun s dt w => ?_, fun s dt w => ?_⟩
  · intro a r ht
    have hex (i : Instr) (act : State → State) : Host.Outcome.next (a.hostWrite (winPage w 1) i act) = (.next (act a) : Host.Outcome State Fault Refusal) :=
      congrArg Host.Outcome.next (State.hostWrite_takes ht i act)
    refine ⟨fun val => ⟨_, hex .., ?_⟩, fun val => ⟨_, hex .., a.setHostFlags_stores ..⟩, fun val => ⟨_, hex .., a.setHostFlags_stores ..⟩,
      fun k val hl hd hn => ⟨_, hex .., ?_⟩⟩
    · have h := a.setHostFlags_stores w val.toNat
      rwa [Nat.mod_eq_of_lt val.isLt] at h
    · rw [State.writeJumpTgt_unloaded hl hd hn]
      have hreg : (a.setReg (pageAddr (winPage w 1) (0x060 + 4 * k.toNat)) (jumpWord val.toNat)).wreg w 1 (0x060 + 4 * k.toNat) = jumpWord val.toNat :=
        a.reg_setReg_self _ (jumpWord_lt _)
      exact ⟨(congrArg (BitVec.ofNat 20) hreg).trans (ofNat_jumpWord _), (congrArg (bit · 24) hreg).trans (bit_jumpWord _), a.setReg_onlyReg ..⟩
  · intro a
    refine ⟨fun ht hn => ?_, fun k reads => ?_⟩
    · have hreq (slot : BitVec 2) : exec (.jumpReq dt w slot) s = .next (a.jumpArrive w slot.toNat a.t) :=
        congrArg Host.Outcome.next ((State.hostWrite_takes ht ..).trans (State.jumpRequest_now hn _))
      refine ⟨fun slot hl hs he hr hq => ?_, fun slot hl h => ?_, fun slot hl hs h => ?_, fun slot hl => ?_, ?_⟩
      · refine ⟨_, (hreq slot).trans (congrArg _ (State.jumpArrive_joins hl hs he hr hq a.t)), ?_, ?_, a.modSq_onlyWin ..⟩
        · rw [State.sq_modSq_self, BitVec.ofNat_toNat, BitVec.setWidth_eq]
        · rw [State.sq_modSq_self, length_insertReq]
      · exact ⟨_, (hreq slot).trans (congrArg _ (State.jumpArrive_drops hl h a.t)), a.jumpDrop_counts ..⟩
      · refine ⟨_, (hreq slot).trans (congrArg _ (State.jumpArrive_errs hl hs h a.t)), ?_⟩
        have hw := fun sh => State.win_at_of_calm ((a.perr w 7 sh a.t).calm_raiseSeq w 5 a.t) w
        obtain ⟨hcode, hshelf⟩ := a.perr_recorded w 7 (a.jumpShelf w slot.toNat) a.t
        exact ⟨(congrArg Win.sq (hw _)).trans (a.sq_perr ..), (congrArg (·.pl.perrCode) (hw _)).trans hcode,
          (congrArg (·.pl.perrShelf) (hw _)).trans hshelf⟩
      · exact (hreq slot).trans (congrArg _ (State.jumpArrive_unloaded hl ..))
      · refine ⟨_, congrArg Host.Outcome.next (State.hostWrite_takes ht ..), ?_⟩
        rw [State.clearJumps, State.jumpDue_none hn]
        exact ⟨a.sq_modSq_self .., a.modSq_onlyWin ..⟩
    · exact ⟨fun h => ⟨_, rfl, State.jumpHead_open_keeps h reads⟩, fun h => congrArg Host.Outcome.next (State.jumpHead_closed h reads),
        fun sh hr hf hrej hon => ⟨_, rfl, State.jumpHead_rejects hr hf hrej hon reads⟩⟩

end Sys2Proof.Machine

namespace Sys2Proof.Machine

/-! ### Descriptor fetches and stack reads (O13) -/

/-! A look into the Catalogue cache: only error counts, free values and detections (R272). -/

/-- The state without the traces of detections, what error correction has counted, and the count of free values taken. -/
def State.unseen (s : State) : State := { s.unread with freeN := 0 }

theorem State.unseen_of_unread {s t : State} (h : s.unread = t.unread) : s.unseen = t.unseen := congrArg (fun c : State => { c with freeN := 0 }) h

theorem State.unread_eccBank (s : State) (off kind m : Nat) : (s.eccBank off kind m).unread = s.unread := by
  unfold State.eccBank
  extract_lets key s1
  exact (State.unread_of_calm (State.calm_raiseDev ..)).trans rfl

theorem State.unseen_cacheRead (s : State) (e : Ecc) : (s.cacheRead e).unseen = s.unseen := by
  unfold State.cacheRead
  split
  · rfl
  · extract_lets v
    exact (State.unseen_of_unread (v.2.unread_eccBank ..)).trans rfl

section
variable {s t : State} (h : s.unseen = t.unseen)
include h

theorem State.win_of_unseen (v : Nat) : s.win v = t.win v := congrArg (·.win v) h
theorem State.stackOn_of_unseen (k : Nat) : s.stackOn k = t.stackOn k := congrArg (·.stackOn k) h
theorem State.roleShelf_of_unseen (w : Nat) (r : Role) : s.roleShelf w r = t.roleShelf w r := congrArg (·.roleShelf w r) h
theorem State.slotRejected_of_unseen (w : Nat) (sh : Shelf) : s.slotRejected w sh = t.slotRejected w sh := congrArg (·.slotRejected w sh) h
theorem State.fetchDesc_of_unseen (w : Nat) (sh : Shelf) (clean np : Bool) : s.fetchDesc w sh clean np = t.fetchDesc w sh clean np :=
  congrArg (·.fetchDesc w sh clean np) h

theorem SluiceOnly.of_unseen (w : Nat) : SluiceOnly s t w :=
  ⟨congrArg (fun x : Win => { x with sl := s.sl w }) (State.win_of_unseen h w).symm, fun v _ => (State.win_of_unseen h v).symm⟩

end

/-! Descriptor fetches (R83). -/

/-- A fetch holds the descriptor for its role and changes nothing else that the program in play sees. -/
theorem State.fetchRole_holds {s : State} {w : Nat} {r : Role} {sh : Shelf} (hon : s.stackOn (w / 64 % 2) = true) (hr : s.roleShelf w r = some sh)
    (hf : roleGet r (s.sq w).fetched = none) (hrej : (∃ k, r = .jump k) → s.slotRejected w sh = false) (e : Ecc) :
    ((s.fetchRole w r e).sq w).fetched = roleSet r (s.fetchDesc w sh (e ≠ .bad) ((s.sq w).nextOfPlay r)) (s.sq w).fetched ∧
    ((s.fetchRole w r e).sq w).cur = (s.sq w).cur ∧ ∀ v, v ≠ w → (s.fetchRole w r e).win v = s.win v := by
  rw [State.fetchRole_fetches hon hr hf hrej]
  have hw := State.win_of_unread (s.unread_eccStackSeen e (catStore w + 64 * entryOf sh) 0)
  generalize s.eccStackSeen e (catStore w + 64 * entryOf sh) 0 = s1 at hw
  rw [State.sq_modSq_self, State.sq_eq s1, hw w]
  exact ⟨rfl, rfl, fun v hv => ((s1.modSq_onlyWin ..).2 v hv).trans (hw v)⟩

/-- Since `s`, only the Sluice of window `w` has changed; its buffers have stayed, and its chain has grown by `new`. -/
def Chained (s t : State) (w : Nat) (new : List (RawDesc × Buf)) : Prop :=
  SluiceOnly s t w ∧ (t.sl w).bufs = (s.sl w).bufs ∧ (t.sl w).chain = (s.sl w).chain ++ new

theorem Chained.of_unseen {s t : State} (h : t.unseen = s.unseen) (w : Nat) : Chained s t w [] := by
  have hsl : t.sl w = s.sl w := congrArg Win.sl (State.win_of_unseen h w)
  exact ⟨.of_unseen h.symm w, congrArg SluSt.bufs hsl, by rw [hsl, List.append_nil]⟩

theorem Chained.trans {s t u : State} {w : Nat} {l : List (RawDesc × Buf)} (h1 : Chained s t w []) (h2 : Chained t u w l) : Chained s u w l := by
  obtain ⟨honly1, hbufs1, hchain1⟩ := h1
  obtain ⟨honly2, hbufs2, hchain2⟩ := h2
  exact ⟨honly1.trans honly2, hbufs2.trans hbufs1, by rw [hchain2, hchain1, List.append_nil]⟩

theorem State.modSl_chained (s : State) (w : Nat) (new : List (RawDesc × Buf)) :
    Chained s (s.modSl w fun x => { x with chain := x.chain ++ new }) w new :=
  ⟨s.modSl_sluiceOnly .., by rw [State.sl_modSl_self], by rw [State.sl_modSl_self]⟩

/-- One fetch along the chain of segments: at most one segment more is held ahead (R96). -/
theorem State.fetchChain_chained (s : State) (w : Nat) (e : Ecc) : ∃ new, Chained s (s.fetchChain w e) w new ∧ new.length ≤ 1 := by
  unfold State.fetchChain
  split
  · exact ⟨[], .of_unseen rfl w, Nat.zero_le _⟩
  · next d sh _ =>
    extract_lets s1
    have h1 : Chained s s1 w [] := .of_unseen (State.unseen_of_unread (s.unread_eccStackSeen ..)) w
    split
    · next x _ =>
      split
      · exact ⟨[], h1, Nat.zero_le _⟩
      · exact ⟨[(x, {})], h1.trans (s1.modSl_chained ..), Nat.le_refl _⟩
    · exact ⟨[], h1, Nat.zero_le _⟩

/-- A fetch for a role that names no descriptor, or whose descriptor is held, goes at most one step along the chain, and only for the one program
successor (R83, R96). -/
theorem State.fetchRole_chained {s : State} {w : Nat} {r : Role} (h : s.roleShelf w r = none ∨ (roleGet r (s.sq w).fetched).isSome = true) (e : Ecc) :
    ∃ new, Chained s (s.fetchRole w r e) w new ∧ new.length ≤ 1 ∧ (r ≠ linkRole (s.sq w).cur → new = []) := by
  have stays (h : s.stackOn (w / 64 % 2) = false ∨ s.roleShelf w r = none) :
      ∃ new, Chained s (s.fetchRole w r e) w new ∧ new.length ≤ 1 ∧ (r ≠ linkRole (s.sq w).cur → new = []) := by
    rw [State.fetchRole_waits h]
    exact ⟨[], .of_unseen rfl w, Nat.zero_le _, fun _ => rfl⟩
  by_cases hon : s.stackOn (w / 64 % 2) = true
  · cases hr : s.roleShelf w r with
    | none => exact stays (.inr hr)
    | some sh =>
      rw [State.fetchRole_held hon hr (h.resolve_left (by simp [hr]))]
      split
      · next hlink =>
        obtain ⟨new, hnew, hlen⟩ := s.fetchChain_chained w e
        exact ⟨new, hnew, hlen, fun hne => absurd hlink hne⟩
      · exact ⟨[], .of_unseen rfl w, Nat.zero_le _, fun _ => rfl⟩
  · exact stays (.inl (eq_false_of_ne_true hon))

/-! Stack reads (R95, R96). -/

theorem SluSt.buf_of_bufs {x y : SluSt} (h : x.bufs = y.bufs) (r : Role) : x.buf r = y.buf r := by
  rw [SluSt.buf, h, SluSt.buf]

/-- What follows a read's slices into the Sluice leaves its buffers. -/
theorem State.bufs_readInto (s : State) (w : Nat) (r : Role) (n : Nat) (bad laneBad : Word) (c : Bool) :
    ((s.readInto w r n bad laneBad c).sl w).bufs = ((s.pushSlices w r n bad laneBad).sl w).bufs := by
  unfold State.readInto
  extract_lets b first s1 b1 k d at_
  have h1 := congrArg Win.sl (State.win_of_unread (s1.unread_readErrors w d at_ first k bad laneBad c) w)
  generalize s1.readErrors w d at_ first k bad laneBad c = s2 at h1
  rw [State.stockIndicate, State.sl_modSl_self, State.fillIndicate, State.sl_modSl_self]
  exact (congrArg SluSt.bufs h1 :)

/-- Slices `new` have been appended to the buffer of role `r`, and nothing else has happened to the buffers. -/
def Appended (x y : SluSt) (r : Role) (new : List Slice) : Prop :=
  (y.buf r).slices = (x.buf r).slices ++ new ∧ (y.buf r).lo = (x.buf r).lo ∧ ∀ k, k ≠ r → y.buf k = x.buf k

theorem Appended.of_bufs {x y : SluSt} {r : Role} {new : List Slice}
    (h : y.bufs = roleSet r { x.buf r with slices := (x.buf r).slices ++ new } x.bufs) : Appended x y r new := by
  have hr : y.buf r = { x.buf r with slices := (x.buf r).slices ++ new } := by
    rw [SluSt.buf, h, roleGet_roleSet_self, Option.getD_some]
  refine ⟨hr ▸ rfl, hr ▸ rfl, fun k hk => ?_⟩
  rw [SluSt.buf, h, roleGet_roleSet_other (Ne.symm hk), SluSt.buf]

/-- The slices that a read of up to `n` appends: at most `n`, and for a resident segment those that the stack holds, from its next slice on
(R61, R62, R96, R272). -/
theorem State.pushSlices_appends {s : State} {w : Nat} {r : Role} {d : RawDesc} (hb : s.bankOn (cluOf w) = true)
    (hon : s.stackOn (w / 64 % 2) = true) (hd : (s.sq w).segOf r = some d) (n : Nat) (bad laneBad : Word) :
    ∃ new, Appended (s.sl w) ((s.pushSlices w r n bad laneBad).sl w) r new ∧ new.length ≤ n ∧
      (dStream d = false → new = (List.range new.length).map fun i =>
        s.readSlice w d ((((s.sl w).buf r).lo + ((s.sl w).buf r).slices.length + i) % dSlices d) (bad.getLsbD i) (laneBad.getLsbD i)) := by
  unfold State.pushSlices
  rw [hb, hon, Bool.and_self, if_pos rfl, hd]
  dsimp -zeta only
  extract_lets b at_ want k note ahead here got streamed resident
  have hk : k ≤ n := Nat.min_le_left ..
  split
  · next hs =>
    refine ⟨streamed, .of_bufs (by rw [State.sl_modSl_self]), ?_, fun h => absurd hs (by simp [h])⟩
    have hgot : got.length ≤ k := by
      dsimp only [got]
      split
      · exact Nat.zero_le _
      · exact (List.takeWhile_prefix _).length_le.trans ((List.length_take_le ..).trans (Nat.min_le_left ..))
    simpa [streamed] using hgot.trans hk
  · have hlen : resident.length = k := by simp [resident]
    exact ⟨resident, .of_bufs (by rw [State.sl_modSl_self]), hlen ▸ hk, fun _ => by rw [hlen]⟩

/-- Since `s`, only the Sluice of window `w` has changed; its buffers have stayed, and its chain holds as many segments. -/
def ReadAhead (s t : State) (w : Nat) : Prop :=
  SluiceOnly s t w ∧ (t.sl w).bufs = (s.sl w).bufs ∧ (t.sl w).chain.length = (s.sl w).chain.length

theorem ReadAhead.refl (s : State) (w : Nat) : ReadAhead s s w := ⟨.refl s w, rfl, rfl⟩

theorem State.modSl_readAhead (s : State) (w : Nat) {f : SluSt → SluSt} (hb : (f (s.sl w)).bufs = (s.sl w).bufs)
    (hc : (f (s.sl w)).chain.length = (s.sl w).chain.length) : ReadAhead s (s.modSl w f) w := by
  rw [ReadAhead, State.sl_modSl_self]
  exact ⟨s.modSl_sluiceOnly .., hb, hc⟩

/-- A read ahead along the only path goes to the successor's later plays or to a segment of the chain (R96). -/
theorem State.pushChain_readAhead (s : State) (w n : Nat) (bad laneBad : Word) : ReadAhead s (s.pushChain w n bad laneBad).1 w := by
  unfold State.pushChain
  extract_lets read
  split
  · exact .refl s w
  · extract_lets held
    split
    · dsimp only
      exact s.modSl_readAhead w rfl rfl
    · split
      · exact .refl s w
      · dsimp only
        exact s.modSl_readAhead w rfl List.length_set

section
variable {s : State} {w : Nat} {r : Role}

theorem State.readDone_waits (h : s.stackOn (w / 64 % 2) = false) (n : Nat) (bad laneBad : Word) (c : Bool) : s.readDone w r n bad laneBad c = s :=
  if_pos (by simp [h])

variable (hl : (s.sq w).loaded = true) (hon : s.stackOn (w / 64 % 2) = true)
include hl hon

theorem State.readDone_reads (h : s.nextWhole w r = false) (n : Nat) (bad laneBad : Word) (c : Bool) :
    s.readDone w r n bad laneBad c = s.readInto w r n bad laneBad c := by
  unfold State.readDone
  rw [if_neg (by simp [hl, hon]), if_neg (by simp [h])]

/-- A read for a successor whose head is whole goes on along the path: it changes what a read ahead changes (R96). -/
theorem State.unread_readDone_ahead (hb : s.bankOn (cluOf w) = true) (h : s.nextWhole w r = true) (n : Nat) (bad laneBad : Word) (c : Bool) :
    (s.readDone w r n bad laneBad c).unread = (s.pushChain w n bad laneBad).1.unread := by
  unfold State.readDone
  rw [if_neg (by simp [hl, hon]), if_pos (by simp [h, hb])]
  split
  · next s1 d first k he => exact (s1.unread_readErrors ..).trans (congrArg (·.1.unread) he).symm
  · next s1 he => exact (congrArg (·.1.unread) he).symm

end

/-- Settles O13: a fetch holds one descriptor, or extends the chain; a read appends slices to one buffer, or goes on along the path. -/
theorem fetchesAndReads : Obligations.FetchesAndReads := by
  unfold Obligations.FetchesAndReads
  refine ⟨?_, ?_, ?_⟩
  · intro s dt w role reads sh a hr hf hon hrej
    have hu := a.unseen_cacheRead reads.cache
    have hw := State.win_of_unseen hu
    have hsq : (a.cacheRead reads.cache).sq w = a.sq w := congrArg Win.sq (hw w)
    obtain ⟨hget, hcur, hothers⟩ := State.fetchRole_holds ((State.stackOn_of_unseen hu _).trans hon) ((State.roleShelf_of_unseen hu ..).trans hr)
      ((congrArg (roleGet role ·.fetched) hsq).trans hf) (fun hk => (State.slotRejected_of_unseen hu ..).trans (hrej hk)) reads.store
    rw [State.fetchDesc_of_unseen hu, hsq] at hget
    refine ⟨_, rfl, ?_, fun r hne => ?_, hcur.trans (congrArg SeqSt.cur hsq), fun v hv => (hothers v hv).trans (hw v)⟩
    · exact (congrArg (roleGet role) hget).trans (roleGet_roleSet_self ..)
    · exact (congrArg (roleGet r) hget).trans (roleGet_roleSet_other (Ne.symm hne) ..)
  · intro s dt w role reads a
    have hu := a.unseen_cacheRead reads.cache
    have hon := State.stackOn_of_unseen hu (w.val / 64 % 2)
    refine ⟨fun h => congrArg Host.Outcome.next (State.fetchRole_waits (.inl (hon.trans h)) _), fun h => ⟨_, rfl, ?_⟩⟩
    have hsq : (a.cacheRead reads.cache).sq w = a.sq w := congrArg Win.sq (State.win_of_unseen hu w)
    obtain ⟨new, hnew, hlen, hlink⟩ := State.fetchRole_chained (s := a.cacheRead reads.cache) (w := w) (r := role)
      (by rw [State.roleShelf_of_unseen hu, hsq]; exact h) reads.store
    obtain ⟨honly, hbufs, hchain⟩ := (Chained.of_unseen hu w).trans hnew
    exact ⟨honly.sq, hbufs, ⟨new, hchain, hlen, fun hr => hlink (by rwa [hsq])⟩, honly.others⟩
  · intro s dt w role n bad laneBad corrected d a b
    refine ⟨fun h => congrArg Host.Outcome.next (State.readDone_waits h ..), fun hl hon hb hd => ⟨fun h => ⟨_, rfl, ?_⟩, fun h => ⟨_, rfl, ?_⟩⟩⟩
    · rw [State.readDone_reads hl hon h]
      have honly := a.readInto_sluiceOnly w role n bad laneBad corrected
      obtain ⟨new, ⟨hslices, hlo, hrest⟩, hlen, hread⟩ := State.pushSlices_appends hb hon hd n bad laneBad
      have hbuf := SluSt.buf_of_bufs (a.bufs_readInto w role n bad laneBad corrected)
      exact ⟨honly.sq, ⟨new, (congrArg Buf.slices (hbuf role)).trans hslices, hlen, hread⟩, (congrArg Buf.lo (hbuf role)).trans hlo, fun r hr => (hbuf r).trans (hrest r hr), honly.others⟩
    · have hu := State.unread_readDone_ahead hl hon hb h n bad laneBad corrected
      obtain ⟨honly, hbufs, hchain⟩ := a.pushChain_readAhead w n bad laneBad
      have hsl := congrArg Win.sl (State.win_of_unread hu w)
      have honly := honly.trans (.of_unread hu w)
      exact ⟨honly.sq, (congrArg SluSt.bufs hsl).trans hbufs, (congrArg (·.chain.length) hsl).trans hchain, honly.others⟩

end Sys2Proof.Machine

namespace Sys2Proof.Machine

/-! ### A due vector plays, or the pin underruns (O15) -/

/-! The course of a burst: what a vector's marks, drive and strobe leave alone (R59, R138, R149). -/

/-- The counts and the drive of a burst without what tells of a program error and the number of the next drive. -/
def PlaySt.quiet (p : PlaySt) : PlaySt := { p with placed := 0, perrCode := 0, perrCount := 0, perrShelf := nullShelf, perrSeq := 0 }

/-- The holding pattern without the report of an invalid code. -/
def HoldSt.quiet (h : HoldSt) : HoldSt := { h with invalid := none }

/-- The parts of a window that say where its burst is: its mode, its sequencer, its holding pattern, its counts and its drive. -/
structure Course where
  md : ModeSt
  sq : SeqSt
  ho : HoldSt
  pl : PlaySt

def Win.course (x : Win) : Course where
  md := x.md
  sq := x.sq
  ho := x.ho.quiet
  pl := x.pl.quiet

def State.course (s : State) (w : Nat) : Course := (s.win w).course

theorem State.course_of_win {s t : State} {v : Nat} (h : s.win v = t.win v) : s.course v = t.course v := congrArg Win.course h

theorem State.course_of_calm {s t : State} (h : s.calm = t.calm) (v : Nat) : s.course v = t.course v := congrArg (·.course v) h

theorem State.course_modWin_self (s : State) (w : Nat) (f : Win → Win) : (s.modWin w f).course w = (f (s.win w)).course := by
  rw [State.course, State.win_modWin, if_pos rfl]

theorem State.course_modWin (s : State) (w : Nat) {f : Win → Win} (h : (f (s.win w)).course = s.course w) (v : Nat) :
    (s.modWin w f).course v = s.course v := by
  by_cases hv : w = v
  · subst hv
    rw [State.course_modWin_self, h]
  · rw [State.course, State.win_modWin, if_neg hv, State.course]

theorem State.course_modSq_self (s : State) (w : Nat) (f : SeqSt → SeqSt) : (s.modSq w f).course w = { s.course w with sq := f (s.sq w) } :=
  s.course_modWin_self ..

theorem State.course_modPl_self (s : State) (w : Nat) (f : PlaySt → PlaySt) : (s.modPl w f).course w = { s.course w with pl := (f (s.pl w)).quiet } :=
  s.course_modWin_self ..

theorem State.course_modHo_self (s : State) (w : Nat) (f : HoldSt → HoldSt) : (s.modHo w f).course w = { s.course w with ho := (f (s.ho w)).quiet } :=
  s.course_modWin_self ..

@[simp] theorem State.course_modTm (s : State) (w : Nat) (f : TimSt → TimSt) (v : Nat) : (s.modTm w f).course v = s.course v := s.course_modWin w rfl v
@[simp] theorem State.course_modCp (s : State) (w : Nat) (f : CapSt → CapSt) (v : Nat) : (s.modCp w f).course v = s.course v := s.course_modWin w rfl v
@[simp] theorem State.course_modMn (s : State) (w : Nat) (f : MonSt → MonSt) (v : Nat) : (s.modMn w f).course v = s.course v := s.course_modWin w rfl v
@[simp] theorem State.course_modSt (s : State) (w : Nat) (f : StpSt → StpSt) (v : Nat) : (s.modSt w f).course v = s.course v := s.course_modWin w rfl v
@[simp] theorem State.course_modEn (s : State) (w : Nat) (f : EngSt → EngSt) (v : Nat) : (s.modEn w f).course v = s.course v := s.course_modWin w rfl v
@[simp] theorem State.course_modSl (s : State) (w : Nat) (f : SluSt → SluSt) (v : Nat) : (s.modSl w f).course v = s.course v := s.course_modWin w rfl v
@[simp] theorem State.course_modIk (s : State) (w : Nat) (f : IntakeSt → IntakeSt) (v : Nat) : (s.modIk w f).course v = s.course v :=
  s.course_modWin w rfl v
@[simp] theorem State.course_modSlot (s : State) (k : Nat) (f : Slot → Slot) (v : Nat) : (s.modSlot k f).course v = s.course v := rfl
@[simp] theorem State.course_bumpSeq (s : State) (p v : Nat) : (s.bumpSeq p).course v = s.course v := rfl
@[simp] theorem State.course_raiseAt (s : State) (src code native : Nat) (sh : Shelf) (d : BitVec 28) (t v : Nat) :
    (s.raiseAt src code native sh d t).course v = s.course v := State.course_of_calm (State.calm_raiseAt ..) v
@[simp] theorem State.course_raiseCh (s : State) (w i code native v : Nat) : (s.raiseCh w i code native).course v = s.course v := s.course_raiseAt ..
@[simp] theorem State.course_raiseSeg (s : State) (w i code native : Nat) (sh : Shelf) (t v : Nat) :
    (s.raiseSeg w i code native sh t).course v = s.course v := s.course_raiseAt ..

theorem State.course_each {α : Type} (s : State) (l : List α) {f : State → α → State} {v : Nat} (h : ∀ s a, (f s a).course v = s.course v) :
    (l.foldl f s).course v = s.course v := State.each_proj (·.course v) s l h

/-! Records and marks. -/

@[simp] theorem State.course_queueRec (s : State) (w : Nat) (r : Rec) (v : Nat) : (s.queueRec w r).course v = s.course v := by
  unfold State.queueRec
  extract_lets s1 s2 s3
  have h1 : s1.course v = s.course v := by
    dsimp only [s1]
    unfold State.queueGap
    extract_lets c
    repeat' split
    all_goals simp
  split <;> simp [s2, s3, h1]

@[simp] theorem State.course_engOccur (s : State) (w src sel code t bound v : Nat) : (s.engOccur w src sel code t bound).course v = s.course v :=
  s.course_modEn ..

theorem State.course_seqMark (s : State) (w sub t v : Nat) : (s.seqMark w sub t).course v = s.course v := by simp [State.seqMark]

/-- A mark that is due is given, and no longer owed. -/
theorem State.course_dueMark (s : State) (w t : Nat) : (s.dueMark w t).course w = { s.course w with sq := { s.sq w with markDue := 0 } } := by
  unfold State.dueMark
  extract_lets q s1
  have h1 : s1.course w = { s.course w with sq := { s.sq w with markDue := 0 } } := s.course_modSq_self w fun q => { q with markDue := 0 }
  split
  · exact (s1.course_seqMark ..).trans h1
  · split
    · exact (s1.course_seqMark ..).trans h1
    · exact h1

/-! Invalid codes (R60). -/

theorem State.course_invalidCode (s : State) (w : Nat) (sh : Shelf) (pass ofs t v : Nat) : (s.invalidCode w sh pass ofs t).course v = s.course v := by
  rw [State.invalidCode, State.course_raiseAt, State.course_bumpSeq]
  exact s.course_modWin w rfl v

theorem State.win_sendMore (s : State) (src t k v : Nat) : (s.sendMore src t k).win v = s.win v := by
  have hsrc (f : SrcSt → SrcSt) : (s.modSrc src f).win v = s.win v := State.win_at_of_calm (s.calm_modSrc ..) v
  unfold State.sendMore
  split
  · rfl
  · extract_lets s1
    split <;> exact hsrc _

/-- An invalid code of the program is noted once for a pass of its segment. -/
theorem State.course_invalidVec (s : State) (w t : Nat) : ∃ i, (s.invalidVec w t).course w = { s.course w with sq := { s.sq w with invalid := i } } := by
  unfold State.invalidVec
  extract_lets q
  split
  · exact ⟨some t, (State.course_invalidCode ..).trans (s.course_modWin_self ..)⟩
  · exact ⟨(s.sq w).invalid, State.course_of_win (s.win_sendMore ..)⟩

theorem State.course_invalidHold (s : State) (w t v : Nat) : (s.invalidHold w t).course v = s.course v := by
  unfold State.invalidHold
  extract_lets h
  split
  · exact (State.course_invalidCode ..).trans (s.course_modWin w rfl v)
  · exact State.course_of_win (s.win_sendMore ..)

/-! The driver and the strobe (R155 to R162). -/

theorem State.course_settle (s : State) (w h v : Nat) : (s.settle w h).course v = s.course v := by
  unfold State.settle
  extract_lets k x en lv cut src s1
  split
  · rfl
  · rw [State.course_each _ _ fun s t => s.course_raiseAt .., State.course_modTm]
    rfl

theorem State.course_placeDrive (s : State) (w t p ts c vec : Nat) (strobed : Bool) (v : Nat) :
    (s.placeDrive w t p ts c vec strobed).course v = s.course v := by
  unfold State.placeDrive
  extract_lets T fmt off enJ en ahead lv s1 clips
  split
  · rfl
  · rw [State.course_each _ _ fun s t => s.course_raiseAt .., State.course_modTm]
    rfl

/-- A driven vector is remembered as its code says, and the course goes on as it was (R59). -/
theorem State.course_driveVector (s : State) (w t p ts c : Nat) :
    (s.driveVector w t p ts c).course w = { s.course w with pl := { (s.pl w).quiet with remembered := rememberAfter (s.pl w).remembered c } } := by
  unfold State.driveVector
  extract_lets v s0 s1
  have h1 : s1.course w = s.course w := by
    dsimp only [s1]
    rw [State.course_settle, State.course_placeDrive, State.course_modTm]
  clear_value s1
  have hpl : (s1.pl w).quiet = (s.pl w).quiet := congrArg Course.pl h1
  rw [State.course_modPl_self, h1]
  exact congrArg (fun p : PlaySt => ({ s.course w with pl := { p with remembered := rememberAfter (s.pl w).remembered c } } : Course)) hpl

theorem State.course_placeStrobe (s : State) (w t p ts : Nat) (b : Strobe) (v : Nat) : (s.placeStrobe w t p ts b).course v = s.course v := by
  unfold State.placeStrobe
  split
  · extract_lets x s1
    split <;> simp [s1]
  · rfl

theorem State.course_dropPlayed (s : State) (w v : Nat) : (s.dropPlayed w).course v = s.course v := by
  simp [State.dropPlayed, State.fillIndicate]

/-! The holding pattern (R138, R139). -/

theorem State.course_of_unread {s t : State} (h : s.unread = t.unread) (v : Nat) : s.course v = t.course v := congrArg (·.course v) h

theorem State.unread_eccBankSeen (s : State) (e : Ecc) (off m : Nat) : (s.eccBankSeen e off m).unread = s.unread := by
  cases e with
  | clean => rfl
  | corrected => exact s.unread_eccBank ..
  | bad => exact s.unread_eccBank ..

/-- The holding pattern after one vector of it at `t`. -/
def HoldSt.played (h : HoldSt) (t : Nat) (bad : Bool × Bool) : HoldSt :=
  { h with bad := bad, ofs := h.ofs + 1, nextT := t + h.period, vecs := h.vecs + 1, held := h.held + 1, invalid := none }

theorem State.course_holdVector (s : State) (w t : Nat) (ecc laneEcc : Ecc) : ∃ bad drv, (s.holdVector w t ecc laneEcc).course w =
    { s.course w with ho := (s.ho w).played t bad, pl := { (s.pl w).quiet with remembered := drv } } := by
  unfold State.holdVector
  extract_lets h d i a la first bad code lane masked s0 s1 s2 s3
  have h0 : s0.course w = s.course w := by
    dsimp only [s0]
    split
    · exact State.course_of_unread (s.unread_eccBankSeen ..) w
    · rfl
  have h1 : s1.course w = s0.course w := by
    dsimp only [s1]
    split
    · exact State.course_of_unread (s0.unread_eccBankSeen ..) w
    · rfl
  have h2 : s2.course w = s1.course w := by
    dsimp only [s2]
    split
    · exact s1.course_invalidHold ..
    · rfl
  have h12 : s2.course w = s.course w := h2.trans (h1.trans h0)
  obtain ⟨drv, h3⟩ : ∃ drv, s3.course w = { s2.course w with pl := { (s2.pl w).quiet with remembered := drv } } := ⟨_, s2.course_driveVector ..⟩
  clear_value s3 s2 bad
  have hpl : (s2.pl w).quiet = (s.pl w).quiet := congrArg Course.pl h12
  rw [h12, hpl] at h3
  have hho : (s3.ho w).quiet = (s.ho w).quiet := congrArg Course.ho h3
  refine ⟨bad, drv, ?_⟩
  rw [State.course_modHo_self, h3]
  exact congrArg (fun x : HoldSt => ({ s.course w with ho := x.played t bad, pl := { (s.pl w).quiet with remembered := drv } } : Course)) hho

/-! The underrun (R138). -/

theorem State.course_streamMismatch (s : State) (w v : Nat) : (s.streamMismatch w).course v = s.course v := by
  unfold State.streamMismatch
  extract_lets d b
  split
  · split
    · split
      · rfl
      · simp [State.breakStream]
    · rfl
  · rfl

/-- The holding pattern as an underrun at `t` starts it. -/
def State.holdBegun (s : State) (w t cause : Nat) (h : HoldSt) : HoldSt :=
  { h with
    on := true, at_ := t, period := periodOf (s.activeView w) (s.pl w).entry (s.pl w).n, nextT := t, ofs := 0, pass := 1, last := false,
    resumeAt := none, vecs := 0, invalid := none, shelf := dShelf (s.sq w).cur, cause := cause, policy := 3, underruns := satInc 65535 h.underruns }

/-- A missing vector starts the holding pattern at its instant, and vector 0 of the pattern plays (R138). -/
theorem State.course_underrun (s : State) (w t : Nat) (ecc laneEcc : Ecc) : ∃ cause bad drv, (s.underrun w t ecc laneEcc).course w =
    { s.course w with ho := (s.holdBegun w t cause (s.ho w)).played t bad, pl := { (s.pl w).quiet with remembered := drv } } := by
  unfold State.underrun
  extract_lets s0 p s1 s2
  have h0 : s0.course w = s.course w := s.course_streamMismatch w w
  have h1 : s1.course w = { s0.course w with ho := (s.holdBegun w t (s0.underrunCause w) (s0.ho w)).quiet } := s0.course_modHo_self ..
  have h2 : s2.course w = s1.course w := by
    dsimp only [s2]
    rw [State.course_engOccur, State.course_raiseSeg]
  obtain ⟨bad, drv, h⟩ := s2.course_holdVector w t ecc laneEcc
  have h12 := h2.trans (h1.trans (congrArg (fun c : Course => { c with ho := (s.holdBegun w t (s0.underrunCause w) (s0.ho w)).quiet }) h0))
  clear_value s2 s0
  have hpl : (s2.pl w).quiet = (s.pl w).quiet := congrArg Course.pl h12
  have hho : (s2.ho w).quiet = (s.holdBegun w t (s0.underrunCause w) (s0.ho w)).quiet := congrArg Course.ho h12
  have hho0 : (s0.ho w).quiet = (s.ho w).quiet := congrArg Course.ho h0
  refine ⟨s0.underrunCause w, bad, drv, ?_⟩
  rw [h, h12, hpl]
  have hh : (s2.ho w).played t bad = (s.holdBegun w t (s0.underrunCause w) (s.ho w)).played t bad :=
    (congrArg (·.played t bad) hho).trans (congrArg (fun x => (s.holdBegun w t (s0.underrunCause w) x).played t bad) hho0)
  rw [hh]

/-! A vector of the program (R59, R149). -/

/-- The counts of a burst after one more vector at `t`, `p` before the next. -/
def PlaySt.played (v : PlaySt) (t p : Nat) (q : SeqSt) (entry n : Nat) : PlaySt :=
  { v with
    nextT := t + p, lastT := t, period := p, vectors := v.vectors + 1, n := v.n + 1,
    decT := if q.ofs + 64 = dOut q.cur then t else v.decT, t64 := if q.ofs % 64 = 0 then t else v.t64,
    entry0 := if q.ofs = 0 then entry else v.entry0, n0 := if q.ofs = 0 then n else v.n0 }

/-- The code that a vector drives and strobes with: XX for an invalid one, and for a repeated strobe of a cadence that masks it (R60). -/
def drivenCode (q : SeqSt) (raw : Nat) : Nat :=
  if isInvalid raw || (dCadMask q.cur && dRepeat q.cur q.ofs && hasStrobe raw) then 8 else raw

theorem drivenCode_plain {raw : Nat} (hi : isInvalid raw = false) (hs : hasStrobe raw = false) (q : SeqSt) : drivenCode q raw = raw :=
  if_neg (by simp [hi, hs])

/-- The sequencer after one more vector at `t`. -/
def SeqSt.played (q : SeqSt) (t : Nat) (i : Option Nat) : SeqSt :=
  { ({ q with markDue := 0, invalid := i } : SeqSt).markStop q.ofs t with ofs := q.ofs + 1 }

theorem State.course_programVector (s : State) (w t : Nat) (x : Slice) : ∃ i, (s.programVector w t x).course w = { s.course w with
    sq := (s.sq w).played t i
    pl := ({ (s.pl w).quiet with remembered := rememberAfter (s.pl w).remembered (drivenCode (s.sq w) (x.code
      (dKind (s.sq w).cur = 7 && s.condHolds w (s.sq w).cur t) (dInput (s.sq w).cur (s.sq w).ofs))) } : PlaySt).played t
      (periodOf (s.activeView w) (s.pl w).entry (s.pl w).n) (s.sq w) (s.pl w).entry (s.pl w).n } := by
  unfold State.programVector
  extract_lets q pl d i alt raw code ts p s1 s2 s3 s4 s5
  have h1 : s1.course w = { s.course w with sq := { q with markDue := 0 } } := s.course_dueMark w t
  obtain ⟨inv, h2⟩ : ∃ inv, s2.course w = { s.course w with sq := { q with markDue := 0, invalid := inv } } := by
    dsimp only [s2]
    split
    · obtain ⟨inv, h⟩ := s1.course_invalidVec w t
      clear_value s1
      have hq : s1.sq w = { q with markDue := 0 } := congrArg Course.sq h1
      exact ⟨inv, by rw [h, h1, hq]⟩
    · exact ⟨q.invalid, h1⟩
  have h3 : s3.course w = { s2.course w with pl := { (s2.pl w).quiet with remembered := rememberAfter (s2.pl w).remembered code } } :=
    s2.course_driveVector ..
  have h4 : s4.course w = s3.course w := s3.course_placeStrobe ..
  clear_value s2
  have hpl : (s2.pl w).quiet = pl.quiet := congrArg Course.pl h2
  have hrem : (s2.pl w).remembered = pl.remembered := (congrArg PlaySt.remembered hpl :)
  rw [hpl, hrem, h2] at h3
  rw [h3] at h4
  have h5 : s5.course w = { s4.course w with pl := ((s4.pl w).played t p q pl.entry pl.n).quiet } := s4.course_modPl_self ..
  clear_value s4
  have hq5 : s5.sq w = { q with markDue := 0, invalid := inv } := (congrArg Course.sq h5).trans (congrArg Course.sq h4)
  have hpl4 : (s4.pl w).quiet = { pl.quiet with remembered := rememberAfter pl.remembered code } := congrArg Course.pl h4
  clear_value s5
  refine ⟨inv, ?_⟩
  rw [State.course_dropPlayed, State.course_modSq_self, hq5, h5, h4]
  exact congrArg (fun v : PlaySt => ({ s.course w with sq := (s.sq w).played t inv, pl := v.played t p q pl.entry pl.n } : Course)) hpl4

/-! The slice that the vector takes (R61, R62, R113, R272). -/

theorem State.unseen_sluiceRead (s : State) (w : Nat) (e : Ecc) : (s.sluiceRead w e).unseen = s.unseen := by
  unfold State.sluiceRead
  split
  · rfl
  · extract_lets v
    exact (State.unseen_of_unread (v.2.unread_eccBankSeen ..)).trans rfl

theorem State.condHolds_of_unseen {s t : State} (h : s.unseen = t.unseen) (w : Nat) (d : RawDesc) (x : Nat) :
    s.condHolds w d x = t.condHolds w d x := congrArg (·.condHolds w d x) h

theorem State.condHolds_modSl (s : State) (w : Nat) (f : SluSt → SluSt) (d : RawDesc) (x : Nat) : (s.modSl w f).condHolds w d x = s.condHolds w d x := by
  have hw := s.win_modSl_self w f
  have hen : (s.modSl w f).en w = s.en w := (congrArg Win.en hw :)
  have hfb : (s.modSl w f).fb w = s.fb w := (congrArg Win.fb hw :)
  unfold State.condHolds
  rw [State.sq_modSl, hen, hfb]
  rfl

theorem SluiceOnly.pl {s t : State} {w : Nat} (h : SluiceOnly s t w) : t.pl w = s.pl w := (congrArg Win.pl h.win :)
theorem SluiceOnly.ho {s t : State} {w : Nat} (h : SluiceOnly s t w) : t.ho w = s.ho w := (congrArg Win.ho h.win :)

theorem State.activeView_of_sluiceOnly {s t : State} {w : Nat} (h : SluiceOnly s t w) : t.activeView w = s.activeView w := by
  have htm : t.tm w = s.tm w := (congrArg Win.tm h.win :)
  unfold State.activeView
  rw [htm]

/-- The read of the due slice changes the Sluice alone, and no condition (R72). -/
theorem State.readDue_reads (s : State) (w : Nat) (x : Slice) (ecc laneEcc : Ecc) :
    SluiceOnly s (s.readDue w x ecc laneEcc).2 w ∧ ∀ d t, (s.readDue w x ecc laneEcc).2.condHolds w d t = s.condHolds w d t := by
  unfold State.readDue
  split
  · extract_lets y i s1
    have h1 : s1.unseen = s.unseen := (State.unseen_sluiceRead ..).trans (State.unseen_sluiceRead ..)
    dsimp only
    exact ⟨(SluiceOnly.of_unseen h1.symm w).trans (s1.modSl_sluiceOnly ..),
      fun d t => (s1.condHolds_modSl ..).trans (State.condHolds_of_unseen h1 w d t)⟩
  · exact ⟨.refl s w, fun _ _ => rfl⟩

/-- A vector of the program plays from a slice that has been read since `a` (R59, R149). -/
theorem State.programVector_plays {a r : State} {w : Nat} (honly : SluiceOnly a r w) (hcond : ∀ d t, r.condHolds w d t = a.condHolds w d t)
    (hm : a.mode w = .run) (ho : (a.ho w).on = false) (t : Nat) (y : Slice) :
    let u := r.programVector w t y
    let code := y.code (dKind (a.sq w).cur = 7 && a.condHolds w (a.sq w).cur t) (dInput (a.sq w).cur (a.sq w).ofs)
    (u.sq w).ofs = (a.sq w).ofs + 1 ∧ (u.sq w).play = (a.sq w).play ∧
      (u.pl w).nextT = t + periodOf (a.activeView w) (a.pl w).entry (a.pl w).n ∧ (u.pl w).lastT = t ∧
      (u.pl w).vectors = (a.pl w).vectors + 1 ∧ (u.pl w).n = (a.pl w).n + 1 ∧ u.mode w = .run ∧ (u.ho w).on = false ∧
      (isInvalid code = false → hasStrobe code = false → (u.pl w).remembered = rememberAfter (a.pl w).remembered code) := by
  extract_lets u code
  obtain ⟨i, hc⟩ : ∃ i, u.course w = _ := r.course_programVector w t y
  rw [honly.sq, honly.pl, hcond, State.activeView_of_sluiceOnly honly] at hc
  clear_value u
  have hsq := congrArg Course.sq hc
  have hpl := congrArg Course.pl hc
  obtain ⟨mark, decided, hmark⟩ := SeqSt.markStop_eq ({ a.sq w with markDue := 0, invalid := i }) (a.sq w).ofs t
  refine ⟨(congrArg SeqSt.ofs hsq :), (congrArg SeqSt.play hsq :).trans (congrArg SeqSt.play hmark :), (congrArg PlaySt.nextT hpl :),
    (congrArg PlaySt.lastT hpl :), (congrArg PlaySt.vectors hpl :), (congrArg PlaySt.n hpl :), ?_, ?_, fun hinv hstb => ?_⟩
  · exact (congrArg (·.md.mode) hc :).trans ((congrArg ModeSt.mode honly.md).trans hm)
  · exact (congrArg (·.ho.on) hc :).trans ((congrArg HoldSt.on honly.ho).trans ho)
  · rw [← drivenCode_plain hinv hstb (a.sq w)]
    exact (congrArg PlaySt.remembered hpl :)

/-! What is due (R89, R138, R149, R165). -/

section
variable {s : State} {w : Nat} (hm : s.mode w = .run) (hb : (s.pl w).begun = true)
include hm hb

theorem State.startVector_waits (ho : (s.ho w).on = false) (h : s.t < (s.pl w).nextT ∨ (s.sq w).owesDecision = true ∨ s.stageDue w = true)
    (ecc laneEcc : Ecc) : s.startVector w ecc laneEcc = s := by
  unfold State.startVector
  extract_lets q h'
  rw [if_neg (by simp [State.running, hm, hb]), if_neg (by simp [h', ho]), if_pos]
  rcases h with h | h | h <;> simp [q, h]

theorem State.startVector_due (ho : (s.ho w).on = false) (ht : (s.pl w).nextT ≤ s.t) (hq : (s.sq w).ofs < (s.sq w).playEnd)
    (hd : (s.sq w).owesDecision = false) (hst : s.stageDue w = false) (ecc laneEcc : Ecc) :
    (∀ x, s.slicePresent w = some x → s.startVector w ecc laneEcc =
      (s.readDue w x ecc laneEcc).2.programVector w (s.pl w).nextT (s.readDue w x ecc laneEcc).1) ∧
    (s.slicePresent w = none → s.startVector w ecc laneEcc = s.underrun w (s.pl w).nextT ecc laneEcc) := by
  have hnone : (s.t < (s.pl w).nextT || (s.sq w).playEnd ≤ (s.sq w).ofs || (s.sq w).owesDecision || s.stageDue w) = false := by
    simp [hd, hst, ht, hq]
  unfold State.startVector
  extract_lets q h'
  rw [if_neg (by simp [State.running, hm, hb]), if_neg (by simp [h', ho]), if_neg (by simp [q, hnone])]
  exact ⟨fun x hx => by rw [hx], fun hx => by rw [hx]⟩

theorem State.startVector_holding (ho : (s.ho w).on = true) (ht : (s.ho w).nextT ≤ s.t) (hl : (s.ho w).ofs < (s.sq w).holdLen)
    (hr : (s.ho w).ofs + 63 = (s.sq w).holdLen → (s.ho w).resumeAt ≠ none) (ecc laneEcc : Ecc) :
    s.startVector w ecc laneEcc = s.holdVector w (s.ho w).nextT ecc laneEcc := by
  unfold State.startVector
  extract_lets q h'
  rw [if_neg (by simp [State.running, hm, hb]), if_pos (by simp [h', ho]), if_neg]
  simp only [Bool.or_eq_true, Bool.and_eq_true, decide_eq_true_eq, Option.isNone_iff_eq_none, not_or, not_and, not_lt, not_le]
  exact ⟨⟨ht, hl⟩, hr⟩

end

/-- Settles O15: a vector of the program, a vector of the pattern and an underrun are each one equation of the course; what is due decides which. -/
theorem vectorsPlayOrUnderrun : Obligations.VectorsPlayOrUnderrun := by
  unfold Obligations.VectorsPlayOrUnderrun
  intro s dt w reads a q h hm hb
  refine ⟨fun ho hw => ?_, fun ho ht hq hd hst => ?_, fun ho ht hl hr => ?_⟩
  · exact congrArg Host.Outcome.next (State.startVector_waits hm hb ho hw ..)
  · obtain ⟨hplays, hunder⟩ := State.startVector_due hm hb ho ht hq hd hst reads.word reads.lane
    refine ⟨fun x hx => ?_, fun hx => ⟨_, congrArg Host.Outcome.next (hunder hx), ?_⟩⟩
    · intro code
      refine ⟨_, congrArg Host.Outcome.next (hplays x hx), ?_⟩
      obtain ⟨honly, hcond⟩ := a.readDue_reads w x reads.word reads.lane
      exact State.programVector_plays honly hcond hm ho (a.pl w).nextT (a.readDue w x reads.word reads.lane).1
    · obtain ⟨cause, bad, drv, hc⟩ := a.course_underrun w (a.pl w).nextT reads.word reads.lane
      generalize a.underrun w (a.pl w).nextT reads.word reads.lane = t at hc
      have hho := congrArg Course.ho hc
      exact ⟨(congrArg HoldSt.on hho :), (congrArg HoldSt.at_ hho :), (congrArg HoldSt.pass hho :), (congrArg HoldSt.ofs hho :),
        (congrArg HoldSt.underruns hho :), (congrArg (·.sq.ofs) hc :), (congrArg (·.pl.vectors) hc :), (congrArg (·.md.mode) hc :).trans hm⟩
  · refine ⟨_, congrArg Host.Outcome.next (State.startVector_holding hm hb ho ht hl hr ..), ?_⟩
    obtain ⟨bad, drv, hc⟩ := a.course_holdVector w h.nextT reads.word reads.lane
    generalize a.holdVector w h.nextT reads.word reads.lane = t at hc
    have hho := congrArg Course.ho hc
    exact ⟨(congrArg HoldSt.on hho :).trans ho, (congrArg HoldSt.ofs hho :), (congrArg HoldSt.nextT hho :), (congrArg HoldSt.vecs hho :),
      (congrArg Course.sq hc :), (congrArg (·.pl.vectors) hc :), (congrArg (·.md.mode) hc :).trans hm⟩

end Sys2Proof.Machine

namespace Sys2Proof.Machine

/-! ### Events of the hardware take their effect (O60) -/

/-! A detection on its way (R294, R302). -/

theorem mem_joinDet (d : Det) (l : List Det) : ∃ e ∈ joinDet d l, e.src = d.src ∧ e.at_ = d.at_ := by
  induction l with
  | nil => exact ⟨d, List.mem_singleton_self d, rfl, rfl⟩
  | cons x l ih =>
    unfold joinDet
    split
    · next h =>
      simp only [Bool.and_eq_true, decide_eq_true_eq] at h
      obtain ⟨⟨hsrc, hat⟩, -⟩ := h
      exact ⟨_, List.mem_cons_self, hsrc, hat⟩
    · obtain ⟨e, he, h⟩ := ih
      exact ⟨e, List.mem_cons_of_mem _ he, h⟩

/-- A record of source `src`, made at `t`, is on its way to its collector. -/
def State.onItsWay (s : State) (src t : Nat) : Prop := ∃ d ∈ s.flight, d.src = src ∧ d.at_ = t

theorem State.send_onItsWay {s : State} (hg : s.gtRun = true) (hb : s.dev.bringup = 5) (d : Det) : (s.send d).onItsWay d.src d.at_ := by
  unfold State.send
  rw [if_neg (by simp [hg]), if_neg (by simp [hb])]
  exact mem_joinDet d s.flight

/-- With GT running at SERVICEABLE, a detection with a native class goes on its way, whether its page event is enabled or not. -/
theorem State.raise_onItsWay {s : State} (hg : s.gtRun = true) (hb : s.dev.bringup = 5) {native : Nat} (hn : native ≠ 0) (src code : Nat) :
    (s.raise src code native).onItsWay src s.t := by
  unfold State.raise State.raiseAt
  extract_lets s1 enabled s2
  have h1 : s1.calm = s.calm := by
    dsimp only [s1]
    split <;> simp
  have h2 : s2.calm = s.calm := by
    dsimp only [s2]
    split
    · exact (State.calm_modSrc ..).trans h1
    · exact h1
  have he : enabled = true := by simp [enabled, hn]
  rw [if_pos he]
  have hgt : s2.calm.gtRun = s.calm.gtRun := congrArg State.gtRun h2
  have hbring : s2.calm.dev.bringup = s.calm.dev.bringup := congrArg (·.dev.bringup) h2
  clear_value s2
  exact State.send_onItsWay (s := s2) (hgt.trans hg) (hbring.trans hb) _

theorem State.railAssert_onItsWay {s : State} (hg : s.gtRun = true) (hb : s.dev.bringup = 5) (r : Nat) (trip : Bool) :
    (s.railAssert r trip).onItsWay (devSrc 1 r) s.t := by
  unfold State.railAssert
  extract_lets s1
  have h1 : s1.gtRun = s.gtRun ∧ s1.dev = s.dev ∧ s1.t = s.t := by
    dsimp only [s1]
    split <;> exact ⟨rfl, rfl, rfl⟩
  obtain ⟨hgt, hdev, ht⟩ := h1
  rw [← ht]
  exact State.raise_onItsWay (s := s1.modKeep _) (hgt.trans hg) (hdev ▸ hb) (by omega) ..

theorem State.tjRise_onItsWay {s : State} (hg : s.gtRun = true) (hb : s.dev.bringup = 5) {tj : Byte} {limit : Int} (h : limit < tj.toInt)
    {native : Nat} (hn : native ≠ 0) (idx : Nat) : (s.tjRise tj limit idx native).onItsWay (devSrc 1 idx) s.t := by
  unfold State.tjRise
  rw [if_pos h]
  exact State.raise_onItsWay (s := s.tjNow tj) hg hb hn ..

/-! Calibration (R168 to R172). -/

/-- The terms of a slot that its measurements give: the last found, and those in force. -/
def Slot.terms (x : Slot) : BitVec 60 × BitVec 60 := (x.meas, x.chTerm)

theorem State.terms_modSlot (s : State) (k : Nat) {f : Slot → Slot} (h : (f (s.slot k)).terms = (s.slot k).terms) (j : Nat) :
    ((s.modSlot k f).slot j).terms = (s.slot j).terms := by
  rw [State.slot_modSlot]
  split
  · next hk => rw [h, hk]
  · rfl

theorem State.slot_modSlot_self (s : State) (k : Nat) (f : Slot → Slot) : (s.modSlot k f).slot k = f (s.slot k) :=
  (s.slot_modSlot k k f).trans (if_pos rfl)

theorem State.slot_callOff (s : State) (src code j : Nat) : (s.callOff src code).slot j = s.slot j := rfl

theorem State.terms_calFinish (s : State) (w outcome reason j : Nat) : ((s.calFinish w outcome reason).slot j).terms = (s.slot j).terms := by
  unfold State.calFinish
  extract_lets k s1
  have h1 : (s1.slot j).terms = (s.slot j).terms :=
    s.terms_modSlot k (f := fun x => { x with cal := x.cal.done outcome reason, calOp := none }) rfl j
  split <;> exact (congrArg Slot.terms (State.slot_at_of_calm (State.calm_raise ..) j)).trans h1

theorem State.terms_histWrite (s : State) (k j : Nat) : ((s.histWrite k).slot j).terms = (s.slot j).terms := by
  unfold State.histWrite
  split
  · rfl
  · extract_lets at0 due s1
    have h1 : s1.slot j = s.slot j := State.each_proj (·.slot j) _ _ fun _ _ => rfl
    exact (s1.terms_modSlot k rfl j).trans (congrArg Slot.terms h1)

theorem State.terms_calHistory (s : State) (k op : Nat) (terms : BitVec 60) (tj : Byte) (j : Nat) :
    ((s.calHistory k op terms tj).slot j).terms = (s.slot j).terms :=
  (State.terms_histWrite ..).trans (s.terms_modSlot k rfl j)

theorem State.calStart_begins {s : State} {w : Nat} (hm : s.mode w = .service) (hk : (s.slot (s.slotOf w)).kcal = true)
    (ha : (s.clu (s.slotOf w / 17)).afeState = 2) (hl : s.ref.locked = true) (hb : s.calBusy (s.slotOf w / 17) = false) (op : Nat) :
    ((s.calStart w op).slot (s.slotOf w)).calOp = some op := by
  unfold State.calStart
  extract_lets k
  rw [if_neg (by simp [hm]), if_neg (by simp [k, hk]), if_neg (by simp [k, ha]), if_neg (by simp [hl]), if_neg (by simp [k, hb])]
  exact congrArg Slot.calOp (s.slot_modSlot_self ..)

/-- RESTORE_SEED loads the slot's channel terms from the seed (R169). -/
theorem State.calRestore_loads {s : State} {w : Nat} (hm : s.armedRun w = false) (hc : (s.slot (s.slotOf w)).calOp = none) :
    ((s.calRestore w).slot (s.slotOf w)).chTerm = s.seedTerms (s.slotOf w) := by
  unfold State.calRestore
  rw [if_neg (by simp [hm]), if_neg (by simp [hc])]
  refine (congrArg Prod.snd (State.terms_calFinish ..)).trans ?_
  unfold State.loadSeed
  extract_lets bad s1
  have h1 : (s1.slot (s.slotOf w)).chTerm = s.seedTerms (s.slotOf w) := congrArg Slot.chTerm (State.slot_modSlot_self ..)
  split
  · exact (congrArg Slot.chTerm (State.slot_at_of_calm (State.calm_raise ..) _)).trans h1
  · exact h1

/-- A slot's own path takes its terms from the seed (R171). -/
theorem State.writeCalPath_own {s : State} {w v : Nat} (hm : s.armedRun w = false) (hk : s.slotOf w % 17 ≠ 16) (hp : bits v 0 5 = 16) :
    ((s.writeCalPath w v).slot (s.slotOf w)).pathTerm = s.pathTerms (s.slotOf w) 16 := by
  unfold State.writeCalPath
  extract_lets k path
  rw [if_neg (by simp [hm, k, hk, path, hp]), ← hp]
  exact congrArg Slot.pathTerm (State.slot_modSlot_self ..)

/-- A MEASURE_APPLY that has seen its reference puts the terms it found in force (R170). -/
theorem State.calEnd_applies {s : State} {w : Nat} (hc : (s.slot (s.slotOf w)).calOp = some 2) (terms : BitVec 60) (tj : Byte) :
    ((s.calEnd w terms tj true).slot (s.slotOf w)).terms = (terms, terms) := by
  unfold State.calEnd
  extract_lets k
  rw [hc]
  dsimp -zeta only
  rw [if_neg (by simp)]
  extract_lets s1 s2
  have h1 : (s1.slot k).meas = terms := by
    refine (congrArg Prod.fst (State.terms_calHistory ..)).trans ?_
    exact congrArg Slot.meas (s.slot_modSlot_self ..)
  dsimp only [s2]
  rw [State.terms_calFinish, if_pos rfl, State.slot_modSlot_self, State.slot_callOff]
  exact congrArg (·, terms) h1

theorem State.driftRead_first {s : State} {k : Nat} (ha : (s.slot k).afeOn = true) (hb : bit (s.sreg k 3 0x090) 0 = true)
    (hd : (s.slot k).driftRef = none) (reading : Int) : ((s.driftRead k reading).slot k).driftRef = some reading := by
  unfold State.driftRead
  extract_lets x
  rw [if_neg (by simp [x, ha, hb])]
  simp only [x, hd]
  exact congrArg Slot.driftRef (s.slot_modSlot_self ..)

/-! Power-on reset and the stacks (R377, R388). -/

theorem State.porAssert_off (s : State) : s.porAssert.dev.porLow = true ∧ ∀ w, s.porAssert.mode w = .off := ⟨rfl, fun _ => rfl⟩

theorem State.stkCmd_begins {s : State} (stk : Bool) {dest : Nat} (h : s.stkFault (b2n stk) dest = 0) :
    (s.stkCmd (b2n stk) dest).stkTarget (b2n stk) = some dest := by
  unfold State.stkCmd
  extract_lets f
  rw [if_neg (by simp [f, h])]
  cases stk <;> rfl

/-- Settles O60: the fetch, the read and the vector are cases of O13 and O15; a detection with a native class is sent at once. -/
theorem eventsTakeEffect : Obligations.EventsTakeEffect := by
  unfold Obligations.EventsTakeEffect
  intro s dt a
  refine ⟨fun w role sh hr hf hok hon hrej hstream => ?_, fun w role n d hl hon hb hd hw => ?_,
    fun w x hm hb ho ht hq hd hst hx => ?_, fun w => ?_,
    fun w terms tj hc => ?_, fun k reading ha hb hd => ⟨_, rfl, State.driftRead_first ha hb hd reading⟩, ⟨_, rfl, a.porAssert_off⟩,
    fun h => ⟨_, rfl, (State.porRelease_low h []).1⟩, ⟨_, rfl, rfl⟩, fun hp hb => ⟨_, rfl, (State.keeperEnd_waiting hp hb {}).1⟩, fun hp hb hm => ?_,
    fun hb => ⟨_, rfl, (State.marchStep_due hb 0).1⟩, fun hb hc => ?_, fun hb => ⟨_, rfl, (State.stacksStep_due hb 0).1⟩,
    fun stk ht => ?_, fun hg hb k c r => ?_⟩
  · obtain ⟨t, he, hget, -⟩ := fetchesAndReads.1 s dt w role {} sh hr hf hon hrej
    refine ⟨t, he, hget.trans (congrArg some (if_pos ?_))⟩
    rw [hok, hstream, Bool.not_false, Bool.or_true]
    rfl
  · obtain ⟨t, he, -, ⟨new, hnew, hlen, -⟩, -⟩ := ((fetchesAndReads.2.2 s dt w role n 0 0 false d).2 hl hon hb hd).1 hw
    exact ⟨t, new, he, hnew, hlen⟩
  · obtain ⟨t, he, hofs, -, -, -, hvec, -⟩ := ((vectorsPlayOrUnderrun s dt w {} hm hb).2.1 ho ht hq hd hst).1 x hx
    exact ⟨t, he, hofs, hvec⟩
  · intro k ht
    have he (i : Instr) (act : State → State) : Host.Outcome.next (a.hostWrite (winPage w 3) i act) = (.next (act a) : Host.Outcome State Fault Refusal) :=
      congrArg Host.Outcome.next (State.hostWrite_takes ht i act)
    exact ⟨fun hm hk ha hl hb => ⟨⟨_, he .., State.calStart_begins hm hk ha hl hb 1⟩, ⟨_, he .., State.calStart_begins hm hk ha hl hb 2⟩⟩,
      fun hm hc => ⟨_, he .., State.calRestore_loads hm hc⟩, fun val hm hk hp => ⟨_, he .., State.writeCalPath_own hm hk hp⟩⟩
  · have h := State.calEnd_applies hc terms tj
    exact ⟨_, rfl, congrArg Prod.fst h, congrArg Prod.snd h⟩
  · obtain ⟨hbring, -, hver, -⟩ := State.fusesEnd_due hp hb false false
    exact ⟨_, rfl, hbring.trans (if_neg (by simp [a, hm])), hver⟩
  · obtain ⟨hbring, ht, hg, -⟩ := State.firstLock_due hb hc false
    exact ⟨_, rfl, hbring, hg, ht⟩
  · exact ⟨fun h => ⟨_, congrArg Host.Outcome.next (State.hostWrite_takes ht ..), State.stkCmd_begins stk h⟩,
      fun h => ⟨_, congrArg Host.Outcome.next (State.hostWrite_takes ht ..), State.stkCmd_begins stk h⟩⟩
  · have now {i : Instr} {src : Nat} (code native : Nat) (hn : native ≠ 0) (he : exec i s = .next (a.raise src code native)) :
        ∃ t, exec i s = .next t ∧ ∃ d ∈ t.flight, d.src = src ∧ d.at_ = a.t := ⟨_, he, State.raise_onItsWay hg hb hn src code⟩
    simp only [List.forall_mem_cons, List.not_mem_nil, IsEmpty.forall_iff, implies_true, and_true]
    exact ⟨now 0 2 (by decide) rfl, now 1 3 (by decide) rfl, now 2 3 (by decide) rfl, now 0 3 (by decide) rfl, now 1 3 (by decide) rfl,
      now 2 2 (by decide) rfl, now 0 1 (by decide) rfl, now 1 2 (by decide) rfl, now 2 3 (by decide) rfl,
      ⟨_, rfl, State.raise_onItsWay (s := a.modClu c _) hg hb (by decide) ..⟩, now 0 2 (by decide) rfl, now 1 3 (by decide) rfl,
      now 0 2 (by decide) rfl, now 1 2 (by decide) rfl, now 0 2 (by decide) rfl, now 1 3 (by decide) rfl, now 0 2 (by decide) rfl,
      now 0 2 (by decide) rfl, now 0 3 (by decide) rfl, ⟨_, rfl, State.railAssert_onItsWay hg hb r false⟩,
      ⟨_, rfl, State.railAssert_onItsWay hg hb r true⟩, ⟨_, rfl, State.tjRise_onItsWay hg hb (by decide) (by decide) _⟩,
      ⟨_, rfl, State.tjRise_onItsWay hg hb (by decide) (by decide) _⟩, now 0 2 (by decide) rfl, now 0 2 (by decide) rfl, now 0 1 (by decide) rfl,
      now 0 2 (by decide) rfl⟩

end Sys2Proof.Machine

namespace Sys2Proof.Machine

/-! ### Reaction routes, exports and inputs (O12) -/

theorem State.modFb_onlyWin (s : State) (w : Nat) (f : FabSt → FabSt) : OnlyWin s (s.modFb w f) w := s.modWin_onlyWin ..

theorem State.fb_modFb_self (s : State) (w : Nat) (f : FabSt → FabSt) : (s.modFb w f).fb w = f (s.fb w) := by
  rw [State.modFb_eq, State.fb_modWin, if_pos rfl]
  rfl

/-! Routes (R106, R109). -/

/-- A route as CLU_c.FAB_ROUTE stores a written value: TYPE, SRC, SIG and INIT. -/
def routeWord (v : Nat) : Nat := bits v 0 2 + bits v 4 6 * 16 + bits v 12 3 * 4096 + bits v 16 1 * 65536

/-- The value that a written route gives its input: INIT, or false for a reserved signal (R106, R107). -/
def routeInit (v : Nat) : Bool := bit v 16 && !(bits v 0 2 = 1 && 5 ≤ bits v 12 3)

/-- INIT, TYPE and SIG of a stored route are those written. -/
theorem routeInit_routeWord (v : Nat) : routeInit (routeWord v) = routeInit v := by
  have htype : bits (routeWord v) 0 2 = bits v 0 2 := by
    simp only [routeWord, bits]
    omega
  have hsig : bits (routeWord v) 12 3 = bits v 12 3 := by
    simp only [routeWord, bits]
    omega
  have hlow : bits v 0 2 + bits v 4 6 * 16 + bits v 12 3 * 4096 < 65536 := by
    simp only [bits]
    omega
  have hbit : bits v 16 1 < 2 := Nat.mod_lt _ (by decide)
  have hinit : bits (routeWord v) 16 1 = bits v 16 1 := by
    rw [bits, routeWord]
    omega
  rw [routeInit, bit, htype, hsig, hinit, routeInit, bit]

/-- A reaction input as a written route leaves it: at its first value from `t` on, with nothing on its way. -/
def FabSt.rerouted (f : FabSt) (k t : Nat) (v : Bool) : FabSt :=
  { f with ins := putBit f.ins k v, insT := Tab.set 0 f.insT k t, due := f.due.filter fun d => decide (d.2.1 ≠ k) }

theorem State.writeRoute_spec (s : State) (c i v : Nat) : let t := s.writeRoute c i v
    t.fb (16 * c + i / 16) = (s.fb (16 * c + i / 16)).rerouted (i % 16) s.t (routeInit v) ∧
      t = { s with wins := t.wins, clus := t.clus, regs := t.regs } ∧ ∀ u, u ≠ 16 * c + i / 16 → t.win u = s.win u := by
  rw [← routeInit_routeWord v]
  unfold State.writeRoute
  extract_lets w v' k init s1 s2
  exact ⟨s2.fb_modFb_self .., rfl, (s2.modFb_onlyWin ..).2⟩

/-! Exports (R107). -/

/-- The changes that a source sends along its routes are changes of reaction inputs alone. -/
theorem State.routesTake_proj {β : Type} {g : State → β} (hg : ∀ (s : State) (w : Nat) (f : FabSt → FabSt), g (s.modFb w f) = g s)
    (s : State) (p : Nat → Nat → Bool) (v : Bool) (t : Nat) : g (s.routesTake p v t) = g s :=
  State.each_proj g _ _ fun s _ => State.each_proj g s _ fun s _ => hg s ..

/-- An export as CLU_c.FAB_EXPORT stores a written value: PIN, SIG and EN. -/
def exportWord (v : Nat) : Nat := bits v 0 7 + bits v 8 1 * 256

/-- The value that a written export presents: the signal it names, or false (R107). -/
def State.exportValue (s : State) (c v : Nat) : Bool := bit v 8 && s.sigOf (16 * c + bits v 0 4) (bits v 4 3)

theorem exportWord_lt (v : Nat) : exportWord v < 2 ^ 64 := by
  simp only [exportWord, bits]
  omega

/-- PIN, SIG and EN of a stored export are those written. -/
theorem State.exportValue_exportWord (s : State) (c v : Nat) : s.exportValue c (exportWord v) = s.exportValue c v := by
  have hpin : bits (exportWord v) 0 4 = bits v 0 4 := by
    simp only [exportWord, bits]
    omega
  have hsig : bits (exportWord v) 4 3 = bits v 4 3 := by
    simp only [exportWord, bits]
    omega
  have hen : bits (exportWord v) 8 1 = bits v 8 1 := by
    simp only [exportWord, bits]
    omega
  rw [State.exportValue, bit, hpin, hsig, hen, State.exportValue, bit]

/-- An export takes a value: its cluster presents it, and no register changes. -/
theorem State.exportTakes_spec (s : State) (c e : Nat) (v : Bool) (t d : Nat) :
    (s.exportTakes c e v t).clu d = (if c = d then { s.clu c with expo := putBit (s.clu c).expo e v } else s.clu d) ∧
      (s.exportTakes c e v t).regs = s.regs := by
  unfold State.exportTakes
  extract_lets s1
  exact ⟨(State.routesTake_proj (g := (·.clu d)) (fun _ _ _ => rfl) s1 _ v t).trans (s.clu_modClu ..),
    State.routesTake_proj (g := State.regs) (fun _ _ _ => rfl) s1 _ v t⟩

theorem State.reg_of_regs {s t : State} (h : s.regs = t.regs) (x : Nat) : s.reg x = t.reg x := by
  rw [State.reg, h, State.reg]

theorem State.writeExport_spec (s : State) (c e v : Nat) : let t := s.writeExport c e v
    t.clu c = { s.clu c with expo := putBit (s.clu c).expo e (s.exportValue c v) } ∧
      t.creg c (0x800 + 4 * e) = exportWord v ∧ ∀ d, d ≠ c → t.clu d = s.clu d := by
  intro t
  have ht : t = (s.setReg (pageAddr (cluPage c) (0x800 + 4 * e)) (exportWord v)).exportTakes c e (s.exportValue c v) s.t := by
    rw [← s.exportValue_exportWord]
    rfl
  clear_value t
  have h := (s.setReg (pageAddr (cluPage c) (0x800 + 4 * e)) (exportWord v)).exportTakes_spec c e (s.exportValue c v) s.t
  rw [← ht] at h
  exact ⟨(h c).1.trans (if_pos rfl), (State.reg_of_regs (h c).2 _).trans (s.reg_setReg_self _ (exportWord_lt v)),
    fun d hd => (h d).1.trans (if_neg (Ne.symm hd))⟩

/-! Changes that arrive (R106). -/

theorem State.takeDue_spec (s : State) (w t : Nat) {i : Nat} (hi : i < 16) : let u := s.modFb w fun f => f.takeDue i t
    (u.fb w).ins.getLsbD i = (s.fb w).val i t ∧ ∀ k, k ≠ i → (u.fb w).ins.getLsbD k = (s.fb w).ins.getLsbD k := by
  intro u
  have hu : (u.fb w).ins = putBit (s.fb w).ins i ((s.fb w).val i t) := congrArg FabSt.ins (s.fb_modFb_self w _)
  rw [hu]
  exact ⟨(getLsbD_putBit _ _ _ hi).trans (if_pos rfl), fun k hk => (getLsbD_putBit _ _ _ hi).trans (if_neg (Ne.symm hk))⟩

/-- Settles O12: a route's write re-routes one input, an export's write sets one bit of its cluster and sends changes to inputs alone, and a change that
arrives is the input's value at its time. -/
theorem fabricRoutesAndExports : Obligations.FabricRoutesAndExports := by
  unfold Obligations.FabricRoutesAndExports
  refine ⟨fun s dt c i val => ?_, fun s dt c e val => ?_, fun s dt w i => ?_⟩
  · intro a w v ht
    obtain ⟨hfb, honly, hothers⟩ := a.writeRoute_spec c i.toNat v
    have hk : i.toNat % 16 < 16 := Nat.mod_lt _ (by decide)
    have hins := congrArg FabSt.ins hfb
    refine ⟨_, congrArg Host.Outcome.next (State.hostWrite_takes ht ..), ?_, fun d hd => ?_, fun k hne => ?_, honly, hothers⟩
    · rw [hins]
      exact (getLsbD_putBit _ _ _ hk).trans (if_pos rfl)
    · rw [hfb] at hd
      exact of_decide_eq_true (List.mem_filter.mp hd).2
    · rw [hins]
      exact (getLsbD_putBit _ _ _ hk).trans (if_neg (Ne.symm hne))
  · intro a v ht
    obtain ⟨hclu, hreg, hothers⟩ := a.writeExport_spec c e.toNat v
    refine ⟨_, congrArg Host.Outcome.next (State.hostWrite_takes ht ..), ?_, hreg, hothers⟩
    rw [hclu]
    exact (getLsbD_putBit _ _ _ e.isLt).trans (if_pos rfl)
  · intro a
    obtain ⟨hi, hk⟩ := a.takeDue_spec w a.t i.isLt
    exact ⟨_, rfl, hi, hk, a.modFb_onlyWin ..⟩

end Sys2Proof.Machine

namespace Sys2Proof.Machine

/-! ### Decision points and boundaries (O14) -/

theorem State.fillIndicate_onlyWin (s : State) (w : Nat) : OnlyWin s (s.fillIndicate w) w := by
  unfold State.fillIndicate
  exact s.modWin_onlyWin ..

/-- A program error is noted in SEQ.PERR (SEQ.PERR); the window's other parts stay. -/
theorem State.win_perr_self (s : State) (w code : Nat) (sh : Shelf) (t : Nat) : (s.perr w code sh t).win w = { s.win w with
    pl := { s.pl w with perrCode := code, perrCount := satInc 255 (s.pl w).perrCount, perrShelf := sh, perrSeq := (s.pl w).perrSeq + 1 } } := by
  unfold State.perr
  refine (State.win_at_of_calm (State.calm_raiseSeg ..) w).trans ?_
  rw [State.win_bumpSeq]
  exact s.win_modPl_self ..

/-! What a decision point fixes (R89, R90). -/

theorem State.choose_errLand (s : State) (w t code : Nat) (sh : Shelf) :
    s.choose w t (.errLand code sh) = (s.perr w code sh t).modSq w fun q => { q with decided := some (.errLand code sh) } := rfl

theorem State.choose_other {c : Choice} (h : ∀ n sh, c ≠ .errLand n sh) (s : State) (w t : Nat) :
    s.choose w t c = s.modSq w fun q => { q with decided := some c } := by
  cases c with
  | errLand n sh => exact absurd rfl (h n sh)
  | _ => rfl

/-- Since `s`, whose requests that wait have become `left`, the choice `c` has been fixed for window `w`, with its program error if it is one. -/
structure Fixed (s t : State) (w : Nat) (left : List JumpReq) (c : Choice) : Prop where
  sq : t.sq w = { s.sq w with reqs := left, decided := some c }
  only : (∀ n sh, c ≠ .errLand n sh) → OnlyWin s t w
  err : ∀ n sh, c = .errLand n sh → (t.pl w).perrCode = n ∧ (t.pl w).perrShelf = sh ∧ (t.pl w).perrSeq = (s.pl w).perrSeq + 1

theorem State.choose_fixed (s : State) (w t : Nat) (c : Choice) : Fixed s (s.choose w t c) w (s.sq w).reqs c where
  sq := by
    by_cases h : ∃ n sh, c = .errLand n sh
    · obtain ⟨n, sh, rfl⟩ := h
      rw [State.choose_errLand, State.sq_modSq_self, State.sq_eq, State.win_perr_self]
      rfl
    · rw [State.choose_other (by simpa using h), State.sq_modSq_self]
  only h := by
    rw [State.choose_other h]
    exact s.modSq_onlyWin ..
  err n sh h := by
    have hpl : (s.choose w t c).pl w = (s.perr w n sh t).pl w := by
      rw [h, State.choose_errLand]
      exact (congrArg Win.pl (State.win_modSq_self ..) :)
    rw [hpl, State.pl_eq, State.win_perr_self]
    exact ⟨rfl, rfl, rfl⟩

/-- Requests that leave the queue before the choice is fixed. -/
theorem Fixed.of_dequeued {s t : State} {w : Nat} {l left : List JumpReq} {c : Choice}
    (h : Fixed (s.modSq w fun q => { q with reqs := left }) t w l c) (hl : l = left) : Fixed s t w left c where
  sq := by
    rw [h.sq, State.sq_modSq_self, hl]
  only hc := (s.modSq_onlyWin ..).trans (h.only hc)
  err n sh hc := by
    obtain ⟨hcode, hshelf, hseq⟩ := h.err n sh hc
    refine ⟨hcode, hshelf, hseq.trans ?_⟩
    rw [State.pl_eq, State.win_modSq_self]
    rfl

theorem Fixed.fillIndicate {s t : State} {w : Nat} {left : List JumpReq} {c : Choice} (h : Fixed s t w left c) :
    Fixed s (t.fillIndicate w) w left c where
  sq := (t.fillIndicate_sluiceOnly w).sq.trans h.sq
  only hc := (h.only hc).trans (t.fillIndicate_onlyWin w)
  err n sh hc := by
    rw [(t.fillIndicate_sluiceOnly w).pl]
    exact h.err n sh hc

/-- The boundary where the play ends would be a segment boundary by what the program says, and so one that a stop at a segment's end can use (R104). -/
def State.endsSeg (s : State) (w : Nat) : Bool :=
  decide (s.programChoice w (s.pl w).decT ≠ .again) || dKind (s.sq w).cur = 3 || dKind (s.sq w).cur = 4

section
variable {s : State} {w : Nat}

theorem State.decide_settled (h : (s.sq w).owesDecision = false) : s.decide_ w = s := if_pos (by simp [h])

theorem State.decide_due (hm : s.mode w = .run) (hb : (s.pl w).begun = true) (ho : (s.ho w).on = false) (hq : (s.sq w).owesDecision = true)
    (hj : s.noJumpDue w = true) : s.decide_ w = (s.decideNow w).fillIndicate w := by
  unfold State.decide_
  rw [if_neg (by simp [State.running, hm, hb, ho, hq]), State.jumpDue_none hj]

theorem State.decideNow_landing (h : 2 ≤ (s.sq w).landing) : Fixed s (s.decideNow w) w (s.sq w).reqs .finish := by
  have he : s.decideNow w = s.choose w (s.pl w).decT .finish := if_pos h
  rw [he]
  exact s.choose_fixed ..

variable (hl : (s.sq w).landing < 2)
include hl

theorem State.decideNow_stop (h : (s.sq w).stopDue (s.endsSeg w) (s.pl w).decT = true) : Fixed s (s.decideNow w) w (s.sq w).reqs .stopLand := by
  have he : s.decideNow w = s.choose w (s.pl w).decT .stopLand := (if_neg (Nat.not_le.mpr hl)).trans (if_pos h)
  rw [he]
  exact s.choose_fixed ..

theorem State.decideNow_unstopped (h : (s.sq w).stopDue (s.endsSeg w) (s.pl w).decT = false) : s.decideNow w =
    match readyReq (s.sq w).jready (s.pl w).decT (s.sq w).reqs with
    | some (r, rest) => (s.modSq w fun q => { q with reqs := rest }).choose w (s.pl w).decT ((s.sq w).checkChoice (.jump r.slot))
    | none => s.choose w (s.pl w).decT ((s.sq w).checkChoice (s.programChoice w (s.pl w).decT)) :=
  (if_neg (Nat.not_le.mpr hl)).trans (if_neg (ne_true_of_eq_false h))

theorem State.decideNow_jump (h : (s.sq w).stopDue (s.endsSeg w) (s.pl w).decT = false) {r : JumpReq} {left : List JumpReq}
    (hr : readyReq (s.sq w).jready (s.pl w).decT (s.sq w).reqs = some (r, left)) :
    Fixed s (s.decideNow w) w left ((s.sq w).checkChoice (.jump r.slot)) := by
  rw [State.decideNow_unstopped hl h, hr]
  refine (State.choose_fixed ..).of_dequeued ?_
  rw [State.sq_modSq_self]

theorem State.decideNow_program (h : (s.sq w).stopDue (s.endsSeg w) (s.pl w).decT = false)
    (hr : readyReq (s.sq w).jready (s.pl w).decT (s.sq w).reqs = none) :
    Fixed s (s.decideNow w) w (s.sq w).reqs ((s.sq w).checkChoice (s.programChoice w (s.pl w).decT)) := by
  rw [State.decideNow_unstopped hl h, hr]
  exact s.choose_fixed ..

end

/-! What starts at a boundary (R88, R90). -/

/-- The sequencer as a segment's first play finds it. -/
def SeqSt.entered (q : SeqSt) (d : RawDesc) (landing : Nat) (f : List (Role × Fetched)) : SeqSt :=
  { q with
    cur := d, fetched := f, play := 1, ofs := 0, playId := q.playId + 1, playFail := false, decided := none, stopMark := none, markDue := 1,
    invalid := none, landing := landing }

theorem State.sq_takeChain (s : State) (w : Nat) (along : Bool) : ∃ f, (s.takeChain w along).sq w = { s.sq w with fetched := f } := by
  unfold State.takeChain
  split
  · exact ⟨(s.sq w).fetched, (s.modSl_sluiceOnly ..).sq⟩
  · extract_lets r
    exact ⟨_, (State.modSl_sluiceOnly ..).sq.trans (s.sq_modSq_self ..)⟩

theorem State.sq_streamMismatch (s : State) (w : Nat) : (s.streamMismatch w).sq w = s.sq w := congrArg Course.sq (s.course_streamMismatch w w)

/-- The stored heads and the period generator follow a segment's start; of the sequencer only what is fetched (R95, R151). -/
theorem State.sq_enterSeg (s : State) (w : Nat) (r : Role) (d : RawDesc) (landing : Nat) :
    ∃ f, (s.enterSeg w r d landing).sq w = (s.sq w).entered d landing f := by
  unfold State.enterSeg
  extract_lets along h head gone s1 s2 s3
  have h1 : s1.sq w = (s.sq w).entered d landing _ := s.sq_modSq_self ..
  obtain ⟨f, h2⟩ := (s1.modSl w fun x => { x with
    bufs := roleSet .path head (x.bufs.filter fun y => !gone.contains y.1), pushNow := (0, 0) }).sq_takeChain w along
  rw [(s1.modSl_sluiceOnly ..).sq, h1] at h2
  have h3 : s3.sq w = s2.sq w := by
    dsimp only [s3]
    split
    · rfl
    · exact s2.sq_modPl ..
  exact ⟨f, (State.fillIndicate_sluiceOnly ..).sq.trans ((s3.sq_streamMismatch w).trans (h3.trans h2))⟩

theorem State.enterFetched_good {s : State} {w : Nat} {r : Role} {d : RawDesc} (h : roleGet r (s.sq w).fetched = some (.good d)) (sh : Shelf)
    (t : Nat) : s.enterFetched w r sh t = s.enterSeg w r d (if dKind d = 8 then 1 else 0) := by
  rw [State.enterFetched, h]
  rfl

/-- A descriptor held as sound starts with its first play, and the call stack stands (R88, R90). -/
theorem State.enterFetched_starts {s : State} {w : Nat} {r : Role} {d : RawDesc} (h : roleGet r (s.sq w).fetched = some (.good d)) (sh : Shelf)
    (t : Nat) : let q := (s.enterFetched w r sh t).sq w
    q.cur = d ∧ q.play = 1 ∧ q.ofs = 0 ∧ q.decided = none ∧ q.stack = (s.sq w).stack := by
  intro q
  obtain ⟨f, hq⟩ : ∃ f, q = (s.sq w).entered d _ f := by
    dsimp only [q]
    rw [State.enterFetched_good h]
    exact s.sq_enterSeg ..
  rw [hq]
  exact ⟨rfl, rfl, rfl, rfl, rfl⟩

/-- The call stack as the choice of NEXT or of a return leaves it before the successor starts (R93). -/
theorem State.enterFetched_stacked {s : State} {w : Nat} {r : Role} {d : RawDesc} (h : roleGet r (s.sq w).fetched = some (.good d)) (sh : Shelf)
    (t : Nat) (st : List Shelf) : let q := ((s.modSq w fun q => { q with stack := st }).enterFetched w r sh t).sq w
    q.cur = d ∧ q.play = 1 ∧ q.ofs = 0 ∧ q.decided = none ∧ q.stack = st := by
  have hq := s.sq_modSq_self w fun q => { q with stack := st }
  have h' : roleGet r ((s.modSq w fun q => { q with stack := st }).sq w).fetched = some (.good d) := by
    rw [hq]
    exact h
  have hs := State.enterFetched_starts h' sh t
  rwa [hq] at hs

theorem State.enterLanding_starts (s : State) (w why : Nat) : let q := (s.enterLanding w why).sq w
    q.cur = (s.sq w).land1 ∧ q.landing = why ∧ q.play = 1 ∧ q.ofs = 0 := by
  intro q
  obtain ⟨f, hq⟩ : ∃ f, q = (s.sq w).entered _ _ f := s.sq_enterSeg ..
  rw [hq]
  exact ⟨rfl, rfl, rfl, rfl⟩

theorem State.repeatPlay_starts (s : State) (w : Nat) : let q := (s.repeatPlay w).sq w
    q.play = (s.sq w).play + 1 ∧ q.ofs = 0 ∧ q.cur = (s.sq w).cur ∧ q.decided = none ∧ q.stack = (s.sq w).stack := by
  intro q
  have hq : q = _ := (State.fillIndicate_sluiceOnly ..).sq.trans ((State.modSl_sluiceOnly ..).sq.trans (s.sq_modSq_self ..))
  rw [hq]
  exact ⟨rfl, rfl, rfl, rfl, rfl⟩

theorem State.boundary_starts {s : State} {w : Nat} (hm : s.mode w = .run) (hb : (s.pl w).begun = true) (ho : (s.ho w).on = false)
    (he : (s.sq w).ofs = (s.sq w).playEnd) (ht : (s.pl w).nextT ≤ s.t) (hst : s.stageDue w = false) {c : Choice} (hc : (s.sq w).decided = some c)
    (hf : c ≠ .finish) : s.boundary w = s.startChoice w (s.pl w).nextT c := by
  unfold State.boundary
  extract_lets q
  rw [if_neg (by simp [State.running, hm, hb, ho, q, he, ht, hst]), hc]
  cases c with
  | finish => exact absurd rfl hf
  | _ => rfl

/-- Settles O14: a decision point fixes one choice, in the order of R90, and a boundary starts what was fixed: a play again, a fetched descriptor with
the call stack that its choice leaves, or entry 1's landing. -/
theorem decisionsAndBoundaries : Obligations.DecisionsAndBoundaries := by
  unfold Obligations.DecisionsAndBoundaries
  refine ⟨fun s dt w => ?_, fun s dt w => ?_⟩
  · intro a q prog seg
    refine ⟨fun h => congrArg Host.Outcome.next (State.decide_settled h), fun hm hb ho hq hj => ?_⟩
    have hex : exec (.decisionPoint dt w) s = .next ((a.decideNow w).fillIndicate w) :=
      congrArg Host.Outcome.next (State.decide_due hm hb ho hq hj)
    refine ⟨fun hl => ?_, fun hl hstop => ?_, fun c left hl hstop hc => ?_⟩
    · have hfix := (State.decideNow_landing hl).fillIndicate
      exact ⟨_, hex, hfix.sq, hfix.only (by simp)⟩
    · have hfix := (State.decideNow_stop hl hstop).fillIndicate
      exact ⟨_, hex, hfix.sq, hfix.only (by simp)⟩
    · have hfix : Fixed a (a.decideNow w) w left c := by
        obtain ⟨r, hr, rfl⟩ | ⟨hr, rfl, rfl⟩ := hc
        · exact State.decideNow_jump hl hstop hr
        · exact State.decideNow_program hl hstop hr
      have hfix := hfix.fillIndicate
      exact ⟨_, hex, hfix.sq, hfix.only, hfix.err⟩
  · intro a q hm hb ho he ht hst
    have hex {c : Choice} (hc : q.decided = some c) (hf : c ≠ .finish) :
        exec (.playBoundary dt w) s = .next (a.startChoice w (a.pl w).nextT c) :=
      congrArg Host.Outcome.next (State.boundary_starts hm hb ho he ht hst hc hf)
    refine ⟨fun hc => ?_, fun d hc hd => ?_, fun d hc hd => ?_, fun d hc hd => ?_, fun k d hc hd => ?_, fun hc => ?_, fun n sh hc => ?_⟩
    · exact ⟨_, hex hc (by simp), a.repeatPlay_starts w⟩
    · refine ⟨_, hex hc (by simp), ?_⟩
      by_cases hk : dKind q.cur = 5
      · have hcall : a.startChoice w (a.pl w).nextT .next = _ := congrArg (fun x : State => x.enterFetched w .next (dNext q.cur) _) (if_pos hk)
        rw [hcall, if_pos hk]
        exact State.enterFetched_stacked hd ..
      · have hnext : a.startChoice w (a.pl w).nextT .next = _ := congrArg (fun x : State => x.enterFetched w .next (dNext q.cur) _) (if_neg hk)
        rw [hnext, if_neg hk]
        exact State.enterFetched_starts hd ..
    · obtain ⟨hcur, hplay, hofs, -, hstack⟩ := State.enterFetched_starts hd (dAlt q.cur) (a.pl w).nextT
      exact ⟨_, hex hc (by simp), hcur, hplay, hofs, hstack⟩
    · obtain ⟨hcur, hplay, hofs, -, hstack⟩ := State.enterFetched_stacked hd (q.stack.headD nullShelf) (a.pl w).nextT q.stack.tail
      exact ⟨_, hex hc (by simp), hcur, hplay, hofs, hstack⟩
    · obtain ⟨hcur, hplay, hofs, -, hstack⟩ := State.enterFetched_starts hd (a.jumpShelf w k.toNat) (a.pl w).nextT
      exact ⟨_, hex hc (by simp), hcur, hplay, hofs, hstack⟩
    · exact ⟨_, hex hc (by simp), a.enterLanding_starts w 2⟩
    · exact ⟨_, hex hc (by simp), a.enterLanding_starts w 3⟩

end Sys2Proof.Machine

namespace Sys2Proof.Machine

/-! ### Strobes give verdicts (O26) -/

/-! What a strobe's close shows of a window. -/

/-- A window's mode, the counts of its play, its capture and its counters. -/
structure Tally where
  md : ModeSt
  pl : PlaySt
  cp : CapSt
  mn : MonSt

def Win.tally (x : Win) : Tally := ⟨x.md, x.pl, x.cp, x.mn⟩

def State.tally (s : State) (w : Nat) : Tally := (s.win w).tally

theorem State.tally_of_calm {s t : State} (h : s.calm = t.calm) (v : Nat) : s.tally v = t.tally v := congrArg Win.tally (State.win_at_of_calm h v)

theorem State.tally_modWin_self (s : State) (w : Nat) (f : Win → Win) : (s.modWin w f).tally w = (f (s.win w)).tally := by
  rw [State.tally, State.win_modWin, if_pos rfl]

theorem State.tally_modWin (s : State) (w : Nat) {f : Win → Win} (h : (f (s.win w)).tally = s.tally w) (v : Nat) :
    (s.modWin w f).tally v = s.tally v := by
  by_cases hv : w = v
  · subst hv
    rw [State.tally_modWin_self, h]
  · rw [State.tally, State.win_modWin, if_neg hv, State.tally]

theorem State.tally_modPl_self (s : State) (w : Nat) (f : PlaySt → PlaySt) : (s.modPl w f).tally w = { s.tally w with pl := f (s.pl w) } :=
  s.tally_modWin_self ..
theorem State.tally_modCp_self (s : State) (w : Nat) (f : CapSt → CapSt) : (s.modCp w f).tally w = { s.tally w with cp := f (s.cp w) } :=
  s.tally_modWin_self ..

@[simp] theorem State.tally_modFb (s : State) (w : Nat) (f : FabSt → FabSt) (v : Nat) : (s.modFb w f).tally v = s.tally v := s.tally_modWin w rfl v
@[simp] theorem State.tally_modSq (s : State) (w : Nat) (f : SeqSt → SeqSt) (v : Nat) : (s.modSq w f).tally v = s.tally v := s.tally_modWin w rfl v
@[simp] theorem State.tally_modSt (s : State) (w : Nat) (f : StpSt → StpSt) (v : Nat) : (s.modSt w f).tally v = s.tally v := s.tally_modWin w rfl v
@[simp] theorem State.tally_engOccur (s : State) (w src sel code t bound v : Nat) : (s.engOccur w src sel code t bound).tally v = s.tally v :=
  s.tally_modWin w rfl v
@[simp] theorem State.tally_raiseCh (s : State) (w i code native v : Nat) : (s.raiseCh w i code native).tally v = s.tally v :=
  State.tally_of_calm (s.calm_raiseCh ..) v

/-! Decision signals (R107). -/

/-- A signal that takes its value changes signals and inputs of windows, and exports of clusters. -/
theorem State.signalTakes_proj {β : Type} {g : State → β} (hfb : ∀ (s : State) (w : Nat) (f : FabSt → FabSt), g (s.modFb w f) = g s)
    (hclu : ∀ (s : State) (c : Nat) (f : Clu → Clu), g (s.modClu c f) = g s) (s : State) (w sig : Nat) (v : Bool) (t : Nat) :
    g (s.signalTakes w sig v t) = g s := by
  have hexp (s : State) (c e : Nat) : g (s.exportTakes c e v t) = g s := by
    unfold State.exportTakes
    exact (State.routesTake_proj hfb ..).trans (hclu ..)
  unfold State.signalTakes
  extract_lets c k s1 s2
  have h1 : g s1 = g s := hfb ..
  split
  · exact h1
  · refine (State.each_proj g s2 _ fun s e => ?_).trans ((State.routesTake_proj hfb ..).trans h1)
    dsimp only
    split
    · exact hexp ..
    · rfl

@[simp] theorem State.tally_signalTakes (s : State) (w sig : Nat) (b : Bool) (t v : Nat) : (s.signalTakes w sig b t).tally v = s.tally v :=
  State.signalTakes_proj (g := (·.tally v)) (fun s w f => s.tally_modFb w f v) (fun _ _ _ => rfl) ..

@[simp] theorem State.tally_levelSignals (s : State) (w final t v : Nat) : (s.levelSignals w final t).tally v = s.tally v := by
  simp [State.levelSignals]

@[simp] theorem State.tally_failPlay (s : State) (w : Nat) (b : Strobe) (v : Nat) : (s.failPlay w b).tally v = s.tally v := s.tally_modSq ..

/-! What a close forms (R107, R198 to R201). -/

/-- The play's counts after a strobe that saw `final` at its close. -/
def PlaySt.seenFinal (p : PlaySt) (final : Nat) : PlaySt := { p with etRef := refAfter p.etRef final }

/-- A compared vector's close tells whether it failed and whether the crossing lost its verdict, which else crosses (R26, R198). -/
theorem State.verdict_spec (s : State) (w : Nat) (b : Strobe) (lv : List Nat) (final : Nat) : let p := s.verdict w b lv final
    p.1.lost = decide (512 ≤ (s.cp w).xing) ∧ (p.1.fail = lv.any fun l => !levelPasses b.code.toNat (s.pl w).etRef l) ∧
      p.2.tally w = { s.tally w with
        pl := (s.pl w).seenFinal final
        cp := { s.cp w with xing := if 512 ≤ (s.cp w).xing then (s.cp w).xing else (s.cp w).xing + 1 } } := by
  unfold State.verdict
  extract_lets ref code fail lost j s0 s1 s2 p
  refine ⟨rfl, rfl, ?_⟩
  have h0 : s0.tally w = { s.tally w with pl := (s.pl w).seenFinal final } := s.tally_modPl_self ..
  have h1 : s1.tally w = s0.tally w := by simp [s1]
  have h2 : s2.tally w = s1.tally w := by
    dsimp only [s2]
    split
    · exact State.tally_failPlay ..
    · rfl
  have h := h2.trans (h1.trans h0)
  clear_value s2
  have hcp : s2.cp w = s.cp w := congrArg Tally.cp h
  by_cases hl : 512 ≤ (s.cp w).xing
  · have hp : p.2 = s2.raiseCh w 6 1 2 := if_pos (decide_eq_true hl)
    rw [hp, if_pos hl, State.tally_raiseCh, h]
    rfl
  · have hp : p.2 = _ := if_neg (mt of_decide_eq_true hl)
    rw [hp, if_neg hl, State.tally_engOccur, State.tally_engOccur, State.tally_modCp_self, hcp, h]

/-- A captured vector's close tells its final code (R199). -/
theorem State.capture_spec (s : State) (w : Nat) (b : Strobe) (lv : List Nat) (final : Nat) : let p := s.capture w b lv final
    p.1.final = final ∧ p.2.tally w = { s.tally w with pl := (s.pl w).seenFinal final } := by
  unfold State.capture
  extract_lets s0
  refine ⟨rfl, ?_⟩
  rw [State.tally_engOccur, State.tally_levelSignals]
  exact s.tally_modPl_self ..

/-- What the close of strobe `b` forms, and the state at its instant, nothing entered yet (R107). -/
def State.judged (s : State) (w : Nat) (b : Strobe) (levels : List (BitVec 2)) (final : BitVec 2) (drained : Nat) : Judged × State :=
  let s1 := s.modCp w fun c => { c with xing := c.xing - drained }
  if isVerdict b.code.toNat then s1.verdict w b (seen b.edge levels final) final.toNat else s1.capture w b (seen b.edge levels final) final.toNat

section
variable {s : State} {w : Nat} {b : Strobe} (levels : List (BitVec 2)) (final : BitVec 2) (drained : Nat)

theorem State.judged_verdict (hv : isVerdict b.code.toNat = true) : let p := s.judged w b levels final drained
    let n := (s.cp w).xing - drained
    p.1.lost = decide (512 ≤ n) ∧ (p.1.fail = (seen b.edge levels final).any fun l => !levelPasses b.code.toNat (s.pl w).etRef l) ∧
      p.2.tally w = { s.tally w with
        pl := (s.pl w).seenFinal final.toNat, cp := { s.cp w with xing := if 512 ≤ n then n else n + 1 } } := by
  have h1 := s.tally_modCp_self w fun c => { c with xing := c.xing - drained }
  unfold State.judged
  extract_lets s1 p n
  obtain ⟨hlost, hfail, ht⟩ := s1.verdict_spec w b (seen b.edge levels final) final.toNat
  have hp : p = _ := if_pos hv
  have hcp : s1.cp w = { s.cp w with xing := n } := congrArg Tally.cp h1
  have hpl : s1.pl w = s.pl w := congrArg Tally.pl h1
  have h1 : s1.tally w = { s.tally w with cp := { s.cp w with xing := n } } := h1
  rw [hcp, hpl, h1] at ht
  rw [hcp] at hlost
  rw [hpl] at hfail
  rw [hp]
  exact ⟨hlost, hfail, ht⟩

theorem State.judged_capture (hv : isVerdict b.code.toNat = false) : let p := s.judged w b levels final drained
    p.1.final = final.toNat ∧ p.2.tally w = { s.tally w with
      pl := (s.pl w).seenFinal final.toNat, cp := { s.cp w with xing := (s.cp w).xing - drained } } := by
  have h1 := s.tally_modCp_self w fun c => { c with xing := c.xing - drained }
  unfold State.judged
  extract_lets s1 p
  obtain ⟨hfinal, ht⟩ := s1.capture_spec w b (seen b.edge levels final) final.toNat
  have hp : p = _ := if_neg (ne_true_of_eq_false hv)
  have hpl : s1.pl w = s.pl w := congrArg Tally.pl h1
  have h1 : s1.tally w = { s.tally w with cp := { s.cp w with xing := (s.cp w).xing - drained } } := h1
  rw [hpl, h1] at ht
  rw [hp]
  exact ⟨hfinal, ht⟩

/-- A close moves the ET reference and the crossing, and of the window's tally nothing else (R26, R200). -/
theorem State.judged_tally (s : State) (w : Nat) (b : Strobe) : ∃ n, (s.judged w b levels final drained).2.tally w = { s.tally w with
    pl := (s.pl w).seenFinal final.toNat, cp := { s.cp w with xing := n } } := by
  cases hv : isVerdict b.code.toNat with
  | true => exact ⟨_, (State.judged_verdict levels final drained hv).2.2⟩
  | false => exact ⟨_, (State.judged_capture levels final drained hv).2⟩

end

/-! What entering it changes: the counters, and nothing that a count does not (R199, R202). -/

/-- The capture's strobes, its crossing and its losses. -/
def CapSt.quiet (c : CapSt) : CapSt := { strobes := c.strobes, xing := c.xing, lost := c.lost }

/-- The counts of verdicts and captures. -/
def MonSt.quiet (m : MonSt) : MonSt := { compared := m.compared, failed := m.failed, hist := m.hist, lostV := m.lostV }

/-- The tally without the fail area, the log, the records and the counts of these. -/
def State.score (s : State) (w : Nat) : Tally := { s.tally w with cp := (s.cp w).quiet, mn := (s.mn w).quiet }

theorem State.score_of_tally {s : State} {w : Nat} {x : Tally} (h : s.tally w = x) : s.score w = { x with cp := x.cp.quiet, mn := x.mn.quiet } :=
  congrArg (fun x : Tally => { x with cp := x.cp.quiet, mn := x.mn.quiet }) h

theorem State.score_modCp_self (s : State) (w : Nat) (f : CapSt → CapSt) : (s.modCp w f).score w = { s.score w with cp := (f (s.cp w)).quiet } :=
  State.score_of_tally (s.tally_modCp_self ..)

theorem State.score_modMn_self (s : State) (w : Nat) (f : MonSt → MonSt) : (s.modMn w f).score w = { s.score w with mn := (f (s.mn w)).quiet } :=
  State.score_of_tally (s.tally_modWin_self ..)

theorem State.score_modCp {s : State} {w : Nat} {f : CapSt → CapSt} (h : (f (s.cp w)).quiet = (s.cp w).quiet) : (s.modCp w f).score w = s.score w := by
  rw [State.score_modCp_self, h]
  rfl

theorem State.score_modMn {s : State} {w : Nat} {f : MonSt → MonSt} (h : (f (s.mn w)).quiet = (s.mn w).quiet) : (s.modMn w f).score w = s.score w := by
  rw [State.score_modMn_self, h]
  rfl

@[simp] theorem State.score_raiseCh (s : State) (w i code native v : Nat) : (s.raiseCh w i code native).score v = s.score v :=
  State.score_of_tally (s.tally_raiseCh ..)
@[simp] theorem State.score_setStack (s : State) (m : List Host.Cell) (v : Nat) : (s.setStack m).score v = s.score v := rfl
@[simp] theorem State.score_storeEntry (s : State) (w i : Nat) (e : BitVec 128) (v : Nat) : (s.storeEntry w i e).score v = s.score v := rfl

theorem State.score_queueGap (s : State) (w : Nat) : (s.queueGap w).score w = s.score w := by
  unfold State.queueGap
  extract_lets c
  split
  · rfl
  · split
    · exact State.score_modCp rfl
    · rfl

theorem State.score_queueRec (s : State) (w : Nat) (r : Rec) : (s.queueRec w r).score w = s.score w := by
  unfold State.queueRec
  extract_lets s1 s2 s3
  have h1 : s1.score w = s.score w := s.score_queueGap w
  split
  · exact (State.score_modCp rfl).trans h1
  · have h2 : s2.score w = s1.score w := State.score_modCp rfl
    have h3 : s3.score w = s2.score w := State.score_modMn (by split <;> rfl)
    rw [State.score_raiseCh, h3, h2, h1]

theorem State.score_bitmapPut (s : State) (w : Nat) (fail : Bool) : (s.bitmapPut w fail).score w = s.score w := by
  have full (t : State) : ((t.modCp w fun c => { c with bitmapFull := true }).raiseCh w 6 2 0).score w = t.score w :=
    (State.score_raiseCh ..).trans (State.score_modCp rfl)
  unfold State.bitmapPut
  extract_lets c word s1
  have h1 : s1.score w = s.score w := by
    dsimp only [s1]
    split <;> exact State.score_modCp rfl
  split
  · rfl
  · split
    · exact full s
    · split
      · exact (full s1).trans h1
      · exact h1

theorem State.score_logEntry (s : State) (w : Nat) (b : Strobe) (e : BitVec 128) : (s.logEntry w b e).score w = s.score w := by
  unfold State.logEntry
  extract_lets c key time all
  split
  · exact (State.score_modMn rfl).trans (State.score_modCp rfl)
  · split
    · exact State.score_modCp rfl
    · exact (State.score_raiseCh ..).trans ((State.score_modMn rfl).trans (State.score_modCp rfl))

theorem State.score_failRecord (s : State) (w : Nat) (r : Rec) : (s.failRecord w r).score w = s.score w := by
  unfold State.failRecord
  extract_lets limit
  split
  · exact State.score_modMn rfl
  · exact (State.score_queueRec ..).trans (State.score_modMn rfl)

/-- The log entry and the record of a vector change no count of verdicts. -/
theorem State.score_reportVector (s : State) (w : Nat) (b : Strobe) (cap : Bool) (rcv : Nat) (chg noref : Bool) :
    (s.reportVector w b cap rcv chg noref).score w = s.score w := by
  unfold State.reportVector
  extract_lets exp cfg e r s1
  have h1 : s1.score w = s.score w := by
    dsimp only [s1]
    split
    · exact s.score_logEntry ..
    · rfl
  by_cases h : cfg.getLsbD (if cap then 4 else 3) = true
  · rw [if_pos h]
    exact (s1.score_failRecord ..).trans h1
  · rw [if_neg h]
    exact h1

/-- The counters take a verdict, and a failing one once more (R202). -/
def MonSt.counted (m : MonSt) (fail : Bool) : MonSt :=
  { m with compared := (m.compared + 1) % 2 ^ 48, failed := if fail then (m.failed + 1) % 2 ^ 48 else m.failed }

theorem State.score_countVerdict (s : State) (w : Nat) (b : Strobe) (fail : Bool) :
    (s.countVerdict w b fail).score w = { s.score w with mn := ((s.mn w).counted fail).quiet } := by
  unfold State.countVerdict
  extract_lets s1 i first s2
  have h1 : s1.score w = { s.score w with mn := ((s.mn w).counted false).quiet } := s.score_modMn_self ..
  have hmn : s1.mn w = (s.mn w).counted false := (congrArg Win.mn ((s.win_modWin ..).trans (if_pos rfl)) :)
  have h2 : s2.score w = { s1.score w with mn := ((s.mn w).counted true).quiet } := by
    rw [s1.score_modMn_self, hmn]
    rfl
  cases fail with
  | false => exact h1
  | true =>
    rw [if_pos rfl]
    refine Eq.trans ?_ (h2.trans (by rw [h1]))
    split
    · exact State.score_raiseCh ..
    · rfl

/-- The GAP record of earlier losses settles them (R26). -/
theorem State.score_lossRecord (s : State) (w : Nat) :
    (s.lossRecord w).score w = { s.score w with cp := { (s.cp w).quiet with lost := none } } := by
  unfold State.lossRecord
  split
  · next h =>
    have hq : (s.cp w).quiet = { (s.cp w).quiet with lost := none } := by
      rw [CapSt.quiet, h]
    exact congrArg (fun c : CapSt => { s.score w with cp := c }) hq
  · next n t v _ =>
    set s1 := s.queueRec w (s.winRec w 5 2 0x1A t (pack [(0, 32, min (2 ^ 32 - 1) n), (32, 48, v)]))
    have h1 : s1.score w = s.score w := s.score_queueRec ..
    have hcp : (s1.cp w).quiet = (s.cp w).quiet := congrArg Tally.cp h1
    rw [State.score_modCp_self, h1]
    exact congrArg (fun c : CapSt => { s.score w with cp := { c with lost := none } }) hcp

/-! What is entered for a strobe (R26, R199, R202). -/

section
variable {s : State} {w : Nat} {b : Strobe} {j : Judged}

theorem State.report_captured (hb : b.code = 9) : (s.report w b j).score w = { s.score w with
    mn := { (s.mn w).quiet with hist := Tab.set 0 (s.mn w).hist j.final (satInc (2 ^ 32 - 1) (Tab.get 0 (s.mn w).hist j.final)) } } := by
  unfold State.report
  rw [if_pos hb, State.score_reportVector]
  exact s.score_modMn_self ..

/-- The verdicts lost since the last GAP record, with one more. -/
def CapSt.losing (c : CapSt) (b : Strobe) : CapSt :=
  { c with lost := match c.lost with | none => some (1, b.tv, b.vec) | some (n, t, v) => some (n + 1, t, v) }

theorem CapSt.lost_losing (c : CapSt) (b : Strobe) : (c.losing b).lost ≠ none := by
  unfold CapSt.losing
  cases c.lost <;> simp

theorem State.report_lost (hb : b.code ≠ 9) (hj : j.lost = true) : (s.report w b j).score w = { s.score w with
    cp := ((s.cp w).losing b).quiet, mn := { (s.mn w).quiet with lostV := satInc (2 ^ 32 - 1) (s.mn w).lostV } } := by
  unfold State.report
  rw [if_neg hb, if_pos hj]
  extract_lets s1
  have h1 : s1.score w = { s.score w with cp := ((s.cp w).losing b).quiet } := s.score_modCp_self ..
  have hmn : (s1.mn w).quiet = (s.mn w).quiet := congrArg Tally.mn h1
  rw [State.score_bitmapPut, State.score_modMn_self, h1]
  exact congrArg (fun m : MonSt => ({ s.score w with
    cp := ((s.cp w).losing b).quiet, mn := { m with lostV := satInc (2 ^ 32 - 1) m.lostV } } : Tally)) hmn

theorem State.report_counted (hb : b.code ≠ 9) (hj : j.lost = false) : (s.report w b j).score w = { s.score w with
    cp := { (s.cp w).quiet with lost := none }, mn := ((s.mn w).counted j.fail).quiet } := by
  unfold State.report
  rw [if_neg hb, if_neg (ne_true_of_eq_false hj)]
  extract_lets s1
  have h0 := s.score_lossRecord w
  have hmn : ((s.lossRecord w).mn w).quiet = (s.mn w).quiet := congrArg Tally.mn h0
  have h1 : s1.score w = { s.score w with cp := { (s.cp w).quiet with lost := none }, mn := ((s.mn w).counted j.fail).quiet } := by
    dsimp only [s1]
    rw [State.score_bitmapPut, State.score_countVerdict, h0]
    exact (congrArg (fun m : MonSt => ({ s.score w with
      cp := { (s.cp w).quiet with lost := none }, mn := (m.counted j.fail).quiet } : Tally)) hmn :)
  split
  · exact (s1.score_reportVector ..).trans h1
  · exact h1

end

/-! The capture's end (R204, R207, R208). -/

theorem State.finishCapture_open {s : State} {w : Nat} (h : (s.cp w).strobes ≠ []) : s.finishCapture w = s := by
  simp [State.finishCapture, h]

theorem State.finishCapture_counts (s : State) (w : Nat) : (s.finishCapture w).score w = s.score w ∧ (s.finishCapture w).mn w = s.mn w := by
  unfold State.finishCapture
  extract_lets c s1
  have h1 : s1.score w = s.score w ∧ s1.mn w = s.mn w := by
    dsimp only [s1]
    split
    · exact ⟨(State.score_modCp rfl).trans (s.score_setStack ..), (State.mn_modCp ..).trans (s.mn_setStack ..)⟩
    · exact ⟨rfl, rfl⟩
  split
  · exact ⟨rfl, rfl⟩
  · split
    · split
      · exact ⟨(s1.score_storeEntry ..).trans h1.1, (s1.mn_storeEntry ..).trans h1.2⟩
      · exact h1
    · split
      · exact h1
      · exact ⟨(State.score_modCp rfl).trans h1.1, (s1.mn_modCp ..).trans h1.2⟩

/-! The order of the vectors (R204, R205). -/

theorem Strobe.same_self (b : Strobe) : b.same b = true := by simp [Strobe.same]

/-- No strobe is handed on from a list in which none has closed. -/
theorem splitDone_open {l : List Strobe} (h : ∀ x ∈ l, x.done = none) : splitDone l = ([], l) := by
  induction l with
  | nil => rfl
  | cons x l ih =>
    rw [splitDone, ih fun y hy => h y (.tail _ hy), h x (.head _)]
    split <;> rfl

/-- The strobe of the same vector takes what its close has formed. -/
def markDone (b : Strobe) (j : Judged) (x : Strobe) : Strobe := if x.same b then { x with done := some j } else x

theorem markDone_other {b x : Strobe} (h : x.same b = false) (j : Judged) : markDone b j x = x := if_neg (ne_true_of_eq_false h)

theorem map_markDone_others {b : Strobe} {l : List Strobe} (h : ∀ x ∈ l, x.same b = false) (j : Judged) : l.map (markDone b j) = l :=
  (List.map_congr_left fun x hx => markDone_other (h x hx) j).trans l.map_id

theorem State.reportDone_first {s : State} {w : Nat} {b : Strobe} {rest : List Strobe} {j : Judged} (hs : (s.cp w).strobes = b :: rest)
    (hj : b.done = some j) (hd : b.code ≠ 0xD) (hr : ∀ x ∈ rest, x.done = none) :
    s.reportDone w = (s.modCp w fun c => { c with strobes := rest }).report w b j := by
  have hsplit : splitDone (b :: rest) = ([b], rest) := by
    rw [splitDone, if_neg hd, if_pos (by simp [hj]), splitDone_open hr]
  unfold State.reportDone
  rw [hs, hsplit]
  dsimp only [State.each, List.foldl_cons, List.foldl_nil]
  rw [hj]

/-- An earlier vector's open strobe holds up all that have closed. -/
theorem State.reportDone_heldUp {s : State} {w : Nat} {c : Strobe} {rest : List Strobe} (hs : (s.cp w).strobes = c :: rest) (hc : c.done = none)
    (hd : c.code ≠ 0xD) : s.reportDone w = s.modCp w fun x => { x with strobes := c :: rest } := by
  have hsplit : splitDone (c :: rest) = ([], c :: rest) := by
    rw [splitDone, if_neg hd, if_neg (by simp [hc])]
  unfold State.reportDone
  rw [hs, hsplit]
  rfl

/-! Closes. -/

section
variable {s : State} {w : Nat} {b : Strobe} (hf : firstClose (s.cp w).strobes = some b) (ht : b.close ≤ s.t)
  (levels : List (BitVec 2)) (final : BitVec 2) (drained : Nat)
include hf ht

theorem State.closeStrobe_judged (hd : b.code ≠ 0xD) : s.closeStrobe w levels final drained =
    (((s.judged w b levels final drained).2.modCp w fun c => { c with
      strobes := c.strobes.map (markDone b (s.judged w b levels final drained).1) }).reportDone w).finishCapture w := by
  unfold State.closeStrobe
  rw [hf]
  dsimp only
  rw [if_neg (Nat.not_lt.mpr ht), if_neg hd]
  rfl

theorem State.closeStrobe_ts (hd : b.code = 0xD) : s.closeStrobe w levels final drained =
    ((((s.modCp w fun c => { c with xing := c.xing - drained }).tsClose w b).modCp w fun c => { c with
      strobes := c.strobes.filter fun x => !x.same b }).finishCapture w) := by
  unfold State.closeStrobe
  rw [hf]
  dsimp only
  rw [if_neg (Nat.not_lt.mpr ht), if_pos hd]

/-- A close with no earlier strobe open is entered at once: the strobe leaves the list, and its report follows (R204, R205). -/
theorem State.closeStrobe_entered {rest : List Strobe} (hs : (s.cp w).strobes = b :: rest) (hd : b.code ≠ 0xD)
    (hr : ∀ x ∈ rest, x.done = none ∧ x.same b = false) : let p := s.judged w b levels final drained
    ∃ u : State, u.tally w = { p.2.tally w with cp := { (p.2.tally w).cp with strobes := rest } } ∧
      (s.closeStrobe w levels final drained).score w = (u.report w { b with done := some p.1 } p.1).score w := by
  intro p
  obtain ⟨n, htally⟩ := s.judged_tally levels final drained w b
  have hp : (p.2.cp w).strobes = b :: rest := (congrArg (·.cp.strobes) htally).trans hs
  set u0 := p.2.modCp w fun c => { c with strobes := c.strobes.map (markDone b p.1) } with hu0
  have h0 : u0.tally w = { p.2.tally w with cp := { p.2.cp w with strobes := { b with done := some p.1 } :: rest } } := by
    rw [hu0, State.tally_modCp_self, hp, List.map_cons, map_markDone_others fun x hx => (hr x hx).2, markDone, if_pos b.same_self]
  have hcp : u0.cp w = { p.2.cp w with strobes := { b with done := some p.1 } :: rest } := congrArg Tally.cp h0
  refine ⟨u0.modCp w fun c => { c with strobes := rest }, ?_, ?_⟩
  · rw [State.tally_modCp_self, h0, hcp]
    rfl
  · rw [State.closeStrobe_judged hf ht levels final drained hd, (State.finishCapture_counts ..).1,
      State.reportDone_first (congrArg CapSt.strobes hcp) rfl hd fun x hx => (hr x hx).1]

/-- A close behind an earlier strobe that is open moves the ET reference and the crossing; the strobe waits in its place (R200, R204, R205). -/
theorem State.closeStrobe_heldUp {c : Strobe} {rest : List Strobe} (hs : (s.cp w).strobes = c :: rest) (hd : b.code ≠ 0xD) (hc : c.done = none)
    (hcd : c.code ≠ 0xD) (hne : c.same b = false) : ∃ n j, (s.closeStrobe w levels final drained).tally w = { s.tally w with
      pl := (s.pl w).seenFinal final.toNat, cp := { s.cp w with xing := n, strobes := c :: rest.map (markDone b j) } } := by
  obtain ⟨n, htally⟩ := s.judged_tally levels final drained w b
  set p := s.judged w b levels final drained with hp
  set u0 := p.2.modCp w fun x => { x with strobes := x.strobes.map (markDone b p.1) } with hu0
  have hpcp : p.2.cp w = { s.cp w with xing := n } := congrArg Tally.cp htally
  have h0 : u0.tally w = { s.tally w with
      pl := (s.pl w).seenFinal final.toNat, cp := { s.cp w with xing := n, strobes := c :: rest.map (markDone b p.1) } } := by
    rw [hu0, State.tally_modCp_self, htally, hpcp]
    dsimp only
    rw [hs, List.map_cons, markDone_other hne]
  have hcp : u0.cp w = { s.cp w with xing := n, strobes := c :: rest.map (markDone b p.1) } := congrArg Tally.cp h0
  refine ⟨n, p.1, ?_⟩
  have h1 : (u0.reportDone w).tally w = u0.tally w := by
    rw [State.reportDone_heldUp (congrArg CapSt.strobes hcp) hc hcd, State.tally_modCp_self, h0, hcp]
  have hstrobes : ((u0.reportDone w).cp w).strobes = c :: rest.map (markDone b p.1) := congrArg (·.cp.strobes) (h1.trans h0)
  have hopen : ((u0.reportDone w).cp w).strobes ≠ [] := by
    rw [hstrobes]
    exact List.cons_ne_nil _ _
  rw [State.closeStrobe_judged hf ht levels final drained hd, State.finishCapture_open hopen]
  exact h1.trans h0

/-- A strobe of a TS vector leaves the list and every counter (R240). -/
theorem State.closeStrobe_uncounted {rest : List Strobe} (hs : (s.cp w).strobes = b :: rest) (hd : b.code = 0xD) (hr : ∀ x ∈ rest, x.same b = false) :
    ((s.closeStrobe w levels final drained).cp w).strobes = rest ∧ (s.closeStrobe w levels final drained).mn w = s.mn w := by
  rw [State.closeStrobe_ts hf ht levels final drained hd]
  set s1 := s.modCp w fun c => { c with xing := c.xing - drained }
  have h1 : (s1.tsClose w b).tally w = { s.tally w with cp := { s.cp w with xing := (s.cp w).xing - drained } } :=
    (State.tally_modSt ..).trans (s.tally_modCp_self ..)
  generalize s1.tsClose w b = s2 at h1
  have hstrobes : (s2.cp w).strobes = b :: rest := (congrArg (·.cp.strobes) h1).trans hs
  obtain ⟨hscore, hmn⟩ := (s2.modCp w fun c => { c with strobes := c.strobes.filter fun x => !x.same b }).finishCapture_counts w
  refine ⟨?_, hmn.trans ((s2.mn_modCp ..).trans (congrArg Tally.mn h1))⟩
  refine (congrArg (·.cp.strobes) (hscore.trans (s2.score_modCp_self ..))).trans ?_
  dsimp only [CapSt.quiet]
  rw [hstrobes, List.filter_cons_of_neg (by simp [b.same_self]), List.filter_eq_self]
  simpa using hr

end

/-! The three reports of a close (R26, R199, R202). -/

theorem isVerdict_code {c : BitVec 4} (h : isVerdict c.toNat = true) : c ≠ 9 ∧ c ≠ 0xD := by
  constructor <;> (rintro rfl; exact absurd h (by decide))

section
variable {s : State} {w : Nat} {b : Strobe} {rest : List Strobe} (hs : (s.cp w).strobes = b :: rest) (hf : firstClose (b :: rest) = some b)
  (ht : b.close ≤ s.t) (hr : ∀ x ∈ rest, x.done = none ∧ x.same b = false) (levels : List (BitVec 2)) (final : BitVec 2) (drained : Nat)
include hs hf ht hr

/-- A verdict that crosses is counted, and a failing one once more. -/
theorem State.closeStrobe_counted (hv : isVerdict b.code.toNat = true) (hx : (s.cp w).xing - drained < 512) :
    (s.closeStrobe w levels final drained).score w = {
      md := s.md w, pl := (s.pl w).seenFinal final.toNat, cp := { strobes := rest, xing := (s.cp w).xing - drained + 1 }
      mn := ((s.mn w).counted ((seen b.edge levels final).any fun l => !levelPasses b.code.toNat (s.pl w).etRef l)).quiet } := by
  obtain ⟨h9, hd⟩ := isVerdict_code hv
  obtain ⟨hlost, hfail, htally⟩ := State.judged_verdict (s := s) (w := w) levels final drained hv
  obtain ⟨u, hu, he⟩ := State.closeStrobe_entered (hs ▸ hf) ht levels final drained hs hd hr
  rw [htally, if_neg (Nat.not_le.mpr hx)] at hu
  have hcp : u.cp w = _ := congrArg Tally.cp hu
  have hmn : u.mn w = s.mn w := congrArg Tally.mn hu
  rw [he, State.report_counted (b := { b with done := some _ }) h9 (hlost.trans (decide_eq_false (Nat.not_le.mpr hx))), hfail, hmn, hcp, State.score_of_tally hu]
  rfl

/-- A verdict that finds the crossing full is counted as lost. -/
theorem State.closeStrobe_lost (hv : isVerdict b.code.toNat = true) (hx : 512 ≤ (s.cp w).xing - drained) :
    (s.closeStrobe w levels final drained).score w = {
      md := s.md w, pl := (s.pl w).seenFinal final.toNat
      cp := { strobes := rest, xing := (s.cp w).xing - drained, lost := ((s.cp w).losing b).lost }
      mn := { (s.mn w).quiet with lostV := satInc (2 ^ 32 - 1) (s.mn w).lostV } } := by
  obtain ⟨h9, hd⟩ := isVerdict_code hv
  obtain ⟨hlost, -, htally⟩ := State.judged_verdict (s := s) (w := w) levels final drained hv
  obtain ⟨u, hu, he⟩ := State.closeStrobe_entered (hs ▸ hf) ht levels final drained hs hd hr
  rw [htally, if_pos hx] at hu
  have hcp : u.cp w = _ := congrArg Tally.cp hu
  have hmn : u.mn w = s.mn w := congrArg Tally.mn hu
  rw [he, State.report_lost (b := { b with done := some _ }) h9 (hlost.trans (decide_eq_true hx)), hmn, hcp, State.score_of_tally hu]
  rfl

/-- A capture adds to the histogram of its final code. -/
theorem State.closeStrobe_captured (h9 : b.code = 9) : (s.closeStrobe w levels final drained).score w = {
    md := s.md w, pl := (s.pl w).seenFinal final.toNat
    cp := { strobes := rest, xing := (s.cp w).xing - drained, lost := (s.cp w).lost }
    mn := { (s.mn w).quiet with
      hist := Tab.set 0 (s.mn w).hist final.toNat (satInc (2 ^ 32 - 1) (Tab.get 0 (s.mn w).hist final.toNat)) } } := by
  obtain ⟨hfinal, htally⟩ := State.judged_capture (s := s) (w := w) (b := b) levels final drained (by rw [h9]; decide)
  obtain ⟨u, hu, he⟩ := State.closeStrobe_entered (hs ▸ hf) ht levels final drained hs (by rw [h9]; decide) hr
  rw [htally] at hu
  have hmn : u.mn w = s.mn w := congrArg Tally.mn hu
  rw [he, State.report_captured (b := { b with done := some _ }) h9, hfinal, hmn, State.score_of_tally hu]
  rfl

end

/-- Settles O26: a close moves the ET reference and the crossing at its instant; with no earlier strobe open its report is one of three, and else the
strobe waits in its place. -/
theorem strobesGiveVerdicts : Obligations.StrobesGiveVerdicts := by
  unfold Obligations.StrobesGiveVerdicts
  intro s dt w levels final drained b rest a fail more
  have hex : exec (.strobeClose dt w levels final drained) s = .next (a.closeStrobe w levels final drained) := rfl
  refine ⟨fun hs hf ht hmore => ?_, fun c hs hc hcd hf hne ht hcode => ?_⟩
  · have hr : ∀ x ∈ rest, x.done = none ∧ x.same b = false := by
      simpa [more] using hmore
    refine ⟨fun hv hx => ⟨_, hex, ?_⟩, fun hv hx => ⟨_, hex, ?_⟩, fun h9 => ⟨_, hex, ?_⟩, fun hd => ⟨_, hex, ?_⟩⟩
    · have h := State.closeStrobe_counted hs hf ht hr levels final drained hv hx
      exact ⟨(congrArg (·.cp.strobes) h :), (congrArg (·.cp.xing) h :), (congrArg (·.mn.compared) h :), (congrArg (·.mn.failed) h :),
        (congrArg (·.pl.etRef) h :), (congrArg (·.md.mode) h :), (congrArg (·.mn.lostV) h :)⟩
    · have h := State.closeStrobe_lost hs hf ht hr levels final drained hv hx
      have hlost : ((a.closeStrobe w levels final drained).cp w).lost = ((a.cp w).losing b).lost := (congrArg (·.cp.lost) h :)
      exact ⟨(congrArg (·.cp.strobes) h :), (congrArg (·.mn.compared) h :), (congrArg (·.mn.failed) h :), (congrArg (·.mn.lostV) h :),
        ne_of_eq_of_ne hlost (CapSt.lost_losing _ _), (congrArg (·.md.mode) h :)⟩
    · have h := State.closeStrobe_captured hs hf ht hr levels final drained h9
      have hhist : ((a.closeStrobe w levels final drained).mn w).hist = _ := (congrArg (·.mn.hist) h :)
      refine ⟨(congrArg (·.cp.strobes) h :), ?_, (congrArg (·.mn.compared) h :), (congrArg (·.mn.failed) h :)⟩
      rw [hhist, Tab.get_set_self]
    · exact State.closeStrobe_uncounted (hs ▸ hf) ht levels final drained hs hd fun x hx => (hr x hx).2
  · have hd : b.code ≠ 0xD := by
      rcases hcode with hv | h9
      · exact (isVerdict_code hv).2
      · rw [h9]
        decide
    obtain ⟨n, j, h⟩ := State.closeStrobe_heldUp (hs ▸ hf) ht levels final drained hs hd hc hcd hne
    have hstrobes : ((a.closeStrobe w levels final drained).cp w).strobes = c :: rest.map (markDone b j) := (congrArg (·.cp.strobes) h :)
    refine ⟨_, hex, (congrArg Tally.mn h :), (congrArg (·.pl.etRef) h :), ?_, ?_, (congrArg (·.cp.recQ) h :), (congrArg (·.md.mode) h :)⟩
    · rw [hstrobes, List.length_cons, List.length_map]
    · rw [hstrobes, List.head?_cons]

end Sys2Proof.Machine

namespace Sys2Proof.Machine

/-! ### Passes of the holding pattern (O16) -/

/-! The resume point (R139, R142). -/

theorem State.modHo_onlyWin (s : State) (w : Nat) (f : HoldSt → HoldSt) : OnlyWin s (s.modHo w f) w := s.modWin_onlyWin ..

theorem State.ho_modHo_self (s : State) (w : Nat) (f : HoldSt → HoldSt) : (s.modHo w f).ho w = f (s.ho w) :=
  congrArg Win.ho ((s.win_modWin w w _).trans (if_pos rfl))

theorem State.rewindPath_sluiceOnly (s : State) (w : Nat) : SluiceOnly s (s.rewindPath w) w :=
  (s.modSl_sluiceOnly ..).trans (State.fillIndicate_sluiceOnly ..)

/-- The holding pattern with its pass's resume point passed. -/
def State.resumeMarked (s : State) (w : Nat) : HoldSt :=
  let t := (s.ho w).nextT - (s.ho w).period
  { s.ho w with resumeAt := some t, last := s.supplied w || s.stopInHold w t }

/-- At its resume point a pass is marked as the last or not; a play that is to restart has its path rewound besides (R139, R140). -/
theorem State.resumePoint_due {s : State} {w : Nat} (hon : (s.ho w).on = true) (hofs : (s.ho w).ofs + 63 = (s.sq w).holdLen)
    (hr : (s.ho w).resumeAt = none) : let t := s.resumePoint w
    t.ho w = s.resumeMarked w ∧ ((s.sq w).refetches = false → OnlyWin s t w) := by
  have hgo : (!(s.ho w).on || (s.ho w).ofs + 63 ≠ (s.sq w).holdLen || (s.ho w).resumeAt.isSome) = false := by simp [hon, hofs, hr]
  intro t
  dsimp only [t]
  unfold State.resumePoint
  extract_lets h t0 s1
  rw [if_neg (ne_true_of_eq_false hgo)]
  have hho : s1.ho w = s.resumeMarked w := s.ho_modHo_self ..
  refine ⟨?_, fun hf => ?_⟩
  · split
    · exact (s1.rewindPath_sluiceOnly w).ho.trans hho
    · exact hho
  · rw [if_neg (by simp [hf])]
    exact s.modHo_onlyWin ..

theorem State.resumePoint_elsewhere {s : State} {w : Nat}
    (h : (s.ho w).on = false ∨ (s.ho w).ofs + 63 ≠ (s.sq w).holdLen ∨ (s.ho w).resumeAt ≠ none) : s.resumePoint w = s := by
  refine if_pos ?_
  rcases h with h | h | h
  · simp [h]
  · simp [h]
  · simp [Option.isSome_iff_ne_none.mpr h]

/-! Leaving the pattern (R140, R142). -/

/-- The holding pattern as the pin leaves it. -/
def HoldSt.left (h : HoldSt) (policy : Nat) : HoldSt := { h with on := false, policy := policy, last := false, resumeAt := none }

theorem State.course_leaveHold (s : State) (w policy t : Nat) :
    (s.leaveHold w policy t).course w = { s.course w with ho := (s.ho w).quiet.left policy } := by
  have hgap : (s.underrunGap w policy).course w = s.course w := s.course_queueRec ..
  unfold State.leaveHold
  rw [State.course_engOccur, State.course_modHo_self, hgap]
  exact congrArg (fun h : HoldSt => ({ s.course w with ho := h.left policy } : Course)) (congrArg Course.ho hgap :)

/-- Window `w` out of the pattern, its next vector due at `t`. -/
def State.backAt (s : State) (w policy t : Nat) : State := (s.leaveHold w policy t).modPl w fun p => { p with nextT := t }

theorem State.course_retimed {s : State} {w : Nat} {c : Course} (h : s.course w = c) (t : Nat) :
    (s.modPl w fun p => { p with nextT := t }).course w = { c with pl := { c.pl with nextT := t } } := by
  subst h
  exact s.course_modPl_self ..

theorem State.course_landed {s : State} {w : Nat} {c : Course} (h : s.course w = c) :
    (s.modHo w fun h => { h with landed := true }).course w = { c with ho := { c.ho with landed := true } } := by
  subst h
  exact s.course_modHo_self ..

theorem State.course_backAt (s : State) (w policy t : Nat) : (s.backAt w policy t).course w = { s.course w with
    ho := (s.ho w).quiet.left policy, pl := { (s.pl w).quiet with nextT := t } } :=
  State.course_retimed (s.course_leaveHold ..) t

/-! What follows a pass (R139, R140, R142). -/

/-- A stop that came by this pass's resume point. -/
def State.landsNow (s : State) (w : Nat) : Bool :=
  match (s.ho w).resumeAt with
  | some r => s.stopInHold w r
  | none => false

/-- The last vector of a holding pass has ended. -/
structure State.PassOver (s : State) (w : Nat) : Prop where
  on : (s.ho w).on = true
  ofs : (s.ho w).ofs = (s.sq w).holdLen
  due : (s.ho w).nextT ≤ s.t

section
variable {s : State} {w : Nat} (h : s.PassOver w)
include h

theorem State.PassOver.passEnd_eq : s.passEnd w =
    if !s.landsNow w && (!(s.ho w).last || s.stopInHold w ((s.ho w).nextT - 1)) then
      s.modHo w fun h => { h with pass := h.pass + 1, ofs := 0, resumeAt := none }
    else if s.landsNow w then ((s.leaveHold w 3 (s.ho w).nextT).enterLanding w 2).modPl w fun p => { p with nextT := (s.ho w).nextT }
    else if (s.sq w).policyNow = 2 then
      ((s.backAt w (s.sq w).policyNow (s.ho w).nextT).modHo w fun h => { h with landed := true }).enterLanding w 3
    else (if (s.sq w).policyNow = 1 then (s.backAt w (s.sq w).policyNow (s.ho w).nextT).restartPlay w
      else s.backAt w (s.sq w).policyNow (s.ho w).nextT).raiseSeg w 2 1 0 (s.ho w).shelf (s.ho w).nextT :=
  if_neg (by simp [h.on, h.ofs, h.due])

theorem State.PassOver.again (hl : s.landsNow w = false) (hn : (s.ho w).last = false ∨ s.stopInHold w ((s.ho w).nextT - 1) = true) :
    s.passEnd w = s.modHo w fun h => { h with pass := h.pass + 1, ofs := 0, resumeAt := none } := by
  rw [h.passEnd_eq]
  exact if_pos (by rcases hn with hn | hn <;> simp [hl, hn])

theorem State.PassOver.lands (hl : s.landsNow w = true) : s.passEnd w =
    ((s.leaveHold w 3 (s.ho w).nextT).enterLanding w 2).modPl w fun p => { p with nextT := (s.ho w).nextT } := by
  rw [h.passEnd_eq, if_neg (by simp [hl]), if_pos hl]

variable (hl : s.landsNow w = false) (hlast : (s.ho w).last = true) (hs : s.stopInHold w ((s.ho w).nextT - 1) = false) {policy : Nat}
  (hp : (s.sq w).policyNow = policy)
include hl hlast hs hp

theorem State.PassOver.resumes (h2 : policy ≠ 2) : s.passEnd w =
    (if policy = 1 then (s.backAt w policy (s.ho w).nextT).restartPlay w else s.backAt w policy (s.ho w).nextT).raiseSeg
      w 2 1 0 (s.ho w).shelf (s.ho w).nextT := by
  rw [h.passEnd_eq, if_neg (by simp [hl, hlast, hs]), if_neg (by simp [hl]), hp, if_neg h2]

theorem State.PassOver.landsByPolicy (h2 : policy = 2) : s.passEnd w =
    ((s.backAt w policy (s.ho w).nextT).modHo w fun h => { h with landed := true }).enterLanding w 3 := by
  rw [h.passEnd_eq, if_neg (by simp [hl, hlast, hs]), if_neg (by simp [hl]), hp, if_pos h2]

end

/-! What starts at its end. -/

theorem State.course_of_sluiceOnly {s t : State} {w : Nat} (h : SluiceOnly s t w) : t.course w = s.course w := (congrArg Win.course h.win :)

theorem State.course_takeChain (s : State) (w : Nat) (along : Bool) : ∃ f, (s.takeChain w along).course w =
    { s.course w with sq := { s.sq w with fetched := f } } := by
  unfold State.takeChain
  split
  · exact ⟨(s.sq w).fetched, s.course_modSl ..⟩
  · extract_lets r
    exact ⟨_, (State.course_modSl ..).trans (s.course_modSq_self ..)⟩

/-- The course as a segment's first play finds it, at period entry `e` and count `n`. -/
def Course.entered (c : Course) (d : RawDesc) (landing : Nat) (f : List (Role × Fetched)) (e n : Nat) : Course :=
  { c with sq := c.sq.entered d landing f, pl := { c.pl with entry := e, n := n } }

/-- A segment's start moves the sequencer and the period entry alone (R90, R151). -/
theorem State.course_enterSeg (s : State) (w : Nat) (r : Role) (d : RawDesc) (landing : Nat) : ∃ f e n,
    (s.enterSeg w r d landing).course w = (s.course w).entered d landing f e n := by
  unfold State.enterSeg
  extract_lets along h head gone s1 s2 s3
  have h1 : s1.course w = { s.course w with sq := (s.sq w).entered d landing ((s.sq w).fetched.filter fun x => !gone.contains x.1) } :=
    s.course_modSq_self ..
  have hq1 : s1.sq w = (s.sq w).entered d landing _ := congrArg Course.sq h1
  obtain ⟨f, h2⟩ := (s1.modSl w fun x => { x with
    bufs := roleSet .path head (x.bufs.filter fun y => !gone.contains y.1), pushNow := (0, 0) }).course_takeChain w along
  rw [State.course_modSl, (s1.modSl_sluiceOnly ..).sq, h1, hq1] at h2
  change s2.course w = _ at h2
  have hp2 : (s2.pl w).quiet = (s.pl w).quiet := congrArg Course.pl h2
  obtain ⟨e, n, h3⟩ : ∃ e n, s3.course w = { s2.course w with pl := { (s2.pl w).quiet with entry := e, n := n } } := by
    dsimp only [s3]
    split
    · exact ⟨(s2.pl w).entry, (s2.pl w).n, rfl⟩
    · exact ⟨_, _, s2.course_modPl_self ..⟩
  rw [h2, hp2] at h3
  exact ⟨f, e, n, (State.course_of_sluiceOnly (State.fillIndicate_sluiceOnly ..)).trans ((s3.course_streamMismatch w w).trans h3)⟩

/-- Entry 1's landing starts in place of the play (R90). -/
theorem State.course_enterLanding {s : State} {w : Nat} {c : Course} (h : s.course w = c) (why : Nat) : ∃ f e n,
    (s.enterLanding w why).course w = c.entered c.sq.land1 why f e n := by
  subst h
  exact s.course_enterSeg ..

/-- The course with the interrupted play back at vector 0, unless it stands there. -/
def Course.replayed (c : Course) : Course :=
  if c.sq.ofs = 0 then c
  else { c with
    sq := { c.sq with ofs := 0, playId := c.sq.playId + 1, playFail := false, markDue := 0, invalid := none }
    pl := { c.pl with entry := c.pl.entry0, n := c.pl.n0 } }

/-- Vector 0 of the interrupted play comes again, with the period entry that the play began with (R140, R151). -/
theorem State.course_restartPlay (s : State) (w : Nat) : (s.restartPlay w).course w = (s.course w).replayed := by
  by_cases h0 : (s.sq w).ofs = 0
  · rw [State.restartPlay, if_pos h0]
    exact (if_pos h0).symm
  · unfold State.restartPlay
    extract_lets s1 s2
    have h1 : s1.course w = { s.course w with
        sq := { s.sq w with ofs := 0, playId := (s.sq w).playId + 1, playFail := false, markDue := 0, invalid := none } } := s.course_modSq_self ..
    have hp1 : s1.pl w = s.pl w := (congrArg Win.pl (s.win_modSq_self ..) :)
    have h2 : s2.course w = { s1.course w with pl := { (s1.pl w).quiet with entry := (s1.pl w).entry0, n := (s1.pl w).n0 } } :=
      s1.course_modPl_self ..
    rw [h1, hp1] at h2
    rw [if_neg h0]
    refine Eq.trans ?_ (h2.trans (if_neg h0).symm)
    split
    · exact State.course_of_sluiceOnly ((s2.modSl_sluiceOnly ..).trans (State.fillIndicate_sluiceOnly ..))
    · exact State.course_of_sluiceOnly (s2.rewindPath_sluiceOnly w)

/-! What window `w` shows of the state that follows. -/

section
variable {s : State} {w : Nat} (h : s.PassOver w)
include h

/-- A stop's landing starts at the pass's end (R142). -/
theorem State.PassOver.course_lands (hl : s.landsNow w = true) : ∃ f e n, (s.passEnd w).course w =
    let c := ({ s.course w with ho := (s.ho w).quiet.left 3 } : Course).entered (s.sq w).land1 2 f e n
    { c with pl := { c.pl with nextT := (s.ho w).nextT } } := by
  obtain ⟨f, e, n, hc⟩ := State.course_enterLanding (s.course_leaveHold w 3 (s.ho w).nextT) 2
  rw [h.lands hl]
  exact ⟨f, e, n, State.course_retimed hc _⟩

variable (hl : s.landsNow w = false) (hlast : (s.ho w).last = true) (hs : s.stopInHold w ((s.ho w).nextT - 1) = false)
include hl hlast hs

/-- The pin goes on at the missing vector, or at vector 0 of its play (R140). -/
theorem State.PassOver.course_resumes {policy : Nat} (hp : (s.sq w).policyNow = policy) (h2 : policy ≠ 2) : (s.passEnd w).course w =
    let c : Course := { s.course w with ho := (s.ho w).quiet.left policy, pl := { (s.pl w).quiet with nextT := (s.ho w).nextT } }
    if policy = 1 then c.replayed else c := by
  rw [h.resumes hl hlast hs hp h2, State.course_raiseSeg, ← State.course_backAt]
  split
  · exact State.course_restartPlay ..
  · rfl

/-- The underrun's landing starts at the pass's end (R140). -/
theorem State.PassOver.course_landsByPolicy (hp : (s.sq w).policyNow = 2) : ∃ f e n, (s.passEnd w).course w =
    ({ s.course w with ho := { (s.ho w).quiet.left 2 with landed := true }, pl := { (s.pl w).quiet with nextT := (s.ho w).nextT } } :
      Course).entered (s.sq w).land1 3 f e n := by
  rw [h.landsByPolicy hl hlast hs hp rfl]
  exact State.course_enterLanding (State.course_landed (s.course_backAt w 2 _)) 3

end

/-- Settles O16: the resume point marks one pass; the pass's end is one of four, and each is one equation of the course. -/
theorem holdingPasses : Obligations.HoldingPasses := by
  unfold Obligations.HoldingPasses
  refine ⟨fun s dt w => ?_, fun s dt w => ?_⟩
  · intro a h
    exact ⟨fun hon hofs hr => ⟨_, rfl, State.resumePoint_due hon hofs hr⟩,
      fun hn => congrArg Host.Outcome.next (State.resumePoint_elsewhere hn)⟩
  · intro a h land leaves hon hofs hdue
    have hover : a.PassOver w := ⟨hon, hofs, hdue⟩
    refine ⟨fun hl hn => ?_, fun hlast hl hs hp => ?_, fun hlast hl hs hp => ?_, fun hlast hl hs hp => ?_, fun hl => ?_⟩
    · exact ⟨_, congrArg Host.Outcome.next (hover.again hl hn), a.ho_modHo_self .., a.modHo_onlyWin ..⟩
    · have hc := hover.course_resumes hl hlast hs hp (by decide)
      exact ⟨_, rfl, congrArg (·.ho.on) hc, congrArg (·.ho.policy) hc, congrArg (·.pl.nextT) hc, congrArg (·.sq.ofs) hc, congrArg (·.sq.cur) hc,
        congrArg (·.sq.play) hc⟩
    · have hc := hover.course_resumes hl hlast hs hp (by decide)
      dsimp only at hc
      rw [if_pos rfl, Course.replayed] at hc
      split at hc
      · next h0 =>
        exact ⟨_, rfl, congrArg (·.ho.on) hc, congrArg (·.ho.policy) hc, congrArg (·.pl.nextT) hc, (congrArg (·.sq.ofs) hc).trans h0,
          congrArg (·.sq.cur) hc, congrArg (·.sq.play) hc, fun hne => absurd h0 hne⟩
      · exact ⟨_, rfl, congrArg (·.ho.on) hc, congrArg (·.ho.policy) hc, congrArg (·.pl.nextT) hc, congrArg (·.sq.ofs) hc,
          congrArg (·.sq.cur) hc, congrArg (·.sq.play) hc, fun _ => ⟨congrArg (·.pl.entry) hc, congrArg (·.pl.n) hc, congrArg (·.sq.playFail) hc⟩⟩
    · obtain ⟨f, e, n, hc⟩ := hover.course_landsByPolicy hl hlast hs hp
      exact ⟨_, rfl, congrArg (·.ho.on) hc, congrArg (·.ho.policy) hc, congrArg (·.pl.nextT) hc, congrArg (·.ho.landed) hc,
        congrArg (·.sq.cur) hc, congrArg (·.sq.landing) hc, congrArg (·.sq.play) hc, congrArg (·.sq.ofs) hc⟩
    · obtain ⟨f, e, n, hc⟩ := hover.course_lands hl
      exact ⟨_, rfl, congrArg (·.ho.on) hc, congrArg (·.ho.policy) hc, congrArg (·.sq.cur) hc, congrArg (·.sq.landing) hc,
        congrArg (·.pl.nextT) hc⟩

end Sys2Proof.Machine

namespace Sys2Proof.Machine

/-! ### What the intake of a window touches (O18, O19) -/

/-! A broken stream (R132). -/

/-- The intake as a break of the stream leaves it: what has been requested or has arrived is discarded. -/
def IntakeSt.brokenBy (k : IntakeSt) (cause : Nat) (sh : Shelf) : IntakeSt :=
  { k with
    broken := cause, errCause := cause, errShelf := sh, errSeq := k.expect, bufs := [], bytes := [],
    reqs := k.reqs.map fun q => { q with dead := true } }

theorem CalmWin.of_calm {s t : State} {w : Nat} {f : Win → Win} (h : t.calm = (s.modWin w f).calm) : t.win w = f (s.win w) ∧ CalmWin s t w := by
  have hw (v : Nat) : t.win v = (s.modWin w f).win v := State.win_at_of_calm h v
  refine ⟨(hw w).trans ((s.win_modWin ..).trans (if_pos rfl)), ?_, fun v hv => (hw v).trans ((s.modWin_onlyWin w f).2 v hv)⟩
  rw [h, State.wins_of_calm h]
  rfl

theorem State.breakStream_spec (s : State) (w cause : Nat) (sh : Shelf) : let t := s.breakStream w cause sh
    t.win w = { s.win w with ik := (s.ik w).brokenBy cause sh } ∧ CalmWin s t w :=
  CalmWin.of_calm (State.calm_raiseSeg ..)

/-! The vector area alone, and one window (R127, R131). -/

/-- The streaming ring that SLU.STREAM_RING gives window `w` ends within its vector area (R86). -/
def State.RingFits (s : State) (w : Nat) : Prop := bits (s.wreg w 2 0x048) 0 9 + 2 ^ bits (s.wreg w 2 0x048) 12 3 ≤ 384

/-- Byte `x` of the stacks lies outside the vector area of window `w`. -/
def OutsideArea (w x : Nat) : Prop := x < vecArea w ∨ vecArea w + 0x18000000 ≤ x

/-- What the intake of window `w` has done since `s` has reached that window, what detections and error correction trace, key tags, and of the stacks
the window's vector area alone. -/
structure TookIn (s t : State) (w : Nat) : Prop where
  host : t.host = s.host
  regs : t.regs = s.regs
  wsMem : t.wsMem = s.wsMem
  others : ∀ v, v ≠ w → t.win v = s.win v
  outside : s.RingFits w → ∀ x, OutsideArea w x → Memory.read t.stackMem x = Memory.read s.stackMem x

theorem State.ringFits_of_regs {s t : State} {w : Nat} (h : t.regs = s.regs) : t.RingFits w ↔ s.RingFits w := by
  unfold State.RingFits State.wreg
  rw [State.reg_of_regs h]

theorem TookIn.refl (s : State) (w : Nat) : TookIn s s w := ⟨rfl, rfl, rfl, fun _ _ => rfl, fun _ _ _ => rfl⟩

theorem TookIn.trans {s t u : State} {w : Nat} (h1 : TookIn s t w) (h2 : TookIn t u w) : TookIn s u w where
  host := h2.host.trans h1.host
  regs := h2.regs.trans h1.regs
  wsMem := h2.wsMem.trans h1.wsMem
  others v hv := (h2.others v hv).trans (h1.others v hv)
  outside hr x hx := (h2.outside ((State.ringFits_of_regs h1.regs).mpr hr) x hx).trans (h1.outside hr x hx)

theorem TookIn.of_unread {s t : State} (h : t.unread = s.unread) (w : Nat) : TookIn s t w where
  host := congrArg (·.host) h
  regs := congrArg (·.regs) h
  wsMem := congrArg (·.wsMem) h
  others v _ := State.win_of_unread h v
  outside _ x _ := congrArg (Memory.read · x) (congrArg (·.stackMem) h :)

theorem TookIn.of_calm {s t : State} (h : t.calm = s.calm) (w : Nat) : TookIn s t w := .of_unread (State.unread_of_calm h) w

theorem State.modWin_tookIn (s : State) (w : Nat) (f : Win → Win) : TookIn s (s.modWin w f) w :=
  ⟨rfl, rfl, rfl, (s.modWin_onlyWin w f).2, fun _ _ _ => rfl⟩

theorem State.modIk_tookIn (s : State) (w : Nat) (f : IntakeSt → IntakeSt) : TookIn s (s.modIk w f) w := s.modWin_tookIn ..
theorem State.modSl_tookIn (s : State) (w : Nat) (f : SluSt → SluSt) : TookIn s (s.modSl w f) w := s.modWin_tookIn ..

theorem State.stockIndicate_tookIn (s : State) (w : Nat) : TookIn s (s.stockIndicate w) w := by
  unfold State.stockIndicate
  exact s.modSl_tookIn ..

theorem State.setStack_tookIn {s : State} {w : Nat} {m : List Host.Cell}
    (h : s.RingFits w → ∀ x, OutsideArea w x → Memory.read m x = Memory.read s.stackMem x) : TookIn s (s.setStack m) w :=
  ⟨rfl, rfl, rfl, fun _ _ => rfl, h⟩

theorem State.breakStream_tookIn (s : State) (w cause : Nat) (sh : Shelf) : TookIn s (s.breakStream w cause sh) w :=
  (s.modIk_tookIn w _).trans (.of_calm (State.calm_raiseSeg ..) w)

theorem State.raiseCh_tookIn (s : State) (w i code native : Nat) : TookIn s (s.raiseCh w i code native) w := .of_calm (State.calm_raiseCh ..) w

/-! Descriptors and bytes that arrive (R115, R120, R121, R131). -/

theorem State.advanceCons_tookIn (s : State) (w : Nat) (notify : Bool) : TookIn s (s.advanceCons w notify) w := by
  unfold State.advanceCons
  extract_lets s1
  have h1 : TookIn s s1 w := s.modIk_tookIn ..
  split
  · exact h1.trans (s1.raiseCh_tookIn ..)
  · exact h1

theorem State.takeDesc_tookIn (s : State) (w : Nat) (bs : List Byte) : TookIn s (s.takeDesc w bs) w := by
  unfold State.takeDesc
  extract_lets n addr len flags head
  split
  · unfold State.skipDesc
    extract_lets s1
    have h1 : TookIn s s1 w := s.advanceCons_tookIn ..
    split
    · exact h1
    · exact (h1.trans (s1.modIk_tookIn ..)).trans (State.raiseCh_tookIn ..)
  · split
    · exact s.breakStream_tookIn ..
    · exact s.modIk_tookIn ..

theorem State.arrive_tookIn (w fuel : Nat) : ∀ (s : State) (n : Nat), TookIn s (s.arrive w fuel n) w := by
  induction fuel with
  | zero => exact fun s n => .refl s w
  | succ fuel ih =>
    intro s n
    unfold State.arrive
    split
    · exact .refl s w
    · split
      · exact ((s.modIk_tookIn ..).trans (State.advanceCons_tookIn ..)).trans (ih ..)
      · exact s.modIk_tookIn ..

theorem State.collect_tookIn (w fuel : Nat) : ∀ s : State, TookIn s (s.collect w fuel) w := by
  induction fuel with
  | zero => exact fun s => .refl s w
  | succ fuel ih =>
    intro s
    unfold State.collect
    split
    · exact .refl s w
    · next q rest _ =>
      extract_lets new s1 s2
      have h1 : TookIn s s1 w := by
        dsimp only [s1]
        split
        · exact .refl s w
        · exact (s.modIk_tookIn ..).trans (State.arrive_tookIn ..)
      have h2 : TookIn s s2 w := h1.trans (s1.modIk_tookIn ..)
      split
      · exact (s.modIk_tookIn ..).trans (ih _)
      · split
        · exact h1.trans (s1.modIk_tookIn ..)
        · refine TookIn.trans ?_ (ih _)
          split
          · exact h2.trans (s2.takeDesc_tookIn ..)
          · exact h2

/-! Frames (R123 to R127). -/

theorem length_xorBytes_le (a b : List Nat) : (xorBytes a b).length ≤ a.length := by
  rw [xorBytes, List.length_zipWith]
  exact Nat.min_le_left ..

theorem length_counterMode_le (rk : List (List Nat)) (iv : List Nat) (fuel : Nat) :
    ∀ (c : Nat) (l : List Nat), (counterMode rk iv fuel c l).length ≤ l.length := by
  induction fuel with
  | zero => exact fun c l => Nat.zero_le _
  | succ fuel ih =>
    intro c l
    unfold counterMode
    split
    · exact Nat.zero_le _
    · have hx := length_xorBytes_le (l.take 16) (aesEncrypt rk (iv ++ toBig 4 c))
      have hr := ih (c + 1) (l.drop 16)
      rw [List.length_take] at hx
      rw [List.length_drop] at hr
      rw [List.length_append]
      omega

/-- An opened text is no longer than the sealed one. -/
theorem length_gcmOpen_le {key : BitVec 256} {iv : BitVec 96} {aad body tag text : List Byte} (h : gcmOpen key iv aad body tag = some text) :
    text.length ≤ body.length := by
  unfold gcmOpen at h
  extract_lets rk ivb at h
  split at h
  · obtain rfl := Option.some.inj h
    have hl := length_counterMode_le rk ivb (body.length / 16 + 1) 2 (nums body)
    rw [nums, List.length_map] at hl
    rwa [List.length_map]
  · exact nomatch h

theorem State.length_open_le (s : State) (e : Ecc) (id iv : Nat) (hdr body tag : List Byte) : (s.open_ e id iv hdr body tag).1.length ≤ body.length := by
  unfold State.open_
  split
  · exact Nat.zero_le _
  · split
    · next h => exact length_gcmOpen_le h
    · exact Nat.zero_le _

/-- A write to a circular range leaves every byte outside it, and changes nothing but the stacks. -/
theorem State.storeRing_outside {base size x : Nat} (h0 : 0 < size) (hx : x < base ∨ base + size ≤ x) (l : List Byte) : ∀ (s : State) (pos : Nat),
    Memory.read (s.storeRing base size pos l).stackMem x = Memory.read s.stackMem x := by
  induction l with
  | nil => exact fun s pos => rfl
  | cons b r ih =>
    intro s pos
    have hm : pos % size < size := Nat.mod_lt _ h0
    exact (ih _ _).trans ((Memory.read_write ..).trans (if_neg (by omega)))

theorem State.storeRing_eq (base size : Nat) (l : List Byte) : ∀ (s : State) (pos : Nat),
    s.storeRing base size pos l = s.setStack (s.storeRing base size pos l).stackMem := by
  induction l with
  | nil => exact fun s pos => rfl
  | cons b r ih => exact fun s pos => (ih _ _)

theorem State.streamSize_pos (s : State) (w : Nat) : 0 < s.streamSize w := Nat.mul_pos (Nat.two_pow_pos _) (by decide)

/-- A ring that ends within the vector area is written there alone. -/
theorem State.storeRing_tookIn (s : State) (w pos : Nat) (l : List Byte) :
    TookIn s (s.storeRing (vecArea w + (s.ringRange w).1) (s.streamSize w) pos l) w := by
  rw [State.storeRing_eq]
  refine State.setStack_tookIn fun hr x hx => State.storeRing_outside (s.streamSize_pos w) ?_ ..
  unfold State.RingFits at hr
  unfold OutsideArea at hx
  simp only [State.ringRange, State.streamSize]
  omega

theorem State.unread_tagGranules (s : State) (w lo hi : Nat) : (s.tagGranules w lo hi).unread = s.unread := by
  unfold State.tagGranules
  split <;> rfl

theorem State.unread_rmwRing (s : State) (base size pos n : Nat) (part : PartReads) : (s.rmwRing base size pos n part).unread = s.unread := by
  unfold State.rmwRing
  extract_lets see
  have hs (s : State) (e : Ecc) (i : Nat) : (see s e i).unread = s.unread := by
    dsimp only [see]
    split
    · rfl
    · split
      · rfl
      · exact s.unread_eccStack ..
      · exact s.unread_eccStack ..
  rw [hs, hs]

theorem State.commitFrame_tookIn (s : State) (w : Nat) (d : RawDesc) (last secret : Bool) (payload : List Byte) (part : PartReads) :
    TookIn s (s.commitFrame w d last secret payload part) w := by
  unfold State.commitFrame
  extract_lets n base size pos bs s0 new s1 s2 s3
  have h0 : s0.unread = s.unread := s.unread_rmwRing ..
  have h1 : TookIn s0 s1 w := by
    have he := s0.storeRing_tookIn w pos bs
    simp only [State.ringRange, State.streamSize, State.wreg, State.reg_of_regs (TookIn.of_unread h0 w).regs] at he
    exact he
  have h2 : s2.unread = s1.unread := by
    dsimp only [s2]
    split
    · split
      · exact s1.unread_tagGranules ..
      · exact (State.unread_tagGranules ..).trans (s1.unread_tagGranules ..)
    · rfl
  have h02 : TookIn s s2 w := (TookIn.of_unread h0 w).trans (h1.trans (.of_unread h2 w))
  exact ((h02.trans (s2.modSl_tookIn ..)).trans (s3.modIk_tookIn ..)).trans (State.stockIndicate_tookIn ..)

/-- What the front of a byte stream leads to. -/
def Parsed.TookIn (s : State) (w : Nat) : Parsed → Prop
  | .wait => True
  | .next t => Machine.TookIn s t w

theorem State.keyRead_tookIn (s : State) (w : Nat) (e : Ecc) (id : Nat) : TookIn s (s.keyRead e id) w := .of_unread (s.unread_eccBankSeen ..) w

theorem State.streamFrame_tookIn (s : State) (w h : Nat) (bs : List Byte) (total : Nat) (rd : IntakeReads) :
    (s.streamFrame w h bs total rd).TookIn s w := by
  unfold State.streamFrame
  extract_lets k sealed_ id last sh len s1 body s2 p
  have h1 : TookIn s s1 w := s.modIk_tookIn ..
  have h2 : TookIn s s2 w := h1.trans (s1.keyRead_tookIn ..)
  split
  · exact s.breakStream_tookIn ..
  · extract_lets n sum
    split
    · exact s.breakStream_tookIn ..
    · split
      · exact s.breakStream_tookIn ..
      · split
        · split
          · trivial
          · show TookIn s (if p.2 = 0 then _ else _) w
            split
            · exact h2.trans (s2.commitFrame_tookIn ..)
            · exact h2.trans (s2.breakStream_tookIn ..)
        · split
          · trivial
          · exact h1.trans (s1.commitFrame_tookIn ..)

/-- A load frame stores its text, or as many zeros, at its place in the vector area (R127). -/
theorem State.loadFrame_tookIn (s : State) (w h : Nat) (bs : List Byte) (total : Nat) (rd : IntakeReads) :
    (s.loadFrame w h bs total rd).TookIn s w := by
  unfold State.loadFrame
  extract_lets id len dest s1 p s2 out s3
  have h1 : TookIn s s1 w := (s.modIk_tookIn ..).trans (State.keyRead_tookIn ..)
  split
  · exact s.breakStream_tookIn ..
  · next hfit =>
    have hlen : dest + len ≤ 0x18000000 := by
      simp only [Bool.or_eq_true, decide_eq_true_eq, not_or, Nat.not_lt] at hfit
      exact hfit.1.1
    have hout : out.length ≤ len := by
      dsimp only [out]
      split
      · exact (s.length_open_le ..).trans ((List.length_take ..).trans_le (Nat.min_le_left ..))
      · rw [List.length_replicate]
    have h3 : TookIn s s3 w := by
      refine (h1.trans (.of_unread (s1.unread_tagGranules ..) w)).trans (State.setStack_tookIn fun _ x hx => ?_)
      rcases hx with hx | hx
      · exact Memory.read_store_below _ _ _ _ (by omega)
      · exact Memory.read_store_above _ _ _ _ (by omega)
    split
    · exact s.breakStream_tookIn ..
    · split
      · trivial
      · split
        · exact h1.trans (s1.breakStream_tookIn ..)
        · show TookIn s (if p.2 = 0 then _ else _) w
          split
          · exact h3
          · exact h3.trans (s3.breakStream_tookIn ..)

theorem State.parseFrame_tookIn (s : State) (w : Nat) (rd : IntakeReads) : (s.parseFrame w rd).TookIn s w := by
  unfold State.parseFrame
  extract_lets k bs h ty body total
  split
  · trivial
  · split
    · exact s.breakStream_tookIn ..
    · split
      · split
        · trivial
        · exact s.modIk_tookIn ..
      · split
        · split
          · exact s.breakStream_tookIn ..
          · exact s.loadFrame_tookIn ..
        · split
          · exact s.streamFrame_tookIn ..
          · trivial

theorem State.parse_tookIn (s : State) (w : Nat) (rd : IntakeReads) : TookIn s (s.parse w rd) w := by
  unfold State.parse
  generalize (s.ik w).bytes.length / 32 + 1 = fuel
  induction fuel generalizing s with
  | zero => exact .refl s w
  | succ n ih =>
    have hf := s.parseFrame_tookIn w rd
    unfold State.parseAll
    split
    · exact .refl s w
    · next s1 he =>
      rw [he] at hf
      exact TookIn.trans hf (ih s1)

/-! Completions by what they bring (R131, R132). -/

/-- A tag has come back to the pool. -/
def State.tagFreed (s : State) (tag : Nat) : State := s.modHost fun h => { h with tags := h.tags.filter fun x => decide (x.1 ≠ tag) }

/-- The request's bytes are there, whether the stream takes them yet or not; one that is whole has freed its tag (R131). -/
def State.received (s : State) (w tag : Nat) (q : Req) (data : List Byte) : State :=
  let got := (q.got ++ data).take q.size
  let s1 := s.modIk w fun k => { k with reqs := k.reqs.map fun r => if r.out tag then { r with got := got } else r }
  if got.length < q.size then s1 else s1.tagFreed tag

/-- The request of a tag is no longer waited for. -/
def State.abandoned (s : State) (w tag : Nat) : State :=
  (s.tagFreed tag).modIk w fun k => { k with reqs := k.reqs.filter fun r => !r.out tag }

section
variable {s : State} {tag w : Nat} (ht : s.host.tags.find? (fun x => x.1 = tag) = some (tag, w))
include ht

theorem State.completion_stray (hq : (s.ik w).reqs.find? (fun q => q.out tag) = none) (data : List Byte) (status : CplStatus) (rd : IntakeReads) :
    s.completion tag data status rd = s.tagFreed tag := by
  simp only [State.completion, ht, hq]
  rfl

variable {q : Req} (hq : (s.ik w).reqs.find? (fun q => q.out tag) = some q)
include hq

theorem State.completion_failed {status : CplStatus} (hs : status ≠ .ok) (data : List Byte) (rd : IntakeReads) :
    s.completion tag data status rd = if q.dead then s.abandoned w tag else (s.abandoned w tag).breakStream w 6 nullShelf := by
  simp only [State.completion, ht, hq]
  exact if_pos hs

theorem State.completion_data (data : List Byte) (rd : IntakeReads) : s.completion tag data .ok rd =
    ((s.received w tag q data).collect w ((s.received w tag q data).ik w).reqs.length).parse w rd := by
  simp only [State.completion, ht, hq]
  exact if_neg (by simp)

end

theorem length_take_append_lt (q : Req) (data : List Byte) :
    ((q.got ++ data).take q.size).length < q.size ↔ q.got.length + data.length < q.size := by
  rw [List.length_take, List.length_append]
  omega

theorem TookIn.tagFreed {s t : State} {w : Nat} (h : TookIn s t w) (tag : Nat) : TookIn (s.tagFreed tag) (t.tagFreed tag) w :=
  ⟨congrArg (fun x : HostSt => { x with tags := x.tags.filter fun y => decide (y.1 ≠ tag) }) h.host, h.regs, h.wsMem, h.others, h.outside⟩

theorem State.received_tookIn (s : State) (w tag : Nat) (q : Req) (data : List Byte) :
    TookIn (if q.got.length + data.length < q.size then s else s.tagFreed tag) (s.received w tag q data) w := by
  unfold State.received
  extract_lets got s1
  simp only [got, length_take_append_lt]
  split
  · exact s.modIk_tookIn ..
  · exact (s.modIk_tookIn ..).tagFreed tag

theorem State.abandoned_tookIn (s : State) (w tag : Nat) : TookIn (s.tagFreed tag) (s.abandoned w tag) w := State.modIk_tookIn ..

theorem State.completion_data_tookIn {s : State} {tag w : Nat} {q : Req} (ht : s.host.tags.find? (fun x => x.1 = tag) = some (tag, w))
    (hq : (s.ik w).reqs.find? (fun q => q.out tag) = some q) (data : List Byte) (rd : IntakeReads) :
    TookIn (if q.got.length + data.length < q.size then s else s.tagFreed tag) (s.completion tag data .ok rd) w := by
  rw [State.completion_data ht hq]
  exact ((s.received_tookIn ..).trans (State.collect_tookIn ..)).trans (State.parse_tookIn ..)

/-- A completion reaches the tags of the pool and, as its window's intake does, that window and its vector area. -/
theorem State.completion_tookIn {s : State} {tag w : Nat} (ht : s.host.tags.find? (fun x => x.1 = tag) = some (tag, w)) (data : List Byte)
    (status : CplStatus) (rd : IntakeReads) : ∃ f, TookIn (s.modHost f) (s.completion tag data status rd) w := by
  cases hq : (s.ik w).reqs.find? (fun q => q.out tag) with
  | none =>
    rw [State.completion_stray ht hq]
    exact ⟨_, .refl ..⟩
  | some q =>
    by_cases hs : status = .ok
    · subst hs
      have h := State.completion_data_tookIn ht hq data rd
      split at h
      · exact ⟨id, h⟩
      · exact ⟨_, h⟩
    · rw [State.completion_failed ht hq hs]
      split
      · exact ⟨_, s.abandoned_tookIn w tag⟩
      · exact ⟨_, (s.abandoned_tookIn w tag).trans (State.breakStream_tookIn ..)⟩

/-- Settles O19: what a completion sets off writes the stacks through a load frame or a ring that fits, each within the window's vector area. -/
theorem framesWriteOnlyTheirVectorArea : Obligations.FramesWriteOnlyTheirVectorArea := by
  unfold Obligations.FramesWriteOnlyTheirVectorArea
  intro s dt tag w data status e a ht hr
  obtain ⟨f, h⟩ := State.completion_tookIn ht data status e
  exact ⟨_, rfl, h.wsMem, fun x hx => h.outside ((State.ringFits_of_regs (s := a) rfl).mpr hr) x hx⟩

/-! ### Read completions (O18) -/

/-- A request that fails frees its tag and breaks the stream (R132). -/
theorem State.completion_breaks {s : State} {tag w : Nat} {q : Req} (ht : s.host.tags.find? (fun x => x.1 = tag) = some (tag, w))
    (hq : (s.ik w).reqs.find? (fun q => q.out tag) = some q) {status : CplStatus} (hs : status ≠ .ok) (hd : q.dead = false) (data : List Byte)
    (rd : IntakeReads) : let t := s.completion tag data status rd
    (t.ik w).broken = 6 ∧ (t.ik w).errCause = 6 ∧ t.host.tags = s.host.tags.filter (fun x => decide (x.1 ≠ tag)) ∧
      (∀ r ∈ (t.ik w).reqs, r.out tag = false) ∧ t.stackMem = s.stackMem ∧ ∀ v, v ≠ w → t.win v = s.win v := by
  intro t
  have he : t = (s.abandoned w tag).breakStream w 6 nullShelf := (State.completion_failed ht hq hs data rd).trans (if_neg (by simp [hd]))
  obtain ⟨hwin, hcalm, hothers⟩ := (s.abandoned w tag).breakStream_spec w 6 nullShelf
  rw [← he] at hwin hcalm hothers
  have hik : t.ik w = ((s.abandoned w tag).ik w).brokenBy 6 nullShelf := congrArg Win.ik hwin
  refine ⟨congrArg IntakeSt.broken hik, congrArg IntakeSt.errCause hik, (congrArg (·.host.tags) hcalm :), fun r hr => ?_,
    (congrArg State.stackMem hcalm :), fun v hv => (hothers v hv).trans ((s.abandoned_tookIn w tag).others v hv)⟩
  have hreqs : ((s.abandoned w tag).ik w).reqs = (s.ik w).reqs.filter fun r => !r.out tag := by
    rw [State.abandoned, State.modIk_eq, State.ik_modWin, if_pos rfl]
    rfl
  rw [hik, IntakeSt.brokenBy, hreqs] at hr
  obtain ⟨r', hr', rfl⟩ := List.mem_map.mp hr
  exact (Bool.not_eq_true' _).mp (List.mem_filter.mp hr').2

/-- A completion timeout is a request that fails, reported at the host port besides (R132, R293). -/
theorem State.timeout_fails {s : State} {tag w : Nat} (ht : s.host.tags.find? (fun x => x.1 = tag) = some (tag, w)) :
    s.timeout tag = (s.completion tag [] .abort {}).raiseDev 4 5 0 2 :=
  if_pos (List.any_eq_true.mpr ⟨_, List.mem_of_find?_eq_some ht, by simp⟩)

/-! Descriptor reads that are not whole. -/

/-- Bytes that do not make the oldest request whole: a descriptor's wait with it (R131). -/
theorem State.collect_waits {s : State} {w : Nat} {q : Req} {rest : List Req} (h : (s.ik w).reqs = q :: rest) (hdesc : q.desc = true)
    (hd : q.dead = false) (hlen : q.got.length < q.size) (n : Nat) :
    s.collect w (n + 1) = s.modIk w fun k => { k with reqs := { q with taken := q.got.length } :: rest } := by
  rw [State.collect]
  simp only [h, hdesc, hd, hlen, Bool.or_true, Bool.and_false, Bool.false_eq_true, ↓reduceIte]

/-- No frame begins in fewer than 32 bytes (R123). -/
theorem State.parse_short {s : State} {w : Nat} (h : (s.ik w).bytes.length < 32) (rd : IntakeReads) : s.parse w rd = s := by
  have hf : s.parseFrame w rd = .wait := if_pos (by simp [h])
  rw [State.parse, Nat.div_eq_of_lt h, State.parseAll, hf]

theorem State.ik_modIk_self (s : State) (w : Nat) (f : IntakeSt → IntakeSt) : (s.modIk w f).ik w = f (s.ik w) :=
  congrArg Win.ik ((s.win_modWin w w _).trans (if_pos rfl))

/-- The data of a descriptor read that is not yet whole joins it. -/
theorem State.completion_joins {s : State} {tag w : Nat} {q : Req} {rest : List Req} (ht : s.host.tags.find? (fun x => x.1 = tag) = some (tag, w))
    (hq : (s.ik w).reqs.find? (fun q => q.out tag) = some q) (hr : (s.ik w).reqs = q :: rest) (hdesc : q.desc = true) (hd : q.dead = false)
    (hrest : ∀ r ∈ rest, r.out tag = false) (hb : (s.ik w).bytes.length < 32) {data : List Byte} (hlen : q.got.length + data.length < q.size)
    (rd : IntakeReads) : let t := s.completion tag data .ok rd
    t.ik w = { s.ik w with reqs := { q with got := q.got ++ data, taken := q.got.length + data.length } :: rest } ∧ OnlyWin s t w := by
  intro t
  have hgot : (q.got ++ data).take q.size = q.got ++ data := List.take_of_length_le (by rw [List.length_append]; omega)
  have hmap : (q :: rest).map (fun r => if r.out tag then { r with got := q.got ++ data } else r) = { q with got := q.got ++ data } :: rest := by
    have hout : q.out tag = true := List.find?_some (p := fun q : Req => q.out tag) hq
    rw [List.map_cons, if_pos hout]
    refine congrArg _ ((List.map_congr_left fun r hm => if_neg (ne_true_of_eq_false (hrest r hm))).trans rest.map_id)
  obtain ⟨u, hu, hku, hou⟩ : ∃ u, s.received w tag q data = u ∧ u.ik w = { s.ik w with reqs := { q with got := q.got ++ data } :: rest } ∧ OnlyWin s u w := by
    refine ⟨_, if_pos (length_take_append_lt q data |>.mpr hlen), ?_, s.modWin_onlyWin ..⟩
    rw [State.ik_modIk_self, hgot, hr, hmap]
  have hlu : (u.ik w).reqs = { q with got := q.got ++ data } :: rest := congrArg IntakeSt.reqs hku
  have hcol := State.collect_waits hlu hdesc hd (by rw [List.length_append]; exact hlen) rest.length
  have het : t = u.modIk w fun k => { k with reqs := { q with got := q.got ++ data, taken := (q.got ++ data).length } :: rest } := by
    dsimp only [t]
    rw [State.completion_data ht hq, hu, hlu, List.length_cons, hcol]
    refine State.parse_short ?_ rd
    rw [State.ik_modIk_self, hku]
    exact hb
  rw [het, State.ik_modIk_self, hku, List.length_append]
  exact ⟨rfl, hou.trans (u.modWin_onlyWin ..)⟩

/-- Settles O18: a completion with an error and a timeout break the stream; data reaches its window's intake and its own tag alone, and what a
descriptor read still lacks waits with it. -/
theorem completionsArrive : Obligations.CompletionsArrive := by
  unfold Obligations.CompletionsArrive
  intro s dt tag w q a ht hq
  refine ⟨fun data status e hs hd => ⟨_, rfl, State.completion_breaks ht hq hs hd data e⟩, fun hd => ⟨_, rfl, ?_⟩, fun data e => ⟨_, rfl, ?_⟩,
    fun data e rest hr hdesc hd hrest hb hlen => ⟨_, rfl, State.completion_joins ht hq hr hdesc hd hrest hb hlen e⟩⟩
  · obtain ⟨hbroken, -, htags, -, -, hothers⟩ := State.completion_breaks ht hq (status := .abort) (by simp) hd [] {}
    have hcalm : (a.timeout tag).calm = (a.completion tag [] .abort {}).calm := by rw [State.timeout_fails ht, State.calm_raiseDev]
    exact ⟨(congrArg (fun c : State => (c.ik w).broken) hcalm :).trans hbroken, (congrArg (·.host.tags) hcalm :).trans htags,
      fun v hv => (State.win_at_of_calm hcalm v).trans (hothers v hv)⟩
  · have h := State.completion_data_tookIn ht hq data e
    refine ⟨(congrArg HostSt.tags h.host).trans ?_, fun v hv => (h.others v hv).trans ?_⟩
    · split <;> rfl
    · split <;> rfl

end Sys2Proof.Machine

namespace Sys2Proof.Machine

/-! ### Ring registers, requests and posts of the intake (O17) -/

theorem State.modIk_onlyWin (s : State) (w : Nat) (f : IntakeSt → IntakeSt) : OnlyWin s (s.modIk w f) w := s.modWin_onlyWin ..

/-! SLU.INT_PROD (R112, R113, R121). -/

/-- A producer index that the ring can take, against the consumer index as it stood before this instant's pops. -/
def State.ProdLegal (s : State) (w v : Nat) : Prop :=
  let n := 2 ^ (s.ringBits w + 1)
  let seen := ((s.ik w).cons + n - movedNow (s.ik w).consNow s.now) % n
  v % 2 ^ 17 < n ∧ (v % 2 ^ 17 + n - seen) % n ≤ 2 ^ s.ringBits w

theorem State.prodLegal_iff {s : State} {w v : Nat} : (
    let m := 2 ^ (s.ringBits w + 1)
    let seen := ((s.ik w).cons + m - movedNow (s.ik w).consNow s.now) % m
    m ≤ v % 2 ^ 17 || m / 2 < (v % 2 ^ 17 + m - seen) % m) = true ↔ ¬ s.ProdLegal w v := by
  have h2 : 2 ^ (s.ringBits w + 1) / 2 = 2 ^ s.ringBits w := by rw [pow_succ, Nat.mul_div_cancel _ (by decide)]
  simp only [State.ProdLegal, h2, Bool.or_eq_true, decide_eq_true_eq, not_and_or, Nat.not_lt, Nat.not_le]

/-- Nothing of the registers but the one at address `r`, and of the windows window `w` alone, has changed since `a`. -/
structure OneRegWin (a t : State) (r w : Nat) : Prop where
  same : t = { a with regs := t.regs, wins := t.wins }
  regs : ∀ x, x ≠ r → t.reg x = a.reg x
  others : ∀ v, v ≠ w → t.win v = a.win v

theorem State.setReg_modWin_only (s : State) (r v w : Nat) (f : Win → Win) : OneRegWin s ((s.setReg r v).modWin w f) r w :=
  ⟨rfl, (s.setReg_onlyReg r v).2, ((s.setReg r v).modWin_onlyWin w f).2⟩

/-- A legal index is stored, and counts as an item's begin and as this instant's push. -/
theorem State.writeIntProd_legal {s : State} {w v : Nat} (h : s.ProdLegal w v) : let t := s.writeIntProd w v
    t.wreg w 2 0x060 = v % 2 ^ 17 ∧ (t.ik w).broken = (s.ik w).broken ∧ OneRegWin s t (pageAddr (winPage w 2) 0x060) w := by
  intro t
  have he : t = _ := if_neg (mt State.prodLegal_iff.mp (not_not.mpr h))
  rw [he]
  refine ⟨s.reg_setReg_self _ ?_, ?_, s.setReg_modWin_only ..⟩
  · omega
  · rw [State.ik_modIk_self]
    rfl

/-- Another breaks the stream (R121, R132). -/
theorem State.writeIntProd_illegal {s : State} {w v : Nat} (h : ¬ s.ProdLegal w v) : let t := s.writeIntProd w v
    t.ik w = (s.ik w).brokenBy 5 nullShelf ∧ t.sq w = s.sq w ∧ CalmWin s t w := by
  intro t
  have he : t = s.breakStream w 5 nullShelf := if_pos (State.prodLegal_iff.mpr h)
  obtain ⟨hwin, hcalm⟩ := s.breakStream_spec w 5 nullShelf
  rw [he]
  exact ⟨(congrArg Win.ik hwin :), (congrArg Win.sq hwin :), hcalm⟩

/-! SLU.INT_RING and SLU.CFG (R114, R117). -/

/-- A refused configuration is marked and reported. -/
theorem State.sluRefuse_spec (s : State) (w : Nat) : let t := s.sluRefuse w
    (t.sl w).cfgRefused = true ∧ t.ik w = s.ik w ∧ CalmWin s t w := by
  obtain ⟨hwin, hcalm⟩ : (s.sluRefuse w).win w = { s.win w with sl := { s.sl w with cfgRefused := true } } ∧ CalmWin s (s.sluRefuse w) w :=
    CalmWin.of_calm (State.calm_raiseCh ..)
  exact ⟨(congrArg (·.sl.cfgRefused) hwin :), (congrArg Win.ik hwin :), hcalm⟩

theorem State.writeIntRing_refused {s : State} {w v : Nat} (h : s.armedRun w = true ∨ 12 < bits v 0 4) : s.writeIntRing w v = s.sluRefuse w :=
  if_pos (by simpa using h)

/-- SLU.INT_RING as it stores a written value: SIZE and EN, and the ring's base. -/
def intRingWord (v : Nat) : Nat := bits v 0 5 + bits v 12 52 * 4096

theorem intRingWord_lt (v : Nat) : intRingWord v < 2 ^ 64 := by
  unfold intRingWord bits
  omega

/-- The intake with its indices back at 0 and nothing of the ring before in it. -/
def IntakeSt.ringReset (k : IntakeSt) : IntakeSt :=
  { k with
    cons := 0, fetch := 0, skipping := false, torn1 := false, begun := false, bufs := [], bytes := [], pad := 0, postDue := false,
    consNow := (0, 0), prodNow := (0, 0), reqs := k.reqs.map fun q => { q with dead := true } }

theorem State.writeIntRing_accepted {s : State} {w v : Nat} (ha : s.armedRun w = false) (hv : bits v 0 4 ≤ 12) : let t := s.writeIntRing w v
    t.wreg w 2 0x050 = intRingWord v ∧ t.wreg w 2 0x060 = 0 ∧ t.ik w = (s.ik w).ringReset ∧ (t.sl w).cfgRefused = false ∧
      ∀ u, u ≠ w → t.win u = s.win u := by
  intro t
  set s1 := (s.setReg (pageAddr (winPage w 2) 0x050) (intRingWord v)).setReg (pageAddr (winPage w 2) 0x060) 0 with hs1
  have he : t = (s1.modIk w IntakeSt.ringReset).sluAccept w := if_neg (by simp [ha, hv])
  have hwin : t.win w = { s.win w with ik := (s.ik w).ringReset, sl := { s.sl w with cfgRefused := false } } := by
    rw [he, State.sluAccept, State.win_modSl_self]
    exact congrArg (fun x : Win => { x with sl := { x.sl with cfgRefused := false } }) ((s1.win_modWin ..).trans (if_pos rfl))
  have hreg : t.regs = s1.regs := by rw [he]; rfl
  refine ⟨?_, ?_, congrArg Win.ik hwin, congrArg (·.sl.cfgRefused) hwin, fun u hu => ?_⟩
  · rw [State.wreg, State.reg_of_regs hreg, State.reg_setReg, if_neg (by simp [pageAddr])]
    exact s.reg_setReg_self _ (intRingWord_lt v)
  · rw [State.wreg, State.reg_of_regs hreg]
    exact State.reg_setReg_self _ _ (by decide)
  · rw [he]
    exact (((s1.modIk w _).modWin_onlyWin ..).2 u hu).trans ((s1.modWin_onlyWin ..).2 u hu)

/-- The Sluice cannot be configured so (R117, R118). -/
def State.BadSluCfg (s : State) (w v : Nat) : Prop :=
  let size := 8192 * 2 ^ bits v 0 3
  s.armedRun w = true ∨ 5 < bits v 0 3 ∨ bits v 8 12 ≤ bits v 20 12 ∨ size - 6144 < 64 * bits v 8 12 ∨ 2 * 0x100000 < s.otherSluices w + size

theorem State.badSluCfg_iff {s : State} {w v : Nat} : (
    let size := 8192 * 2 ^ bits v 0 3
    s.armedRun w || 5 < bits v 0 3 || bits v 8 12 ≤ bits v 20 12 || size - 6144 < 64 * bits v 8 12 ||
      2 * 0x100000 < s.otherSluices w + size) = true ↔ s.BadSluCfg w v := by
  simp only [State.BadSluCfg, Bool.or_eq_true, decide_eq_true_eq, or_assoc]

theorem State.writeSluCfg_refused {s : State} {w v : Nat} (h : s.BadSluCfg w v) : s.writeSluCfg w v = s.sluRefuse w :=
  if_pos (State.badSluCfg_iff.mpr h)

/-- SLU.CFG as it stores a written value: its reserved bits 3 to 7 clear. -/
def sluCfgWord (v : Nat) : Nat := v % 2 ^ 32 - bits v 3 5 * 8

/-- The fields of a stored SLU.CFG are those written. -/
theorem sluCfgWord_fields (v : Nat) : sluCfgWord v < 2 ^ 64 ∧ bits (sluCfgWord v) 0 3 = bits v 0 3 ∧ bits (sluCfgWord v) 8 12 = bits v 8 12 ∧
    bits (sluCfgWord v) 20 12 = bits v 20 12 := by
  simp only [sluCfgWord, bits]
  omega

theorem State.writeSluCfg_accepted {s : State} {w v : Nat} (h : ¬ s.BadSluCfg w v) : let t := s.writeSluCfg w v
    t.wreg w 2 0x040 = sluCfgWord v ∧ (t.sl w).cfgRefused = false ∧ ∀ u, u ≠ w → t.win u = s.win u := by
  intro t
  set s1 := s.setReg (pageAddr (winPage w 2) 0x040) (sluCfgWord v)
  have he : t = (s1.sluAccept w).fillIndicate w := if_neg (mt State.badSluCfg_iff.mp h)
  have hreg : t.wreg w 2 0x040 = s1.wreg w 2 0x040 := by rw [he]; rfl
  refine ⟨hreg.trans (s.reg_setReg_self _ (sluCfgWord_fields v).1), ?_, fun u hu => ?_⟩
  · rw [he, State.fillIndicate, State.sl_modSl_self, State.sluAccept, State.sl_modSl_self]
  · rw [he]
    exact (((s1.sluAccept w).fillIndicate_onlyWin w).2 u hu).trans ((s1.modWin_onlyWin ..).2 u hu)

/-! Requests (R129, R131). -/

theorem freeTag_unused {used : List Nat} {n t tag : Nat} (h : freeTag used n t = some tag) : tag ∉ used := by
  induction n generalizing t with
  | zero => exact nomatch h
  | succ n ih =>
    unfold freeTag at h
    split at h
    · exact ih h
    · next hu =>
      obtain rfl := Option.some.inj h
      simpa using hu

/-- The intake of window `w` with a request sent. -/
def IntakeSt.requested (k : IntakeSt) (rb tag n : Nat) (d : Bool) : IntakeSt :=
  { k with
    reqs := k.reqs ++ [{ tag := tag, size := n, got := [], taken := 0, desc := d, dead := false }]
    bufs := if d then k.bufs else takeBuf n k.bufs
    fetch := if d then (k.fetch + 1) % 2 ^ (rb + 1) else k.fetch }

theorem State.intakeIssue_serves {s : State} {w tag addr n : Nat} {d : Bool} (hc : s.canIssue = true)
    (hw : ((List.range 136).map fun i => (s.host.lastWin + 1 + i) % 136).find? (fun w => (s.issuable w).isSome) = some w)
    (ht : freeTag (s.host.tags.map (·.1)) s.host.poolSize 0 = some tag) (hi : s.issuable w = some (addr, n, d)) : s.intakeIssue =
    ((s.modIk w fun k => k.requested (s.ringBits w) tag n d).modHost fun h => { h with tags := h.tags ++ [(tag, w)], lastWin := w }).emit
      (.read tag addr n) := by
  simp only [State.intakeIssue, hc, hw, ht, hi]
  rfl

/-! Posts of the consumer index (R121). -/

/-- The intake of a window whose consumer index has been posted at `now`. -/
def IntakeSt.posted (k : IntakeSt) (now : Nat) : IntakeSt := { k with postDue := false, postAt := some now }

theorem State.postCons_posts {s : State} {w : Nat} (hd : (s.ik w).postDue = true) (hp : ∀ t, (s.ik w).postAt = some t → t + us ≤ s.now)
    (hb : bit (s.wreg w 2 0x058) 0 = true) (hc : s.canIssue = true) : s.postCons w =
    (s.modIk w fun k => k.posted s.now).emit
      (.write (bits (s.wreg w 2 0x058) 3 61 * 8) (bytesOf (s.ik w).cons 8)) := by
  unfold State.postCons
  extract_lets k r due
  have hdue : due = true := by
    dsimp only [due]
    split
    · next t h => exact decide_eq_true (hp t h)
    · rfl
  exact if_pos (by simp [k, r, hd, hdue, hb, hc])

/-- Settles O17: each register write is stored or refused by its own test, and a request or a post is one update of its window with the traffic that
it sends. -/
theorem intakeRegistersAndTraffic : Obligations.IntakeRegistersAndTraffic := by
  unfold Obligations.IntakeRegistersAndTraffic
  refine ⟨fun s dt w => ?_, fun s dt w tag addr n d => ?_, fun s dt w => ?_⟩
  · intro a ht
    refine ⟨fun val => ⟨fun h => ?_, fun h => ?_⟩, fun val => ⟨fun ha hv => ?_, fun h => ?_⟩, fun val => ⟨fun h => ?_, fun h => ?_⟩⟩
    · obtain ⟨hreg, hbroken, hsame, hregs, hothers⟩ := State.writeIntProd_legal (s := a) h
      exact ⟨_, congrArg Host.Outcome.next (State.hostWrite_takes ht _ _), hreg, hbroken, hsame, hregs, hothers⟩
    · obtain ⟨hik, hsq, hcalm⟩ := State.writeIntProd_illegal (s := a) h
      exact ⟨_, congrArg Host.Outcome.next (State.hostWrite_takes ht _ _), congrArg IntakeSt.broken hik, congrArg IntakeSt.errCause hik,
        congrArg IntakeSt.errShelf hik, congrArg IntakeSt.bufs hik, congrArg IntakeSt.bytes hik, hsq, hcalm⟩
    · obtain ⟨hring, hprod, hik, hcfg, hothers⟩ := State.writeIntRing_accepted ha hv
      exact ⟨_, congrArg Host.Outcome.next (State.hostWrite_takes ht _ _), hring, hprod, congrArg IntakeSt.cons hik, congrArg IntakeSt.fetch hik,
        congrArg IntakeSt.skipping hik, congrArg IntakeSt.bufs hik, hcfg, hothers⟩
    · refine ⟨_, congrArg Host.Outcome.next ((State.hostWrite_takes ht _ _).trans (State.writeIntRing_refused h)), a.sluRefuse_spec w⟩
    · obtain ⟨hreg, hcfg, hothers⟩ := State.writeSluCfg_accepted (s := a) h
      obtain ⟨-, hsize, hhi, hlo⟩ := sluCfgWord_fields val.toNat
      refine ⟨_, congrArg Host.Outcome.next (State.hostWrite_takes ht _ _), ?_, ?_, ?_, hcfg, hothers⟩
      · rw [State.sluSize, hreg, hsize]
      · rw [hreg, hhi]
      · rw [hreg, hlo]
    · refine ⟨_, congrArg Host.Outcome.next ((State.hostWrite_takes ht _ _).trans (State.writeSluCfg_refused h)), a.sluRefuse_spec w⟩
  · intro a hc hw ht hi
    have hik := a.ik_modIk_self w fun k => k.requested (a.ringBits w) tag n d
    have honly := a.modIk_onlyWin w fun k => k.requested (a.ringBits w) tag n d
    exact ⟨_, congrArg Host.Outcome.next (State.intakeIssue_serves hc hw ht hi), rfl, rfl, congrArg IntakeSt.reqs hik, freeTag_unused ht, honly.2⟩
  · intro a hd hp hb hc
    have hik := a.ik_modIk_self w fun k => k.posted a.now
    have honly := a.modIk_onlyWin w fun k => k.posted a.now
    exact ⟨_, congrArg Host.Outcome.next (State.postCons_posts hd hp hb hc), rfl, hik, rfl, honly.2⟩

end Sys2Proof.Machine

namespace Sys2Proof.Machine

/-! ### The host link and its configuration space (O54) -/

/-! A detection is reported (R294, R299). -/

theorem mem_joinDet_parts (d : Det) (l : List Det) : ∃ e ∈ joinDet d l, e.src = d.src ∧ e.at_ = d.at_ ∧ ∀ p ∈ d.parts, p ∈ e.parts := by
  induction l with
  | nil => exact ⟨d, List.mem_singleton_self d, rfl, rfl, fun _ h => h⟩
  | cons x l ih =>
    unfold joinDet
    split
    · next h =>
      simp only [Bool.and_eq_true, decide_eq_true_eq] at h
      obtain ⟨⟨hsrc, hat⟩, -⟩ := h
      exact ⟨_, List.mem_cons_self, hsrc, hat, fun p hp => List.mem_append_right _ hp⟩
    · obtain ⟨e, he, h⟩ := ih
      exact ⟨e, List.mem_cons_of_mem _ he, h⟩

/-- With GT running at SERVICEABLE a detection joins those on their way. -/
theorem State.flight_send {s : State} (hg : s.gtRun = true) (hb : s.dev.bringup = 5) (d : Det) : (s.send d).flight = joinDet d s.flight := by
  unfold State.send
  rw [if_neg (by simp [hg]), if_neg (by simp [hb])]

/-- A detection with a native class leaves its record on its way, and marks a cause that persists. -/
theorem State.raise_reports (s : State) (src code : Nat) {native : Nat} (hn : native ≠ 0) :
    Reports s (s.raise src code native) src code native := by
  unfold State.raise State.raiseAt
  extract_lets s1 enabled s2
  have h1 : s1.calm = s.calm := by
    dsimp only [s1]
    split <;> simp
  have h2 : s2.calm = s.calm := by
    dsimp only [s2]
    split
    · exact (State.calm_modSrc ..).trans h1
    · exact h1
  have hcause : isCond src code = true → code ∈ (s2.src src).causes := by
    intro hc
    dsimp only [s2]
    rw [if_pos hc, State.src_modSrc_self]
    split
    · next h => simpa using h
    · exact List.mem_append_right _ (List.mem_singleton_self code)
  have he : enabled = true := by simp [enabled, hn]
  rw [if_pos he]
  have hgt : s2.calm.gtRun = s.calm.gtRun := congrArg State.gtRun h2
  have hbring : s2.calm.dev.bringup = s.calm.dev.bringup := congrArg (·.dev.bringup) h2
  clear_value s2
  refine ⟨fun hg hb => ?_, fun hc => ?_⟩
  · rw [State.flight_send (s := s2) (hgt.trans hg) (hbring.trans hb)]
    obtain ⟨e, hmem, hsrc, hat, hparts⟩ := mem_joinDet_parts _ s2.flight
    exact ⟨e, hmem, hsrc, hat, _, hparts _ (List.mem_singleton_self _), rfl, rfl, rfl⟩
  · unfold State.src at hcause ⊢
    rw [State.coll_send]
    exact hcause hc

/-- What is reported since `s` is reported since a state of the same time and bring-up. -/
theorem Reports.of_same {a s t : State} {src code native : Nat} (h : Reports s t src code native) (ht : s.t = a.t) (hg : s.gtRun = a.gtRun)
    (hb : s.dev.bringup = a.dev.bringup) : Reports a t src code native := by
  unfold Reports at h ⊢
  rwa [ht, hg, hb] at h

/-! Vectors that wait (R335, R343). -/

/-- The host port without what sending a vector's message changes. -/
def HostSt.unvectored (h : HostSt) : HostSt := { h with msixPend := [], msixSince := [], msixLast := [], msixGap := [] }

/-- The state without its vectors' pending messages and its traffic. -/
def State.unvectored (s : State) : State := { s with host := s.host.unvectored, out := [] }

theorem State.unvectored_flushVecs (s : State) : s.flushVecs.unvectored = s.unvectored := by
  refine State.each_proj State.unvectored s _ fun s v => ?_
  split
  · split <;> rfl
  · rfl

/-- Since when vectors have been pending and masked is all that a change of the masking tells. -/
theorem State.sinceAll_eq (s : State) : s.sinceAll = { s with host := { s.host with msixSince := s.sinceAll.host.msixSince } } := by
  have h := State.each_proj (fun s : State => { s with host := { s.host with msixSince := [] } }) s
    ((s.host.msixPend.filter (·.2)).map (·.1)) (f := State.sinceVec) fun _ _ => rfl
  exact (congrArg (fun c : State => { c with host := { c.host with msixSince := s.sinceAll.host.msixSince } }) h :)

/-! The link (R332, R333, R335 to R337). -/

/-- Configuration space as a reset leaves it (R337). -/
def HostSt.configReset (h : HostSt) (since : Tab (Option Nat)) : HostSt :=
  { h with cfgSpace := [], bme := false, msixEn := false, funcMask := false, mrrs := 512, tag10 := false, tag14 := false, l1 := false,
           msixSince := since }

theorem State.resetConfig_eq (s : State) : s.resetConfig = { s with host := s.host.configReset s.resetConfig.host.msixSince } :=
  State.sinceAll_eq _

theorem State.linkLose_down {s : State} (h : s.host.up = false) : s.linkLose = s := if_pos (by simp [h])
theorem State.d3_down {s : State} (h : s.host.up = false) : s.d3 = s := if_neg (by simp [h])

/-- The link goes down with its configuration space, and LINK_DOWN says so. -/
theorem State.linkLose_up {s : State} (h : s.host.up = true) : let t := s.linkLose
    Reports s t 0x4080 0 3 ∧ t.calm = { s.calm with
      host := { s.host.configReset t.host.msixSince with up := false, gen := 0, width := 0, flit := false } } := by
  intro t
  set u := (s.resetConfig.modHost fun h => { h with up := false, gen := 0, width := 0, flit := false }).endCond (devSrc 4 2) 0 with hu
  have he : t = u.raiseDev 4 0 0 3 := if_neg (by simp [h])
  have hcu : u.calm = { s.calm with
      host := { s.host.configReset s.resetConfig.host.msixSince with up := false, gen := 0, width := 0, flit := false } } := by
    rw [hu, State.calm_endCond, State.resetConfig_eq]
    rfl
  have hct : t.calm = u.calm := by rw [he, State.calm_raiseDev]
  have hsince : t.host.msixSince = s.resetConfig.host.msixSince := (congrArg (·.host.msixSince) (hct.trans hcu) :)
  refine ⟨?_, by rw [hct, hcu, hsince]⟩
  rw [he]
  exact (u.raise_reports (devSrc 4 0) 0 (by decide)).of_same (congrArg State.t hcu :) (congrArg State.gtRun hcu :) (congrArg (·.dev.bringup) hcu :)

/-- The link comes up as trained. -/
def HostSt.trained (h : HostSt) (gen width : Nat) (flit : Bool) (budget : Nat) : HostSt :=
  { h with up := true, gen := gen, width := width, flit := flit, l1 := false, budget := budget }

/-- What the link needs to train beside a pair of speed and width (R332, R333). -/
def State.CanTrain (s : State) (gen : Nat) (flit : Bool) (clocking : Clocking) : Prop :=
  s.host.up = false ∧ s.host.perst = true ∧ flit = decide (gen = 6) ∧ clocking ≠ .spread

theorem State.linkTrain_fails {s : State} {gen width : Nat} {flit : Bool} {clocking : Clocking}
    (h : linkBudget gen width = none ∨ ¬ s.CanTrain gen flit clocking) : s.linkTrain gen width flit clocking = s := by
  unfold State.linkTrain
  split
  · rfl
  · next b hb =>
    have hn := h.resolve_left (by simp [hb])
    refine if_pos ?_
    simp only [State.CanTrain, not_and_or, Bool.not_eq_false, Bool.not_eq_true, not_not] at hn
    rcases hn with hn | hn | hn | hn <;> simp [hn]

theorem State.linkTrain_trains {s : State} {gen width b : Nat} {flit : Bool} {clocking : Clocking} (hb : linkBudget gen width = some b)
    (h : s.CanTrain gen flit clocking) : let t := s.linkTrain gen width flit clocking
    t.host.unvectored = (s.host.trained gen width flit b).unvectored ∧ (¬ (gen = 6 ∧ width = 16) → Reports s t 0x4082 0 2) ∧
      t.wins = s.wins ∧ t.regs = s.regs ∧ t.stackMem = s.stackMem ∧ t.wsMem = s.wsMem ∧ t.keep = s.keep := by
  intro t
  obtain ⟨hup, hperst, hflit, hclock⟩ := h
  obtain ⟨u, hu⟩ : ∃ u, u = ((s.modHost fun h => h.trained gen width flit b).endCond (devSrc 4 0) 0).flushVecs := ⟨_, rfl⟩
  have he : t = if gen = 6 && width = 16 then u.endCond (devSrc 4 2) 0 else u.raiseDev 4 2 0 2 := by
    dsimp only [t, State.linkTrain]
    rw [hb, hu]
    exact if_neg (by simp [hup, hperst, ← hflit, hclock])
  have hcu : u.unvectored.calm = (s.modHost fun h => h.trained gen width flit b).unvectored.calm := by
    rw [hu, State.unvectored_flushVecs]
    exact congrArg State.unvectored (State.calm_endCond ..)
  have hct : t.calm = u.calm := by
    rw [he]
    split
    · exact State.calm_endCond ..
    · exact State.calm_raiseDev ..
  have hc : t.calm.unvectored = s.calm.unvectored.modHost fun _ => (s.host.trained gen width flit b).unvectored := by
    rw [hct]
    exact hcu
  refine ⟨(congrArg State.host hc :), fun hg => ?_, (congrArg State.wins hc :), (congrArg State.regs hc :), (congrArg State.stackMem hc :),
    (congrArg State.wsMem hc :), (congrArg State.keep hc :)⟩
  rw [he, if_neg (by simpa using hg)]
  exact (u.raise_reports (devSrc 4 2) 0 (by decide)).of_same (congrArg State.t hcu :) (congrArg State.gtRun hcu :) (congrArg (·.dev.bringup) hcu :)

theorem State.d0_awake {s : State} (h : s.host.l1 = false) : s.d0 = s := if_neg (by simp [h])

theorem State.unvectored_d0 {s : State} (h : s.host.l1 = true) : s.d0.unvectored = (s.modHost fun h => { h with l1 := false }).unvectored := by
  rw [State.d0, if_pos h, State.unvectored_flushVecs]

/-! Configuration requests (R336, R383). -/

/-- Configuration settings beside the dwords stored and Bus Master Enable have changed since `s`, or what waits for the host. -/
structure SettingsOnly (s t : State) : Prop where
  wins : t.wins = s.wins
  regs : t.regs = s.regs
  dev : t.dev = s.dev
  cfgSpace : t.host.cfgSpace = s.host.cfgSpace
  bme : t.host.bme = s.host.bme

theorem SettingsOnly.refl (s : State) : SettingsOnly s s := ⟨rfl, rfl, rfl, rfl, rfl⟩

theorem SettingsOnly.trans {s t u : State} (h1 : SettingsOnly s t) (h2 : SettingsOnly t u) : SettingsOnly s u :=
  ⟨h2.wins.trans h1.wins, h2.regs.trans h1.regs, h2.dev.trans h1.dev, h2.cfgSpace.trans h1.cfgSpace, h2.bme.trans h1.bme⟩

/-- A setting that only one dword reaches. -/
theorem SettingsOnly.ite {s t u : State} {c : Prop} [Decidable c] (h1 : SettingsOnly s t) (h2 : SettingsOnly t u) :
    SettingsOnly s (if c then u else t) := by
  split
  · exact h1.trans h2
  · exact h1

theorem SettingsOnly.of_unvectored {s t : State} (h : t.unvectored = s.unvectored) : SettingsOnly s t where
  wins := (congrArg State.wins h :)
  regs := (congrArg State.regs h :)
  dev := (congrArg State.dev h :)
  cfgSpace := (congrArg (·.host.cfgSpace) h :)
  bme := (congrArg (·.host.bme) h :)

theorem State.flushVecs_settingsOnly (s : State) : SettingsOnly s s.flushVecs := .of_unvectored s.unvectored_flushVecs

theorem State.sinceAll_settingsOnly (s : State) : SettingsOnly s s.sinceAll := by
  rw [State.sinceAll_eq]
  exact ⟨rfl, rfl, rfl, rfl, rfl⟩

theorem State.d3_settingsOnly (s : State) : SettingsOnly s s.d3 := by
  unfold State.d3
  split
  · exact ⟨rfl, rfl, rfl, rfl, rfl⟩
  · exact .refl s

theorem State.d0_settingsOnly (s : State) : SettingsOnly s s.d0 := by
  unfold State.d0
  split
  · exact (⟨rfl, rfl, rfl, rfl, rfl⟩ : SettingsOnly s (s.modHost fun h => { h with l1 := false })).trans (State.flushVecs_settingsOnly _)
  · exact .refl s

/-- A dword of configuration space as the host writes it, with Bus Master Enable where it lies there. -/
def State.configStored (s : State) (k : Nat) (v : BitVec 32) : State :=
  s.modHost fun h => { h with cfgSpace := Tab.set 0 h.cfgSpace k v, bme := if k = 1 then v.getLsbD 2 else h.bme }

/-- A configuration write stores its dword, takes settings, and writes the size of BAR 2 where Resizable BAR's control dword is the one written. -/
theorem State.configTakes_cases (s : State) (k : Nat) (v : BitVec 32) : ∃ u, SettingsOnly (s.configStored k v) u ∧
    s.configTakes k v = (if k = Config.rebarCap / 4 + 2 && 10 ≤ bits v.toNat 8 6 then u.bar2Size (bits v.toNat 8 6 - 10) else u).sinceAll.flushVecs := by
  unfold State.configTakes
  extract_lets s1 s2 s3 s4 s5 s6 s7 s8
  refine ⟨s7, ?_, rfl⟩
  have h2 : s2 = s.configStored k v := by
    dsimp only [s2]
    by_cases h : k = 1
    · simp only [s1, State.configStored, h, ↓reduceIte]
      rfl
    · simp only [s1, State.configStored, h, ↓reduceIte]
  have h3 : SettingsOnly s2 s3 := (SettingsOnly.refl s2).ite ⟨rfl, rfl, rfl, rfl, rfl⟩
  have h4 : SettingsOnly s2 s4 := h3.ite ⟨rfl, rfl, rfl, rfl, rfl⟩
  have h5 : SettingsOnly s2 s5 := h4.ite ⟨rfl, rfl, rfl, rfl, rfl⟩
  have h6 : SettingsOnly s2 s6 := h5.ite ⟨rfl, rfl, rfl, rfl, rfl⟩
  rw [← h2]
  refine h6.ite ?_
  split
  · exact s6.d3_settingsOnly
  · exact s6.d0_settingsOnly

/-- At another dword than Resizable BAR's control no register changes. -/
theorem State.configTakes_stores (s : State) {k : Nat} (hk : k ≠ Config.rebarCap / 4 + 2) (v : BitVec 32) :
    SettingsOnly (s.configStored k v) (s.configTakes k v) := by
  obtain ⟨u, hu, he⟩ := s.configTakes_cases k v
  rw [he, if_neg (by simp [hk])]
  exact (hu.trans u.sinceAll_settingsOnly).trans (State.flushVecs_settingsOnly _)

/-- A BAR 2 of 64 GiB leaves no base but 0 (R340). -/
theorem State.dreg_bar2Size_largest {s : State} (h : bits (s.dreg 4 0x050) 0 36 ≠ 0) : (s.bar2Size 6).dreg 4 0x050 = 0 := by
  unfold State.bar2Size
  rw [if_neg (by decide)]
  extract_lets s1
  rw [if_neg (by rwa [show 2 ^ (30 + 6) = 2 ^ 36 from rfl, bits_mod_width])]
  exact s1.reg_setReg_self _ (by decide)

/-- A write of the largest size at Resizable BAR's control dword sets the base of HST.BAR2_WIN to 0. -/
theorem State.configTakes_resizes {s : State} (h : bits (s.dreg 4 0x050) 0 36 ≠ 0) :
    (s.configTakes (Config.rebarCap / 4 + 2) 0x1000).dreg 4 0x050 = 0 := by
  obtain ⟨u, hu, he⟩ := s.configTakes_cases (Config.rebarCap / 4 + 2) 0x1000
  have hreg (x : Nat) : u.reg x = s.reg x := State.reg_of_regs (s := u) (t := s) hu.regs x
  rw [he, if_pos (by simp; decide)]
  set b := u.bar2Size (bits (0x1000 : BitVec 32).toNat 8 6 - 10) with hb
  have hset := b.sinceAll_settingsOnly.trans b.sinceAll.flushVecs_settingsOnly
  rw [State.dreg, State.reg_of_regs hset.regs]
  exact State.dreg_bar2Size_largest (s := u) (by rwa [State.dreg, hreg])

theorem State.config_down {s : State} (h : s.host.up = false) (wr : Bool) (k : Nat) (v : BitVec 32) : s.config wr k v = s := if_pos (by simp [h])

theorem State.config_retry {s : State} (h : s.host.up = true) (hb : s.dev.bringup < 2) (wr : Bool) (k : Nat) (v : BitVec 32) :
    s.config wr k v = s.emit (.config none) := (if_neg (by simp [h])).trans (if_pos hb)

theorem State.config_completes {s : State} (h : s.host.up = true) (hb : 2 ≤ s.dev.bringup) (wr : Bool) (k : Nat) (v : BitVec 32) :
    let s1 := if wr then s.configTakes k v else s
    s.config wr k v = s1.emit (.config (some (s1.configRead k))) := (if_neg (by simp [h])).trans (if_neg (by omega))

theorem classCode_configRead (s : State) : (s.configRead 2).toNat / 256 = 0x118000 := by
  have h : s.configRead 2 = BitVec.ofNat 32 (0x11800000 + Config.stepping.toNat) := rfl
  have hs := Config.stepping.isLt
  rw [h, BitVec.toNat_ofNat]
  omega

/-- A serviceable part whose link is up and whose BAR 2 window stands at 1 GiB. -/
def windowAtOneGib : State :=
  { regs := [(pageAddr 4 0x050, 0x40000000)], dev := { bringup := 5 }, host := { up := true } }

/-- A configuration write at a dword that `configTakes` gives the largest BAR 2. -/
theorem State.config_resizes {s : State} (hup : s.host.up = true) (hb : 2 ≤ s.dev.bringup) (h : bits (s.dreg 4 0x050) 0 36 ≠ 0) :
    (s.config true (Config.rebarCap / 4 + 2) 0x1000).dreg 4 0x050 = 0 := by
  have hset := State.configTakes_resizes h
  obtain ⟨t, ht⟩ : ∃ t, t = s.configTakes (Config.rebarCap / 4 + 2) 0x1000 := ⟨_, rfl⟩
  rw [State.config_completes hup hb, if_pos rfl, ← ht]
  rwa [← ht] at hset

/-- A configuration write at another dword stores it and changes no register. -/
theorem State.config_stores {s : State} (hup : s.host.up = true) (hb : 2 ≤ s.dev.bringup) {k : Nat} (hk : k ≠ Config.rebarCap / 4 + 2)
    (v : BitVec 32) : SettingsOnly (s.configStored k v) (s.config true k v) := by
  have hset := s.configTakes_stores hk v
  obtain ⟨t, ht⟩ : ∃ t, t = s.configTakes k v := ⟨_, rfl⟩
  rw [State.config_completes hup hb, if_pos rfl, ← ht]
  rw [← ht] at hset
  exact hset.trans ⟨rfl, rfl, rfl, rfl, rfl⟩

/-- O54 asks that Resizable BAR's control dword lie beyond the 4 KiB of configuration space: a write there sets HST.BAR2_WIN to 0 where the new
size does not divide its base (R340), and the statement lets no configuration write change a register. -/
theorem rebarCap_far_of_linkAndConfiguration (h : Obligations.LinkAndConfiguration) : 1022 ≤ Config.rebarCap / 4 := by
  by_contra hlt
  have hk : (BitVec.ofNat 12 (4 * (Config.rebarCap / 4 + 2))).toNat / 4 = Config.rebarCap / 4 + 2 := by
    rw [BitVec.toNat_ofNat]
    omega
  obtain ⟨-, hconfig⟩ := h
  obtain ⟨-, -, hwrite⟩ := hconfig windowAtOneGib 0 false (BitVec.ofNat 12 (4 * (Config.rebarCap / 4 + 2))) 0x1000
  obtain ⟨-, -, -, -, t, he, -, -, -, -, hregs, -⟩ := hwrite rfl (by decide)
  have hzero := State.config_resizes (s := windowAtOneGib.advance 0) rfl (by decide) (by decide)
  rw [← hk] at hzero
  have ht : t.dreg 4 0x050 = 0 := (congrArg (·.dreg 4 0x050) (Host.Outcome.next.inj he)).symm.trans hzero
  exact absurd ((State.reg_of_regs hregs _).symm.trans ht) (by decide)

/-- O54 can be neither proved nor refuted: it says that an opaque constant, where Resizable BAR's capability lies, is beyond the configuration
space. -/
theorem linkAndConfiguration_iff : Obligations.LinkAndConfiguration ↔ 1022 ≤ Config.rebarCap / 4 := by
  refine ⟨rebarCap_far_of_linkAndConfiguration, fun hfar => ⟨fun s dt => ?_, fun s dt => ?_⟩⟩
  · intro a h same
    refine ⟨fun gen width flit clocking => ?_, fun hup => ⟨?_, ?_⟩, fun hup => ⟨_, rfl, State.linkLose_up hup⟩, ⟨_, rfl, a.resetConfig_eq⟩, fun hup => ?_,
      fun hl => congrArg Host.Outcome.next (State.d0_awake hl), fun hl => ?_⟩
    · have hgen : decide (gen = 6) = decide (gen.toNat = 6) := decide_eq_decide.2 BitVec.toNat_inj.symm
      have hwidth : width = 16 ↔ width.toNat = 16 := BitVec.toNat_inj.symm
      refine ⟨fun hno => congrArg Host.Outcome.next (State.linkTrain_fails ?_), fun b hb hok => ⟨_, rfl, ?_⟩⟩
      · unfold State.CanTrain
        rwa [← hgen]
      · obtain ⟨hhost, hreport, hwins, hregs, hstack, hws, hkeep⟩ :=
          State.linkTrain_trains hb (s := a) (flit := flit) (clocking := clocking) (by unfold State.CanTrain; rwa [← hgen])
        rw [decide_eq_decide] at hgen
        refine ⟨(congrArg HostSt.up hhost :), (congrArg HostSt.gen hhost :), (congrArg HostSt.width hhost :), (congrArg HostSt.flit hhost :), (congrArg HostSt.tag10 hhost :),
          (congrArg HostSt.tag14 hhost :), (congrArg HostSt.l1 hhost :), (congrArg HostSt.budget hhost :), (congrArg HostSt.cfgSpace hhost :), ?_,
          hwins, hregs, hstack, hws, hkeep⟩
        rwa [hgen, hwidth]
    · exact congrArg Host.Outcome.next (State.linkLose_down hup)
    · exact congrArg Host.Outcome.next (State.d3_down hup)
    · exact congrArg Host.Outcome.next (if_pos hup)
    · obtain ⟨t, ht⟩ : ∃ t, t = a.d0 := ⟨_, rfl⟩
      have hd := State.unvectored_d0 hl
      rw [← ht] at hd
      exact ⟨t, congrArg Host.Outcome.next ht.symm, (congrArg (·.host.l1) hd :), (congrArg (·.host.up) hd :), (congrArg (·.host.cfgSpace) hd :),
        (congrArg State.wins hd :), (congrArg State.regs hd :), (congrArg State.stackMem hd :), (congrArg State.wsMem hd :), (congrArg State.keep hd :)⟩
  · intro a h write reg val k
    refine ⟨fun hup => congrArg Host.Outcome.next (State.config_down hup ..), fun hup hb => congrArg Host.Outcome.next (State.config_retry hup hb ..),
      fun hup hb => ⟨congrArg Host.Outcome.next (State.config_completes hup hb ..), rfl, classCode_configRead a, rfl, ?_⟩⟩
    have hk : k ≠ Config.rebarCap / 4 + 2 := by
      have := reg.isLt
      omega
    obtain ⟨hwins, hregs, hdev, hspace, hbme⟩ := State.config_stores hup hb hk val
    refine ⟨_, rfl, ?_, fun j hj => ?_, hbme, hwins, hregs, hdev⟩
    · rw [hspace]
      exact Tab.get_set_self ..
    · rw [hspace]
      exact Tab.get_set_other 0 _ _ (Ne.symm hj)

end Sys2Proof.Machine

namespace Sys2Proof.Machine

/-! ### The timebase: loss of lock, its return, re-lock, the epoch (O20) -/

/-- A change of the REF page beside detections. -/
theorem State.ref_of_calm_modRef {s t : State} {f : RefSt → RefSt} (h : t.calm = (s.modRef f).calm) :
    t.ref = f s.ref ∧ t.calm = { s.calm with ref := t.ref } := by
  have hr : t.ref = f s.ref := State.ref_of_calm h
  exact ⟨hr, by rw [h, hr]; rfl⟩

theorem State.calm_loseLock {s : State} (h : s.ref.locked = true) (missing : Bool) : (s.loseLock missing).calm = (s.modRef fun r => { r with
    locked := false, holdover := true, present := !missing, losses := satInc 65535 r.losses, lossT := gtOf s.t }).calm := by
  unfold State.loseLock
  rw [if_neg (by simp [h])]
  extract_lets s1 s2
  have h2 : s2.calm = s1.calm := State.calm_raiseDev ..
  split
  · exact (State.calm_raiseDev ..).trans h2
  · exact h2

theorem State.calm_refReturn {s : State} (hl : s.ref.locked = false) (hg : s.gtRun = true) (phase : BitVec 40) :
    (s.refReturn phase).calm = (s.modRef fun r => { r with
      slewing := true, phase := s.phaseFound phase, phaseNyw := s.slewsToLink, present := true }).calm := by
  unfold State.refReturn
  rw [if_neg (by simp [hl]), if_pos hg]
  exact State.calm_endCond ..

/-- The end of a slew locks the timebase, with its GT, after what the slew itself leaves (R148). -/
theorem State.calm_relock {s : State} (h : s.ref.slewing = true) : s.relock.calm =
    ((if s.ref.phaseNyw then s.slewedToLink else s).modRef fun r => { r with
      slewing := false, locked := true, holdover := false, relockT := gtOf s.t }).calm := by
  unfold State.relock
  rw [if_neg (by simp [h])]
  exact (State.calm_raiseDev ..).trans (State.calm_endCond ..)

/-- A slew against the reference changes the REF page alone (R148). -/
theorem State.relock_ownReference {s : State} (h : s.ref.slewing = true) (hn : s.ref.phaseNyw = false) :
    s.relock.ref = { s.ref with slewing := false, locked := true, holdover := false, relockT := gtOf s.t } ∧
      s.relock.calm = { s.calm with ref := s.relock.ref } := by
  have hc := State.calm_relock h
  rw [if_neg (by simp [hn])] at hc
  exact State.ref_of_calm_modRef hc

/-- What a slew against position 0 leaves of the deviation, by the free value (R148): -2 to 2 tq. -/
def slewRest (v : BitVec 64) : Int := (v.toNat % 5 : Nat) - 2

theorem slewRest_natAbs_le (v : BitVec 64) : (slewRest v).natAbs ≤ 2 := by
  unfold slewRest
  omega

theorem State.slewedToLink_eq (s : State) : s.slewedToLink =
    (s.draw.2.modSyn fun y => { y with dev := devOf (slewRest s.draw.1), devAll := some (slewRest s.draw.1) }).modRef
      fun x => { x with aligned := true } := rfl

/-- A slew against position 0 aligns the timebase with the link too (R358). -/
theorem State.relock_link {s : State} (h : s.ref.slewing = true) (hn : s.ref.phaseNyw = true) :
    s.relock.ref = { s.ref with slewing := false, locked := true, holdover := false, relockT := gtOf s.t, aligned := true } ∧
      s.relock.syn = { s.syn with dev := devOf (slewRest s.draw.1), devAll := some (slewRest s.draw.1) } ∧
      s.relock.calm = { s.calm with ref := s.relock.ref, syn := s.relock.syn, freeN := s.relock.freeN } := by
  have hc := State.calm_relock h
  rw [if_pos hn, s.slewedToLink_eq] at hc
  have hr := State.ref_of_calm hc
  have hy := State.syn_of_calm hc
  have hf := State.freeN_of_calm hc
  refine ⟨hr, hy, ?_⟩
  rw [hc, hr, hy, hf]
  rfl

theorem State.advance_t (s : State) (dt : Nat) : (s.advance dt).t = if s.gtRun then (s.t + dt) % 2 ^ 80 else s.t :=
  State.t_of_calm (s.calm_advance dt)

/-- GT that has run to 2^64 reads 0 in the next epoch (R13). -/
theorem gt_wraps (t : Nat) : gtOf ((t + (2 ^ 64 - gtOf t)) % 2 ^ 80) = 0 ∧
    epochOf ((t + (2 ^ 64 - gtOf t)) % 2 ^ 80) = (epochOf t + 1) % 65536 := by
  unfold gtOf epochOf
  omega

/-- Settles O20: each event is one update of the REF page, beside the deviation that a slew against position 0 leaves; the wrap is arithmetic. -/
theorem lockAndEpoch : Obligations.LockAndEpoch := by
  unfold Obligations.LockAndEpoch
  refine ⟨fun s dt missing => ?_, fun s dt phase => ?_, fun s dt => ?_, fun s hg => ?_⟩
  · intro a hl
    exact ⟨_, rfl, State.ref_of_calm_modRef (State.calm_loseLock hl missing)⟩
  · intro a hl hg
    obtain ⟨href, hcalm⟩ := State.ref_of_calm_modRef (State.calm_refReturn hl hg phase)
    exact ⟨_, rfl, congrArg RefSt.slewing href, congrArg RefSt.present href, congrArg RefSt.phase href, congrArg RefSt.phaseNyw href,
      (congrArg RefSt.locked href).trans hl, hcalm⟩
  · intro a hs
    cases hn : a.ref.phaseNyw with
    | false =>
      obtain ⟨href, hcalm⟩ := State.relock_ownReference hs hn
      refine ⟨_, rfl, href.trans ?_, fun _ => hcalm, fun h => absurd h (by decide)⟩
      rw [Bool.or_false]
    | true =>
      obtain ⟨href, hsyn, hcalm⟩ := State.relock_link hs hn
      refine ⟨_, rfl, href.trans ?_, fun h => absurd h (by decide), fun _ => ⟨hcalm, _, slewRest_natAbs_le _, hsyn⟩⟩
      rw [Bool.or_true]
  · have ht := (s.advance_t (2 ^ 64 - gtOf s.t)).trans (if_pos hg)
    obtain ⟨hgt, hepoch⟩ := gt_wraps s.t
    exact ⟨_, congrArg Host.Outcome.next (if_pos hg), ht ▸ hgt, ht ▸ hepoch⟩

end Sys2Proof.Machine

namespace Sys2Proof.Machine

/-! ### Staged timing changes (O21) -/

theorem State.tm_modTm_self (s : State) (w : Nat) (f : TimSt → TimSt) : (s.modTm w f).tm w = f (s.tm w) :=
  (s.tm_modWin w w _).trans (if_pos rfl)

theorem State.tm_bumpSeq (s : State) (p w : Nat) : (s.bumpSeq p).tm w = s.tm w := rfl

theorem State.tm_of_win {s t : State} {v : Nat} (h : t.win v = s.win v) : t.tm v = s.tm v := congrArg Win.tm h

/-! The checks, in their order (R167). -/

section
variable {s : State} {w : Nat} {tab : Tab Word} {e : Nat}

theorem State.stageFault_format (h : (List.range 64).find? (badFormat (pendView tab)) = some e) : s.stageFault w tab = some (2, e) := by
  simp only [State.stageFault, h]

variable (hf : (List.range 64).find? (badFormat (pendView tab)) = none)
include hf

theorem State.stageFault_pair (h : (List.range 64).find? (badPair (pendView tab)) = some e) : s.stageFault w tab = some (3, e) := by
  simp only [State.stageFault, hf, h]

variable (hp : (List.range 64).find? (badPair (pendView tab)) = none)
include hp

theorem State.stageFault_range (h : (List.range 64).find? (badRange (pendView tab)) = some e) : s.stageFault w tab = some (4, e) := by
  simp only [State.stageFault, hf, hp, h]

variable (hr : (List.range 64).find? (badRange (pendView tab)) = none) (ha : s.armedRun w = true)
include hr ha

theorem State.stageFault_limit (h : lowestPeriod (s.burstFaults w (pendView tab) (s.wreg w 5 0x040)) = some e) :
    s.stageFault w tab = some (5, e) := by
  simp [State.stageFault, hf, hp, hr, ha, h]

theorem State.stageFault_used (hl : lowestPeriod (s.burstFaults w (pendView tab) (s.wreg w 5 0x040)) = none)
    (h : (List.range 64).find? (fun e => (s.usedEntries w).contains e && !perEn (pendView tab) e) = some e) : s.stageFault w tab = some (6, e) := by
  simp [-List.contains_eq_mem, State.stageFault, hf, hp, hr, ha, hl, h]

end

/-! TIM.STAGE_CMD (R164). -/

/-- A refusal posts its reason and its time-set or entry, and leaves both sets of values. -/
theorem State.tm_stageRefuse (s : State) (w reason tset : Nat) : (s.stageRefuse w reason tset).tm w =
    { s.tm w with res := (s.tm w).res.refuse reason (s.tm w).pend.isSome, tset := tset } :=
  (State.tm_of_win (State.win_at_of_calm (State.calm_raiseCh ..) w)).trans ((State.tm_bumpSeq ..).trans (s.tm_modTm_self ..))

section
variable {s : State} {w point : Nat}

theorem State.stage_pending (hp : point ≠ 3) (h : (s.tm w).pend ≠ none) : s.stage w point = s.stageRefuse w 1 0 := by
  rw [State.stage, if_neg hp, if_pos (Option.isSome_iff_ne_none.2 h)]

variable (hp : point ≠ 3) (hn : (s.tm w).pend = none)
include hp hn

theorem State.stage_faulty {reason tset : Nat} (h : s.stageFault w (s.shadows w) = some (reason, tset)) :
    s.stage w point = s.stageRefuse w reason tset := by
  simp [State.stage, hp, hn, h]

theorem State.stage_sound (h : s.stageFault w (s.shadows w) = none) : s.stage w point = s.modTm w fun x => { x with
    pend := some (s.shadows w, if s.mode w = .run then point else 3, s.t), res := x.res.busy } := by
  simp [State.stage, State.running, hp, hn, h]

end

/-! A pending set takes effect (R165). -/

/-- Timing values whose pending set `tab` takes effect at `t`. -/
def TimSt.applied (x : TimSt) (tab : Tab Word) (t : Nat) : TimSt :=
  { x with active := tab, pend := none, res := x.res.done 1 0, tset := 0, applyT := t }

theorem CalmWin.of_onlyWin {s u t : State} {w : Nat} (h : OnlyWin s u w) (hc : t.calm = u.calm) : CalmWin s t w := by
  obtain ⟨hu, hothers⟩ := h
  refine ⟨?_, fun v hv => (State.win_at_of_calm hc v).trans (hothers v hv)⟩
  rw [hc, State.wins_of_calm hc]
  exact congrArg State.calm hu

theorem OnlyWin.bumpSeq {s u : State} {w : Nat} (h : OnlyWin s u w) (p : Nat) : OnlyWin (s.bumpSeq p) (u.bumpSeq p) w :=
  ⟨congrArg (·.bumpSeq p) h.1, h.2⟩

/-- A change of one window with a result posted. -/
theorem CalmWin.posted {s t : State} {w p : Nat} (h : CalmWin (s.bumpSeq p) t w) :
    t.calm = { s.calm with wins := t.wins, pgSeq := t.pgSeq } ∧ ∀ v, v ≠ w → t.win v = s.win v := by
  obtain ⟨hc, hothers⟩ := h
  have hseq : t.pgSeq = (s.bumpSeq p).pgSeq := (congrArg State.pgSeq hc :)
  refine ⟨?_, hothers⟩
  rw [hc, hseq]
  rfl

theorem State.tm_applyEntry (s : State) (w e : Nat) : (s.applyEntry w e).tm w = s.tm w := (s.tm_modWin w w _).trans (if_pos rfl)

theorem State.applyEntry_onlyWin (s : State) (w e : Nat) : OnlyWin s (s.applyEntry w e) w :=
  s.modWin_onlyWin w fun x => { x with pl := { x.pl with entry := e, n := 0 } }

/-- The pending set takes effect whole, and nothing changes but its window and PG_SEQ; what it changes of the entry in force is applied afresh. -/
theorem State.applyStage_applies {s : State} {w : Nat} {tab : Tab Word} {point at_ : Nat} (h : (s.tm w).pend = some (tab, point, at_)) (t : Nat) :
    (s.applyStage w t).tm w = (s.tm w).applied tab t ∧ CalmWin (s.bumpSeq (winPage w 3)) (s.applyStage w t) w := by
  unfold State.applyStage
  rw [h]
  dsimp -zeta only
  extract_lets e fresh s1 s2
  have h2 : s2.tm w = (s.tm w).applied tab t ∧ OnlyWin s s2 w := by
    have h1 : s1.tm w = (s.tm w).applied tab t := s.tm_modTm_self ..
    have ho : OnlyWin s s1 w := s.modWin_onlyWin ..
    dsimp only [s2]
    split
    · exact ⟨(s1.tm_applyEntry w e).trans h1, ho.trans (s1.applyEntry_onlyWin w e)⟩
    · exact ⟨h1, ho⟩
  obtain ⟨htm, honly⟩ := h2
  exact ⟨(State.tm_of_win (State.win_raiseAt ..)).trans htm, .of_onlyWin (honly.bumpSeq _) (State.calm_raiseAt ..)⟩

theorem State.stageNow_stopped {s : State} {w : Nat} {x : Tab Word × Nat × Nat} (h : (s.tm w).pend = some x) (hm : s.mode w ≠ .run) :
    s.stageNow w = s.applyStage w s.t := by
  simp [State.stageNow, State.running, h, hm]

theorem State.stageNow_due {s : State} {w : Nat} {tab : Tab Word} {point at_ : Nat} (h : (s.tm w).pend = some (tab, point, at_)) (hm : s.mode w = .run)
    (hp : point ≠ 3) (hd : s.stageDue w = true) (ht : (s.pl w).nextT ≤ s.t) : s.stageNow w = s.applyStage w (s.pl w).nextT := by
  simp [State.stageNow, State.running, h, hm, hp, hd, ht]

/-- Settles O21: one lemma for each check, in their order; a set that takes effect is one update of its window. -/
theorem stagedTiming : Obligations.StagedTiming := by
  unfold Obligations.StagedTiming
  refine ⟨fun s dt w point => ?_, fun s dt w tab point t0 => ?_, fun s dt w tab point t0 => ?_⟩
  · intro a ht T first refused
    have hpoint : point = 3 ↔ point.toNat = 3 := BitVec.toNat_inj.symm
    have refuse {reason tset : Nat} (h : a.stage w point.toNat = a.stageRefuse w reason tset) : refused reason tset := by
      have htm := a.tm_stageRefuse w reason tset
      rw [← h] at htm
      exact ⟨_, congrArg Host.Outcome.next (State.hostWrite_takes ht ..), (congrArg TimSt.pend htm :), (congrArg TimSt.active htm :),
        congrArg (·.res.outcome) htm, congrArg (·.res.reason) htm, congrArg TimSt.tset htm, congrArg (·.res.seq) htm⟩
    refine ⟨fun hp hn hok => ?_, fun h => ?_, fun hp hn => ?_⟩
    · have hstage := State.stage_sound (mt hpoint.2 hp) hn hok
      have htm := a.tm_modTm_self w fun x => { x with
        pend := some (a.shadows w, if a.mode w = .run then point.toNat else 3, a.t), res := x.res.busy }
      exact ⟨_, congrArg Host.Outcome.next ((State.hostWrite_takes ht ..).trans hstage), (congrArg TimSt.pend htm :), (congrArg TimSt.active htm :),
        congrArg TimSt.res htm, a.modWin_onlyWin ..⟩
    · by_cases hp : point = 3
      · rw [if_pos hp]
        exact refuse (if_pos (hpoint.1 hp))
      · rw [if_neg hp]
        exact refuse (State.stage_pending (mt hpoint.2 hp) (h.resolve_left hp))
    · have faulty {reason tset : Nat} (h : a.stageFault w (a.shadows w) = some (reason, tset)) : refused reason tset :=
        refuse (State.stage_faulty (mt hpoint.2 hp) hn h)
      exact ⟨fun e h => faulty (State.stageFault_format h), fun hf => ⟨fun e h => faulty (State.stageFault_pair hf h),
        fun hpair => ⟨fun e h => faulty (State.stageFault_range hf hpair h),
          fun hr ha => ⟨fun e h => faulty (State.stageFault_limit hf hpair hr ha h),
            fun hl e h => faulty (State.stageFault_used hf hpair hr ha hl h)⟩⟩⟩⟩
  · intro a hpend hm
    obtain ⟨htm, hwin⟩ := State.applyStage_applies hpend a.t
    obtain ⟨hcalm, hothers⟩ := hwin.posted
    exact ⟨_, congrArg Host.Outcome.next (State.stageNow_stopped hpend hm), (congrArg TimSt.active htm :), (congrArg TimSt.pend htm :),
      congrArg (·.res.outcome) htm, congrArg (·.res.seq) htm, congrArg TimSt.applyT htm, hcalm, hothers⟩
  · intro a hpend hm hp hd hn
    obtain ⟨htm, hwin⟩ := State.applyStage_applies hpend (a.pl w).nextT
    obtain ⟨-, hothers⟩ := hwin.posted
    exact ⟨_, congrArg Host.Outcome.next (State.stageNow_due hpend hm hp hd hn), (congrArg TimSt.active htm :), (congrArg TimSt.pend htm :),
      congrArg (·.res.outcome) htm, congrArg TimSt.applyT htm, hothers⟩

end Sys2Proof.Machine

namespace Sys2Proof.Machine

/-! ### Calibration and drift (O22) -/

/-! One slot alone. -/

theorem State.modSlot_onlySlot (s : State) (k : Nat) (f : Slot → Slot) : OnlySlot s (s.modSlot k f) k :=
  ⟨rfl, fun _ hj => (s.slot_modSlot ..).trans (if_neg (Ne.symm hj))⟩

/-- Since `a`, nothing changed but slot `k` and traces of detections. -/
def CalmSlot (a t : State) (k : Nat) : Prop := t.calm = { a.calm with slots := t.slots } ∧ ∀ j, j ≠ k → t.slot j = a.slot j

theorem CalmSlot.of_calm {s t : State} {k : Nat} {f : Slot → Slot} (h : t.calm = (s.modSlot k f).calm) :
    t.slot k = f (s.slot k) ∧ CalmSlot s t k := by
  refine ⟨(State.slot_at_of_calm h k).trans (s.slot_modSlot_self k f), ?_,
    fun j hj => (State.slot_at_of_calm h j).trans ((s.modSlot_onlySlot k f).2 j hj)⟩
  rw [h, State.slots_of_calm h]
  rfl

theorem CalmSlot.trans {s t u : State} {k : Nat} (h1 : CalmSlot s t k) (h2 : CalmSlot t u k) : CalmSlot s u k := by
  obtain ⟨e1, f1⟩ := h1
  obtain ⟨e2, f2⟩ := h2
  exact ⟨e2.trans (congrArg (fun x : State => { x with slots := u.slots }) e1), fun j hj => (f2 j hj).trans (f1 j hj)⟩

theorem CalmSlot.bumpSeq {s t : State} {k : Nat} (h : CalmSlot s t k) (p : Nat) : CalmSlot (s.bumpSeq p) (t.bumpSeq p) k :=
  ⟨congrArg (·.bumpSeq p) h.1, h.2⟩

/-- A change of one slot with a result posted. -/
theorem CalmSlot.posted {s t : State} {k p : Nat} (h : CalmSlot (s.bumpSeq p) t k) :
    t.calm = { s.calm with slots := t.slots, pgSeq := t.pgSeq } ∧ ∀ j, j ≠ k → t.slot j = s.slot j := by
  obtain ⟨hc, hothers⟩ := h
  have hseq : t.pgSeq = (s.bumpSeq p).pgSeq := (congrArg State.pgSeq hc :)
  refine ⟨?_, hothers⟩
  rw [hc, hseq]
  rfl

/-- A change of one slot leaves the stacks, their power states and which slot a window addresses. -/
theorem CalmSlot.keeps {s t : State} {k : Nat} (h : CalmSlot s t k) :
    t.stackMem = s.stackMem ∧ (∀ x, t.stackOn x = s.stackOn x) ∧ ∀ v, t.slotOf v = s.slotOf v :=
  ⟨(congrArg State.stackMem h.1 :), fun x => (congrArg (·.stackOn x) h.1 :), fun v => (congrArg (·.slotOf v) h.1 :)⟩

@[simp] theorem State.calm_callOff (s : State) (src code : Nat) : (s.callOff src code).calm = s.calm := rfl

/-! Results of calibration commands (R170). -/

theorem State.calRefuse_spec (s : State) (w reason : Nat) :
    (s.calRefuse w reason).slot (s.slotOf w) = { s.slot (s.slotOf w) with
        cal := (s.slot (s.slotOf w)).cal.refuse reason (s.slot (s.slotOf w)).calOp.isSome } ∧
      CalmSlot (s.bumpSeq (winPage w 3)) (s.calRefuse w reason) (s.slotOf w) :=
  CalmSlot.of_calm (s := s.bumpSeq (winPage w 3)) (f := fun x => { x with cal := x.cal.refuse reason x.calOp.isSome }) (State.calm_raise ..)

theorem State.calFinish_spec (s : State) (w outcome reason : Nat) :
    (s.calFinish w outcome reason).slot (s.slotOf w) = { s.slot (s.slotOf w) with
        cal := (s.slot (s.slotOf w)).cal.done outcome reason, calOp := none } ∧
      CalmSlot (s.bumpSeq (winPage w 3)) (s.calFinish w outcome reason) (s.slotOf w) := by
  refine CalmSlot.of_calm (s := s.bumpSeq (winPage w 3)) (f := fun x => { x with cal := x.cal.done outcome reason, calOp := none }) ?_
  unfold State.calFinish
  extract_lets k s1
  split <;> exact State.calm_raise ..

/-! Commands (R169 to R171). -/

theorem State.calStart_eq {s : State} {w : Nat} (hm : s.mode w = .service) (hk : (s.slot (s.slotOf w)).kcal = true)
    (ha : (s.clu (s.slotOf w / 17)).afeState = 2) (hl : s.ref.locked = true) (hb : s.calBusy (s.slotOf w / 17) = false) (op : Nat) :
    s.calStart w op = s.modSlot (s.slotOf w) fun x => { x with calOp := some op, cal := x.cal.busy } := by
  simp [State.calStart, hm, hk, ha, hl, hb]

/-- A slot that has loaded its terms from the seed: the drift starts afresh (R169). -/
def Slot.seeded (x : Slot) (ch path : BitVec 60) (bad : Bool) : Slot :=
  { x with chTerm := ch, pathTerm := path, measured := false, seedBad := bad, drift := 0, driftTo := 0, driftRef := none }

/-- Slot `k` with the seed's terms in force. -/
def State.seededSlot (s : State) (k : Nat) : Slot :=
  (s.slot k).seeded (s.seedTerms k) (s.pathTerms k (s.sreg k 3 0x088)) (s.keep.seedBad.contains k)

theorem State.loadSeed_spec (s : State) (k : Nat) : (s.loadSeed k).slot k = s.seededSlot k ∧ CalmSlot s (s.loadSeed k) k := by
  refine CalmSlot.of_calm (f := fun x => x.seeded (s.seedTerms k) (s.pathTerms k (s.sreg k 3 0x088)) (s.keep.seedBad.contains k)) ?_
  unfold State.loadSeed
  extract_lets bad s1
  split
  · exact State.calm_raise ..
  · rfl

theorem State.calRestore_spec {s : State} {w : Nat} (hm : s.armedRun w = false) (hc : (s.slot (s.slotOf w)).calOp = none) :
    let x := s.seededSlot (s.slotOf w)
    (s.calRestore w).slot (s.slotOf w) = { x with cal := x.cal.done 1 0, calOp := none } ∧
      CalmSlot (s.bumpSeq (winPage w 3)) (s.calRestore w) (s.slotOf w) := by
  intro x
  obtain ⟨hload, hloads⟩ := s.loadSeed_spec (s.slotOf w)
  obtain ⟨-, -, hslot⟩ := hloads.keeps
  obtain ⟨hend, hends⟩ := (s.loadSeed (s.slotOf w)).calFinish_spec w 1 0
  rw [hslot w] at hend hends
  rw [hload] at hend
  have he : s.calRestore w = (s.loadSeed (s.slotOf w)).calFinish w 1 0 := by simp [State.calRestore, hm, hc]
  rw [he]
  exact ⟨hend, (hloads.bumpSeq _).trans hends⟩

/-- A path number that TIM.CAL_PATH of slot `k` takes (R171). -/
def CalPathLegal (k path : Nat) : Prop := if k % 17 = 16 then path ≤ 15 else path = 16

section
variable {s : State} {w v : Nat}

theorem State.writeCalPath_refused (h : ¬ (s.armedRun w = false ∧ CalPathLegal (s.slotOf w) (bits v 0 5))) : s.writeCalPath w v = s := by
  unfold State.writeCalPath
  refine if_pos ?_
  cases hm : s.armedRun w with
  | true => rfl
  | false =>
    have hp : ¬ CalPathLegal (s.slotOf w) (bits v 0 5) := fun hp => h ⟨hm, hp⟩
    unfold CalPathLegal at hp
    by_cases hk : s.slotOf w % 17 = 16 <;> simpa [hk] using hp

theorem State.writeCalPath_taken (hm : s.armedRun w = false) (hp : CalPathLegal (s.slotOf w) (bits v 0 5)) :
    s.writeCalPath w v = (s.setReg (slotAddr (s.slotOf w) 3 0x088) (bits v 0 5)).modSlot (s.slotOf w)
      fun x => { x with pathTerm := s.pathTerms (s.slotOf w) (bits v 0 5) } := by
  unfold State.writeCalPath
  refine if_neg ?_
  unfold CalPathLegal at hp
  by_cases hk : s.slotOf w % 17 = 16 <;> simpa [hk, hm] using hp

end

/-! A slot's history ring (R268). -/

/-- Since `s`, slot `k` has changed, and of the stacks no byte outside its history ring, nor any while its stack does not serve. -/
structure RingOnly (s t : State) (k : Nat) : Prop where
  others : ∀ j, j ≠ k → t.slot j = s.slot j
  outside : ∀ x, x < calRing k ∨ calRing k + 32 * 65536 ≤ x → Memory.read t.stackMem x = Memory.read s.stackMem x
  off : s.stackOn (k / 17 / 4) = false → t.stackMem = s.stackMem
  stackOn : t.stackOn (k / 17 / 4) = s.stackOn (k / 17 / 4)
  slotOf : ∀ v, t.slotOf v = s.slotOf v

theorem RingOnly.trans {s t u : State} {k : Nat} (h1 : RingOnly s t k) (h2 : RingOnly t u k) : RingOnly s u k where
  others j hj := (h2.others j hj).trans (h1.others j hj)
  outside x hx := (h2.outside x hx).trans (h1.outside x hx)
  off h := (h2.off (h1.stackOn.trans h)).trans (h1.off h)
  stackOn := h2.stackOn.trans h1.stackOn
  slotOf v := (h2.slotOf v).trans (h1.slotOf v)

theorem CalmSlot.ringOnly {s t : State} {k : Nat} (h : CalmSlot s t k) : RingOnly s t k := by
  obtain ⟨hmem, hon, hslot⟩ := h.keeps
  exact ⟨h.2, fun x _ => by rw [hmem], fun _ => hmem, hon _, hslot⟩

theorem State.modSlot_ringOnly (s : State) (k : Nat) (f : Slot → Slot) : RingOnly s (s.modSlot k f) k :=
  (CalmSlot.of_calm (f := f) rfl).2.ringOnly

theorem RingOnly.refl (s : State) (k : Nat) : RingOnly s s k := ⟨fun _ _ => rfl, fun _ _ => rfl, fun _ => rfl, rfl, fun _ => rfl⟩

theorem State.calFinish_ringOnly (s : State) (w outcome reason : Nat) : RingOnly s (s.calFinish w outcome reason) (s.slotOf w) := by
  obtain ⟨hothers, houtside, hoff, hon, hslot⟩ := (s.calFinish_spec w outcome reason).2.ringOnly
  exact ⟨hothers, houtside, hoff, hon, hslot⟩

/-- A record stored at a place of the ring leaves every byte outside it. -/
theorem read_store_ring (m : List Host.Cell) (k i v : Nat) {x : Nat} (hx : x < calRing k ∨ calRing k + 32 * 65536 ≤ x) :
    Memory.read (Memory.store m (calRing k + 32 * (i % 65536)) (bytesOf v 32)) x = Memory.read m x := by
  have hi : i % 65536 < 65536 := Nat.mod_lt _ (by decide)
  rcases hx with hx | hx
  · exact Memory.read_store_below _ _ _ _ (by omega)
  · exact Memory.read_store_above _ _ _ _ (by rw [length_bytesOf]; omega)

theorem State.histWrite_spec (s : State) (k : Nat) : RingOnly s (s.histWrite k) k ∧ ∃ h, (s.histWrite k).slot k =
    { s.slot k with hist := h, histDue := if s.stackOn (k / 17 / 4) then [] else (s.slot k).histDue } := by
  unfold State.histWrite
  split
  · next hw =>
    refine ⟨.refl s k, (s.slot k).hist, ?_⟩
    split
    · next hon =>
      have hdue : (s.slot k).histDue = [] := by simpa [hon] using hw
      rw [← hdue]
    · rfl
  · next hw =>
    have hon : s.stackOn (k / 17 / 4) = true := by
      by_contra hoff
      exact hw (by simp [hoff])
    extract_lets at0 due s1
    have h1 : RingOnly s s1 k :=
      ⟨fun j _ => State.each_proj (·.slot j) _ _ fun _ _ => rfl,
        fun x hx => State.each_proj (fun s => Memory.read s.stackMem x) _ _ fun s r => read_store_ring s.stackMem k _ _ hx,
        fun hoff => absurd (hon.symm.trans hoff) (by decide),
        State.each_proj (·.stackOn _) _ _ fun _ _ => rfl, fun v => State.each_proj (·.slotOf v) _ _ fun _ _ => rfl⟩
    have hs : s1.slot k = s.slot k := State.each_proj (·.slot k) _ _ fun _ _ => rfl
    refine ⟨h1.trans (s1.modSlot_ringOnly ..), some ((at0 + due.length) % 65536), ?_⟩
    rw [State.slot_modSlot_self, hs, if_pos hon]

/-- A measurement's record waits in the slot while its stack does not serve, and else goes to the ring with those that waited. -/
theorem State.calHistory_spec (s : State) (k op : Nat) (terms : BitVec 60) (tj : Byte) :
    RingOnly s (s.calHistory k op terms tj) k ∧ ∃ h r, (s.calHistory k op terms tj).slot k =
      { s.slot k with hist := h, histDue := if s.stackOn (k / 17 / 4) then [] else (s.slot k).histDue ++ [r] } := by
  unfold State.calHistory
  extract_lets r
  obtain ⟨hring, h, hslot⟩ := (s.modSlot k fun x => { x with histDue := x.histDue ++ [r] }).histWrite_spec k
  refine ⟨(s.modSlot_ringOnly ..).trans hring, h, r, hslot.trans ?_⟩
  rw [State.slot_modSlot_self]
  rfl

/-! A measurement ends (R170). -/

/-- The slot takes what its measurement found, with the time. -/
def State.takeMeasure (s : State) (k op : Nat) (terms : BitVec 60) (tj : Byte) : State :=
  (s.modSlot k fun x => { x with meas := terms, calTj := tj, calT := gtOf s.t }).calHistory k op terms tj

/-- A slot whose measured terms are in force: the drift starts afresh. -/
def Slot.usesTerms (x : Slot) (terms : BitVec 60) : Slot :=
  { x with chTerm := terms, measured := true, calSeed := false, drift := 0, driftTo := 0, driftRef := none }

/-- MEASURE_APPLY puts the terms found to use. -/
def State.useMeasure (s : State) (k op : Nat) (terms : BitVec 60) : State :=
  if op = 2 then (s.callOff (chSrc k 3) 6).modSlot k fun x => x.usesTerms terms else s

section
variable {s : State} {w op : Nat} (hc : (s.slot (s.slotOf w)).calOp = some op) (terms : BitVec 60) (tj : Byte)
include hc

theorem State.calEnd_seen : s.calEnd w terms tj true =
    ((s.takeMeasure (s.slotOf w) op terms tj).useMeasure (s.slotOf w) op terms).calFinish w 1 0 := by
  simp only [State.calEnd, hc]
  rfl

theorem State.calEnd_unseen : s.calEnd w terms tj false = s.calFinish w 3 8 := by
  simp only [State.calEnd, hc]
  rfl

end

theorem State.takeMeasure_spec (s : State) (k op : Nat) (terms : BitVec 60) (tj : Byte) :
    RingOnly s (s.takeMeasure k op terms tj) k ∧ ∃ h r, (s.takeMeasure k op terms tj).slot k = { s.slot k with
      meas := terms, calTj := tj, calT := gtOf s.t, hist := h,
      histDue := if s.stackOn (k / 17 / 4) then [] else (s.slot k).histDue ++ [r] } := by
  obtain ⟨hring, h, r, hslot⟩ := (s.modSlot k fun x => { x with meas := terms, calTj := tj, calT := gtOf s.t }).calHistory_spec k op terms tj
  refine ⟨(s.modSlot_ringOnly ..).trans hring, h, r, hslot.trans ?_⟩
  rw [State.slot_modSlot_self]
  rfl

/-- What a slot keeps of its latest measurement. -/
def Slot.found (x : Slot) : BitVec 60 × Byte × Nat × List Nat := (x.meas, x.calTj, x.calT, x.histDue)

theorem State.useMeasure_spec (s : State) (k op : Nat) (terms : BitVec 60) : RingOnly s (s.useMeasure k op terms) k ∧
    ((s.useMeasure k op terms).slot k).found = (s.slot k).found ∧
    ((s.useMeasure k op terms).slot k).chTerm = if op = 2 then terms else (s.slot k).chTerm := by
  unfold State.useMeasure
  split
  · obtain ⟨hslot, honly⟩ : ((s.callOff (chSrc k 3) 6).modSlot k fun x => x.usesTerms terms).slot k = (s.slot k).usesTerms terms ∧
        CalmSlot s ((s.callOff (chSrc k 3) 6).modSlot k fun x => x.usesTerms terms) k :=
      CalmSlot.of_calm (f := fun x => x.usesTerms terms) rfl
    exact ⟨honly.ringOnly, (congrArg Slot.found hslot :), congrArg Slot.chTerm hslot⟩
  · exact ⟨.refl s k, rfl, rfl⟩

/-- A measurement that saw its reference: what its slot shows of it, and nothing else but the slot's history ring (R170, R268). -/
theorem State.calEnd_seen_spec {s : State} {w op : Nat} (hc : (s.slot (s.slotOf w)).calOp = some op) (terms : BitVec 60) (tj : Byte) :
    let k := s.slotOf w
    let t := s.calEnd w terms tj true
    RingOnly s t k ∧ (∃ r, (t.slot k).found =
      (terms, tj, gtOf s.t, if s.stackOn (k / 17 / 4) then [] else (s.slot k).histDue ++ [r])) ∧
    (t.slot k).chTerm = (if op = 2 then terms else (s.slot k).chTerm) ∧ (t.slot k).calOp = none ∧ (t.slot k).cal.outcome = 1 := by
  intro k t
  obtain ⟨htakes, h, r, htake⟩ := s.takeMeasure_spec k op terms tj
  obtain ⟨huses, hfound, hterm⟩ := (s.takeMeasure k op terms tj).useMeasure_spec k op terms
  have hring := htakes.trans huses
  obtain ⟨hend, -⟩ := ((s.takeMeasure k op terms tj).useMeasure k op terms).calFinish_spec w 1 0
  have hends := ((s.takeMeasure k op terms tj).useMeasure k op terms).calFinish_ringOnly w 1 0
  rw [hring.slotOf w] at hend hends
  rw [← State.calEnd_seen hc terms tj] at hend hends
  rw [htake] at hfound hterm
  exact ⟨hring.trans hends, ⟨r, (congrArg Slot.found hend).trans hfound⟩, (congrArg Slot.chTerm hend).trans hterm, congrArg Slot.calOp hend,
    congrArg (·.cal.outcome) hend⟩

/-! The delay replica and the drift term (R172). -/

section
variable {s : State} {k : Nat} (ha : (s.slot k).afeOn = true) (hb : bit (s.sreg k 3 0x090) 0 = true)
include ha hb

theorem State.driftRead_reference (hd : (s.slot k).driftRef = none) (reading : Int) : s.driftRead k reading =
    s.modSlot k fun x => { x with driftRef := some reading, drift := 0, driftTo := 0, driftT := s.now } := by
  simp [State.driftRead, ha, hb, hd]

/-- A later reading sets what the drift term moves to, from where it is now; DRIFT_LIMIT is a trace of a detection. -/
theorem State.driftRead_moves {ref : Int} (hd : (s.slot k).driftRef = some ref) (reading : Int) :
    (s.driftRead k reading).slot k = { s.slot k with
        drift := (s.slot k).driftAt s.now, driftTo := reading - ref, driftT := s.now } ∧
      CalmSlot s (s.driftRead k reading) k := by
  obtain ⟨hhold, hholds⟩ : (s.driftHold k).slot k = { s.slot k with
      drift := (s.slot k).driftAt s.now, driftTo := (s.slot k).driftAt s.now, driftT := s.now } ∧ CalmSlot s (s.driftHold k) k :=
    CalmSlot.of_calm (f := fun x => { x with drift := (s.slot k).driftAt s.now, driftTo := (s.slot k).driftAt s.now, driftT := s.now }) rfl
  obtain ⟨hread, hreads⟩ : (s.driftRead k reading).slot k = { (s.driftHold k).slot k with driftTo := reading - ref } ∧
      CalmSlot (s.driftHold k) (s.driftRead k reading) k := by
    refine CalmSlot.of_calm (f := fun x => { x with driftTo := reading - ref }) ?_
    unfold State.driftRead
    extract_lets x
    rw [if_neg (by simp [x, ha, hb])]
    simp only [x, hd]
    split
    · exact State.calm_raiseAt ..
    · rfl
  refine ⟨hread.trans ?_, hholds.trans hreads⟩
  rw [hhold]

end

/-- The drift term moves towards its target and not past it, by at most 1 tq per 10 µs. -/
theorem Slot.driftAt_moves (x : Slot) (now : Nat) : (x.driftAt now - x.drift).natAbs ≤ (now - x.driftT) / (10 * us) ∧
    (x.drift ≤ x.driftTo → x.drift ≤ x.driftAt now ∧ x.driftAt now ≤ x.driftTo) ∧
    (x.driftTo ≤ x.drift → x.driftTo ≤ x.driftAt now ∧ x.driftAt now ≤ x.drift) := by
  unfold Slot.driftAt us
  dsimp only
  omega

/-- Settles O22: each command and each end of a measurement is an update of its slot; the record of a measurement stays within the slot's ring. -/
theorem calibration : Obligations.Calibration := by
  unfold Obligations.Calibration
  refine ⟨fun s dt w => ?_, fun s dt w terms tj op => ?_, fun s dt k reading => ?_, Slot.driftAt_moves⟩
  · intro a k ht
    have takes {i : Instr} {act : State → State} {t : State} (h : act a = t) :
        Host.Outcome.next (a.hostWrite (winPage w 3) i act) = (.next t : Host.Outcome State Fault Refusal) :=
      congrArg Host.Outcome.next ((State.hostWrite_takes ht i act).trans h)
    refine ⟨fun hm hk ha hl hb => ?_, fun hm => ?_, fun hm hc => ?_, fun val => ?_⟩
    · exact ⟨⟨_, takes (State.calStart_eq hm hk ha hl hb 1), a.slot_modSlot_self .., a.modSlot_onlySlot ..⟩,
        ⟨_, takes (State.calStart_eq hm hk ha hl hb 2), a.slot_modSlot_self .., a.modSlot_onlySlot ..⟩⟩
    · obtain ⟨hslot, honly⟩ := a.calRefuse_spec w 1
      exact ⟨_, takes (if_pos hm), congrArg (·.cal.outcome) hslot, congrArg (·.cal.reason) hslot, (congrArg Slot.calOp hslot :), honly.posted.1⟩
    · obtain ⟨hslot, honly⟩ := State.calRestore_spec hm hc
      obtain ⟨hcalm, hothers⟩ := honly.posted
      exact ⟨_, takes rfl, congrArg Slot.chTerm hslot, congrArg Slot.pathTerm hslot, congrArg Slot.drift hslot, congrArg (·.cal.outcome) hslot,
        congrArg (·.cal.seq) hslot, hcalm, hothers⟩
    · intro path legal
      refine ⟨fun h => ?_, fun h => takes (State.writeCalPath_refused h)⟩
      obtain ⟨hm, hp⟩ := h
      have hpath : path < 2 ^ 64 := lt_of_lt_of_le (Nat.mod_lt _ (by decide)) (show 2 ^ 5 ≤ 2 ^ 64 by decide)
      refine ⟨_, takes (State.writeCalPath_taken hm hp), congrArg Slot.pathTerm (State.slot_modSlot_self ..), ?_, rfl,
        ((a.setReg _ path).modSlot_onlySlot k _).2⟩
      exact (a.reg_setReg ..).trans ((if_pos rfl).trans (Nat.mod_eq_of_lt hpath))
  · intro a k hc
    refine ⟨?_, ?_⟩
    · obtain ⟨hring, ⟨r, hfound⟩, hterm, hop, hout⟩ := State.calEnd_seen_spec hc terms tj
      simp only [Slot.found, Prod.mk.injEq] at hfound
      obtain ⟨hmeas, htj, hgt, hdue⟩ := hfound
      exact ⟨_, rfl, hmeas, htj, hgt, hterm, hop, hout, fun hon => hdue.trans (if_pos hon),
        fun hoff => ⟨hring.off hoff, r, hdue.trans (if_neg (by simp [k, hoff]))⟩, hring.others, hring.outside⟩
    · obtain ⟨hslot, honly⟩ := a.calFinish_spec w 3 8
      exact ⟨_, congrArg Host.Outcome.next (State.calEnd_unseen hc terms tj), congrArg (·.cal.outcome) hslot, congrArg (·.cal.reason) hslot,
        congrArg Slot.calOp hslot, (congrArg Slot.meas hslot :), (congrArg Slot.chTerm hslot :), honly.keeps.1⟩
  · intro a x ha hb
    refine ⟨fun hd => ?_, fun ref hd => ?_⟩
    · have hslot := a.slot_modSlot_self k fun x => { x with driftRef := some reading, drift := 0, driftTo := 0, driftT := a.now }
      exact ⟨_, congrArg Host.Outcome.next (State.driftRead_reference ha hb hd reading), congrArg Slot.driftRef hslot, congrArg Slot.drift hslot,
        congrArg Slot.driftTo hslot, a.modSlot_onlySlot ..⟩
    · obtain ⟨hslot, honly⟩ := State.driftRead_moves ha hb hd reading
      exact ⟨_, rfl, (congrArg Slot.driftRef hslot).trans hd, congrArg Slot.driftTo hslot, congrArg Slot.drift hslot, congrArg Slot.driftT hslot,
        honly⟩

end Sys2Proof.Machine

namespace Sys2Proof.Machine

/-! ### Levels (O23) -/

/-- What a host write that takes effect now answers: the state that its action makes. -/
theorem State.next_hostWrite {s t : State} {p : Nat} (h : s.takes p = true) {i : Instr} {act : State → State} (ha : act s = t) :
    Host.Outcome.next (s.hostWrite p i act) = (.next t : Host.Outcome State Fault Refusal) :=
  congrArg Host.Outcome.next ((State.hostWrite_takes h i act).trans ha)

theorem bits_lt (v l n : Nat) : bits v l n < 2 ^ n := Nat.mod_lt _ (Nat.two_pow_pos n)

theorem State.modPm_onlyWin (s : State) (w : Nat) (f : PmuSt → PmuSt) : OnlyWin s (s.modPm w f) w := s.modWin_onlyWin ..

theorem State.win_modPm_self (s : State) (w : Nat) (f : PmuSt → PmuSt) : (s.modPm w f).win w = { s.win w with pm := f (s.pm w) } :=
  (s.win_modWin ..).trans (if_pos rfl)

theorem State.pm_modPm_self (s : State) (w : Nat) (f : PmuSt → PmuSt) : (s.modPm w f).pm w = f (s.pm w) := congrArg Win.pm (s.win_modPm_self w f)

/-- A result posted in a window's front end, with the detections that it makes, changes that alone beside the page's result count. -/
theorem CalmWin.of_modPm {s t : State} {w p : Nat} {f : PmuSt → PmuSt} (h : t.calm = ((s.modPm w f).bumpSeq p).calm) :
    t.pm w = f (s.pm w) ∧ CalmWin (s.bumpSeq p) t w := by
  obtain ⟨hwin, hcalm⟩ := CalmWin.of_calm (s := s.bumpSeq p) (f := fun x => { x with pm := f x.pm }) h
  exact ⟨congrArg Win.pm hwin, hcalm⟩

theorem State.lvlPost_spec (s : State) (w outcome reason : Nat) : let t := s.lvlPost w outcome reason
    t.pm w = { s.pm w with lvl := (s.pm w).lvl.done outcome reason } ∧ CalmWin (s.bumpSeq (winPage w 5)) t w := by
  refine CalmWin.of_modPm (f := fun p => { p with lvl := p.lvl.done outcome reason }) ?_
  unfold State.lvlPost
  extract_lets s1
  split
  · exact State.calm_raiseCh ..
  · rfl

/-- A level register takes an accepted value whole (R175, R178). -/
theorem State.lvlStore_spec (s : State) (w off : Nat) {v : Nat} (hv : v < 2 ^ 64) : let t := s.lvlStore w off v
    t.wreg w 5 off = v ∧ t.pm w = { s.pm w with lvlSettled := false, lvlWritten := true, lvl := (s.pm w).lvl.done 1 0 } ∧
      (∀ u, u ≠ w → t.win u = s.win u) ∧ ∀ x, x ≠ pageAddr (winPage w 5) off → t.reg x = s.reg x := by
  intro t
  set s1 := (s.setReg (pageAddr (winPage w 5) off) v).modPm w fun p => { p with lvlSettled := false, lvlWritten := true }
  have h1 : s1.pm w = { s.pm w with lvlSettled := false, lvlWritten := true } := State.pm_modPm_self ..
  have honly : OnlyWin (s.setReg (pageAddr (winPage w 5) off) v) s1 w := State.modPm_onlyWin ..
  obtain ⟨hpm, hcalm, hothers⟩ := s1.lvlPost_spec w 1 0
  have hreg (x : Nat) : t.reg x = (s.setReg (pageAddr (winPage w 5) off) v).reg x := State.reg_of_regs (congrArg State.regs hcalm :) x
  refine ⟨(hreg _).trans (s.reg_setReg_self _ hv), ?_, fun u hu => (hothers u hu).trans (honly.2 u hu),
    fun x hx => (hreg x).trans ((s.setReg_onlyReg ..).2 x hx)⟩
  rw [h1] at hpm
  exact hpm

theorem State.settleLevels_idle {s : State} {w : Nat} (h : s.mode w = .off ∨ (s.pm w).lvlWritten = false) : s.settleLevels w = s :=
  if_pos (by simpa using h)

theorem State.settleLevels_written {s : State} {w : Nat} (hm : s.mode w ≠ .off) (hl : (s.pm w).lvlWritten = true) :
    s.settleLevels w = s.modPm w fun p => { p with lvlSettled := true } :=
  if_neg (by simp [hm, hl])

/-- Settles O23: each register's write is stored or refused by its own check, and both are a result posted in the window. -/
theorem levelsAreStoredWhole : Obligations.LevelsAreStoredWhole := by
  unfold Obligations.LevelsAreStoredWhole
  refine ⟨fun s dt w val => ?_, fun s dt w => ?_⟩
  · intro a v posted stored ht
    have refuses {r : LvlReg} {f : Nat} (h : a.writeLevel w r v = a.lvlPost w 2 f) :
        ∃ t, exec (.levelWrite dt w r val) s = .next t ∧ posted t 2 f ∧ t.regs = a.regs := by
      obtain ⟨hpm, hcalm, hothers⟩ := a.lvlPost_spec w 2 f
      exact ⟨_, State.next_hostWrite ht h, ⟨congrArg (·.lvl.outcome) hpm, congrArg (·.lvl.reason) hpm, congrArg (·.lvl.seq) hpm, hothers⟩,
        (congrArg State.regs hcalm :)⟩
    have stores {i : Instr} {act : State → State} {off n : Nat} (hn : n < 2 ^ 64) (he : exec i s = .next (a.hostWrite (winPage w 5) i act))
        (h : act a = a.lvlStore w off n) : ∃ t, exec i s = .next t ∧ stored t off n := by
      obtain ⟨hval, hpm, hothers, hregs⟩ := a.lvlStore_spec w off hn
      exact ⟨_, he.trans (State.next_hostWrite ht h), hval, congrArg (·.lvlSettled) hpm,
        ⟨congrArg (·.lvl.outcome) hpm, congrArg (·.lvl.reason) hpm, congrArg (·.lvl.seq) hpm, hothers⟩, hregs⟩
    have fits {x n : Nat} (hn : n ≤ 64) : bits x 0 n < 2 ^ 64 := lt_of_lt_of_le (bits_lt ..) (Nat.pow_le_pow_right (by decide) hn)
    refine ⟨fun h => stores (fits (by decide)) rfl ?_, fun h => refuses ?_, fun h => stores (fits (by decide)) rfl ?_, fun h => refuses ?_,
      fun h => stores (fits (by decide)) rfl ?_, fun h => refuses ?_, fun val => stores (fits (by decide)) rfl rfl⟩
    all_goals simp [State.writeLevel, h, v]
  · intro a
    refine ⟨fun h => congrArg Host.Outcome.next (State.settleLevels_idle h), fun hm hl => ?_⟩
    exact ⟨_, congrArg Host.Outcome.next (State.settleLevels_written hm hl), a.pm_modPm_self .., a.modPm_onlyWin ..⟩

end Sys2Proof.Machine
namespace Sys2Proof.Machine

/-! ### What the reduction touches (R258 to R260, R266) -/

theorem CalmWin.refl (s : State) (w : Nat) : CalmWin s s w := ⟨rfl, fun _ _ => rfl⟩

theorem CalmWin.trans {s t u : State} {w : Nat} (h1 : CalmWin s t w) (h2 : CalmWin t u w) : CalmWin s u w := by
  obtain ⟨e1, f1⟩ := h1
  obtain ⟨e2, f2⟩ := h2
  exact ⟨e2.trans (congrArg (fun x : State => { x with wins := u.wins }) e1), fun v hv => (f2 v hv).trans (f1 v hv)⟩

/-- Since `s`, the reduction of window `w` has gone on: its records are in the window's queue, and nothing else has changed but the window and traces
of detections, nor in the window its mode and its parametric unit. -/
structure Reduces (s t : State) (w : Nat) : Prop where
  calm : CalmWin s t w
  md : t.md w = s.md w
  pm : t.pm w = s.pm w

namespace Reduces

theorem refl (s : State) (w : Nat) : Reduces s s w := ⟨.refl s w, rfl, rfl⟩

theorem trans {s t u : State} {w : Nat} (h1 : Reduces s t w) (h2 : Reduces t u w) : Reduces s u w :=
  ⟨h1.calm.trans h2.calm, h2.md.trans h1.md, h2.pm.trans h1.pm⟩

/-- An update of the window's reduction, queue or counters, with the detections that it makes. -/
theorem of_calm {s t : State} {w : Nat} {f : Win → Win} (h : t.calm = (s.modWin w f).calm) (hm : (f (s.win w)).md = s.md w)
    (hp : (f (s.win w)).pm = s.pm w) : Reduces s t w := by
  obtain ⟨hwin, hcalm⟩ := CalmWin.of_calm h
  exact ⟨hcalm, (congrArg Win.md hwin).trans hm, (congrArg Win.pm hwin).trans hp⟩

theorem ite {s t u : State} {w : Nat} {c : Prop} [Decidable c] (h1 : Reduces s t w) (h2 : Reduces s u w) : Reduces s (if c then t else u) w := by
  split
  · exact h1
  · exact h2

section
variable {s t : State} {w : Nat} (h : Reduces s t w)
include h

theorem slots : t.slots = s.slots := (congrArg State.slots h.calm.1 :)
theorem clu (c : Nat) : t.clu c = s.clu c := (congrArg (·.clu c) h.calm.1 :)
theorem slotOf (v : Nat) : t.slotOf v = s.slotOf v := (congrArg (·.slotOf v) h.calm.1 :)
theorem now : t.now = s.now := (congrArg State.now h.calm.1 :)
theorem mode : t.mode w = s.mode w := congrArg ModeSt.mode h.md

end

end Reduces

theorem State.modCp_reduces (s : State) (w : Nat) (f : CapSt → CapSt) : Reduces s (s.modCp w f) w :=
  .of_calm (f := fun x => { x with cp := f x.cp }) rfl rfl rfl
theorem State.modMn_reduces (s : State) (w : Nat) (f : MonSt → MonSt) : Reduces s (s.modMn w f) w :=
  .of_calm (f := fun x => { x with mn := f x.mn }) rfl rfl rfl
theorem State.modRd_reduces (s : State) (w : Nat) (f : RedSt → RedSt) : Reduces s (s.modRd w f) w :=
  .of_calm (f := fun x => { x with rd := f x.rd }) rfl rfl rfl
theorem State.modSt_reduces (s : State) (w : Nat) (f : StpSt → StpSt) : Reduces s (s.modSt w f) w :=
  .of_calm (f := fun x => { x with st := f x.st }) rfl rfl rfl
theorem State.raiseCh_reduces (s : State) (w i code native : Nat) : Reduces s (s.raiseCh w i code native) w :=
  ⟨.of_onlyWin (u := s) ⟨rfl, fun _ _ => rfl⟩ (State.calm_raiseCh ..),
    congrArg Win.md (State.win_raiseAt ..), congrArg Win.pm (State.win_raiseAt ..)⟩

theorem State.queueGap_reduces (s : State) (w : Nat) : Reduces s (s.queueGap w) w := by
  unfold State.queueGap
  extract_lets c
  split
  · exact .refl s w
  · exact .ite (s.modCp_reduces ..) (.refl s w)

theorem State.queueRec_reduces (s : State) (w : Nat) (r : Rec) : Reduces s (s.queueRec w r) w := by
  unfold State.queueRec
  extract_lets s1 s2 s3
  have h1 : Reduces s s1 w := s.queueGap_reduces w
  have h3 : Reduces s1 s3 w := (s1.modCp_reduces ..).trans (s2.modMn_reduces ..)
  exact .ite (h1.trans (s1.modCp_reduces ..)) ((h1.trans h3).trans (s3.raiseCh_reduces ..))

theorem State.redWrite_reduces (s : State) (w : Nat) : Reduces s (s.redWrite w) w := by
  unfold State.redWrite
  extract_lets r code full x
  exact .ite (.refl s w) ((s.queueRec_reduces w x).trans (State.modRd_reduces ..))

theorem State.redGrid_reduces (s : State) (w t : Nat) : Reduces s (s.redGrid w t) w := .ite (s.redWrite_reduces w) (.refl s w)

theorem State.redTake_reduces (s : State) (w : Nat) (x : RedIn) : Reduces s (s.redTake w x) w := by
  unfold State.redTake
  extract_lets n
  exact (s.redGrid_reduces w x.at_).trans (State.modRd_reduces ..)

theorem State.redSettle_reduces (s : State) (w t : Nat) : Reduces s (s.redSettle w t) w := by
  unfold State.redSettle
  split
  · exact .refl s w
  · next x _ =>
    split
    · exact .refl s w
    · extract_lets s1 s2
      have h1 : Reduces s s1 w := s.modRd_reduces ..
      have h2 : Reduces s s2 w := .ite (h1.trans (s1.redTake_reduces w x)) h1
      exact .ite (h2.trans (s2.redWrite_reduces w)) h2

theorem State.redSample_reduces (s : State) (w : Nat) (qty : Bool) (range : Nat) (v : Int) (clamped oversub : Bool) :
    Reduces s (s.redSample w qty range v clamped oversub) w :=
  ((s.redSettle_reduces w s.t).trans (State.redGrid_reduces ..)).trans (State.modRd_reduces ..)

theorem State.redCut_reduces (s : State) (w : Nat) : Reduces s (s.redCut w) w := by
  unfold State.redCut
  extract_lets s1
  have h1 : Reduces s s1 w := s.redSettle_reduces w s.t
  exact .ite (s.modRd_reduces ..) (.ite (h1.trans (s1.redWrite_reduces w)) h1)

theorem State.redDisarmAt_reduces (s : State) (w t cause : Nat) : Reduces s (s.redDisarmAt w t cause) w := by
  unfold State.redDisarmAt
  extract_lets s1 r
  have h1 : Reduces s s1 w := (s.redSettle_reduces w t).trans (State.modRd_reduces ..)
  exact .ite h1 (.ite (h1.trans (s1.modRd_reduces ..)) ((h1.trans (s1.redWrite_reduces w)).trans (State.modRd_reduces ..)))

/-! ### The parametric unit (O24) -/

/-! PMU.CFG (R181, R182). -/

theorem State.win_setStatic (s : State) (w : Nat) (d : Drv) (v : Nat) :
    (s.setStatic w d).win v = if w = v then { s.win w with md := { s.md w with static := d } } else s.win v :=
  s.win_modWin w v fun x => { x with md := { x.md with static := d } }

@[simp] theorem State.md_modPm (s : State) (w : Nat) (f : PmuSt → PmuSt) (v : Nat) : (s.modPm w f).md v = s.md v :=
  congrArg View.md (s.view_modPm w f v)

/-- The driver follows the unit: what it touches beside its slot is the window's static drive. -/
theorem State.driveWithPmu_spec (s : State) (w : Nat) : let t := s.driveWithPmu w
    t.regs = s.regs ∧ t.pm w = s.pm w ∧ (∀ v, v ≠ w → t.win v = s.win v) ∧
      (s.mode w = .ready → forces (s.pm w).active = true → (t.slot (s.slotOf w)).drvEn = false) := by
  intro t
  by_cases hm : s.mode w = .ready
  · cases hf : forces (s.pm w).active with
    | true =>
      have he : t = s.modSlot (s.slotOf w) fun x => { x with drvEn := false, edges := [] } := by simp [t, State.driveWithPmu, hm, hf]
      rw [he]
      exact ⟨rfl, rfl, fun _ _ => rfl, fun _ _ => congrArg Slot.drvEn (s.slot_modSlot_self ..)⟩
    | false =>
      have he : t = s.setStatic w (s.md w).static := by simp [t, State.driveWithPmu, hm, hf]
      rw [he]
      exact ⟨rfl, congrArg Win.pm ((s.win_setStatic ..).trans (if_pos rfl)), fun v hv => (s.win_setStatic ..).trans (if_neg (Ne.symm hv)),
        fun _ h => nomatch h⟩
  · have he : t = s := if_pos hm
    rw [he]
    exact ⟨rfl, rfl, fun _ _ => rfl, fun h => absurd h hm⟩

/-- The unit in mode `m` after mode `old`. -/
def PmuSt.inMode (p : PmuSt) (old m : Nat) : PmuSt := { p with active := m, clamped := p.clamped && decide (m = old) }

/-- The unit at a change of R183 and R185. -/
def PmuSt.disturbed (p : PmuSt) (now : Nat) : PmuSt := { p with changed := now, settled := false, mBad := p.mBad || p.meas.isSome }

/-- PMU.CFG as it stores a mode and a range. -/
theorem bits_pmuCfg {m range : Nat} (hm : m < 4) (hr : range ≤ 4) :
    m + 16 * range < 2 ^ 64 ∧ bits (m + 16 * range) 0 2 = m ∧ bits (m + 16 * range) 4 3 = range := by
  unfold bits
  omega

theorem State.pmuSet_spec (s : State) (w : Nat) {m range : Nat} (hm : m < 4) (hr : range ≤ 4) (cause : Nat) : let t := s.pmuSet w m range cause
    let p := (s.pm w).inMode (s.pmuMode w) m
    t.pmuMode w = m ∧ t.pmuRange w = range ∧
      t.pm w = (if m ≠ s.pmuMode w ∨ range ≠ s.pmuRange w then p.disturbed s.now else p) ∧ t.mode w = s.mode w ∧
      (∀ v, v ≠ w → t.win v = s.win v) ∧
      (m ≠ s.pmuMode w → s.mode w = .ready → forces m = true → (t.slot (s.slotOf w)).drvEn = false) := by
  intro t p
  unfold t State.pmuSet
  extract_lets old changed quantity s0 s1 s2
  have h0 : Reduces s s0 w := .ite (s.redDisarmAt_reduces ..) (.ite (s.redCut_reduces w) (.refl s w))
  have h1 : s1.pm w = p := (State.pm_modPm_self ..).trans (congrArg (·.inMode old m) h0.pm :)
  have h2 : s2.pm w = (if m ≠ s.pmuMode w ∨ range ≠ s.pmuRange w then p.disturbed s.now else p) := by
    rw [← h1, ← h0.now]
    dsimp only [s2]
    by_cases hc : m ≠ s.pmuMode w ∨ range ≠ s.pmuRange w
    · rw [if_pos hc, if_pos (by simpa [changed, old] using hc)]
      exact State.pm_modPm_self ..
    · rw [if_neg hc, if_neg (by simpa [changed, old] using hc)]
  have hact : (s2.pm w).active = m := by
    rw [h2]
    split <;> rfl
  have kept {β : Type} (g : State → β) (hg : ∀ (u : State) (f : PmuSt → PmuSt), g (u.modPm w f) = g u) :
      g s2 = g (s0.setReg (pageAddr (winPage w 6) 0x040) (m + 16 * range)) := by
    have hs1 : g s1 = g _ := hg _ _
    dsimp only [s2]
    split
    · exact (hg _ _).trans hs1
    · exact hs1
  have hcfg : s2.wreg w 6 0x040 = m + 16 * range :=
    (kept (·.wreg w 6 0x040) fun _ _ => rfl).trans (s0.reg_setReg_self _ (bits_pmuCfg hm hr).1)
  have hslot : s2.slotOf w = s.slotOf w := (kept (·.slotOf w) fun _ _ => rfl).trans (h0.slotOf w)
  have hready : s2.mode w = s.mode w := (kept (·.mode w) fun u f => congrArg ModeSt.mode (u.md_modPm w f w)).trans h0.mode
  have hothers (v : Nat) (hv : v ≠ w) : s2.win v = s.win v :=
    (kept (·.win v) fun u f => (u.modPm_onlyWin w f).2 v hv).trans (h0.calm.2 v hv)
  obtain ⟨hregs, hpm, hwins, hdrv⟩ := s2.driveWithPmu_spec w
  rw [hslot, hready, hact] at hdrv
  obtain ⟨-, hbm, hbr⟩ := bits_pmuCfg hm hr
  by_cases ho : m = old
  · rw [if_pos ho]
    exact ⟨(congrArg (bits · 0 2) hcfg).trans hbm, (congrArg (bits · 4 3) hcfg).trans hbr, h2, hready, hothers, fun h => absurd ho h⟩
  · rw [if_neg ho]
    have hcfg' := (State.reg_of_regs hregs (pageAddr (winPage w 6) 0x040)).trans hcfg
    refine ⟨(congrArg (bits · 0 2) hcfg').trans hbm, (congrArg (bits · 4 3) hcfg').trans hbr, hpm.trans h2, ?_,
      fun v hv => (hwins v hv).trans (hothers v hv), fun _ => hdrv⟩
    exact (congrArg (·.md.mode) (s2.bare_driveWithPmu w)).trans hready

end Sys2Proof.Machine
namespace Sys2Proof.Machine

theorem State.pmuRefuse_spec (s : State) (w reason : Nat) : let t := s.pmuRefuse w reason
    t.pm w = { s.pm w with refused := true, reason := reason } ∧ CalmWin s t w := by
  intro t
  obtain ⟨hwin, hcalm⟩ : t.win w = { s.win w with pm := { s.pm w with refused := true, reason := reason } } ∧ CalmWin s t w :=
    CalmWin.of_calm (State.calm_raiseCh ..)
  exact ⟨congrArg Win.pm hwin, hcalm⟩

section
variable {s : State} {w v : Nat}

/-- A write of PMU.CFG that is refused clears FORCE_ENDED too, and changes nothing else but PMU.STAT (R181, R182). -/
theorem State.writePmuCfg_refused {reason : Nat}
    (h : s.writePmuCfg w v = (s.modPm w fun p => { p with forceEnded := false }).pmuRefuse w reason) : let t := s.writePmuCfg w v
    t.pm w = { s.pm w with forceEnded := false, refused := true, reason := reason } ∧ t.regs = s.regs ∧ CalmWin s t w := by
  intro t
  have hp := s.pm_modPm_self w fun p => { p with forceEnded := false }
  obtain ⟨hpm, hcalm⟩ := (s.modPm w fun p => { p with forceEnded := false }).pmuRefuse_spec w reason
  rw [hp, ← h] at hpm
  rw [← h] at hcalm
  exact ⟨hpm, (congrArg State.regs hcalm.1 :), (CalmWin.of_onlyWin (s.modPm_onlyWin ..) rfl).trans hcalm⟩

theorem State.writePmuCfg_barred (h : pmuAllowed (bits v 0 2) (s.mode w) = false) :
    s.writePmuCfg w v = (s.modPm w fun p => { p with forceEnded := false }).pmuRefuse w 1 := by
  simp [State.writePmuCfg, h]

theorem State.writePmuCfg_outOfRange (h : pmuAllowed (bits v 0 2) (s.mode w) = true)
    (hr : 4 < bits v 4 3 ∨ bits v 0 2 ≠ s.pmuMode w ∧ forceOk (bits v 0 2) (s.pmuForce w) = false) :
    s.writePmuCfg w v = (s.modPm w fun p => { p with forceEnded := false }).pmuRefuse w 2 := by
  simp [State.writePmuCfg, h, hr]

/-- The unit with a write of PMU.CFG accepted: FORCE_ENDED and CFG_REFUSED clear. -/
def PmuSt.accepted (p : PmuSt) : PmuSt := { p with forceEnded := false, refused := false, reason := 0 }

theorem State.writePmuCfg_accepted (h : pmuAllowed (bits v 0 2) (s.mode w) = true) (hr : bits v 4 3 ≤ 4)
    (hf : bits v 0 2 = s.pmuMode w ∨ forceOk (bits v 0 2) (s.pmuForce w) = true) : ∃ u,
    s.writePmuCfg w v = u.pmuSet w (bits v 0 2) (bits v 4 3) 3 ∧ u.pm w = (s.pm w).accepted ∧ u.mode w = s.mode w ∧ OnlyWin s u w := by
  refine ⟨(s.modPm w fun p => { p with forceEnded := false }).pmuAccept w, ?_, ?_, ?_, (s.modPm_onlyWin ..).trans (State.modPm_onlyWin ..)⟩
  · have hr' : ¬ 4 < bits v 4 3 := Nat.not_lt.mpr hr
    refine (if_neg (by simp [h])).trans (if_neg ?_)
    rcases hf with hf | hf <;> simp [hr', hf]
  · rw [State.pmuAccept, State.pm_modPm_self, State.pm_modPm_self]
    rfl
  · simp [State.mode, State.pmuAccept]

end

/-! Settling and measurements (R183, R185). -/

theorem State.pmuMeas_starts {s : State} {w : Nat} (hm : (s.pm w).meas = none) (ho : s.pmuMode w ≠ 0) (n : Nat) (wait : Bool) :
    s.pmuMeas w n wait = s.modPm w fun p => { p with
      meas := some (n + 1, 0, 0, wait), mOver := false, mClamp := false, mBad := false, res := p.res.busy } := by
  simp [State.pmuMeas, hm, ho]

theorem State.pmuMeas_refused {s : State} {w : Nat} (h : (s.pm w).meas ≠ none ∨ s.pmuMode w = 0) (n : Nat) (wait : Bool) :
    let p := s.pm w
    (s.pmuMeas w n wait).pm w = { p with res := p.res.refuse (if p.meas.isSome then 1 else 2) p.meas.isSome } ∧
      CalmWin (s.bumpSeq (winPage w 6)) (s.pmuMeas w n wait) w := by
  intro p
  refine CalmWin.of_modPm (f := fun x => { x with res := x.res.refuse (if p.meas.isSome then 1 else 2) p.meas.isSome }) ?_
  unfold State.pmuMeas
  extract_lets busy
  rw [if_pos (by simpa [busy, Option.isSome_iff_ne_none] using h)]
  exact State.calm_raiseCh ..

/-- The unit with its measurement over: the mean of its `n` samples and what they met. -/
def PmuSt.measured (p : PmuSt) (n : Nat) (sum : Int) (range : Nat) : PmuSt :=
  { p with
    meas := none, value := BitVec.ofInt 16 (meanOf sum n), flags := (decide (p.active = 1), range, p.mClamp, p.mOver), resT := p.mT,
    res := p.res.done 1 0 }

section
variable {s : State} {w n : Nat} {sum : Int} {wt : Bool} (h : (s.pm w).meas = some (n, n, sum, wt))
include h

theorem State.pmuFinish_measured (hb : (s.pm w).mBad = false) : (s.pmuFinish w).pm w = (s.pm w).measured n sum (s.pmuRange w) := by
  refine (CalmWin.of_modPm (p := winPage w 6) (f := fun p => p.measured n sum (s.pmuRange w)) ?_).1
  have he : s.pmuFinish w = ((s.modPm w fun p => p.measured n sum (s.pmuRange w)).bumpSeq (winPage w 6)).raiseCh w 5 0 0 := by
    simp [State.pmuFinish, h, hb, PmuSt.measured]
  rw [he]
  exact State.calm_raiseCh ..

theorem State.pmuFinish_disturbed (hb : (s.pm w).mBad = true) :
    (s.pmuFinish w).pm w = { s.pm w with meas := none, res := (s.pm w).res.done 3 3 } := by
  refine (CalmWin.of_modPm (p := winPage w 6) (f := fun p => { p with meas := none, res := p.res.done 3 3 }) ?_).1
  have he : s.pmuFinish w = ((s.modPm w fun p => { p with meas := none, res := p.res.done 3 3 }).bumpSeq (winPage w 6)).raiseCh w 5 0 0 := by
    simp [State.pmuFinish, h, hb]
  rw [he]
  exact State.calm_raiseCh ..

end

/-- The mean is the nearest code, the one above where two are as near. -/
theorem meanOf_nearest (sum : Int) {n : Nat} (hn : 0 < n) :
    2 * (meanOf sum n * n) ≤ 2 * sum + n ∧ 2 * sum + n < 2 * (meanOf sum n * n) + 2 * n := by
  have hd : (0 : Int) < (2 * n : Nat) := by omega
  have hlo := Int.ediv_mul_le (2 * sum + n) hd.ne'
  have hhi := Int.lt_ediv_add_one_mul_self (2 * sum + n) hd
  have he : 2 * (meanOf sum n * n) = meanOf sum n * (2 * n : Nat) := by push_cast; ring
  rw [he]
  unfold meanOf
  rw [add_mul, one_mul] at hhi
  push_cast at hlo hhi ⊢
  exact ⟨hlo, hhi⟩

/-! Samples (R184 to R186, R258). -/

/-- The unit as a sample finds its thresholds. -/
def PmuSt.compared (p : PmuSt) (cur : Bool) (th : Nat) (v : Int) (clamp : Bool) (t : Nat) : PmuSt :=
  { p with
    above := decide (sampleVal cur (BitVec.ofNat 16 (bits th 0 16)) < v), below := decide (v < sampleVal cur (BitVec.ofNat 16 (bits th 16 16))),
    clamped := clamp, sampT := some t }

/-- The unit with a sample offered to its measurement in progress, which waits for it to settle or not. -/
def PmuSt.counting (p : PmuSt) (settled : Bool) (v : Int) (atEnd clamp : Bool) (t : Nat) : PmuSt :=
  match p.meas with
  | some (n, k, sum, wait) =>
    if k = n || (wait && !settled) then p
    else { p with meas := some (n, k + 1, sum + v, false), mT := if k = 0 then t else p.mT, mOver := p.mOver || atEnd, mClamp := p.mClamp || clamp }
  | none => p

section
variable (p : PmuSt) (settled : Bool) (v : Int) (atEnd clamp : Bool) (t : Nat)

theorem PmuSt.counting_flags : let q := p.counting settled v atEnd clamp t
    q.above = p.above ∧ q.below = p.below ∧ q.clamped = p.clamped ∧ q.active = p.active := by
  unfold PmuSt.counting
  split
  · split <;> exact ⟨rfl, rfl, rfl, rfl⟩
  · exact ⟨rfl, rfl, rfl, rfl⟩

variable {p}

theorem PmuSt.counting_none (h : p.meas = none) : p.counting settled v atEnd clamp t = p := by
  simp [PmuSt.counting, h]

theorem PmuSt.counting_some {n k : Nat} {sum : Int} {wait : Bool} (h : p.meas = some (n, k, sum, wait)) :
    p.counting settled v atEnd clamp t = if k = n || (wait && !settled) then p else { p with
      meas := some (n, k + 1, sum + v, false), mT := if k = 0 then t else p.mT, mOver := p.mOver || atEnd, mClamp := p.mClamp || clamp } := by
  simp only [PmuSt.counting, h]

/-- A measurement that does not wait to settle takes the sample. -/
theorem PmuSt.counting_takes {n k : Nat} {sum : Int} (h : p.meas = some (n, k, sum, false)) (hk : k ≠ n) :
    (p.counting settled v atEnd clamp t).meas = some (n, k + 1, sum + v, false) := by
  simp [PmuSt.counting_some settled v atEnd clamp t h, hk]

end

section
variable {s : State} {w : Nat}

theorem State.sample_none (h : (s.pm w).active = 0 ∨ s.exchanging w = true ∨ gtOf s.t % 256000 ≠ 0 ∨ (s.pm w).sampT = some s.t)
    (code : BitVec 16) (clamped : Bool) : s.sample w code clamped = s :=
  if_pos (by simpa [or_assoc] using h)

/-- A sample sets the unit's flags and is offered to its measurement; the reduction, which is offered it too, touches neither. -/
theorem State.sample_spec (ha : (s.pm w).active ≠ 0) (hx : s.exchanging w = false) (hg : gtOf s.t % 256000 = 0)
    (ht : (s.pm w).sampT ≠ some s.t) (code : BitVec 16) (clamped : Bool) : let t := s.sample w code clamped
    let cur := decide ((s.pm w).active = 1)
    let v := sampleVal cur code
    let clamp := clamped && forces (s.pm w).active
    t.pm w = ((s.pm w).compared cur (s.wreg w 6 0x050) v clamp s.t).counting (s.pmuIsSettled w) v (atEnd cur v) clamp s.t ∧
      t.mode w = s.mode w ∧ ∀ u, u ≠ w → t.win u = s.win u := by
  have he := State.sample.eq_1 s w code clamped
  extract_lets cur v th clamp oversub s1 s2 s3 at he
  rw [if_neg (by simp [ha, hx, hg, ht])] at he
  have hpm1 : s1.pm w = (s.pm w).compared cur th v clamp s.t := State.pm_modPm_self ..
  have h2 : Reduces s1 s2 w := .ite (s1.raiseCh_reduces ..) (.refl s1 w)
  have h3 : s3.pm w = ((s.pm w).compared cur th v clamp s.t).counting (s.pmuIsSettled w) v oversub clamp s.t ∧
      s3.md w = s2.md w ∧ OnlyWin s2 s3 w := by
    have hpm2 := h2.pm.trans hpm1
    cases hm : (s.pm w).meas with
    | none =>
      have hs3 : s3 = s2 := by simp only [s3, hm]
      rw [PmuSt.counting_none _ _ _ _ _ (show ((s.pm w).compared cur th v clamp s.t).meas = none from hm), hs3]
      exact ⟨hpm2, rfl, rfl, fun _ _ => rfl⟩
    | some x =>
      obtain ⟨n, k, sum, wait⟩ := x
      rw [PmuSt.counting_some _ _ _ _ _ (show ((s.pm w).compared cur th v clamp s.t).meas = _ from hm)]
      simp only [s3, hm]
      split
      · exact ⟨hpm2, rfl, rfl, fun _ _ => rfl⟩
      · exact ⟨(State.pm_modPm_self ..).trans (by rw [hpm2]), State.md_modPm .., State.modPm_onlyWin ..⟩
  obtain ⟨hpm3, hmd3, honly3⟩ := h3
  have hred : Reduces s3 (s.sample w code clamped) w := he ▸ s3.redSample_reduces ..
  have hmd : (s.sample w code clamped).md w = s.md w := hred.md.trans (hmd3.trans (h2.md.trans (State.md_modPm ..)))
  exact ⟨hred.pm.trans hpm3, congrArg ModeSt.mode hmd,
    fun u hu => (hred.calm.2 u hu).trans ((honly3.2 u hu).trans ((h2.calm.2 u hu).trans ((s.modPm_onlyWin w _).2 u hu)))⟩

theorem State.sample_flags (ha : (s.pm w).active ≠ 0) (hx : s.exchanging w = false) (hg : gtOf s.t % 256000 = 0)
    (ht : (s.pm w).sampT ≠ some s.t) (code : BitVec 16) (clamped : Bool) : let t := s.sample w code clamped
    let cur := decide ((s.pm w).active = 1)
    let q := (s.pm w).compared cur (s.wreg w 6 0x050) (sampleVal cur code) (clamped && forces (s.pm w).active) s.t
    (t.pm w).above = q.above ∧ (t.pm w).below = q.below ∧ (t.pm w).clamped = q.clamped ∧ (t.pm w).active = q.active := by
  obtain ⟨hpm, -⟩ := State.sample_spec ha hx hg ht code clamped
  intro t cur q
  rw [hpm]
  exact PmuSt.counting_flags ..

end

/-- Settles O24: PMU.CFG is checked, then set with what follows from it; a measurement's commands and its end are results posted in the window; a
sample changes the unit's flags and its measurement, and the reduction behind it touches neither. -/
theorem parametricUnit : Obligations.ParametricUnit := by
  unfold Obligations.ParametricUnit
  refine ⟨fun s dt w val => ?_, fun s dt w => ?_, fun s dt w code clamped => ?_⟩
  · intro a m range ht
    refine ⟨fun hm hr hf => ?_, fun hm => ?_, fun hm hr => ?_⟩
    · obtain ⟨u, he, hupm, humode, hu⟩ := State.writePmuCfg_accepted hm hr hf
      obtain ⟨hmode, hrange, hpm, hmd, hothers, hdrv⟩ := u.pmuSet_spec w (bits_lt val.toNat 0 2) hr 3
      have hold : u.pmuMode w = a.pmuMode w := (congrArg (·.pmuMode w) hu.1 :)
      have hslot : u.slotOf w = a.slotOf w := (congrArg (·.slotOf w) hu.1 :)
      have hnow : u.now = a.now := (congrArg State.now hu.1 :)
      rw [hupm, hold, hnow] at hpm
      rw [hold, humode, hslot] at hdrv
      refine ⟨_, State.next_hostWrite ht he, hmode, hrange, ?_, ?_, ?_, hmd.trans humode, hdrv, fun h => ?_,
        fun v hv => (hothers v hv).trans (hu.2 v hv)⟩
      · rw [hpm]; split <;> rfl
      · rw [hpm]; split <;> rfl
      · rw [hpm]; split <;> rfl
      · rw [hpm, if_pos (.inl h)]
        exact ⟨rfl, rfl⟩
    · exact ⟨_, State.next_hostWrite ht rfl, State.writePmuCfg_refused (State.writePmuCfg_barred hm)⟩
    · exact ⟨_, State.next_hostWrite ht rfl, State.writePmuCfg_refused (State.writePmuCfg_outOfRange hm hr)⟩
  · intro a p
    refine ⟨fun h => ?_, fun h => ?_, fun n wait ht => ⟨fun hm ho => ?_, fun h => ?_⟩, fun n sum wt hn hm => ⟨fun hb => ?_, fun hb => ?_⟩⟩
    · exact ⟨_, congrArg Host.Outcome.next (if_pos (decide_eq_true h)), a.pm_modPm_self .., a.modPm_onlyWin ..⟩
    · exact congrArg Host.Outcome.next (if_neg (by simpa [State.pmuIsSettled] using h))
    · exact ⟨_, State.next_hostWrite ht (State.pmuMeas_starts hm ho ..), a.pm_modPm_self .., a.modPm_onlyWin ..⟩
    · obtain ⟨hpm, -, hothers⟩ := State.pmuMeas_refused h n.toNat wait
      exact ⟨_, State.next_hostWrite ht rfl, (congrArg PmuSt.meas hpm :), congrArg (·.res.outcome) hpm, congrArg (·.res.reason) hpm,
        congrArg (·.res.seq) hpm, hothers⟩
    · have hpm := State.pmuFinish_measured hm hb
      exact ⟨_, rfl, congrArg PmuSt.value hpm, congrArg PmuSt.flags hpm, congrArg (·.res.outcome) hpm, congrArg PmuSt.meas hpm,
        meanOf_nearest sum hn⟩
    · have hpm := State.pmuFinish_disturbed hm hb
      exact ⟨_, rfl, (congrArg PmuSt.value hpm :), congrArg PmuSt.meas hpm, congrArg (·.res.outcome) hpm, congrArg (·.res.reason) hpm⟩
  · intro a p cur th
    refine ⟨fun h => congrArg Host.Outcome.next (State.sample_none h code clamped), fun ha hx hg hs => ?_⟩
    obtain ⟨hpm, hmode, hothers⟩ := State.sample_spec ha hx hg hs code clamped
    obtain ⟨habove, hbelow, hclamped, hactive⟩ := State.sample_flags ha hx hg hs code clamped
    have hmeas := congrArg PmuSt.meas hpm
    refine ⟨_, rfl, habove, hbelow, hclamped, hactive, hmode, fun n k sum hm hk => ?_, fun hm => ?_, hothers⟩
    · exact hmeas.trans (PmuSt.counting_takes _ _ _ _ _ hm hk)
    · refine hmeas.trans ((congrArg PmuSt.meas (PmuSt.counting_none _ _ _ _ _ ?_)).trans ?_) <;> exact hm

end Sys2Proof.Machine
namespace Sys2Proof.Machine

/-! ### The calibration switch, count flushes and spare swaps (O25) -/

/-! Results of switch commands (R188 to R190). -/

/-- A switch command's result, with the event it raises, is all that its end changes beside its switch. -/
theorem State.swPost_raise_spec (s : State) (w outcome reason i code native : Nat) :
    let t := (s.swPost w outcome reason).raiseCh w i code native
    t.win w = { s.win w with pm := { s.pm w with sw := (s.pm w).sw.done outcome reason } } ∧ CalmWin (s.bumpSeq (winPage w 5)) t w :=
  CalmWin.of_calm (s := s.bumpSeq (winPage w 5)) (f := fun x => { x with pm := { x.pm with sw := x.pm.sw.done outcome reason } })
    (State.calm_raiseCh ..)

/-- A switch command refused on arrival changes its result alone. -/
theorem State.swRefuse_spec (s : State) (w reason : Nat) : let t := s.swRefuse w reason
    t.md w = s.md w ∧ (t.pm w).sw.outcome = 2 ∧ (t.pm w).sw.reason = reason ∧ t.slots = s.slots := by
  unfold State.swRefuse
  extract_lets busy t
  obtain ⟨hwin, hcalm⟩ : t.win w = { s.win w with pm := { s.pm w with sw := (s.pm w).sw.refuse reason busy } } ∧
      CalmWin (s.bumpSeq (winPage w 5)) t w :=
    CalmWin.of_calm (s := s.bumpSeq (winPage w 5)) (f := fun x => { x with pm := { x.pm with sw := x.pm.sw.refuse reason busy } }) rfl
  exact ⟨(congrArg Win.md hwin :), congrArg (·.pm.sw.outcome) hwin, congrArg (·.pm.sw.reason) hwin, (congrArg State.slots hcalm.1 :)⟩

/-- The switch command that begins at `t`. -/
def startedSwitch (op t : Nat) (hot : Bool) : Trans :=
  { cmd := 0, tag := 0, target := .service, at_ := t, swOp := op, oversub := false, cancelled := false, hot := hot }

/-- A slot with a contact check's voltage recorded, where one was made. -/
def Slot.checked (x : Slot) (made : Bool) (v : BitVec 16) : Slot := if made then { x with checkV := v } else x

@[simp] theorem Slot.checked_kcal (x : Slot) (made : Bool) (v : BitVec 16) : (x.checked made v).kcal = x.kcal := by
  unfold Slot.checked
  split <;> rfl

@[simp] theorem Slot.checked_checkV (x : Slot) (made : Bool) (v : BitVec 16) : (x.checked made v).checkV = if made then v else x.checkV := by
  unfold Slot.checked
  split <;> rfl

section
variable {s : State} {w op : Nat} (hf : s.modeFree w = true)
include hf

theorem State.swCmd_free (hop : op = 1 ∨ op = 2) (hm : s.mode w = .service) (hx : op = 1 → s.calExcluded w = false) (check : BitVec 16) :
    let t := s.swCmd w op check
    let k := s.slotOf w
    let moves := (s.slot k).kcal != decide (op = 1)
    let v := if op = 1 then s.closeDrop w check else check
    (t.md w).trans = some (startedSwitch op s.t (moves && s.contactHot w v)) ∧ t.slot k = (s.slot k).checked moves v ∧
      (t.pm w).sw.valid = false ∧ t.mode w = .service := by
  simp only [State.modeFree, Bool.and_eq_true, Option.isNone_iff_eq_none, Bool.not_eq_true'] at hf
  obtain ⟨ht, he⟩ := hf
  intro t k moves v
  set s1 := if moves then s.recordCheck w v else s with hs1
  have hwin1 : s1.win w = s.win w := by rw [hs1]; split <;> rfl
  have hslot1 : s1.slot k = (s.slot k).checked moves v := by
    rw [hs1, Slot.checked]
    split
    · exact s.slot_modSlot_self ..
    · rfl
  have heq : t = (s1.modMd w fun m => { m with trans := some (startedSwitch op s.t (moves && s.contactHot w v)) }).modPm w
      fun p => { p with sw := p.sw.busy } := by
    have h0 : op ≠ 0 := by omega
    have h3 : op ≠ 3 := by omega
    have hx' : (op = 1 && s.calExcluded w) = false := by rcases hop with rfl | rfl <;> simp [hx]
    simp only [t, State.swCmd, ht, he, h0, h3, hm, hx']
    rfl
  have hwin : t.win w = { s.win w with
      md := { s.md w with trans := some (startedSwitch op s.t (moves && s.contactHot w v)) }
      pm := { s.pm w with sw := (s.pm w).sw.busy } } := by
    have hmd : (s1.modMd w fun m => { m with trans := some (startedSwitch op s.t (moves && s.contactHot w v)) }).win w =
        { s.win w with md := { s.md w with trans := some (startedSwitch op s.t (moves && s.contactHot w v)) } } := by
      refine (s1.win_modWin ..).trans ((if_pos rfl).trans ?_)
      rw [hwin1]
      rfl
    rw [heq, State.win_modPm_self, State.pm, hmd]
    rfl
  refine ⟨congrArg (·.md.trans) hwin, ?_, congrArg (·.pm.sw.valid) hwin, (congrArg (·.md.mode) hwin).trans hm⟩
  rw [heq]
  exact hslot1

theorem State.swCmd_outsideService (hop : op = 1 ∨ op = 2) (hm : s.mode w ≠ .service) (check : BitVec 16) :
    s.swCmd w op check = s.swRefuse w 2 := by
  simp only [State.modeFree, Bool.and_eq_true, Option.isNone_iff_eq_none, Bool.not_eq_true'] at hf
  obtain ⟨ht, he⟩ := hf
  rcases hop with rfl | rfl <;> simp [State.swCmd, ht, he, hm]

theorem State.swCmd_excluded (hm : s.mode w = .service) (hx : s.calExcluded w = true) (check : BitVec 16) :
    s.swCmd w 1 check = s.swRefuse w 4 := by
  simp only [State.modeFree, Bool.and_eq_true, Option.isNone_iff_eq_none, Bool.not_eq_true'] at hf
  obtain ⟨ht, he⟩ := hf
  simp [State.swCmd, ht, he, hm, hx]

end

/-! A switch moves, and its closures are counted (R191). -/

/-- Index of a slot's K_CAL in CLU_c.SW_LIFE. -/
def calIndex (k : Nat) : Nat := if k % 17 = 16 then 48 else 3 * (k % 17) + 2

/-- A cluster with one more closure of its switch `i` in its live counts. -/
def Clu.closed (x : Clu) (i : Nat) : Clu := { x with life := Tab.set 0 x.life i (satInc (2 ^ 40 - 1) (Tab.get 0 x.life i)) }

theorem Clu.life_closed (x : Clu) (i : Nat) : Tab.get 0 (x.closed i).life i = satInc (2 ^ 40 - 1) (Tab.get 0 x.life i) := Tab.get_set_self ..

theorem State.clu_modClu_self (s : State) (c : Nat) (f : Clu → Clu) : (s.modClu c f).clu c = f (s.clu c) :=
  (s.clu_modClu c c f).trans (if_pos rfl)

/-- A closure counts in its cluster; beside traces of detections nothing else has changed but the keeper. -/
theorem State.countClose_calm (s : State) (c i : Nat) : ∃ k : KeepSt,
    (s.countClose c i).calm = ((s.modClu c fun x => x.closed i).modKeep fun _ => k).calm := by
  unfold State.countClose
  extract_lets n s1 s2
  have h2 : ∃ k : KeepSt, s2 = { s1 with keep := k } := by
    dsimp only [s2]
    split
    · exact ⟨_, rfl⟩
    · exact ⟨s1.keep, rfl⟩
  obtain ⟨k, hk⟩ := h2
  split
  · exact ⟨_, (State.calm_raiseVal ..).trans (by rw [hk]; rfl)⟩
  · exact ⟨k, congrArg State.calm hk⟩

theorem State.countClose_spec (s : State) (c i : Nat) : (s.countClose c i).slots = s.slots ∧ (s.countClose c i).wins = s.wins ∧
    (s.countClose c i).clu c = (s.clu c).closed i := by
  obtain ⟨k, hk⟩ := s.countClose_calm c i
  have hslots := State.slots_of_calm hk
  have hwins := State.wins_of_calm hk
  have hclu := State.clu_at_of_calm hk c
  exact ⟨hslots, hwins, hclu.trans (s.clu_modClu_self c fun x => x.closed i)⟩

section
variable {s : State} {w : Nat}

/-- K_CAL closes from open: the closure counts. -/
theorem State.setCal_closes (h : (s.slot (s.slotOf w)).kcal = false) : let t := s.setCal w true
    let k := s.slotOf w
    (t.slot k).kcal = true ∧ t.wins = s.wins ∧
      t.clu (k / 17) = (s.clu (k / 17)).closed (calIndex k) := by
  intro t k
  have he : t = (s.modSlot k fun x => { x with kcal := true }).countClose (k / 17) (calIndex k) := by
    simp [t, State.setCal, h, k, calIndex]
  obtain ⟨hslots, hwins, hclu⟩ := (s.modSlot k fun x => { x with kcal := true }).countClose_spec (k / 17) (calIndex k)
  rw [← he] at hslots hwins hclu
  exact ⟨(congrArg (fun l => (Tab.get {} l k).kcal) hslots).trans (congrArg Slot.kcal (s.slot_modSlot_self k _)), hwins, hclu⟩

theorem State.setCal_opens (s : State) (w : Nat) : let t := s.setCal w false
    (t.slot (s.slotOf w)).kcal = false ∧ t.wins = s.wins ∧ t.clus = s.clus := by
  intro t
  unfold t State.setCal
  extract_lets k s1
  split
  · next h => exact ⟨h, rfl, rfl⟩
  · rw [if_neg (by decide)]
    exact ⟨congrArg Slot.kcal (s.slot_modSlot_self k _), rfl, rfl⟩

/-- The window with its switch command over and the result posted. -/
def Win.switched (x : Win) (outcome reason : Nat) : Win :=
  { x with md := { x.md with trans := none }, pm := { x.pm with sw := x.pm.sw.done outcome reason } }

/-- A switch command's end, whatever it did to the switch before it posted its result. -/
theorem State.switchEnds_spec {u : State} (hu : u.wins = (s.modMd w fun m => { m with trans := none }).wins) (outcome reason i code native : Nat) :
    let t := (u.swPost w outcome reason).raiseCh w i code native
    t.win w = (s.win w).switched outcome reason ∧ t.slots = u.slots ∧ t.clus = u.clus := by
  intro t
  obtain ⟨hwin, hcalm, -⟩ := u.swPost_raise_spec w outcome reason i code native
  have huw : u.win w = { s.win w with md := { s.md w with trans := none } } :=
    (State.win_of_wins hu w).trans ((s.win_modWin ..).trans (if_pos rfl))
  refine ⟨hwin.trans ?_, (congrArg State.slots hcalm :), (congrArg State.clus hcalm :)⟩
  rw [State.pm, huw]
  rfl

variable {x : Trans} (hx : (s.md w).trans = some x) (ho : x.swOp ≠ 0)
include hx ho

theorem State.swDone_refused (hh : x.hot = true) : let t := s.swDone w
    t.win w = (s.win w).switched 2 3 ∧ t.slots = s.slots := by
  intro t
  have he : t = ((s.modMd w fun m => { m with trans := none }).swPost w 2 3).raiseCh w 4 1 0 := by simp [t, State.swDone, hx, ho, hh]
  obtain ⟨hwin, hslots, -⟩ := State.switchEnds_spec (s := s) (w := w) rfl 2 3 4 1 0
  rw [he]
  exact ⟨hwin, hslots⟩

theorem State.swDone_done (hh : x.hot = false) {b : Bool} (hb : decide (x.swOp = 1) = b) : let t := s.swDone w
    let u := (s.modMd w fun m => { m with trans := none }).setCal w b
    u.wins = (s.modMd w fun m => { m with trans := none }).wins → t.win w = (s.win w).switched 1 0 ∧ t.slots = u.slots ∧ t.clus = u.clus := by
  intro t u hu
  have he : t = (u.swPost w 1 0).raiseCh w 4 3 0 := by simp [t, u, State.swDone, hx, ho, hh, hb]
  rw [he]
  exact State.switchEnds_spec hu 1 0 4 3 0

theorem State.switchFails_missed (hh : x.hot = false) (hc : x.cancelled = false) (hk : (s.slot (s.slotOf w)).kcal ≠ decide (x.swOp = 1)) :
    let t := s.switchFails w
    t.win w = (s.win w).switched 3 6 ∧ t.slots = s.slots := by
  intro t
  have ht : t = s.swFail w x.swOp := by simp [t, State.switchFails, hx, ho, hh, hc]
  rw [ht]
  unfold State.swFail
  extract_lets k s1 s2
  rw [if_neg hk]
  have h2 : s2.wins = s1.wins ∧ s2.slots = s.slots := by
    dsimp only [s2]
    split
    · obtain ⟨hslots, hwins, -⟩ := s1.countClose_spec (k / 17) (calIndex k)
      exact ⟨hwins, hslots⟩
    · exact ⟨rfl, rfl⟩
  obtain ⟨hwin, hslots, -⟩ := State.switchEnds_spec h2.1 3 6 4 2 2
  exact ⟨hwin, hslots.trans h2.2⟩

end

/-! Count flushes (R192). -/

theorem lifeKey_inj {c i j : Nat} (h : lifeKey c i = lifeKey c j) : i = j := Nat.add_left_cancel h

/-- The counts of switches 0 to `n - 1` are stored, and nothing else changes. -/
theorem State.storeCounts_spec (s : State) (c n : Nat) : let t := s.each (List.range n) fun s i => s.storeCount c i
    t = { s with keep := { s.keep with stored := t.keep.stored } } ∧
      (∀ i, i < n → Tab.get 0 t.keep.stored (lifeKey c i) = Tab.get 0 (s.clu c).life i) ∧
      ∀ key, (∀ i, i < n → key ≠ lifeKey c i) → Tab.get 0 t.keep.stored key = Tab.get 0 s.keep.stored key := by
  induction n with
  | zero => exact ⟨rfl, fun _ h => absurd h (Nat.not_lt_zero _), fun _ _ => rfl⟩
  | succ n ih =>
    rw [State.each_range_succ]
    set u := s.each (List.range n) fun s i => s.storeCount c i
    obtain ⟨hsame, hnew, hold⟩ := ih
    have hlife : (u.clu c).life = (s.clu c).life := (congrArg (fun x : State => (x.clu c).life) hsame :)
    have hget (key : Nat) : Tab.get 0 (u.storeCount c n).keep.stored key =
        if lifeKey c n = key then Tab.get 0 (s.clu c).life n else Tab.get 0 u.keep.stored key := hlife ▸ Tab.get_set ..
    refine ⟨congrArg (fun x : State => { x with keep := { x.keep with stored := (u.storeCount c n).keep.stored } }) hsame, fun i hi => ?_,
      fun key hkey => ?_⟩
    · rw [hget]
      split
      · next h => rw [lifeKey_inj h]
      · next h => exact hnew i (lt_of_le_of_ne (Nat.le_of_lt_succ hi) fun e => h (congrArg (lifeKey c) e.symm))
    · rw [hget, if_neg (hkey n (Nat.lt_succ_self n)).symm]
      exact hold key fun i hi => hkey i (Nat.lt_succ_of_lt hi)

/-- A flush that ends has stored the 49 counts of its cluster in a state `u`, and then reads as over. -/
theorem State.swFlushEnd_spec {s : State} {c : Nat} (h : (s.clu c).flushing = true) : ∃ u : State,
    s.swFlushEnd c = u.modClu c (fun x => { x with flushing := false }) ∧ u = { s with keep := { s.keep with stored := u.keep.stored } } ∧
      (∀ i, i < 49 → Tab.get 0 u.keep.stored (lifeKey c i) = Tab.get 0 (s.clu c).life i) ∧
      ∀ key, (∀ i, i < 49 → key ≠ lifeKey c i) → Tab.get 0 u.keep.stored key = Tab.get 0 s.keep.stored key :=
  ⟨s.each (List.range 49) fun s i => s.storeCount c i, if_pos h, s.storeCounts_spec c 49⟩

/-! Exchanges (R195). -/

theorem CalmClu.of_calm {s t : State} {c : Nat} {f : Clu → Clu} (h : t.calm = (s.modClu c f).calm) : t.clu c = f (s.clu c) ∧ CalmClu s t c := by
  refine ⟨(State.clu_at_of_calm h c).trans (s.clu_modClu_self c f), ?_,
    fun d hd => (State.clu_at_of_calm h d).trans ((s.modClu_onlyClu c f).2 d hd)⟩
  rw [h, State.clus_of_calm h]
  rfl

/-- A change of one cluster with a result posted. -/
theorem CalmClu.posted {s t : State} {c p : Nat} (h : CalmClu (s.bumpSeq p) t c) : t.calm = { s.calm with clus := t.clus, pgSeq := t.pgSeq } := by
  obtain ⟨hc, -⟩ := h
  have hseq : t.pgSeq = (s.bumpSeq p).pgSeq := (congrArg State.pgSeq hc :)
  rw [hc, hseq]
  rfl

theorem State.swapCmd_begins {s : State} {c k : Nat} (h : s.swapFault c k = 0) :
    s.swapCmd c k = s.modClu c fun x => { x with swapping := some (BitVec.ofNat 4 k), swap := x.swap.busy } :=
  if_neg (not_not.mpr h)

theorem State.swapCmd_refused {s : State} {c k : Nat} (h : s.swapFault c k ≠ 0) : let t := s.swapCmd c k
    t.clu c = { s.clu c with swap := (s.clu c).swap.refuse (s.swapFault c k) (s.clu c).swapping.isSome } ∧ CalmClu (s.bumpSeq (cluPage c)) t c := by
  intro t
  have he : t = _ := if_pos h
  rw [he]
  exact CalmClu.of_calm (s := s.bumpSeq (cluPage c)) (f := fun x => { x with swap := x.swap.refuse (s.swapFault c k) x.swapping.isSome })
    (State.calm_raiseClu ..)

theorem State.afterExchange_reduces (s : State) (w : Nat) : Reduces s (s.afterExchange w) w := by
  unfold State.afterExchange
  extract_lets s1
  have h1 : Reduces s s1 w := s.modSt_reduces ..
  exact ((h1.trans (s1.redSettle_reduces w s.t)).trans (State.redGrid_reduces ..)).trans (State.modRd_reduces ..)

/-- A cluster whose exchange has completed. -/
def Clu.exchanged (x : Clu) (p : BitVec 4) (lat : Tab Nat) : Clu :=
  { x with swapped := if x.swapped.isSome then none else some p, swapping := none, swap := x.swap.done 1 0, lat := lat }

theorem State.clu_calLat (s : State) (c : Nat) : ∃ lat, (s.calLat c).clu c = { s.clu c with lat := lat } := by
  unfold State.calLat
  extract_lets base rts
  exact ⟨_, State.clu_modClu_self ..⟩

theorem State.swapEnd_spec {s : State} {c : Nat} {p : BitVec 4} (h : (s.clu c).swapping = some p) : let t := s.swapEnd c
    t.slots = s.slots ∧ ∃ lat, t.clu c = (s.clu c).exchanged p lat := by
  unfold State.swapEnd
  rw [h]
  dsimp -zeta only
  extract_lets s1 t
  have hclu1 : ∃ lat, s1.clu c = (s.clu c).exchanged p lat := by
    obtain ⟨lat, hlat⟩ := State.clu_calLat (s.modClu c fun x => { x with
      swapped := if x.swapped.isSome then none else some p, swapping := none, swap := x.swap.done 1 0 }) c
    rw [State.clu_modClu_self] at hlat
    exact ⟨lat, hlat⟩
  have hred := s1.afterExchange_reduces (16 * c + p.toNat)
  have hred' := (s1.afterExchange (16 * c + p.toNat)).afterExchange_reduces (128 + c)
  have hcalm : t.calm = (((s1.afterExchange (16 * c + p.toNat)).afterExchange (128 + c)).bumpSeq (cluPage c)).calm := State.calm_raiseClu ..
  obtain ⟨lat, hlat⟩ := hclu1
  refine ⟨?_, lat, ?_⟩
  · have hs : s1.slots = s.slots := rfl
    exact (State.slots_of_calm hcalm).trans (hred'.slots.trans (hred.slots.trans hs))
  · exact (State.clu_at_of_calm hcalm c).trans ((hred'.clu c).trans ((hred.clu c).trans hlat))

section
variable {s : State} {c : Nat} (hc : c < 8)
include hc

theorem cluOf_spare : cluOf (128 + c) = c := by
  unfold cluOf
  split <;> omega

theorem cluOf_pin {i : Nat} (hi : i < 16) : cluOf (16 * c + i) = c := by
  unfold cluOf
  split <;> omega

theorem State.slotOf_unswapped (h : (s.clu c).swapped = none) :
    s.slotOf (128 + c) = 17 * c + 16 ∧ ∀ i, i < 16 → s.slotOf (16 * c + i) = 17 * c + i := by
  refine ⟨?_, fun i hi => ?_⟩
  · simp only [State.slotOf, cluOf_spare hc, h]
    split <;> omega
  · simp only [State.slotOf, cluOf_pin hc hi, h]
    split <;> omega

theorem State.slotOf_swapped {p : BitVec 4} (h : (s.clu c).swapped = some p) :
    s.slotOf (128 + c) = 17 * c + p.toNat ∧ s.slotOf (16 * c + p.toNat) = 17 * c + 16 ∧
      ∀ i, i < 16 → i ≠ p.toNat → s.slotOf (16 * c + i) = 17 * c + i := by
  have hp := p.isLt
  refine ⟨?_, ?_, fun i hi hne => ?_⟩
  · simp only [State.slotOf, cluOf_spare hc, h]
    split <;> omega
  · simp only [State.slotOf, cluOf_pin hc hp, h]
    split <;> [split; skip] <;> omega
  · simp only [State.slotOf, cluOf_pin hc hi, h]
    split <;> [split; skip] <;> omega

end

/-- Settles O25: a switch command begins with its check or is refused, and ends by what became of its switch; a flush stores one count at a time;
a completed exchange changes the mapping of its two windows. -/
theorem switchesAndSwaps : Obligations.SwitchesAndSwaps := by
  unfold Obligations.SwitchesAndSwaps
  refine ⟨fun s dt w => ?_, fun s dt c => ?_, fun s dt c pos => ?_, fun s dt c pos => ?_⟩
  · intro a k cal
    refine ⟨fun check ht hf => ?_, fun x hx => ?_⟩
    · intro drop
      have htrans : (a.md w).trans = none := by
        simp only [State.modeFree, Bool.and_eq_true, Option.isNone_iff_eq_none] at hf
        exact hf.1
      refine ⟨fun hm he => ?_, fun hm => ?_, fun hm he => ?_, fun hm => ?_⟩
      · obtain ⟨htr, hslot, hvalid, hmode⟩ := State.swCmd_free hf (.inl rfl) hm (fun _ => he) check
        refine ⟨_, _, State.next_hostWrite ht rfl, htr, rfl, by simp [startedSwitch, cal, k, drop], ?_, ?_, hvalid, hmode⟩
        · rw [hslot, Slot.checked_checkV]
          cases hc : cal <;> simp [cal, k, drop, hc]
        · rw [hslot, Slot.checked_kcal]
      · obtain ⟨htr, hslot, -, hmode⟩ := State.swCmd_free hf (.inr rfl) hm (fun h => nomatch h) check
        refine ⟨_, _, State.next_hostWrite ht rfl, htr, rfl, by simp [startedSwitch, cal, k], ?_, ?_, hmode⟩
        · rw [hslot, Slot.checked_checkV]
          simp [cal, k]
        · rw [hslot, Slot.checked_kcal]
      · obtain ⟨hmd, hout, hreason, hslots⟩ := a.swRefuse_spec w 4
        exact ⟨_, State.next_hostWrite ht (State.swCmd_excluded hf hm he check), (congrArg ModeSt.trans hmd).trans htrans, hout, hreason, hslots⟩
      · obtain ⟨hmd, hout, hreason, hslots⟩ := a.swRefuse_spec w 2
        exact ⟨_, State.next_hostWrite ht (State.swCmd_outsideService hf (.inr rfl) hm check), (congrArg ModeSt.trans hmd).trans htrans, hout,
          hreason, hslots⟩
    · refine ⟨fun ho hh hc => ?_, fun ho hh => ?_, fun ho hh => ?_, fun ho hh hca hk => ?_⟩
      · obtain ⟨hcal, hwins, hclu⟩ := State.setCal_closes (s := a.modMd w fun m => { m with trans := none }) hc
        obtain ⟨hwin, hslots, hclus⟩ := State.swDone_done hx (by omega) hh (decide_eq_true ho) hwins
        have hclu' : (a.swDone w).clu (k / 17) = (a.clu (k / 17)).closed (calIndex k) := (congrArg (Tab.get ({} : Clu) · (k / 17)) hclus).trans hclu
        exact ⟨_, rfl, (congrArg (fun l => (Tab.get ({} : Slot) l k).kcal) hslots).trans hcal, congrArg (·.md.trans) hwin,
          congrArg (·.pm.sw.outcome) hwin, (congrArg (·.md.mode) hwin :),
          (congrArg (fun x : Clu => Tab.get 0 x.life (calIndex k)) hclu').trans (Clu.life_closed ..)⟩
      · obtain ⟨hcal, hwins, hclus⟩ := (a.modMd w fun m => { m with trans := none }).setCal_opens w
        obtain ⟨hwin, hslots, hclus'⟩ := State.swDone_done hx (by omega) hh (decide_eq_false (by omega)) hwins
        exact ⟨_, rfl, (congrArg (fun l => (Tab.get ({} : Slot) l k).kcal) hslots).trans hcal, congrArg (·.md.trans) hwin,
          congrArg (·.pm.sw.outcome) hwin, hclus'.trans hclus⟩
      · obtain ⟨hwin, hslots⟩ := State.swDone_refused hx ho hh
        exact ⟨_, rfl, hslots, congrArg (·.md.trans) hwin, congrArg (·.pm.sw.outcome) hwin, congrArg (·.pm.sw.reason) hwin⟩
      · obtain ⟨hwin, hslots⟩ := State.switchFails_missed hx ho hh hca hk
        exact ⟨_, rfl, hslots, congrArg (·.md.trans) hwin, congrArg (·.pm.sw.outcome) hwin, congrArg (·.pm.sw.reason) hwin⟩
  · intro a
    refine ⟨fun ht => ?_, fun hfl => ?_⟩
    · exact ⟨_, State.next_hostWrite ht rfl, a.clu_modClu_self .., a.modClu_onlyClu ..⟩
    · obtain ⟨u, he, hsame, hnew, hold⟩ := State.swFlushEnd_spec hfl
      exact ⟨_, congrArg Host.Outcome.next he, congrArg Clu.flushing (State.clu_modClu_self ..), hnew, hold,
        congrArg (fun x : State => { x with clus := (u.modClu c fun x => { x with flushing := false }).clus }) hsame,
        fun d hd => ((u.modClu_onlyClu c _).2 d hd).trans (congrArg (·.clu d) hsame :)⟩
  · intro a ht
    refine ⟨fun hf => ?_, fun hf => ?_⟩
    · refine ⟨_, State.next_hostWrite ht (State.swapCmd_begins hf), ?_, a.modClu_onlyClu ..⟩
      rw [State.clu_modClu_self, BitVec.ofNat_toNat, BitVec.setWidth_eq]
    · obtain ⟨hclu, hcalm⟩ := State.swapCmd_refused hf
      exact ⟨_, State.next_hostWrite ht rfl, congrArg (·.swap.outcome) hclu, congrArg (·.swap.reason) hclu, (congrArg Clu.swapped hclu :),
        (congrArg Clu.swapping hclu :), hcalm.posted⟩
  · intro a hs hp
    obtain ⟨hslots, lat, hclu⟩ := State.swapEnd_spec hs
    refine ⟨_, rfl, congrArg Clu.swapping hclu, congrArg (·.swap.outcome) hclu, ?_⟩
    cases hw : (a.clu c).swapped with
    | none =>
      have hw' : ((a.swapEnd c).clu c).swapped = some pos := by rw [hclu, Clu.exchanged, hw]; rfl
      obtain ⟨hspare, hpins⟩ := State.slotOf_unswapped c.isLt hw
      obtain ⟨hspare', hpos', hpins'⟩ := State.slotOf_swapped c.isLt hw'
      exact ⟨hw', hpos'.trans hspare.symm, hspare'.trans (hpins _ pos.isLt).symm,
        fun i hi hne => (hpins' i hi hne).trans (hpins i hi).symm, hslots⟩
    | some p =>
      obtain rfl := hp p hw
      have hw' : ((a.swapEnd c).clu c).swapped = none := by rw [hclu, Clu.exchanged, hw]; rfl
      obtain ⟨hspare, hpos, hpins⟩ := State.slotOf_swapped c.isLt hw
      obtain ⟨hspare', hpins'⟩ := State.slotOf_unswapped c.isLt hw'
      exact ⟨hw', (hpins' _ p.isLt).trans hspare.symm, hspare'.trans hpos.symm, fun i hi hne => (hpins' i hi).trans (hpins i hi hne).symm, hslots⟩

end Sys2Proof.Machine
namespace Sys2Proof.Machine

/-! ### Ledger appends (O39) -/

/-! Requests (R330, R331). -/

theorem State.retired_modClu (s : State) (c : Nat) {f : Clu → Clu} (h : ∀ x, (f x).retired = x.retired) (k : Nat) :
    (s.modClu c f).retired k = s.retired k := by
  unfold State.retired
  rw [State.clu_modClu]
  split
  · next hc => rw [h, hc]
  · rfl

/-- A request that its budget and its slot allow joins the keeper's queue, and nothing else changes but RWL_RESULT.VALID. -/
theorem State.request_queued {s : State} {kind obj : Nat} (hb : s.budgetSpent kind (BitVec.ofNat 32 obj).toNat = false)
    (hr : kind = 4 → s.retired ((BitVec.ofNat 32 obj).toNat % 256) = false) (val : Nat) : s.request kind obj val = s.modKeep fun k => { k with
      queue := k.queue ++ [{ kind := kind, obj := BitVec.ofNat 32 obj, val := BitVec.ofNat 64 val }], rwl := k.rwl.busy } := by
  unfold State.request
  extract_lets x s1
  split
  · next hq =>
    have hq1 : s1.keep.queue = [x] := by simp [s1, List.isEmpty_iff.mp hq]
    have hb1 : s1.budgetSpent x.kind x.obj.toNat = false := hb
    have hr1 : (decide (x.kind = 4) && s1.retired (x.obj.toNat % 256)) = false := by
      by_cases h4 : kind = 4
      · have hr' : s1.retired (x.obj.toNat % 256) = false := hr h4
        simp [hr']
      · simp [x, h4]
    simp only [State.startAppends, hq1, hb1, hr1]
    rfl
  · rfl

/-- The change's event and result, where its budget is spent. -/
theorem State.keep_budgetRefuse (s : State) (kind : Nat) :
    ((s.rwlPost kind 2 1).raiseDev 12 1 0 0).keep = (s.rwlPost kind 2 1).keep := State.keep_of_calm (State.calm_raiseDev ..)

/-- What a change refused for its budget leaves in the keeper: the result REFUSED with reason BUDGET, and no entry. -/
theorem State.unasked_of_keep {s t : State} {kind : Nat} (h : t.keep = (s.rwlPost kind 2 1).keep) (hq : s.keep.queue = []) :
    t.keep.rwl.outcome = 2 ∧ t.keep.rwl.reason = 1 ∧ t.keep.queue = [] ∧ t.keep.ledger = s.keep.ledger := by
  rw [h]
  exact ⟨rfl, rfl, hq, rfl⟩

theorem State.retireRefuse_spec (s : State) (c : Nat) : let t := s.retireRefuse c
    t.clu c = { s.clu c with retRefused := true } ∧ CalmClu s t c := CalmClu.of_calm (State.calm_raiseClu ..)

/-! The end of an append (R326, R328). -/

/-- An entry is programmed at the lowest blank index: complete, or voided. -/
theorem State.program_spec {s : State} {i : Nat} (h : s.nextBlank = some i) (kind lc obj val : Nat) (verified : Bool) :
    let p := s.program kind lc obj val verified
    let e := if verified then mkEntry i kind lc obj val s.t else BitVec.allOnes 256
    p.1 = verified ∧ p.2.calm = (s.modKeep fun k => { k with ledger := Tab.set 0 k.ledger i e }).calm := by
  unfold State.program
  rw [h]
  dsimp -zeta only
  extract_lets e s1 s2 p
  refine ⟨rfl, ?_⟩
  have h2 : s2.calm = s1.calm := by
    dsimp only [s2]
    split
    · rfl
    · exact State.calm_raiseDev ..
  dsimp only [p]
  split
  · exact (State.calm_raiseDev ..).trans h2
  · exact h2

/-- Since `s`, the one append that was asked for has ended: entry `e` stands at index `i`, and the result of its kind is posted. -/
structure AppendEnds (s t : State) (i : Nat) (e : BitVec 256) (kind outcome reason : Nat) : Prop where
  queue : t.keep.queue = []
  outcome : t.keep.rwl.outcome = outcome
  reason : t.keep.rwl.reason = reason
  kind : t.keep.rwlKind = kind
  entry : Tab.get 0 t.keep.ledger i = e
  others : ∀ j, j ≠ i → Tab.get 0 t.keep.ledger j = Tab.get 0 s.keep.ledger j
  subsys : t.keep.subsys = s.keep.subsys
  mem : t.mem = s.mem
  clus : t.clus = s.clus
  flt : t.flt = s.flt

theorem State.appendDone_single {s : State} {x : Append} (hq : s.keep.queue = [x]) (verified : Bool) :
    let p := s.program x.kind s.sec.lc x.obj.toNat x.val.toNat verified
    let u := p.2.modKeep fun k => { k with queue := [] }
    s.appendDone verified = if p.1 then (u.rwlPost x.kind 1 0).granted x else (u.rwlPost x.kind 3 2).ungranted x := by
  simp only [State.appendDone, hq, List.length_nil, State.startAppends]

/-- An entry programmed and its append ended, whose queue is then empty. -/
theorem AppendEnds.of_calm {s v : State} {i : Nat} {e : BitVec 256}
    (h : v.calm = (s.modKeep fun k => { k with ledger := Tab.set 0 k.ledger i e }).calm)
    (kind outcome reason : Nat) :
    AppendEnds s ((v.modKeep fun k => { k with queue := [] }).rwlPost kind outcome reason) i e kind outcome reason where
  queue := rfl
  outcome := rfl
  reason := rfl
  kind := rfl
  entry := (congrArg (Tab.get 0 ·.ledger i) (State.keep_of_calm h)).trans (Tab.get_set_self ..)
  others j hj := (congrArg (Tab.get 0 ·.ledger j) (State.keep_of_calm h)).trans (Tab.get_set_other _ _ _ (Ne.symm hj))
  subsys := (congrArg KeepSt.subsys (State.keep_of_calm h) :)
  mem := (State.mem_of_calm h :)
  clus := (State.clus_of_calm h :)
  flt := (State.flt_of_calm h :)

section
variable {s : State} {x : Append} {i : Nat} (hq : s.keep.queue = [x]) (hn : s.nextBlank = some i)
include hq hn

/-- The one append asked for ends with its entry committed: its change takes effect. -/
theorem State.appendDone_verified : ∃ u : State,
    AppendEnds s u i (mkEntry i x.kind s.sec.lc x.obj.toNat x.val.toNat s.t) x.kind 1 0 ∧ s.appendDone true = u.granted x := by
  obtain ⟨hok, hcalm⟩ := State.program_spec hn x.kind s.sec.lc x.obj.toNat x.val.toNat true
  exact ⟨_, .of_calm hcalm x.kind 1 0, (State.appendDone_single hq true).trans (if_pos hok)⟩

/-- The one append asked for ends with its entry voided: its change fails. -/
theorem State.appendDone_voided : ∃ u : State,
    AppendEnds s u i (BitVec.allOnes 256) x.kind 3 2 ∧ s.appendDone false = u.ungranted x := by
  obtain ⟨hok, hcalm⟩ := State.program_spec hn x.kind s.sec.lc x.obj.toNat x.val.toNat false
  exact ⟨_, .of_calm hcalm x.kind 3 2, (State.appendDone_single hq false).trans (if_neg (by simp [hok]))⟩

end

/-! What takes effect once its entry is committed (R196, R289, R305, R330). -/

section
variable (s : State) (x : Append)

theorem State.keep_granted :
    (s.granted x).keep = { s.keep with subsys := if x.kind = 5 then BitVec.ofNat 32 x.val.toNat else s.keep.subsys } := by
  unfold State.granted
  split <;> simp_all

theorem State.mem_granted :
    (s.granted x).mem.repair = if x.kind = 3 then s.mem.repair.map fun r => (r.1, r.2.1, 2) else s.mem.repair := by
  unfold State.granted
  split <;> simp_all

theorem State.pol_granted : (s.granted x).flt.pol = if x.kind = 6 then bit x.val.toNat 0 else s.flt.pol := by
  unfold State.granted
  split <;> simp_all

theorem State.clus_granted (h : x.kind ≠ 4) : (s.granted x).clus = s.clus := by
  unfold State.granted
  split <;> simp_all

theorem State.clu_granted (h : x.kind = 4) : (s.granted x).clu (cluOfSlot (x.obj.toNat % 256)) =
    { s.clu (cluOfSlot (x.obj.toNat % 256)) with
      retired := putBit (s.clu (cluOfSlot (x.obj.toNat % 256))).retired (x.obj.toNat % 256 % 17) true, retRefused := false } := by
  simp only [State.granted, h]
  exact State.clu_modClu_self ..

/-! What fails with its entry (R289, R328). -/

theorem State.calm_repairPost (outcome reason : Nat) : (s.repairPost outcome reason).calm = ((s.modMem fun m => { m with
    repairRes := { m.repairRes.done outcome reason with valid := m.repair.isNone } }).bumpSeq 10).calm := by
  unfold State.repairPost
  extract_lets s1
  split <;> exact State.calm_raiseDev ..

theorem State.ungranted_other (h : x.kind ≠ 3) : s.ungranted x = s := by
  unfold State.ungranted
  split
  · next h3 => exact absurd h3 h
  · rfl

theorem State.ungranted_repair (h : x.kind = 3) : let t := s.ungranted x
    t.mem.repair = none ∧ t.mem.repairRes.outcome = 3 ∧ t.mem.repairRes.reason = 5 ∧ t.keep = s.keep ∧ t.clus = s.clus ∧ t.flt = s.flt := by
  intro t
  have he : t = (s.modMem fun m => { m with repair := none }).repairPost 3 5 := by simp only [t, State.ungranted, h]
  have hcalm := (s.modMem fun m => { m with repair := none }).calm_repairPost 3 5
  rw [← he] at hcalm
  have hmem := State.mem_of_calm hcalm
  exact ⟨congrArg (·.repair) hmem, congrArg (·.repairRes.outcome) hmem, congrArg (·.repairRes.reason) hmem, (State.keep_of_calm hcalm :),
    (State.clus_of_calm hcalm :), (State.flt_of_calm hcalm :)⟩

theorem State.ungranted_frame : (s.ungranted x).keep = s.keep ∧ (s.ungranted x).clus = s.clus ∧ (s.ungranted x).flt = s.flt := by
  by_cases h : x.kind = 3
  · obtain ⟨-, -, -, hframe⟩ := s.ungranted_repair x h
    exact hframe
  · rw [s.ungranted_other x h]
    exact ⟨rfl, rfl, rfl⟩

end

/-! The writes that ask (R196, R330). -/

/-- The slot that a cluster's spare window addresses, as the entry of its retirement names it. -/
theorem State.slotOf_spare_lt (s : State) (c : CluId) : s.slotOf (128 + c) < 136 := s.slotOf_lt (by omega)

theorem State.cluOfSlot_spare (s : State) (c : CluId) : cluOfSlot (s.slotOf (128 + c) % 256) = c := by
  rw [Nat.mod_eq_of_lt (Nat.lt_trans (s.slotOf_spare_lt c) (by decide))]
  exact (s.slotOf_div _).trans (cluOf_spare c.isLt)

/-- RETIRE asks for the entry of its slot. -/
theorem State.retire_asked {s : State} {c : CluId} (hr : s.retired (s.slotOf (128 + c)) = false) (hb : s.budgetSpent 4 0 = false) :
    s.retire c = (s.modClu c fun x => { x with retRefused := false }).modKeep fun k => { k with
      queue := k.queue ++ [{ kind := 4, obj := BitVec.ofNat 32 (s.slotOf (128 + c)), val := 0 }], rwl := k.rwl.busy } := by
  have hk := s.slotOf_spare_lt c
  have hobj : (BitVec.ofNat 32 (s.slotOf (128 + c))).toNat % 256 = s.slotOf (128 + c) := by
    rw [BitVec.toNat_ofNat]
    omega
  have hb' : s.budgetSpent 4 (s.slotOf (128 + c)) = false := hb
  simp only [State.retire, hr, hb', Bool.false_eq_true, if_false]
  exact State.request_queued hb (fun _ => by rw [hobj, State.retired_modClu _ _ (by intro x; rfl)]; exact hr) 0

/-- RETIRE finds its budget spent: the refusal is posted, and shown in its cluster. -/
theorem State.retire_spent {s : State} {c : CluId} (hr : s.retired (s.slotOf (128 + c)) = false) (hb : s.budgetSpent 4 0 = true) :
    s.retire c = ((s.rwlPost 4 2 1).raiseDev 12 1 0 0).retireRefuse c := by
  have hb' : s.budgetSpent 4 (s.slotOf (128 + c)) = true := hb
  simp only [State.retire, hr, hb', Bool.false_eq_true, if_false, if_true, State.budgetRefuse, State.cluOfSlot_spare]

/-- Settles O39: a write asks for its entry or is refused by its own check, and the end of an append is its entry with what the kind of its change
grants or withholds. -/
theorem ledgerWrites : Obligations.LedgerWrites := by
  unfold Obligations.LedgerWrites
  intro s dt a unasked
  refine ⟨fun c ht => ⟨fun hr => ?_, fun hr hb => ?_, fun hr hb hq => ?_⟩, fun val ht => ?_,
    fun pol ht => ⟨fun hv => ?_, fun hv hb => ?_, fun hv hb hq => ?_⟩, fun x i hq hn => ⟨?_, ?_⟩⟩
  · obtain ⟨hclu, hcalm⟩ := a.retireRefuse_spec c
    have he : a.retire c = a.retireRefuse c := if_pos hr
    exact ⟨_, State.next_hostWrite ht he, congrArg Clu.retRefused hclu, (congrArg State.keep hcalm.1 :), (congrArg Clu.retired hclu :)⟩
  · have hclu := a.clu_modClu_self c fun x => { x with retRefused := false }
    exact ⟨_, State.next_hostWrite ht (State.retire_asked hr hb), (congrArg Clu.retRefused hclu :), (congrArg Clu.retired hclu :), rfl, rfl⟩
  · obtain ⟨hclu, hcalm⟩ := ((a.rwlPost 4 2 1).raiseDev 12 1 0 0).retireRefuse_spec c
    have hclus : ((a.rwlPost 4 2 1).raiseDev 12 1 0 0).clu c = a.clu c := State.clu_at_of_calm (State.calm_raiseDev ..) _
    rw [hclus] at hclu
    exact ⟨_, State.next_hostWrite ht (State.retire_spent hr hb), (congrArg Clu.retRefused hclu :), (congrArg Clu.retired hclu :),
      State.unasked_of_keep ((congrArg State.keep hcalm.1).trans (a.keep_budgetRefuse 4)) hq⟩
  · have hval : BitVec.ofNat 32 val.toNat = val := by simp
    refine ⟨fun hv => State.next_hostWrite ht (if_pos (hval.trans hv)), fun hv hl hb => ?_, fun hv hl hb hq => ?_, fun hv hl => ?_⟩
    · have he : a.writeSubsys val.toNat = a.request 5 0 val.toNat := by
        simp only [State.writeSubsys, hval, hv, Nat.not_le.mpr hl, hb, Nat.mod_eq_of_lt val.isLt, Bool.false_eq_true, if_false]
      rw [State.request_queued hb (fun h4 => absurd h4 (by decide)), BitVec.ofNat_toNat] at he
      exact ⟨_, State.next_hostWrite ht he, rfl, rfl⟩
    · have he : a.writeSubsys val.toNat = (a.rwlPost 5 2 1).raiseDev 12 1 0 0 := by
        simp only [State.writeSubsys, hval, hv, Nat.not_le.mpr hl, hb, if_false, if_true, State.budgetRefuse]
      have hkeep := a.keep_budgetRefuse 5
      exact ⟨_, State.next_hostWrite ht he, (congrArg KeepSt.subsys hkeep :), State.unasked_of_keep hkeep hq⟩
    · exact ⟨_, State.next_hostWrite ht ((if_neg (hval.trans_ne hv)).trans (if_pos hl)), rfl, rfl, rfl, rfl⟩
  · exact State.next_hostWrite ht (if_pos hv)
  · have he : a.writePol pol = a.request 6 0 (b2n pol) := (if_neg hv).trans (if_neg (ne_true_of_eq_false hb))
    rw [State.request_queued hb (fun h4 => absurd h4 (by decide))] at he
    exact ⟨_, State.next_hostWrite ht he, rfl, rfl⟩
  · exact ⟨_, State.next_hostWrite ht ((if_neg hv).trans (if_pos hb)), (congrArg FltSt.pol (State.flt_of_calm (State.calm_raiseDev ..)) :),
      State.unasked_of_keep (a.keep_budgetRefuse 6) hq⟩
  · obtain ⟨u, hends, he⟩ := State.appendDone_verified hq hn
    have hkeep := u.keep_granted x
    refine ⟨_, congrArg Host.Outcome.next he, ?_, ?_, ?_, ?_, ?_, ?_, fun h4 => ?_, fun h4 => (u.clus_granted x h4).trans hends.clus, ?_, ?_⟩
    · rw [hkeep, hends.queue]
    · rw [hkeep, hends.outcome]
    · rw [hkeep, hends.kind]
    · rw [hkeep, hends.entry]
    · rw [hkeep]
      exact hends.others
    · rw [u.mem_granted x, hends.mem]
    · have hclu := u.clu_granted x h4
      rw [show u.clu = a.clu by unfold State.clu; rw [hends.clus]] at hclu
      exact ⟨congrArg Clu.retired hclu, congrArg Clu.retRefused hclu⟩
    · rw [hkeep, hends.subsys]
    · rw [u.pol_granted x, hends.flt]
  · obtain ⟨u, hends, he⟩ := State.appendDone_voided hq hn
    obtain ⟨hkeep, hclus, hflt⟩ := u.ungranted_frame x
    refine ⟨_, congrArg Host.Outcome.next he, ?_, ?_, ?_, ?_, hclus.trans hends.clus, ?_, ?_, fun h3 => ?_⟩
    · rw [hkeep, hends.queue]
    · rw [hkeep, hends.outcome]
    · rw [hkeep, hends.reason]
    · rw [hkeep, hends.entry]
    · rw [hkeep, hends.subsys]
    · rw [hflt, hends.flt]
    · obtain ⟨hnone, hout, hreason, -⟩ := u.ungranted_repair x h3
      exact ⟨hnone, hout, hreason⟩

end Sys2Proof.Machine

namespace Sys2Proof.Machine

/-! ### Host rings: what their operations send and leave alone (O5, O32, O33) -/

/-! Signals (R343). -/

/-- A signal changes the host port's vectors and sends messages, and does nothing else. -/
theorem State.signal_sends (s : State) (off : Nat) : ∃ h more, s.signal off = { s with host := h, out := s.out ++ more } := by
  have kept : ∀ h, ∃ h' more, { s with host := h } = { s with host := h', out := s.out ++ more } := fun h => ⟨h, [], by rw [List.append_nil]⟩
  unfold State.signal
  extract_lets r
  split
  · unfold State.signalVec
    split
    · exact kept _
    · split
      · exact kept _
      · split
        · exact kept _
        · exact ⟨_, [.msix (r % 256)], rfl⟩
  · exact kept s.host

/-- HVS_READY sets its bit of PG_EVT besides. -/
theorem State.hvsFire_sends (s : State) (c : Nat) :
    ∃ h more, s.hvsFire c = { s.latch 4 (16 + c) with host := h, out := s.out ++ more } := (s.latch 4 (16 + c)).signal_sends _

theorem State.hvsFire_out (s : State) (c : Nat) : s.out <+: (s.hvsFire c).out := by
  obtain ⟨h, more, he⟩ := s.hvsFire_sends c
  rw [he]
  exact ⟨more, rfl⟩

/-! A cluster's Harvest. -/

theorem State.hv_modHv_self (s : State) (c : Nat) (f : HvsSt → HvsSt) : (s.modHv c f).hv c = f (s.hv c) :=
  congrArg Clu.hv (s.clu_modClu_self c _)

theorem State.modHv_onlyClu (s : State) (c : Nat) (f : HvsSt → HvsSt) : OnlyClu s (s.modHv c f) c := s.modClu_onlyClu ..

/-- What Harvest holds, apart from its indications and its count of records not yet posted. -/
def HvsSt.contents (h : HvsSt) : HvsSt := { h with backlog := false, ready := false, since := none, coal := false, unposted := 0 }

/-- Of the windows, the clusters, the registers and the FLT page only the Harvest of cluster `c` has changed: it holds what `h` holds. -/
structure Harvests (s t : State) (c : Nat) (h : HvsSt) : Prop where
  contents : (t.hv c).contents = h.contents
  wins : t.wins = s.wins
  regs : t.regs = s.regs
  flt : t.flt = s.flt
  others : ∀ d, d ≠ c → t.clu d = s.clu d

section
variable {s t : State} {c : Nat} {h : HvsSt} (hh : Harvests s t c h)
include hh

theorem Harvests.turn : (t.hv c).turn = h.turn := (congrArg HvsSt.turn hh.contents :)
theorem Harvests.collQ : (t.hv c).collQ = h.collQ := (congrArg HvsSt.collQ hh.contents :)
theorem Harvests.bank : (t.hv c).bank = h.bank := (congrArg HvsSt.bank hh.contents :)
theorem Harvests.stack : (t.hv c).stack = h.stack := (congrArg HvsSt.stack hh.contents :)
theorem Harvests.drops : (t.hv c).drops = h.drops := (congrArg HvsSt.drops hh.contents :)
theorem Harvests.dropAll : (t.hv c).dropAll = h.dropAll := (congrArg HvsSt.dropAll hh.contents :)
theorem Harvests.gaps : (t.hv c).gaps = h.gaps := (congrArg HvsSt.gaps hh.contents :)
theorem Harvests.wr : (t.hv c).wr = h.wr := (congrArg HvsSt.wr hh.contents :)
theorem Harvests.rd : (t.hv c).rd = h.rd := (congrArg HvsSt.rd hh.contents :)
theorem Harvests.consRefused : (t.hv c).consRefused = h.consRefused := (congrArg HvsSt.consRefused hh.contents :)

end

theorem Harvests.trans {s t u : State} {c : Nat} {g h : HvsSt} (h1 : Harvests s t c g) (h2 : Harvests t u c h) : Harvests s u c h :=
  ⟨h2.contents, h2.wins.trans h1.wins, h2.regs.trans h1.regs, h2.flt.trans h1.flt, fun d hd => (h2.others d hd).trans (h1.others d hd)⟩

/-- An update that leaves what Harvest holds. -/
theorem Harvests.then_kept {s t u : State} {c : Nat} {h : HvsSt} (h1 : Harvests s t c h) (h2 : Harvests t u c (t.hv c)) : Harvests s u c h :=
  { h1.trans h2 with contents := h2.contents.trans h1.contents }

theorem Harvests.of_unread {s t : State} (h : t.unread = s.unread) (c : Nat) : Harvests s t c (s.hv c) :=
  ⟨(congrArg (fun x : State => (x.hv c).contents) h :), (congrArg State.wins h :), (congrArg State.regs h :), (congrArg State.flt h :),
    fun d _ => (congrArg (State.clu · d) h :)⟩

theorem Harvests.of_calm {s t : State} (h : t.calm = s.calm) (c : Nat) : Harvests s t c (s.hv c) := .of_unread (State.unread_of_calm h) c

theorem Harvests.of_modHv {s : State} {c : Nat} {f : HvsSt → HvsSt} {h : HvsSt} (hf : (f (s.hv c)).contents = h.contents) :
    Harvests s (s.modHv c f) c h :=
  ⟨(congrArg HvsSt.contents (s.hv_modHv_self c f)).trans hf, rfl, rfl, rfl, (s.modHv_onlyClu c f).2⟩

theorem State.backlog_harvests (s : State) (c : Nat) : Harvests s (s.backlog c) c (s.hv c) := by
  unfold State.backlog
  exact .of_modHv (by simp only [HvsSt.contents])

theorem State.hvsFire_harvests (s : State) (c : Nat) : Harvests s (s.hvsFire c) c (s.hv c) := by
  obtain ⟨h, more, he⟩ := s.hvsFire_sends c
  rw [he]
  exact ⟨rfl, rfl, rfl, rfl, fun _ _ => rfl⟩

theorem State.hvsIndicate_harvests (s : State) (c : Nat) : Harvests s (s.hvsIndicate c) c (s.hv c) := by
  unfold State.hvsIndicate
  extract_lets wm l was now s1
  have h1 : Harvests s s1 c (s.hv c) := .of_modHv rfl
  split
  · exact h1.then_kept (s1.hvsFire_harvests c)
  · exact h1

theorem State.hvsIndicate_out (s : State) (c : Nat) : s.out <+: (s.hvsIndicate c).out := by
  unfold State.hvsIndicate
  extract_lets wm l was now s1
  split
  · exact s1.hvsFire_out c
  · exact ⟨[], List.append_nil _⟩

/-! ### The host advances a ring (O5) -/

/-- The event of a refused read pointer is bit 8 + c of the HST page. -/
theorem State.latchOf_cons (s : State) (c : CluId) : s.latchOf (cluSrc c 7) 1 = some (4, 8 + c.val) := by
  have hl : srcLevel (cluSrc c 7) = 1 := by unfold srcLevel cluSrc; omega
  have hi : srcInst (cluSrc c 7) = c := by unfold srcInst cluSrc; omega
  have hx : srcIdx (cluSrc c 7) = 7 := by unfold srcIdx cluSrc; omega
  simp [State.latchOf, hl, hi, hx]

theorem State.latch_sets (s : State) (p : Nat) {b : Nat} (hb : b < 32) : (Tab.get 0 (s.latch p b).pgEvt p).getLsbD b = true := by
  rw [State.latch, Tab.get_set_self, BitVec.getLsbD_or, BitVec.getLsbD_ofNat, Nat.testBit_two_pow]
  simp [hb]

/-- Places from `r` on to `v` and from `v` on to `wr` in a ring of `m` add up when the way to `v` is no longer than that to `wr`. -/
theorem ring_distance_add {m wr r v : Nat} (hr : r < m) (hv : v < m) (h : (v + m - r) % m ≤ (wr + m - r) % m) :
    (wr + m - v) % m + (v + m - r) % m = (wr + m - r) % m := by
  have hm : 0 < m := by omega
  have hsum : (wr + m - r) % m = ((wr + m - v) % m + (v + m - r) % m) % m := by
    rw [← Nat.add_mod, show wr + m - v + (v + m - r) = wr + m - r + m by omega, Nat.add_mod_right]
  have h1 := Nat.mod_lt (wr + m - v) hm
  have h2 := Nat.mod_lt (v + m - r) hm
  generalize (wr + m - v) % m = x at *
  generalize (v + m - r) % m = y at *
  by_cases hlt : x + y < m
  · rw [hsum, Nat.mod_eq_of_lt hlt]
  · have hge : m ≤ x + y := Nat.le_of_not_lt hlt
    rw [Nat.mod_eq_sub_mod hge, Nat.mod_eq_of_lt (show x + y - m < m by omega)] at hsum
    omega

theorem State.hvsBits_of_regs {s t : State} (h : t.regs = s.regs) (c : Nat) : t.hvsBits c = s.hvsBits c := by
  unfold State.hvsBits State.hvsReg State.dreg State.reg
  rw [h]

/-- A read pointer no further on than the write pointer is taken. -/
theorem State.writeCons_takes {s : State} {c v : Nat} (hv : v < 2 ^ (s.hvsBits c + 1))
    (hd : (v + 2 ^ (s.hvsBits c + 1) - (s.hv c).rd % 2 ^ (s.hvsBits c + 1)) % 2 ^ (s.hvsBits c + 1) ≤ s.hvsLevel c) :
    s.writeCons c v = (s.modHv c fun h => { h with rd := v, consRefused := false }).hvsIndicate c := by
  unfold State.writeCons
  exact if_neg (by simpa using And.intro hv hd)

theorem State.writeCons_refuses {s : State} {c v : Nat} (h : ¬ (v < 2 ^ (s.hvsBits c + 1) ∧
    (v + 2 ^ (s.hvsBits c + 1) - (s.hv c).rd % 2 ^ (s.hvsBits c + 1)) % 2 ^ (s.hvsBits c + 1) ≤ s.hvsLevel c)) :
    s.writeCons c v = (s.modHv c fun h => { h with consRefused := true }).raiseClu c 7 1 0 := by
  unfold State.writeCons
  exact if_pos (by simpa [imp_iff_not_or] using h)

/-- Settles O5: a legal pointer is one update of its ring, whose depth falls as the places add up; a refusal is one flag and its detection. -/
theorem hostAdvancesItsRing : Obligations.HostAdvancesItsRing := by
  unfold Obligations.HostAdvancesItsRing
  intro s dt c val a m d legal ht
  refine ⟨fun ⟨hv, hd⟩ => ?_, fun hbad => ?_⟩
  · have hu : Harvests a _ c { a.hv c with rd := val.toNat, consRefused := false } :=
      (Harvests.of_modHv (f := fun h => { h with rd := val.toNat, consRefused := false }) rfl).then_kept (State.hvsIndicate_harvests ..)
    rw [← State.writeCons_takes hv hd] at hu
    have hlevel : (a.writeCons c val.toNat).hvsLevel c = ((a.hv c).wr + m - val.toNat) % m := by
      rw [State.hvsLevel, State.hvsBits_of_regs hu.regs c, hu.rd, hu.wr, Nat.mod_eq_of_lt hv]
    refine ⟨_, State.next_hostWrite ht rfl, hu.rd, hu.consRefused, ?_, hu.wr, hu.wins, hu.others⟩
    rw [hlevel]
    exact ring_distance_add (Nat.mod_lt _ (Nat.two_pow_pos _)) hv hd
  · set u := a.modHv c fun h => { h with consRefused := true } with hu
    have hcalm : (u.raiseClu c 7 1 0).calm = u.calm := State.calm_raiseClu ..
    obtain ⟨hclu, honly⟩ := CalmClu.of_calm hcalm
    refine ⟨_, State.next_hostWrite ht (State.writeCons_refuses hbad), congrArg Clu.hv hclu, ?_, honly⟩
    rw [State.raiseClu, State.pgEvt_raise (u.latchOf_cons c)]
    exact u.latch_sets 4 (by omega)

end Sys2Proof.Machine

namespace Sys2Proof.Machine

/-! ### The registers and posts of a host ring (O33) -/

theorem State.clu_modHv_self (s : State) (c : Nat) (f : HvsSt → HvsSt) : (s.modHv c f).clu c = { s.clu c with hv := f (s.hv c) } :=
  s.clu_modClu_self c _

theorem State.hv_hvsFire (s : State) (c d : Nat) : (s.hvsFire c).hv d = s.hv d := by
  obtain ⟨h, more, he⟩ := s.hvsFire_sends c
  rw [he]
  rfl

theorem State.hvsPost_posts {s : State} {c : Nat} (ha : bit (s.hvsReg c 0x08) 0 = true) (hi : s.canIssue = true) (hu : (s.hv c).unposted ≠ 0) :
    s.hvsPost c =
      (s.modHv c fun h => { h with unposted := 0 }).emit (.write (bits (s.hvsReg c 0x08) 3 61 * 8) (bytesOf (s.hv c).wr 8)) :=
  if_pos (by simp [ha, hi, hu])

/-- What HVS_RING stores of a written value: all but its reserved bits. -/
def ringWord (v : Nat) : Nat := bits v 0 6 + bits v 12 52 * 4096

theorem ringWord_lt (v : Nat) : ringWord v < 2 ^ 64 := by
  have h0 := bits_lt v 0 6
  have h12 := bits_lt v 12 52
  unfold ringWord
  omega

/-- HVS_RING is refused for a SIZE out of range, and for another SIZE or BASE of a ring that is on (R214). -/
def ringIllegal (v old : Nat) : Prop :=
  bits v 1 5 < 6 ∨ 22 < bits v 1 5 ∨ (bit old 0 = true ∧ (bits v 1 5 ≠ bits old 1 5 ∨ bits v 12 52 ≠ bits old 12 52))

section
variable {s : State} {c v : Nat}

theorem State.writeHvsRing_refuses (h : ringIllegal v (s.hvsReg c 0)) : s.writeHvsRing c v = s.hvsRefuse c := by
  unfold State.writeHvsRing
  exact if_pos (by simpa [ringIllegal, or_assoc] using h)

/-- A legal value is stored, and a ring that it turns on starts empty. -/
theorem State.writeHvsRing_stores (h : ¬ ringIllegal v (s.hvsReg c 0)) : s.writeHvsRing c v =
    let u := (s.setReg (pageAddr 4 (hvsOff c 0)) (ringWord v)).hvsAccept c
    if bit v 0 && !bit (s.hvsReg c 0) 0 then
      u.modHv c fun h => { h with wr := 0, rd := 0, unposted := 0, ready := false, since := none, coal := false }
    else u := by
  unfold State.writeHvsRing
  exact if_neg (by simpa [ringIllegal, or_assoc] using h)

end

/-- Since `a`, HVS_RING of ring `c` has taken `v`: its register and the Harvest of its cluster alone have changed. -/
def RingStored (a t : State) (c v : Nat) : Prop :=
  t.hvsReg c 0 = ringWord v ∧ (∀ x, x ≠ pageAddr 4 (hvsOff c 0) → t.reg x = a.reg x) ∧ t = { a with clus := t.clus, regs := t.regs } ∧
    t.clu c = { a.clu c with hv := t.hv c } ∧ ∀ d, d ≠ c → t.clu d = a.clu d

theorem RingStored.modHv {a t : State} {c v : Nat} (h : RingStored a t c v) (f : HvsSt → HvsSt) : RingStored a (t.modHv c f) c v := by
  obtain ⟨hreg, hregs, hall, hclu, hothers⟩ := h
  refine ⟨hreg, hregs, ?_, ?_, fun d hd => ((t.modHv_onlyClu c f).2 d hd).trans (hothers d hd)⟩
  · exact congrArg (fun x : State => { x with clus := (t.modHv c f).clus }) hall
  · rw [t.clu_modHv_self, t.hv_modHv_self, hclu]

theorem State.hvsAccept_stored (s : State) (c v : Nat) : let t := (s.setReg (pageAddr 4 (hvsOff c 0)) (ringWord v)).hvsAccept c
    RingStored s t c v ∧ t.hv c = { s.hv c with cfgRefused := false } :=
  ⟨RingStored.modHv ⟨s.reg_setReg_self _ (ringWord_lt v), (s.setReg_onlyReg ..).2, rfl, rfl, fun _ _ => rfl⟩ _, State.hv_modHv_self ..⟩

/-- HVS_READY's second condition fires once its time is over. -/
theorem State.hvsCoal_fires {s : State} {c t0 : Nat} (ht : (s.hv c).since = some t0) (h0 : bits (s.hvsReg c 0x18) 16 16 ≠ 0)
    (hc : (s.hv c).coal = false) (hn : t0 + bits (s.hvsReg c 0x18) 16 16 * us ≤ s.now) :
    s.hvsCoal c = (s.modHv c fun h => { h with coal := true }).hvsFire c := by
  unfold State.hvsCoal
  rw [ht]
  exact if_pos (by simp [h0, hc, hn])

theorem State.hvsCoal_fired {s : State} {c t0 : Nat} (ht : (s.hv c).since = some t0) (hc : (s.hv c).coal = true) : s.hvsCoal c = s := by
  unfold State.hvsCoal
  rw [ht]
  exact if_neg (by simp [hc])

/-- Settles O33: a post, a refusal, a stored ring and the second condition of HVS_READY are one update each of the ring's Harvest. -/
theorem hostRingRegisters : Obligations.HostRingRegisters := by
  unfold Obligations.HostRingRegisters
  intro s dt c a h
  refine ⟨fun ha hi hu => ?_, fun val ht => ?_, fun t0 hs => ?_⟩
  · exact ⟨_, congrArg Host.Outcome.next (State.hvsPost_posts ha hi hu), rfl, (a.hv_modHv_self c fun h => { h with unposted := 0 } :), rfl⟩
  · intro v old illegal
    refine ⟨fun hill => ?_, ?_⟩
    · exact ⟨_, State.next_hostWrite ht (State.writeHvsRing_refuses hill), State.hv_modHv_self .., State.modHv_onlyClu ..⟩
    obtain ⟨hst, hhv⟩ := a.hvsAccept_stored c v
    intro stored
    refine ⟨fun hleg hon hoff => ?_, fun hleg hor => ?_⟩
    · have he := (State.writeHvsRing_stores hleg).trans (if_pos (by simp [v, old, hon, hoff]))
      refine ⟨_, State.next_hostWrite ht he, hst.modHv _, (State.hv_modHv_self ..).trans ?_⟩
      rw [hhv]
    · have he := (State.writeHvsRing_stores hleg).trans (if_neg (by simpa [or_iff_not_imp_left] using hor))
      exact ⟨_, State.next_hostWrite ht he, hst, hhv⟩
  · refine ⟨fun h0 hc hn => ?_, fun hc => congrArg Host.Outcome.next (State.hvsCoal_fired hs hc)⟩
    have hhv := (State.hv_hvsFire _ c c).trans (a.hv_modHv_self c fun h => { h with coal := true })
    exact ⟨_, congrArg Host.Outcome.next (State.hvsCoal_fires hs h0 hc hn), hhv, (State.hvsFire_harvests ..).wins⟩

end Sys2Proof.Machine

namespace Sys2Proof.Machine

/-! ### Harvest's inputs, its staging and the window rings (O32) -/

/-! A record enters staging, or is dropped there (R213, R272). -/

theorem State.setWs_harvests (s : State) (m : List Host.Cell) (c : Nat) : Harvests s (s.setWs m) c (s.hv c) :=
  ⟨rfl, rfl, rfl, rfl, fun _ _ => rfl⟩

theorem State.setStack_harvests (s : State) (m : List Host.Cell) (c : Nat) : Harvests s (s.setStack m) c (s.hv c) :=
  ⟨rfl, rfl, rfl, rfl, fun _ _ => rfl⟩

theorem State.emit_harvests (s : State) (o : Out) (c : Nat) : Harvests s (s.emit o) c (s.hv c) :=
  ⟨rfl, rfl, rfl, rfl, fun _ _ => rfl⟩

/-- Staging with one more record: behind the bank ring while the stack ring is empty and it has room, else behind the stack ring. -/
def HvsSt.put (h : HvsSt) (r : Rec) : HvsSt :=
  if h.stack.isEmpty && decide (h.bank.length < 16384) then { h with bank := h.bank ++ [r], bankWr := h.bankWr + 1 }
  else { h with stack := h.stack ++ [r], stackWr := h.stackWr + 1 }

/-- Either way the record stands behind all that wait in staging. -/
theorem HvsSt.put_behind (h : HvsSt) (r : Rec) : (h.put r).bank ++ (h.put r).stack = h.bank ++ h.stack ++ [r] := by
  unfold HvsSt.put
  split
  · next hb =>
    have hs : h.stack = [] := by simp_all
    simp [hs]
  · simp

theorem HvsSt.put_rest (h : HvsSt) (r : Rec) :
    (h.put r).turn = h.turn ∧ (h.put r).collQ = h.collQ ∧ (h.put r).drops = h.drops ∧ (h.put r).gaps = h.gaps := by
  unfold HvsSt.put
  split <;> exact ⟨rfl, rfl, rfl, rfl⟩

theorem State.stagePut_harvests (s : State) (c : Nat) (r : Rec) : Harvests s (s.stagePut c r) c ((s.hv c).put r) := by
  unfold State.stagePut
  extract_lets h s1
  have h1 : Harvests s s1 c ((s.hv c).put r) := by
    unfold HvsSt.put
    dsimp only [s1]
    split
    · exact (s.setWs_harvests _ c).trans (.of_modHv rfl)
    · exact (s.setStack_harvests _ c).trans (.of_modHv rfl)
  exact h1.then_kept (s1.backlog_harvests c)

/-- Harvest with one more record dropped in staging. -/
def HvsSt.drop (h : HvsSt) (r : Rec) : HvsSt := { h with drops := h.drops.add r, dropAll := (h.dropAll + 1) % 2 ^ 48 }

theorem State.calm_stageDrop (s : State) (c : Nat) (r : Rec) : (s.stageDrop c r).calm = (s.modHv c (·.drop r)).calm := by
  unfold State.stageDrop
  extract_lets first s1
  split
  · exact State.calm_raiseClu ..
  · rfl

theorem State.stageDrop_harvests (s : State) (c : Nat) (r : Rec) : Harvests s (s.stageDrop c r) c ((s.hv c).drop r) :=
  (Harvests.of_modHv rfl).then_kept (.of_calm (s.calm_stageDrop c r) c)

/-- A record spoilt in staging is dropped there, and nothing is sent. -/
theorem State.stageSpoil_drops (s : State) (c : Nat) (r : Rec) (firstBad : Bool) : ∃ r',
    Harvests s (s.stageSpoil c r firstBad) c ((s.hv c).drop r') ∧ (s.stageSpoil c r firstBad).out = s.out :=
  ⟨_, (s.stageDrop_harvests c _).then_kept (State.backlog_harvests ..), (State.out_of_calm (s.calm_stageDrop c _) :)⟩

/-! Room in staging (R213, R276). -/

section
variable {s : State} {c : Nat}

theorem State.touchBank_on {b : Nat} (h : s.bankOn b = true) : s.touchBank b = s := if_pos (by simp [h])

theorem State.bankOn_of_stagingFree (h : 1 < s.stagingFree c) : s.bankOn (stageBank c) = true := by
  by_contra hb
  simp [State.stagingFree, hb] at h

theorem State.stageGap_none (h : (s.hv c).drops.first = none) : s.stageGap c = s := by
  unfold State.stageGap
  rw [h]

theorem State.stageGap_ends {t0 : Nat} (h : (s.hv c).drops.first = some t0) (hfree : 1 < s.stagingFree c) (hopen : s.stageOpen c 1 = true) :
    s.stageGap c = (s.stagePut c (mkRec 5 4 none (cluSrc c 0x1C) t0 (s.hv c).drops.payload)).modHv c fun h =>
      { h with drops := {}, gaps := satInc 65535 h.gaps } := by
  unfold State.stageGap
  rw [h]
  exact if_neg (by simpa [hopen] using hfree)

/-- Out of an episode of drops a record with room enters staging. -/
theorem State.stagePush_puts (h : (s.hv c).drops.first = none) (hfree : 1 < s.stagingFree c) (r : Rec) : s.stagePush c r = s.stagePut c r := by
  unfold State.stagePush
  rw [State.touchBank_on (State.bankOn_of_stagingFree hfree), State.stageGap_none h]
  exact if_neg (Nat.not_le.mpr hfree)

end

/-! A record enters a window ring (R261 to R263). -/

/-- The window ring's pointers and phase after one more record. -/
def CwSt.push (x : CwSt) : CwSt :=
  if x.phase = 1 then
    if x.pre = 0 then x else { x with wr := x.wr + 1, rd := if x.pre < x.wr + 1 - x.rd then x.rd + 1 else x.rd }
  else { x with wr := x.wr + 1, postHeld := x.postHeld + 1, phase := if x.phase = 2 ∧ x.postEff ≤ x.postHeld + 1 then 3 else x.phase }

theorem State.win_modCw_self (s : State) (w : Nat) (f : CwSt → CwSt) : (s.modCw w f).win w = { s.win w with cw := f (s.cw w) } :=
  (s.win_modWin ..).trans (if_pos rfl)

theorem State.modCw_onlyWin (s : State) (w : Nat) (f : CwSt → CwSt) : OnlyWin s (s.modCw w f) w := s.modWin_onlyWin ..

/-- Since `a`, of the windows only the window capture of `w` has changed, to `x`, and else no more than traces of detections. -/
def CwBecomes (a t : State) (w : Nat) (x : CwSt) : Prop := t.win w = { a.win w with cw := x } ∧ CalmWin a t w

theorem State.modCw_becomes (s : State) (w : Nat) (f : CwSt → CwSt) : CwBecomes s (s.modCw w f) w (f (s.cw w)) :=
  ⟨s.win_modCw_self w f, .of_onlyWin (s.modCw_onlyWin w f) rfl⟩

theorem CwBecomes.trans {a t u : State} {w : Nat} {x y : CwSt} (h1 : CwBecomes a t w x) (h2 : CwBecomes t u w y) : CwBecomes a u w y :=
  ⟨h2.1.trans (by rw [h1.1]), h1.2.trans h2.2⟩

theorem State.winDone_becomes (s : State) (w : Nat) : CwBecomes s (s.winDone w) w
    { s.cw w with phase := if (s.cw w).phase = 2 ∧ (s.cw w).postEff ≤ (s.cw w).postHeld then 3 else (s.cw w).phase } := by
  unfold State.winDone
  extract_lets x
  by_cases hx : x.phase = 2 ∧ x.postEff ≤ x.postHeld
  · rw [if_pos (by simpa using hx), if_pos hx]
    obtain ⟨hwin, hcalm⟩ := s.modCw_becomes w fun x => { x with phase := 3 }
    have hr : ((s.modCw w fun x => { x with phase := 3 }).raiseCh w 8 4 0).calm = _ := State.calm_raiseCh ..
    exact ⟨(State.win_at_of_calm hr w).trans hwin, .of_onlyWin (s.modCw_onlyWin ..) hr⟩
  · rw [if_neg (by simpa using hx), if_neg hx]
    exact ⟨rfl, .refl s w⟩

theorem State.winPush_becomes (s : State) (w : Nat) (r : Rec) :
    CwBecomes (s.setStack (Memory.store s.stackMem (s.acqBase w + 32 * ((s.cw w).wr % max (s.cw w).cap 1)) (recBytes (recPhase r false))))
      (s.winPush w r) w (s.cw w).push := by
  unfold State.winPush CwSt.push
  extract_lets x slot s1
  by_cases hp : x.phase = 1
  · rw [if_pos hp, if_pos hp]
    split
    · exact s1.modCw_becomes ..
    · exact s1.modCw_becomes ..
  · rw [if_neg hp, if_neg hp]
    have h1 := s1.modCw_becomes w fun x => { x with wr := x.wr + 1, postHeld := x.postHeld + 1 }
    have hcw := congrArg Win.cw h1.1
    have h2 := h1.trans (State.winDone_becomes _ w)
    rw [State.cw_eq, hcw] at h2
    exact h2


/-! The inputs (R212). -/

/-- The oldest record of input `i` has left it since `a`, the pointer has passed the input, and no other cluster has changed. -/
def Served (a t : State) (c i : Nat) (r : Rec) : Prop :=
  (i < 17 → (t.cp (inputWin c i)).recQ = (a.cp (inputWin c i)).recQ.tail) ∧
  (17 ≤ i → i < 34 → (t.st (inputWin c i)).buf = (a.st (inputWin c i)).buf.tail) ∧
  (i = 34 → (t.hv c).collQ = (a.hv c).collQ.erase r) ∧ (i = 35 → t.flt.devQ = a.flt.devQ.erase r) ∧ (t.hv c).turn = (i + 1) % 36 ∧
  ∀ d, d ≠ c → t.clu d = a.clu d

/-- Since `a` the oldest record `r` of input `i` has left it, and with it nothing else of the windows' rings, the clusters and the state but FULLISH
and traces of detections. -/
structure Pops (a p : State) (c i : Nat) (r : Rec) : Prop where
  recQ : i < 17 → (p.cp (inputWin c i)).recQ = (a.cp (inputWin c i)).recQ.tail
  buf : 17 ≤ i → i < 34 → (p.st (inputWin c i)).buf = (a.st (inputWin c i)).buf.tail
  collQ : i = 34 → (p.hv c).collQ = (a.hv c).collQ.erase r
  devQ : i = 35 → p.flt.devQ = a.flt.devQ.erase r
  others : ∀ d, d ≠ c → p.clu d = a.clu d
  hv : p.hv c = { a.hv c with collQ := (p.hv c).collQ }
  cw : ∀ v, p.cw v = a.cw v
  rest : p.calm = { a.calm with wins := p.wins, clus := p.clus, flt := p.flt }

theorem Pops.of_calm {a p t : State} {c i : Nat} {r : Rec} (hp : Pops a p c i r) (h : t.calm = p.calm) : Pops a t c i r where
  recQ hi := (congrArg (·.cp.recQ) (State.win_at_of_calm h _)).trans (hp.recQ hi)
  buf h17 hi := (congrArg (·.st.buf) (State.win_at_of_calm h _)).trans (hp.buf h17 hi)
  collQ hi := (congrArg (·.hv.collQ) (State.clu_at_of_calm h c)).trans (hp.collQ hi)
  devQ hi := (congrArg (·.devQ) (State.flt_of_calm h)).trans (hp.devQ hi)
  others d hd := (State.clu_at_of_calm h d).trans (hp.others d hd)
  hv := by
    have hc : t.hv c = p.hv c := congrArg Clu.hv (State.clu_at_of_calm h c)
    rw [hc]
    exact hp.hv
  cw v := (congrArg Win.cw (State.win_at_of_calm h v)).trans (hp.cw v)
  rest := by
    rw [h, State.wins_of_calm h, State.clus_of_calm h, State.flt_of_calm h]
    exact hp.rest

/-- A state that differs from the one that the record has left in none of what `Served` speaks of, but for the pointer. -/
theorem Pops.served {a p t : State} {c i : Nat} {r : Rec} (h : Pops a p c i r) (hcp : t.cp (inputWin c i) = p.cp (inputWin c i))
    (hst : t.st (inputWin c i) = p.st (inputWin c i)) (hcoll : (t.hv c).collQ = (p.hv c).collQ) (hturn : (t.hv c).turn = (i + 1) % 36)
    (hflt : t.flt = p.flt) (hothers : ∀ d, d ≠ c → t.clu d = p.clu d) : Served a t c i r := by
  unfold Served
  rw [hcp, hst, hcoll, hturn, hflt]
  exact ⟨h.recQ, h.buf, h.collQ, h.devQ, rfl, fun d hd => (hothers d hd).trans (h.others d hd)⟩

theorem State.calm_fullish (s : State) (w : Nat) : ∃ b, (s.fullish w).calm = (s.modSt w fun x => { x with fullish := b }).calm := by
  unfold State.fullish
  extract_lets x wm n now s1
  refine ⟨now, ?_⟩
  split
  · exact State.calm_raiseCh ..
  · rfl

@[simp] theorem State.cw_modCp (s : State) (w v : Nat) (f : CapSt → CapSt) : (s.modCp w f).cw v = s.cw v := by
  rw [State.modCp_eq, State.cw_modWin]
  split
  · next h => rw [← h]; rfl
  · rfl

@[simp] theorem State.cw_modSt (s : State) (w v : Nat) (f : StpSt → StpSt) : (s.modSt w f).cw v = s.cw v := by
  rw [State.modSt_eq, State.cw_modWin]
  split
  · next h => rw [← h]; rfl
  · rfl

theorem State.st_modSt_self (s : State) (w : Nat) (f : StpSt → StpSt) : (s.modSt w f).st w = f (s.st w) :=
  congrArg Win.st ((s.win_modWin ..).trans (if_pos rfl))

section
variable {a : State} {c i : Nat} {r : Rec}

theorem State.pops_queue (hi : i < 17) : Pops a (a.inputPop c i) c i r := by
  rw [State.inputPop, if_pos hi]
  refine ⟨fun _ => ?_, by omega, by omega, by omega, fun _ _ => rfl, rfl, fun v => a.cw_modCp .., rfl⟩
  exact congrArg CapSt.recQ (a.cp_modCp_self (inputWin c i) fun x => { x with recQ := x.recQ.tail })

theorem State.pops_buffer (h17 : 17 ≤ i) (hi : i < 34) : Pops a (a.inputPop c i) c i r := by
  rw [State.inputPop, if_neg (by omega), if_pos hi]
  set u := a.modSt (inputWin c i) fun x => { x with buf := x.buf.tail, popNow := noteMove x.popNow a.now 1 }
  obtain ⟨b, hb⟩ := u.calm_fullish (inputWin c i)
  refine Pops.of_calm ?_ hb
  refine ⟨by omega, fun _ _ => ?_, by omega, by omega, fun _ _ => rfl, rfl, fun v => ?_, rfl⟩
  · rw [State.st_modSt_self]
    exact congrArg StpSt.buf (a.st_modSt_self ..)
  · exact (u.cw_modSt ..).trans (a.cw_modSt ..)

theorem State.pops_collector (hi : i = 34) (hr : a.inputHead c i = some r) : Pops a (a.inputPop c i) c i r := by
  subst hi
  have hhead : a.collHead c [] (a.hv c).collQ = some r := hr
  have hpop : a.inputPop c 34 = a.modHv c fun h => { h with collQ := a.collTail c h.collQ } := rfl
  rw [hpop]
  refine ⟨by omega, by omega, fun _ => ?_, by omega, (State.modHv_onlyClu ..).2, ?_, fun v => rfl, rfl⟩
  · rw [State.hv_modHv_self]
    simp [State.collTail, hhead]
  · rw [State.hv_modHv_self]

theorem State.pops_device (hi : i = 35) (hr : a.inputHead c i = some r) : Pops a (a.inputPop c i) c i r := by
  subst hi
  have hhead : a.collHead c [] a.flt.devQ = some r := by
    have hr' : (if a.dreg 4 0x600 % 8 = c then a.collHead c [] a.flt.devQ else none) = some r := hr
    exact (Option.ite_none_right_eq_some.mp hr').2
  refine ⟨by omega, by omega, by omega, fun _ => ?_, fun _ _ => rfl, rfl, fun v => rfl, rfl⟩
  show a.collTail c a.flt.devQ = _
  simp [State.collTail, hhead]

/-- The record that input `i` holds leaves it. -/
theorem State.pops (hi : i < 36) (hr : a.inputHead c i = some r) : Pops a (a.inputPop c i) c i r := by
  rcases Nat.lt_or_ge i 17 with h17 | h17
  · exact State.pops_queue h17
  rcases Nat.lt_or_ge i 34 with h34 | h34
  · exact State.pops_buffer h17 h34
  rcases Nat.eq_or_lt_of_le h34 with h34 | h35
  · exact State.pops_collector h34.symm hr
  · exact State.pops_device (by omega) hr

end

/-! One turn of the engine. -/

/-- The pointer of the round robin passes input `i`. -/
def State.passes (s : State) (c i : Nat) : State := s.modHv c fun h => { h with turn := (i + 1) % 36 }

theorem State.hv_passes (s : State) (c i : Nat) : (s.passes c i).hv c = { s.hv c with turn := (i + 1) % 36 } := State.hv_modHv_self ..

section
variable {a p : State} {c i : Nat} {r : Rec}

theorem Pops.passes_hv (h : Pops a p c i r) : (p.passes c i).hv c = { a.hv c with collQ := (p.hv c).collQ, turn := (i + 1) % 36 } := by
  rw [State.hv_passes, h.hv]

theorem Pops.stagingFree (h : Pops a p c i r) : (p.passes c i).stagingFree c = a.stagingFree c := by
  have hmem : (p.passes c i).mem = a.mem := (congrArg State.mem h.rest :)
  have hregs : (p.passes c i).regs = a.regs := (congrArg State.regs h.rest :)
  have hnow : (p.passes c i).now = a.now := (congrArg State.now h.rest :)
  unfold State.stagingFree State.bankOn State.bankState State.destructive State.dreg State.reg HvsSt.staged
  rw [h.passes_hv, hmem, hregs, hnow]

/-- A served record that enters staging. -/
theorem Pops.stagePush (h : Pops a p c i r) (hd : (a.hv c).drops.first = none) (hfree : 1 < a.stagingFree c) :
    let t := (p.passes c i).stagePush c r
    Served a t c i r ∧ (t.hv c).bank ++ (t.hv c).stack = (a.hv c).bank ++ (a.hv c).stack ++ [r] ∧ (t.hv c).drops = (a.hv c).drops := by
  intro t
  set q := p.passes c i
  have hq : q.hv c = _ := h.passes_hv
  have ht : Harvests q t c ((q.hv c).put r) := by
    have hput : t = q.stagePut c r := State.stagePush_puts (by rw [hq]; exact hd) (h.stagingFree ▸ hfree) r
    rw [hput]
    exact q.stagePut_harvests c r
  obtain ⟨hturn, hcoll, hdrops, -⟩ := (q.hv c).put_rest r
  have hwin : ∀ v, t.win v = q.win v := fun v => congrArg (Tab.get ({} : Win) · v) ht.wins
  refine ⟨h.served (congrArg Win.cp (hwin _)) (congrArg Win.st (hwin _)) ?_ ?_ ht.flt
    fun d hd => (ht.others d hd).trans ((p.modHv_onlyClu ..).2 d hd), ?_, ?_⟩
  · rw [ht.collQ, hcoll, hq]
  · rw [ht.turn, hturn, hq]
  · rw [ht.bank, ht.stack, HvsSt.put_behind, hq]
  · rw [ht.drops, hdrops, hq]

/-- A served record that enters its pin's window ring. -/
theorem Pops.winPush (h : Pops a p c i r) : let v := inputWin c i
    let t := (p.passes c i).winPush v r
    Served a t c i r ∧ (t.hv c).bank = (a.hv c).bank ∧ (t.hv c).stack = (a.hv c).stack ∧ t.cw v = (a.cw v).push ∧
      t.stackMem = Memory.store a.stackMem (a.acqBase v + 32 * ((a.cw v).wr % max (a.cw v).cap 1)) (recBytes (recPhase r false)) := by
  intro v t
  set q := p.passes c i
  obtain ⟨hwin, hcalm, -⟩ := q.winPush_becomes v r
  have hcw : q.cw v = a.cw v := h.cw v
  have hclus : t.clus = q.clus := (congrArg State.clus hcalm :)
  have hhv : t.hv c = q.hv c := congrArg (fun x => (Tab.get ({} : Clu) x c).hv) hclus
  have hq : q.hv c = _ := h.passes_hv
  have hbase : q.acqBase v = a.acqBase v := by
    have hregs : q.regs = a.regs := (congrArg State.regs h.rest :)
    unfold State.acqBase State.acqMib State.wreg State.reg
    rw [hregs]
  have hmem : q.stackMem = a.stackMem := (congrArg State.stackMem h.rest :)
  have hothers : ∀ d, d ≠ c → t.clu d = p.clu d := fun d hd =>
    (congrArg (Tab.get ({} : Clu) · d) hclus).trans ((p.modHv_onlyClu ..).2 d hd)
  refine ⟨h.served (congrArg Win.cp hwin :) (congrArg Win.st hwin :) ?_ ?_ (congrArg State.flt hcalm :) hothers, ?_, ?_, ?_, ?_⟩
  · rw [hhv, hq]
  · rw [hhv, hq]
  · rw [hhv, hq]
  · rw [hhv, hq]
  · rw [← hcw]
    exact congrArg Win.cw hwin
  · rw [← hcw, ← hbase, ← hmem]
    exact (congrArg State.stackMem hcalm :)

end

section
variable {s : State} {c i : Nat} {r : Rec}
  (hfind : ((List.range 36).map fun k => ((s.hv c).turn + k) % 36).find? (fun k => (s.inputHead c k).isSome) = some i)
  (hr : s.inputHead c i = some r)
include hfind

theorem inputOrder_lt : i < 36 := by
  obtain ⟨k, -, rfl⟩ := List.mem_map.mp (List.mem_of_find?_eq_some hfind)
  exact Nat.mod_lt _ (by decide)

include hr

theorem State.harvest_waits (h : s.destOpen c i r = false) : s.harvest c = s := by
  simp [State.harvest, hfind, hr, h]

theorem State.harvest_serves (h : s.destOpen c i r = true) : s.harvest c =
    if s.toWindow c i r then ((s.inputPop c i).passes c i).winPush (inputWin c i) r else ((s.inputPop c i).passes c i).stagePush c r := by
  simp only [State.harvest, hfind, hr, h, Bool.not_true, Bool.false_eq_true, if_false]
  rfl

end

theorem State.harvest_idle {s : State} {c : Nat} (h : ∀ i < 36, s.inputHead c i = none) : s.harvest c = s := by
  have hfind : ((List.range 36).map fun k => ((s.hv c).turn + k) % 36).find? (fun k => (s.inputHead c k).isSome) = none := by
    rw [List.find?_eq_none]
    intro i hi
    obtain ⟨k, -, rfl⟩ := List.mem_map.mp hi
    simp [h _ (Nat.mod_lt _ (by decide))]
  simp [State.harvest, hfind]


/-! Records move through staging to the host ring (R213, R214, R272). -/

theorem State.hv_of_unread {s t : State} (h : s.unread = t.unread) (c : Nat) : s.hv c = t.hv c := congrArg (·.hv c) h

/-- The GAP record of an episode of drops enters staging, and the episode is over. -/
theorem State.stageGap_harvests {s : State} {c t0 : Nat} (h : (s.hv c).drops.first = some t0) (hfree : 1 < s.stagingFree c)
    (hopen : s.stageOpen c 1 = true) :
    let r := mkRec 5 4 none (cluSrc c 0x1C) t0 (s.hv c).drops.payload
    Harvests s (s.stageGap c) c { (s.hv c).put r with drops := {}, gaps := satInc 65535 (s.hv c).gaps } := by
  intro r
  have hput := s.stagePut_harvests c r
  obtain ⟨-, -, -, hgaps⟩ := (s.hv c).put_rest r
  rw [State.stageGap_ends h hfree hopen, ← hgaps]
  exact hput.trans (.of_modHv (congrArg (fun x : HvsSt => { x with drops := {}, gaps := satInc 65535 x.gaps }) hput.contents :))

/-- A record has been read out of staging since `s`: the Harvest of cluster `c` is `h`, and beside that no more has changed than correction and
detections leave. -/
structure ReadsOut (s v : State) (c : Nat) (h : HvsSt) : Prop where
  hv : v.hv c = h
  harvests : Harvests s v c h
  stackMem : v.stackMem = s.stackMem
  out : v.out = s.out

theorem ReadsOut.of_unread {s u : State} (hu : u.unread = s.unread) (c : Nat) (f : HvsSt → HvsSt) : ReadsOut s (u.modHv c f) c (f (s.hv c)) := by
  have hhv := State.hv_of_unread hu c
  refine ⟨?_, (Harvests.of_unread hu c).trans (.of_modHv ?_), (congrArg State.stackMem hu :), (congrArg State.out hu :)⟩
  · rw [State.hv_modHv_self, hhv]
  · rw [hhv]

section
variable {s : State} {c : Nat} {r : Rec} {rest : List Rec} {firstBad : Bool} {ecc : Ecc}

/-! The bank ring is refilled from the stack ring. -/

section
variable (hs : (s.hv c).stack = r :: rest) (hlen : (s.hv c).bank.length < 16384) (hb : s.bankOn (stageBank c) = true)
  (hon : s.stackOn (c / 4) = true)
include hs hlen hb hon

theorem State.refill_reads : ∃ v, ReadsOut s v c { s.hv c with stack := rest } ∧ s.refill c ecc firstBad =
    if ecc = .bad then v.stageSpoil c r firstBad
    else (v.setWs (Memory.store v.wsMem (stageBankBase c + 32 * ((s.hv c).bankWr % 16384)) (recBytes r))).modHv c fun h =>
      { h with bank := h.bank ++ [r], bankWr := h.bankWr + 1 } := by
  refine ⟨_, .of_unread (s.unread_eccStackSeen ecc (stagingBase c + 32 * (((s.hv c).stackWr - (s.hv c).stack.length) % 16777216)) 2) c
    fun h => { h with stack := rest }, ?_⟩
  unfold State.refill
  simp only [hs, hb, hon, Nat.not_le.mpr hlen, Bool.not_true, Bool.or_false, decide_false, Bool.false_eq_true, if_false]

theorem State.refill_moves (he : ecc ≠ .bad) :
    Harvests s (s.refill c ecc firstBad) c { s.hv c with stack := rest, bank := (s.hv c).bank ++ [r], bankWr := (s.hv c).bankWr + 1 } ∧
      (s.refill c ecc firstBad).stackMem = s.stackMem := by
  obtain ⟨v, hv, hre⟩ := State.refill_reads (ecc := ecc) (firstBad := firstBad) hs hlen hb hon
  rw [hre, if_neg he]
  refine ⟨(hv.harvests.trans (v.setWs_harvests _ c)).trans (.of_modHv ?_), hv.stackMem⟩
  exact congrArg (fun h : HvsSt => { h with bank := h.bank ++ [r], bankWr := h.bankWr + 1 }.contents) hv.hv

theorem State.refill_spoils (he : ecc = .bad) :
    ∃ r', Harvests s (s.refill c ecc firstBad) c (HvsSt.drop { s.hv c with stack := rest } r') := by
  obtain ⟨v, hv, hre⟩ := State.refill_reads (ecc := ecc) (firstBad := firstBad) hs hlen hb hon
  obtain ⟨r', hd, -⟩ := v.stageSpoil_drops c r firstBad
  rw [hre, if_pos he]
  exact ⟨r', hv.harvests.trans (hv.hv ▸ hd)⟩

end

/-! Staging's oldest record is written into the host ring. -/

theorem State.hvsPost_harvests (s : State) (c : Nat) : Harvests s (s.hvsPost c) c (s.hv c) := by
  unfold State.hvsPost
  extract_lets a
  split
  · exact Harvests.then_kept (h := s.hv c) (.of_modHv rfl) (State.emit_harvests ..)
  · exact .of_calm rfl c

theorem State.hvsPost_out (s : State) (c : Nat) : s.out <+: (s.hvsPost c).out := by
  unfold State.hvsPost
  extract_lets a
  split
  · exact ⟨_, rfl⟩
  · exact ⟨[], List.append_nil _⟩

/-- The end of a write into ring `c`: its indications, and a post when 64 records wait for one (R214, R216). -/
def State.ringWritten (s : State) (c : Nat) : State :=
  let u := (s.backlog c).hvsIndicate c
  if 64 ≤ (u.hv c).unposted then u.hvsPost c else u

theorem State.ringWritten_harvests (s : State) (c : Nat) : Harvests s (s.ringWritten c) c (s.hv c) := by
  have hu := (s.backlog_harvests c).then_kept (State.hvsIndicate_harvests ..)
  unfold State.ringWritten
  extract_lets u
  split
  · exact hu.then_kept (u.hvsPost_harvests c)
  · exact hu

theorem State.ringWritten_out (s : State) (c : Nat) : s.out <+: (s.ringWritten c).out := by
  have hu : s.out <+: ((s.backlog c).hvsIndicate c).out := (s.backlog c).hvsIndicate_out c
  unfold State.ringWritten
  extract_lets u
  split
  · exact hu.trans (u.hvsPost_out c)
  · exact hu

/-- The write of record `r` to the slot at the write pointer of host ring `c`. -/
def State.slotWrite (s : State) (c : Nat) (r : Rec) : Out :=
  .write (bits (s.hvsReg c 0) 12 52 * 4096 + 32 * ((s.hv c).wr % 2 ^ s.hvsBits c)) (recBytes (recPhase r (!bit (s.hv c).wr (s.hvsBits c))))

section
variable (hs : (s.hv c).bank = r :: rest) (hen : bit (s.hvsReg c 0) 0 = true) (hi : s.canIssue = true)
  (hb : s.bankOn (stageBank c) = true) (hl : s.hvsLevel c < 2 ^ s.hvsBits c)
include hs hen hi hb hl

theorem State.ringWrite_reads : ∃ v, ReadsOut s v c { s.hv c with bank := rest, popNow := noteMove (s.hv c).popNow s.now 1 } ∧
    s.ringWrite c ecc firstBad =
      if ecc = .bad then v.stageSpoil c r firstBad
      else ((v.emit (s.slotWrite c r)).modHv c fun h =>
        { h with wr := (h.wr + 1) % 2 ^ (s.hvsBits c + 1), unposted := h.unposted + 1 }).ringWritten c := by
  refine ⟨_, .of_unread (s.unread_eccBankSeen ecc (stageBankBase c + 32 * (((s.hv c).bankWr - (s.hv c).bank.length) % 16384)) 2) c
    fun h => { h with bank := rest, popNow := noteMove h.popNow s.now 1 }, ?_⟩
  unfold State.ringWrite
  simp only [hs, hen, hi, hb, Nat.not_le.mpr hl, Bool.not_true, Bool.or_false, decide_false, Bool.false_eq_true, if_false]
  rfl

theorem State.ringWrite_writes (he : ecc ≠ .bad) :
    Harvests s (s.ringWrite c ecc firstBad) c { s.hv c with
      bank := rest, popNow := noteMove (s.hv c).popNow s.now 1, wr := ((s.hv c).wr + 1) % 2 ^ (s.hvsBits c + 1) } ∧
    ∃ more, (s.ringWrite c ecc firstBad).out = s.out ++ s.slotWrite c r :: more := by
  obtain ⟨v, hv, hre⟩ := State.ringWrite_reads (ecc := ecc) (firstBad := firstBad) hs hen hi hb hl
  rw [hre, if_neg he]
  set u := (v.emit (s.slotWrite c r)).modHv c fun h => { h with wr := (h.wr + 1) % 2 ^ (s.hvsBits c + 1), unposted := h.unposted + 1 }
  have hu : Harvests s u c { s.hv c with
      bank := rest, popNow := noteMove (s.hv c).popNow s.now 1, wr := ((s.hv c).wr + 1) % 2 ^ (s.hvsBits c + 1) } :=
    (hv.harvests.trans (v.emit_harvests _ c)).trans
      (.of_modHv (congrArg (fun h : HvsSt => { h.contents with wr := (h.wr + 1) % 2 ^ (s.hvsBits c + 1) }) hv.hv))
  refine ⟨hu.then_kept (u.ringWritten_harvests c), ?_⟩
  obtain ⟨more, hmore⟩ := u.ringWritten_out c
  refine ⟨more, hmore.symm.trans ?_⟩
  have hout : u.out = s.out ++ [s.slotWrite c r] := congrArg (· ++ [s.slotWrite c r]) hv.out
  rw [hout, List.append_assoc, List.singleton_append]

theorem State.ringWrite_spoils (he : ecc = .bad) : (s.ringWrite c ecc firstBad).out = s.out ∧
    ∃ r', Harvests s (s.ringWrite c ecc firstBad) c
      (HvsSt.drop { s.hv c with bank := rest, popNow := noteMove (s.hv c).popNow s.now 1 } r') := by
  obtain ⟨v, hv, hre⟩ := State.ringWrite_reads (ecc := ecc) (firstBad := firstBad) hs hen hi hb hl
  obtain ⟨r', hd, hout⟩ := v.stageSpoil_drops c r firstBad
  rw [hre, if_pos he]
  exact ⟨hout.trans hv.out, r', hv.harvests.trans (hv.hv ▸ hd)⟩

end

end

/-! The window ring's state after a record, by its phase. -/

theorem CwSt.push_pre_none {x : CwSt} (h : x.phase = 1) (hp : x.pre = 0) : x.push = x := by
  unfold CwSt.push
  rw [if_pos h, if_pos hp]

theorem CwSt.push_pre {x : CwSt} (h : x.phase = 1) (hp : x.pre ≠ 0) :
    x.push = { x with wr := x.wr + 1, rd := if x.pre < x.wr + 1 - x.rd then x.rd + 1 else x.rd } := by
  unfold CwSt.push
  rw [if_pos h, if_neg hp]

theorem CwSt.push_post {x : CwSt} (h : x.phase = 2) :
    x.push = { x with wr := x.wr + 1, postHeld := x.postHeld + 1, phase := if x.postEff ≤ x.postHeld + 1 then 3 else 2 } := by
  simp [CwSt.push, h]

/-- A record stored reads back whole, and no byte beside it has changed. -/
theorem Memory.store_rec (m : List Host.Cell) (slot : Nat) (r : Rec) : Memory.load (Memory.store m slot (recBytes r)) slot 32 = recBytes r ∧
    ∀ y, (y < slot ∨ slot + 32 ≤ y) → Memory.read (Memory.store m slot (recBytes r)) y = Memory.read m y := by
  have hlen : (recBytes r).length = 32 := length_bytesOf ..
  refine ⟨?_, fun y hy => ?_⟩
  · have hload := Memory.load_store m slot (recBytes r)
    rwa [hlen] at hload
  · rcases hy with hy | hy
    · exact Memory.read_store_below _ _ _ _ hy
    · exact Memory.read_store_above _ _ _ _ (hlen ▸ hy)

/-- Settles O32: a served input's record leaves it, then enters staging or the window ring; a record that moves on is read out of staging, and
what reads it is a write behind the bank ring, a write to the host ring or a drop. -/
theorem harvestReachesTheHost : Obligations.HarvestReachesTheHost := by
  unfold Obligations.HarvestReachesTheHost
  refine ⟨⟨fun s dt c i r => ?_, fun s dt c => ?_, fun s dt c t0 => ?_⟩,
    ⟨fun s dt c ecc firstBad r rest => ?_, fun s dt c ecc firstBad r rest => ?_⟩⟩
  · intro a v hfind hr gone
    have hpops := State.pops (inputOrder_lt hfind) hr
    refine ⟨fun hclosed => ?_, fun hopen hwin hdrops hfree => ?_, fun hopen hwin => ?_⟩
    · exact congrArg Host.Outcome.next (State.harvest_waits hfind hr hclosed)
    · have he := (State.harvest_serves hfind hr hopen).trans (if_neg (by simp [hwin]))
      exact ⟨_, congrArg Host.Outcome.next he, hpops.stagePush hdrops hfree⟩
    · intro x slot
      have he := (State.harvest_serves hfind hr hopen).trans (if_pos hwin)
      obtain ⟨hserved, hbank, hstack, hcw, hmem⟩ := hpops.winPush
      obtain ⟨hload, hothers⟩ := Memory.store_rec a.stackMem slot (recPhase r false)
      refine ⟨_, congrArg Host.Outcome.next he, hserved, hbank, hstack, ?_, ?_, fun h1 h0 => ?_, fun h1 h0 => ?_, fun h2 => ?_⟩
      · rw [hmem]
        exact hload
      · rw [hmem]
        exact hothers
      · exact hcw.trans (CwSt.push_pre_none h1 h0)
      · exact hcw.trans (CwSt.push_pre h1 h0)
      · exact hcw.trans (CwSt.push_post h2)
  · exact fun hidle => congrArg Host.Outcome.next (State.harvest_idle hidle)
  · intro a hfirst hfree hopen
    have ht := State.stageGap_harvests hfirst hfree hopen
    refine ⟨_, mkRec 5 4 none (cluSrc c 0x1C) t0 (a.hv c).drops.payload, rfl, ?_, recType_mkRec .., ht.drops, ht.gaps, ht.wins, ht.others⟩
    rw [ht.bank, ht.stack]
    exact HvsSt.put_behind ..
  · intro a hs hlen hb hon
    refine ⟨fun he => ?_, fun he => ?_⟩
    · obtain ⟨ht, hmem⟩ := State.refill_moves (firstBad := firstBad) hs hlen hb hon he
      exact ⟨_, rfl, ht.stack, ht.bank, ht.wins, hmem, ht.others⟩
    · obtain ⟨r', ht⟩ := State.refill_spoils (firstBad := firstBad) hs hlen hb hon he
      exact ⟨_, rfl, ht.stack, ht.bank, ht.dropAll, ht.others⟩
  · intro a k hs hen hi hb hl
    refine ⟨fun he => ?_, fun he => ?_⟩
    · obtain ⟨ht, more, hout⟩ := State.ringWrite_writes (firstBad := firstBad) hs hen hi hb hl he
      exact ⟨_, more, rfl, hout, ht.bank, ht.wr, ht.wins, ht.others⟩
    · obtain ⟨hout, r', ht⟩ := State.ringWrite_spoils (firstBad := firstBad) hs hen hi hb hl he
      exact ⟨_, rfl, hout, ht.bank, ht.wr, ht.dropAll, ht.others⟩

end Sys2Proof.Machine

namespace Sys2Proof.Machine

/-! ### Stampers: what their operations leave of a window (O28) -/

/-- A detection that is called back leaves no more than traces of detections. -/
theorem State.calm_withdraw (s : State) (src code t : Nat) : (s.withdraw src code t).calm = s.calm := rfl

/-- Since `a`, the stamper of window `w` has become `x`, and nothing has changed but that window and traces of detections. -/
structure StBecomes (a t : State) (w : Nat) (x : StpSt) : Prop where
  st : t.st w = x
  calm : CalmWin a t w

theorem State.modSt_onlyWin (s : State) (w : Nat) (f : StpSt → StpSt) : OnlyWin s (s.modSt w f) w := s.modWin_onlyWin ..

namespace StBecomes

theorem refl (s : State) (w : Nat) : StBecomes s s w (s.st w) := ⟨rfl, .refl s w⟩

section
variable {a t : State} {w : Nat} {x : StpSt} (h : StBecomes a t w x)
include h

theorem of_calm {u : State} (hu : u.calm = t.calm) : StBecomes a u w x :=
  ⟨(congrArg Win.st (State.win_at_of_calm hu w)).trans h.st, h.calm.trans (.of_onlyWin ⟨rfl, fun _ _ => rfl⟩ hu)⟩

theorem modSt (f : StpSt → StpSt) : StBecomes a (t.modSt w f) w (f x) :=
  ⟨(t.st_modSt_self w f).trans (congrArg f h.st), h.calm.trans (.of_onlyWin (t.modSt_onlyWin w f) rfl)⟩

/-- An occurrence for the window's trigger engine leaves its stamper. -/
theorem engOccur (src sel code at_ bound : Nat) : StBecomes a (t.engOccur w src sel code at_ bound) w x :=
  ⟨(congrArg Win.st ((t.win_modWin ..).trans (if_pos rfl))).trans h.st, h.calm.trans (.of_onlyWin (t.modWin_onlyWin ..) rfl)⟩

/-- FULLISH follows the buffer (R234). -/
theorem fullish : ∃ b, StBecomes a (t.fullish w) w { x with fullish := b } := by
  obtain ⟨b, hb⟩ := t.calm_fullish w
  exact ⟨b, (h.modSt _).of_calm hb⟩

end

end StBecomes

/-- The stamper as an accepted write of its page leaves it. -/
def StpSt.accepted (x : StpSt) : StpSt := { x with refused := false, reason := 0 }

theorem State.stpAccept_becomes (s : State) (w : Nat) : StBecomes s (s.stpAccept w) w (s.st w).accepted := (StBecomes.refl s w).modSt _

theorem State.stpRefuse_becomes (s : State) (w reason : Nat) :
    StBecomes s (s.stpRefuse w reason) w { s.st w with refused := true, reason := reason } :=
  ((StBecomes.refl s w).modSt _).of_calm (State.calm_raiseCh ..)

theorem State.mode_stpAccept (s : State) (w : Nat) : (s.stpAccept w).mode w = s.mode w := congrArg (·.md.mode) (s.view_modSt ..)

/-- A loss waits for its GAP record, whatever else of the stamper changes. -/
theorem State.lossRec_modSt {s : State} {w : Nat} {f : StpSt → StpSt} (h : (f (s.st w)).loss = (s.st w).loss) :
    (s.modSt w f).lossRec w = s.lossRec w := by
  have hl : ((s.modSt w f).st w).loss = (s.st w).loss := (congrArg StpSt.loss (s.st_modSt_self w f)).trans h
  unfold State.lossRec
  rw [hl]
  rfl

/-! Arming (R233, R235 to R237). -/

section
variable {s : State} {w t cause : Nat}

theorem State.stampArmAt_armed (h : (s.st w).isArmed t = true) : s.stampArmAt w t cause = s := if_pos (by simp [h])

section
variable (h : (s.st w).isArmed t = false) (ho : (s.st w).offT ≠ some t)
include h ho

theorem State.stampArmAt_off (hm : s.mode w = .off) : s.stampArmAt w t cause = s.stpRefuse w 3 :=
  (if_neg (by simp [h, ho])).trans (if_pos hm)

theorem State.stampArmAt_unselected (hm : s.mode w ≠ .off) (he : s.stpEdge w = 0) : s.stampArmAt w t cause = s.stpRefuse w 4 :=
  (if_neg (by simp [h, ho])).trans ((if_neg hm).trans (if_pos he))

/-- An arming that is accepted starts the numbering anew; the loss before it goes to the stage as a GAP record. -/
theorem State.stampArmAt_arms (hm : s.mode w ≠ .off) (he : s.stpEdge w ≠ 0) : ∃ x, StBecomes s (s.stampArmAt w t cause) w x ∧
    x.armed = true ∧ x.armCause = cause ∧ x.armT = t ∧ x.num = 0 ∧ x.merged = 0 ∧ x.refused = (s.st w).refused ∧
    x.stage = (s.st w).stage ++ s.lossRec w ∧ x.loss = none ∧ x.buf = (s.st w).buf := by
  have hacts : s.stampArmAt w t cause = _ := (if_neg (by simp [h, ho])).trans ((if_neg hm).trans (if_neg he))
  rw [hacts]
  exact ⟨_, ((StBecomes.refl s w).modSt _).of_calm (State.calm_raiseAt ..), rfl, rfl, rfl, rfl, rfl, rfl, rfl, rfl, rfl⟩

end

/-! Disarming (R235, R236, R238). -/

theorem State.stampDisarmAt_idle (h : (s.st w).isArmed t = false) : s.stampDisarmAt w t cause = s.modSt w fun x => { x with offT := some t } :=
  if_pos (by simp [h])

/-- A disarming notes its GT, and calls back the event of one before it that has not come into effect. -/
theorem State.disarmNoted_becomes (s : State) (w t src : Nat) :
    StBecomes s (if (s.st w).armed then s.modSt w fun x => { x with offT := some t }
      else (s.modSt w fun x => { x with offT := some t }).withdraw src 1 (s.st w).disarmT) w { s.st w with offT := some t } := by
  have h := (StBecomes.refl s w).modSt fun x => { x with offT := some t }
  split
  · exact h
  · exact h.of_calm (State.calm_withdraw ..)

theorem State.stampDisarmAt_ends (h : (s.st w).isArmed t = true) (hn : ¬ ((s.st w).armed = true ∧ (s.st w).armT = t)) :
    StBecomes s (s.stampDisarmAt w t cause) w { s.st w with armed := false, disarmCause := cause, disarmT := t, offT := some t } := by
  have hends : s.stampDisarmAt w t cause = _ := (if_neg (by simp [h])).trans (if_neg (by simpa using hn))
  rw [hends]
  exact ((s.disarmNoted_becomes w t (chSrc (s.slotOf w) 7)).modSt _).of_calm (State.calm_raiseAt ..)

/-- A discarded arming gives back what it replaced. -/
theorem StBecomes.stampUnarm {a u : State} {x : StpSt} (hu : StBecomes a u w x) : ∃ y, StBecomes a (u.stampUnarm w t) w y ∧
    y.armed = false ∧ y.armCause = x.was.armCause ∧ y.armT = x.was.armT ∧ y.disarmCause = x.disarmCause := by
  have hwas : (u.st w).was = x.was := congrArg StpSt.was hu.st
  unfold State.stampUnarm
  rw [hwas]
  extract_lets r s1
  have hcalm (c : Bool) (p : Nat) (m : BitVec 32) : (if c then s1 else s1.unlatch p m).calm = s1.calm := by
    split
    · rfl
    · exact State.calm_unlatch ..
  exact ⟨_, ((hu.modSt _).of_calm (State.calm_withdraw ..)).of_calm (hcalm ..), rfl, rfl, rfl, rfl⟩

theorem State.stampDisarmAt_discards (h : (s.st w).armed = true) (ht : (s.st w).armT = t) :
    ∃ y, StBecomes s (s.stampDisarmAt w t cause) w y ∧ y.armed = false ∧ y.armCause = (s.st w).was.armCause ∧ y.armT = (s.st w).was.armT ∧
      y.disarmCause = (s.st w).disarmCause := by
  have hdiscards : s.stampDisarmAt w t cause = _ := (if_neg (by simp [h, StpSt.isArmed])).trans (if_pos (by simp [h, ht]))
  rw [hdiscards]
  exact (s.disarmNoted_becomes w t (chSrc (s.slotOf w) 7)).stampUnarm

end

/-! Edges (R226, R230 to R233, R235, R238). -/

section
variable {s : State} {w : Nat} {rising counted : Bool}

theorem State.edgeAt_ignored (h : s.exchanging w = true ∨ bit (s.stpEdge w) (if rising then 0 else 1) = false ∨
    (s.st w).takes (s.stampTime w rising) counted = false) : s.edgeAt w rising counted = s := if_pos (by simpa [or_assoc] using h)

/-- With GATE free and no prescaler, every edge that is taken meets the dead-time test; it is noted as the latest selected and counted. -/
theorem State.edgeAt_meetsDeadTime (hx : s.exchanging w = false) (hsel : bit (s.stpEdge w) (if rising then 0 else 1) = true)
    (ht : (s.st w).takes (s.stampTime w rising) counted = true) (hts : s.stpTs w = false) (hp : s.stpP w = 0) :
    ∃ u, s.edgeAt w rising counted = u.deadTime w (s.stampTime w rising) rising none ∧ OnlyWin s u w ∧
      u.st w = { s.st w with rawT := some (s.stampTime w rising), presc := (s.st w).presc + 1 } := by
  set g := s.stampTime w rising
  set u := (s.modSt w fun x => { x with rawT := some g }).modSt w fun x => { x with presc := (s.st w).presc + 1 }
  have hedge : s.edgeAt w rising counted = s.edgeFree w g rising counted := (if_neg (by simp [hx, hsel, ht, g])).trans (if_neg (by simp [hts]))
  have hfree : s.edgeFree w g rising counted = u.deadTime w g rising none :=
    (if_neg (by simp [hp])).trans (if_pos (by rw [hp]; exact Nat.mod_one _))
  refine ⟨u, hedge.trans hfree, (s.modSt_onlyWin ..).trans (State.modSt_onlyWin ..), ?_⟩
  rw [State.st_modSt_self, State.st_modSt_self]

variable {t : Nat} {vec : Option Nat}

theorem State.deadTime_merges (h : (s.st w).dead t = true) : s.deadTime w t rising vec = s.modSt w fun x =>
    { x with merged := x.merged + 1, mergedAll := satInc (2 ^ 32 - 1) x.mergedAll } := if_pos h

theorem State.deadTime_numbers (h : (s.st w).dead t = false) : s.deadTime w t rising vec = s.numberEdge w t rising vec := if_neg (by simp [h])

/-- With no LIMIT an edge takes the next number, and its stamp a place of the stage where one is free. -/
theorem State.numberEdge_numbers (hl : s.wreg w 8 0x044 = 0) : ∃ x, StBecomes s (s.numberEdge w t rising vec) w x ∧
    x.num = (s.st w).num + 1 ∧ x.lastT = some t ∧ x.merged = 0 ∧ x.armed = (s.st w).armed ∧
    x.stage.length = (if (s.st w).staged < 4 then (s.st w).stage.length + 1 else (s.st w).stage.length) := by
  unfold State.numberEdge
  extract_lets x payload r full s1 s2 limit
  have h2 : s2.calm = s1.calm := by
    dsimp only [s2]
    split
    · exact State.calm_raiseCh ..
    · rfl
  rw [if_neg (by simp [limit, hl])]
  refine ⟨_, ((StBecomes.refl s w).modSt _).of_calm h2, rfl, rfl, rfl, rfl, ?_⟩
  by_cases hroom : x.staged < 4
  · have hfull : full = false := by simp [full, hroom]
    simp [hfull, x, hroom]
  · have hfull : full = true := by simp [full, not_lt.mp hroom]
    simp [hfull, x, hroom]

end

/-! The stage and the local buffer (R232, R233). -/

section
variable {s : State} {w : Nat} {r : Rec} {rest : List Rec}

theorem State.lossGap_becomes (s : State) (w : Nat) :
    StBecomes s (s.lossGap w) w { s.st w with buf := (s.st w).buf ++ s.lossRec w, loss := none } := (StBecomes.refl s w).modSt _

/-- A stamp that is due moves behind what the buffer holds, and behind the GAP of a loss while the stamper is armed. -/
theorem State.transfer_stamp (hs : (s.st w).stage = r :: rest) (hr : recType r ≠ 5) (hdue : ∀ m, (s.st w).moveT = some m → m + 1024 ≤ s.t)
    (hroom : (s.st w).buf.length + movedNow (s.st w).popNow s.now < 4096) : ∃ x, StBecomes s (s.transfer w) w x ∧ x.stage = rest ∧
      x.buf = (s.st w).buf ++ (if (s.st w).isArmed s.t then s.lossRec w else []) ++ [r] ∧ x.moveT = some s.t ∧
      x.stamps = satInc (2 ^ 32 - 1) (s.st w).stamps ∧ x.armed = (s.st w).armed := by
  unfold State.transfer
  extract_lets x held due
  have hd : due = true := by
    dsimp only [due]
    split
    · next m hm => exact decide_eq_true (hdue m hm)
    · rfl
  rw [hs]
  dsimp only
  rw [if_neg hr, if_pos (by simpa [hd] using hroom)]
  obtain ⟨y, hy, hbuf, hstamps, harmed⟩ : ∃ y, StBecomes s (if x.isArmed s.t then s.lossGap w else s) w y ∧
      y.buf = x.buf ++ (if x.isArmed s.t then s.lossRec w else []) ∧ y.stamps = x.stamps ∧ y.armed = x.armed := by
    split
    · exact ⟨_, s.lossGap_becomes w, rfl, rfl, rfl⟩
    · exact ⟨_, .refl s w, (List.append_nil _).symm, rfl, rfl⟩
  obtain ⟨b, hb⟩ := ((hy.modSt _).engOccur 7 (bits r.toNat 160 2) 0 (recTime r) 2048).fullish
  refine ⟨_, hb, rfl, ?_, rfl, ?_, harmed⟩
  · exact congrArg (· ++ [r]) hbuf
  · exact congrArg (satInc (2 ^ 32 - 1)) hstamps

theorem State.transfer_gap (hs : (s.st w).stage = r :: rest) (hr : recType r = 5)
    (hroom : (s.st w).buf.length + movedNow (s.st w).popNow s.now < 4097) :
    ∃ x, StBecomes s (s.transfer w) w x ∧ x.stage = rest ∧ x.buf = (s.st w).buf ++ [r] := by
  unfold State.transfer
  dsimp only
  rw [hs]
  dsimp only
  rw [if_pos hr, if_pos hroom]
  obtain ⟨b, hb⟩ := ((StBecomes.refl s w).modSt fun x => { x with stage := rest, buf := x.buf ++ [r] }).fullish
  exact ⟨_, hb, rfl, rfl⟩

/-- The loss of a disarmed stamper becomes its GAP record once the stage is empty. -/
theorem State.lostGapNow_enters {l : Nat × Nat} (ha : (s.st w).isArmed s.t = false) (hs : (s.st w).stage = []) (hl : (s.st w).loss = some l)
    (hroom : (s.st w).buf.length + movedNow (s.st w).popNow s.now < 4097) :
    ∃ x g, StBecomes s (s.lostGapNow w) w x ∧ x.buf = (s.st w).buf ++ [g] ∧ x.loss = none ∧ recType g = 5 := by
  have henters : s.lostGapNow w = (s.lossGap w).fullish w := if_pos (by simp [ha, hs, hl, hroom])
  have hrec : s.lossRec w = [s.winRec w 5 5 0x1D l.2 (pack [(0, 32, min (2 ^ 32 - 1) l.1)])] := by simp only [State.lossRec, hl]
  obtain ⟨b, hb⟩ := (s.lossGap_becomes w).fullish
  rw [henters]
  exact ⟨_, _, hb, congrArg ((s.st w).buf ++ ·) hrec, rfl, recType_mkRec ..⟩

end

/-- Settles O28: each command and event of a stamper acts by its own conditions, on that stamper and its window alone. -/
theorem stampersArmAndStamp : Obligations.StampersArmAndStamp := by
  unfold Obligations.StampersArmAndStamp
  refine ⟨fun s dt w => ?_, fun s dt w => ?_⟩
  · intro a x ht
    obtain ⟨hst, hcalm⟩ := a.stpAccept_becomes w
    have honly : OnlyWin a (a.stpAccept w) w := a.modSt_onlyWin ..
    have hmode := a.mode_stpAccept w
    have hloss : (a.stpAccept w).lossRec w = a.lossRec w := State.lossRec_modSt rfl
    set u := a.stpAccept w
    have harmed : (u.st w).isArmed u.t = x.isArmed a.t := by rw [hst]; rfl
    have hoff : (u.st w).offT = x.offT := by rw [hst]; rfl
    refine ⟨fun hn ho => ⟨fun hm he => ?_, fun hm => ?_, fun hm he => ?_⟩, fun hy => ?_, fun hy hn => ?_, fun hy hg => ?_, fun hn => ?_⟩
    · obtain ⟨y, ⟨rfl, hc⟩, h⟩ := State.stampArmAt_arms (cause := 1) (harmed.trans hn) (hoff.trans_ne ho) (hmode.trans_ne hm) he
      rw [hst, hloss] at h
      obtain ⟨h1, h2, h3, h4, h5, h6, h7, h8, h9⟩ := h
      exact ⟨_, State.next_hostWrite ht rfl, h1, h2, h3, h4, h5, h6, h7, h8, h9, hcalm.trans hc⟩
    · obtain ⟨hy, hc⟩ := u.stpRefuse_becomes w 3
      rw [hst] at hy
      exact ⟨_, State.next_hostWrite ht (State.stampArmAt_off (harmed.trans hn) (hoff.trans_ne ho) (hmode.trans hm)), hy, hcalm.trans hc⟩
    · obtain ⟨hy, hc⟩ := u.stpRefuse_becomes w 4
      rw [hst] at hy
      exact ⟨_, State.next_hostWrite ht (State.stampArmAt_unselected (harmed.trans hn) (hoff.trans_ne ho) (hmode.trans_ne hm) he), hy,
        hcalm.trans hc⟩
    · exact ⟨_, State.next_hostWrite ht (State.stampArmAt_armed (harmed.trans hy)), hst, honly⟩
    · obtain ⟨hz, hc⟩ := State.stampDisarmAt_ends (cause := 1) (harmed.trans hy) (by rw [hst]; exact hn)
      rw [hst] at hz
      exact ⟨_, State.next_hostWrite ht rfl, hz, hcalm.trans hc⟩
    · obtain ⟨y, ⟨rfl, hc⟩, h⟩ := State.stampDisarmAt_discards (s := u) (t := u.t) (cause := 1)
        (by rw [hst]; exact hy) (by rw [hst]; exact hg)
      rw [hst] at h
      obtain ⟨h1, h2, h3, h4⟩ := h
      exact ⟨_, State.next_hostWrite ht rfl, h1, h2, h3, h4, hcalm.trans hc⟩
    · refine ⟨_, State.next_hostWrite ht (State.stampDisarmAt_idle (harmed.trans hn)), ?_, honly.trans (State.modSt_onlyWin ..)⟩
      rw [State.st_modSt_self, hst]
      rfl
  · intro a x held
    refine ⟨fun rising counted => ?_, fun r rest hs => ⟨fun hr hdue hroom => ?_, fun hr hroom => ?_⟩, fun l hn hs hl hroom => ?_⟩
    · intro g sel
      refine ⟨fun h => congrArg Host.Outcome.next (State.edgeAt_ignored h), fun hx hsel htakes hts hp => ?_⟩
      obtain ⟨u, hedge, honly, hst⟩ := State.edgeAt_meetsDeadTime hx hsel htakes hts hp
      have hdead : (u.st w).dead g = x.dead g := by rw [hst]; rfl
      refine ⟨fun hd hlimit => ?_, fun hd => ?_⟩
      · have hreg : u.wreg w 8 0x044 = 0 := (congrArg (·.wreg w 8 0x044) honly.1).trans hlimit
        obtain ⟨y, ⟨rfl, hc⟩, h⟩ := State.numberEdge_numbers (t := g) (rising := rising) (vec := none) hreg
        rw [hst] at h
        obtain ⟨h1, h2, h3, h4, h5⟩ := h
        have he := hedge.trans (State.deadTime_numbers (hdead.trans hd))
        exact ⟨_, congrArg Host.Outcome.next he, h1, h2, h3, h4, h5, (CalmWin.of_onlyWin honly rfl).trans hc⟩
      · have he := hedge.trans (State.deadTime_merges (hdead.trans hd))
        refine ⟨_, congrArg Host.Outcome.next he, ?_, ?_, ?_, ?_, honly.trans (State.modSt_onlyWin ..)⟩
        all_goals rw [State.st_modSt_self, hst]
    · obtain ⟨y, ⟨rfl, hc⟩, hstage, hbuf, hmove, hstamps, harmed⟩ := State.transfer_stamp hs hr hdue hroom
      exact ⟨_, rfl, hstage, hbuf, hmove, hstamps, harmed, hc⟩
    · obtain ⟨y, ⟨rfl, hc⟩, hstage, hbuf⟩ := State.transfer_gap hs hr hroom
      exact ⟨_, rfl, hstage, hbuf, hc⟩
    · obtain ⟨y, g, ⟨rfl, hc⟩, hbuf, hloss, hg⟩ := State.lostGapNow_enters hn hs hl hroom
      exact ⟨_, g, rfl, hbuf, hloss, hg, hc⟩

end Sys2Proof.Machine

namespace Sys2Proof.Machine

/-! ### A disarming whose MINMAX record finds the queue full reports the drop (O31) -/

/-- A serviceable part whose window 0 has its reduction armed since GT 0, with one sample in the interval in progress, its parametric unit on, and its
pin's record queue filled up to the place kept for the GAP (R211). -/
def reducingIntoFullQueue : State :=
  { State.reset with
    gtRun := true, t := 1000, now := 1000, dev := { porLow := false, bringup := 5 }
    regs := [(pageAddr (winPage 0 6) 0x040, 2)]
    wins := [(0, { rd := { armed := true, armCause := 1, n := 1, t0 := 500 }, cp := { recQ := List.replicate 255 0 } })] }

/-- The disarming there sends a detection on its way: the record of the interval that it ends was dropped. -/
theorem reducingIntoFullQueue_disarm :
    exec (.redDisarm 0 0) reducingIntoFullQueue = .next ((reducingIntoFullQueue.advance 0).redCmd 0 2) ∧
    ((reducingIntoFullQueue.advance 0).redCmd 0 2).flight ≠ (reducingIntoFullQueue.advance 0).flight :=
  ⟨State.next_hostWrite (by decide +kernel) rfl, by decide +kernel⟩

/-- Refutes O31: a DISARM ends the interval in progress with its MINMAX record (R260), and where the pin's record queue is full that record is dropped
and the drop reported (R211), so a detection is on its way; the statement has nothing change but the window, traces of detections included. -/
theorem not_reductionAndWindow : ¬ Obligations.ReductionAndWindow := by
  unfold Obligations.ReductionAndWindow
  intro h
  obtain ⟨-, -, h, -⟩ := h reducingIntoFullQueue 0 0 (by decide +kernel)
  obtain ⟨t, he, -, -, -, -, -, hrest, -⟩ := h (by decide +kernel) (by decide +kernel)
  obtain ⟨hexec, hflight⟩ := reducingIntoFullQueue_disarm
  have ht : t = (reducingIntoFullQueue.advance 0).redCmd 0 2 := Host.Outcome.next.inj (he.symm.trans hexec)
  rw [← ht] at hflight
  exact hflight (congrArg State.flight hrest :)

end Sys2Proof.Machine

namespace Sys2Proof.Machine

/-! ### The trigger engine's commands, inputs and timers (O29) -/

/-- Since `a`, the trigger engine of window `w` has become `x`, and nothing has changed but that window and traces of detections. -/
structure EnBecomes (a t : State) (w : Nat) (x : EngSt) : Prop where
  en : t.en w = x
  calm : CalmWin a t w

theorem State.modEn_onlyWin (s : State) (w : Nat) (f : EngSt → EngSt) : OnlyWin s (s.modEn w f) w := s.modWin_onlyWin ..

theorem State.win_modEn_self (s : State) (w : Nat) (f : EngSt → EngSt) : (s.modEn w f).win w = { s.win w with en := f (s.en w) } :=
  (s.win_modWin ..).trans (if_pos rfl)

theorem State.en_modEn_self (s : State) (w : Nat) (f : EngSt → EngSt) : (s.modEn w f).en w = f (s.en w) := congrArg Win.en (s.win_modEn_self w f)

/-- An update of the window's engine, with the detections that it makes. -/
theorem EnBecomes.of_modEn {s t : State} {w : Nat} {f : EngSt → EngSt} (h : t.calm = (s.modEn w f).calm) : EnBecomes s t w (f (s.en w)) :=
  ⟨(congrArg Win.en (State.win_at_of_calm h w)).trans (s.en_modEn_self w f), .of_onlyWin (s.modEn_onlyWin w f) h⟩

/-! START and STOP (R256). -/

/-- The engine as an accepted write of its registers leaves it. -/
def EngSt.accepted (e : EngSt) : EngSt := { e with refused := false, reason := 0 }

/-- The engine as it starts at `t` in state `init` with the timers `tmr`. -/
def EngSt.started (e : EngSt) (init t : Nat) (tmr : Tab (Option Nat)) : EngSt :=
  { e with running := true, state := init, cnt := [], flags := 0, tmr := tmr, ins := insFrom t e.ins, transitions := 0 }

theorem State.en_engAccept (s : State) (w : Nat) : (s.engAccept w).en w = (s.en w).accepted := s.en_modEn_self ..

theorem State.engAccept_onlyWin (s : State) (w : Nat) : OnlyWin s (s.engAccept w) w := s.modEn_onlyWin ..

theorem State.engRefuse_becomes (s : State) (w reason : Nat) :
    EnBecomes s (s.engRefuse w reason) w { s.en w with refused := true, reason := reason } :=
  .of_modEn (f := fun e => { e with refused := true, reason := reason }) (State.calm_raiseCh ..)

@[simp] theorem State.calm_engHit (s : State) (w state t : Nat) : (s.engHit w state t).calm = s.calm := by
  unfold State.engHit
  extract_lets cfg src
  split
  · exact State.calm_raiseAt ..
  · rfl

theorem State.engStart_becomes (s : State) (w t : Nat) :
    ∃ tmr, EnBecomes s (s.engStart w t) w ((s.en w).started (bits (s.wreg w 9 0x040) 0 4) t tmr) :=
  ⟨_, .of_modEn (f := (·.started ..)) ((State.calm_engHit ..).trans (State.calm_raiseAt ..))⟩

theorem State.engStop_becomes {s : State} {w : Nat} (h : (s.en w).running = true) :
    EnBecomes s (s.engStop w) w { s.en w with running := false, tmr := [] } := by
  rw [State.engStop, if_pos h]
  exact .of_modEn (f := fun e => { e with running := false, tmr := [] }) (State.calm_raiseCh ..)

theorem State.engStop_stopped {s : State} {w : Nat} (h : (s.en w).running = false) : s.engStop w = s := if_neg (by simp [h])

theorem State.engCmd_start_off {s : State} {w : Nat} (h : s.mode w = .off) : s.engCmd w 1 = s.engRefuse w 2 := if_pos h

theorem State.engCmd_start {s : State} {w : Nat} (h : s.mode w ≠ .off) : s.engCmd w 1 = (s.engAccept w).engStart w s.t := if_neg h

/-! Occurrences and timers (R247, R248, R253). -/

/-- What is bound to arrive at once arrives when it sets out. -/
theorem arrival_at_once (kind t : Nat) : arrival kind 0 t = t := by simp [arrival]

theorem State.hostEvent_occurs (s : State) (w sel : Nat) : s.hostEvent w sel = s.modEn w fun e => { e with
    ins := (if e.running then e.ins else insFrom s.t e.ins) ++ [{ at_ := s.t, src := 0x10, sel := sel, code := 0 }] } := by
  rw [State.hostEvent, State.engOccur, arrival_at_once]

theorem State.expireTimer_due {s : State} {w k t g : Nat} (h : Tab.get none (s.en w).tmr k = some g) (hg : g ≤ t) :
    s.expireTimer w k t = s.modEn w fun e => { e with
      tmr := Tab.set none e.tmr k none, ins := e.ins ++ [{ at_ := g, src := 0xF, sel := k, code := 0 }] } := by
  simp only [State.expireTimer, h, if_pos hg]

/-- No sample is taken outside a sample instant, by a stopped engine, or twice at one instant. -/
theorem State.engSample_untaken {s : State} {w : Nat} (h : (s.en w).running = false ∨ s.t % 256 ≠ 0 ∨ (s.en w).sampT = some s.t) :
    s.engSample w = s := if_pos (by simpa [or_assoc] using h)

/-- Settles O29: each command, host event and expiry is one update of the window's engine, with its detections; the pulses that end are told by their
line and their end. -/
theorem engineCommands : Obligations.EngineCommands := by
  unfold Obligations.EngineCommands
  intro s dt w a e
  refine ⟨fun ht => ?_, fun h => congrArg Host.Outcome.next (State.engSample_untaken h), fun k g hk hg => ?_, fun line => ⟨_, rfl, rfl⟩⟩
  · have hen := a.en_engAccept w
    have honly := a.engAccept_onlyWin w
    have haccept : CalmWin a (a.engAccept w) w := .of_onlyWin honly rfl
    refine ⟨fun hm => ?_, fun hm => ?_, fun hr => ?_, fun hr => ?_, fun sel => ?_⟩
    · obtain ⟨tmr, hstart, hcalm⟩ := (a.engAccept w).engStart_becomes w a.t
      rw [hen] at hstart
      refine ⟨_, State.next_hostWrite ht (State.engCmd_start hm), ?_, ?_, ?_, ?_, ?_, ?_, ?_, ?_, haccept.trans hcalm⟩
      all_goals rw [hstart]; rfl
    · obtain ⟨href, hcalm⟩ := a.engRefuse_becomes w 2
      exact ⟨_, State.next_hostWrite ht (State.engCmd_start_off hm), href, hcalm⟩
    · obtain ⟨hstop, hcalm⟩ := State.engStop_becomes (s := a.engAccept w) (by rw [hen]; exact hr)
      rw [hen] at hstop
      exact ⟨_, State.next_hostWrite ht rfl, hstop, haccept.trans hcalm⟩
    · exact ⟨_, State.next_hostWrite ht (State.engStop_stopped (by rw [hen]; exact hr)), hen, honly⟩
    · refine ⟨_, { at_ := a.t, src := 0x10, sel := sel.toNat, code := 0 }, State.next_hostWrite ht (a.hostEvent_occurs w sel.toNat), ?_, ?_,
        rfl, rfl, rfl, a.modEn_onlyWin ..⟩
      all_goals rw [State.en_modEn_self]
  · have hexp := a.en_modEn_self w fun e => { e with
      tmr := Tab.set none e.tmr k.toNat none, ins := e.ins ++ [{ at_ := g, src := 0xF, sel := k.toNat, code := 0 }] }
    refine ⟨_, congrArg Host.Outcome.next (State.expireTimer_due hk hg), ?_, ?_, a.modEn_onlyWin ..⟩
    · rw [hexp]
      exact Tab.get_set_self none e.tmr k.toNat none
    · rw [hexp]

end Sys2Proof.Machine

namespace Sys2Proof.Machine

/-! ### Samples and delayed actions of the trigger engine (O30) -/

/-! One part of a window. -/

/-- Since `a`, nothing has changed but window `w` and traces of detections, and of the window not its part `g`. -/
structure SparesPart {β : Type} (g : Win → β) (a t : State) (w : Nat) : Prop where
  part : g (t.win w) = g (a.win w)
  calm : CalmWin a t w

namespace SparesPart

section
variable {β : Type} {g : Win → β} {s t u : State} {w : Nat}

theorem refl (g : Win → β) (s : State) (w : Nat) : SparesPart g s s w := ⟨rfl, .refl s w⟩

theorem trans (h1 : SparesPart g s t w) (h2 : SparesPart g t u w) : SparesPart g s u w := ⟨h2.part.trans h1.part, h1.calm.trans h2.calm⟩

theorem ite {c : Prop} [Decidable c] (h1 : SparesPart g s t w) (h2 : SparesPart g s u w) : SparesPart g s (if c then t else u) w := by
  split
  · exact h1
  · exact h2

/-- An update of the window beside that part, with the detections that it makes. -/
theorem of_modWin {f : Win → Win} (hg : g (f (s.win w)) = g (s.win w)) (h : t.calm = (s.modWin w f).calm) : SparesPart g s t w := by
  obtain ⟨hwin, hcalm⟩ := CalmWin.of_calm h
  exact ⟨(congrArg g hwin).trans hg, hcalm⟩

theorem of_calm (h : t.calm = s.calm) : SparesPart g s t w :=
  ⟨congrArg g (State.win_at_of_calm h w), .of_onlyWin ⟨rfl, fun _ _ => rfl⟩ h⟩

end

end SparesPart

/-! A stamper leaves what is beside it in the window. -/

section
variable {β : Type} {g : Win → β} (hg : ∀ x y, g { x with st := y } = g x)
include hg

theorem State.modSt_spares (s : State) (w : Nat) (f : StpSt → StpSt) : SparesPart g s (s.modSt w f) w :=
  .of_modWin (f := fun x => { x with st := f x.st }) (hg ..) rfl

theorem State.stpRefuse_spares (s : State) (w reason : Nat) : SparesPart g s (s.stpRefuse w reason) w :=
  (s.modSt_spares hg ..).trans (.of_calm (State.calm_raiseCh ..))

theorem State.stampArmAt_spares (s : State) (w t cause : Nat) : SparesPart g s (s.stampArmAt w t cause) w :=
  .ite (.refl g s w) (.ite (s.stpRefuse_spares hg ..) (.ite (s.stpRefuse_spares hg ..)
    ((s.modSt_spares hg ..).trans (.of_calm (State.calm_raiseAt ..)))))

theorem State.stampUnarm_spares (s : State) (w t : Nat) : SparesPart g s (s.stampUnarm w t) w := by
  unfold State.stampUnarm
  extract_lets u s1
  have h1 : SparesPart g s s1 w := (s.modSt_spares hg ..).trans (.of_calm (State.calm_withdraw ..))
  exact .ite h1 (h1.trans (.of_calm (State.calm_unlatch ..)))

theorem State.stampDisarmAt_spares (s : State) (w t cause : Nat) : SparesPart g s (s.stampDisarmAt w t cause) w := by
  unfold State.stampDisarmAt
  extract_lets x src s0 s1
  have h0 : SparesPart g s s0 w := s.modSt_spares hg ..
  have h1 : SparesPart g s s1 w := .ite h0 (h0.trans (.of_calm (State.calm_withdraw ..)))
  exact .ite h0 (.ite (h1.trans (s1.stampUnarm_spares hg ..)) (h1.trans ((s1.modSt_spares hg ..).trans (.of_calm (State.calm_raiseAt ..)))))

end

/-! The record queue and its counters leave what is beside them, and so does the reduction, whose records go there (R211, R258 to R260). -/

theorem State.modRd_spares {β : Type} {g : Win → β} (hrd : ∀ x y, g { x with rd := y } = g x) (s : State) (w : Nat) (f : RedSt → RedSt) :
    SparesPart g s (s.modRd w f) w := .of_modWin (f := fun x => { x with rd := f x.rd }) (hrd ..) rfl

section
variable {β : Type} {g : Win → β} (hg : ∀ x c m, g { x with cp := c, mn := m } = g x)
include hg

theorem State.modCp_spares (s : State) (w : Nat) (f : CapSt → CapSt) : SparesPart g s (s.modCp w f) w :=
  .of_modWin (f := fun x => { x with cp := f x.cp }) (hg _ _ (s.mn w)) rfl

theorem State.modMn_spares (s : State) (w : Nat) (f : MonSt → MonSt) : SparesPart g s (s.modMn w f) w :=
  .of_modWin (f := fun x => { x with mn := f x.mn }) (hg _ (s.cp w) _) rfl

theorem State.queueGap_spares (s : State) (w : Nat) : SparesPart g s (s.queueGap w) w := by
  unfold State.queueGap
  extract_lets c
  split
  · exact .refl g s w
  · exact .ite (s.modCp_spares hg ..) (.refl g s w)

theorem State.queueRec_spares (s : State) (w : Nat) (r : Rec) : SparesPart g s (s.queueRec w r) w := by
  unfold State.queueRec
  extract_lets s1 s2 s3
  have h1 : SparesPart g s s1 w := s.queueGap_spares hg w
  have h3 : SparesPart g s1 s3 w := (s1.modCp_spares hg ..).trans (s2.modMn_spares hg ..)
  exact .ite (h1.trans (s1.modCp_spares hg ..)) ((h1.trans h3).trans (.of_calm (State.calm_raiseCh ..)))

variable (hrd : ∀ x y, g { x with rd := y } = g x)
include hrd

theorem State.redWrite_spares (s : State) (w : Nat) : SparesPart g s (s.redWrite w) w := by
  unfold State.redWrite
  extract_lets r code full x
  exact .ite (.refl g s w) ((s.queueRec_spares hg w x).trans (State.modRd_spares hrd ..))

theorem State.redTake_spares (s : State) (w : Nat) (x : RedIn) : SparesPart g s (s.redTake w x) w := by
  unfold State.redTake
  extract_lets n
  have hgrid : SparesPart g s (s.redGrid w x.at_) w := .ite (s.redWrite_spares hg hrd w) (.refl g s w)
  exact hgrid.trans (State.modRd_spares hrd ..)

theorem State.redSettle_spares (s : State) (w t : Nat) : SparesPart g s (s.redSettle w t) w := by
  unfold State.redSettle
  split
  · exact .refl g s w
  · next x _ =>
    extract_lets s1 s2
    have h1 : SparesPart g s s1 w := s.modRd_spares hrd ..
    have h2 : SparesPart g s s2 w := .ite (h1.trans (s1.redTake_spares hg hrd w x)) h1
    exact .ite (.refl g s w) (.ite (h2.trans (s2.redWrite_spares hg hrd w)) h2)

theorem State.redArmAt_spares (s : State) (w t cause : Nat) : SparesPart g s (s.redArmAt w t cause) w :=
  .ite (s.redSettle_spares hg hrd ..) ((s.redSettle_spares hg hrd ..).trans (State.modRd_spares hrd ..))

theorem State.redDisarmAt_spares (s : State) (w t cause : Nat) : SparesPart g s (s.redDisarmAt w t cause) w := by
  unfold State.redDisarmAt
  extract_lets s1 r
  have h1 : SparesPart g s s1 w := (s.redSettle_spares hg hrd w t).trans (State.modRd_spares hrd ..)
  exact .ite h1 (.ite (h1.trans (s1.modRd_spares hrd ..)) ((h1.trans (s1.redWrite_spares hg hrd w)).trans (State.modRd_spares hrd ..)))

end

/-! What a transition decides: the engine's state and its count, beside the window's mode (R250). -/

/-- A window's mode, and of its engine what a sample decides. -/
structure Turn where
  mode : Mode
  running : Bool
  state : Nat
  transitions : Nat
  sampT : Option Nat

def Win.turn (x : Win) : Turn := ⟨x.md.mode, x.en.running, x.en.state, x.en.transitions, x.en.sampT⟩

def State.turn (s : State) (w : Nat) : Turn := (s.win w).turn

theorem State.turn_of_calm {s t : State} (h : s.calm = t.calm) (w : Nat) : s.turn w = t.turn w := congrArg Win.turn (State.win_at_of_calm h w)

theorem State.turn_ite {s t : State} {w : Nat} {c : Prop} [Decidable c] (h : t.turn w = s.turn w) : (if c then t else s).turn w = s.turn w := by
  split
  · exact h
  · rfl

theorem State.turn_modWin_self (s : State) (w : Nat) (f : Win → Win) : (s.modWin w f).turn w = (f (s.win w)).turn :=
  congrArg Win.turn ((s.win_modWin ..).trans (if_pos rfl))

theorem State.turn_modSq (s : State) (w : Nat) (f : SeqSt → SeqSt) : (s.modSq w f).turn w = s.turn w := s.turn_modWin_self ..
theorem State.turn_modPl (s : State) (w : Nat) (f : PlaySt → PlaySt) : (s.modPl w f).turn w = s.turn w := s.turn_modWin_self ..

theorem State.turn_modEn (s : State) (w : Nat) (f : EngSt → EngSt) : (s.modEn w f).turn w =
    ⟨s.mode w, (f (s.en w)).running, (f (s.en w)).state, (f (s.en w)).transitions, (f (s.en w)).sampT⟩ := s.turn_modWin_self ..

theorem State.turn_queueRec (s : State) (w : Nat) (r : Rec) : (s.queueRec w r).turn w = s.turn w :=
  (s.queueRec_spares (g := Win.turn) (fun _ _ _ => rfl) w r).part

/-! A jump request reaches the sequencer alone (R97 to R99). -/

theorem State.turn_jumpDrop (s : State) (w t : Nat) : (s.jumpDrop w t).turn w = s.turn w :=
  (State.turn_of_calm (State.calm_raiseSeq ..) w).trans (s.turn_modPl ..)

theorem State.turn_perr (s : State) (w code : Nat) (sh : Shelf) (t : Nat) : (s.perr w code sh t).turn w = s.turn w := by
  rw [State.turn, State.win_perr_self]
  rfl

theorem State.turn_jumpArrive (s : State) (w k t : Nat) : (s.jumpArrive w k t).turn w = s.turn w := by
  unfold State.jumpArrive
  extract_lets q
  split
  · rfl
  split
  · exact s.turn_jumpDrop ..
  split
  · exact (State.turn_of_calm (State.calm_raiseSeq ..) w).trans (s.turn_perr ..)
  split
  · exact s.turn_jumpDrop ..
  · exact s.turn_modSq ..

theorem State.turn_jumpDue (s : State) (w : Nat) : (s.jumpDue w).turn w = s.turn w := by
  unfold State.jumpDue
  extract_lets due
  split
  · rfl
  · exact (State.each_proj (·.turn w) _ _ fun s r => s.turn_jumpArrive ..).trans (s.turn_modSq ..)

theorem State.turn_jumpRequest (s : State) (w k t : Nat) : (s.jumpRequest w k t).turn w = s.turn w := by
  unfold State.jumpRequest
  split
  · exact (State.turn_jumpArrive ..).trans (s.turn_jumpDue w)
  · exact s.turn_modSq ..

/-! A transition (R250, R254, R257). -/

theorem State.turn_enginePulse (s : State) (w line t : Nat) : (s.enginePulse w line t).turn w = s.turn w := by
  unfold State.enginePulse
  extract_lets cfg fin
  split
  · exact s.turn_modEn ..
  · rfl

/-- The actions of the deciding arc leave what the transition has decided. -/
theorem State.turn_arcActs (s : State) (w i frm also forced t : Nat) : (s.arcActs w i frm also forced t).turn w = s.turn w := by
  unfold State.arcActs
  extract_lets c a seg s1 s2 delayed s3 starts stops s4
  have h1 : s1.turn w = s.turn w := State.turn_ite (s.turn_queueRec ..)
  have h2 : s2.turn w = s1.turn w := State.turn_ite (s1.turn_jumpRequest ..)
  have h3 : s3.turn w = s2.turn w := State.turn_ite (s2.turn_modEn ..)
  have h4 : s4.turn w = s.turn w := (s3.turn_modEn ..).trans (h3.trans (h2.trans h1))
  exact (State.turn_ite (s4.turn_enginePulse ..)).trans h4

theorem State.turn_takeArc (s : State) (w i also : Nat) (forced : Bool) (t : Nat) : (s.takeArc w i also forced t).turn w =
    { s.turn w with
      state := bits (s.wreg w 9 (0x400 + 0x10 * i)) 16 4, transitions := satInc (2 ^ 32 - 1) (s.en w).transitions } := by
  unfold State.takeArc
  extract_lets frm dest s1 s2 s3 s4
  have h1 : s1.turn w = _ := s.turn_modEn ..
  have h2 : s2.turn w = s1.turn w := s1.turn_modEn ..
  have h3 : s3.turn w = s2.turn w := s2.turn_arcActs ..
  have h4 : s4.turn w = s3.turn w := State.turn_of_calm (State.calm_engHit ..) w
  have h : s4.turn w = _ := h4.trans (h3.trans (h2.trans h1))
  exact (State.turn_ite (State.turn_of_calm (State.calm_raiseCh ..) w)).trans h

/-- A transition goes to the state that its arc names and counts itself. -/
theorem State.takeArc_decides {s t : State} {w i also at_ : Nat} {forced : Bool} (h : s.takeArc w i also forced at_ = t) :
    (t.en w).state = bits (s.wreg w 9 (0x400 + 0x10 * i)) 16 4 ∧ (t.en w).transitions = satInc (2 ^ 32 - 1) (s.en w).transitions ∧
      (t.en w).running = (s.en w).running ∧ (t.en w).sampT = (s.en w).sampT ∧ t.mode w = s.mode w := by
  have hturn := s.turn_takeArc w i also forced at_
  rw [h] at hturn
  exact ⟨congrArg Turn.state hturn, congrArg Turn.transitions hturn, congrArg Turn.running hturn, congrArg Turn.sampT hturn,
    congrArg Turn.mode hturn⟩

/-! A sample (R247 to R252). -/

/-- What a condition reads does not depend on the engine, but for the counts and occurrences it is given. -/
theorem State.condTrue_modEn (s : State) (w : Nat) (f : EngSt → EngSt) (cnt : Tab Nat) (os : List EngIn) (c : CondSpec) (t : Nat) :
    (s.modEn w f).condTrue w cnt os c t = s.condTrue w cnt os c t := by
  have hlevel : (s.modEn w f).levelHolds w cnt c t = s.levelHolds w cnt c t := by
    unfold State.levelHolds State.pm State.fb
    rw [State.win_modEn_self]
    rfl
  unfold State.condTrue
  rw [hlevel]
  rfl

/-- The arcs whose condition holds in a sample without occurrences, lowest first (R250). -/
def State.arcsMet (s : State) (w : Nat) : List Nat :=
  (List.range 16).filter fun i => bit (s.wreg w 9 (0x400 + 0x10 * i)) 20 && bit (s.wreg w 9 (0x400 + 0x10 * i)) (s.en w).state &&
    s.condTrue w (s.en w).cnt [] (s.arcCond w i) s.t

theorem State.expireTimer_idle {s : State} {w : Nat} (h : (s.en w).tmr = []) (k t : Nat) : s.expireTimer w k t = s := by
  simp only [State.expireTimer, h, Tab.get]

/-- The state once an engine has taken its sample and decided nothing. -/
def State.sampled (s : State) (w : Nat) : State :=
  ((s.modEn w fun e => { e with sampT := some s.t }).modEn w fun e => { e with
    ins := e.ins.filter fun o => decide (s.t < o.at_) }).modEn w fun e => { e with cnt := (s.en w).cnt }

theorem State.sampled_onlyWin (s : State) (w : Nat) : OnlyWin s (s.sampled w) w :=
  ((s.modEn_onlyWin ..).trans (State.modEn_onlyWin ..)).trans (State.modEn_onlyWin ..)

theorem OnlyWin.wreg {s t : State} {w : Nat} (h : OnlyWin s t w) (v q off : Nat) : t.wreg v q off = s.wreg v q off :=
  (congrArg (·.wreg v q off) h.1 :)

theorem State.mode_sampled (s : State) (w : Nat) : (s.sampled w).mode w = s.mode w := by
  rw [State.sampled, State.mode_eq, State.win_modEn_self, State.win_modEn_self, State.win_modEn_self]
  rfl

theorem State.condTrue_sampled (s : State) (w : Nat) (cnt : Tab Nat) (os : List EngIn) (c : CondSpec) (t : Nat) :
    (s.sampled w).condTrue w cnt os c t = s.condTrue w cnt os c t := by
  rw [State.sampled, State.condTrue_modEn, State.condTrue_modEn, State.condTrue_modEn]

section
variable {s : State} {w : Nat}

theorem State.en_sampled (hi : (s.en w).ins = []) : (s.sampled w).en w = { s.en w with sampT := some s.t } := by
  rw [State.sampled, State.en_modEn_self, State.en_modEn_self, State.en_modEn_self]
  simp [hi]

/-- With no occurrence, timer or count the lowest arc whose condition holds decides a sample, and without one nothing does. -/
theorem State.engSample_decides (hr : (s.en w).running = true) (ht : s.t % 256 = 0) (hs : (s.en w).sampT ≠ some s.t) (hi : (s.en w).ins = [])
    (hm : (s.en w).tmr = []) (hc : ∀ j < 4, bit (s.wreg w 9 (0x100 + 0x10 * j)) (16 + (s.en w).state) = false) :
    (∀ i rest, s.arcsMet w = i :: rest → ∃ also, s.engSample w = (s.sampled w).takeArc w i also false s.t) ∧
      (s.arcsMet w = [] → s.engSample w = s.sampled w) := by
  have hen : (s.modEn w fun e => { e with sampT := some s.t }).en w = { s.en w with sampT := some s.t } := s.en_modEn_self ..
  unfold State.engSample
  extract_lets t s1 e os s2 cnt s3 met a
  have h1 : s1 = s.modEn w fun e => { e with sampT := some s.t } := by
    have hidle (k : Nat) := State.expireTimer_idle (w := w) ((congrArg EngSt.tmr hen).trans hm) k t
    simp only [s1, State.each, List.foldl_cons, List.foldl_nil, t, hidle]
  have he : e = { s.en w with sampT := some s.t } := (congrArg (·.en w) h1).trans hen
  have hos : os = [] := by simp [os, he, hi]
  have hcnt : cnt = (s.en w).cnt := by
    have hnone (l : Tab Nat) (j : Nat) (hj : j ∈ List.range 4) : (if bit (s.wreg w 9 (0x100 + 0x10 * j)) (16 + e.state) then
        Tab.set 0 l j (satAdd (2 ^ 48 - 1) (Tab.get 0 l j) (s2.countAdd w e.cnt os (s.cntCond w j) t)) else l) = l := by
      rw [he, hc j (List.mem_range.mp hj), if_neg Bool.false_ne_true]
    refine (List.foldl_ext _ (fun l _ => l) e.cnt hnone).trans ((List.foldl_fixed _).trans ?_)
    rw [he]
  have h3 : s3 = s.sampled w := by simp only [s3, s2, h1, hcnt, State.sampled, t]
  have hmet : met = s.arcsMet w := by simp only [met, h3, hcnt, hos, he, State.condTrue_sampled, State.arcsMet, t]
  rw [if_neg (by simp [hr, ht, hs, t]), hmet, h3]
  refine ⟨fun i rest h => ⟨_, by rw [h]⟩, fun h => ?_⟩
  rw [h]
  exact if_neg (by simp [hos])

end

/-! A delayed action (R254, R263). -/

theorem State.winTrigger_fires {s : State} {w : Nat} (h : (s.cw w).phase = 1) (tr : Nat) :
    ∃ x, CwBecomes s (s.winTrigger w tr) w x ∧ x.trigT = tr ∧ x.preHeld = (s.cw w).wr - (s.cw w).rd := by
  unfold State.winTrigger
  extract_lets c held
  rw [if_pos h]
  have hpost := s.modCw_becomes w fun c => { c with phase := 2, preHeld := held, preShort := decide (held < c.pre), trigT := tr, postHeld := 0 }
  have hcw := congrArg Win.cw hpost.1
  exact ⟨_, hpost.trans (State.winDone_becomes _ w), congrArg CwSt.trigT hcw, congrArg CwSt.preHeld hcw⟩

theorem State.winTrigger_ignored {s : State} {w : Nat} (h : (s.cw w).phase ≠ 1) (tr : Nat) :
    CwBecomes s (s.winTrigger w tr) w { s.cw w with ignored := satInc 255 (s.cw w).ignored } := by
  have he : s.winTrigger w tr = s.modCw w fun c => { c with ignored := satInc 255 c.ignored } := if_neg h
  rw [he]
  exact s.modCw_becomes ..

/-- The engine once its flags have been cleared and set as the action word `act` says. -/
def EngSt.flagged (e : EngSt) (act : Nat) : EngSt :=
  { e with flags := (e.flags &&& ~~~ BitVec.ofNat 4 (bits act 28 4)) ||| BitVec.ofNat 4 (bits act 24 4) }

/-- What a delayed action `x` of window `w` has made of `s` (R254, R263): its flag changes, its window trigger, and what it asks of the stamper and
the reduction, in that window alone. -/
structure ActTaken (s t : State) (w : Nat) (x : EngAct) : Prop where
  en : t.en w = (s.en w).flagged x.act.toNat
  untriggered : bit x.act.toNat 20 = false → t.cw w = s.cw w
  fired : bit x.act.toNat 20 = true → (s.cw w).phase = 1 → (t.cw w).trigT = x.tr ∧ (t.cw w).preHeld = (s.cw w).wr - (s.cw w).rd
  ignored : bit x.act.toNat 20 = true → (s.cw w).phase ≠ 1 → t.cw w = { s.cw w with ignored := satInc 255 (s.cw w).ignored }
  st : bits x.act.toNat 16 2 = 0 → t.st w = s.st w
  rd : bits x.act.toNat 18 2 = 0 → t.rd w = s.rd w
  calm : CalmWin s t w

/-- What a window trigger, or none, makes of the window capture. -/
theorem State.winTrigger_asked (s : State) (w tr : Nat) (b : Bool) : ∃ y, CwBecomes s (if b then s.winTrigger w tr else s) w y ∧
    (b = false → y = s.cw w) ∧ (b = true → (s.cw w).phase = 1 → y.trigT = tr ∧ y.preHeld = (s.cw w).wr - (s.cw w).rd) ∧
    (b = true → (s.cw w).phase ≠ 1 → y = { s.cw w with ignored := satInc 255 (s.cw w).ignored }) := by
  cases b with
  | false => exact ⟨_, ⟨rfl, .refl s w⟩, fun _ => rfl, nofun, nofun⟩
  | true =>
    by_cases h : (s.cw w).phase = 1
    · obtain ⟨y, hy, hspec⟩ := State.winTrigger_fires h tr
      exact ⟨y, hy, nofun, fun _ _ => hspec, fun _ hn => absurd h hn⟩
    · exact ⟨_, State.winTrigger_ignored h tr, nofun, fun _ hp => absurd hp h, fun _ _ => rfl⟩

theorem State.engAct_taken (s : State) (w : Nat) (x : EngAct) : ActTaken s (s.engAct w x) w x := by
  unfold State.engAct
  extract_lets act s1 s2 s3
  have h1 : SparesPart (fun y => (y.en, y.cw, y.rd)) s s1 w := by
    dsimp only [s1]
    split
    · exact s.stampArmAt_spares (fun _ _ => rfl) ..
    · exact s.stampDisarmAt_spares (fun _ _ => rfl) ..
    · exact .refl _ s w
  have h2 : SparesPart (fun y => (y.en, y.cw, y.st)) s1 s2 w := by
    dsimp only [s2]
    split
    · exact s1.redArmAt_spares (fun _ _ _ => rfl) (fun _ _ => rfl) ..
    · exact s1.redDisarmAt_spares (fun _ _ _ => rfl) (fun _ _ => rfl) ..
    · exact .refl _ s1 w
  have hstill1 (h : bits act 16 2 = 0) : s1 = s := by simp only [s1, h]
  have hstill2 (h : bits act 18 2 = 0) : s2 = s1 := by simp only [s2, h]
  obtain ⟨y, ⟨hwin, h3⟩, hnone, hfires, hignored⟩ := s2.winTrigger_asked w x.tr (bit act 20)
  obtain ⟨hen1, hcw1, hrd1⟩ : s1.en w = s.en w ∧ s1.cw w = s.cw w ∧ s1.rd w = s.rd w := by
    simpa [State.en_eq, State.cw_eq, State.rd_eq] using h1.part
  obtain ⟨hen2, hcw2, hst2⟩ : s2.en w = s1.en w ∧ s2.cw w = s1.cw w ∧ s2.st w = s1.st w := by
    simpa [State.en_eq, State.cw_eq, State.st_eq] using h2.part
  rw [hcw2, hcw1] at hnone hfires hignored
  set t := s3.modEn w _
  have ht : t.win w = { s2.win w with cw := y, en := (s2.en w).flagged act } := by
    rw [State.win_modEn_self, State.en_eq, hwin]
    rfl
  have hcw : t.cw w = y := congrArg Win.cw ht
  exact {
    en := (congrArg Win.en ht).trans (congrArg (·.flagged act) (hen2.trans hen1))
    untriggered := fun h => hcw.trans (hnone h)
    fired := fun h hp => by
      rw [hcw]
      exact hfires h hp
    ignored := fun h hp => hcw.trans (hignored h hp)
    st := fun h => (congrArg Win.st ht).trans (hst2.trans (congrArg (·.st w) (hstill1 h)))
    rd := fun h => (congrArg Win.rd ht).trans ((congrArg (·.rd w) (hstill2 h)).trans hrd1)
    calm := ((h1.calm.trans h2.calm).trans h3).trans (.of_onlyWin (s3.modEn_onlyWin ..) rfl) }

theorem State.engEffect_due {s : State} {w : Nat} {x : EngAct} {rest : List EngAct} (h : (s.en w).acts = x :: rest) (ht : x.at_ ≤ s.t) :
    s.engEffect w = (s.modEn w fun e => { e with acts := rest }).engAct w x := by
  simp only [State.engEffect, h, if_pos ht]

/-- Settles O30: a quiet sample is decided by the arcs that are met alone, and a transition's actions leave what it decides; a delayed action is three
updates of parts of one window that do not meet. -/
theorem engineSamplesAndActs : Obligations.EngineSamplesAndActs := by
  unfold Obligations.EngineSamplesAndActs
  refine ⟨fun s dt w => ?_, fun s dt w x rest => ?_⟩
  · intro a hr ht hs hi hm hc met
    have hen : (a.sampled w).en w = { a.en w with sampT := some a.t } := State.en_sampled hi
    have honly := a.sampled_onlyWin w
    obtain ⟨htakes, hstays⟩ := State.engSample_decides hr ht hs hi hm hc
    refine ⟨fun i rest h => ?_, fun h => ⟨_, congrArg Host.Outcome.next (hstays h), hen, honly⟩⟩
    obtain ⟨also, htake⟩ := htakes i rest h
    generalize ht : (a.sampled w).takeArc w i also false a.t = t at htake
    obtain ⟨hstate, htrans, hrun, hsamp, hmode⟩ := State.takeArc_decides ht
    rw [honly.wreg] at hstate
    rw [hen] at htrans hrun hsamp
    exact ⟨t, congrArg Host.Outcome.next htake, hstate, htrans, hrun.trans hr, hsamp, hmode.trans (a.mode_sampled w)⟩
  · intro a act h ht
    have hu := a.win_modEn_self w fun e => { e with acts := rest }
    have honly := a.modEn_onlyWin w fun e => { e with acts := rest }
    have hexec := State.engEffect_due h ht
    set u := a.modEn w fun e => { e with acts := rest }
    have hacts := u.engAct_taken w x
    generalize u.engAct w x = t at hexec hacts
    obtain ⟨hen, huntriggered, hfired, hignored, hst, hrd, hcalm⟩ := hacts
    have hen' : u.en w = { a.en w with acts := rest } := (congrArg Win.en hu :)
    have hcw : u.cw w = a.cw w := (congrArg Win.cw hu :)
    have hst' : u.st w = a.st w := (congrArg Win.st hu :)
    have hrd' : u.rd w = a.rd w := (congrArg Win.rd hu :)
    rw [hen'] at hen
    rw [hcw] at huntriggered hfired hignored
    exact ⟨t, congrArg Host.Outcome.next hexec, congrArg EngSt.acts hen, congrArg EngSt.flags hen, huntriggered, hfired, hignored,
      fun h => (hst h).trans hst', fun h => (hrd h).trans hrd', (CalmWin.of_onlyWin honly rfl).trans hcalm⟩

end Sys2Proof.Machine

namespace Sys2Proof.Machine

/-! ### The block as a whole (O1, O2, O3, O38) -/

/-- Settles O1: the two branches of `step`. -/
theorem stepTakesTheFront : Obligations.StepTakesTheFront := by
  unfold Obligations.StepTakesTheFront
  refine ⟨fun c rest s h => ?_, fun s h => ?_⟩
  · simp [step, h]
  · simp [step, h]

theorem OtpKept.getLsbD {a b : Tab (BitVec 256)} (h : OtpKept a b) {n k : Nat} (hk : (Tab.get 0 a n).getLsbD k = true) :
    (Tab.get 0 b n).getLsbD k = true := by
  have hlt : k < 256 := BitVec.lt_of_getLsbD hk
  have hbit := congrArg (BitVec.getLsbD · k) (h n)
  simp only [BitVec.getLsbD_and, BitVec.getLsbD_not, hk, hlt, decide_true, Bool.true_and] at hbit
  exact by simpa using hbit.trans BitVec.getLsbD_zero

/-- Settles O38: every command keeps what the Ledger has programmed, by the one frame lemma of `exec`. -/
theorem ledgerBitsOnlySet : Obligations.LedgerBitsOnlySet := by
  unfold Obligations.LedgerBitsOnlySet
  intro i s
  obtain ⟨t, hexec, hkeeps⟩ := exec_advances i s
  exact ⟨t, hexec, fun n k => OtpKept.getLsbD hkeeps.otp⟩

/-- Settles O2: the empty queue changes nothing, and a command answers a next state that keeps the canonical form and the rest of the queue. -/
theorem stepKeepsCanonical : Obligations.StepKeepsCanonical := by
  unfold Obligations.StepKeepsCanonical
  intro s hs
  cases hq : s.pending with
  | nil => exact ⟨s, stepTakesTheFront.2 s hq, hs, hq, Nat.le_refl _⟩
  | cons c rest =>
    obtain ⟨t, hexec, hkeeps⟩ := exec_advances c { s with pending := rest }
    refine ⟨t, (stepTakesTheFront.1 c rest s hq).trans hexec, hkeeps.canon hs, hkeeps.pending, ?_⟩
    rw [hkeeps.now]
    exact Nat.le_add_right ..

/-- Settles O3: the reset state lists no window, no cell and no register, so each reads its reset value. -/
theorem resetState : Obligations.ResetState :=
  ⟨State.reset_canonical, rfl, rfl, rfl, rfl, fun _ => rfl, rfl, rfl, fun _ => rfl, fun _ => rfl⟩

end Sys2Proof.Machine

namespace Sys2Proof.Machine

/-! ### ALIVE, the trap, the event log's reader and injection (O51, O52) -/

theorem State.aliveEdge_running {s : State} (h : s.flt.running = true) :
    s.aliveEdge = { s with flt := { s.flt with alive := s.flt.alive.map (!·) } } := if_pos h

theorem State.aliveEdge_stopped {s : State} (h : s.flt.running = false) : s.aliveEdge = s := if_neg (by simp [h])

theorem State.loseHeartbeat_running {s : State} (h : s.flt.running = true) : s.loseHeartbeat.calm = { s.calm with flt :=
    { s.flt with heartbeat := false, alive := some s.flt.pol, running := false, cause := 2, aliveSrc := 0 } } := by
  unfold State.loseHeartbeat State.aliveFreeze
  split
  · rw [State.calm_raiseDev]
    rfl
  · next hn => exact absurd h hn

theorem State.loseHeartbeat_stopped {s : State} (h : s.flt.running = false) :
    s.loseHeartbeat = { s with flt := { s.flt with heartbeat := false } } := by
  unfold State.loseHeartbeat State.aliveFreeze
  rw [if_neg (by simp [h])]
  rfl

theorem State.aliveResumeCmd_refused {s : State} (h : s.anyFatal = true ∨ s.flt.heartbeat = false) :
    s.aliveResumeCmd = { s with flt := { s.flt with resumeRefused := true } } := if_pos (by simpa using h)

theorem State.aliveResumeCmd_resumes {s : State} (hf : s.anyFatal = false) (hb : s.flt.heartbeat = true) :
    s.aliveResumeCmd = { s with flt := { s.flt with running := true, cause := 0, resumeRefused := false } } := if_neg (by simp [hf, hb])

/-- How far LOG_CONS would move the log's read position (R215, R307). -/
def FltSt.consumes (f : FltSt) (v : Nat) : Nat := (v + 4096 - f.logRd % 4096) % 4096

theorem State.writeLogCons_ignored {s : State} {v : Nat} (h : 4096 ≤ v ∨ s.flt.logLevel < s.flt.consumes v) : s.writeLogCons v = s :=
  if_pos (by simpa [FltSt.consumes] using h)

theorem State.writeLogCons_takes {s : State} {v : Nat} (hv : v < 4096) (hd : s.flt.consumes v ≤ s.flt.logLevel) : let t := s.writeLogCons v
    t.flt.logRd = s.flt.logRd + s.flt.consumes v ∧ t.flt.logWr = s.flt.logWr ∧ t.flt.logLost = s.flt.logLost ∧ t = { s with flt := t.flt } := by
  have h : s.writeLogCons v = _ := if_neg (by simpa [FltSt.consumes] using ⟨hv, hd⟩)
  rw [h]
  exact ⟨rfl, rfl, rfl, rfl⟩

/-- Settles O51: each command takes one branch of its meaning. -/
theorem aliveTrapAndLog : Obligations.AliveTrapAndLog := by
  unfold Obligations.AliveTrapAndLog
  intro s dt a f
  refine ⟨fun h => congrArg Host.Outcome.next (State.aliveEdge_running h), fun h => congrArg Host.Outcome.next (State.aliveEdge_stopped h), fun h => ?_,
    fun h => congrArg Host.Outcome.next (State.loseHeartbeat_stopped h), rfl, fun ht => ?_⟩
  · have hcalm : a.loseHeartbeat.calm = _ := State.loseHeartbeat_running h
    have hflt : a.loseHeartbeat.calm.flt = _ := congrArg State.flt hcalm
    exact ⟨_, rfl, hflt, hcalm.trans (congrArg (fun x => { a.calm with flt := x }) hflt.symm)⟩
  · refine ⟨fun h => ?_, fun hf hb => ?_, ?_, fun val => ⟨fun h => ?_, fun hv hd => ?_⟩⟩
    · exact State.next_hostWrite ht (State.aliveResumeCmd_refused h)
    · exact State.next_hostWrite ht (State.aliveResumeCmd_resumes hf hb)
    · exact State.next_hostWrite ht rfl
    · exact State.next_hostWrite ht (State.writeLogCons_ignored h)
    · exact ⟨_, State.next_hostWrite ht rfl, State.writeLogCons_takes hv hd⟩

/-! Injection (R308). -/

theorem State.injStart_absent {s : State} (h : srcExists (bits (s.dreg 13 0x040) 0 16) = false) :
    s.injStart = (s.modFlt fun f => { f with inj := f.inj.refuse 1 f.injPend.isSome }).bumpSeq 13 := if_pos (by simp [h])

theorem State.injStart_busy {s : State} (h : srcExists (bits (s.dreg 13 0x040) 0 16) = true) (hp : s.flt.injPend.isSome = true) :
    s.injStart = (s.modFlt fun f => { f with inj := f.inj.refuse 2 f.injPend.isSome }).bumpSeq 13 :=
  (if_neg (by simp [h])).trans (if_pos hp)

theorem State.injStart_sends {s : State} (h : srcExists (bits (s.dreg 13 0x040) 0 16) = true) (hp : s.flt.injPend = none) :
    s.injStart = s.modFlt fun f => { f with injPend := some (BitVec.ofNat 64 (s.dreg 13 0x040)), inj := f.inj.busy } :=
  (if_neg (by simp [h])).trans (if_neg (by simp [hp]))

/-- The detection that an injection makes at its source (R308). -/
def State.injected (s : State) (x : Word) : Det :=
  { src := bits x.toNat 0 16,
    pin := if srcLevel (bits x.toNat 0 16) = 0 then pinOf (s.winOf (srcInst (bits x.toNat 0 16))) else none,
    at_ := s.t,
    parts := [{ code := bits x.toNat 20 8, native := bits x.toNat 16 2, shelf := nullShelf, value := BitVec.ofNat 28 (bits x.toNat 32 28),
                conseq := s.isConseq (bits x.toNat 0 16) s.t, inj := true, dry := bit x.toNat 18 }],
    more := 0 }

/-- The injection registers once the injection has reached its source (R308). -/
def FltSt.delivered (f : FltSt) (gt : Nat) : FltSt := { f with injPend := none, inj := f.inj.done 1 0, coincided := false, injT := gt }

theorem State.injDeliver_none {s : State} (h : s.flt.injPend = none) : s.injDeliver = s := by
  unfold State.injDeliver
  rw [h]

theorem State.injDeliver_some {s : State} {x : Word} (h : s.flt.injPend = some x) :
    s.injDeliver = (((s.send (s.injected x)).modFlt fun f => f.delivered (gtOf s.t)).bumpSeq 13).raiseDev 13 0 0 0 := by
  unfold State.injDeliver
  rw [h]
  rfl

/-- What is on its way stays so when another detection joins it. -/
theorem mem_joinDet_of_mem {d x : Det} {l : List Det} (h : x ∈ l) :
    ∃ e ∈ joinDet d l, e.src = x.src ∧ e.at_ = x.at_ ∧ ∀ p ∈ x.parts, p ∈ e.parts := by
  induction l with
  | nil => exact absurd h List.not_mem_nil
  | cons y l ih =>
    unfold joinDet
    rcases List.mem_cons.mp h with rfl | h
    · split
      · exact ⟨_, List.mem_cons_self, rfl, rfl, fun p hp => List.mem_append_left _ hp⟩
      · exact ⟨_, List.mem_cons_self, rfl, rfl, fun _ hp => hp⟩
    · split
      · exact ⟨x, List.mem_cons_of_mem _ h, rfl, rfl, fun _ hp => hp⟩
      · obtain ⟨e, he, hx⟩ := ih h
        exact ⟨e, List.mem_cons_of_mem _ he, hx⟩

theorem State.flight_modColl (s : State) (src : Nat) (f : Coll → Coll) : (s.modColl src f).flight = s.flight := by
  unfold State.modColl
  split <;> rfl

/-- A detection leaves the records that are on their way there, with what they tell. -/
theorem State.flight_raise {s : State} {x : Det} (h : x ∈ s.flight) (src code native : Nat) :
    ∃ e ∈ (s.raise src code native).flight, e.src = x.src ∧ e.at_ = x.at_ ∧ ∀ p ∈ x.parts, p ∈ e.parts := by
  unfold State.raise State.raiseAt
  extract_lets s1 enabled s2
  have h1 : s1.flight = s.flight := by
    dsimp only [s1]
    split
    · unfold State.latchAt
      split <;> rfl
    · rfl
  have h2 : s2.flight = s.flight := by
    dsimp only [s2]
    split
    · exact (State.flight_modColl ..).trans h1
    · exact h1
  rw [← h2] at h
  have stays : ∃ e ∈ s2.flight, e.src = x.src ∧ e.at_ = x.at_ ∧ ∀ p ∈ x.parts, p ∈ e.parts := ⟨x, h, rfl, rfl, fun _ hp => hp⟩
  split
  · unfold State.send
    split
    · split <;> exact stays
    · split
      · exact stays
      · exact mem_joinDet_of_mem h
  · exact stays

/-- Settles O52: the refusals and the delivery are the branches of `injStart` and `injDeliver`. -/
theorem injections : Obligations.Injections := by
  unfold Obligations.Injections
  intro s dt a g
  refine ⟨fun ht => ⟨fun h => ?_, fun h hp => ?_, fun h hp => ?_⟩, fun h => congrArg Host.Outcome.next (State.injDeliver_none h), fun x hx => ?_⟩
  · exact ⟨_, State.next_hostWrite ht (State.injStart_absent h), rfl, rfl, rfl, rfl⟩
  · exact ⟨_, State.next_hostWrite ht (State.injStart_busy h hp), rfl, rfl, rfl, rfl⟩
  · exact ⟨_, State.next_hostWrite ht (State.injStart_sends h hp), rfl, rfl, rfl⟩
  · let u := ((a.send (a.injected x)).modFlt fun f => f.delivered (gtOf a.t)).bumpSeq 13
    have hsent := State.calm_send a (a.injected x)
    have hcalm : (u.raiseDev 13 0 0 0).calm = u.calm := State.calm_raiseDev ..
    have hflt : (u.raiseDev 13 0 0 0).flt = a.flt.delivered (gtOf a.t) :=
      (State.flt_of_calm hcalm).trans (congrArg (FltSt.delivered · (gtOf a.t)) (State.flt_of_calm hsent))
    refine ⟨u.raiseDev 13 0 0 0, congrArg Host.Outcome.next (State.injDeliver_some hx), congrArg FltSt.injPend hflt,
      congrArg (·.inj.outcome) hflt, congrArg FltSt.injT hflt, (State.wins_of_calm hcalm).trans (State.wins_of_calm hsent :),
      (State.regs_of_calm hcalm).trans (State.regs_of_calm hsent :), fun hg hb => ?_⟩
    obtain ⟨d, hd, hsrc, hat, hparts⟩ := mem_joinDet_parts (a.injected x) a.flight
    rw [← State.flight_send hg hb] at hd
    obtain ⟨e, he, hsrc', hat', hparts'⟩ := State.flight_raise (s := u) hd (devSrc 13 0) 0 0
    exact ⟨e, he, hsrc'.trans hsrc, hat'.trans hat, _, hparts' _ (hparts _ (List.mem_singleton_self _)), rfl, rfl, rfl, rfl⟩

end Sys2Proof.Machine

namespace Sys2Proof.Machine

/-! ### Fault sources, rails and temperatures (O53) -/

theorem State.raiseSlot_reports (s : State) (k idx code : Nat) {native : Nat} (hn : native ≠ 0) :
    (s.raiseSlot k idx code native).calm = s.calm ∧ Reports s (s.raiseSlot k idx code native) (32 * k + idx) code native := by
  rw [show 32 * k + idx = chSrc k idx by unfold chSrc; omega]
  exact ⟨State.calm_raise .., s.raise_reports _ code hn⟩

theorem State.raiseClu_reports (s : State) (c idx code : Nat) {native : Nat} (hn : native ≠ 0) :
    (s.raiseClu c idx code native).calm = s.calm ∧ Reports s (s.raiseClu c idx code native) (0x2000 + 32 * c + idx) code native := by
  rw [show 0x2000 + 32 * c + idx = cluSrc c idx by unfold cluSrc; omega]
  exact ⟨State.calm_raise .., s.raise_reports _ code hn⟩

theorem State.raiseDev_reports (s : State) (page idx code : Nat) {native : Nat} (hn : native ≠ 0) :
    (s.raiseDev page idx code native).calm = s.calm ∧ Reports s (s.raiseDev page idx code native) (0x4000 + 32 * page + idx) code native := by
  rw [show 0x4000 + 32 * page + idx = devSrc page idx by unfold devSrc; omega]
  exact ⟨State.calm_raise .., s.raise_reports _ code hn⟩

theorem State.supplyTrip_faults (s : State) (c : Nat) : let t := s.supplyTrip c
    (t.clu c).afeState = 3 ∧ (∀ d, d ≠ c → t.clu d = s.clu d) ∧ t.calm = { s.calm with clus := t.clus } ∧ Reports s t (0x2000 + 32 * c) 0 3 := by
  intro t
  obtain ⟨hcalm, hrep⟩ := (s.modClu c fun x => { x with afeState := 3 }).raiseClu_reports c 0 0 (show 3 ≠ 0 by decide)
  have hclu : ∀ d, t.clu d = (s.modClu c fun x => { x with afeState := 3 }).clu d := State.clu_at_of_calm hcalm
  refine ⟨?_, fun d hd => ?_, ?_, hrep⟩
  · rw [hclu, State.clu_modClu, if_pos rfl]
  · rw [hclu, State.clu_modClu, if_neg (Ne.symm hd)]
  · exact hcalm.trans (congrArg (fun x => { s.calm with clus := x }) (State.clus_of_calm hcalm).symm)

/-! Rails (R391, R396). -/

theorem State.railAssert_warns (s : State) (r : Nat) : (s.railAssert r false).calm =
    { s.calm with keep := { s.keep with railBits := putBit s.keep.railBits r true } } ∧ Reports s (s.railAssert r false) (0x4020 + r) 0 2 :=
  (s.modKeep fun k => { k with railBits := putBit k.railBits r true }).raiseDev_reports 1 r 0 (native := 2) (by decide)

/-- The keeper's and the link's registers while a TRIP of rail `r` holds: one of VCC_PE takes the trigger lines' power. -/
def State.tripped (s : State) (r : Nat) : State :=
  { s with keep := { s.keep with railBits := putBit s.keep.railBits (r + 16) true, peOut := s.keep.peOut || decide (r = 8) },
           syn := { s.syn with contention := if r = 8 then 0 else s.syn.contention } }

theorem State.railAssert_trips (s : State) (r : Nat) : s.railAssert r true = (s.tripped r).raiseDev 1 r 1 3 := by
  unfold State.railAssert State.tripped
  by_cases h : r = 8
  · simp [h, State.pePower, State.modKeep, State.modSyn, b2n]
  · simp [h, State.modKeep, b2n]

theorem State.causes_endCond (s : State) (src code : Nat) :
    ((s.endCond src code).src src).causes = (s.src src).causes.filter fun c => decide (c ≠ code) :=
  congrArg SrcSt.causes (s.src_modSrc_self src _)

theorem State.railRelease_releases (s : State) (r : Nat) (trip : Bool) : (s.railRelease r trip).calm = { s.calm with keep := { s.keep with
      railBits := putBit s.keep.railBits (r + 16 * b2n trip) false, peOut := s.keep.peOut && !(trip && decide (r = 8)) } } ∧
    ((s.railRelease r trip).src (0x4020 + r)).causes = (s.src (0x4020 + r)).causes.filter fun c => decide (c ≠ b2n trip) := by
  unfold State.railRelease
  extract_lets s1
  have h1 : s1 = { s with keep := { s.keep with peOut := s.keep.peOut && !(trip && decide (r = 8)) } } := by
    dsimp only [s1]
    cases trip
    · simp
    · by_cases h : r = 8 <;> simp [h, State.pePower, State.modKeep, State.modSyn]
  rw [h1]
  exact ⟨State.calm_endCond .., State.causes_endCond ..⟩

theorem State.railReads_takes (s : State) (r : Nat) (mv : BitVec 16) :
    let out := decide (r = 8) && (decide (mv.toInt < 7400) || decide (8600 < mv.toInt))
    s.railReads r mv = { s with keep := { s.keep with rail := Tab.set 0 s.keep.rail r mv, peOut := if r = 8 then out else s.keep.peOut },
                                syn := { s.syn with contention := if out then 0 else s.syn.contention } } := by
  unfold State.railReads
  by_cases h : r = 8
  · simp [h, State.pePower, State.modKeep, State.modSyn]
  · simp [h, State.modKeep]

/-! Temperatures and the ends of causes (R54, R299, R413). -/

theorem State.tjRise_below {s : State} {tj : Byte} {limit : Int} (h : tj.toInt ≤ limit) (idx native : Nat) :
    s.tjRise tj limit idx native = s.tjNow tj := if_neg (not_lt.mpr h)

theorem State.tjRise_above {s : State} {tj : Byte} {limit : Int} (h : limit < tj.toInt) (idx native : Nat) :
    s.tjRise tj limit idx native = (s.tjNow tj).raiseDev 1 idx 0 native := if_pos h

theorem State.causeEnds_stays {s : State} {src code : Nat} (h : endsHere src code = false) : s.causeEnds src code = s := if_pos (by simp [h])

/-- The state of the AFE's supply once the supply is back (R54). -/
def Clu.supplied (x : Clu) : Clu := { x with afeState := if x.afeState = 3 then (if x.afeReq then 2 else 0) else x.afeState }

theorem State.causeEnds_ends {s : State} {src code : Nat} (h : endsHere src code = true) : s.causeEnds src code =
    if srcLevel src = 1 ∧ srcIdx src = 0 then (s.endCond src code).modClu (srcInst src) Clu.supplied
    else if src = devSrc 3 4 then (s.endCond src code).modSyn fun y => { y with starIn := (true, y.starIn.2) } else s.endCond src code := by
  unfold State.causeEnds
  rw [if_neg (by simp [h])]
  simp only [Bool.and_eq_true, decide_eq_true_eq]
  rfl

theorem srcLevel_cluSrc {c : Nat} (hc : c < 8) : srcLevel (cluSrc c 0) = 1 ∧ srcIdx (cluSrc c 0) = 0 ∧ srcInst (cluSrc c 0) = c := by
  unfold srcLevel srcIdx srcInst cluSrc
  omega

/-- The cause that ends is gone from its source's; a supply that returns ends FAULT, and a STAR_IN that is back shows valid levels. -/
theorem State.causeEnds_spec {s : State} {src code : Nat} (h : endsHere src code = true) : let t := s.causeEnds src code
    (t.src src).causes = (s.src src).causes.filter (fun c => decide (c ≠ code)) ∧
    (∀ c : CluId, src = cluSrc c 0 → (t.clu c).afeState = (s.clu c).supplied.afeState) ∧
    (src ≠ devSrc 3 4 → t.syn = s.syn) ∧ t.calm = { s.calm with clus := t.clus, syn := t.syn } := by
  intro t
  have ht : t = _ := State.causeEnds_ends h
  have hcalm := s.calm_endCond src code
  have hclu : ∀ c, (s.endCond src code).clu c = s.clu c := State.clu_at_of_calm hcalm
  by_cases hs : srcLevel src = 1 ∧ srcIdx src = 0
  · rw [if_pos hs] at ht
    rw [ht]
    refine ⟨s.causes_endCond src code, fun c hc => ?_, fun _ => (State.syn_of_calm hcalm :), ?_⟩
    · rw [State.clu_modClu, if_pos (hc ▸ (srcLevel_cluSrc c.isLt).2.2), hclu, hc, (srcLevel_cluSrc c.isLt).2.2]
    · rw [← hcalm]
      rfl
  · rw [if_neg hs] at ht
    have hno : ∀ c : CluId, src ≠ cluSrc c 0 := fun c hc => hs (hc ▸ ⟨(srcLevel_cluSrc c.isLt).1, (srcLevel_cluSrc c.isLt).2.1⟩)
    by_cases h4 : src = devSrc 3 4
    · rw [if_pos h4] at ht
      rw [ht]
      refine ⟨s.causes_endCond src code, fun c hc => absurd hc (hno c), fun h => absurd h4 h, ?_⟩
      rw [← hcalm]
      rfl
    · rw [if_neg h4] at ht
      rw [ht]
      refine ⟨s.causes_endCond src code, fun c hc => absurd hc (hno c), fun _ => State.syn_of_calm hcalm, ?_⟩
      rw [← hcalm]
      rfl

/-- Settles O53: each source is one detection of its own, and the rails, the temperatures and the ends of causes are theirs as above. -/
theorem faultSources : Obligations.FaultSources := by
  unfold Obligations.FaultSources
  refine ⟨⟨fun s dt k => ?_, fun s dt c => ?_, fun s dt => ?_⟩, fun s dt => ?_⟩
  · intro a only
    have sends : ∀ {i : Instr} (idx code : Nat) {native : Nat}, exec i s = .next (a.raiseSlot k idx code native) → native ≠ 0 →
      only i idx code native := fun idx code _ hi hn => ⟨_, hi, a.raiseSlot_reports k idx code hn⟩
    exact ⟨sends 9 0 rfl (by decide), sends 9 1 rfl (by decide), sends 9 2 rfl (by decide), sends 10 0 rfl (by decide),
      sends 10 1 rfl (by decide), sends 10 2 rfl (by decide), sends 11 0 rfl (by decide), sends 11 1 rfl (by decide), sends 11 2 rfl (by decide)⟩
  · intro a only
    have sends : ∀ {i : Instr} (idx code : Nat) {native : Nat}, exec i s = .next (a.raiseClu c idx code native) → native ≠ 0 →
      only i idx code native := fun idx code _ hi hn => ⟨_, hi, a.raiseClu_reports c idx code hn⟩
    exact ⟨sends 1 0 rfl (by decide), sends 1 1 rfl (by decide), sends 6 0 rfl (by decide), sends 6 1 rfl (by decide),
      sends 8 0 rfl (by decide), sends 8 1 rfl (by decide), sends 9 0 rfl (by decide), sends 10 0 rfl (by decide), sends 11 0 rfl (by decide),
      _, rfl, a.supplyTrip_faults c⟩
  · intro a only
    have sends : ∀ {i : Instr} (page idx : Nat) {native : Nat}, exec i s = .next (a.raiseDev page idx 0 native) → native ≠ 0 →
      only i page idx native := fun page idx _ hi hn => ⟨_, hi, a.raiseDev_reports page idx 0 hn⟩
    refine ⟨sends 0 1 rfl (by decide), sends 6 2 rfl (by decide), sends 4 3 rfl (by decide), sends 4 4 rfl (by decide), fun h => ?_, fun h => ?_⟩
    · exact ⟨_, congrArg Host.Outcome.next (if_pos h),
        (a.modHost fun h => { h with retrains := satInc 65535 h.retrains }).raiseDev_reports 4 1 0 (native := 1) (by decide)⟩
    · exact congrArg Host.Outcome.next (if_neg (Bool.eq_false_iff.mp h))
  · intro a k
    refine ⟨fun r => ⟨⟨_, rfl, a.railAssert_warns r⟩, ⟨_, rfl, ?_⟩, fun trip => ⟨_, rfl, a.railRelease_releases r trip⟩,
      fun mv => congrArg Host.Outcome.next (a.railReads_takes r mv)⟩, fun tj => ⟨fun h => ?_, fun h => ?_, fun h => ?_, fun h => ?_⟩, fun _ => rfl,
      fun src code => ⟨fun h => congrArg Host.Outcome.next (State.causeEnds_stays h), fun h => ⟨_, rfl, State.causeEnds_spec h⟩⟩⟩
    · rw [State.railAssert_trips]
      exact (a.tripped r).raiseDev_reports 1 r 1 (by decide)
    · exact congrArg Host.Outcome.next (State.tjRise_below h 12 2)
    · exact ⟨_, congrArg Host.Outcome.next (State.tjRise_above h 12 2), (a.tjNow tj).raiseDev_reports 1 12 0 (by decide)⟩
    · exact congrArg Host.Outcome.next (State.tjRise_below h 13 3)
    · exact ⟨_, congrArg Host.Outcome.next (State.tjRise_above h 13 3), (a.tjNow tj).raiseDev_reports 1 13 0 (by decide)⟩

end Sys2Proof.Machine

namespace Sys2Proof.Machine

/-! ### Life cycle, tamper inputs, keys and erases (O40 to O42) -/

/-! What the frames that a byte stream holds leave alone (R122 to R127). -/

/-- The state without what the intake works on: the windows, the stacks, the tags, what error correction counts, and traces of detections. -/
def State.apart (s : State) : State := { s.unread with wins := [], stackMem := [] }

theorem State.apart_of_unread {s t : State} (h : t.unread = s.unread) : t.apart = s.apart :=
  congrArg (fun u : State => { u with wins := [], stackMem := [] }) h

theorem State.sec_of_apart {s t : State} (h : t.apart = s.apart) : t.sec = s.sec := (congrArg State.sec h :)
theorem State.keep_of_apart {s t : State} (h : t.apart = s.apart) : t.keep = s.keep := (congrArg State.keep h :)
theorem State.wsMem_of_apart {s t : State} (h : t.apart = s.apart) : t.wsMem = s.wsMem := (congrArg State.wsMem h :)

theorem State.apart_modIk (s : State) (w : Nat) (f : IntakeSt → IntakeSt) : (s.modIk w f).apart = s.apart := rfl

theorem State.apart_breakStream (s : State) (w cause : Nat) (sh : Shelf) : (s.breakStream w cause sh).apart = s.apart := by
  unfold State.breakStream
  exact (State.apart_of_unread (State.unread_of_calm (State.calm_raiseSeg ..))).trans (s.apart_modIk ..)

theorem State.apart_modSl (s : State) (w : Nat) (f : SluSt → SluSt) : (s.modSl w f).apart = s.apart := rfl

theorem State.apart_stockIndicate (s : State) (w : Nat) : (s.stockIndicate w).apart = s.apart := by
  unfold State.stockIndicate
  exact s.apart_modSl ..

theorem State.apart_commitFrame (s : State) (w : Nat) (d : RawDesc) (last secret : Bool) (payload : List Byte) (part : PartReads) :
    (s.commitFrame w d last secret payload part).apart = s.apart := by
  unfold State.commitFrame
  extract_lets n base size pos bs s0 new s1 s2 s3
  have h0 : s0.apart = s.apart := State.apart_of_unread (s.unread_rmwRing ..)
  have h1 : s1.apart = s0.apart := by
    dsimp only [s1]
    rw [State.storeRing_eq]
    rfl
  have h2 : s2.unread = s1.unread := by
    dsimp only [s2]
    split
    · split
      · exact s1.unread_tagGranules ..
      · exact (State.unread_tagGranules ..).trans (s1.unread_tagGranules ..)
    · rfl
  refine (State.apart_stockIndicate ..).trans ((s3.apart_modIk ..).trans ((s2.apart_modSl ..).trans ?_))
  exact (State.apart_of_unread h2).trans (h1.trans h0)

/-- What the front of a byte stream leads to leaves the rest of the part. -/
def Parsed.KeepsApart (s : State) : Parsed → Prop
  | .wait => True
  | .next t => t.apart = s.apart

theorem State.apart_streamFrame (s : State) (w h : Nat) (bs : List Byte) (total : Nat) (rd : IntakeReads) :
    (s.streamFrame w h bs total rd).KeepsApart s := by
  unfold State.streamFrame
  extract_lets k sealed_ id last sh len s1 body s2 p
  have h2 : s2.apart = s1.apart := State.apart_of_unread (s1.unread_eccBankSeen ..)
  split
  · exact s.apart_breakStream ..
  · extract_lets n sum
    split
    · exact s.apart_breakStream ..
    · split
      · exact s.apart_breakStream ..
      · split
        · split
          · trivial
          · show (if p.2 = 0 then _ else _ : State).apart = _
            split
            · exact (s2.apart_commitFrame ..).trans h2
            · exact (s2.apart_breakStream ..).trans h2
        · split
          · trivial
          · exact s1.apart_commitFrame ..

theorem State.apart_loadFrame (s : State) (w h : Nat) (bs : List Byte) (total : Nat) (rd : IntakeReads) :
    (s.loadFrame w h bs total rd).KeepsApart s := by
  unfold State.loadFrame
  extract_lets id len dest s1 p s2 out s3
  have h1 : s1.apart = s.apart := (State.apart_of_unread (State.unread_eccBankSeen ..)).trans (s.apart_modIk ..)
  have h3 : s3.apart = s.apart := (State.apart_of_unread (s1.unread_tagGranules ..) :).trans h1
  split
  · exact s.apart_breakStream ..
  · split
    · exact s.apart_breakStream ..
    · split
      · trivial
      · split
        · exact (s1.apart_breakStream ..).trans h1
        · show (if p.2 = 0 then _ else _ : State).apart = _
          split
          · exact h3
          · exact (s3.apart_breakStream ..).trans h3

theorem State.apart_parseFrame (s : State) (w : Nat) (rd : IntakeReads) : (s.parseFrame w rd).KeepsApart s := by
  unfold State.parseFrame
  extract_lets k bs h ty body total
  split
  · trivial
  · split
    · exact s.apart_breakStream ..
    · split
      · split
        · trivial
        · exact s.apart_modIk ..
      · split
        · split
          · exact s.apart_breakStream ..
          · exact s.apart_loadFrame ..
        · split
          · exact s.apart_streamFrame ..
          · trivial

theorem State.apart_parse (s : State) (w : Nat) (rd : IntakeReads) : (s.parse w rd).apart = s.apart := by
  unfold State.parse
  generalize (s.ik w).bytes.length / 32 + 1 = fuel
  induction fuel generalizing s with
  | zero => rfl
  | succ n ih =>
    have hf := s.apart_parseFrame w rd
    unfold State.parseAll
    split
    · rfl
    · next s1 he =>
      rw [he] at hf
      exact (ih s1).trans hf

/-! Wipes (R316, R319). -/

/-- Every visit of a pass that changes nothing leaves the pass's state. -/
theorem State.each_id {α : Type} {s : State} {l : List α} {f : State → α → State} (h : ∀ x ∈ l, f s x = s) : s.each l f = s := by
  induction l with
  | nil => rfl
  | cons x r ih =>
    unfold State.each at ih ⊢
    rw [List.foldl_cons, h x List.mem_cons_self]
    exact ih fun y hy => h y (List.mem_cons_of_mem _ hy)

/-- The security registers once a wipe has begun: no key is loaded, and a load in progress is overtaken. -/
def SecSt.wiped (x : SecSt) : SecSt :=
  { x with keyMap := 0, wiping := true, keyOp := x.keyOp.map fun (k : Nat × Nat) => if k.1 = 3 then k else (0, k.2) }

/-- The state with every key slot zero, before the frames that wait are looked at. -/
def State.wiped (s : State) : State := (s.setWs (Memory.zero s.wsMem (keyAddr 0) (keyAddr 64))).modSec SecSt.wiped

theorem State.startWipe_eq (s : State) : s.startWipe = s.wiped.each (List.range 128) fun s w => s.parse w {} := rfl

theorem State.apart_startWipe (s : State) : s.startWipe.apart = s.wiped.apart := State.each_proj State.apart _ _ fun s w => s.apart_parse w {}

theorem State.startWipe_noFrames {s : State} (h : ∀ w < 128, (s.ik w).bytes.length < 32) : s.startWipe = s.wiped :=
  State.each_id fun w hw => State.parse_short (s := s.wiped) (h w (List.mem_range.mp hw)) {}

theorem State.endWipe_wiping {s : State} (h : s.sec.wiping = true) : s.endWipe =
    (s.setWs (Memory.zero s.wsMem (bankBase 11) (keyAddr 0))).modSec fun x => { x with
      wiping := false, staged := 0, kekWords := 0, keyWords := 0, wipes := satInc 65535 x.wipes } := if_neg (by simp [h])

theorem State.endWipe_idle {s : State} (h : s.sec.wiping = false) : s.endWipe = s := if_pos (by simp [h])

/-! Tamper inputs (R316 to R318, R320). -/

/-- The security registers once tamper input `i` has been detected at GT `gt`. -/
def SecSt.tampered (x : SecSt) (i gt : Nat) : SecSt := { x with tamperT := gt, active := if i = 1 then x.active else putBit x.active i true }

/-- Tamper input `i` is watched: POR_N is high and, for the voltage and the clock, VDD_AON lies within its conditions. -/
def State.watches (s : State) (i : Nat) : Prop := s.dev.porLow = false ∧ (i = 1 ∨ i = 2 → s.keep.railBits.getLsbD 11 = false)

theorem State.tamper_detected {s : State} {i : Nat} (h : s.watches i) : ∃ u : State, u.calm = s.calm ∧
    s.tamper i = (u.modSec fun x => x.tampered i (gtOf s.t)).startWipe := by
  obtain ⟨hp, hv⟩ := h
  refine ⟨s.raiseAt (devSrc 11 i) 0 2 nullShelf (tamperValue (devSrc 11 i) s.t false) s.t, State.calm_raiseAt .., ?_⟩
  unfold State.tamper
  extract_lets src
  rw [if_neg (by simp [hp]), if_neg ?_]
  · rfl
  · simpa using hv

theorem State.tamper_unpowered {s : State} (h : s.dev.porLow = true) (i : Nat) :
    s.tamper i = if i = 0 then { s with keep := { s.keep with unpowered := putBit s.keep.unpowered 0 true } } else s := if_pos h

/-- What a detected tamper input leaves of the working store and the security registers, and that nothing else changes without a waiting frame. -/
theorem State.tamper_wipes {s : State} {i : Nat} (h : s.watches i) : let t := s.tamper i
    t.sec = (s.sec.tampered i (gtOf s.t)).wiped ∧ t.wsMem = Memory.zero s.wsMem (keyAddr 0) (keyAddr 64) ∧
    ((∀ w < 128, (s.ik w).bytes.length < 32) → t.calm = { s.calm with sec := t.sec, wsMem := t.wsMem }) := by
  obtain ⟨u, hu, ht⟩ := State.tamper_detected h
  have hsec : u.sec = s.sec := State.sec_of_calm hu
  have hws : u.wsMem = s.wsMem := State.wsMem_of_calm hu
  have ha := (u.modSec fun x => x.tampered i (gtOf s.t)).apart_startWipe
  have hsec' := (State.sec_of_apart ha).trans (congrArg (fun x => (SecSt.tampered x i (gtOf s.t)).wiped) hsec)
  have hws' := (State.wsMem_of_apart ha).trans (congrArg (Memory.zero · (keyAddr 0) (keyAddr 64)) hws)
  rw [ht]
  refine ⟨hsec', hws', fun hw => ?_⟩
  have hik (w : Nat) : u.ik w = s.ik w := congrArg Win.ik (State.win_at_of_calm hu w)
  rw [State.startWipe_noFrames (s := u.modSec fun x => x.tampered i (gtOf s.t)) fun w hlt => (congrArg (·.bytes.length) (hik w)).trans_lt (hw w hlt),
    ← hu]
  rfl

/-- Settles O41: a detected input is one wipe, and what is not watched makes none. -/
theorem tamperWipes : Obligations.TamperWipes := by
  unfold Obligations.TamperWipes
  intro s dt a wiped
  have wipes : ∀ {i : Nat}, a.watches i → wiped (a.tamper i) (if i = 1 then a.sec.active else putBit a.sec.active i true) := by
    intro i h
    obtain ⟨hsec, hws, hcalm⟩ := State.tamper_wipes h
    refine ⟨by rw [hsec]; rfl, by rw [hsec]; rfl, by rw [hsec]; rfl, by rw [hsec]; rfl, fun x hl hh => ?_, fun x hx => ?_, hcalm⟩
    · rw [hws, Memory.read_zero, if_pos ⟨hl, hh⟩]
    · rw [hws, Memory.read_zero, if_neg (by omega)]
  refine ⟨fun hp => ⟨⟨_, rfl, wipes ⟨hp, by omega⟩⟩, fun hr => ⟨⟨_, rfl, wipes ⟨hp, fun _ => hr⟩⟩, ⟨_, rfl, wipes ⟨hp, fun _ => hr⟩⟩⟩,
    ⟨_, rfl, wipes ⟨hp, by omega⟩⟩⟩, fun hp => ?_, fun i => ⟨_, rfl, rfl⟩, fun hw => ⟨_, congrArg Host.Outcome.next (State.endWipe_wiping hw), rfl, ?_⟩,
    fun hw => congrArg Host.Outcome.next (State.endWipe_idle hw)⟩
  · exact ⟨congrArg Host.Outcome.next (State.tamper_unpowered hp 0), congrArg Host.Outcome.next (State.tamper_unpowered hp 1),
      congrArg Host.Outcome.next (State.tamper_unpowered hp 2), congrArg Host.Outcome.next (State.tamper_unpowered hp 3)⟩
  · refine ⟨fun x hl hh => ?_, fun x hx => ?_, rfl⟩
    · exact (Memory.read_zero ..).trans (if_pos ⟨hl, hh⟩)
    · exact (Memory.read_zero ..).trans (if_neg (by omega))

end Sys2Proof.Machine

namespace Sys2Proof.Machine

/-! The secure erase (R325). -/

/-- The signal of a SEC bit changes the host port and sends messages, and leaves the rest of the part but the bit. -/
theorem State.secSignal_sends (s : State) (b : Nat) : ∃ h more, s.secSignal b = { s.latch 11 b with host := h, out := s.out ++ more } :=
  (s.latch 11 b).signal_sends _

theorem State.secSignal_frame (s : State) (b : Nat) : (s.secSignal b).sec = s.sec ∧ (s.secSignal b).keep = s.keep ∧ (s.secSignal b).mem = s.mem ∧
    (s.secSignal b).stackMem = s.stackMem ∧ (s.secSignal b).wsMem = s.wsMem := by
  obtain ⟨h, more, he⟩ := s.secSignal_sends b
  rw [he]
  exact ⟨rfl, rfl, rfl, rfl, rfl⟩

theorem State.mem_of_eraseSet {s : State} {pin : Option Nat} {k : Nat} : k ∈ s.eraseSet pin ↔
    Tab.get false s.mem.tags k = true ∧ s.stackOn (k / 6144 / 64) = true ∧ ∀ p, pin = some p → k / 6144 = p := by
  have hlisted : ∀ t : Tab Bool, Tab.get false t k = true → k ∈ t.map (·.1) := by
    intro t
    induction t with
    | nil => exact fun h => absurd h Bool.false_ne_true
    | cons e r ih =>
      obtain ⟨j, v⟩ := e
      by_cases hj : j = k
      · exact fun _ => hj ▸ List.mem_cons_self
      · intro h
        simp only [Tab.get, hj, if_false] at h
        exact List.mem_cons_of_mem _ (ih h)
  unfold State.eraseSet
  rw [List.mem_filter]
  cases pin <;> simp only [Bool.and_eq_true, decide_eq_true_eq]
  · exact ⟨fun ⟨_, h, _⟩ => ⟨h.1, h.2, by simp⟩, fun ⟨h, hs, _⟩ => ⟨hlisted _ h, ⟨h, hs⟩, trivial⟩⟩
  · exact ⟨fun ⟨_, h, hp⟩ => ⟨h.1, h.2, fun p he => Option.some.inj he ▸ hp⟩, fun ⟨h, hs, hp⟩ => ⟨hlisted _ h, ⟨h, hs⟩, hp _ rfl⟩⟩

/-- Byte `x` lies outside granule `k` (R77). -/
def OutsideGranule (k x : Nat) : Prop :=
  x < vecArea (k / 6144) + k % 6144 * 65536 ∨ vecArea (k / 6144) + k % 6144 * 65536 + 65536 ≤ x

/-- One granule is zeroed and its tag cleared. -/
def State.eraseOne (s : State) (k : Nat) : State :=
  let a := vecArea (k / 6144) + k % 6144 * 65536
  (s.setStack (Memory.zero s.stackMem a (a + 65536))).modMem fun m => { m with tags := Tab.set false m.tags k false }

theorem State.eraseGranules_eq (s : State) (pin : Option Nat) : s.eraseGranules pin =
    (s.each (s.eraseSet pin) State.eraseOne).modSec fun x => { x with granules := (s.eraseSet pin).length } := rfl

theorem State.eraseAll_spec (l : List Nat) (s : State) : let t := s.each l State.eraseOne
    (∀ k, Tab.get false t.mem.tags k = if k ∈ l then false else Tab.get false s.mem.tags k) ∧
    (∀ x, (∀ k ∈ l, OutsideGranule k x) → Memory.read t.stackMem x = Memory.read s.stackMem x) ∧ t.sec = s.sec ∧ t.keep = s.keep := by
  induction l generalizing s with
  | nil => exact ⟨fun _ => rfl, fun _ _ => rfl, rfl, rfl⟩
  | cons j r ih =>
    obtain ⟨htags, hmem, hsec, hkeep⟩ := ih (s.eraseOne j)
    refine ⟨fun k => (htags k).trans ?_, fun x hx => (hmem x fun k hk => hx k (List.mem_cons_of_mem _ hk)).trans ?_, hsec, hkeep⟩
    · have hset : Tab.get false (s.eraseOne j).mem.tags k = _ := Tab.get_set false s.mem.tags j k false
      rw [hset]
      by_cases hr : k ∈ r
      · rw [if_pos hr, if_pos (List.mem_cons_of_mem _ hr)]
      · by_cases hj : j = k
        · rw [if_neg hr, if_pos hj, if_pos (hj ▸ List.mem_cons_self)]
        · rw [if_neg hr, if_neg hj, if_neg (by simp [hr, Ne.symm hj])]
    · have hout := hx j List.mem_cons_self
      unfold OutsideGranule at hout
      exact (Memory.read_zero ..).trans (if_neg (by omega))

/-- The erase that has ended: its tags are gone, its granules are zero, and its result is posted. -/
structure Erased (s t : State) (pin : Option Nat) : Prop where
  tags : ∀ k, Tab.get false t.mem.tags k = if k ∈ s.eraseSet pin then false else Tab.get false s.mem.tags k
  stack : ∀ x, (∀ k ∈ s.eraseSet pin, OutsideGranule k x) → Memory.read t.stackMem x = Memory.read s.stackMem x
  sec : ∃ n, t.sec = { s.sec with granules := n, erase := none, eraseRes := { s.sec.eraseRes.done 1 0 with valid := true } }
  keep : t.keep = s.keep

theorem State.eraseEnd_erases {s : State} {pin : Option Nat} (h : s.sec.erase = some pin) (hs : s.eraseServed pin = true) :
    Erased s s.eraseEnd pin := by
  have he : s.eraseEnd = (((s.eraseGranules pin).modSec fun x => { x with erase := none }).erasePost 1 0).secSignal 7 := by
    unfold State.eraseEnd
    rw [h]
    exact if_pos hs
  obtain ⟨hsec', hkeep', hmem', hstack', -⟩ := (((s.eraseGranules pin).modSec fun x => { x with erase := none }).erasePost 1 0).secSignal_frame 7
  obtain ⟨htags, hstack, hsec, hkeep⟩ := State.eraseAll_spec (s.eraseSet pin) s
  rw [← he] at hsec' hkeep' hmem' hstack'
  rw [State.eraseGranules_eq] at hsec' hkeep' hmem' hstack'
  generalize s.each (s.eraseSet pin) State.eraseOne = u at *
  simp only [State.erasePost, State.bumpSeq_sec, State.bumpSeq_keep, State.bumpSeq_mem, State.bumpSeq_stackMem, State.modSec_sec, State.modSec_keep,
    State.modSec_mem, State.modSec_stackMem, Option.isNone_none] at hsec' hkeep' hmem' hstack'
  exact ⟨fun k => hmem' ▸ htags k, fun x hx => hstack' ▸ hstack x hx, ⟨(s.eraseSet pin).length, hsec'.trans (by rw [hsec])⟩, hkeep'.trans hkeep⟩

/-- An erase in no progress, or whose stacks do not serve, ends nothing; the security registers keep what no erase sets. -/
theorem State.eraseEnd_frame (s : State) : s.eraseEnd.keep = s.keep ∧ s.eraseEnd.sec.lc = s.sec.lc ∧ s.eraseEnd.sec.trans = s.sec.trans ∧
    s.eraseEnd.sec.wiping = s.sec.wiping := by
  cases h : s.sec.erase with
  | none =>
    have he : s.eraseEnd = s := by
      unfold State.eraseEnd
      rw [h]
    rw [he]
    exact ⟨rfl, rfl, rfl, rfl⟩
  | some pin =>
    by_cases hs : s.eraseServed pin = true
    · have e := State.eraseEnd_erases h hs
      obtain ⟨n, hn⟩ := e.sec
      rw [hn]
      exact ⟨e.keep, rfl, rfl, rfl⟩
    · have he : s.eraseEnd = s := by
        unfold State.eraseEnd
        rw [h]
        exact if_neg hs
      rw [he]
      exact ⟨rfl, rfl, rfl, rfl⟩

/-! The life cycle (R312 to R314, R331). -/

/-- A life-cycle request that is refused posts its reason, and one refused for its budget the Ledger's result too. -/
theorem State.lcRequest_refused {s : State} {target confirm : Nat} (h : s.lcFault target confirm ≠ 0) : ∃ u : State,
    u.sec = s.sec ∧ u.wsMem = s.wsMem ∧ s.lcRequest target confirm = (u.lcPost 2 (s.lcFault target confirm)).raiseDev 11 5 0 0 := by
  have he : s.lcRequest target confirm = _ := if_pos h
  rw [he]
  have hcalm := (s.rwlPost 2 2 1).calm_raiseDev 12 1 0 0
  refine ⟨_, ?_, ?_, rfl⟩ <;> split
  · exact (State.sec_of_calm hcalm).trans rfl
  · rfl
  · exact (State.wsMem_of_calm hcalm).trans rfl
  · rfl

/-- The security registers once a transition to `target` has been taken, before its wipe. -/
def SecSt.leaving (x : SecSt) (target : Nat) : SecSt := { x with trans := some target, res := x.res.busy }

theorem State.lcRequest_begins {s : State} {target confirm : Nat} (h : s.lcFault target confirm = 0) : ∃ u : State,
    u.sec = s.sec.leaving target ∧ u.keep.ledger = s.keep.ledger ∧
    s.lcRequest target confirm = if 3 ≤ target then u.startWipe.eraseBegin none else u.startWipe := by
  have he : s.lcRequest target confirm = _ := if_neg (not_not.mpr h)
  rw [he]
  refine ⟨_, ?_, ?_, rfl⟩
  · show SecSt.leaving (State.sec (ite ..)) target = _
    split <;> rfl
  · show (State.keep (ite ..)).ledger = _
    split <;> rfl

theorem State.lcFault_zero {s : State} {target confirm : Nat} (h : s.lcFault target confirm = 0) :
    lcLegal s.sec.lc target = true ∧ confirm = 0x7128 := by
  unfold State.lcFault at h
  split at h
  · exact absurd h (by decide)
  · split at h
    · exact absurd h (by decide)
    · next hc =>
      split at h
      · exact absurd h (by decide)
      · next hl => exact ⟨by simpa using hl, not_not.mp hc⟩

/-- What a transition leaves before its entry is programmed: the wipe over, the state still the old one, and from RETURNED on no KEK and no key. -/
structure Wound (s t : State) (target : Nat) : Prop where
  lc : t.sec.lc = s.sec.lc
  wiping : t.sec.wiping = false
  keyMap : 3 ≤ target → t.sec.keyMap = 0
  ledger : t.keep.ledger = s.keep.ledger
  kek : t.keep.kek = if target < 3 then s.keep.kek else none

/-- The state from which a transition to `target` programs its entry. -/
def State.wound (s : State) (target : Nat) : State := if 3 ≤ target then s.endWipe.eraseEnd.destroyKek.emptySlots else s.endWipe

theorem State.endWipe_frame (s : State) : s.endWipe.sec.lc = s.sec.lc ∧ s.endWipe.sec.wiping = false ∧ s.endWipe.keep = s.keep := by
  by_cases h : s.sec.wiping = true
  · rw [State.endWipe_wiping h]
    exact ⟨rfl, rfl, rfl⟩
  · have h := Bool.eq_false_iff.mpr h
    rw [State.endWipe_idle h]
    exact ⟨rfl, h, rfl⟩

theorem State.wound_spec (s : State) (target : Nat) : Wound s (s.wound target) target := by
  obtain ⟨hlc, hwiping, hkeep⟩ := s.endWipe_frame
  obtain ⟨hkeep', hlc', -, hwiping'⟩ := s.endWipe.eraseEnd_frame
  unfold State.wound
  generalize s.endWipe.eraseEnd = e at *
  split
  · next ht =>
    exact ⟨hlc'.trans hlc, hwiping'.trans hwiping, fun _ => rfl, (congrArg KeepSt.ledger (hkeep'.trans hkeep) :), (if_neg (by omega)).symm⟩
  · next ht =>
    exact ⟨hlc, hwiping, fun h => absurd h ht, congrArg KeepSt.ledger hkeep, (congrArg KeepSt.kek hkeep).trans (if_pos (by omega)).symm⟩

theorem State.nextBlank_of_ledger {s t : State} (h : t.keep.ledger = s.keep.ledger) : t.nextBlank = s.nextBlank := by
  unfold State.nextBlank
  rw [h]

/-- A transition that may end programs its entry, and posts what came of it. -/
theorem State.lcDone_ends {s : State} {target : Nat} (ht : s.sec.trans = some target) (he : target < 3 ∨ s.eraseServed none = true)
    (hq : s.keep.queue = []) (hn : s.nextBlank ≠ none) (ok : Bool) : ∃ u : State, u.sec = (s.wound target).sec ∧ u.keep.kek = (s.wound target).keep.kek ∧
    let v := u.modSec fun x => { x with trans := none }
    s.lcDone ok = if ok then (((v.modSec fun x => { x with lc := target }).lcPost 1 0).rwlPost 2 1 0).raiseDev 11 4 0 0
      else (v.lcPost 3 7).rwlPost 2 3 2 := by
  obtain ⟨i, hi⟩ := Option.ne_none_iff_exists'.mp ((State.nextBlank_of_ledger (s.wound_spec target).ledger).trans_ne hn)
  obtain ⟨hok, hcalm⟩ := State.program_spec hi 2 target (s.sec.lc + target * 256) 0 ok
  refine ⟨((s.wound target).program 2 target (s.sec.lc + target * 256) 0 ok).2, (State.sec_of_calm hcalm).trans rfl,
    (congrArg KeepSt.kek (State.keep_of_calm hcalm)).trans rfl, ?_⟩
  have hgo : ((decide (3 ≤ target) && !s.eraseServed none) || !s.keep.queue.isEmpty) = false := by
    rcases he with he | he
    · simp [hq, he]
    · simp [hq, he]
  unfold State.lcDone
  rw [ht]
  dsimp -zeta only
  rw [if_neg (by simp [hgo])]
  extract_lets v s1 s2 p s3
  have hv : s3 = v := rfl
  have hp : p.1 = ok := hok
  rw [hp, hv]

/-- Settles O40: a request is refused or begins its wipe, and its end programs its entry from the state the wipe has left. -/
theorem lifeCycle : Obligations.LifeCycle := by
  unfold Obligations.LifeCycle
  refine ⟨fun s dt target confirm => ?_, fun s dt target => ?_⟩
  · intro a f ht
    refine ⟨fun h => ?_, fun h => ?_⟩
    · obtain ⟨u, hsec, hws, he⟩ := State.lcRequest_refused h
      have hcalm := (u.lcPost 2 f).calm_raiseDev 11 5 0 0
      have hsec' : ((u.lcPost 2 f).raiseDev 11 5 0 0).sec = { a.sec with res := { a.sec.res.done 2 f with valid := a.sec.trans.isNone } } :=
        (State.sec_of_calm hcalm).trans (congrArg (fun x : SecSt => { x with res := { x.res.done 2 f with valid := x.trans.isNone } }) hsec)
      refine ⟨_, State.next_hostWrite ht he, ?_, ?_, ?_, ?_, ?_, (State.wsMem_of_calm hcalm).trans hws⟩ <;> rw [hsec'] <;> rfl
    · obtain ⟨u, hsec, hledger, he⟩ := State.lcRequest_begins h
      obtain ⟨hlegal, hconfirm⟩ := State.lcFault_zero h
      have hap := u.apart_startWipe
      have hsec' : u.startWipe.sec = (a.sec.leaving target.toNat).wiped := (State.sec_of_apart hap).trans (congrArg SecSt.wiped hsec)
      have hkeep' : u.startWipe.keep = u.keep := (State.keep_of_apart hap).trans rfl
      refine ⟨_, State.next_hostWrite ht he, ?_⟩
      have hlc : confirm = 0x7128 := BitVec.eq_of_toNat_eq hconfirm
      clear hap he
      generalize u.startWipe = e at *
      split
      · have hsec3 : (e.eraseBegin none).sec = { (a.sec.leaving target.toNat).wiped with
            erase := some none, eraseRes := (a.sec.leaving target.toNat).wiped.eraseRes.busy } :=
          congrArg (fun x : SecSt => { x with erase := some none, eraseRes := x.eraseRes.busy }) hsec'
        refine ⟨?_, ?_, ?_, ?_, hlegal, hlc, (congrArg KeepSt.ledger hkeep' :).trans hledger⟩ <;> rw [hsec3] <;> rfl
      · refine ⟨?_, ?_, ?_, ?_, hlegal, hlc, (congrArg KeepSt.ledger hkeep').trans hledger⟩ <;> rw [hsec'] <;> rfl
  · intro a htr he hq hn
    have w := a.wound_spec target
    refine ⟨?_, ?_⟩
    · obtain ⟨u, hsec, hkek, hdone⟩ := State.lcDone_ends htr he hq hn true
      have hcalm := ((((u.modSec fun x => { x with trans := none }).modSec fun x => { x with lc := target }).lcPost 1 0).rwlPost 2 1 0).calm_raiseDev 11 4 0 0
      have hs := State.sec_of_calm hcalm
      refine ⟨_, congrArg Host.Outcome.next (hdone.trans (if_pos rfl)), ?_, ?_, ?_, ?_, ?_, fun h3 => ?_⟩
      · exact congrArg SecSt.lc hs
      · exact congrArg SecSt.trans hs
      · exact (congrArg SecSt.wiping hs).trans ((congrArg SecSt.wiping hsec).trans w.wiping)
      · exact congrArg (·.res.outcome) hs
      · exact (congrArg KeepSt.kek (State.keep_of_calm hcalm)).trans (hkek.trans w.kek)
      · exact (congrArg SecSt.keyMap hs).trans ((congrArg SecSt.keyMap hsec).trans (w.keyMap h3))
    · obtain ⟨u, hsec, hkek, hdone⟩ := State.lcDone_ends htr he hq hn false
      exact ⟨_, congrArg Host.Outcome.next (hdone.trans (if_neg Bool.false_ne_true)), (congrArg SecSt.lc hsec :).trans w.lc, rfl,
        (congrArg SecSt.wiping hsec :).trans w.wiping, rfl, rfl⟩

end Sys2Proof.Machine

namespace Sys2Proof.Machine

/-! Key slots (R321, R322). -/

theorem Memory.store_spec (m : List Host.Cell) (a : Nat) {l : List Byte} {n : Nat} (hn : l.length = n) :
    Memory.load (Memory.store m a l) a n = l ∧ ∀ x, (x < a ∨ a + n ≤ x) → Memory.read (Memory.store m a l) x = Memory.read m x := by
  subst hn
  refine ⟨Memory.load_store m a l, fun x hx => ?_⟩
  rcases hx with hx | hx
  · exact Memory.read_store_below m a x l hx
  · exact Memory.read_store_above m a x l hx

/-- The security registers once a key command has ended or has been refused. -/
def SecSt.keyPosted (x : SecSt) (slot outcome reason : Nat) : SecSt :=
  { x with keyRes := { x.keyRes.done outcome reason with valid := x.keyOp.isNone }, keySlot := slot, keyWords := 0 }

theorem State.keyPost_spec (s : State) (slot outcome reason : Nat) :
    (s.keyPost slot outcome reason).sec = s.sec.keyPosted slot outcome reason ∧ (s.keyPost slot outcome reason).wsMem = s.wsMem := by
  unfold State.keyPost
  dsimp only
  split
  · obtain ⟨hsec, -, -, -, hws⟩ :=
      ((s.modSec fun x => x.keyPosted slot outcome reason).bumpSeq 11).secSignal_frame 6
    exact ⟨hsec, hws⟩
  · exact ⟨rfl, rfl⟩

theorem State.keyCmd_begins {s : State} {op slot : Nat} (h : s.keyFault op slot = 0) :
    s.keyCmd op slot = s.modSec fun x => { x with keyOp := some (op, slot), keyIn := x.keyWords, keyRes := x.keyRes.busy } :=
  if_neg (not_not.mpr h)

theorem State.keyCmd_refused {s : State} {op slot : Nat} (h : s.keyFault op slot ≠ 0) :
    s.keyCmd op slot = s.keyPost slot 2 (s.keyFault op slot) :=
  if_pos h

/-- A key slot of the working store holds `key`, no other byte of the store has changed, and `KEY_MAP` follows. -/
structure KeyPut (s t : State) (slot : Nat) (key : Option (BitVec 256)) : Prop where
  map : slot < 64 → t.sec.keyMap.getLsbD slot = key.isSome
  bytes : Memory.load t.wsMem (keyAddr slot) 32 = bytesOf (key.getD 0).toNat 32
  rest : ∀ x, (x < keyAddr slot ∨ keyAddr slot + 32 ≤ x) → Memory.read t.wsMem x = Memory.read s.wsMem x
  op : t.sec.keyOp = none
  done : t.sec.keyRes.outcome = 1

/-- A key command that has run to its end, and puts `key` in its slot. -/
def State.keyTaken (s : State) (slot : Nat) (key : Option (BitVec 256)) : State :=
  ((s.modSec fun x => { x with keyOp := none, keyIn := 0 }).putKey slot key).keyPost slot 1 0

theorem State.keyTaken_puts (s : State) (slot : Nat) (key : Option (BitVec 256)) : KeyPut s (s.keyTaken slot key) slot key := by
  obtain ⟨hsec, hws⟩ := ((s.modSec fun x => { x with keyOp := none, keyIn := 0 }).putKey slot key).keyPost_spec slot 1 0
  obtain ⟨hload, hrest⟩ := Memory.store_spec s.wsMem (keyAddr slot) (length_bytesOf 32 (key.getD 0).toNat)
  exact {
    map := fun h => (congrArg (fun x : SecSt => x.keyMap.getLsbD slot) hsec).trans ((getLsbD_putBit s.sec.keyMap slot key.isSome h).trans (if_pos rfl))
    bytes := (congrArg (Memory.load · (keyAddr slot) 32) hws).trans hload
    rest := fun x hx => (congrArg (Memory.read · x) hws).trans (hrest x hx)
    op := congrArg SecSt.keyOp hsec
    done := congrArg (·.keyRes.outcome) hsec }

/-- A key command that has run to its end without effect on the slots. -/
def State.keyFailed (s : State) (slot reason : Nat) : State := (s.modSec fun x => { x with keyOp := none, keyIn := 0 }).keyPost slot 2 reason

theorem State.keyFailed_keeps (s : State) (slot reason : Nat) : (s.keyFailed slot reason).sec.keyRes.outcome = 2 ∧
    (s.keyFailed slot reason).sec.keyRes.reason = reason ∧ (s.keyFailed slot reason).wsMem = s.wsMem ∧
    (s.keyFailed slot reason).sec.keyMap = s.sec.keyMap := by
  obtain ⟨hsec, hws⟩ := (s.modSec fun x => { x with keyOp := none, keyIn := 0 }).keyPost_spec slot 2 reason
  exact ⟨congrArg (·.keyRes.outcome) hsec, congrArg (·.keyRes.reason) hsec, hws, congrArg (·.keyMap) hsec⟩

theorem State.keyEnd_overtaken {s : State} {slot : Nat} (h : s.sec.keyOp = some (0, slot)) : s.keyEnd = s.keyFailed slot 3 := by
  unfold State.keyEnd
  rw [h]
  rfl

theorem State.keyEnd_plain {s : State} {slot : Nat} (h : s.sec.keyOp = some (2, slot)) :
    s.keyEnd = s.keyTaken slot (some (BitVec.ofNat 256 s.sec.keyIn.toNat)) := by
  unfold State.keyEnd
  rw [h]
  rfl

theorem State.keyEnd_clear {s : State} {slot : Nat} (h : s.sec.keyOp = some (3, slot)) : s.keyEnd = s.keyTaken slot none := by
  unfold State.keyEnd
  rw [h]
  rfl

theorem State.keyEnd_wrapped {s : State} {slot : Nat} (h : s.sec.keyOp = some (1, slot)) :
    s.keyEnd = match s.keep.kek.bind fun k => unwrapKey k s.sec.keyIn with
      | none => s.keyFailed slot 4
      | some key => s.keyTaken slot (some key) := by
  unfold State.keyEnd
  rw [h]
  rfl

theorem Memory.getElem?_load (m : List Host.Cell) (a n i : Nat) (h : i < n) : (Memory.load m a n)[i]? = some (Memory.read m (a + i)) := by
  induction n generalizing a i with
  | zero => exact absurd h (by omega)
  | succ n ih =>
    cases i with
    | zero => rfl
    | succ i => exact (ih (a + 1) i (by omega)).trans (by rw [Nat.add_right_comm, Nat.add_assoc])

theorem Memory.read_of_load {m : List Host.Cell} {a n : Nat} {l : List Byte} (h : Memory.load m a n = l) {x : Nat} (hx : a ≤ x) (hn : x < a + n) :
    l[x - a]? = some (Memory.read m x) := by
  subst h
  obtain ⟨i, rfl⟩ := Nat.exists_eq_add_of_le hx
  rw [Nat.add_sub_cancel_left]
  exact Memory.getElem?_load m a n i (by omega)

theorem bytesOf_zero (n : Nat) : bytesOf 0 n = List.replicate n 0 := by
  induction n with
  | zero => rfl
  | succ n ih => exact congrArg (0 :: ·) ih

/-! The secure store (R323). -/

theorem State.storeWord_forbidden {s : State} (v : Word) (h : 2 < s.sec.lc ∨ s.sec.active ≠ 0 ∨ s.sec.wiping = true) : s.storeWord v = s := by
  have hf : (2 < s.sec.lc || s.sec.active ≠ 0 || s.sec.wiping : Bool) = true := by
    simpa [or_assoc] using h
  exact if_pos hf

/-- A word written to the secure store, and the address that moves on. -/
structure StoreKept (s t : State) (v : Word) : Prop where
  bytes : Memory.load t.wsMem (bankBase 11 + 8 * bits (s.dreg 11 0x0E0) 0 15) 8 = bytesOf v.toNat 8
  rest : ∀ x, (x < bankBase 11 + 8 * bits (s.dreg 11 0x0E0) 0 15 ∨ bankBase 11 + 8 * bits (s.dreg 11 0x0E0) 0 15 + 8 ≤ x) →
    Memory.read t.wsMem x = Memory.read s.wsMem x
  addr : t.dreg 11 0x0E0 = if bit (s.dreg 11 0x0E0) 16 then (bits (s.dreg 11 0x0E0) 0 15 + 1) % 32768 + 65536 else s.dreg 11 0x0E0
  frame : t = { s with wsMem := t.wsMem, regs := t.regs }

theorem State.storeWord_stores {s : State} (v : Word) (hlc : s.sec.lc ≤ 2) (ha : s.sec.active = 0) (hw : s.sec.wiping = false) :
    StoreKept s (s.storeWord v) v := by
  obtain ⟨hload, hrest⟩ := Memory.store_spec s.wsMem (bankBase 11 + 8 * bits (s.dreg 11 0x0E0) 0 15) (length_bytesOf 8 v.toNat)
  have he : s.storeWord v = _ := if_neg (by simp [ha, hw]; omega)
  rw [he]
  dsimp only
  split
  · next hb =>
    have hreg : ∀ (u : State) (v : Nat), v < 2 ^ 64 → (u.setReg (pageAddr 11 0x0E0) v).dreg 11 0x0E0 = v := fun u v hv => u.reg_setReg_self _ hv
    have hlt : (bits (s.dreg 11 0x0E0) 0 15 + 1) % 32768 + 65536 < 2 ^ 64 :=
      Nat.lt_trans (Nat.add_lt_add_right (Nat.mod_lt _ (by decide)) _) (by decide)
    generalize hval : (bits (s.dreg 11 0x0E0) 0 15 + 1) % 32768 + 65536 = moved at *
    exact ⟨hload, hrest, (hreg _ moved hlt).trans (hval.symm.trans (if_pos hb).symm), rfl⟩
  · next hb => exact ⟨hload, hrest, (if_neg hb).symm, rfl⟩

/-! Erase commands (R325). -/

theorem State.eraseStart_begins {s : State} {pin : Option Nat}
    (h : ∀ w ∈ (match pin with | some p => [p] | none => List.range 128), s.armedRun w = false) (he : s.sec.erase = none) (ht : s.sec.trans = none) :
    s.eraseStart pin = s.eraseBegin pin := by
  unfold State.eraseStart
  rw [he, ht]
  refine (if_neg ?_).trans rfl
  rw [Bool.not_eq_true, List.any_eq_false]
  exact fun w hw => Bool.eq_false_iff.mp (h w hw)

theorem State.eraseStart_inUse {s : State} {pin : Option Nat}
    (h : ∃ w ∈ (match pin with | some p => [p] | none => List.range 128), s.armedRun w = true) : s.eraseStart pin = s.erasePost 2 1 :=
  if_pos (List.any_eq_true.mpr h)

/-- Settles O42: each command and each end is one case of the model's, whose effect on the slots, the store and the granules its lemma states. -/
theorem keysStoreAndErase : Obligations.KeysStoreAndErase := by
  unfold Obligations.KeysStoreAndErase
  refine ⟨⟨fun s dt slot => ?_, fun s dt slot => ?_⟩, ⟨fun s dt val => ?_, fun s dt pin all => ?_, fun s dt sel => ?_⟩⟩
  · intro a begun refused ht
    have begins : ∀ op i, exec i s = .next (a.hostWrite 11 i fun s => s.keyCmd op slot.toNat) → a.keyFault op slot.toNat = 0 →
        ∃ t, exec i s = .next t ∧ begun t op := fun op i hi h =>
      ⟨_, hi.trans (State.next_hostWrite ht (State.keyCmd_begins h)), rfl, rfl⟩
    have refuses : ∀ op i, exec i s = .next (a.hostWrite 11 i fun s => s.keyCmd op slot.toNat) → a.keyFault op slot.toNat ≠ 0 →
        ∃ t, exec i s = .next t ∧ refused t (a.keyFault op slot.toNat) := fun op i hi h => by
      obtain ⟨hsec, hws⟩ := a.keyPost_spec slot.toNat 2 (a.keyFault op slot.toNat)
      refine ⟨_, hi.trans (State.next_hostWrite ht (State.keyCmd_refused h)), ?_⟩
      refine ⟨congrArg (·.keyMap) hsec, congrArg (·.keyOp) hsec, congrArg (·.keyRes.outcome) hsec, congrArg (·.keyRes.reason) hsec,
        congrArg (·.keySlot) hsec, congrArg (·.keyWords) hsec, hws⟩
    exact ⟨begins 2 _ rfl, begins 1 _ rfl, begins 3 _ rfl, refuses 2 _ rfl, refuses 1 _ rfl, refuses 3 _ rfl⟩
  · intro a hslot
    refine ⟨fun h => ?_, fun h => ?_, fun h => ?_, fun h => ?_⟩
    · have k := a.keyTaken_puts slot (some (BitVec.ofNat 256 a.sec.keyIn.toNat))
      exact ⟨_, congrArg Host.Outcome.next (State.keyEnd_plain h), k.map hslot, k.op, k.bytes, k.done, k.rest⟩
    · have k := a.keyTaken_puts slot none
      refine ⟨_, congrArg Host.Outcome.next (State.keyEnd_clear h), k.map hslot, k.done, fun x hx hn => ?_, k.rest⟩
      have hread := Memory.read_of_load (k.bytes.trans (bytesOf_zero 32)) hx hn
      rw [List.getElem?_replicate_of_lt (by omega)] at hread
      exact (Option.some.inj hread).symm
    · refine ⟨_, congrArg Host.Outcome.next (State.keyEnd_wrapped h), fun key hk => ?_, fun hk => ?_⟩
      · have k := a.keyTaken_puts slot (some key)
        rw [hk]
        exact ⟨k.map hslot, k.done, k.bytes, k.rest⟩
      · rw [hk]
        exact a.keyFailed_keeps slot 4
    · exact ⟨_, congrArg Host.Outcome.next (State.keyEnd_overtaken h), a.keyFailed_keeps slot 3⟩
  · intro a r ht
    refine ⟨fun hlc hact hw => ?_, fun h => State.next_hostWrite ht (State.storeWord_forbidden val h)⟩
    have st := State.storeWord_stores val hlc hact hw
    exact ⟨_, State.next_hostWrite ht rfl, st.bytes, st.rest, st.addr, st.frame⟩
  · intro a covers ht
    have hcov : ∀ w, w ∈ (match (if all then none else some pin.toNat : Option Nat) with | some p => [p] | none => List.range 128) ↔
        w < 128 ∧ covers w := by
      intro w
      cases all
      · refine List.mem_singleton.trans ⟨?_, And.right⟩
        exact fun h => ⟨h ▸ pin.isLt, h⟩
      · exact List.mem_range.trans ⟨fun h => ⟨h, h⟩, And.left⟩
    refine ⟨fun h he htr => ?_, fun ⟨w, hw, hc, har⟩ => ?_⟩
    · exact ⟨_, State.next_hostWrite ht (State.eraseStart_begins (fun w hw => h w ((hcov w).mp hw).1 ((hcov w).mp hw).2) he htr), rfl, rfl, rfl⟩
    · exact ⟨_, State.next_hostWrite ht (State.eraseStart_inUse ⟨w, (hcov w).mpr ⟨hw, hc⟩, har⟩), rfl, rfl, rfl, rfl⟩
  · intro a gone he hs
    have e := State.eraseEnd_erases he hs
    obtain ⟨n, hsec⟩ := e.sec
    refine ⟨_, rfl, congrArg SecSt.erase hsec, congrArg (·.eraseRes.outcome) hsec, fun k hk => ?_, fun k hk => ?_, fun x hx => ?_⟩
    · refine (e.tags k).trans ?_
      cases ht : Tab.get false a.mem.tags k with
      | false => exact ite_self _
      | true => exact if_pos (State.mem_of_eraseSet.mpr ⟨ht, hk.2, hk.1⟩)
    · refine (e.tags k).trans (if_neg fun hm => hk ?_)
      obtain ⟨-, hst, hp⟩ := State.mem_of_eraseSet.mp hm
      exact ⟨hp, hst⟩
    · refine e.stack x fun k hk => ?_
      obtain ⟨ht, hst, hp⟩ := State.mem_of_eraseSet.mp hk
      exact hx k ⟨hp, hst⟩ ht

end Sys2Proof.Machine

namespace Sys2Proof.Machine

/-! ### Stack power states (O48) -/

/-- The state without the slots and the stacks' bytes. -/
def State.unstored (s : State) : State := { s with slots := [], stackMem := [] }

/-- A stack that serves again takes its waiting history records, and leaves all but the slots and the stacks. -/
theorem State.unstored_stackServes (s : State) (st : Nat) : (s.stackServes st).unstored = s.unstored := by
  refine State.each_proj State.unstored s _ fun s k => ?_
  unfold State.histWrite
  split
  · rfl
  · extract_lets at0 due s1
    exact State.each_proj State.unstored s _ (by intros; rfl)

theorem State.wins_of_unstored {s t : State} (h : t.unstored = s.unstored) : t.wins = s.wins := (congrArg State.wins h :)
theorem State.wsMem_of_unstored {s t : State} (h : t.unstored = s.unstored) : t.wsMem = s.wsMem := (congrArg State.wsMem h :)
theorem State.sq_of_unstored {s t : State} (h : t.unstored = s.unstored) (w : Nat) : t.sq w = s.sq w := (congrArg (·.sq w) h :)

theorem State.unread_holdErrors (s : State) (n : Nat) (bad fixed : List Nat) (addr : Nat → Nat) : (s.holdErrors n bad fixed addr).unread = s.unread :=
  (State.each_proj State.unread _ _ fun s i => s.unread_eccStack (addr i) 1 1).trans
    (State.each_proj State.unread s _ fun s i => s.unread_eccStack (addr i) 2 1)

/-- The copy of a holding pattern changes the working store, and traces of what error correction found. -/
theorem State.unread_copyNow (s : State) (w : Nat) (rd : ArmReads) : ∃ m, (s.copyNow w rd).unread = (s.setWs m).unread := by
  unfold State.copyNow
  extract_lets d n words lanes s1 s2 s3
  refine ⟨Memory.store (Memory.store s.wsMem (holdArea w) words) (holdArea w + 0x2000) lanes, ?_⟩
  have h3 : s3.unread = s2.unread := s2.unread_holdErrors ..
  split
  · exact (s3.unread_holdErrors ..).trans (h3.trans rfl)
  · exact h3.trans rfl

/-- The state without the windows, the working store, and traces of what error correction found. -/
def State.uncopied (s : State) : State := { s.unread with wins := [], wsMem := [] }

/-- One copy that waits for a stack is made. -/
def State.copyOne (s : State) (w : Nat) : State :=
  match (s.sq w).copyDue with
  | some rd => (s.modSq w fun q => { q with copyDue := none }).copyNow w rd
  | none => s

theorem State.copyWaiting_eq (s : State) (st : Nat) : s.copyWaiting st = s.each ((List.range 64).map (64 * st + ·)) State.copyOne := rfl

theorem State.uncopied_copyOne (s : State) (w : Nat) : (s.copyOne w).uncopied = s.uncopied := by
  unfold State.copyOne
  split
  · next rd _ =>
    obtain ⟨m, hm⟩ := (s.modSq w fun q => { q with copyDue := none }).unread_copyNow w rd
    exact (congrArg (fun u : State => { u with wins := [], wsMem := [] }) hm).trans rfl
  · rfl

theorem State.uncopied_copyWaiting (s : State) (st : Nat) : (s.copyWaiting st).uncopied = s.uncopied :=
  State.each_proj State.uncopied s _ State.uncopied_copyOne

theorem State.stackMem_of_uncopied {s t : State} (h : t.uncopied = s.uncopied) : t.stackMem = s.stackMem := (congrArg State.stackMem h :)

theorem State.sq_copyNow (s : State) (w : Nat) (rd : ArmReads) (v : Nat) : (s.copyNow w rd).sq v = s.sq v := by
  obtain ⟨m, hm⟩ := s.unread_copyNow w rd
  have h : ∀ t : State, t.unread = (s.setWs m).unread → t.sq v = s.sq v := fun t ht => (congrArg (·.sq v) ht :)
  exact h _ hm

theorem State.copyDue_copyOne (s : State) (w v : Nat) : ((s.copyOne w).sq v).copyDue = if w = v then none else (s.sq v).copyDue := by
  unfold State.copyOne
  split
  · rw [State.sq_copyNow]
    unfold State.modSq
    rw [State.sq_modWin]
    split <;> rfl
  · next h =>
    split
    · next hw => exact hw ▸ h
    · rfl

theorem State.copyDue_copyWaiting (s : State) {st w : Nat} (hk : w / 64 = st) : ((s.copyWaiting st).sq w).copyDue = none := by
  have hmem : w ∈ (List.range 64).map (64 * st + ·) := List.mem_map.mpr ⟨w % 64, List.mem_range.mpr (by omega), by omega⟩
  exact State.each_reaches (P := fun _ => True) (Q := fun t => (t.sq w).copyDue = none) hmem (fun _ _ _ => trivial)
    (fun s b h => (s.copyDue_copyOne b w).trans (by rw [h, ite_self])) (fun s _ => (s.copyDue_copyOne w w).trans (if_pos rfl)) trivial

theorem State.copyWaiting_idle {s : State} {st : Nat} (hst : st < 2) (h : ∀ w < 128, w / 64 = st → (s.sq w).copyDue = none) : s.copyWaiting st = s := by
  refine State.each_id fun w hw => ?_
  obtain ⟨i, hi, rfl⟩ := List.mem_map.mp hw
  have hi := List.mem_range.mp hi
  have hn := h (64 * st + i) (by omega) (by omega)
  rw [hn]

/-- A stack's change that has ended, its result posted. -/
def State.stkReached (s : State) (st dest : Nat) : State := (s.setStk st dest none).stkPost st 1 0

theorem State.stkReached_wins (s : State) (st dest : Nat) : (s.stkReached st dest).wins = s.wins := rfl
theorem State.stkReached_wsMem (s : State) (st dest : Nat) : (s.stkReached st dest).wsMem = s.wsMem := rfl
theorem State.stkReached_stackMem (s : State) (st dest : Nat) : (s.stkReached st dest).stackMem = s.stackMem := rfl
theorem State.stkReached_sq (s : State) (st dest w : Nat) : (s.stkReached st dest).sq w = s.sq w := rfl
theorem State.stkReached_slot (s : State) (st dest k : Nat) : (s.stkReached st dest).slot k = s.slot k := rfl

theorem State.stkEnd_of_target {s : State} {st dest : Nat} (h : s.stkTarget st = some dest) :
    s.stkEnd st = if dest = 0 then ((s.stkReached st dest).stackServes st).copyWaiting st else (s.stkReached st dest).stackServes st := by
  unfold State.stkEnd
  rw [h]
  rfl

theorem State.stkEnd_of_none {s : State} {st : Nat} (h : s.stkTarget st = none) : s.stkEnd st = s := by
  unfold State.stkEnd
  rw [h]

/-- A stack at the end of its change: the state asked for, and the other stack as it was. -/
structure StkReached (s t : State) (k dest : Nat) : Prop where
  state : t.stkState k = dest
  target : t.stkTarget k = none
  other : t.stkState (1 - k) = s.stkState (1 - k)
  done : t.dev.stkRes.outcome = 1
  seq : t.dev.stkRes.seq = s.dev.stkRes.seq + 1

theorem State.stkReached_spec (s : State) (stk : Bool) (dest : Nat) : StkReached s (s.stkReached (b2n stk) dest) (b2n stk) dest := by
  cases stk <;> exact ⟨rfl, rfl, rfl, rfl, rfl⟩

theorem StkReached.of_uncopied {s t u : State} {k dest : Nat} (r : StkReached s t k dest) (h : u.uncopied.unstored = t.uncopied.unstored) :
    StkReached s u k dest where
  state := (congrArg (·.stkState k) h :).trans r.state
  target := (congrArg (·.stkTarget k) h :).trans r.target
  other := (congrArg (·.stkState (1 - k)) h :).trans r.other
  done := (congrArg (·.dev.stkRes.outcome) h :).trans r.done
  seq := (congrArg (·.dev.stkRes.seq) h :).trans r.seq

theorem State.stkEnd_uncopied {s : State} {st dest : Nat} (h : s.stkTarget st = some dest) :
    (s.stkEnd st).uncopied.unstored = (s.stkReached st dest).uncopied.unstored := by
  have h1 : ((s.stkReached st dest).stackServes st).uncopied.unstored = (s.stkReached st dest).uncopied.unstored :=
    (congrArg State.uncopied (State.unstored_stackServes (s.stkReached st dest) st) :)
  rw [State.stkEnd_of_target h]
  split
  · exact (congrArg State.unstored (State.uncopied_copyWaiting ..)).trans h1
  · exact h1

theorem State.stkCmd_refused {s : State} {st dest : Nat} (h : s.stkFault st dest ≠ 0) : s.stkCmd st dest = s.stkPost st 2 (s.stkFault st dest) :=
  if_pos h

theorem State.stkCmd_begun {s : State} {st dest : Nat} (h : s.stkFault st dest = 0) :
    s.stkCmd st dest = (s.setStk st 2 (some dest)).modDev fun d => { d with stkRes := d.stkRes.busy } := if_neg (not_not.mpr h)

theorem State.setStk_other (s : State) (stk : Bool) (v : Nat) (dest : Option Nat) :
    (s.setStk (b2n stk) v dest).stkState (b2n stk) = v ∧ (s.setStk (b2n stk) v dest).stkTarget (b2n stk) = dest ∧
    (s.setStk (b2n stk) v dest).stkState (1 - b2n stk) = s.stkState (1 - b2n stk) ∧
    (s.setStk (b2n stk) v dest).stkTarget (1 - b2n stk) = s.stkTarget (1 - b2n stk) := by
  cases stk <;> exact ⟨rfl, rfl, rfl, rfl⟩

/-- Settles O48: the end of a change reaches its state, then the stack's waiting records are written, then the copies that wait are made. -/
theorem stackPowerStates : Obligations.StackPowerStates := by
  unfold Obligations.StackPowerStates
  intro s dt stk a k begins refused
  refine ⟨fun ht => ?_, fun h => congrArg Host.Outcome.next (State.stkEnd_of_none h), fun dest h => ?_⟩
  · have begun : ∀ dest i, exec i s = .next (a.hostWrite 1 i fun s => s.stkCmd k dest) → a.stkFault k dest = 0 →
        ∃ t, exec i s = .next t ∧ begins dest t := fun dest i hi h => by
      obtain ⟨hst, hto, hst', hto'⟩ := a.setStk_other stk 2 (some dest)
      exact ⟨_, hi.trans (State.next_hostWrite ht (State.stkCmd_begun h)), hst, hto, hst', hto', rfl, rfl⟩
    have refuses : ∀ dest i, exec i s = .next (a.hostWrite 1 i fun s => s.stkCmd k dest) → a.stkFault k dest ≠ 0 →
        ∃ t, exec i s = .next t ∧ refused (a.stkFault k dest) t := fun dest i hi h =>
      ⟨_, hi.trans (State.next_hostWrite ht (State.stkCmd_refused h)), rfl, rfl, rfl, rfl, rfl⟩
    exact ⟨begun 0 _ rfl, refuses 0 _ rfl, begun 1 _ rfl, refuses 1 _ rfl⟩
  · have r := (a.stkReached_spec stk dest).of_uncopied (State.stkEnd_uncopied h)
    have hserve := State.unstored_stackServes (a.stkReached k dest) k
    refine ⟨a.stkEnd k, rfl, r.state, r.target, r.other, r.done, r.seq, fun hidle => ?_, fun h0 w _ hk => ?_, fun hdue => ?_⟩
    · have he : a.stkEnd k = (a.stkReached k dest).stackServes k := by
        rw [State.stkEnd_of_target h]
        refine ite_eq_right_iff.mpr fun h0 => State.copyWaiting_idle (by cases stk <;> decide) fun w hw hk => ?_
        rw [State.sq_of_unstored hserve, State.stkReached_sq]
        exact hidle.resolve_left (not_not.mpr h0) w hw hk
      rw [he]
      exact ⟨(State.wins_of_unstored hserve).trans (a.stkReached_wins k dest), (State.wsMem_of_unstored hserve).trans (a.stkReached_wsMem k dest)⟩
    · rw [State.stkEnd_of_target h, if_pos h0]
      exact State.copyDue_copyWaiting _ hk
    · have hcopy := State.uncopied_copyWaiting (a.stkReached k dest) k
      rw [State.stkEnd_of_target h, State.stackServes_idle fun n => (a.stkReached_slot k dest n).symm ▸ hdue n]
      split
      · exact (State.stackMem_of_uncopied hcopy).trans (a.stkReached_stackMem k dest)
      · exact a.stkReached_stackMem k dest

end Sys2Proof.Machine

namespace Sys2Proof.Machine

/-! ### The BAR 2 window and BAR 4 (O6, O37) -/

/-! BAR 2 reads (R77, R340, R388). -/

/-- The bytes that a BAR 2 read of `n` bytes at `x` answers. -/
def State.bar2Answer (s : State) (x n : Nat) : List Byte := (List.range n).map fun i => s.bar2Byte (x + i)

/-- The state that has answered a read with `l`. -/
def State.answered (s : State) (l : List Byte) : State := s.emit (.data l false)

/-- A read of clean words answers its bytes; one that reaches a stack that does not serve is counted too. -/
theorem State.bar2Load_clean {s : State} {off n : Nat} (h0 : 0 < n) (hi : off + n ≤ s.bar2Bytes) (hb : s.dev.bringup = 5) :
    s.bar2Load off n .clean =
      (if s.stacksOn (s.bar2Addr off) n then s else s.stackMiss).emit (.data (s.bar2Answer (s.bar2Addr off) n) false) := by
  have hcase : ∀ u : State, (List.range n).map (fun i => u.bar2Byte (s.bar2Addr off + i)) = s.bar2Answer (s.bar2Addr off) n →
      (if u.tagged (s.bar2Addr off) || regionOf (s.bar2Addr off) = .reserved || !u.stackOn (s.bar2Addr off / 0x800000000) then
        u.emit (.data ((List.range n).map fun i => u.bar2Byte (s.bar2Addr off + i)) false)
      else (u.eccStackSeen .clean (s.bar2Addr off / 8 * 8) 5).emit
        (.data ((List.range n).map fun i => u.bar2Byte (s.bar2Addr off + i)) (Ecc.clean = .bad))) =
      u.emit (.data (s.bar2Answer (s.bar2Addr off) n) false) := by
    intro u hu
    rw [hu]
    split <;> rfl
  unfold State.bar2Load
  extract_lets a u
  rw [if_neg (by simp [State.inBar2, h0, hi]), if_neg (by simp [hb])]
  refine hcase u ?_
  dsimp only [u]
  split <;> rfl

theorem State.bar2Byte_on {s : State} {x : Nat} (h : s.stackOn (x / 0x800000000) = true) :
    s.bar2Byte x = if s.tagged x || regionOf x = .reserved then 0 else Memory.read s.stackMem x := by
  unfold State.bar2Byte
  rw [h, Bool.not_true, Bool.or_false]

/-! The base of the window (R340). -/

theorem bar2Base_lt (v : Nat) : bits v 30 6 * 2 ^ 30 < 2 ^ 64 :=
  Nat.lt_of_lt_of_le (Nat.mul_lt_mul_of_pos_right (bits_lt v 30 6) (by decide)) (by decide)

/-- The window's base is `base`. -/
def State.bar2Based (s : State) (base : Nat) : State := (s.setReg (pageAddr 4 0x050) base).modHost fun h => { h with winRefused := false }

theorem State.bar2Based_spec (s : State) {base : Nat} (h : base < 2 ^ 64) : (s.bar2Based base).dreg 4 0x050 = base ∧
    (s.bar2Based base).host = { s.host with winRefused := false } ∧ (∀ x, x ≠ pageAddr 4 0x050 → (s.bar2Based base).reg x = s.reg x) ∧
    s.bar2Based base = { s with host := (s.bar2Based base).host, regs := (s.bar2Based base).regs } :=
  ⟨s.reg_setReg_self _ h, rfl, fun x hx => (s.setReg_onlyReg _ _).2 x hx, rfl⟩

theorem State.writeBar2Win_takes {s : State} {v : Nat} (h : bits v 30 6 * 2 ^ 30 % 2 ^ (30 + s.host.bar2Size) = 0) :
    s.writeBar2Win v = s.bar2Based (bits v 30 6 * 2 ^ 30) := if_pos h

theorem State.writeBar2Win_refuses {s : State} {v : Nat} (h : bits v 30 6 * 2 ^ 30 % 2 ^ (30 + s.host.bar2Size) ≠ 0) :
    s.writeBar2Win v = s.modHost fun h => { h with winRefused := true } := if_neg h

theorem State.bar2Size_eq {s : State} {k : Nat} (h : k ≤ 6) : s.bar2Size k =
    if bits (s.dreg 4 0x050) 0 36 % 2 ^ (30 + k) = 0 then s.modHost fun h => { h with bar2Size := k }
    else (s.modHost fun h => { h with bar2Size := k }).setReg (pageAddr 4 0x050) 0 := if_neg (by omega)

/-- Settles O6: a read answers byte by byte, and the base is one register that a write or a resize may refuse or reset. -/
theorem bar2Window : Obligations.Bar2Window := by
  unfold Obligations.Bar2Window
  refine ⟨fun s dt off len => ?_, fun s dt val => ?_, fun s dt k => ?_⟩
  · intro a x h0 hi hb
    have hload : exec (.bar2Read dt off len .clean) s = .next (a.bar2Load off.toNat len .clean) := rfl
    rw [hload, State.bar2Load_clean h0 hi hb]
    refine ⟨fun hon hsame => ?_, fun _ => ⟨_, rfl, ?_, ?_⟩⟩
    · have hons : a.stacksOn x len = true := by
        unfold State.stacksOn
        rw [← hsame, hon, Bool.and_self]
      refine congrArg Host.Outcome.next ((congrArg (State.emit · _) (if_pos hons)).trans ?_)
      refine congrArg (a.answered) (List.map_congr_left fun i hi => State.bar2Byte_on ?_)
      have hi := List.mem_range.mp hi
      exact (show (x + i) / 0x800000000 = x / 0x800000000 by omega) ▸ hon
    · split <;> rfl
    · split <;> rfl
  · intro a base ht
    exact ⟨fun h => State.next_hostWrite ht (State.writeBar2Win_refuses h),
      fun h => ⟨_, State.next_hostWrite ht (State.writeBar2Win_takes h), State.bar2Based_spec a (bar2Base_lt _)⟩⟩
  · intro a base
    refine ⟨fun h => congrArg Host.Outcome.next (if_pos (by rw [h]; decide)), fun h => ?_⟩
    have hk : k.toNat ≤ 6 := by
      have := k.isLt
      have : k.toNat ≠ 7 := fun h7 => h (BitVec.eq_of_toNat_eq h7)
      omega
    refine ⟨_, rfl, ?_⟩
    rw [State.bar2Size_eq hk]
    by_cases hm : bits base 0 36 % 2 ^ (30 + k.toNat) = 0
    · rw [if_pos hm, if_pos hm]
      exact ⟨rfl, rfl, rfl⟩
    · rw [if_neg hm, if_neg hm]
      exact ⟨rfl, State.reg_setReg_self _ (pageAddr 4 0x050) (by decide), rfl⟩

/-! BAR 4 (R275 to R278). -/

/-- The state without what error correction has counted, the banks found not ON, and traces of detections. -/
def State.uncounted (s : State) : State := { s.calm with mem := { s.mem with ecc := [], last := [], notOn := [] } }

theorem State.uncounted_of_calm {s t : State} (h : s.calm = t.calm) : s.uncounted = t.uncounted :=
  congrArg (fun c : State => { c with mem := { c.mem with ecc := [], last := [], notOn := [] } }) h

theorem State.uncounted_eccStack (s : State) (addr kind m : Nat) : (s.eccStack addr kind m).uncounted = s.uncounted := by
  unfold State.eccStack
  extract_lets st key s1 s2
  have h2 : s2.calm = s1.calm := by
    dsimp only [s2]
    split
    · exact State.calm_raiseDev ..
    · rfl
  exact (State.uncounted_of_calm ((State.calm_raiseDev ..).trans h2)).trans rfl

theorem State.uncounted_eccBank (s : State) (off kind m : Nat) : (s.eccBank off kind m).uncounted = s.uncounted := by
  unfold State.eccBank
  extract_lets key s1
  exact (State.uncounted_of_calm (State.calm_raiseDev ..)).trans rfl

theorem State.uncounted_eccStackSeen (s : State) (e : Ecc) (x m : Nat) : (s.eccStackSeen e x m).uncounted = s.uncounted := by
  cases e with
  | clean => rfl
  | corrected => exact s.uncounted_eccStack ..
  | bad => exact s.uncounted_eccStack ..

theorem State.uncounted_eccBankSeen (s : State) (e : Ecc) (x m : Nat) : (s.eccBankSeen e x m).uncounted = s.uncounted := by
  cases e with
  | clean => rfl
  | corrected => exact s.uncounted_eccBank ..
  | bad => exact s.uncounted_eccBank ..

theorem State.uncounted_touchBank (s : State) (b : Nat) : (s.touchBank b).uncounted = s.uncounted := by
  unfold State.touchBank
  split
  · rfl
  · exact (State.uncounted_of_calm (State.calm_raiseDev ..)).trans rfl

theorem State.uncounted_rmwBank (s : State) (l : List (Nat × Ecc)) : (s.rmwBank l).uncounted = s.uncounted :=
  State.each_proj State.uncounted s _ fun s x => s.uncounted_eccBank x.1 (rmwKind x.2) 5

theorem State.out_of_uncounted {s t : State} (h : t.uncounted = s.uncounted) : t.out = s.out := (congrArg State.out h :)
theorem State.wsMem_of_uncounted {s t : State} (h : t.uncounted = s.uncounted) : t.wsMem = s.wsMem := (congrArg State.wsMem h :)
theorem State.stackMem_of_uncounted {s t : State} (h : t.uncounted = s.uncounted) : t.stackMem = s.stackMem := (congrArg State.stackMem h :)
theorem State.bankOn_of_uncounted {s t : State} (h : t.uncounted = s.uncounted) (b : Nat) : t.bankOn b = s.bankOn b := (congrArg (·.bankOn b) h :)
theorem State.bar4Byte_of_uncounted {s t : State} (h : t.uncounted = s.uncounted) (o : Nat) : t.bar4Byte o = s.bar4Byte o :=
  (congrArg (·.bar4Byte o) h :)

/-- The bytes that a BAR 4 read of `n` bytes at `o` answers. -/
def State.bar4Bytes (s : State) (o n : Nat) : List Byte := (List.range n).map fun i => s.bar4Byte (o + i)

/-- The banks where a BAR 4 access begins and ends are touched (R276). -/
def State.bar4Touch (s : State) (o n : Nat) : State := (s.touchBank (o / 0x200000)).touchBank ((o + n - 1) / 0x200000)

theorem State.uncounted_bar4Touch (s : State) (o n : Nat) : (s.bar4Touch o n).uncounted = s.uncounted :=
  (State.uncounted_touchBank ..).trans (State.uncounted_touchBank ..)

/-- A read of clean words with no collision, or of a bank that is not ON, answers its bytes. -/
theorem State.bar4Load_answers {s : State} {o n : Nat} {ecc : Ecc} {other : Option Meet} (h0 : 0 < n) (hi : o + n ≤ 0x2000000)
    (hb : s.dev.bringup = 5) (h : ecc = .clean ∧ other = none ∨ s.bankOn (o / 0x200000) = false) :
    s.bar4Load o n ecc other = (s.bar4Touch o n).emit (.data (s.bar4Bytes o n) false) := by
  have hu := s.uncounted_bar4Touch o n
  have hbytes : ((List.range n).map fun i => (s.bar4Touch o n).bar4Byte (o + i)) = s.bar4Bytes o n :=
    List.map_congr_left fun i _ => State.bar4Byte_of_uncounted hu (o + i)
  unfold State.bar4Load
  extract_lets b u
  rw [if_neg (by simp; omega), if_neg (by simp [hb])]
  change ite _ (u.emit (.data ((List.range n).map fun i => (s.bar4Touch o n).bar4Byte (o + i)) false)) _ = _
  rw [hbytes]
  split
  · rfl
  · next hon =>
    rcases h with ⟨rfl, rfl⟩ | h
    · exact congrArg (fun l => u.emit (.data l false)) hbytes
    · exact absurd (by rw [State.bankOn_of_uncounted (show u.uncounted = s.uncounted from hu), h]; rfl) hon

theorem State.bar4Byte_off {s : State} {o : Nat} (h : s.bankOn (o / 0x200000) = false) : s.bar4Byte o = 0 := if_pos (by simp [h])

theorem bar4_inside {o n : Nat} (h0 : 0 < n) (hi : o + n ≤ 0x2000000) : ¬ (decide (n = 0) || decide (0x2000000 < o + n)) = true := by
  simp
  omega

theorem State.bar4Store_scratch {s : State} {o : Nat} {data : List Byte} {found : PortReads} (h0 : 0 < data.length)
    (hi : o + data.length ≤ 0x2000000) (ho : bankBase 15 + 0x800 ≤ o) (hon : s.bankOn 15 = true)
    (hbad : rmwBad (rmwReads o data.length found.part) = false) (hm : found.meet = none) :
    s.bar4Store o data found = (s.setWs (Memory.store s.wsMem o data)).rmwBank (rmwReads o data.length found.part) := by
  have hb : o / 0x200000 = 15 := by unfold bankBase at ho; omega
  unfold State.bar4Store
  extract_lets n b u
  have hu : u = s := if_pos (by rw [show b = 15 from hb, hon])
  clear_value u
  subst hu
  rw [if_neg (bar4_inside h0 hi), if_neg (by omega), if_neg (by simp [hon]), if_neg (ne_true_of_eq_false hbad), hm]
  rfl

theorem State.bar4Store_dropped {s : State} {o : Nat} {data : List Byte} (found : PortReads) (h0 : 0 < data.length)
    (hi : o + data.length ≤ 0x2000000) (ho : o < bankBase 15 + 0x800) :
    s.bar4Store o data found = (if s.bankOn (o / 0x200000) then s else s.touchBank (o / 0x200000)).raiseDev 9 6 6 0 := by
  unfold State.bar4Store
  extract_lets n b u
  rw [if_neg (bar4_inside h0 hi), if_pos ho]

theorem rmwReads_clean (o n : Nat) : (rmwReads o n {}).filter (fun x => x.2 ≠ .clean) = [] := by
  unfold rmwReads
  dsimp only
  split <;> split <;> rfl

/-- Settles O37: a read answers byte by byte from the banks it touches, and a write is one store in the scratch or is dropped. -/
theorem bar4ReadsAndWrites : Obligations.Bar4ReadsAndWrites := by
  unfold Obligations.Bar4ReadsAndWrites
  refine ⟨fun s dt off len => ?_, fun s dt off data found => ?_⟩
  · intro a o h0 hi hb
    have hu := a.uncounted_bar4Touch o len
    have hws : ∀ l, ((a.bar4Touch o len).emit (.data l false)).wsMem = a.wsMem := fun _ => (State.wsMem_of_uncounted hu :)
    refine ⟨fun hon hin => ?_, fun ecc meet hoff hin => ?_, fun _ _ => ?_⟩
    · have hload : a.bar4Load o len .clean none = _ := State.bar4Load_answers h0 hi hb (.inl ⟨rfl, rfl⟩)
      have htouch : a.bar4Touch o len = a := by
        unfold State.bar4Touch
        rw [show (o + len - 1) / 0x200000 = o / 0x200000 by omega, State.touchBank_on hon, State.touchBank_on hon]
      rw [htouch] at hload
      exact ⟨_, congrArg Host.Outcome.next hload, rfl, rfl⟩
    · have hload : a.bar4Load o len ecc meet = _ := State.bar4Load_answers h0 hi hb (.inr hoff)
      refine ⟨_, congrArg Host.Outcome.next hload, ?_, hws _⟩
      have hzero : a.bar4Bytes o len = List.replicate len 0 := by
        refine List.eq_replicate_iff.mpr ⟨by simp [State.bar4Bytes], fun v hv => ?_⟩
        obtain ⟨i, hi, rfl⟩ := List.mem_map.mp hv
        have hi := List.mem_range.mp hi
        exact State.bar4Byte_off ((show (o + i) / 0x200000 = o / 0x200000 by omega) ▸ hoff)
      exact congrArg₂ (fun u l => u ++ [.data l false]) (State.out_of_uncounted hu) hzero
    · have hload : a.bar4Load o len .clean none = _ := State.bar4Load_answers h0 hi hb (.inl ⟨rfl, rfl⟩)
      refine ⟨_, congrArg Host.Outcome.next hload, hws _, ?_⟩
      refine congrArg₂ (fun u l => u ++ [.data l false]) (State.out_of_uncounted hu) (List.map_congr_left fun i _ => ?_)
      split
      · rfl
      · next hoff => exact State.bar4Byte_off (Bool.eq_false_iff.mpr hoff)
  · intro a o n ht h0 hi
    refine ⟨fun ho hon hbad hm => ?_, fun ho => ?_⟩
    · have hu := State.uncounted_rmwBank (a.setWs (Memory.store a.wsMem o data)) (rmwReads o n found.part)
      obtain ⟨hload, hrest⟩ := Memory.store_spec a.wsMem o (rfl : data.length = n)
      have hws : ((a.setWs (Memory.store a.wsMem o data)).rmwBank (rmwReads o n found.part)).wsMem = Memory.store a.wsMem o data :=
        State.wsMem_of_uncounted hu
      refine ⟨_, State.next_hostWrite ht (State.bar4Store_scratch h0 hi ho hon hbad hm), (congrArg (Memory.load · o n) hws).trans hload,
        fun y hy => (congrArg (Memory.read · y) hws).trans (hrest y hy), (State.stackMem_of_uncounted hu :), fun hf => ?_⟩
      subst hf
      have hnone : (a.setWs (Memory.store a.wsMem o data)).rmwBank (rmwReads o n {}) = a.setWs (Memory.store a.wsMem o data) := by
        unfold State.rmwBank
        rw [rmwReads_clean]
        rfl
      change (a.setWs (Memory.store a.wsMem o data)).rmwBank (rmwReads o n {}) = _
      rw [hnone]
      rfl
    · have hcalm := State.calm_raiseDev (if a.bankOn (o / 0x200000) then a else a.touchBank (o / 0x200000)) 9 6 6 0
      have hu : (if a.bankOn (o / 0x200000) then a else a.touchBank (o / 0x200000)).uncounted = a.uncounted := by
        split
        · rfl
        · exact a.uncounted_touchBank _
      refine ⟨_, State.next_hostWrite ht (State.bar4Store_dropped found h0 hi ho), (State.wsMem_of_calm hcalm).trans (State.wsMem_of_uncounted hu),
        (State.stackMem_of_calm hcalm).trans (State.stackMem_of_uncounted hu), fun hon => ?_⟩
      exact hcalm.trans (congrArg State.calm (if_pos hon))

end Sys2Proof.Machine

namespace Sys2Proof.Machine

/-! ### Scrub, banks, march tests and repairs (O34, O35) -/

/-! Scrub (R273). -/

theorem State.mem_of_uncounted {s t : State} (h : t.uncounted = s.uncounted) :
    { t.mem with ecc := [], last := [], notOn := [] } = { s.mem with ecc := [], last := [], notOn := [] } := (congrArg State.mem h :)

/-- What has left all but what error correction counts has left all but the memory's own state. -/
theorem State.calm_of_uncounted {s t : State} (h : t.uncounted = s.uncounted) : t.calm = { s.calm with mem := t.mem } :=
  (congrArg (fun u : State => { u with mem := t.mem }) h :)

theorem State.calm_then_modMem {s t : State} (h : t.calm = { s.calm with mem := t.mem }) (f : MemSt → MemSt) :
    (t.modMem f).calm = { s.calm with mem := (t.modMem f).mem } :=
  (congrArg (fun u : State => { u with mem := f t.mem }) h :)

theorem State.stackMem_of_calm_mem {s t : State} {m : MemSt} (h : t.calm = { s.calm with mem := m }) : t.stackMem = s.stackMem :=
  (congrArg State.stackMem h :)

theorem State.scrubNext_of_uncounted {s t : State} (h : t.uncounted = s.uncounted) (st : Nat) : t.scrubNext st = s.scrubNext st :=
  (congrArg (·.scrubNext st) h :)

/-- Where scrub goes on in a stack after the word at `x` (R273). -/
def scrubAfter (st x : Nat) : Nat := if x + 8 < stackBase (st + 1) then x + 8 else stackBase st

theorem State.scrubNext_of_mem {s t : State} (h : t.mem = s.mem) (st : Nat) : t.scrubNext st = s.scrubNext st := by
  unfold State.scrubNext
  rw [h]

theorem State.stackBase_le_scrubNext (s : State) : stackBase 1 ≤ s.scrubNext 1 := Nat.le_max_right ..

theorem stackBase_le_scrubAfter {x : Nat} (h : stackBase 1 ≤ x) : stackBase 1 ≤ scrubAfter 1 x := by
  unfold scrubAfter
  split <;> omega

/-- The last word of a stack ends a pass. -/
def scrubWraps (st x : Nat) : Bool := decide (stackBase (st + 1) ≤ x + 8)

theorem scrubAfter_eq (st x : Nat) : (if scrubWraps st x then stackBase st else x + 8) = scrubAfter st x := by
  unfold scrubAfter scrubWraps
  by_cases h : x + 8 < stackBase (st + 1)
  · rw [if_neg (by simpa using h), if_pos h]
  · rw [if_pos (by simpa using h), if_neg h]

/-- Passes of the stacks, with one more of stack `st` at a wrap. -/
def scrubPasses (st : Nat) (wrap : Bool) (p : Nat × Nat) : Nat × Nat :=
  if st = 0 then (if wrap then satInc (2 ^ 24 - 1) p.1 else p.1, p.2) else (p.1, if wrap then satInc (2 ^ 24 - 1) p.2 else p.2)

/-- Scrub's next word of stack `st` is the one at `next`, after a wrap in the next pass. -/
def State.scrubTo (s : State) (st next : Nat) (wrap : Bool) : State := s.modMem fun m =>
  if st = 0 then { m with scrub := (next, m.scrub.2), passes := scrubPasses st wrap m.passes }
  else { m with scrub := (m.scrub.1, next), passes := scrubPasses st wrap m.passes }

theorem State.scrubTo_next (s : State) (st : Fin 2) {next : Nat} (wrap : Bool) (h : st = 1 → stackBase 1 ≤ next) :
    (s.scrubTo st.val next wrap).scrubNext st.val = next := by
  match st with
  | 0 => rfl
  | 1 => exact Nat.max_eq_left (h rfl)

theorem State.scrubMove_eq (s : State) (st : Fin 2) : (s.scrubMove st.val).calm =
    (s.scrubTo st.val (scrubAfter st.val (s.scrubNext st.val)) (scrubWraps st.val (s.scrubNext st.val))).calm := by
  rw [← scrubAfter_eq]
  unfold State.scrubMove
  extract_lets x wrap next s1
  have h1 : s1 = s.scrubTo st.val next wrap := by
    clear_value next wrap
    refine congrArg s.modMem (funext fun m => ?_)
    unfold scrubPasses
    split <;> rfl
  change (if wrap = true then s1.raiseDev 8 4 4 0 else s1).calm = (s.scrubTo st.val next wrap).calm
  rw [← h1]
  split
  · exact State.calm_raiseDev ..
  · rfl

theorem State.scrubMove_moves (s : State) (st : Fin 2) : (s.scrubMove st.val).scrubNext st.val = scrubAfter st.val (s.scrubNext st.val) ∧
    (s.scrubMove st.val).calm = { s.calm with mem := (s.scrubMove st.val).mem } := by
  have h := s.scrubMove_eq st
  have hle : st = 1 → stackBase 1 ≤ scrubAfter st.val (s.scrubNext st.val) := by
    rintro rfl
    exact stackBase_le_scrubAfter s.stackBase_le_scrubNext
  have hnext := s.scrubTo_next st (scrubWraps st.val (s.scrubNext st.val)) hle
  generalize scrubAfter st.val (s.scrubNext st.val) = next at *
  generalize scrubWraps st.val (s.scrubNext st.val) = wrap at *
  have hm := State.mem_of_calm h
  generalize s.scrubMove st.val = u at *
  refine ⟨(State.scrubNext_of_mem hm st.val).trans hnext, h.trans ?_⟩
  rw [hm]
  rfl

theorem State.scrub_stack {s : State} {st : Fin 2} (hb : s.dev.bringup = 5) (he : bit (s.dreg 8 0x040) 0 = true) (hon : s.stackOn st.val = true)
    (hm : s.marchingStack st.val = false) (ecc : Ecc) :
    s.scrub st.val ecc = (s.eccStackSeen ecc (s.scrubNext st.val) 3).scrubMove st.val := by
  unfold State.scrub
  rw [if_pos st.isLt, if_pos (by simp [hb, he, hon, hm])]

theorem State.scrub_bank {s : State} {b : Nat} (hb : s.dev.bringup = 5) (h16 : b < 16) (hon : s.bankOn b = true) (ecc : Ecc) :
    s.scrub (2 + b) ecc = (s.eccBankSeen ecc (bankBase b + 8 * Tab.get 0 s.mem.bankScrub b) 3).modMem fun m =>
      { m with bankScrub := Tab.set 0 m.bankScrub b ((Tab.get 0 s.mem.bankScrub b + 1) % 262144) } := by
  unfold State.scrub
  rw [if_neg (by omega)]
  extract_lets c n
  have hc : c = b := Nat.add_sub_cancel_left 2 b
  dsimp only [n]
  rw [hc, if_neg (by simp [hb, hon]; omega)]

/-! Commands of a bank (R274, R276, R286). -/

theorem State.calm_bankPost (s : State) (b outcome reason : Nat) : (s.bankPost b outcome reason).calm = ((s.modMem fun m => { m with
    bankRes := { m.bankRes.done outcome reason with valid := m.bankTo.isEmpty }, bankWhich := b }).bumpSeq 9).calm := by
  unfold State.bankPost
  extract_lets s1
  split <;> exact State.calm_raiseDev ..

/-- A result of a bank command: posted, with the bank and the store as they were. -/
theorem State.bankPost_spec (s : State) (b outcome reason n : Nat) : (s.bankPost b outcome reason).bankState n = s.bankState n ∧
    (s.bankPost b outcome reason).mem.bankRes.outcome = outcome ∧ (s.bankPost b outcome reason).mem.bankRes.reason = reason ∧
    (s.bankPost b outcome reason).wsMem = s.wsMem := by
  have h := s.calm_bankPost b outcome reason
  have hm := State.mem_of_calm h
  exact ⟨(congrArg (fun m : MemSt => Tab.get 0 m.bank n) hm :).trans rfl, (congrArg (·.bankRes.outcome) hm :).trans rfl,
    (congrArg (·.bankRes.reason) hm :).trans rfl, (State.wsMem_of_calm h).trans rfl⟩

/-- Bank `b` has begun its way to state `st`. -/
def State.bankLeaves (s : State) (b st : Nat) : State :=
  (s.modMem fun m => { m with
    bank := Tab.set 0 m.bank b 3, bankTo := Tab.set none m.bankTo b (some st), notOn := Tab.set false m.notOn b false,
    bankRes := m.bankRes.busy }).dropSluices b

theorem State.dropSluices_wins (s : State) (b : Nat) : s.dropSluices b = { s with wins := (s.dropSluices b).wins } := by
  have h : { s.dropSluices b with wins := [] } = { s with wins := [] } := by
    unfold State.dropSluices
    split
    · exact State.each_proj (fun u : State => { u with wins := [] }) s _ fun s w =>
        (congrArg (fun u : State => { u with wins := [] }) (State.fillIndicate_onlyWin (s.modSl w fun x => { x with bufs := [], chain := [] }) w).1 :)
    · rfl
  generalize s.dropSluices b = u at *
  exact (congrArg (fun v : State => { v with wins := u.wins }) h :)

theorem State.bankLeaves_spec (s : State) (b st : Nat) : (s.bankLeaves b st).bankState b = 3 ∧
    Tab.get none (s.bankLeaves b st).mem.bankTo b = some st ∧ (s.bankLeaves b st).wsMem = s.wsMem := by
  unfold State.bankLeaves
  rw [State.dropSluices_wins]
  exact ⟨Tab.get_set_self 0 s.mem.bank b 3, Tab.get_set_self none s.mem.bankTo b (some st), rfl⟩

theorem State.read_zeroBank (s : State) (b x : Nat) :
    Memory.read (s.zeroBank b).wsMem x = if bankBase b ≤ x ∧ x < bankBase (b + 1) then 0 else Memory.read s.wsMem x := Memory.read_zero ..

theorem State.bankCmd_marching {s : State} {b : Nat} (h : s.marchingBank b = true) (st : Nat) : s.bankCmd b st = s.bankPost b 2 1 := if_pos h

section
variable {s : State} {b : Nat} (hm : s.marchingBank b = false)
include hm

theorem State.bankCmd_pinned {st : Nat} (hst : st ≠ 3) (hp : pinned b = true) : s.bankCmd b st = s.bankPost b 2 2 := by
  unfold State.bankCmd
  rw [hm, hp, if_neg Bool.false_ne_true, if_neg hst, if_pos rfl]

variable (hp : pinned b = false)
include hp

theorem State.bankCmd_inUse {st : Nat} (hst : st = 1 ∨ st = 2) (hl : s.mayLeave b = false) : s.bankCmd b st = s.bankPost b 2 3 := by
  unfold State.bankCmd
  rw [hm, hp, if_neg Bool.false_ne_true, if_neg (by omega), if_neg Bool.false_ne_true, hl, if_pos (by simp; omega)]

variable (hr : (s.mem.repair.any fun r => decide (r.1 = b)) = false)
include hr

theorem State.bankCmd_named (h0 : s.bankState b = 0) : s.bankCmd b 0 = s.bankPost b 1 0 := by
  unfold State.bankCmd
  rw [hm, hp, hr, h0]
  rfl

theorem State.bankCmd_begins {st : Nat} (hst : st < 3) (hl : st = 0 ∨ s.mayLeave b = true) (h3 : s.bankState b ≠ 3) (hn : s.bankState b ≠ st)
    (h21 : ¬ (s.bankState b = 2 ∧ st = 1)) :
    s.bankCmd b st = if st = 2 then (s.bankLeaves b st).zeroBank b else s.bankLeaves b st := by
  unfold State.bankCmd
  rw [hm, hp, hr, if_neg Bool.false_ne_true, if_neg (by omega), if_neg Bool.false_ne_true]
  rw [if_neg (by rcases hl with rfl | hl <;> simp_all), if_neg (by simpa using h3), if_neg (by simpa using h21), if_neg hn]
  rfl

end

theorem State.bankDone_ends {s : State} {b st : Nat} (h : Tab.get none s.mem.bankTo b = some st) : (s.bankDone b).bankState b = st ∧
    Tab.get none (s.bankDone b).mem.bankTo b = none ∧ (s.bankDone b).mem.bankRes.outcome = 1 ∧
    (s.bankDone b).calm = { s.calm with mem := (s.bankDone b).mem, pgSeq := (s.bankDone b).pgSeq } := by
  unfold State.bankDone
  rw [h]
  dsimp only
  have hc := State.calm_bankPost (s.modMem fun m => { m with bank := Tab.set 0 m.bank b st, bankTo := Tab.set none m.bankTo b none }) b 1 0
  have hm := State.mem_of_calm hc
  have hq := State.pgSeq_of_calm hc
  generalize (s.modMem fun m => { m with bank := Tab.set 0 m.bank b st, bankTo := Tab.set none m.bankTo b none }).bankPost b 1 0 = u at *
  refine ⟨(congrArg (fun m : MemSt => Tab.get 0 m.bank b) hm).trans (Tab.get_set_self 0 s.mem.bank b st),
    (congrArg (fun m : MemSt => Tab.get none m.bankTo b) hm).trans (Tab.get_set_self none s.mem.bankTo b none), (congrArg (·.bankRes.outcome) hm).trans rfl, ?_⟩
  rw [hc, hm, hq]
  rfl

/-- Settles O34: scrub moves on by one word, and a bank command is refused, is done at once, or begins its change, by the branch that it takes. -/
theorem scrubAndBanks : Obligations.ScrubAndBanks := by
  unfold Obligations.ScrubAndBanks
  refine ⟨fun s dt st ecc written => ?_, fun s dt b ecc written => ?_, fun s dt b => ?_, fun s dt b st => ?_⟩
  · intro a hb he hon hm
    have hst : (BitVec.ofNat 5 st.val).toNat = st.val := by
      rw [BitVec.toNat_ofNat]
      omega
    have hs : exec (.scrubStep dt (BitVec.ofNat 5 st.val) ecc written) s = .next (a.scrub st.val ecc) :=
      congrArg Host.Outcome.next (congrArg (a.scrub · ecc) hst)
    rw [State.scrub_stack hb he hon hm ecc] at hs
    have hu := a.uncounted_eccStackSeen ecc (a.scrubNext st.val) 3
    generalize a.eccStackSeen ecc (a.scrubNext st.val) 3 = u at *
    obtain ⟨hnext, hcalm⟩ := u.scrubMove_moves st
    have hcalm : (u.scrubMove st.val).calm = { a.calm with mem := (u.scrubMove st.val).mem } :=
      hcalm.trans (congrArg (fun c : State => { c with mem := (u.scrubMove st.val).mem }) (State.calm_of_uncounted hu))
    rw [State.scrubNext_of_uncounted hu] at hnext
    exact ⟨u.scrubMove st.val, hs, hnext, State.stackMem_of_calm_mem hcalm, hcalm⟩
  · intro a hb hon
    have hst : (BitVec.ofNat 5 (2 + b.val)).toNat = 2 + b.val := by
      rw [BitVec.toNat_ofNat]
      omega
    have hs := State.scrub_bank hb b.isLt hon ecc
    have hu := a.uncounted_eccBankSeen ecc (bankBase b.val + 8 * Tab.get 0 a.mem.bankScrub b.val) 3
    have he : exec (.scrubStep dt (BitVec.ofNat 5 (2 + b.val)) ecc written) s = .next (a.scrub (2 + b.val) ecc) :=
      congrArg Host.Outcome.next (congrArg (a.scrub · ecc) hst)
    rw [hs] at he
    generalize a.eccBankSeen ecc (bankBase b.val + 8 * Tab.get 0 a.mem.bankScrub b.val) 3 = u at *
    exact ⟨_, he, Tab.get_set_self 0 u.mem.bankScrub b.val _, (State.wsMem_of_uncounted hu :), State.calm_then_modMem (State.calm_of_uncounted hu) _⟩
  · intro a n ht
    have posted : ∀ i st outcome reason, exec i s = .next (a.hostWrite 9 i fun s => s.bankCmd n st) →
        a.bankCmd n st = a.bankPost n outcome reason → ∃ t, exec i s = .next t ∧ t.bankState n = a.bankState n ∧ t.mem.bankRes.outcome = outcome ∧
          t.mem.bankRes.reason = reason ∧ t.wsMem = a.wsMem := fun i st outcome reason hi h =>
      ⟨_, hi.trans (State.next_hostWrite ht h), a.bankPost_spec n outcome reason n⟩
    refine ⟨fun hm _ _ => posted _ 2 2 1 rfl (State.bankCmd_marching hm 2), fun hm hp hr => ⟨fun hl h0 => ⟨?_, ?_⟩, fun h0 => ?_, fun h12 => ?_⟩,
      fun hm hp => posted _ 2 2 2 rfl (State.bankCmd_pinned hm (by decide) hp),
      fun hm hp hl => posted _ 1 2 3 rfl (State.bankCmd_inUse hm hp (.inl rfl) hl)⟩
    · obtain ⟨hst, hto, hws⟩ := a.bankLeaves_spec n 2
      have hb : a.bankCmd n 2 = _ := State.bankCmd_begins hm hp hr (by decide) (.inr hl) (by omega) (by omega) (by omega)
      have hread := (a.bankLeaves n 2).read_zeroBank n
      rw [hws] at hread
      exact ⟨_, State.next_hostWrite ht hb, hst, hto, fun x h1 h2 => (hread x).trans (if_pos ⟨h1, h2⟩), fun x hx => (hread x).trans (if_neg (by omega))⟩
    · have hb : a.bankCmd n 1 = _ := State.bankCmd_begins hm hp hr (by decide) (.inr hl) (by omega) (by omega) (by omega)
      exact ⟨_, State.next_hostWrite ht hb, a.bankLeaves_spec n 1⟩
    · obtain ⟨t, he, hst, ho, -, hws⟩ := posted (.bankOn dt b) 0 1 0 rfl (State.bankCmd_named hm hp hr h0)
      exact ⟨t, he, hst.trans h0, ho, hws⟩
    · have hb : a.bankCmd n 0 = _ := State.bankCmd_begins hm hp hr (by decide) (.inl rfl) (by omega) (by omega) (by omega)
      exact ⟨_, State.next_hostWrite ht hb, a.bankLeaves_spec n 0⟩
  · intro a h
    exact ⟨_, rfl, State.bankDone_ends h⟩

end Sys2Proof.Machine

namespace Sys2Proof.Machine

/-! The shadow row (R283). -/

theorem Tab.get_append_left {α : Type} (d : α) {t u : Tab α} {k : Nat} (h : ∀ e ∈ u, e.1 ≠ k) : Tab.get d (t ++ u) k = Tab.get d t k := by
  induction t with
  | nil =>
    induction u with
    | nil => rfl
    | cons e r ih => exact (if_neg (h e List.mem_cons_self)).trans (ih fun x hx => h x (List.mem_cons_of_mem _ hx))
  | cons e r ih => exact congrArg (ite (e.1 = k) e.2) ih

theorem Tab.get_append_right {α : Type} (d : α) {t u : Tab α} {k : Nat} (h : ∀ e ∈ t, e.1 ≠ k) : Tab.get d (t ++ u) k = Tab.get d u k := by
  induction t with
  | nil => rfl
  | cons e r ih => exact (if_neg (h e List.mem_cons_self)).trans (ih fun x hx => h x (List.mem_cons_of_mem _ hx))

/-- A splice reads its own cells inside its range, and the memory as it was outside. -/
theorem Memory.read_splice (m : List Host.Cell) {lo hi : Nat} {new : List Host.Cell} (hn : ∀ c ∈ new, lo ≤ c.1 ∧ c.1 < hi) (hlo : lo ≤ hi) (x : Nat) :
    Memory.read (Memory.splice m lo hi new) x = if lo ≤ x ∧ x < hi then Memory.read new x else Memory.read m x := by
  have hbelow : ∀ e ∈ m.filter fun c => decide (c.1 < lo), e.1 < lo := fun e he => of_decide_eq_true (List.mem_filter.mp he).2
  have habove : ∀ e ∈ m.filter fun c => decide (hi ≤ c.1), hi ≤ e.1 := fun e he => of_decide_eq_true (List.mem_filter.mp he).2
  unfold Memory.splice Memory.read
  by_cases h : lo ≤ x ∧ x < hi
  · rw [if_pos h, Tab.get_append_left 0 fun e he => by have := habove e he; omega,
      Tab.get_append_right 0 fun e he => by have := hbelow e he; omega]
  · rw [if_neg h]
    by_cases hx : x < lo
    · rw [Tab.get_append_left 0 fun e he => by have := habove e he; omega, Tab.get_append_left 0 fun e he => by have := hn e he; omega]
      exact (Tab.get_filter_key 0 (fun i => decide (i < lo)) m x).trans (if_pos (decide_eq_true hx))
    · rw [Tab.get_append_right 0 fun e he => ?_]
      · exact (Tab.get_filter_key 0 (fun i => decide (hi ≤ i)) m x).trans (if_pos (decide_eq_true (by omega)))
      · rcases List.mem_append.mp he with he | he
        · have := hbelow e he
          omega
        · have := hn e he
          omega

/-- Cells of a row, moved to another address, read there what they read in their row. -/
theorem Memory.read_moved (m : List Host.Cell) (src dst n : Nat) {i : Nat} (h : i < n) :
    Memory.read ((m.filter fun c => decide (src ≤ c.1) && decide (c.1 < src + n)).map fun c => (dst + (c.1 - src), c.2)) (dst + i) =
      Memory.read m (src + i) := by
  unfold Memory.read
  induction m with
  | nil => rfl
  | cons e r ih =>
    by_cases he : src ≤ e.1 ∧ e.1 < src + n
    · rw [List.filter_cons_of_pos (by simpa using he), List.map_cons]
      by_cases hk : e.1 = src + i
      · exact (if_pos (by omega)).trans (if_pos hk).symm
      · exact (if_neg (by omega)).trans (ih.trans (if_neg hk).symm)
    · rw [List.filter_cons_of_neg (by simpa using he)]
      exact ih.trans (if_neg (by omega)).symm

/-- Byte `i` of row `row` of bank or stack `t`. -/
def State.rowByte (s : State) (t row i : Nat) : Byte :=
  if t < 16 then Memory.read s.wsMem (bankBase t + 0x400 * row + i) else Memory.read s.stackMem (stackBase (t - 16) + 0x400 * row + i)

/-- Since `s` the shadow of row `row` of `b` holds what the row held, and no other byte has changed. -/
structure Shadowed (s t : State) (b row : Nat) : Prop where
  bytes : ∀ i < 0x400, Memory.read t.wsMem (shadowAt b row + i) = s.rowByte b row i
  rest : ∀ x, (x < shadowAt b row ∨ shadowAt b row + 0x400 ≤ x) → Memory.read t.wsMem x = Memory.read s.wsMem x
  stack : t.stackMem = s.stackMem

theorem State.shadowRow_shadowed (s : State) (b row : Nat) : Shadowed s (s.shadowRow b row) b row := by
  have hread : ∀ (m : List Host.Cell) (src dst x : Nat), Memory.read (Memory.splice s.wsMem dst (dst + 0x400)
      ((m.filter fun c => decide (src ≤ c.1) && decide (c.1 < src + 0x400)).map fun c => (dst + (c.1 - src), c.2))) x =
      if dst ≤ x ∧ x < dst + 0x400 then Memory.read ((m.filter fun c => decide (src ≤ c.1) && decide (c.1 < src + 0x400)).map
        fun c => (dst + (c.1 - src), c.2)) x else Memory.read s.wsMem x := by
    intro m src dst x
    refine Memory.read_splice s.wsMem (fun c hc => ?_) (by omega) x
    obtain ⟨e, he, rfl⟩ := List.mem_map.mp hc
    have := (List.mem_filter.mp he).2
    simp only [Bool.and_eq_true, decide_eq_true_eq] at this
    dsimp only
    omega
  have hrow : ∀ (m : List Host.Cell) (src dst i : Nat), i < 0x400 → Memory.read (Memory.splice s.wsMem dst (dst + 0x400)
      ((m.filter fun c => decide (src ≤ c.1) && decide (c.1 < src + 0x400)).map fun c => (dst + (c.1 - src), c.2))) (dst + i) =
      Memory.read m (src + i) := fun m src dst i hi =>
    (hread m src dst (dst + i)).trans ((if_pos (by omega)).trans (Memory.read_moved m src dst 0x400 hi))
  unfold State.shadowRow
  refine ⟨fun i hi => ?_, fun x hx => (hread _ _ _ x).trans (if_neg (by omega)), rfl⟩
  unfold State.rowByte
  by_cases hb : b < 16
  · simp only [if_pos hb]
    exact hrow s.wsMem _ _ i hi
  · simp only [if_neg hb]
    exact hrow s.stackMem _ _ i hi

theorem Shadowed.of_uncounted {s u t : State} {b row : Nat} (h : Shadowed u t b row) (hu : u.uncounted = s.uncounted) : Shadowed s t b row where
  bytes i hi := (h.bytes i hi).trans (congrArg (·.rowByte b row i) hu :)
  rest x hx := (h.rest x hx).trans (congrArg (Memory.read · x) (State.wsMem_of_uncounted hu))
  stack := h.stack.trans (State.stackMem_of_uncounted hu)

theorem Shadowed.of_calm {s u t : State} {b row : Nat} (h : Shadowed s u b row) (hm : t.wsMem = u.wsMem) (hs : t.stackMem = u.stackMem) :
    Shadowed s t b row where
  bytes i hi := hm ▸ h.bytes i hi
  rest x hx := hm ▸ h.rest x hx
  stack := hs.trans h.stack

theorem State.uncounted_rowErrors (s : State) (t at_ : Nat) (found : List (Nat × Ecc)) : (s.rowErrors t at_ found).uncounted = s.uncounted := by
  refine State.each_proj State.uncounted s _ fun s x => ?_
  split
  · exact s.uncounted_eccBankSeen ..
  · exact s.uncounted_eccStackSeen ..

/-! The march engine (R281 to R286). -/

theorem State.calm_marchPost (s : State) (outcome reason : Nat) : (s.marchPost outcome reason).calm = ((s.modMem fun m => { m with
    marchRes := { m.marchRes.done outcome reason with valid := decide (m.march = 0) } }).bumpSeq 10).calm := by
  unfold State.marchPost
  extract_lets s1
  split <;> exact State.calm_raiseDev ..

theorem State.marchStartCmd_starts {s : State} (hf : s.marchFault = 0) (hd : s.marchDestructive = false) :
    s.marchStartCmd = s.modMem fun m => { m with
      march := 1, marchRes := m.marchRes.busy, rows := 0, fails := 0, failLoc := none, borrow := s.nextBorrows 0 } := by
  unfold State.marchStartCmd
  extract_lets f s1
  rw [if_neg (by simp [f, hf]), hd, if_neg Bool.false_ne_true]
  exact congrArg s.modMem (funext fun m => congrArg (fun l => { m with
    march := 1, marchRes := m.marchRes.busy, rows := 0, fails := 0, failLoc := none, borrow := l }) (by rw [hd, if_neg Bool.false_ne_true]))

theorem State.marchStartCmd_refused {s : State} (hf : s.marchFault ≠ 0) : s.marchStartCmd = s.marchPost 2 s.marchFault := if_pos hf

theorem State.marchAbortCmd_aborts {s : State} (hm : s.mem.march ≠ 0) (hd : s.marchDestructive = false) (hb : s.mem.borrow ≠ []) :
    s.marchAbortCmd = s.modMem fun m => { m with march := 2 } := by
  unfold State.marchAbortCmd
  rw [if_neg hm, hd, if_neg Bool.false_ne_true, if_neg (by simpa using hb)]

theorem State.copiedIn_shadows {s : State} {r : RowReads} {t row : Nat} (h : s.borrowOf r.stk = some (t, row, 1)) (hon : s.targetOn t = true) :
    s.copiedIn r = ((s.rowErrors t (rowBase t row) r.found).shadowRow t row).borrowMove t row 2 := by
  unfold State.copiedIn
  rw [h]
  exact if_pos hon

theorem State.rowTested_passes {s : State} {stk : Bool} {t row : Nat} (h : s.borrowOf stk = some (t, row, 2)) :
    s.rowTested stk none = s.borrowMove t row 3 := by
  unfold State.rowTested
  rw [h]
  rfl

theorem State.rowTested_fails {s : State} {stk : Bool} {t row col : Nat} (h : s.borrowOf stk = some (t, row, 2)) (hc : col < 9216) :
    s.rowTested stk (some col) = (s.marchFail t row col).borrowMove t row 3 := by
  unfold State.rowTested
  rw [h, Option.filter_some, if_pos (decide_eq_true hc)]
  rfl

theorem State.borrow_of_uncounted {s t : State} (h : t.uncounted = s.uncounted) : t.mem.borrow = s.mem.borrow := (congrArg (·.mem.borrow) h :)

/-- The row that is borrowed once row `row` of `t` has been copied back. -/
def State.rowAfter (s : State) (t row : Nat) : List (Nat × Nat × Nat) :=
  if s.mem.march = 2 then [] else if row + 1 < rowsOf t then [(t, row + 1, 1)] else if t < 16 then s.nextBorrows (t + 1) else []

/-- Row `row` of `t` serves again, and is counted; the next one is borrowed. -/
def State.rowReturned (s : State) (t row : Nat) (found : List (Nat × Ecc)) : State :=
  ((s.rowErrors 15 (shadowAt t row) found).shadowRow t row).modMem fun m => { m with
    rows := satInc (2 ^ 28 - 1) m.rows, borrow := s.rowAfter t row ++ m.borrow.filter fun x => decide (x.1 ≠ t) }

theorem State.copiedBack_returns {s : State} {r : RowReads} {t row : Nat} (h : s.borrowOf r.stk = some (t, row, 3)) : s.copiedBack r =
    if (s.rowReturned t row r.found).mem.borrow.isEmpty then (s.rowReturned t row r.found).marchEnd (if s.mem.march = 2 then 3 else 1)
    else s.rowReturned t row r.found := by
  unfold State.copiedBack
  rw [h]
  rfl

/-- The engine's own state with what error correction counts taken out. -/
theorem State.rowReturned_spec (s : State) (t row : Nat) (found : List (Nat × Ecc)) : let u := s.rowReturned t row found
    Shadowed s u t row ∧ u.mem.borrow = (s.rowAfter t row ++ s.mem.borrow.filter fun x => decide (x.1 ≠ t)) ∧
    u.mem.rows = satInc (2 ^ 28 - 1) s.mem.rows ∧ u.mem.fails = s.mem.fails ∧ u.mem.march = s.mem.march ∧ u.mem.marchRes = s.mem.marchRes := by
  have hu := s.uncounted_rowErrors 15 (shadowAt t row) found
  have hm := State.mem_of_uncounted hu
  unfold State.rowReturned
  generalize s.rowErrors 15 (shadowAt t row) found = u at *
  exact ⟨((u.shadowRow_shadowed t row).of_uncounted hu).of_calm rfl rfl,
    (congrArg (fun m : MemSt => s.rowAfter t row ++ m.borrow.filter fun x => decide (x.1 ≠ t)) hm :),
    (congrArg (fun m : MemSt => satInc (2 ^ 28 - 1) m.rows) hm :), (congrArg MemSt.fails hm :), (congrArg MemSt.march hm :),
    (congrArg MemSt.marchRes hm :)⟩

/-- A failing row in the engine's counts: counted, and kept as the job's first if it is. -/
def MemSt.failed (m : MemSt) (t row col : Nat) : MemSt :=
  { m with fails := satInc 65535 m.fails, failLoc := match m.failLoc with | none => some (t, row, col) | x => x }

theorem State.calm_marchFail (s : State) (t row col : Nat) : (s.marchFail t row col).calm = (s.modMem fun m => m.failed t row col).calm :=
  State.calm_raiseDev ..

theorem State.wsMem_marchFail (s : State) (t row col : Nat) : (s.marchFail t row col).wsMem = s.wsMem :=
  (State.wsMem_of_calm (s.calm_marchFail t row col)).trans rfl

/-- A job that ends: idle, its result posted, and the rest of the memory as it was. -/
theorem State.marchEnd_spec (s : State) (outcome : Nat) : (s.marchEnd outcome).mem.march = 0 ∧ (s.marchEnd outcome).mem.borrow = [] ∧
    (s.marchEnd outcome).mem.rows = s.mem.rows ∧ (s.marchEnd outcome).mem.fails = s.mem.fails ∧
    (s.marchEnd outcome).mem.marchRes.outcome = outcome ∧ (s.marchEnd outcome).mem.marchRes.seq = s.mem.marchRes.seq + 1 ∧
    (s.marchEnd outcome).wsMem = s.wsMem ∧ (s.marchEnd outcome).stackMem = s.stackMem := by
  have h := (s.modMem fun m => { m with march := 0, borrow := [] }).calm_marchPost outcome 0
  have hm := State.mem_of_calm h
  have hw := State.wsMem_of_calm h
  have hs := State.stackMem_of_calm h
  unfold State.marchEnd
  generalize (s.modMem fun m => { m with march := 0, borrow := [] }).marchPost outcome 0 = u at *
  rw [hm, hw, hs]
  exact ⟨rfl, rfl, rfl, rfl, rfl, rfl, rfl, rfl⟩

/-! Destructive march tests (R282). -/

theorem State.read_zeroBanks (l : List Nat) (s : State) (x : Nat) : Memory.read (s.each l State.zeroBank).wsMem x =
    if l.any fun b => decide (bankBase b ≤ x) && decide (x < bankBase (b + 1)) then 0 else Memory.read s.wsMem x := by
  induction l generalizing s with
  | nil => rfl
  | cons b r ih =>
    have hz := s.read_zeroBank b x
    refine (ih (s.zeroBank b)).trans ?_
    rw [hz, List.any_cons]
    by_cases h : bankBase b ≤ x ∧ x < bankBase (b + 1)
    · rw [if_pos h, ite_self, if_pos (by simp [h])]
    · rw [if_neg h]
      have hf : (decide (bankBase b ≤ x) && decide (x < bankBase (b + 1))) = false := by simpa using h
      rw [hf, Bool.false_or]

/-- The banks of a destructive job hold zeros, its failures are counted, and it has gone over `rows` banks. -/
def State.destroyed (s : State) (fails : List (Nat × Nat × Nat)) : State :=
  (((s.each s.marchBanks State.zeroBank).each (fails.filter fun f => s.marchBanks.contains f.1 && decide (f.2.1 < 2048) && decide (f.2.2 < 9216))
    fun s f => s.marchFail f.1 f.2.1 f.2.2).modMem fun m => { m with rows := s.marchBanks.length })

theorem State.destructiveDone_ends {s : State} (hm : s.mem.march ≠ 0) (hd : s.marchDestructive = true) (fails : List (Nat × Nat × Nat)) :
    s.destructiveDone fails = (s.destroyed fails).marchEnd 1 := if_neg (by simp [hm, hd])

theorem State.wsMem_destroyed (s : State) (fails : List (Nat × Nat × Nat)) : (s.destroyed fails).wsMem = (s.each s.marchBanks State.zeroBank).wsMem := by
  unfold State.destroyed
  generalize s.each s.marchBanks State.zeroBank = u
  exact State.each_proj State.wsMem u _ fun s f => s.wsMem_marchFail f.1 f.2.1 f.2.2

/-! Field repair (R289). -/

theorem State.repairPost_spec (s : State) (outcome reason : Nat) : (s.repairPost outcome reason).mem.repair = s.mem.repair ∧
    (s.repairPost outcome reason).mem.repairRes.outcome = outcome ∧ (s.repairPost outcome reason).mem.repairRes.reason = reason ∧
    (s.repairPost outcome reason).mem.spare = s.mem.spare ∧ (s.repairPost outcome reason).wsMem = s.wsMem ∧
    (s.repairPost outcome reason).stackMem = s.stackMem := by
  have h := s.calm_repairPost outcome reason
  have hm := State.mem_of_calm h
  have hw := State.wsMem_of_calm h
  have hs := State.stackMem_of_calm h
  generalize s.repairPost outcome reason = u at *
  rw [hm, hw, hs]
  exact ⟨rfl, rfl, rfl, rfl, rfl, rfl⟩

theorem State.repairStart_refused {s : State} {b col : Nat} (h : s.repairFault b col ≠ 0) : ∃ u : State, u.mem = s.mem ∧
    s.repairStart b col = u.repairPost 2 (s.repairFault b col) := by
  unfold State.repairStart
  extract_lets f
  by_cases h2 : f = 2
  · rw [if_pos h2, show s.repairFault b col = 2 from h2]
    exact ⟨(s.rwlPost 3 2 1).raiseDev 12 1 0 0, (State.mem_of_calm ((s.rwlPost 3 2 1).calm_raiseDev 12 1 0 0) :), rfl⟩
  · rw [if_neg h2, if_pos h]
    exact ⟨s, rfl, rfl⟩

/-- A repair that nothing refuses waits for its Ledger entry: the bank's budget is not spent. -/
theorem State.repairStart_asks {s : State} {b : BitVec 4} {col : BitVec 14} (h : s.repairFault b.toNat col.toNat = 0) :
    (s.repairStart b.toNat col.toNat).mem = { s.mem with repair := some (b.toNat, col.toNat, 1), repairRes := s.mem.repairRes.busy } := by
  have hshots : s.fieldShots b.toNat < 16 := by
    by_contra hc
    unfold State.repairFault at h
    rw [if_pos (Nat.le_of_not_lt hc)] at h
    exact absurd h (by decide)
  have hobj : bits (BitVec.ofNat 32 (col.toNat + b.toNat * 65536)).toNat 16 4 = b.toNat := by
    have := b.isLt
    have := col.isLt
    rw [BitVec.toNat_ofNat]
    unfold bits
    omega
  have hbudget : ∀ u : State, u.keep.ledger = s.keep.ledger →
      u.budgetSpent 3 (BitVec.ofNat 32 (col.toNat + b.toNat * 65536)).toNat = false := by
    intro u hu
    have hused : u.fieldShots b.toNat = s.fieldShots b.toNat := by
      unfold State.fieldShots State.ledgerUsed
      rw [hu]
    refine decide_eq_false ?_
    rw [hobj, hused]
    omega
  unfold State.repairStart
  extract_lets f
  rw [if_neg (by simp [f, h]), if_neg (by simp [f, h])]
  unfold State.request
  extract_lets x u
  split
  · next he =>
    have hq : u.keep.queue = [x] := congrArg (· ++ [x]) (List.isEmpty_iff.mp he)
    unfold State.startAppends
    rw [hq]
    dsimp only
    rw [if_neg (ne_true_of_eq_false (hbudget u rfl)), if_neg (by simp [x])]
    rfl
  · rfl

theorem State.repairDone_switches {s : State} {b col : Nat} (h : s.mem.repair = some (b, col, 2)) :
    s.repairDone = ((s.repairReads b col).modMem fun m => { m with
      repair := none, spare := Tab.set 0 m.spare (b * 16384 + col) (s.nextSpare b - 1) }).repairPost 1 0 := by
  unfold State.repairDone
  rw [h]
  rfl

theorem State.repairReads_stored (s : State) (b col : Nat) : (s.repairReads b col).wsMem = s.wsMem ∧ (s.repairReads b col).stackMem = s.stackMem := by
  unfold State.repairReads State.draw
  exact ⟨State.each_proj State.wsMem s _ fun s x => State.wsMem_of_uncounted (s.uncounted_eccBank ..),
    State.each_proj State.stackMem s _ fun s x => State.stackMem_of_uncounted (s.uncounted_eccBank ..)⟩

/-- Settles O35: each event of the engine moves one borrowing on by a phase or a row, and a repair waits for its entry and then switches. -/
theorem marchAndRepair : Obligations.MarchAndRepair := by
  unfold Obligations.MarchAndRepair
  refine ⟨fun s dt => ?_, fun s dt fails => ?_, fun s dt b col => ?_, fun s dt b col => ?_⟩
  · intro a
    refine ⟨fun ht => ⟨fun hf hd => ?_, fun hf => ?_, fun hm hd hb => ?_, fun hm => State.next_hostWrite ht (if_pos hm)⟩,
      fun stk b row phase _ hb _ => ?_⟩
    · exact ⟨_, State.next_hostWrite ht (State.marchStartCmd_starts hf hd), rfl, rfl, rfl, rfl, rfl⟩
    · have hc := a.calm_marchPost 2 a.marchFault
      have hm := State.mem_of_calm hc
      have hq := State.pgSeq_of_calm hc
      refine ⟨_, State.next_hostWrite ht (State.marchStartCmd_refused hf), ?_⟩
      generalize a.marchPost 2 a.marchFault = u at *
      rw [hc, hm, hq]
      exact ⟨rfl, rfl, rfl, rfl, rfl⟩
    · exact ⟨_, State.next_hostWrite ht (State.marchAbortCmd_aborts hm hd hb), rfl, rfl⟩
    · intro at_ shadowed moved
      have shadows : ∀ t, Shadowed a t b row → shadowed t := fun t h => ⟨h.bytes, h.rest, h.stack⟩
      refine ⟨fun _ hp hon found => ?_, fun hp => ⟨?_, fun col hcol => ?_⟩, fun _ hp found => ?_⟩ <;> subst hp
      · have hin := State.copiedIn_shadows (r := { stk := stk, found := found }) hb hon
        have hu := a.uncounted_rowErrors b (rowBase b row) found
        have hb : (a.rowErrors b (rowBase b row) found).mem.borrow = a.mem.borrow := State.borrow_of_uncounted hu
        refine ⟨_, congrArg Host.Outcome.next hin, ?_, congrArg (List.map _) hb, fun hf => ?_⟩
        · exact shadows _ (((State.shadowRow_shadowed ..).of_uncounted hu).of_calm rfl rfl)
        · subst hf
          rfl
      · exact ⟨_, congrArg Host.Outcome.next (State.rowTested_passes hb), rfl, rfl⟩
      · have hc := a.calm_marchFail b row col
        have hm : (a.marchFail b row col).mem = a.mem.failed b row col := State.mem_of_calm hc
        have hborrow : (a.marchFail b row col).mem.borrow = a.mem.borrow := (congrArg MemSt.borrow hm :)
        have hfails : (a.marchFail b row col).mem.fails = satInc 65535 a.mem.fails := (congrArg MemSt.fails hm :)
        have htest := State.rowTested_fails hb hcol
        generalize a.marchFail b row col = u at *
        refine ⟨_, congrArg Host.Outcome.next htest, congrArg (List.map _) hborrow, hfails, ?_,
          State.calm_then_modMem (hc.trans (by rw [hm]; rfl)) _⟩
        refine (congrArg MemSt.failLoc hm).trans ?_
        unfold MemSt.failed
        cases a.mem.failLoc <;> rfl
      · intro next left
        have hback := State.copiedBack_returns (r := { stk := stk, found := found }) hb
        obtain ⟨hsh, hborrow, hrows, hfails, hmarch, hres⟩ := a.rowReturned_spec b row found
        dsimp only at hback
        generalize a.rowReturned b row found = u at *
        by_cases hl : left = []
        · obtain ⟨emarch, eborrow, erows, efails, eout, eseq, ews, est⟩ := u.marchEnd_spec (if a.mem.march = 2 then 3 else 1)
          rw [if_pos (by rw [hborrow]; exact List.isEmpty_iff.mpr hl)] at hback
          exact ⟨_, congrArg Host.Outcome.next hback, shadows _ (hsh.of_calm ews est), eborrow.trans hl.symm, erows.trans hrows, efails.trans hfails,
            fun h => absurd hl h, fun _ => ⟨emarch, eout, eseq.trans (by rw [hres])⟩⟩
        · rw [if_neg (by rw [hborrow, List.isEmpty_iff]; exact hl)] at hback
          exact ⟨_, congrArg Host.Outcome.next hback, shadows _ hsh, hborrow, hrows, hfails, fun _ => ⟨hmarch, hres⟩, fun h => absurd h hl⟩
  · intro a hm hd
    obtain ⟨hmarch, -, hrows, -, hout, -, hws, -⟩ := (a.destroyed fails).marchEnd_spec 1
    refine ⟨_, congrArg Host.Outcome.next (State.destructiveDone_ends hm hd fails), hmarch, hrows.trans rfl, hout, fun x => ?_⟩
    exact (congrArg (Memory.read · x) (hws.trans (a.wsMem_destroyed fails))).trans (State.read_zeroBanks ..)
  · intro a f ht
    refine ⟨fun h => ?_, fun h => ?_⟩
    · have hm := State.repairStart_asks h
      refine ⟨_, State.next_hostWrite ht rfl, ?_⟩
      rw [hm]
      exact ⟨rfl, rfl, rfl⟩
    · obtain ⟨u, hm, he⟩ := State.repairStart_refused h
      obtain ⟨hrep, ho, hr, hsp, -, -⟩ := u.repairPost_spec 2 f
      exact ⟨_, State.next_hostWrite ht he, hrep.trans (congrArg MemSt.repair hm), ho, hr, hsp.trans (congrArg MemSt.spare hm)⟩
  · intro a h
    obtain ⟨hws, hst⟩ := a.repairReads_stored b col
    obtain ⟨hrep, ho, -, hsp, hws', hst'⟩ := ((a.repairReads b col).modMem fun m => { m with
      repair := none, spare := Tab.set 0 m.spare (b * 16384 + col) (a.nextSpare b - 1) }).repairPost_spec 1 0
    exact ⟨_, congrArg Host.Outcome.next (State.repairDone_switches h), hrep.trans rfl,
      (congrArg (Tab.get 0 · (b * 16384 + col)) hsp).trans (Tab.get_set_self ..), ho, hws'.trans hws, hst'.trans hst⟩

end Sys2Proof.Machine

namespace Sys2Proof.Machine

/-! ### Interrupt vectors and the sideband buses (O55, O56) -/

/-- A detection now of a device source that latches a PG_EVT bit sets the bit (R366). -/
theorem State.pgEvt_raiseDev {s : State} {page idx code b : Nat} (h : s.latchOf (devSrc page idx) code = some (page, b)) (hb : b < 32) (native : Nat) :
    (Tab.get 0 (s.raiseDev page idx code native).pgEvt page).getLsbD b = true := by
  rw [State.raiseDev, State.pgEvt_raise h]
  exact s.latch_sets page hb

/-! Vectors (R343). -/

/-- The mask bit of vector `v` is clear, and what follows from it is noted. -/
def State.vecOpened (s : State) (v : Nat) : State :=
  (s.modHost fun h => { h with msixTab := Tab.set 1 h.msixTab (16 * v + 12) (Tab.get 1 h.msixTab (16 * v + 12) &&& 0xFFFFFFFE) }).sinceVec v

/-- The mask bit is clear, and a vector's masking is that of the function (R343). -/
theorem State.vecOpened_spec (s : State) (v : Nat) : (Tab.get 1 (s.vecOpened v).host.msixTab (16 * v + 12)).getLsbD 0 = false ∧
    (s.vecOpened v).vecMasked v = (!s.host.msixEn || s.host.funcMask) := by
  have hbit : (Tab.get 1 (s.vecOpened v).host.msixTab (16 * v + 12)).getLsbD 0 = false := by
    refine (congrArg (·.getLsbD 0) (Tab.get_set_self 1 s.host.msixTab (16 * v + 12) _)).trans ?_
    rw [BitVec.getLsbD_and]
    exact Bool.and_false _
  refine ⟨hbit, ?_⟩
  unfold State.vecMasked
  rw [hbit, Bool.or_false]
  rfl

theorem State.unmaskVec_idle {s : State} {v : Nat} (h : Tab.get false s.host.msixPend v = false) : s.unmaskVec v = s.vecOpened v :=
  if_neg (by
    have hp : Tab.get false (s.vecOpened v).host.msixPend v = false := h
    change ¬ (Tab.get false (s.vecOpened v).host.msixPend v && _ && _) = true
    rw [hp]
    exact Bool.false_ne_true)

theorem State.unmaskVec_sends {s : State} {v : Nat} (hp : Tab.get false s.host.msixPend v = true) (he : s.host.msixEn = true)
    (hf : s.host.funcMask = false) (hi : s.canIssue = true) (hg : s.gapOpen v = false) : s.unmaskVec v = (s.vecOpened v).sendVec v := by
  have hm : (s.vecOpened v).vecMasked v = false := by rw [(s.vecOpened_spec v).2, he, hf]; rfl
  have hp' : Tab.get false (s.vecOpened v).host.msixPend v = true := hp
  have hi' : (s.vecOpened v).canIssue = true := hi
  have hg' : (s.vecOpened v).gapOpen v = false := hg
  change (if Tab.get false (s.vecOpened v).host.msixPend v && !(s.vecOpened v).vecMasked v && (s.vecOpened v).canIssue then
    (if (s.vecOpened v).gapOpen v then _ else (s.vecOpened v).sendVec v) else _) = _
  rw [hp', hm, hi', hg']
  rfl

/-- One message of vector `v` more than `s` has gone out, and the vector waits no longer. -/
structure VecSent (s t : State) (v : Nat) : Prop where
  out : t.out = s.out ++ [.msix v]
  pend : Tab.get false t.host.msixPend v = false
  gap : Tab.get false t.host.msixGap v = false
  last : Tab.get none t.host.msixLast v = some s.now
  others : ∀ u, u ≠ v → Tab.get false t.host.msixPend u = Tab.get false s.host.msixPend u
  frame : t = { s with host := t.host, out := t.out }

theorem State.sendVec_sent (s : State) (v : Nat) : VecSent s (s.sendVec v) v where
  out := rfl
  pend := Tab.get_set_self false s.host.msixPend v false
  gap := Tab.get_set_self false s.host.msixGap v false
  last := Tab.get_set_self none s.host.msixLast v (some s.now)
  others _ hu := Tab.get_set_other false s.host.msixPend false (Ne.symm hu)
  frame := rfl

/-- Vector `v` is sent from a state that differs in the host port alone, with the same vectors pending. -/
theorem VecSent.of_host {s u t : State} {v : Nat} (h : VecSent u t v) (hu : u = { s with host := u.host }) (hp : u.host.msixPend = s.host.msixPend) :
    VecSent s t v where
  out := h.out.trans (congrArg (·.out ++ [.msix v]) hu :)
  pend := h.pend
  gap := h.gap
  last := h.last.trans (congrArg (fun x : State => some x.now) hu :)
  others w hw := (h.others w hw).trans (congrArg (Tab.get false · w) hp)
  frame := h.frame.trans (congrArg (fun x : State => { x with host := t.host, out := t.out }) hu :)

theorem State.vecOpened_host (s : State) (v : Nat) : s.vecOpened v = { s with host := (s.vecOpened v).host } := rfl
theorem State.vecOpened_pend (s : State) (v : Nat) : (s.vecOpened v).host.msixPend = s.host.msixPend := rfl

/-- The gap of vector `v` holds no signals. -/
def State.gapShut (s : State) (v : Nat) : State := s.modHost fun h => { h with msixGap := Tab.set false h.msixGap v false }

theorem State.gapShut_host (s : State) (v : Nat) : s.gapShut v = { s with host := (s.gapShut v).host } := rfl
theorem State.gapShut_pend (s : State) (v : Nat) : (s.gapShut v).host.msixPend = s.host.msixPend := rfl

theorem State.gapEnd_waits {s : State} {v : Nat} (h : Tab.get false s.host.msixGap v = false ∨ s.gapOpen v = true) : s.gapEnd v = s :=
  if_neg (by rcases h with h | h <;> simp [h])

/-- The gap's message goes out when nothing keeps the vector from sending. -/
theorem State.gapEnd_sends {s : State} {v : Nat} (h : Tab.get false s.host.msixGap v = true) (hg : s.gapOpen v = false) (hm : s.vecMasked v = false)
    (hi : s.canIssue = true) : s.gapEnd v = (s.gapShut v).sendVec v := by
  have hsend : ∀ u : State, u.vecMasked v = false → u.canIssue = true → u.gapOpen v = false → u.signalVec v = u.sendVec v := by
    intro u hm hi hg
    unfold State.signalVec
    rw [hm, hi, hg]
    rfl
  exact (if_pos (by simp [h, hg])).trans (hsend _ hm hi hg)

theorem State.maskedPend_unheld {s : State} {v : Nat} (h : Tab.get none s.host.msixSince v = none) : s.maskedPend v = s := by
  unfold State.maskedPend
  rw [h]

theorem State.maskedPend_early {s : State} {v t0 : Nat} (h : Tab.get none s.host.msixSince v = some t0) (ht : s.now < t0 + 1000000 * us) :
    s.maskedPend v = s := by
  unfold State.maskedPend
  rw [h]
  exact if_neg (by simp [ht])

/-- The time since which a vector has been pending and masked is given up. -/
def State.vecReported (s : State) (v : Nat) : State := s.modHost fun h => { h with msixSince := Tab.set none h.msixSince v none }

theorem State.maskedPend_reports {s : State} {v t0 : Nat} (h : Tab.get none s.host.msixSince v = some t0) (ht : t0 + 1000000 * us ≤ s.now)
    (hp : Tab.get false s.host.msixPend v = true) (hm : s.vecMasked v = true) : s.maskedPend v = (s.vecReported v).raiseDev 5 1 0 0 := by
  unfold State.maskedPend
  rw [h]
  exact if_pos (by simp [hp, hm, ht])

theorem State.vecReported_spec (s : State) (v : Nat) : let t := (s.vecReported v).raiseDev 5 1 0 0
    Tab.get none t.host.msixSince v = none ∧ (Tab.get 0 t.pgEvt 5).getLsbD 1 = true ∧ t.calm = { s.calm with host := t.host } := by
  have hcalm := (s.vecReported v).calm_raiseDev 5 1 0 0
  have hhost := State.host_of_calm hcalm
  have hevt : (Tab.get 0 ((s.vecReported v).raiseDev 5 1 0 0).pgEvt 5).getLsbD 1 = true := State.pgEvt_raiseDev rfl (by decide) 0
  generalize (s.vecReported v).raiseDev 5 1 0 0 = t at *
  refine ⟨?_, hevt, ?_⟩
  · rw [hhost]
    exact Tab.get_set_self none s.host.msixSince v none
  · rw [hcalm, hhost]
    rfl

/-- Settles O55: each case is one branch of the vector's own rules. -/
theorem interruptVectors : Obligations.InterruptVectors := by
  unfold Obligations.InterruptVectors
  intro s dt v a h
  refine ⟨fun ht => ⟨fun hp => ?_, fun hp he hf hi hg => ?_⟩, fun hw => congrArg Host.Outcome.next (State.gapEnd_waits hw), fun hp hg hm hi => ?_,
    fun hs => congrArg Host.Outcome.next (State.maskedPend_unheld hs), fun t0 hs => ⟨fun ht => ?_, fun ht hp hm => ?_⟩⟩
  · exact ⟨_, State.next_hostWrite ht (State.unmaskVec_idle hp), (a.vecOpened_spec v.toNat).1, a.vecOpened_pend v.toNat, a.vecOpened_host v.toNat⟩
  · have x := ((a.vecOpened v.toNat).sendVec_sent v.toNat).of_host (a.vecOpened_host v.toNat) (a.vecOpened_pend v.toNat)
    exact ⟨_, State.next_hostWrite ht (State.unmaskVec_sends hp he hf hi hg), x.out, x.pend, x.others, x.frame⟩
  · have x := ((a.gapShut v.toNat).sendVec_sent v.toNat).of_host (a.gapShut_host v.toNat) (a.gapShut_pend v.toNat)
    exact ⟨_, congrArg Host.Outcome.next (State.gapEnd_sends hp hg hm hi), x.out, x.gap, x.last, x.frame⟩
  · exact congrArg Host.Outcome.next (State.maskedPend_early hs ht)
  · obtain ⟨hsince, hevt, hcalm⟩ := a.vecReported_spec v.toNat
    exact ⟨_, congrArg Host.Outcome.next (State.maskedPend_reports hs ht hp hm), hsince, hevt, hcalm⟩

/-! SMBus (R407). -/

theorem State.smbus_other {s : State} {addr : Nat} (h : addr ≠ 0x58 + Config.smbAddr.toNat) (code : Nat) (op : SmbusOp) :
    s.smbus addr code op = s := if_pos h

/-- The keeper does not answer before its step has ended. -/
def State.asleep (s : State) : Bool := s.dev.porLow || s.dev.bringup = 0

theorem State.asleep_iff (s : State) : s.asleep = true ↔ s.dev.porLow = true ∨ s.dev.bringup = 0 := by
  unfold State.asleep
  rw [Bool.or_eq_true, decide_eq_true_eq]

theorem State.smbus_eq {s : State} {addr : Nat} (h : addr = 0x58 + Config.smbAddr.toNat) (code : Nat) (op : SmbusOp) : s.smbus addr code op =
    if s.asleep then s.emit (.smbus none) else if op.write then s.emit .smbusNack
    else s.emit (.smbus (some (if op.pec then (s.smbRegister code).getD [] ++ [pecOf addr code ((s.smbRegister code).getD [])]
      else (s.smbRegister code).getD []))) := if_neg (not_not.mpr h)

/-! JTAG (R315, R406). -/

theorem State.jtagAccess_asleep {s : State} (h : s.asleep = true) (op : JtagOp) : s.jtagAccess op = s := if_pos h

/-- The TAP is out of Test-Logic-Reset. -/
def State.tapped (s : State) : State := s.modKeep fun k => { k with tap := true }

/-- An access to internal scan that is taken is counted and reported. -/
def State.scanCounted (s : State) : State := (s.tapped.modKeep fun k => { k with jtag := satInc 65535 k.jtag }).emit (.jtag true)

theorem State.jtagAccess_awake {s : State} (h : s.asleep = false) (op : JtagOp) : s.jtagAccess op = match op with
    | .reset => s.modKeep fun k => { k with tap := false, scan := none }
    | .sample => s.tapped.emit (.scan (chain.map s.ballLevel))
    | .drive v => (s.tapped.modKeep fun k => { k with scan := some v }).emit (.jtag true)
    | .release => (s.tapped.modKeep fun k => { k with scan := none }).emit (.jtag true)
    | .core => if s.internalLocked then s.tapped.emit (.jtag false)
      else s.scanCounted.raiseDev 14 0 0 0 :=
  if_neg (ne_true_of_eq_false h)

section
variable {s : State} (h : s.asleep = false)
include h

theorem State.jtagAccess_sample : s.jtagAccess .sample = { s with keep := { s.keep with tap := true }, out := s.out ++ [.scan (chain.map s.ballLevel)] } :=
  State.jtagAccess_awake h .sample

theorem State.jtagAccess_drive (v : List Bool) :
    s.jtagAccess (.drive v) = { s with keep := { s.keep with tap := true, scan := some v }, out := s.out ++ [.jtag true] } :=
  State.jtagAccess_awake h (.drive v)

theorem State.jtagAccess_release : s.jtagAccess .release = { s with keep := { s.keep with tap := true, scan := none }, out := s.out ++ [.jtag true] } :=
  State.jtagAccess_awake h .release

theorem State.jtagAccess_reset : s.jtagAccess .reset = { s with keep := { s.keep with tap := false, scan := none } } :=
  State.jtagAccess_awake h .reset

theorem State.jtagAccess_locked (hl : s.internalLocked = true) :
    s.jtagAccess .core = { s with keep := { s.keep with tap := true }, out := s.out ++ [.jtag false] } :=
  (State.jtagAccess_awake h .core).trans (if_pos hl)

theorem State.jtagAccess_counted (hl : s.internalLocked = false) : s.jtagAccess .core = s.scanCounted.raiseDev 14 0 0 0 :=
  (State.jtagAccess_awake h .core).trans (if_neg (ne_true_of_eq_false hl))

end

theorem State.scanCounted_spec (s : State) : (Tab.get 0 (s.scanCounted.raiseDev 14 0 0 0).pgEvt 14).getLsbD 0 = true ∧
    (s.scanCounted.raiseDev 14 0 0 0).calm =
      { s.calm with keep := { s.keep with tap := true, jtag := satInc 65535 s.keep.jtag }, out := s.out ++ [.jtag true] } :=
  ⟨State.pgEvt_raiseDev rfl (by decide) 0, State.calm_raiseDev ..⟩

/-- Settles O56: the target and the TAP answer by the operation, once the KEEPER step has ended. -/
theorem sidebandBuses : Obligations.SidebandBuses := by
  unfold Obligations.SidebandBuses
  intro s dt a asleep emits
  have awake : ¬ asleep → a.asleep = false := fun h => Bool.eq_false_iff.mpr fun hs => h (a.asleep_iff.mp hs)
  refine ⟨fun addr code op => ?_, rfl, rfl, rfl, fun hs op => ?_, fun hs => ?_⟩
  · intro bytes
    refine ⟨fun hne => ?_, fun heq => ?_⟩
    · exact congrArg Host.Outcome.next (State.smbus_other hne code.toNat op)
    · have he : exec (.smbusTransaction dt addr code op) s = .next _ := congrArg Host.Outcome.next (State.smbus_eq (s := a) heq code.toNat op)
      rw [he]
      refine ⟨fun hs => ?_, fun hs hw => ?_, fun hs hw hp => ?_, fun hs hw hp => ?_⟩
      · rw [if_pos (a.asleep_iff.mpr hs)]
        rfl
      · rw [awake hs, if_neg Bool.false_ne_true, if_pos hw]
        rfl
      · rw [awake hs, hw, hp, if_neg Bool.false_ne_true, if_neg Bool.false_ne_true, if_neg Bool.false_ne_true]
        rfl
      · rw [awake hs, hw, if_neg Bool.false_ne_true, if_neg Bool.false_ne_true, if_pos hp]
        rfl
  · exact congrArg Host.Outcome.next (State.jtagAccess_asleep (a.asleep_iff.mpr hs) op)
  · have hw := awake hs
    exact ⟨congrArg Host.Outcome.next (State.jtagAccess_sample hw), fun v => congrArg Host.Outcome.next (State.jtagAccess_drive hw v),
      congrArg Host.Outcome.next (State.jtagAccess_release hw), congrArg Host.Outcome.next (State.jtagAccess_reset hw),
      fun hl => congrArg Host.Outcome.next (State.jtagAccess_locked hw hl),
      fun hl => ⟨_, congrArg Host.Outcome.next (State.jtagAccess_counted hw hl), a.scanCounted_spec⟩⟩

end Sys2Proof.Machine

namespace Sys2Proof.Machine

/-! ### Commits and held writes (O44) -/

section
variable {s : State} {p : Nat} (i : Instr) (act : State → State)

theorem State.hostWrite_resetting (h : s.dev.regPhase = true) (hp : p < 8192) :
    s.hostWrite p i act = { s with dev := { s.dev with dropped := satInc 65535 s.dev.dropped } } := if_pos (by simp [h, hp])

theorem State.hostWrite_early (h : s.dev.regPhase = false) (hb : s.dev.bringup ≠ 5) (hp : p ≠ 1) :
    s.hostWrite p i act = { s with dev := { s.dev with buDropped := satInc 65535 s.dev.buDropped } } :=
  (if_neg (by simp [h])).trans (if_pos (by simp [hb, hp]))

theorem State.hostWrite_waits (h : s.dev.regPhase = false) (hb : s.dev.bringup = 5) (hc : (s.committing || s.pageHeld p) = true) :
    s.hostWrite p i act = { s with held := s.held ++ [.write p i] } :=
  (if_neg (by simp [h])).trans ((if_neg (by simp [hb])).trans (if_pos hc))

end

/-- No time passes while what was held goes. -/
theorem State.advance_zero {s : State} (h : s.gtRun = true → s.t < 2 ^ 80) : s.advance 0 = s := by
  unfold State.advance
  extract_lets s1 t1 s2 w
  by_cases hg : s.gtRun = true
  · have ht : t1 = s.t := Nat.mod_eq_of_lt (h hg)
    rw [if_pos hg, if_pos (by rw [Nat.add_zero])]
    dsimp only [s2]
    rw [ht]
    rfl
  · exact if_neg hg

theorem State.advance_bounded (s : State) (dt : Nat) (h : (s.advance dt).gtRun = true) : (s.advance dt).t < 2 ^ 80 := by
  have hg : s.gtRun = true := (State.gtRun_of_calm (s.calm_advance dt)).symm.trans h
  rw [State.advance_t, if_pos hg]
  exact Nat.mod_lt _ (Nat.two_pow_pos 80)

/-- The state once a commit at the front has taken effect, nothing behind it yet. -/
def State.committed (s : State) : State := { s with held := [], dev := { s.dev with commitSeq := s.dev.commitSeq + 1 } }

theorem State.commitNow_other {s : State} (h : ∀ r, s.held ≠ .commit :: r) : s.commitNow = s := by
  unfold State.commitNow
  split
  · next r he => exact absurd he (h r)
  · rfl

theorem State.commitNow_commits {s : State} {r : List Held} (h : s.held = .commit :: r) : s.commitNow = replay r s.committed := by
  unfold State.commitNow
  rw [h]
  rfl

/-- A write of the host flags that waited goes when nothing holds it any more. -/
theorem State.replay_hostFlagWrite {s : State} (ht : s.gtRun = true → s.t < 2 ^ 80) {w : WinId} (h : s.takes (winPage w 1) = true) (d : Nat) (val : Byte) :
    replay [.write (winPage w 1) (.hostFlagWrite d w val)] s = s.setHostFlags w val.toNat := by
  have hrun : runHeld (.hostFlagWrite d w val) s = (s.advance 0).hostWrite (winPage w 1) (.hostFlagWrite 0 w val) fun s => s.setHostFlags w val.toNat := rfl
  refine Eq.trans (b := runHeld (.hostFlagWrite d w val) s) rfl ?_
  rw [hrun, State.advance_zero ht, State.hostWrite_takes h]

/-- Settles O44: a write is dropped, waits or goes; a commit at the front takes effect and lets go what waits behind it. -/
theorem commitsOrderWrites : Obligations.CommitsOrderWrites := by
  unfold Obligations.CommitsOrderWrites
  refine ⟨fun s dt page mask => ?_, fun s dt => ?_⟩
  · intro a
    exact ⟨fun h => congrArg Host.Outcome.next (State.hostWrite_resetting _ _ h page.isLt),
      fun h hb hp => congrArg Host.Outcome.next (State.hostWrite_early _ _ h hb hp),
      fun h hb hc => congrArg Host.Outcome.next (State.hostWrite_waits _ _ h hb hc)⟩
  · intro a
    refine ⟨fun ht => State.next_hostWrite ht rfl, fun h => congrArg Host.Outcome.next (State.commitNow_other h),
      fun h => congrArg Host.Outcome.next (State.commitNow_commits h), fun d w val hb hr hp h => ?_⟩
    have htakes : a.committed.takes (winPage w 1) = true := by
      have hp' : a.committed.pageHeld (winPage w 1) = false := hp
      have hb' : a.committed.dev.bringup = 5 := hb
      have hr' : a.committed.dev.regPhase = false := hr
      have hc : a.committed.committing = false := rfl
      simp [State.takes, hp', hb', hr', hc]
    have hbound : a.committed.gtRun = true → a.committed.t < 2 ^ 80 := s.advance_bounded dt
    have hgo := (State.commitNow_commits h).trans (State.replay_hostFlagWrite hbound htakes d val)
    obtain ⟨hval, -⟩ := a.committed.setHostFlags_stores w val.toNat
    exact ⟨_, congrArg Host.Outcome.next hgo, rfl, hval.trans (Nat.mod_eq_of_lt val.isLt), rfl, rfl⟩

end Sys2Proof.Machine

namespace Sys2Proof.Machine

/-! ### Register writes, PG_EVT and snapshots (O43) -/

/-! Registers by address (R339, R360, R368). -/

theorem regAt_of_page {x : Nat} (he : pageExists (x / 0x1000) = true) (hh : rowAt headerRows (x % 0x1000) = none) :
    regAt x = rowAt (pageRows (x / 0x1000)) (x % 0x1000) := by
  unfold regAt
  rw [if_pos he, hh]

theorem regAt_modeCmd {x w : Nat} (hw : w < 136) (hp : x / 0x1000 = winPage w 0) (ho : x % 0x1000 = 0x040) : ∃ r, regAt x = some r ∧ r.size = 4 := by
  have he : pageExists (x / 0x1000) = true := by
    rw [hp]
    unfold pageExists winPage
    simp
    omega
  have hr : pageRows (winPage w 0) = windowRows 0 := by
    unfold pageRows winPage
    rw [if_pos (by omega), show (0x1000 + 16 * w + 0) % 16 = 0 by omega]
  rw [regAt_of_page he (by rw [ho]; decide), hp, hr, ho]
  exact ⟨_, rfl, rfl⟩

theorem regAt_bcast {x c : Nat} (hc : c < 8) (hp : x / 0x1000 = cluPage c) (ho : x % 0x1000 = 0x048) : ∃ r, regAt x = some r ∧ r.size = 8 := by
  have he : pageExists (x / 0x1000) = true := by
    rw [hp]
    unfold pageExists cluPage
    simp
    omega
  have hr : pageRows (cluPage c) = clusterRows := by
    unfold pageRows cluPage
    rw [if_neg (by omega), if_pos (by omega), if_pos (by omega)]
  rw [regAt_of_page he (by rw [ho]; decide), hp, hr, ho]
  exact ⟨_, rfl, rfl⟩

/-- A write of one register alone. -/
theorem State.writePlain_stores {s : State} {x : Nat} {r : RegRow} (hr : regAt x = some r) (hm : r.mask ≠ 0) {v : Nat} (hv : v < 2 ^ 64) :
    (s.writePlain x v).reg x = v &&& r.mask ∧ OnlyReg s (s.writePlain x v) x := by
  have he : s.writePlain x v = s.setReg x (v &&& r.mask) := by
    unfold State.writePlain
    rw [hr]
    exact if_neg hm
  rw [he]
  exact ⟨s.reg_setReg_self x (Nat.lt_of_le_of_lt Nat.and_le_left hv), s.setReg_onlyReg ..⟩

/-- An ordinary write: of no mode command register and no broadcast. -/
theorem State.regWriteAt_ordinary {s : State} {addr : BitVec 25} {size : Nat} {data : Word} (ht : s.takes (addr.toNat / 0x1000) = true)
    (hm : ∀ w < 136, addr.toNat / 0x1000 = winPage w 0 → addr.toNat % 0x1000 = 0x040 → size ≠ 4)
    (hb : ∀ c < 8, addr.toNat / 0x1000 = cluPage c → addr.toNat % 0x1000 = 0x048 → size ≠ 8) :
    ∃ v, s.regWriteAt addr size data = s.bar0Write addr.toNat size v ∧ (addr.toNat % 0x1000 ≠ 0x010 → v = data) := by
  unfold State.regWriteAt
  extract_lets x p
  rw [dif_neg fun h => hm ((p - 0x1000) / 16) (by omega) (by unfold winPage; omega) h.2.2.2.1 h.2.2.2.2,
    dif_neg fun h => hb (p - 0x10) (by omega) (by unfold cluPage; omega) h.2.2.1 h.2.2.2]
  refine ⟨_, State.hostWrite_takes ht _ _, fun ho => if_neg ?_⟩
  rw [decide_eq_false ho, Bool.false_and]
  exact Bool.false_ne_true

theorem State.bar0Write_covers {s : State} {x size : Nat} {v : Word} {r : RegRow} (h80 : x / 0x1000 ≠ 0x80) (h81 : x / 0x1000 ≠ 0x81)
    (hr : regAt x = some r) (hs : r.size = size) (ha : x % size = 0) :
    s.bar0Write x size v = s.regAct x (if size = 4 then v.toNat % 2 ^ 32 else v.toNat) := by
  unfold State.bar0Write
  extract_lets p off s1
  rw [if_neg (by simp [show p ≠ 0x80 from h80]), if_neg (by simp [show p ≠ 0x81 from h81]), hr]
  exact if_pos (by simp [hs, ha])

theorem State.bar0Write_lost {s : State} {x size : Nat} {v : Word} (h80 : x / 0x1000 ≠ 0x80) (h81 : x / 0x1000 ≠ 0x81)
    (h : ∀ r, regAt x = some r → r.size ≠ size ∨ x % size ≠ 0) : s.bar0Write x size v = s.bar0Lost := by
  unfold State.bar0Write
  extract_lets p off s1
  rw [if_neg (by simp [show p ≠ 0x80 from h80]), if_neg (by simp [show p ≠ 0x81 from h81])]
  cases hr : regAt x with
  | none => rfl
  | some r => exact if_neg (by rcases h r hr with h | h <;> simp [h])

/-- Registers of the TSET pages and of the IRQ page hold what the host writes. -/
theorem State.regAct_plain {s : State} {x : Nat} (w : WinId) (v : Nat)
    (h : x / 0x1000 = winPage w 4 ∧ 0x40 ≤ x % 0x1000 ∨ x / 0x1000 = 5 ∧ 0x48 ≤ x % 0x1000) : s.regAct x v = s.writePlain x v := by
  have hx : ∀ p, x / 0x1000 = p → pageAddr p (x % 0x1000) = x := by
    unfold pageAddr
    omega
  unfold State.regAct
  extract_lets p off
  have hw := w.isLt
  rcases h with ⟨hp, ho⟩ | ⟨hp, ho⟩
  · have hp' : p = 0x1000 + 16 * w.val + 4 := hp
    rw [if_neg (by omega), dif_pos (by omega)]
    have hq : p % 16 = 4 := by omega
    have hwin : winPage ((p - 0x1000) / 16) 4 = p := by unfold winPage; omega
    unfold State.writeWindow
    rw [hq]
    dsimp only
    rw [hwin]
    exact congrArg (s.writePlain · v) (hx p rfl)
  · rw [if_neg (by omega), dif_neg (by omega), dif_neg (by omega)]
    have hp' : p = 5 := hp
    unfold State.writeDevice
    rw [hp']
    exact (if_neg (show off ≠ 0x040 by omega)).trans (congrArg (s.writePlain · v) (hx 5 hp))

/-! PG_EVT (R366). -/

/-- A bit of a mask to which the members of a list add bits. -/
theorem getLsbD_foldl_or {α : Type} (l : List α) (p : α → Bool) (f : α → Nat) (m : BitVec 32) {k : Nat} (hk : k < 32) :
    (l.foldl (fun m e => if p e then m ||| BitVec.ofNat 32 (2 ^ f e) else m) m).getLsbD k = (m.getLsbD k || l.any fun e => p e && decide (f e = k)) := by
  induction l generalizing m with
  | nil => simp
  | cons e r ih =>
    rw [List.foldl_cons, ih, List.any_cons, ← Bool.or_assoc]
    congr 1
    cases p e
    · simp
    · rw [if_pos rfl, BitVec.getLsbD_or, BitVec.getLsbD_ofNat, Nat.testBit_two_pow]
      simp [hk]

/-- Of the members that the filter drops, those that add bit `k` are the ones where `n` holds it. -/
theorem any_filter_bits {α : Type} (l : List α) (p : α → Bool) (f : α → Nat) (n : BitVec 32) (k : Nat) :
    ((l.filter fun e => !(p e && n.getLsbD (f e))).any fun e => p e && decide (f e = k)) =
      ((l.any fun e => p e && decide (f e = k)) && !n.getLsbD k) := by
  rw [List.any_filter, List.and_any_distrib_right]
  refine congrArg l.any (funext fun e => ?_)
  by_cases hf : f e = k
  · rw [hf]
    cases p e <;> simp
  · simp [hf]

/-- An event placed ahead shows in PG_EVT of `page` (R366). -/
def State.evtShows (s : State) (page : Nat) (e : Nat × Nat × Nat) : Bool := e.2.1 = page && e.1 ≤ s.t

theorem State.getLsbD_evtBits (s : State) (page : Nat) {k : Nat} (hk : k < 32) : (s.evtBits page).getLsbD k =
    ((Tab.get 0 s.pgEvt page).getLsbD k || s.evtDue.any fun e => s.evtShows page e && decide (e.2.2 = k)) :=
  getLsbD_foldl_or s.evtDue (s.evtShows page) (fun e => e.2.2) _ hk

theorem State.evtBits_unlatch (s : State) (page : Nat) (n : BitVec 32) {k : Nat} (hk : k < 32) :
    ((s.unlatch page n).evtBits page).getLsbD k = ((s.evtBits page).getLsbD k && !n.getLsbD k) := by
  have hdue : ((s.unlatch page n).evtDue.any fun e => s.evtShows page e && decide (e.2.2 = k)) = _ :=
    any_filter_bits s.evtDue (s.evtShows page) (fun e => e.2.2) n k
  have hset : Tab.get 0 (s.unlatch page n).pgEvt page = _ := Tab.get_set_self 0 s.pgEvt page _
  refine ((s.unlatch page n).getLsbD_evtBits page hk).trans ?_
  rw [s.getLsbD_evtBits page hk, Bool.and_or_distrib_right, hset, ← hdue, BitVec.getLsbD_and, BitVec.getLsbD_not, decide_eq_true hk, Bool.true_and]
  rfl

theorem State.evtBits_unlatch_other (s : State) {page p : Nat} (hp : p ≠ page) (n : BitVec 32) : (s.unlatch page n).evtBits p = s.evtBits p := by
  refine BitVec.eq_of_getLsbD_eq fun k hk => ?_
  have hset : Tab.get 0 (s.unlatch page n).pgEvt p = _ := Tab.get_set_other 0 s.pgEvt _ (Ne.symm hp)
  have hdue : ((s.unlatch page n).evtDue.any fun e => s.evtShows p e && decide (e.2.2 = k)) =
      s.evtDue.any fun e => s.evtShows p e && decide (e.2.2 = k) := by
    refine (List.any_filter ..).trans (congrArg s.evtDue.any (funext fun e => ?_))
    unfold State.evtShows
    by_cases he : e.2.1 = p
    · simp [he, hp]
    · simp [he]
  refine ((s.unlatch page n).getLsbD_evtBits p hk).trans ?_
  rw [s.getLsbD_evtBits p hk, hset, ← hdue]
  rfl

/-! Snapshots (R342, R367, R375). -/

/-- The state without the windows, the counts of posted results, and traces of detections. -/
def State.unposted (s : State) : State := { s.calm with wins := [], pgSeq := [] }

theorem State.unposted_of_calm {s t : State} (h : s.calm = t.calm) : s.unposted = t.unposted :=
  congrArg (fun u : State => { u with wins := [], pgSeq := [] }) h

theorem State.unposted_modWin (s : State) (w : Nat) (f : Win → Win) : (s.modWin w f).unposted = s.unposted := rfl

theorem State.unposted_jumpDrop (s : State) (w t : Nat) : (s.jumpDrop w t).unposted = s.unposted := by
  unfold State.jumpDrop
  exact (State.unposted_of_calm (State.calm_raiseSeg ..)).trans (s.unposted_modWin ..)

theorem State.unposted_perr (s : State) (w code : Nat) (sh : Shelf) (t : Nat) : (s.perr w code sh t).unposted = s.unposted :=
  (State.unposted_of_calm (State.calm_raiseSeg ..)).trans rfl

/-- A jump request that arrives concerns its window alone, and what is posted and reported. -/
theorem State.unposted_jumpArrive (s : State) (w k t : Nat) : (s.jumpArrive w k t).unposted = s.unposted := by
  unfold State.jumpArrive
  extract_lets q
  split
  · rfl
  · split
    · exact s.unposted_jumpDrop ..
    · split
      · exact (State.unposted_of_calm (State.calm_raiseSeg ..)).trans (s.unposted_perr ..)
      · split
        · exact s.unposted_jumpDrop ..
        · exact s.unposted_modWin ..

theorem State.unposted_jumpDue (s : State) (w : Nat) : (s.jumpDue w).unposted = s.unposted := by
  unfold State.jumpDue
  extract_lets due
  split
  · rfl
  · exact (State.each_proj State.unposted _ _ fun s r => s.unposted_jumpArrive ..).trans (s.unposted_modWin ..)

theorem State.snapSt_of_unposted {s t : State} (h : t.unposted = s.unposted) : t.snapSt = s.snapSt := (congrArg State.snapSt h :)

theorem State.snapSt_settled (s : State) (p : Nat) : (s.settled p).snapSt = s.snapSt := by
  unfold State.settled
  split
  · exact State.snapSt_of_unposted (s.unposted_jumpDue _)
  · split <;> rfl

theorem State.snapOf_settled (s : State) (p q : Nat) : (s.settled p).snapOf q = s.snapOf q := by
  unfold State.snapOf
  rw [s.snapSt_settled]

theorem State.take_merged {s : State} {p : Nat} (h : (s.snapOf p).copy.isSome = true) : s.take p = s := if_pos h

/-- What a page's snapshot is once the copy of `ws` has started. -/
def SnapSt.copying (x : SnapSt) (p : Nat) (ws : List (Nat × Nat)) : SnapSt :=
  { x with valid := false, copy := some (ws.map fun (y : Nat × Nat) => (pageAddr p y.1, BitVec.ofNat 64 y.2)) }

theorem State.take_starts {s : State} {p : Nat} {ws : List (Nat × Nat)} (h : (s.snapOf p).copy = none) (hw : (s.settled p).snapWords p = some ws) :
    s.take p = { s.settled p with snapSt := Tab.set {} s.snapSt p ((s.snapOf p).copying p ws) } := by
  unfold State.take
  rw [if_neg (by simp [h])]
  dsimp only
  rw [hw]
  dsimp only
  rw [s.snapOf_settled, s.snapSt_settled]
  rfl

/-- A page without counters to copy is brought up to the instant and no more. -/
theorem State.take_bare {s : State} {p : Nat} (h : (s.snapOf p).copy = none) (hw : (s.settled p).snapWords p = none) : s.take p = s.settled p := by
  unfold State.take
  rw [if_neg (by simp [h])]
  dsimp only
  rw [hw]

theorem State.snapOf_take (s : State) (p q : Nat) : (s.take p).snapOf q =
    if p = q ∧ (s.snapOf p).copy = none then (((s.settled p).snapWords p).map fun ws => (s.snapOf p).copying p ws).getD (s.snapOf q) else s.snapOf q := by
  cases h : (s.snapOf p).copy with
  | some c => rw [State.take_merged (by simp [h]), if_neg (by simp)]
  | none =>
    cases hw : (s.settled p).snapWords p with
    | none =>
      rw [State.take_bare h hw, s.snapOf_settled]
      exact (ite_self _).symm
    | some ws =>
      rw [State.take_starts h hw]
      refine (Tab.get_set {} s.snapSt p q _).trans ?_
      simp only [and_true, Option.map_some, Option.getD_some]
      rfl

theorem State.settled_eq_of_quiet {s : State} {p : Nat} (h9 : p ≠ 9) (h : 0x1000 ≤ p → p % 16 = 1 → s.noJumpDue ((p - 0x1000) / 16) = true) :
    s.settled p = s := by
  unfold State.settled
  split
  · next hp =>
    simp only [Bool.and_eq_true, decide_eq_true_eq] at hp
    exact State.jumpDue_none (h hp.1 hp.2)
  · rfl

/-- Only pages of windows that exist have words of a snapshot among the windows'. -/
theorem State.window_of_snapWords {s : State} {p : Nat} {ws : List (Nat × Nat)} (h : s.snapWords p = some ws) (hp : 0x1000 ≤ p) :
    (p - 0x1000) / 16 < 136 := by
  by_contra hw
  unfold State.snapWords at h
  dsimp only at h
  rw [if_pos hp, if_pos (by omega)] at h
  exact absurd h (by simp)

theorem Tab.get_snaps {ws : List (Nat × Word)} (hn : (ws.map Prod.fst).Nodup) (t : Tab Word) (x : Nat) :
    (∀ v, (x, v) ∈ ws → Tab.get (snapReset x) (ws.foldl (fun t (y : Nat × Word) => Tab.set (snapReset y.1) t y.1 y.2) t) x = v) ∧
    (x ∉ ws.map Prod.fst →
      Tab.get (snapReset x) (ws.foldl (fun t (y : Nat × Word) => Tab.set (snapReset y.1) t y.1 y.2) t) x = Tab.get (snapReset x) t x) := by
  induction ws generalizing t with
  | nil => exact ⟨fun v h => absurd h List.not_mem_nil, fun _ => rfl⟩
  | cons e r ih =>
    obtain ⟨he, hr⟩ := List.nodup_cons.mp hn
    obtain ⟨hin, hout⟩ := ih hr (Tab.set (snapReset e.1) t e.1 e.2)
    refine ⟨fun v hv => ?_, fun hx => ?_⟩
    · rcases List.mem_cons.mp hv with rfl | hv
      · exact (hout he).trans (Tab.get_set_self ..)
      · exact hin v hv
    · have hx' : x ≠ e.1 ∧ x ∉ r.map Prod.fst := by simpa using hx
      exact (hout hx'.2).trans (Tab.get_set_ne _ _ t e.2 (Ne.symm hx'.1))

/-- The copy of page `p` is complete. -/
def State.copyShown (s : State) (p : Nat) (ws : List (Nat × Word)) : State :=
  State.bumpSeq { s with
    snaps := ws.foldl (fun t (x : Nat × Word) => Tab.set (snapReset x.1) t x.1 x.2) s.snaps
    snapSt := Tab.set {} s.snapSt p { seq := (s.snapOf p).seq + 1, valid := true, copy := none } } p

theorem State.copyShown_snapOf (s : State) (p : Nat) (ws : List (Nat × Word)) :
    (s.copyShown p ws).snapOf p = { seq := (s.snapOf p).seq + 1, valid := true, copy := none } :=
  Tab.get_set_self ({} : SnapSt) s.snapSt p { seq := (s.snapOf p).seq + 1, valid := true, copy := none }

theorem State.copyShown_frame (s : State) (p : Nat) (ws : List (Nat × Word)) : s.copyShown p ws =
    { s with snaps := (s.copyShown p ws).snaps, snapSt := (s.copyShown p ws).snapSt, pgSeq := (s.copyShown p ws).pgSeq } := rfl

/-- A copy that ends outside a device-wide snapshot. -/
theorem State.copied_ends {s : State} {p : Nat} {ws : List (Nat × Word)} (h : (s.snapOf p).copy = some ws) (hb : s.dev.snapBusy = false) :
    s.copied p = s.copyShown p ws := by
  have hfin : (s.copyShown p ws).snapFinish = s.copyShown p ws := if_neg (by
    have hb' : (s.copyShown p ws).dev.snapBusy = false := hb
    simp [hb'])
  refine Eq.trans ?_ hfin
  unfold State.copied
  rw [h]
  rfl

theorem State.copied_none {s : State} {p : Nat} (h : (s.snapOf p).copy = none) : s.copied p = s := by
  unfold State.copied
  rw [h]

/-! Every page at one GT (R375). -/

theorem State.each_inv_of_mem {α : Type} {P : State → Prop} {f : State → α → State} {l : List α} (hf : ∀ s, ∀ a ∈ l, P s → P (f s a)) {s : State}
    (h : P s) : P (s.each l f) := by
  induction l generalizing s with
  | nil => exact h
  | cons a r ih => exact ih (fun s b hb => hf s b (List.mem_cons_of_mem _ hb)) (hf s a List.mem_cons_self h)

theorem mem_snapPages {p : Nat} (h : p ∈ snapPages) : p = 2 ∨ p = 8 ∨ p = 9 ∨ (∃ c < 8, p = cluPage c) ∨
    ∃ w < 136, ∃ q ∈ [1, 2, 3, 8, 9, 11], p = winPage w q := by
  unfold snapPages at h
  rcases List.mem_append.mp h with h | h
  · rcases List.mem_append.mp h with h | h
    · simp only [List.mem_cons, List.not_mem_nil, or_false] at h
      tauto
    · obtain ⟨c, hc, rfl⟩ := List.mem_map.mp h
      exact .inr (.inr (.inr (.inl ⟨c, List.mem_range.mp hc, rfl⟩)))
  · obtain ⟨w, hw, h⟩ := List.mem_flatMap.mp h
    obtain ⟨q, hq, rfl⟩ := List.mem_map.mp h
    exact .inr (.inr (.inr (.inr ⟨w, List.mem_range.mp hw, q, hq, rfl⟩)))

theorem State.snapWords_isSome (s : State) {p : Nat} (h : p ∈ snapPages) : (s.snapWords p).isSome = true := by
  rcases mem_snapPages h with rfl | rfl | rfl | ⟨c, hc, rfl⟩ | ⟨w, hw, q, hq, rfl⟩
  · rfl
  · rfl
  · rfl
  · unfold State.snapWords cluPage
    dsimp only
    rw [if_neg (by omega), if_pos (by omega), if_pos (by omega)]
    rfl
  · have hlt : q < 16 := by
      simp only [List.mem_cons, List.not_mem_nil, or_false] at hq
      omega
    unfold State.snapWords winPage
    dsimp only
    rw [if_pos (by omega), if_neg (by omega), show (0x1000 + 16 * w + q) % 16 = q by omega]
    simp only [List.mem_cons, List.not_mem_nil, or_false] at hq
    rcases hq with rfl | rfl | rfl | rfl | rfl | rfl <;> rfl

theorem State.take_keepsCopy {s : State} {q : Nat} (p : Nat) (h : (s.snapOf q).copy.isSome = true) : ((s.take p).snapOf q).copy.isSome = true := by
  rw [State.snapOf_take, if_neg fun hp => ?_]
  · exact h
  · rw [← hp.1, hp.2] at h
    exact Bool.false_ne_true h

theorem State.take_copies {p : Nat} (hp : p ∈ snapPages) (s : State) : ((s.take p).snapOf p).copy.isSome = true := by
  rw [State.snapOf_take]
  by_cases h : (s.snapOf p).copy = none
  · rw [if_pos ⟨rfl, h⟩]
    obtain ⟨ws, hws⟩ := Option.isSome_iff_exists.mp ((s.settled p).snapWords_isSome hp)
    rw [hws]
    rfl
  · rw [if_neg fun hp => h hp.2]
    exact Option.isSome_iff_ne_none.mpr h

/-- The state without snapshots in progress and WAITS, and without the count of free values drawn. -/
def State.unsnapped (s : State) : State := { s with snapSt := [], mem := { s.mem with conflict := [] }, freeN := 0 }

theorem State.unsnapped_settled {s : State} {p : Nat} (h : 0x1000 ≤ p → p % 16 = 1 → s.noJumpDue ((p - 0x1000) / 16) = true) :
    (s.settled p).unsnapped = s.unsnapped := by
  by_cases h9 : p = 9
  · subst h9
    rfl
  · rw [State.settled_eq_of_quiet h9 h]

theorem State.unsnapped_take {s : State} {p : Nat} (h : 0x1000 ≤ p → p % 16 = 1 → s.noJumpDue ((p - 0x1000) / 16) = true) :
    (s.take p).unsnapped = s.unsnapped := by
  cases hc : (s.snapOf p).copy with
  | some c => rw [State.take_merged (by simp [hc])]
  | none =>
    cases hw : (s.settled p).snapWords p with
    | none => rw [State.take_bare hc hw, State.unsnapped_settled h]
    | some ws =>
      rw [State.take_starts hc hw]
      exact State.unsnapped_settled h

theorem State.unsnapped_takes {s : State} (h : ∀ w < 136, s.noJumpDue w = true) : (s.each snapPages State.take).unsnapped = s.unsnapped := by
  refine State.each_inv_of_mem (P := fun t => t.unsnapped = s.unsnapped) (fun t p hp ht => ?_) rfl
  refine (State.unsnapped_take fun hp1 _ => ?_).trans ht
  have hw : (p - 0x1000) / 16 < 136 := by
    rcases mem_snapPages hp with rfl | rfl | rfl | ⟨c, hc, rfl⟩ | ⟨w, hw, q, hq, rfl⟩
    · omega
    · omega
    · omega
    · unfold cluPage at hp1
      omega
    · simp only [List.mem_cons, List.not_mem_nil, or_false] at hq
      unfold winPage
      omega
  exact (congrArg (·.noJumpDue ((p - 0x1000) / 16)) ht :).trans (h _ hw)

/-- The device-wide snapshot of the instant `t` is in progress. -/
def State.snapMarked (s : State) (t : Nat) : State := s.modDev fun d => { d with snapT := t, snapBusy := true, snapValid := false }

theorem State.snapMarked_dev (s : State) (t : Nat) :
    (s.snapMarked t).dev.snapT = t ∧ (s.snapMarked t).dev.snapBusy = true ∧ (s.snapMarked t).dev.snapValid = false := ⟨rfl, rfl, rfl⟩

theorem State.snapMarked_snapOf (s : State) (t p : Nat) : (s.snapMarked t).snapOf p = s.snapOf p := rfl

theorem State.takeAll_starts {s : State} (h : (s.dev.snapBusy && s.copying) = false) : s.takeAll = (s.each snapPages State.take).snapMarked s.t :=
  if_neg (ne_true_of_eq_false h)

theorem State.takes_copy (s : State) {p : Nat} (hp : p ∈ snapPages) : ((s.each snapPages State.take).snapOf p).copy.isSome = true :=
  State.each_reaches (P := fun _ => True) (Q := fun t => (t.snapOf p).copy.isSome = true) hp (fun _ _ _ => trivial)
    (fun _ q h => State.take_keepsCopy q h) (fun t _ => State.take_copies hp t) trivial

/-- What differs in snapshots, WAITS and the draws alone does so still once the device-wide snapshot shows. -/
theorem State.snapMarked_frame {s u : State} (h : u.unsnapped = s.unsnapped) (t : Nat) : u.snapMarked t =
    { s with snapSt := (u.snapMarked t).snapSt, dev := (u.snapMarked t).dev, mem := { s.mem with conflict := (u.snapMarked t).mem.conflict },
             freeN := (u.snapMarked t).freeN } :=
  (congrArg (fun v : State => { v with
    snapSt := u.snapSt, freeN := u.freeN, mem := { v.mem with conflict := u.mem.conflict }, dev := (u.snapMarked t).dev }) h :)

/-- Settles O43: a write reaches one register or none, PG_EVT clears bit by bit, and a snapshot is the counters of its instant. -/
theorem registerWritesAndSnapshots : Obligations.RegisterWritesAndSnapshots := by
  unfold Obligations.RegisterWritesAndSnapshots
  refine ⟨⟨fun s dt w addr size data r => ?_, fun s dt addr size data => ?_, fun s dt page mask => ?_⟩,
    fun s dt page ws => ?_, fun s dt page => ?_, fun s dt => ?_⟩
  · intro a x p hp ht hr hm hs ha
    have hw := w.isLt
    have hmode : ∀ v < 136, p = winPage v 0 → x % 0x1000 = 0x040 → size ≠ 4 := by
      unfold winPage at *
      omega
    have hbc : ∀ c < 8, p = cluPage c → x % 0x1000 = 0x048 → size ≠ 8 := by
      unfold winPage cluPage at *
      omega
    obtain ⟨v, hv, hdata⟩ := State.regWriteAt_ordinary (data := data) ht hmode hbc
    obtain rfl := hdata (by omega)
    have h80 : p ≠ 0x80 ∧ p ≠ 0x81 := by
      unfold winPage at hp
      omega
    have hlt : (if size = 4 then v.toNat % 2 ^ 32 else v.toNat) < 2 ^ 64 := by
      have := v.isLt
      split
      · exact Nat.lt_of_lt_of_le (Nat.mod_lt _ (by decide)) (by decide)
      · exact this
    have he := hv.trans ((State.bar0Write_covers h80.1 h80.2 hr hs ha).trans (State.regAct_plain w _ hp))
    exact ⟨_, congrArg Host.Outcome.next he, State.writePlain_stores hr hm hlt⟩
  · intro a x p h80 h81 ht h
    have hmode : ∀ v < 136, p = winPage v 0 → x % 0x1000 = 0x040 → size ≠ 4 := by
      rintro v hv hp ho rfl
      obtain ⟨r, hr, hs⟩ := regAt_modeCmd hv hp ho
      exact (h r hr).elim (fun h => h hs) fun h => h (by omega)
    have hbc : ∀ c < 8, p = cluPage c → x % 0x1000 = 0x048 → size ≠ 8 := by
      rintro c hc hp ho rfl
      obtain ⟨r, hr, hs⟩ := regAt_bcast hc hp ho
      exact (h r hr).elim (fun h => h hs) fun h => h (by omega)
    obtain ⟨v, hv, -⟩ := State.regWriteAt_ordinary (data := data) ht hmode hbc
    exact congrArg Host.Outcome.next (hv.trans (State.bar0Write_lost h80 h81 h))
  · intro a ht he
    refine ⟨a.clearEvt page.val mask, State.next_hostWrite ht (if_pos he), fun k => ?_, fun p hp => a.evtBits_unlatch_other hp _, rfl⟩
    refine (a.evtBits_unlatch page.val _ k.isLt).trans ?_
    simp [Bool.not_and]
  · intro a ht hw
    refine ⟨fun hc => ?_, fun hc => State.next_hostWrite ht (State.take_merged hc)⟩
    have hstart := State.take_starts hc hw
    have hsnap := fun q => a.snapOf_take page.val q
    have hself := (hsnap page.val).trans (if_pos ⟨rfl, hc⟩)
    rw [hw, Option.map_some, Option.getD_some] at hself
    refine ⟨_, State.next_hostWrite ht rfl, (congrArg SnapSt.valid hself :), (congrArg SnapSt.copy hself :), (congrArg SnapSt.seq hself :),
      fun q hq => (hsnap q).trans (if_neg fun h => hq h.1.symm), ?_, fun h9 hj => ?_⟩
    · rw [hstart]
    · have hquiet : a.settled page.val = a := State.settled_eq_of_quiet h9 fun hp h1 =>
        hj ⟨(page.val - 0x1000) / 16, State.window_of_snapWords hw hp⟩
          (show page.val = 0x1000 + 16 * ((page.val - 0x1000) / 16) + 1 by omega)
      rw [hstart, hquiet]
  · intro a
    refine ⟨fun h => congrArg Host.Outcome.next (State.copied_none h), fun ws h hn hb => ?_⟩
    exact ⟨_, congrArg Host.Outcome.next (State.copied_ends h hb), a.copyShown_snapOf page.val ws, fun x v hv => (Tab.get_snaps hn a.snaps x).1 v hv,
      fun x hx => (Tab.get_snaps hn a.snaps x).2 hx, a.copyShown_frame page.val ws⟩
  · intro a ht
    refine ⟨fun h => State.next_hostWrite ht (if_pos h), fun h => ?_⟩
    have hframe : (∀ w : WinId, a.noJumpDue w = true) → (a.each snapPages State.take).unsnapped = a.unsnapped :=
      fun hj => State.unsnapped_takes fun w hw => hj ⟨w, hw⟩
    have hcopies := fun p (hp : p ∈ snapPages) => a.takes_copy hp
    have he : exec (.snapAll dt) s = .next _ := State.next_hostWrite ht (State.takeAll_starts h)
    generalize a.each snapPages State.take = u at *
    obtain ⟨hT, hB, hV⟩ := u.snapMarked_dev a.t
    exact ⟨_, he, hT, hB, hV, fun p hp => (congrArg (·.copy.isSome) (u.snapMarked_snapOf a.t p)).trans (hcopies p hp),
      fun hj => State.snapMarked_frame (hframe hj) a.t⟩

end Sys2Proof.Machine

namespace Sys2Proof.Machine

/-! ### A routed stop is refused at a window that is being exchanged (O57) -/

/-- A serviceable part whose window 0 is in ARMED and takes part in its cluster's SWAP (R195); SYN.STOP_MASK selects it, and a stop is due. -/
def exchangedAtStop : State :=
  { State.reset with
    gtRun := true, t := 1000, now := 1000, dev := { porLow := false, bringup := 5 }
    regs := [(pageAddr 3 0x090, 1)], syn := { stops := [1000] }
    wins := [(0, { md := { mode := .armed } })], clus := [(0, { swapping := some 0 })] }

/-- No edge, start or landing stands before the stop; its delivery begins no transition of window 0. -/
theorem exchangedAtStop_delivery :
    (let a := exchangedAtStop.advance 0
     a.noEdgeDue = true ∧ a.syn.items = [] ∧ a.syn.starts = [] ∧ a.syn.stops = [1000] ∧ 1000 ≤ a.t ∧
       0 ∈ a.maskPins 0x090 ∧ a.mode 0 = .armed ∧ (a.md 0).trans = none ∧ a.modeHeld 0 = false ∧ a.noneFirst 0 = true) ∧
    ((exchangedAtStop.advance 0).deliverStops.md 0).trans = none := ⟨by decide +kernel, by decide +kernel⟩

/-- Refutes O57: a routed stop acts as a STOP (R349), and a window that takes part in its cluster's SWAP refuses a STOP with BUSY (R190, R195); the
statement has a stop begin the transition to READY at every ARMED window of SYN.STOP_MASK that has no transition and no reset in progress, and
does not ask that no exchange be in progress there. -/
theorem not_triggersAndRouters : ¬ Obligations.TriggersAndRouters := by
  unfold Obligations.TriggersAndRouters
  intro h
  obtain ⟨-, -, -, -, h⟩ := h
  obtain ⟨⟨hedge, hitems, hstarts, hstops, hdue, hmask, hmode, htrans, hheld, hfirst⟩, hnone⟩ := exchangedAtStop_delivery
  have hlater : ∀ x ∈ (exchangedAtStop.advance 0).syn.starts, (exchangedAtStop.advance 0).t < x := by simp [hstarts]
  obtain ⟨-, -, hstop, -⟩ := h exchangedAtStop 0 1000 hedge (by simp [hitems])
  obtain ⟨t, he, -, -, harmed, -⟩ := hstop hlater hstops hdue
  obtain ⟨hbegan, -⟩ := harmed 0 hmask hmode htrans hheld hfirst
  rw [← Host.Outcome.next.inj ((rfl : exec (.stopDelivery 0) exchangedAtStop = .next _).symm.trans he), hnone] at hbegan
  exact absurd hbegan (by simp)

/-! ### A frame to be forwarded keeps the SYNC it came with (O58) -/

/-- A serviceable part on an enabled link of two parts, at position 0, that has a frame without the SYNC pattern to forward on transmitter 0. -/
def forwardingNoSync : State :=
  { State.reset with
    gtRun := true, t := 3200, now := 3200, dev := { porLow := false, bringup := 5 }
    regs := [(pageAddr 3 0x100, 9)], syn := { fwd := [(0, 0)] } }

/-- The frame slot is due, and the frame that it sends there is not good: its SYNC reads 0. -/
theorem forwardingNoSync_slot :
    (forwardingNoSync.advance 0).noEdgeDue = true ∧ (forwardingNoSync.advance 0).slotDue 0 = true ∧ (forwardingNoSync.advance 0).out = [] ∧
    ∃ f, ((forwardingNoSync.advance 0).frameSlot 0).out = [.frame 0 f] ∧ frameOk f = false :=
  ⟨by decide +kernel, by decide +kernel, rfl, (forwardingNoSync.advance 0).sealFrame 0, by decide +kernel, by decide +kernel⟩

/-- Refutes O58: a frame slot seals what waits to be forwarded with REACT, FLAG and CRC and leaves its SYNC as it stands (R352, R353), so a state whose
queue holds a frame without the SYNC pattern sends a frame that is not good; the statement, which is about every state, has each frame sent good. -/
theorem not_nywenFrames : ¬ Obligations.NywenFrames := by
  unfold Obligations.NywenFrames
  intro h
  obtain ⟨h, -⟩ := h
  obtain ⟨hedge, hdue, hout, f, hsent, hbad⟩ := forwardingNoSync_slot
  obtain ⟨-, -, -, h⟩ := h forwardingNoSync 0 0 hedge
  obtain ⟨t, g, he, hg, -, -, hok, -⟩ := h hdue
  rw [← Host.Outcome.next.inj ((rfl : exec (.nywenFrameSlot 0 0) forwardingNoSync = .next _).symm.trans he)] at hg
  have hframe : [Out.frame 0 f] = [Out.frame 0 g] := (hsent.symm.trans hg).trans (congrArg (· ++ [.frame 0 g]) hout)
  have hfg : f = g := by simpa using hframe
  rw [hfg, hok] at hbad
  exact absurd hbad (by decide)

end Sys2Proof.Machine

namespace Sys2Proof.Machine

/-! ### Nywen deliveries, lock and alignment (O59)

Jump requests concern the sequencer they reach alone (R97, R354). -/

theorem State.win_raiseSeq (s : State) (w code t v : Nat) : (s.raiseSeq w code t).win v = s.win v :=
  State.win_at_of_calm (s.calm_raiseSeq ..) v

theorem State.win_perr_ne {w v : Nat} (hv : v ≠ w) (s : State) (code : Nat) (sh : Shelf) (t : Nat) : (s.perr w code sh t).win v = s.win v := by
  unfold State.perr
  set s1 := s.modPl w fun p => { p with perrCode := code, perrCount := satInc 255 p.perrCount, perrShelf := sh, perrSeq := p.perrSeq + 1 }
  have h1 : s1.win v = s.win v := (s.modWin_onlyWin ..).2 v hv
  exact (State.win_at_of_calm (State.calm_raiseSeg ..) v).trans h1

theorem State.win_jumpArrive_ne {w v : Nat} (hv : v ≠ w) (s : State) (k t : Nat) : (s.jumpArrive w k t).win v = s.win v := by
  unfold State.jumpArrive
  extract_lets q
  split
  · rfl
  split
  · exact (s.jumpDrop_counts w t).2.2.2 v hv
  split
  · exact (State.win_raiseSeq ..).trans (State.win_perr_ne hv ..)
  split
  · exact (s.jumpDrop_counts w t).2.2.2 v hv
  · exact (s.modWin_onlyWin ..).2 v hv

theorem State.win_jumpDue_ne {w v : Nat} (hv : v ≠ w) (s : State) : (s.jumpDue w).win v = s.win v := by
  unfold State.jumpDue
  extract_lets due
  split
  · rfl
  · exact (State.each_proj (·.win v) _ _ fun s r => s.win_jumpArrive_ne hv ..).trans ((s.modWin_onlyWin ..).2 v hv)

theorem State.win_jumpRequest_ne {w v : Nat} (hv : v ≠ w) (s : State) (k t : Nat) : (s.jumpRequest w k t).win v = s.win v := by
  unfold State.jumpRequest
  split
  · exact (State.win_jumpArrive_ne hv ..).trans (s.win_jumpDue_ne hv)
  · exact (s.modWin_onlyWin ..).2 v hv

theorem State.unposted_jumpRequest (s : State) (w k t : Nat) : (s.jumpRequest w k t).unposted = s.unposted := by
  unfold State.jumpRequest
  split
  · exact (State.unposted_jumpArrive ..).trans (s.unposted_jumpDue w)
  · exact s.unposted_modWin ..

/-- A jump of a link channel leaves the link's state and every window that the channel's pin mask does not select (R354). -/
theorem State.jumpPins_spec (s : State) (j slot t : Nat) : (s.jumpPins j slot t).syn = s.syn ∧
    ∀ w, w ∉ s.maskPins (0x180 + 0x10 * j) → (s.jumpPins j slot t).win w = s.win w := by
  refine ⟨(congrArg State.syn (State.each_proj State.unposted s _ fun s w => s.unposted_jumpRequest w slot t) :), fun w hw => ?_⟩
  exact State.each_inv_of_mem (P := fun u => u.win w = s.win w)
    (fun u v hv hu => (State.win_jumpRequest_ne (fun h : w = v => hw (h ▸ hv)) u slot t).trans hu) rfl

/-! An event of the link is delivered (R354). -/

/-- The effect of an item that is delivered (R348, R349, R354, R355). -/
def State.itemArrives (s : State) (x : NywItem) : State :=
  match x.kind with
  | 3 => s.startItem x
  | 4 => if bits (s.dreg 3 0x074) 0 2 = 3 then s.acceptStopEvent x.at_ (some x.at_) else s
  | 5 => s.jumpPins x.idx x.val x.at_
  | 9 =>
    let v := decide (x.val = 1)
    (s.modSyn fun y => { y with lanesIn := putBit y.lanesIn x.idx v }).routesTake (fun _ r => bits r 0 2 = 3 && bits r 4 3 = x.idx) v x.org
  | _ => s.modSyn fun y => { y with flagsIn := putBit y.flagsIn x.idx (decide (x.val = 1)) }

section
variable {s : State} {n : Nat} {x : NywItem} {rest : List NywItem} (he : s.noEdgeDue = true)
include he

theorem State.deliver_none (h : takeItem s.syn.items n = none) : s.deliver n = s := by
  rw [State.deliver, State.linkDue_none he, h]

variable (hx : takeItem s.syn.items n = some (x, rest))
include hx

theorem State.deliver_early (ht : s.t < x.at_) : s.deliver n = s := by
  rw [State.deliver, State.linkDue_none he, hx]
  exact if_pos ht

variable (ht : x.at_ ≤ s.t)
include ht

theorem State.deliver_lost (h : s.itemTaken x = false) : s.deliver n = s.modSyn fun y => { y with items := rest } := by
  rw [State.deliver, State.linkDue_none he, hx]
  exact (if_neg (Nat.not_lt.mpr ht)).trans (if_pos (congrArg (! ·) h))

theorem State.deliver_taken (h : s.itemTaken x = true) : s.deliver n = (s.modSyn fun y => { y with items := rest }).itemArrives x := by
  have hn : ¬ (!(s.modSyn fun y => { y with items := rest }).itemTaken x) = true := by
    rw [show (s.modSyn fun y => { y with items := rest }).itemTaken x = s.itemTaken x from rfl, h]
    decide
  rw [State.deliver, State.linkDue_none he, hx]
  exact (if_neg (Nat.not_lt.mpr ht)).trans (if_neg hn)

end

/-- A STAR_OUT pulse is no event of the routers and no frame. -/
theorem State.starPulse_queues (s : State) (out g : Nat) : let t := s.starPulse out g
    (t.syn.starts = s.syn.starts ∧ t.syn.startSeq = s.syn.startSeq) ∧ (t.syn.stops = s.syn.stops ∧ t.syn.stopSeq = s.syn.stopSeq) ∧
      t.syn.own = s.syn.own := by
  unfold State.starPulse
  split <;> exact ⟨⟨rfl, rfl⟩, ⟨rfl, rfl⟩, rfl⟩

/-- A start of the link joins those that wait, with no frame of its own (R348). -/
theorem State.acceptStart_linked {s : State} {te : Nat} (h : s.syn.startCyc ≠ some (te / 256)) : let t := s.acceptStart te (some te)
    t.syn.starts = insertTime te s.syn.starts ∧ t.syn.startSeq = s.syn.startSeq + 1 ∧ t.syn.own = s.syn.own := by
  intro t
  have ht : t = ((s.modSyn fun y => { y with
      startCyc := some (te / 256), startSeq := y.startSeq + 1, starts := insertTime te y.starts }).latch 3 5).starPulse 1 te :=
    (if_neg h).trans (if_neg (by simp))
  rw [ht]
  obtain ⟨⟨hstarts, hseq⟩, -, hown⟩ := State.starPulse_queues _ 1 te
  exact ⟨hstarts, hseq, hown⟩

/-- A stop of the link joins those that wait, with no frame of its own (R349). -/
theorem State.acceptStopEvent_linked {s : State} {te : Nat} (h : s.syn.stopCyc ≠ some (te / 256)) : let t := s.acceptStopEvent te (some te)
    t.syn.stops = insertTime te s.syn.stops ∧ t.syn.stopSeq = s.syn.stopSeq + 1 ∧ t.syn.own = s.syn.own := by
  intro t
  have ht : t = ((s.modSyn fun y => { y with
      stopCyc := some (te / 256), stopSeq := y.stopSeq + 1, stops := insertTime te y.stops }).latch 3 6).starPulse 2 te :=
    (if_neg h).trans (if_neg (by simp))
  rw [ht]
  obtain ⟨-, ⟨hstops, hseq⟩, hown⟩ := State.starPulse_queues _ 2 te
  exact ⟨hstops, hseq, hown⟩

/-- The state without its windows. -/
def State.unwindowed (s : State) : State := { s with wins := [] }

theorem State.eq_of_unwindowed {s t : State} (h : t.unwindowed = s.unwindowed) : t = { s with wins := t.wins } :=
  (congrArg (fun u : State => { u with wins := t.wins }) h :)

/-- A lane's value reaches the lanes received and, along its routes, the windows (R355). -/
theorem State.laneArrives_spec (s : State) {x : NywItem} (h : x.kind = 9) : let t := s.itemArrives x
    t.syn = { s.syn with lanesIn := putBit s.syn.lanesIn x.idx (decide (x.val = 1)) } ∧ t = { s with syn := t.syn, wins := t.wins } := by
  intro t
  have ht : t = (s.modSyn fun y => { y with lanesIn := putBit y.lanesIn x.idx (decide (x.val = 1)) }).routesTake
      (fun _ r => bits r 0 2 = 3 && bits r 4 3 = x.idx) (decide (x.val = 1)) x.org := by
    dsimp only [t, State.itemArrives]
    rw [h]
    rfl
  have hsyn : t.syn = { s.syn with lanesIn := putBit s.syn.lanesIn x.idx (decide (x.val = 1)) } := by
    rw [ht]
    exact State.routesTake_proj (g := State.syn) (fun _ _ _ => rfl) ..
  have hall : t = { s.modSyn fun y => { y with lanesIn := putBit y.lanesIn x.idx (decide (x.val = 1)) } with wins := t.wins } := by
    rw [ht]
    exact State.eq_of_unwindowed (State.routesTake_proj (g := State.unwindowed) (fun _ _ _ => rfl) ..)
  refine ⟨hsyn, hall.trans ?_⟩
  rw [hsyn]
  rfl

section
variable {s : State} {x : NywItem}

theorem State.flagArrives (h : x.kind = 10) :
    s.itemArrives x = s.modSyn fun y => { y with flagsIn := putBit y.flagsIn x.idx (decide (x.val = 1)) } := by
  rw [State.itemArrives, h]
  rfl

theorem State.jumpArrives (h : x.kind = 5) : s.itemArrives x = s.jumpPins x.idx x.val x.at_ := by
  rw [State.itemArrives, h]
  rfl

theorem State.startArrives_ignored (h : x.kind = 3) (hsrc : bits (s.dreg 3 0x070) 0 2 ≠ 3) : s.itemArrives x = s := by
  rw [State.itemArrives, h]
  exact if_neg (by simp [hsrc])

theorem State.startArrives_taken (h : x.kind = 3) (hsrc : bits (s.dreg 3 0x070) 0 2 = 3) (ht : s.itemTaken x = true) :
    s.itemArrives x = s.acceptStart x.at_ (some x.at_) := by
  rw [State.itemArrives, h]
  exact if_pos (by simp [hsrc, ht])

theorem State.stopArrives_ignored (h : x.kind = 4) (hsrc : bits (s.dreg 3 0x074) 0 2 ≠ 3) : s.itemArrives x = s := by
  rw [State.itemArrives, h]
  exact if_neg hsrc

theorem State.stopArrives_taken (h : x.kind = 4) (hsrc : bits (s.dreg 3 0x074) 0 2 = 3) :
    s.itemArrives x = s.acceptStopEvent x.at_ (some x.at_) := by
  rw [State.itemArrives, h]
  exact if_pos hsrc

end

/-! Lock (R351, R359). -/

theorem State.lockRx_waits {s : State} {rx : Nat} (he : s.noEdgeDue = true) (h : s.nywEn = false ∨ s.nywParts = 1 ∨ s.seenGood rx = false) :
    s.lockRx rx = s := by
  rw [State.lockRx, State.linkDue_none he]
  exact if_pos (by rcases h with h | h | h <;> simp [h])

/-- A receiver that has seen its good frames locks; with both locked, NYWEN_LOSS and a RETRAIN end. -/
theorem State.lockRx_locks {s : State} {rx : Nat} (he : s.noEdgeDue = true) (hen : s.nywEn = true) (hp : s.nywParts ≠ 1) (hg : s.seenGood rx = true) :
    let t := s.lockRx rx
    t.syn.lock = putBit s.syn.lock rx true ∧ t.wins = s.wins ∧ t.regs = s.regs ∧
      (putBit s.syn.lock rx true = 3 → t.syn.retraining = false ∧ 0 ∉ (t.src (devSrc 3 0)).causes) := by
  intro t
  have ht : t = s.lockRx rx := rfl
  rw [State.lockRx, State.linkDue_none he] at ht
  replace ht := ht.trans (if_neg (by simp [hen, hp, hg]))
  extract_lets s1 s2 at ht
  have hlock : s1.syn.lock = putBit s.syn.lock rx true := rfl
  by_cases h3 : s1.syn.lock = 3
  · rw [if_neg (not_not_intro h3)] at ht
    have hcalm : s2.calm = s1.calm := State.calm_endCond ..
    have hsyn : s2.syn = s1.syn := State.syn_of_calm hcalm
    have hwins : s2.wins = s1.wins := State.wins_of_calm hcalm
    have hregs : s2.regs = s1.regs := State.regs_of_calm hcalm
    have hno : 0 ∉ (s2.src (devSrc 3 0)).causes := by
      rw [s1.causes_endCond]
      simp
    by_cases hr : s2.syn.retraining = true
    · rw [if_pos hr] at ht
      rw [ht]
      exact ⟨(congrArg SynSt.lock hsyn).trans hlock, hwins, hregs, fun _ => ⟨rfl, hno⟩⟩
    · rw [if_neg hr] at ht
      rw [ht]
      exact ⟨(congrArg SynSt.lock hsyn).trans hlock, hwins, hregs, fun _ => ⟨by simpa using hr, hno⟩⟩
  · rw [if_pos h3] at ht
    rw [ht]
    exact ⟨hlock, rfl, rfl, fun h => absurd (hlock.trans h) h3⟩

/-- The link's fall clears what it carried, and puts INIT on the routes: of the windows, nothing but reaction inputs (R359). -/
theorem State.linkDown_spec (s : State) : let t := s.linkDown
    t.syn = { s.syn with lanesIn := 0, flagsIn := 0, lanesSeen := 0, flagsSeen := 0 } ∧ t = { s with syn := t.syn, wins := t.wins } ∧
      ∀ w, t.mode w = s.mode w := by
  intro t
  have hproj : ∀ {β : Type} (g : State → β), (∀ (s : State) (w : Nat) (f : FabSt → FabSt), g (s.modFb w f) = g s) → ∀ s : State, g s.routesInit = g s :=
    fun g hg s => State.each_proj g s _ fun s _ => State.each_proj g s _ fun s _ => hg s ..
  have hsyn : t.syn = { s.syn with lanesIn := 0, flagsIn := 0, lanesSeen := 0, flagsSeen := 0 } := hproj State.syn (fun _ _ _ => rfl) _
  refine ⟨hsyn, ?_, fun w => hproj (·.mode w) (fun s v f => ?_) _⟩
  · rw [hsyn]
    exact State.eq_of_unwindowed (hproj State.unwindowed (fun _ _ _ => rfl) _)
  · unfold State.mode State.md State.modFb
    rw [State.win_modWin]
    split
    · next h => rw [h]
    · rfl

/-- What a receiver that loses its lock leaves of the link: lanes and flags as they were while the other holds, and false with none locked. -/
structure LosesLock (s t : State) (rx : Nat) : Prop where
  lock : t.syn.lock = putBit s.syn.lock rx false
  other : putBit s.syn.lock rx false ≠ 0 → t.syn.lanesIn = s.syn.lanesIn ∧ t.syn.flagsIn = s.syn.flagsIn ∧ t.wins = s.wins
  none : putBit s.syn.lock rx false = 0 → t.syn.lanesIn = 0 ∧ t.syn.flagsIn = 0
  traffic : t.syn.items = s.syn.items ∧ t.syn.fwd = s.syn.fwd ∧ t.syn.own = s.syn.own
  reports : Reports s t (devSrc 3 0) 0 2
  calm : t.calm = { s.calm with syn := t.syn, wins := t.wins }
  mode : ∀ w, t.mode w = s.mode w

theorem State.dropRx_losesLock (s : State) (rx : Nat) : LosesLock s (s.dropRx rx) rx := by
  unfold State.dropRx
  extract_lets s1
  obtain ⟨hcalm, hrep⟩ := (s.modSyn fun y => { y with
    lock := putBit y.lock rx false, good := if rx = 0 then (0, y.good.2) else (y.good.1, 0) }).raiseDev_reports 3 0 0 (native := 2) (by decide)
  have hrep1 : Reports s s1 (devSrc 3 0) 0 2 := hrep.of_same rfl rfl rfl
  have hsyn : s1.syn = { s.syn with lock := putBit s.syn.lock rx false, good := if rx = 0 then (0, s.syn.good.2) else (s.syn.good.1, 0) } :=
    State.syn_of_calm hcalm
  have hwins : s1.wins = s.wins := (State.wins_of_calm hcalm).trans rfl
  have hcalm1 : s1.calm = { s.calm with syn := s1.syn, wins := s1.wins } := by
    rw [hsyn, hwins]
    exact hcalm
  have hmode : ∀ w, s1.mode w = s.mode w := fun w => congrArg (fun x => (Tab.get {} x w).md.mode) hwins
  clear_value s1
  split
  · next h =>
    have h0 : putBit s.syn.lock rx false = 0 := by rwa [hsyn] at h
    obtain ⟨hdsyn, hdown, hdmode⟩ := s1.linkDown_spec
    generalize s1.linkDown = t at *
    refine ⟨?_, fun hn => absurd h0 hn, fun _ => ?_, ?_, ?_, ?_, fun w => (hdmode w).trans (hmode w)⟩
    · rw [hdsyn, hsyn]
    · rw [hdsyn]
      exact ⟨rfl, rfl⟩
    · rw [hdsyn, hsyn]
      exact ⟨rfl, rfl, rfl⟩
    · rw [hdown]
      exact hrep1
    · exact (congrArg State.calm hdown).trans (congrArg (fun u : State => { u with syn := t.syn, wins := t.wins }) hcalm1)
  · next h =>
    have h0 : putBit s.syn.lock rx false ≠ 0 := by rwa [hsyn] at h
    refine ⟨?_, fun _ => ?_, fun hz => absurd hz h0, ?_, hrep1, hcalm1, hmode⟩
    · rw [hsyn]
    · rw [hsyn]
      exact ⟨rfl, rfl, hwins⟩
    · rw [hsyn]
      exact ⟨rfl, rfl, rfl⟩

theorem State.loseRx_holds {s : State} {rx : Nat} (he : s.noEdgeDue = true) (h : s.syn.lock.getLsbD rx = false ∨ s.seenBad rx = false) :
    s.loseRx rx = s := by
  rw [State.loseRx, State.linkDue_none he]
  exact if_pos (by rcases h with h | h <;> simp [h])

theorem State.loseRx_drops {s : State} {rx : Nat} (he : s.noEdgeDue = true) (hl : s.syn.lock.getLsbD rx = true) (hb : s.seenBad rx = true) :
    s.loseRx rx = s.dropRx rx := by
  rw [State.loseRx, State.linkDue_none he]
  exact if_neg (by simp [hl, hb])

/-! ALIGN, RETRAIN and jumps (R354, R357). -/

/-- The reason for which ALIGN is refused: MASTER 1, NO_LINK 2, WINDOWS 3; 0 where it is not (R357). -/
def State.alignFault (s : State) : Nat :=
  if s.nywPos = 0 then 1 else if s.nywEn = false ∨ s.syn.lock.getLsbD (s.nearRx 0) = false then 2
    else if s.anyActive = true then 3 else 0

/-- The state after an ALIGN has stepped GT by `d`, before its result is posted (R357). -/
def State.gtStepped (s : State) (d : Int) : State :=
  let t' := (((s.t : Int) + d) % ((2 ^ 80 : Nat) : Int)).toNat
  ({ s with t := if s.gtRun then t' else s.t }.modRef fun r => { r with
    aligned := true, alignT := gtOf t', alignStep := BitVec.ofInt 64 d }).modSyn fun y => { y with
      dev := if y.devAll.isSome then 0 else y.dev, devAll := y.devAll.map fun _ => 0 }

theorem State.alignGt_eq (s : State) (offset : Int) :
    s.alignGt offset = if s.alignFault = 0 then (s.gtStepped (s.alignBy offset)).nywPost 1 0 else s.nywPost 2 s.alignFault := by
  unfold State.alignGt State.alignFault
  by_cases hp : s.nywPos = 0
  · simp [hp]
  by_cases hl : s.nywEn = false ∨ s.syn.lock.getLsbD (s.nearRx 0) = false
  · have hl' : (!s.nywEn || !s.syn.lock.getLsbD (s.nearRx 0)) = true := by simpa using hl
    rw [if_neg hp, if_neg hp, if_pos hl', if_pos hl]
    rfl
  have hl' : ¬ (!s.nywEn || !s.syn.lock.getLsbD (s.nearRx 0)) = true := by simpa using hl
  rw [if_neg hp, if_neg hp, if_neg hl', if_neg hl]
  by_cases ha : s.anyActive = true
  · rw [if_pos ha]
    exact if_pos ha
  · rw [if_neg ha]
    exact if_neg ha

theorem toNat_emod_two_pow (x : Int) (n : Nat) : ((x % ((2 ^ n : Nat) : Int)).toNat : Int) = x % 2 ^ n := by
  have hpos : (0 : Int) < ((2 ^ n : Nat) : Int) := by exact_mod_cast Nat.two_pow_pos n
  rw [Int.toNat_of_nonneg (Int.emod_nonneg _ hpos.ne'), Nat.cast_pow]
  rfl

theorem State.gtStepped_t (s : State) (d : Int) :
    (s.gtRun = true → ((s.gtStepped d).t : Int) = ((s.t : Int) + d) % 2 ^ 80) ∧ (s.gtRun = false → (s.gtStepped d).t = s.t) := by
  refine ⟨fun h => ?_, fun h => ?_⟩
  · exact (congrArg Nat.cast (if_pos h : (s.gtStepped d).t = _)).trans (toNat_emod_two_pow _ 80)
  · exact if_neg (by simp [h])

theorem State.dropLocked_spec (s : State) {rx : Nat} (hrx : rx < 2) : let t := if s.syn.lock.getLsbD rx then s.dropRx rx else s
    t.syn.lock = putBit s.syn.lock rx false ∧ t.regs = s.regs := by
  have hclear : ∀ l : BitVec 2, ∀ i < 2, l.getLsbD i = false → l = putBit l i false := by decide
  split
  · exact ⟨(s.dropRx_losesLock rx).lock, (congrArg State.regs (s.dropRx_losesLock rx).calm :)⟩
  · next h => exact ⟨hclear _ rx hrx (by simpa using h), rfl⟩

/-- A RETRAIN on an enabled link of several parts drops both locks and is in progress. -/
theorem State.retrain_drops {s : State} (hen : s.nywEn = true) (hp : s.nywParts ≠ 1) : let t := s.retrain
    t.syn.lock = 0 ∧ t.syn.retraining = true ∧ t.syn.nyw.valid = false ∧ t.regs = s.regs := by
  intro t
  have hboth : ∀ l : BitVec 2, putBit (putBit l 0 false) 1 false = 0 := by decide
  have ht : t = s.retrain := rfl
  unfold State.retrain at ht
  extract_lets drop at ht
  replace ht := ht.trans (if_neg (by simp [hen, hp]))
  obtain ⟨hlock0, hregs0⟩ : (drop s 0).syn.lock = _ ∧ (drop s 0).regs = _ := s.dropLocked_spec (rx := 0) (by decide)
  obtain ⟨hlock1, hregs1⟩ : (drop (drop s 0) 1).syn.lock = _ ∧ (drop (drop s 0) 1).regs = _ := (drop s 0).dropLocked_spec (rx := 1) (by decide)
  rw [ht]
  refine ⟨?_, rfl, rfl, hregs1.trans hregs0⟩
  rw [hlock0, hboth] at hlock1
  exact hlock1

theorem State.retrain_done {s : State} (h : s.nywEn = false ∨ s.nywParts = 1) : s.retrain = s.nywPost 1 0 :=
  if_pos (by rcases h with h | h <;> simp [h])

/-- The frames of an event of this part on a transmitter (R350). -/
def State.eventFrames (s : State) (kind payload tx : Nat) : List (Nat × BitVec 80) :=
  match s.sendHops tx with | some h => [(tx, mkFrame s.nywPos h kind payload)] | none => []

theorem State.own_sendEvent (s : State) (kind payload : Nat) :
    (s.sendEvent kind payload).syn.own = s.syn.own ++ ([0, 1] : List Nat).flatMap (s.eventFrames kind payload) := by
  rw [List.flatMap_cons, List.flatMap_cons, List.flatMap_nil, List.append_nil, ← List.append_assoc]
  rfl

/-- A host jump on an aligned part is sent, and waits for its own delivery (R354). -/
theorem State.linkJump_sent {s : State} (h : s.nywAligned = true) (j k g : Nat) : let t := s.linkJump j k g
    t.syn.items = insertItem { at_ := g + 20480, own := true, kind := 5, idx := j, val := k, org := g } s.syn.items ∧
    t.syn.own = s.syn.own ++ ([0, 1] : List Nat).flatMap (s.eventFrames 5 (gtOf g % 2 ^ 40 + j * 2 ^ 40 + k * 2 ^ 42)) ∧
    t = { s with syn := t.syn } := by
  intro t
  have ht : t = (s.sendEvent 5 (gtOf g % 2 ^ 40 + j * 2 ^ 40 + k * 2 ^ 42)).modSyn fun y => { y with
      items := insertItem { at_ := g + 20480, own := true, kind := 5, idx := j, val := k, org := g } y.items } := if_pos h
  have hown := s.own_sendEvent 5 (gtOf g % 2 ^ 40 + j * 2 ^ 40 + k * 2 ^ 42)
  generalize gtOf g % 2 ^ 40 + j * 2 ^ 40 + k * 2 ^ 42 = payload at *
  rw [ht]
  exact ⟨rfl, hown, rfl⟩

theorem State.misalign_holds {s : State} (he : s.noEdgeDue = true) {dev : BitVec 16}
    (h : s.nywPos = 0 ∨ s.nywAligned = false ∨ (s.syn.devAll.getD dev.toInt).natAbs ≤ 256) : s.misalign dev = s := by
  rw [State.misalign, State.linkDue_none he]
  exact if_pos (by rcases h with h | h | h <;> simp [h])

theorem State.misalign_clears {s : State} (he : s.noEdgeDue = true) {dev : BitVec 16} (hp : s.nywPos ≠ 0) (ha : s.nywAligned = true)
    (hd : 256 < (s.syn.devAll.getD dev.toInt).natAbs) : let t := s.misalign dev
    Reports s t (devSrc 3 2) 0 2 ∧ t.calm = { s.calm with
      ref := { s.ref with aligned := false }, syn := { s.syn with dev := devOf (s.syn.devAll.getD dev.toInt) } } := by
  have ht : s.misalign dev = ((s.modRef fun r => { r with aligned := false }).modSyn fun y => { y with
      dev := devOf (s.syn.devAll.getD dev.toInt) }).raiseDev 3 2 0 2 := by
    rw [State.misalign, State.linkDue_none he]
    exact if_neg (by simp [hp, ha, hd])
  obtain ⟨hcalm, hrep⟩ := ((s.modRef fun r => { r with aligned := false }).modSyn fun y => { y with
      dev := devOf (s.syn.devAll.getD dev.toInt) }).raiseDev_reports 3 2 0 (native := 2) (by decide)
  rw [ht]
  exact ⟨hrep.of_same rfl rfl rfl, hcalm⟩

/-- Settles O59: of an item that waits, `takeItem` says which it is and `itemArrives` what its delivery does, kind by kind; the lock's losses leave what
`LosesLock` names; ALIGN is refused with `alignFault` or steps GT. -/
theorem nywenDelivery : Obligations.NywenDelivery := by
  unfold Obligations.NywenDelivery
  refine ⟨?_, ?_⟩
  · intro s dt n a y he
    refine ⟨fun h => congrArg Host.Outcome.next (State.deliver_none he h), fun x rest hx => ?_⟩
    refine ⟨fun ht => congrArg Host.Outcome.next (State.deliver_early he hx ht), fun ht hl hk => ?_, fun ht hl => ?_⟩
    · have hlost : a.itemTaken x = false := by rcases hk with hk | hk <;> simp [State.itemTaken, hl, hk]
      exact congrArg Host.Outcome.next (State.deliver_lost he hx ht hlost)
    · have htaken : a.itemTaken x = true := by
        rcases hl with hl | ⟨ho, hk⟩
        · simp [State.itemTaken, hl]
        · simp [State.itemTaken, ho, hk]
      have hexec : exec (.nywenDelivery dt n) s = .next ((a.modSyn fun y => { y with items := rest }).itemArrives x) :=
        congrArg Host.Outcome.next (State.deliver_taken he hx ht htaken)
      refine ⟨fun hk => ?_, fun hk => ?_, fun hk => ?_, fun hk hsrc => ?_, fun hk hsrc hcyc => ?_, fun hk hsrc => ?_, fun hk hsrc hcyc => ?_⟩
      · exact hexec.trans (congrArg Host.Outcome.next (State.flagArrives hk))
      · obtain ⟨hsyn, hrest⟩ := (a.modSyn fun y => { y with items := rest }).laneArrives_spec hk
        exact ⟨_, hexec, hsyn, hrest⟩
      · have hjump := (a.modSyn fun y => { y with items := rest }).jumpPins_spec x.idx x.val x.at_
        rw [← State.jumpArrives hk] at hjump
        exact ⟨_, hexec, hjump⟩
      · exact hexec.trans (congrArg Host.Outcome.next (State.startArrives_ignored hk hsrc))
      · exact ⟨_, hexec.trans (congrArg Host.Outcome.next (State.startArrives_taken hk hsrc htaken)), State.acceptStart_linked hcyc⟩
      · exact hexec.trans (congrArg Host.Outcome.next (State.stopArrives_ignored hk hsrc))
      · exact ⟨_, hexec.trans (congrArg Host.Outcome.next (State.stopArrives_taken hk hsrc)), State.acceptStopEvent_linked hcyc⟩
  · intro s dt a y left he
    refine ⟨fun rx => ?_, fun ht => ⟨fun offset => ?_, fun h => ?_, fun hen hp => ?_, fun ch slot => ⟨fun h => ?_, fun h => ?_⟩⟩, fun dev => ?_⟩
    · intro good bad seenBad
      refine ⟨fun h => ?_, fun hen hp hg => ?_, fun h => ?_, fun hl hb => ?_⟩
      · have hw : a.nywEn = false ∨ a.nywParts = 1 ∨ a.seenGood rx.val = false := h.imp id (Or.imp id fun h => decide_eq_false (Nat.not_le.mpr h))
        exact congrArg Host.Outcome.next (State.lockRx_waits he hw)
      · exact ⟨_, rfl, State.lockRx_locks he hen hp (decide_eq_true hg)⟩
      · exact congrArg Host.Outcome.next (State.loseRx_holds he (h.imp id fun h => decide_eq_false h))
      · obtain ⟨hlock, hother, hnone, ⟨hitems, hfwd, hown⟩, hrep, hcalm, hmode⟩ := a.dropRx_losesLock rx.val
        exact ⟨_, congrArg Host.Outcome.next (State.loseRx_drops he hl (decide_eq_true hb)), hlock, hother, hnone, hitems, hfwd, hown, hrep, hcalm, hmode⟩
    · intro f by_
      have hexec : exec (.align dt offset) s = .next (a.alignGt offset) := State.next_hostWrite ht (by rw [State.linkDue_none he])
      rw [a.alignGt_eq] at hexec
      have hf : a.alignFault = f := rfl
      have hby : a.alignBy offset = by_ := rfl
      rw [hf, hby] at hexec
      refine ⟨fun h => ?_, fun h => ?_⟩
      · exact ⟨_, hexec.trans (congrArg Host.Outcome.next (if_neg h)), rfl, rfl, rfl, rfl, rfl⟩
      · obtain ⟨hrun, hstill⟩ := a.gtStepped_t by_
        exact ⟨_, hexec.trans (congrArg Host.Outcome.next (if_pos h)), rfl, rfl, hrun, hstill, rfl, rfl, rfl, rfl⟩
    · have hexec : exec (.nywRetrain dt) s = .next (a.nywPost 1 0) :=
        State.next_hostWrite ht (by rw [State.linkDue_none he, State.retrain_done h])
      exact ⟨_, hexec, rfl, rfl⟩
    · exact ⟨_, State.next_hostWrite ht (by rw [State.linkDue_none he]), State.retrain_drops hen hp⟩
    · exact ⟨_, State.next_hostWrite ht (by rw [State.linkDue_none he]), State.linkJump_sent h ch.toNat slot.toNat a.t⟩
    · have hjump : a.linkJump ch.toNat slot.toNat a.t = a.jumpPins ch.toNat slot.toNat a.t := if_neg (by simp [h])
      exact ⟨_, State.next_hostWrite ht (by rw [State.linkDue_none he, hjump]), a.jumpPins_spec ..⟩
    · intro d
      exact ⟨fun h => congrArg Host.Outcome.next (State.misalign_holds he h), fun hp ha hd => ⟨_, rfl, State.misalign_clears he hp ha hd⟩⟩

end Sys2Proof.Machine
